-- ==== Sys2Proof/Word.lean ====
section
/-! DEFINITION. Words, masks and bytes (02 R23), and their plainest arithmetic. -/

namespace Sys2Proof

/-- A 32-bit word of a register, a port or an instruction (02 R23). -/
abbrev Word := BitVec 32

/-- One bit for each of the 32 lanes of a warp (02 R12). -/
abbrev Mask := BitVec 32

/-- One byte of memory. -/
abbrev Byte := BitVec 8

/-- One word for each lane; lane `l` at index `l`. -/
abbrev LaneVec := List Word

/-- Bits `hi` down to `lo` of a word, as a number. -/
def Word.bits (w : Word) (hi lo : Nat) : Nat := w.toNat / 2 ^ lo % 2 ^ (hi + 1 - lo)

/-- One bit of a word. -/
def Word.bit (w : Word) (i : Nat) : Bool := w.getLsbD i

/-- A word from a number, modulo 2^32. -/
def w32 (n : Nat) : Word := BitVec.ofNat 32 n

/-- A word from an integer, modulo 2^32. -/
def w32i (n : Int) : Word := BitVec.ofInt 32 n

/-- Bits `hi` down to `lo` of a number. -/
def natBits (n hi lo : Nat) : Nat := n / 2 ^ lo % 2 ^ (hi + 1 - lo)

/-- The word whose `n` low bits hold `x`, sign-extended. -/
def sextNat (n : Nat) (x : Nat) : Word :=
  if x % 2 ^ n < 2 ^ (n - 1) then w32 (x % 2 ^ n) else w32i ((x % 2 ^ n : Nat) - (2 ^ n : Nat) : Int)

/-- A 0 or 1 word. -/
def boolWord (b : Bool) : Word := if b then 1#32 else 0#32

end Sys2Proof
end

