-- ==== Sys2Proof/Config.lean ====
section
/-! DEFINITION. What an implementation fixes and the free values: constants without a body, of which no proof can see
a value. Each is named in the assumption log. -/

namespace Sys2Proof.Config

/-- Which of the deliveries that the spec leaves unordered happens next (log 5): applied to the state's counter of
draws. -/
opaque choice : Nat → Nat

/-- A free word, applied to the state's counter of draws (logs 11, 12, 16 and 41). -/
opaque freeWord : Nat → BitVec 32

/-- A free byte, applied to the state's counter of draws (logs 11 and 12). -/
opaque freeByte : Nat → BitVec 8

/-- Bytes of an SPDM answer that the spec does not give: certificates, nonces, signatures (15 R306; log 13), from the
request code and the byte's index. -/
opaque spdmByte : Nat → Nat → BitVec 8

/-- A byte stored under one memory key and read under another (15 R307; log 12): key generation written, key
generation read, address, byte stored. -/
opaque recrypt : Nat → Nat → Nat → BitVec 8 → BitVec 8

/-- The SM3 hash (15 R305, R306): not defined by the spec's text, so a free function of the bytes (log 13). -/
opaque sm3 : List (BitVec 8) → List (BitVec 8)

/-- The die whose pod link reaches a package, modulo 4 (14 R274; log 68): the spec does not say which. -/
opaque podDie : Nat → Nat

/-- The home slice of a line on its die, modulo 64 (14 R264; log 68): the spec says that lines are spread, and not how. -/
opaque sliceOf : Nat → Nat

/-- The area of a die that firmware reserves for the records of frames' names (15 R295; log 69): its first byte and its length. -/
opaque recordArea : Nat → Nat × Nat

end Sys2Proof.Config
end

