-- ==== Sys2Proof/Syntax.lean ====
section
/-! DEFINITION. The instructions: one constructor of `Instr` for each row of the spec's opcode table. Rows 0 to 210
are moves of a bundle (03 R43); rows 211 to 336 are the part's events, each whole and indivisible. -/

namespace Sys2Proof

/-- The fourteen flag conditions (03 R44), in code order 0x0 to 0xD. -/
inductive Cond where
  | eq | ne | lt | ge | gt | le | ltn | gen | gtn | len | mi | pl | vs | vc
deriving DecidableEq, Repr

/-- A move's guard (03 R44). -/
inductive Guard where
  | flag (c : Cond) (cc : Fin 4)
  | stage (s : Fin 4)
  | always
  | never
  | first
deriving DecidableEq, Repr

/-- The identity registers (02 R26), in source-id order 0x0E9 to 0x0F2. -/
inductive Ident where
  | lane | warp | block | nblk | core | quad | die | pkg | gslot | iter
deriving DecidableEq, Repr

/-- The result ports and flags ports that a move can read (03 R49). -/
inductive ResPort where
  | a0q | a0f | a1q | a1f | f0q | f0f | f1q | f1f | sq | vq | vf | xq | xm | cq
  | ls (j : Fin 4) | lg (j : Fin 4) | lw (j : Fin 4)
  | asq | agq | mxq | cp0q | cp1q | yq | kq | dqq | rlq | evq | smq
deriving DecidableEq, Repr

/-- The operand ports that a move can write without starting anything (03 R50). -/
inductive OpPort where
  | a0a | a1a | f0a | f0b | f1a | f1b | va | xa | ca | lgh | ssm
  | ssd (j : Fin 4)
  | sgh | sgm
  | sgd (j : Fin 4)
  | asa | asb | agh | aga | agb | mxa | mxb | cp0a | cp0b | cp1a | cp1b | ya | ka | sma
deriving DecidableEq, Repr

/-- A move's source (03 R49). -/
inductive Src where
  | g (n : Fin 128)
  | port (p : ResPort)
  | k (n : Fin 32)
  | lat (n : Fin 3)
  | imm (j : Fin 6)
  | ident (i : Ident)
  | cc (n : Fin 4)
  | short (v : BitVec 8)
deriving DecidableEq, Repr

/-- A destination that is not a trigger port (03 R50). -/
inductive Dst where
  | g (n : Fin 128)
  | port (p : OpPort)
  | k (n : Fin 32)
  | cc (n : Fin 4)
deriving DecidableEq, Repr

/-- Which halves of the source word are delivered (03 R46). -/
inductive Half where
  | word | lo | hi | swp
deriving DecidableEq, Repr

/-- What a move does to bit 31 (03 R46). -/
inductive Sign where
  | keep | neg | abs | nabs
deriving DecidableEq, Repr

/-- The modifiers of a move to a non-trigger destination (03 R46). -/
structure Mods where
  try_ : Bool
  pop : Bool
  half : Half
  sign : Sign
deriving DecidableEq, Repr

/-- What every guarded move carries: guard, source and hold code (03 R43, R45). -/
structure Head where
  guard : Guard
  src : Src
  hold : Fin 4
deriving DecidableEq, Repr

/-- The rounding mode of an FP opcode (03 R56): nearest even, toward zero, up, down. -/
inductive Rm where
  | rn | rz | ru | rd
deriving DecidableEq, Repr

/-- The ten scopes (02 R30), in code order. -/
inductive Scope where
  | ln | wp | bk | co | qd | di | tw | pk | pd | sy
deriving DecidableEq, Repr

/-- The seven scope classes of ATG and RED (03 R59), in code order. -/
inductive AtomScope where
  | co | qd | di | tw | pk | pd | sy
deriving DecidableEq, Repr

/-- The width codes of memory triggers (03 R59): 0 to 7. -/
inductive Width where
  | b | bn | h | hn | w | d | q | m
deriving DecidableEq, Repr

/-- The hints of LG.t and SG.t (03 R59). -/
inductive Hint where
  | normal | stream | keep
deriving DecidableEq, Repr

/-- The three load ports (11 R222). -/
inductive LoadPort where
  | ls | lg | lw
deriving DecidableEq, Repr

/-- A thread: a warp slot 0 to 31 of a block, or slot 32, the block's Sluice context (02 R12, R13). Cores are numbered
die x 64 + core. -/
structure Tid where
  core : Nat
  ctx : Nat
  slot : Nat
deriving DecidableEq, Repr

/-- The target of an external event (16 R325). -/
inductive EventTarget where
  | warp (core ctx slot : Nat)
  | sluice (core ctx : Nat)
  | allWarps (core ctx : Nat)
deriving DecidableEq, Repr

/-- The stores of state that a soft error can strike (16 R331): of a thread, the register, latch or port with a number (`Reg.id`) in one lane, a load
queue by its port; from number 1,024 on the k registers of its block. -/
inductive ErrorSite where
  | dram (die addr : Nat)
  | homeCache (die addr : Nat)
  | quadCache (quad key : Nat)
  | l1 (core key : Nat)
  | weightStore (die off : Nat)
  | general (t : Tid) (reg lane : Nat)
  | scratch (core addr : Nat)
  | accumulator (quad row : Nat)
  | plane (quad : Nat)
deriving DecidableEq, Repr

/-- An agent that can be lost and rejoin (16 R333). -/
inductive Agent where
  | quadCache (quad : Nat)
  | die (die : Nat)
deriving DecidableEq, Repr

/-- One constructor for each row of the opcode table, in the table's order. -/
inductive Instr where
  /-- `MOVE` (R52): A move to a non-trigger destination delivers its modified source value into a register, operand port, k register, latch or cc register in each lane whose guard is true. -/
  | move (h : Head) (d : Dst) (m : Mods)
  /-- `ADD` (R153): The ALU sums a and t modulo 2^32 and sets carry and signed overflow. -/
  | add (h : Head) (u : Fin 2)
  /-- `ADC` (R153): The ALU adds a, t and the carry-in from its own unit's C flag. -/
  | adc (h : Head) (u : Fin 2)
  /-- `SUB` (R153): The ALU computes a − t, with C set when there is no borrow. -/
  | sub (h : Head) (u : Fin 2)
  /-- `SBC` (R153): The ALU computes a − t − (1 − cin) from its own carry flag. -/
  | sbc (h : Head) (u : Fin 2)
  /-- `RSB` (R153): The ALU computes the reverse subtraction t − a. -/
  | rsb (h : Head) (u : Fin 2)
  /-- `AND` (R153): The ALU computes the bitwise AND of a and t. -/
  | and (h : Head) (u : Fin 2)
  /-- `OR` (R153): The ALU computes the bitwise OR of a and t. -/
  | or (h : Head) (u : Fin 2)
  /-- `XOR` (R153): The ALU computes the bitwise XOR of a and t. -/
  | xor (h : Head) (u : Fin 2)
  /-- `ANDN` (R153): The ALU computes a AND NOT t. -/
  | andn (h : Head) (u : Fin 2)
  /-- `ORN` (R153): The ALU computes a OR NOT t. -/
  | orn (h : Head) (u : Fin 2)
  /-- `SHL` (R154): The ALU shifts a left by the unsigned count t, giving 0 for counts of 32 or more. -/
  | shl (h : Head) (u : Fin 2)
  /-- `SHR` (R154): The ALU shifts a right by t with zero fill. -/
  | shr (h : Head) (u : Fin 2)
  /-- `SAR` (R154): The ALU shifts a right by t, filling with bit 31. -/
  | sar (h : Head) (u : Fin 2)
  /-- `ROL` (R154): The ALU rotates a left by t[4:0]. -/
  | rol (h : Head) (u : Fin 2)
  /-- `ROR` (R154): The ALU rotates a right by t[4:0]. -/
  | ror (h : Head) (u : Fin 2)
  /-- `MIN` (R153): The ALU gives the signed lesser of a and t. -/
  | min (h : Head) (u : Fin 2)
  /-- `MAX` (R153): The ALU gives the signed greater of a and t. -/
  | max (h : Head) (u : Fin 2)
  /-- `MINN` (R153): The ALU gives the unsigned lesser of a and t. -/
  | minn (h : Head) (u : Fin 2)
  /-- `MAXN` (R153): The ALU gives the unsigned greater of a and t. -/
  | maxn (h : Head) (u : Fin 2)
  /-- `ABS` (R153): The ALU gives the absolute value of t, with 0x8000_0000 unchanged. -/
  | abs (h : Head) (u : Fin 2)
  /-- `ADDV` (R153): The ALU adds a and t with signed saturation. -/
  | addv (h : Head) (u : Fin 2)
  /-- `SUBV` (R153): The ALU subtracts t from a with signed saturation. -/
  | subv (h : Head) (u : Fin 2)
  /-- `MUL` (R153): The ALU gives the low 32 bits of a × t, with latency 3. -/
  | mul (h : Head) (u : Fin 2)
  /-- `MULH` (R153): The ALU gives the high 32 bits of the signed product a × t. -/
  | mulh (h : Head) (u : Fin 2)
  /-- `MULHN` (R153): The ALU gives the high 32 bits of the unsigned product a × t. -/
  | mulhn (h : Head) (u : Fin 2)
  /-- `DIV` (R155): The lane divider gives the signed quotient truncated toward zero, with every case defined and a latency of 16. -/
  | div (h : Head) (u : Fin 2)
  /-- `REM` (R155): The lane divider gives the signed remainder. -/
  | rem (h : Head) (u : Fin 2)
  /-- `DIVN` (R155): The lane divider gives the unsigned quotient. -/
  | divn (h : Head) (u : Fin 2)
  /-- `REMN` (R155): The lane divider gives the unsigned remainder. -/
  | remn (h : Head) (u : Fin 2)
  /-- `ADS1` (R153): The ALU computes a + (t << 1). -/
  | ads1 (h : Head) (u : Fin 2)
  /-- `ADS2` (R153): The ALU computes a + (t << 2). -/
  | ads2 (h : Head) (u : Fin 2)
  /-- `ADS3` (R153): The ALU computes a + (t << 3). -/
  | ads3 (h : Head) (u : Fin 2)
  /-- `ADS4` (R153): The ALU computes a + (t << 4). -/
  | ads4 (h : Head) (u : Fin 2)
  /-- `BFE` (R156): The ALU extracts a sign-extended bit field of a at the position and width given in t. -/
  | bfe (h : Head) (u : Fin 2)
  /-- `BFEN` (R156): The ALU extracts a zero-extended bit field of a. -/
  | bfen (h : Head) (u : Fin 2)
  /-- `POPC` (R153): The ALU counts the set bits of t. -/
  | popc (h : Head) (u : Fin 2)
  /-- `CLZ` (R153): The ALU counts the leading zeros of t. -/
  | clz (h : Head) (u : Fin 2)
  /-- `CTZ` (R153): The ALU counts the trailing zeros of t. -/
  | ctz (h : Head) (u : Fin 2)
  /-- `BREV` (R153): The ALU reverses the bit order of t. -/
  | brev (h : Head) (u : Fin 2)
  /-- `BSWP` (R153): The ALU reverses the byte order of t. -/
  | bswp (h : Head) (u : Fin 2)
  /-- `SXB` (R153): The ALU sign-extends the low byte of t. -/
  | sxb (h : Head) (u : Fin 2)
  /-- `SXH` (R153): The ALU sign-extends the low half of t. -/
  | sxh (h : Head) (u : Fin 2)
  /-- `ZXB` (R153): The ALU zero-extends the low byte of t. -/
  | zxb (h : Head) (u : Fin 2)
  /-- `ZXH` (R153): The ALU zero-extends the low half of t. -/
  | zxh (h : Head) (u : Fin 2)
  /-- `MOVA` (R153): The ALU passes a through with its S and Z flags. -/
  | mova (h : Head) (u : Fin 2)
  /-- `FMA` (R174): The FP unit computes a·b + t with one rounding in mode rm. -/
  | fma (h : Head) (u : Fin 2) (rm : Rm)
  /-- `FMS` (R174): The FP unit computes a·b − t with one rounding. -/
  | fms (h : Head) (u : Fin 2) (rm : Rm)
  /-- `FNMA` (R174): The FP unit computes −(a·b) + t with one rounding. -/
  | fnma (h : Head) (u : Fin 2) (rm : Rm)
  /-- `FNMS` (R174): The FP unit computes −(a·b) − t with one rounding. -/
  | fnms (h : Head) (u : Fin 2) (rm : Rm)
  /-- `FADD` (R174): The FP unit computes a + t rounded once. -/
  | fadd (h : Head) (u : Fin 2) (rm : Rm)
  /-- `FSUB` (R174): The FP unit computes a − t rounded once. -/
  | fsub (h : Head) (u : Fin 2) (rm : Rm)
  /-- `FMUL` (R174): The FP unit computes a · t rounded once. -/
  | fmul (h : Head) (u : Fin 2) (rm : Rm)
  /-- `FMIN` (R175): The FP unit gives the lesser of a and t, with −0 below +0 and NaNs passed over. -/
  | fmin (h : Head) (u : Fin 2)
  /-- `FMAX` (R175): The FP unit gives the greater of a and t. -/
  | fmax (h : Head) (u : Fin 2)
  /-- `FCMP` (R175): The FP unit passes a unchanged and delivers ordered-compare flags of a against t. -/
  | fcmp (h : Head) (u : Fin 2)
  /-- `FRND` (R174): The FP unit rounds t to an integral fp32 value in mode rm. -/
  | frnd (h : Head) (u : Fin 2) (rm : Rm)
  /-- `FSCL` (R174): The FP unit computes a · 2^t for a signed integer t. -/
  | fscl (h : Head) (u : Fin 2) (rm : Rm)
  /-- `HFMA2` (R176): The FP unit performs a packed fp16 fused multiply-add on each half. -/
  | hfma2 (h : Head) (u : Fin 2) (rm : Rm)
  /-- `HADD2` (R176): The FP unit performs a packed fp16 add. -/
  | hadd2 (h : Head) (u : Fin 2) (rm : Rm)
  /-- `HMUL2` (R176): The FP unit performs a packed fp16 multiply. -/
  | hmul2 (h : Head) (u : Fin 2) (rm : Rm)
  /-- `BFMA2` (R176): The FP unit performs a packed bf16 fused multiply-add. -/
  | bfma2 (h : Head) (u : Fin 2) (rm : Rm)
  /-- `BADD2` (R176): The FP unit performs a packed bf16 add. -/
  | badd2 (h : Head) (u : Fin 2) (rm : Rm)
  /-- `BMUL2` (R176): The FP unit performs a packed bf16 multiply. -/
  | bmul2 (h : Head) (u : Fin 2) (rm : Rm)
  /-- `FDOT2H` (R177): The FP unit computes t + a.lo·b.lo + a.hi·b.hi over fp16 pairs with one fp32 rounding. -/
  | fdot2h (h : Head) (u : Fin 2) (rm : Rm)
  /-- `FDOT2B` (R177): The FP unit computes the two-term dot product over bf16 pairs with one fp32 rounding. -/
  | fdot2b (h : Head) (u : Fin 2) (rm : Rm)
  /-- `RCP` (R179): The S unit gives the correctly rounded reciprocal of t. -/
  | rcp (h : Head)
  /-- `RSQ` (R179): The S unit gives the correctly rounded reciprocal square root of t. -/
  | rsq (h : Head)
  /-- `SQRT` (R179): The S unit gives the correctly rounded square root of t. -/
  | sqrt (h : Head)
  /-- `EX2` (R179): The S unit gives 2^t, correctly rounded. -/
  | ex2 (h : Head)
  /-- `LG2` (R179): The S unit gives log2 t, correctly rounded. -/
  | lg2 (h : Head)
  /-- `SINR` (R179): The S unit gives sin 2πt, correctly rounded. -/
  | sinr (h : Head)
  /-- `COSR` (R179): The S unit gives cos 2πt, correctly rounded. -/
  | cosr (h : Head)
  /-- `TANH` (R179): The S unit gives tanh t, correctly rounded. -/
  | tanh (h : Head)
  /-- `CVT` (R183): The V unit converts t between element formats under the control word in V.a. -/
  | cvt (h : Head)
  /-- `QNT_S8` (R184): The V unit quantizes x / scale to s8 by true division with one rounding. -/
  | qntS8 (h : Head)
  /-- `QNT_N8` (R184): The V unit quantizes x / scale to n8. -/
  | qntN8 (h : Head)
  /-- `QNT_S4` (R184): The V unit quantizes x / scale to s4. -/
  | qntS4 (h : Head)
  /-- `QNT_N4` (R184): The V unit quantizes x / scale to n4. -/
  | qntN4 (h : Head)
  /-- `QNT_S16` (R184): The V unit quantizes x / scale to s16. -/
  | qntS16 (h : Head)
  /-- `DQN` (R185): The V unit dequantizes a signed integer t by a scale, rounded once to fp32. -/
  | dqn (h : Head)
  /-- `PKH` (R186): The V unit packs a and t as two fp16 halves of one word. -/
  | pkh (h : Head)
  /-- `PKB` (R186): The V unit packs a and t as two bf16 halves of one word. -/
  | pkb (h : Head)
  /-- `SHFL` (R160): Each participant receives d from the lane named by a[4:0]. -/
  | shfl (h : Head)
  /-- `SHUP` (R160): Each participant receives d from the lane a[4:0] below it. -/
  | shup (h : Head)
  /-- `SHDN` (R160): Each participant receives d from the lane a[4:0] above it. -/
  | shdn (h : Head)
  /-- `SHXR` (R160): Each participant receives d from the lane given by XOR with a[4:0]. -/
  | shxr (h : Head)
  /-- `BCST` (R160): Every participant receives d from the lane named by the lowest participant's a. -/
  | bcst (h : Head)
  /-- `BALL` (R161): The X unit gives the mask of participants whose d is non-zero. -/
  | ball (h : Head)
  /-- `VANY` (R161): The X unit gives 1 if any participant's d is non-zero. -/
  | vany (h : Head)
  /-- `VALL` (R161): The X unit gives 1 if every participant's d is non-zero. -/
  | vall (h : Head)
  /-- `MATCH` (R161): The X unit gives each participant its peer mask and the leader mask on X.m. -/
  | matchPeers (h : Head)
  /-- `MTCHA` (R161): The X unit gives the participant mask if all participants' values are equal, else 0. -/
  | mtcha (h : Head)
  /-- `WADD` (R162): The X unit sums d over the participants modulo 2^32. -/
  | wadd (h : Head)
  /-- `WMIN` (R162): The X unit gives the signed least d over the participants. -/
  | wmin (h : Head)
  /-- `WMAX` (R162): The X unit gives the signed greatest d over the participants. -/
  | wmax (h : Head)
  /-- `WMINN` (R162): The X unit gives the unsigned least d over the participants. -/
  | wminn (h : Head)
  /-- `WMAXN` (R162): The X unit gives the unsigned greatest d over the participants. -/
  | wmaxn (h : Head)
  /-- `WAND` (R162): The X unit ANDs d over the participants. -/
  | wand (h : Head)
  /-- `WOR` (R162): The X unit ORs d over the participants. -/
  | wor (h : Head)
  /-- `WXOR` (R162): The X unit XORs d over the participants. -/
  | wxor (h : Head)
  /-- `WFADD` (R163): The X unit sums d as fp32 over a fixed tree of physical lanes. -/
  | wfadd (h : Head)
  /-- `SCAN` (R162): The X unit gives the inclusive prefix sum of d over the participants. -/
  | scan (h : Head)
  /-- `SCANX` (R162): The X unit gives the exclusive prefix sum of d over the participants. -/
  | scanx (h : Head)
  /-- `PLN` (R164): The X unit transposes one bit of each participant's word into a bit plane. -/
  | pln (h : Head)
  /-- `PLG` (R164): The X unit gathers bit planes back into words. -/
  | plg (h : Head)
  /-- `BRA` (R67): The whole split branches by a byte offset at its next bundle. -/
  | bra (h : Head)
  /-- `BRC` (R69): The split divides by guard into a taken and a fall-through half, with a join-stack entry, or is serialised when the split table is full. -/
  | brc (h : Head)
  /-- `JOIN` (R70): A half arrives at its division's JOIN, waits, releases held serial lanes and merges when all expected lanes have arrived. -/
  | join (x : Src) (k : Fin 4)
  /-- `CALL` (R67): The split branches to word 2 of a line and writes the return address to C.q. -/
  | call (h : Head)
  /-- `RET` (R67): The split branches to the absolute code address in C.t. -/
  | ret (h : Head)
  /-- `LOOP` (R71): The split opens a loop level with trip count, stages and rings after fetching and checking the body. -/
  | loop (x : Src) (k : Fin 4)
  /-- `LBACK` (R73): The loop advances its iteration index and returns to the body's first bundle, or closes the level. -/
  | lback (x : Src) (k : Fin 4)
  /-- `LEXT` (R67): The split leaves the innermost loop to a target outside the body. -/
  | lext (h : Head)
  /-- `EXIT` (R76): Each lane whose guard is true becomes vacant and leaves its split and join entries. -/
  | exit (h : Head)
  /-- `END` (R79): END makes every lane of the warp vacant with no new warp in the slot, or ends the task in Sluice code. -/
  | endTask (h : Head)
  /-- `RFL` (R77): The split requests a refill of vacant lanes from the die's Rill and writes its mask to C.q. -/
  | rfl (x : Src) (k : Fin 4)
  /-- `PSW` (R81): The split switches to the schedule of the granted level through the switch table. -/
  | psw (h : Head)
  /-- `BRK` (R82): After the bundle takes effect, trap 0x0B strikes with the breakpoint code. -/
  | brk (h : Head)
  /-- `WAIT` (R80): The split's next bundle is held for v extra cycles in its delay counter. -/
  | wait (h : Head)
  /-- `BAR` (R117): The warp or Sluice arrives at a named block barrier with a release and waits for the generation to complete. -/
  | bar (h : Head)
  /-- `BARA` (R118): The warp arrives at a block barrier without waiting and receives a generation token on Y.q. -/
  | bara (h : Head)
  /-- `BARW` (R118): The split waits until the generation named by a token has completed. -/
  | barw (h : Head)
  /-- `SYNC` (R123): The block releases and arrives at a scope's barrier network, and waits for the same-cycle restart. -/
  | sync (h : Head)
  /-- `BOI` (R127): The barrier object is initialised with phase 0 and its arrival count. -/
  | boi (h : Head)
  /-- `BOX` (R127): The barrier object's expected byte count is raised. -/
  | box (h : Head)
  /-- `BOA` (R127): The issuer releases and arrives at the barrier object, receiving the prior phase on Y.q. -/
  | boa (h : Head)
  /-- `BOW` (R127): The split waits until the object's phase differs from the parity, then acquires. -/
  | bow (h : Head)
  /-- `BOT` (R127): The object's phase is tested without waiting, acquiring when it has flipped. -/
  | bot (h : Head)
  /-- `REL` (R129): A release at scope s holds the warp's later writes until its observed set is performed at s. -/
  | rel (h : Head) (e : Scope)
  /-- `ACQ` (R129): An acquire at scope s stalls until stale L1 lines and the invalidation log are dealt with. -/
  | acq (h : Head) (e : Scope)
  /-- `FEN` (R129): A fence at scope s waits until its observed set is performed at s, then acquires. -/
  | fen (h : Head) (e : Scope)
  /-- `CSRR` (R311): The named CSR's value is read into K.q. -/
  | csrr (h : Head)
  /-- `CSRW` (R311): The named CSR is written from K.a, subject to level and value rules, and its previous value goes to K.q. -/
  | csrw (h : Head)
  /-- `TRAP` (R313): After the bundle takes effect, software trap 0x17 strikes with the value in TVAL. -/
  | trap (h : Head)
  /-- `RTE` (R321): The handler returns: the frame is checked and restored, and in-flight records are re-injected at their cycles. -/
  | rte (h : Head)
  /-- `CHK` (R313): A value is tested for poison, trapping 0x06 with a lane mask if it is tagged. -/
  | chk (h : Head)
  /-- `SHP` (R198): A 32-byte shape record is read from scratch, checked and written into a shape-table slot. -/
  | shp (h : Head)
  /-- `OBJ` (R279): A coherence object is registered or released for the lines that a shape record covers. -/
  | obj (h : Head)
  /-- `EVT` (R314): The warp releases at block scope and posts a value record to the core's event queue. -/
  | evt (h : Head)
  /-- `MXW` (R206): A slice of a Bp weight record is loaded into the Cascade's shadow plane. -/
  | mxw (h : Head)
  /-- `MXS` (R207): The planes are exchanged and the shadow's description is latched as the weights with their tag. -/
  | mxs (h : Head)
  /-- `MXG` (R208): M rows of A are multiplied through the array into accumulator rows. -/
  | mxg (h : Head)
  /-- `MXD` (R211): Accumulator rows are drained, scaled, rounded and written to a destination, with columns flagged for TILEST. -/
  | mxd (h : Head)
  /-- `MXZ` (R210): Accumulator rows are cleared to zero. -/
  | mxz (h : Head)
  /-- `MXR` (R214): A parked or faulted MX command of the block is resumed by tag. -/
  | mxr (h : Head)
  /-- `MXQ` (R213): The progress register that holds a tag is read into MX.q. -/
  | mxq (h : Head)
  /-- `MXA` (R205): The block's band mask and accumulator row claim are set. -/
  | mxa (h : Head)
  /-- `CPY` (R240): A copy engine copies one tensor to another in 256-byte elements. -/
  | cpy (h : Head) (u : Fin 2)
  /-- `GTH` (R243): A copy engine gathers source rows named by an index list. -/
  | gth (h : Head) (u : Fin 2)
  /-- `SCT` (R243): A copy engine scatters rows to destination rows named by an index list. -/
  | sct (h : Head) (u : Fin 2)
  /-- `ARD` (R249): A copy engine joins a recursive-doubling all-reduce among the parties of a collective. -/
  | ard (h : Head) (u : Fin 2)
  /-- `BCS` (R250): A copy engine joins a binomial-tree broadcast from the root. -/
  | bcs (h : Head) (u : Fin 2)
  /-- `CPR` (R244): A parked or faulted CP command is resumed by tag on its own engine. -/
  | cpr (h : Head) (u : Fin 2)
  /-- `CPQ` (R244): The progress register holding a tag is read into CPn.q. -/
  | cpq (h : Head) (u : Fin 2)
  /-- `CPF` (R241): A copy engine fills the destination tensor with a fill word. -/
  | cpf (h : Head) (u : Fin 2)
  /-- `DQP` (R87): The Sluice pushes a word onto the block's decision queue, stalling while it is full. -/
  | dqp (h : Head)
  /-- `SINC` (R87): A semaphore is increased with saturation, its old value going to SM.q. -/
  | sinc (h : Head)
  /-- `SDEC` (R87): A semaphore is decreased, floored at 0. -/
  | sdec (h : Head)
  /-- `SSET` (R87): A semaphore is set to a value. -/
  | sset (h : Head)
  /-- `LACQ` (R194): The Sluice requests the quad's Cascade lease for a count of commands. -/
  | lacq (h : Head)
  /-- `LREL` (R194): The Sluice ends the Cascade lease it holds. -/
  | lrel (h : Head)
  /-- `TARM` (R87): A Sluice task is armed. -/
  | tarm (h : Head)
  /-- `TDIS` (R87): A Sluice task is disarmed. -/
  | tdis (h : Head)
  /-- `CTI` (R89): The core counter's extra count is increased. -/
  | cti (h : Head)
  /-- `CTD` (R89): The core counter's extra count is decreased, trapping if it would go negative. -/
  | ctd (h : Head)
  /-- `CTS` (R89): The core counter's extra count is set. -/
  | cts (h : Head)
  /-- `LDS` (R221): Each active lane loads from scratchpad into the LS load queue at the given width. -/
  | lds (h : Head) (wd : Width)
  /-- `LDG` (R222): Each active lane loads from global memory into the LG load queue. -/
  | ldg (h : Head) (wd : Width) (n : Hint)
  /-- `LDGS` (R223): A speculative global load delivers poison instead of trapping or parking. -/
  | ldgs (h : Head) (wd : Width) (n : Hint)
  /-- `PFG` (R223): A prefetch brings a sector into the L1 and quad cache without taking a slot. -/
  | pfg (h : Head) (wd : Width) (n : Hint)
  /-- `LDW` (R224): Each active lane loads from the die's weight store into the LW load queue. -/
  | ldw (h : Head) (wd : Width)
  /-- `STS` (R226): Each active lane stores its data ports to scratchpad at the given width or mask. -/
  | sts (h : Head) (wd : Width)
  /-- `STG` (R226): Each active lane stores its data ports to global memory. -/
  | stg (h : Head) (wd : Width) (n : Hint)
  /-- `ATS_ADD` (R230): A scratch atomic adds a to the word and returns the old value. -/
  | atsAdd (h : Head)
  /-- `ATS_MIN` (R230): A scratch atomic keeps the signed lesser of the word and a. -/
  | atsMin (h : Head)
  /-- `ATS_MAX` (R230): A scratch atomic keeps the signed greater. -/
  | atsMax (h : Head)
  /-- `ATS_MINN` (R230): A scratch atomic keeps the unsigned lesser. -/
  | atsMinn (h : Head)
  /-- `ATS_MAXN` (R230): A scratch atomic keeps the unsigned greater. -/
  | atsMaxn (h : Head)
  /-- `ATS_AND` (R230): A scratch atomic ANDs a into the word. -/
  | atsAnd (h : Head)
  /-- `ATS_OR` (R230): A scratch atomic ORs a into the word. -/
  | atsOr (h : Head)
  /-- `ATS_XOR` (R230): A scratch atomic XORs a into the word. -/
  | atsXor (h : Head)
  /-- `ATS_XCHG` (R230): A scratch atomic exchanges the word with a. -/
  | atsXchg (h : Head)
  /-- `ATS_CAS` (R230): A scratch atomic writes a if the word equals c. -/
  | atsCas (h : Head)
  /-- `ATS_INC` (R230): A scratch atomic increments the word, wrapping to 0 at a. -/
  | atsInc (h : Head)
  /-- `ATS_DEC` (R230): A scratch atomic decrements the word, wrapping to a. -/
  | atsDec (h : Head)
  /-- `ATS_FADD` (R230): A scratch atomic adds a as fp32 with nearest-even rounding. -/
  | atsFadd (h : Head)
  /-- `ATG_ADD` (R230): A global atomic adds a at its scope class and returns the old value. -/
  | atgAdd (h : Head) (c : AtomScope)
  /-- `ATG_MIN` (R230): A global atomic keeps the signed lesser. -/
  | atgMin (h : Head) (c : AtomScope)
  /-- `ATG_MAX` (R230): A global atomic keeps the signed greater. -/
  | atgMax (h : Head) (c : AtomScope)
  /-- `ATG_MINN` (R230): A global atomic keeps the unsigned lesser. -/
  | atgMinn (h : Head) (c : AtomScope)
  /-- `ATG_MAXN` (R230): A global atomic keeps the unsigned greater. -/
  | atgMaxn (h : Head) (c : AtomScope)
  /-- `ATG_AND` (R230): A global atomic ANDs a into the word. -/
  | atgAnd (h : Head) (c : AtomScope)
  /-- `ATG_OR` (R230): A global atomic ORs a into the word. -/
  | atgOr (h : Head) (c : AtomScope)
  /-- `ATG_XOR` (R230): A global atomic XORs a into the word. -/
  | atgXor (h : Head) (c : AtomScope)
  /-- `ATG_XCHG` (R230): A global atomic exchanges the word with a. -/
  | atgXchg (h : Head) (c : AtomScope)
  /-- `ATG_CAS` (R230): A global atomic compares and swaps. -/
  | atgCas (h : Head) (c : AtomScope)
  /-- `ATG_INC` (R230): A global atomic increments with wrap at a. -/
  | atgInc (h : Head) (c : AtomScope)
  /-- `ATG_DEC` (R230): A global atomic decrements with wrap to a. -/
  | atgDec (h : Head) (c : AtomScope)
  /-- `ATG_FADD` (R230): A global atomic adds a as fp32. -/
  | atgFadd (h : Head) (c : AtomScope)
  /-- `RED_ADD` (R230): A global reduction adds a with no result returned. -/
  | redAdd (h : Head) (c : AtomScope)
  /-- `RED_MIN` (R230): A global reduction keeps the signed lesser. -/
  | redMin (h : Head) (c : AtomScope)
  /-- `RED_MAX` (R230): A global reduction keeps the signed greater. -/
  | redMax (h : Head) (c : AtomScope)
  /-- `RED_MINN` (R230): A global reduction keeps the unsigned lesser. -/
  | redMinn (h : Head) (c : AtomScope)
  /-- `RED_MAXN` (R230): A global reduction keeps the unsigned greater. -/
  | redMaxn (h : Head) (c : AtomScope)
  /-- `RED_AND` (R230): A global reduction ANDs a into the word. -/
  | redAnd (h : Head) (c : AtomScope)
  /-- `RED_OR` (R230): A global reduction ORs a into the word. -/
  | redOr (h : Head) (c : AtomScope)
  /-- `RED_XOR` (R230): A global reduction XORs a into the word. -/
  | redXor (h : Head) (c : AtomScope)
  /-- `RED_INC` (R230): A global reduction increments with wrap at a. -/
  | redInc (h : Head) (c : AtomScope)
  /-- `RED_DEC` (R230): A global reduction decrements with wrap to a. -/
  | redDec (h : Head) (c : AtomScope)
  /-- `RED_FADD` (R230): A global reduction adds a as fp32. -/
  | redFadd (h : Head) (c : AtomScope)
  /-- `RESULT_LANDING` (R7): A fixed-latency result and its flags land on the result port at issue plus latency, with its raised flags ORed into FSTAT. -/
  | resultLanding (t : Tid)
  /-- `DELAY_EXPIRY` (R8): A split's delay count runs out and its next bundle may issue. -/
  | delayExpiry (t : Tid) (sp : Nat)
  /-- `WAIT_EXPIRY` (R80): A split's WAIT count runs out and it becomes ready again. -/
  | waitExpiry (t : Tid) (sp : Nat)
  /-- `LOAD_DATA_ARRIVAL` (R222): A load's data arrives and fills its queue slots, releasing stalled readers. -/
  | loadDataArrival (t : Tid) (p : LoadPort) (i : Nat) (l : Nat)
  /-- `WINDOW_ENTRY` (R106): A split moves from the entry queue into the issue window when there is room, taking a fresh age. -/
  | windowEntry (core : Nat)
  /-- `ATOMIC_RESPONSE` (R232): An atomic's returned value lands in AS.q or AG.q for the awaiting lanes. -/
  | atomicResponse (core : Nat) (seq : Nat) (addr : Nat)
  /-- `ATOMIC_RETRY` (R234): A lost or erroneous remote atomic response causes one automatic retry under the same sequence number. -/
  | atomicRetry (core : Nat) (seq : Nat) (addr : Nat)
  /-- `STORE_DRAIN` (R219): A store buffer entry's bytes are written to scratchpad or become local bytes, and the entry is freed. -/
  | storeDrain (core : Nat) (seq : Nat)
  /-- `CODE_FETCH` (R364): A code line, a LOOP body or a switch-table word is fetched, parking the split on a page fault or trapping on refusal. -/
  | codeFetch (core : Nat) (fn : Nat) (line : Nat)
  /-- `RILL_GRANT` (R77): The Rill's grant of consecutive indices arrives and fills vacant lanes for an RFL. -/
  | rillGrant (t : Tid)
  /-- `SEQUENCER_PICK` (R84): The Sluice sequencer picks the lowest armed task whose waits are satisfied, disarms it and consumes its semaphores. -/
  | sequencerPick (core : Nat) (ctx : Nat)
  /-- `TASK_OVERRUN` (R85): A task's declared cycle count expires without END and trap 0x16 strikes the Sluice context. -/
  | taskOverrun (core : Nat) (ctx : Nat)
  /-- `HELD_RECORD_ENTRY` (R19): A completion record held by its engine enters the event queue once room is free. -/
  | heldRecordEntry (core : Nat)
  /-- `DOORBELL` (R91): A host doorbell write advances a queue's write index or stops the queue with an error. -/
  | doorbell (fn : Nat) (q : Nat) (v : Word)
  /-- `LAUNCH_ARRIVAL` (R103): A launch's packet, arguments and entry line are held on die 0 with its waits satisfied. -/
  | launchArrival (fn : Nat) (q : Nat)
  /-- `WAIT_REREAD` (R93): An unsatisfied launch wait word is re-read at least every 65,536 cycles. -/
  | waitReread (lid : Nat) (i : Nat)
  /-- `BIND_RECORD_WRITE` (R95): Firmware writes a bind record, which is checked and accepted or refused with a SLOTSTAT reason. -/
  | bindRecordWrite (slot : Nat) (ws : List Word)
  /-- `PLACEMENT_DECISION` (R97): A die's dispatcher chooses an eligible queue and places one block or group on its cores. -/
  | placementDecision (die : Nat)
  /-- `AGING_PROMOTION` (R97): A queue passed over at 64 consecutive decisions is promoted by one level. -/
  | agingPromotion (die : Nat) (slot : Nat)
  /-- `COMPLETION_RECORD_POST` (R105): A completed launch's record is written, word 0 last, once its writes are visible at system scope. -/
  | completionRecordPost (lid : Nat)
  /-- `GRANTED_LEVEL_WRITE` (R109): Firmware writes the granted power level of a set of cores, taking effect on one cycle. -/
  | grantedLevelWrite (cores : List Nat) (level : Nat)
  /-- `BAND_POWER_SWITCH` (R110): Firmware powers a Cascade band up or down and sets its voltage. -/
  | bandPowerSwitch (quad : Nat) (band : Nat) (on : Bool)
  /-- `BAND_RAMP_DONE` (R110): A ramping Cascade band becomes ready and held matrix commands proceed. -/
  | bandRampDone (quad : Nat) (band : Nat)
  /-- `THERMAL_EMERGENCY` (R111): A die crossing its emergency temperature is taken offline and its blocks are asked to yield. -/
  | thermalEmergency (die : Nat)
  /-- `DIE_ONLINE` (R111): Firmware brings an offline die back and its dispatcher resumes placement. -/
  | dieOnline (die : Nat)
  /-- `BARRIER_RESTART` (R117): The waiters of a completed block-barrier generation go on two cycles after the last arrival. -/
  | barrierRestart (t : Tid) (sp : Nat)
  /-- `WEIR_LINE_GRANT` (R123): A SYNC arrival waiting for a free Weir line receives one. -/
  | weirLineGrant (gen : Nat)
  /-- `WEIR_RESTART` (R123): Every core of a SYNC domain restarts its waiting splits on one identical cycle after acquiring. -/
  | weirRestart (gen : Nat)
  /-- `WEIR_GATHER` (R124): A die sends its ANDed Weir result to the arbitrating die. -/
  | weirGather (gen : Nat) (die : Nat)
  /-- `RESTART_PROPOSAL` (R124): The arbiter sends a chosen restart cycle T to every other die. -/
  | restartProposal (gen : Nat) (die : Nat)
  /-- `RESTART_ACK` (R124): A die acknowledges a proposed restart cycle. -/
  | restartAck (gen : Nat) (die : Nat)
  /-- `RESTART_CONFIRM` (R124): The arbiter confirms T when every acknowledgement arrived before T − 8, or chooses a new T. -/
  | restartConfirm (gen : Nat)
  /-- `POD_SYNC_ARRIVAL` (R125): A package's pod SYNC arrival reaches another package over the pod links. -/
  | podSyncArrival (lid : Nat) (pkg : Nat)
  /-- `BARRIER_OBJECT_RMW` (R128): A barrier-object operation or engine delivery is performed as one atomic update at the scratch atomic unit, possibly flipping the phase. -/
  | barrierObjectRmw (core : Nat)
  /-- `FENCE_DONE` (R129): An outstanding acquire or fence completes and its split goes on. -/
  | fenceDone (t : Tid) (sp : Nat)
  /-- `WATCHDOG_EXPIRY` (R132): A split that has issued nothing for the watchdog period takes trap 0x11. -/
  | watchdogExpiry (t : Tid) (sp : Nat)
  /-- `YIELD_REQUEST` (R135): Firmware asks a block to yield, naming a save area. -/
  | yieldRequest (core : Nat) (ctx : Nat) (area : Nat)
  /-- `SAFE_POINT_STOP` (R133): A split or Sluice context of a yielding block stops at its first safe point. -/
  | safePointStop (t : Tid) (sp : Nat)
  /-- `SAVE` (R141): Once the block has stopped, its state is saved in order and its cores released. -/
  | save (core : Nat) (ctx : Nat)
  /-- `ENGINE_PARK` (R141): A running engine command parks at its next element boundary. -/
  | enginePark (core : Nat) (ctx : Nat) (tag : Nat)
  /-- `RESUME` (R145): A saved block is restored on a core that can take it, in the order of the resume rule. -/
  | resume (save : Nat) (core : Nat)
  /-- `ENGINE_COMMAND_START` (R204): An engine command starts when the commands it must follow have completed. -/
  | engineCommandStart (core : Nat) (ctx : Nat) (tag : Nat)
  /-- `ENGINE_ELEMENT_COMMIT` (R138): An engine command performs and commits one element and advances PR.next. -/
  | engineElementCommit (core : Nat) (ctx : Nat) (tag : Nat)
  /-- `ENGINE_ELEMENT_FAULT` (R139): An unresolved or protection fault in an element makes the command faulted and strikes trap 0x0A at its issuer. -/
  | engineElementFault (core : Nat) (ctx : Nat) (tag : Nat) (cause : Nat)
  /-- `ENGINE_COMMAND_COMPLETE` (R245): An engine command completes: writes performed, semaphore increment, record posted and result port filled. -/
  | engineCommandComplete (core : Nat) (ctx : Nat) (tag : Nat)
  /-- `COLLECTIVE_PARK_SIGNAL` (R147): A parking party signals the other parties of its collective, which park at the same segment boundary. -/
  | collectiveParkSignal (core : Nat) (ctx : Nat) (tag : Nat)
  /-- `COLLECTIVE_SEGMENT_HANDOFF` (R249): A segment handed over by a partner stands in the receive area and is combined and committed. -/
  | collectiveSegmentHandoff (core : Nat) (ctx : Nat) (tag : Nat)
  /-- `FREEZE_WIRE` (R148): Firmware asserts the freeze wire and every unit serving the job is clock-gated in one cycle. -/
  | freezeWire (lids : List Nat)
  /-- `THAW` (R148): Firmware restarts a frozen job's clocks in one cycle. -/
  | thaw (lids : List Nat)
  /-- `ABANDON` (R148): Firmware abandons a frozen job, which is treated as an unrecoverable fault. -/
  | abandon (core : Nat) (ctx : Nat)
  /-- `SCAN_READ` (R328): Firmware reads a frozen job or debug-stopped core as a scan record. -/
  | scanRead (cores : List Nat)
  /-- `LEASE_GRANT` (R194): The quad grants its Cascade lease to the next waiting request after the previous lease ends. -/
  | leaseGrant (quad : Nat)
  /-- `MX_WINDOW_SWITCH` (R195): In paired mode a window boundary passes the array to the other core's commands. -/
  | mxWindowSwitch (quad : Nat)
  /-- `TILEST_UPDATE` (R212): TILEST entries take a drain's column flags 16 cycles after it completes. -/
  | tilestUpdate (core : Nat)
  /-- `WS_BANK_SERVE` (R225): A weight-store access held by a refreshing bank is served once the bank's window ends. -/
  | wsBankServe (t : Tid) (i : Nat) (l : Nat)
  /-- `PUBLICATION` (R267): A quad cache publishes a line's local bytes through the protocol's write path. -/
  | publication (quad : Nat) (key : Nat)
  /-- `GETS` (R272): A read miss reaches the home and runs the line's protocol table. -/
  | gets (quad : Nat) (key : Nat)
  /-- `GETM` (R272): An ownership request without a copy reaches the home. -/
  | getm (quad : Nat) (key : Nat)
  /-- `UPG` (R272): An ownership request from a quad holding a shared copy reaches the home. -/
  | upg (quad : Nat) (key : Nat)
  /-- `PUTS` (R272): A clean eviction reaches the home. -/
  | puts (quad : Nat) (key : Nat)
  /-- `PUTM` (R272): A write-back of an owned line reaches the home. -/
  | putm (quad : Nat) (key : Nat)
  /-- `PUB` (R272): A write-through of local bytes reaches the home. -/
  | pub (quad : Nat) (key : Nat)
  /-- `WACK` (R272): The end of a walk is reported to the home. -/
  | wack (key : Nat)
  /-- `DATA` (R272): An owner's answer to a recall or downgrade reaches the home. -/
  | dataAnswer (key : Nat)
  /-- `ATOM` (R272): An ATG to be performed at the home reaches it. -/
  | atom (core : Nat) (seq : Nat) (addr : Nat)
  /-- `HOME_RED` (R272): A RED reaches the home and runs the table's RED entry. -/
  | homeRed (core : Nat) (seq : Nat) (addr : Nat)
  /-- `TREQ` (R275): A quad cache requests a TOK range's write token. -/
  | treq (quad : Nat) (rid : Nat)
  /-- `TDONE` (R275): The token holder reports its drain complete. -/
  | tdone (quad : Nat) (rid : Nat)
  /-- `INVALIDATION_WALK` (R269): A quad receives an invalidation walk, drops its coherent data and passes it on. -/
  | invalidationWalk (key : Nat)
  /-- `UPDATE_WALK` (R269): A quad receives an update walk, applies the bytes and passes it on. -/
  | updateWalk (key : Nat)
  /-- `RECALL` (R271): An owner receives a recall, publishes, sends the line and drops it. -/
  | recall (key : Nat)
  /-- `DOWNGRADE` (R271): An owner receives a downgrade, publishes, sends the line and keeps a shared copy. -/
  | downgrade (key : Nat)
  /-- `TOKEN_DRAIN_REQUEST` (R275): The token holder is asked to drain its local bytes in the range. -/
  | tokenDrainRequest (rid : Nat)
  /-- `UNLINK_ACK` (R269): The home acknowledges an unlink and the quad drops its pointers. -/
  | unlinkAck (quad : Nat) (key : Nat)
  /-- `LINE_GRANT` (R267): A home's data or grant answer reaches the requesting quad cache, clearing published local bytes. -/
  | lineGrant (quad : Nat) (key : Nat)
  /-- `HOST_READ` (R363): A host read of device memory is translated and served coherently as an uncached GETS. -/
  | hostRead (fn : Nat) (addr : Nat) (n : Nat)
  /-- `HOST_WRITE` (R363): A host write to device memory invalidates copies, recalls any owner and is written at the home. -/
  | hostWrite (fn : Nat) (addr : Nat) (bytes : List Byte)
  /-- `PROTOCOL_LOAD` (R276): A PLREQ word 2 write starts loading a protocol image into a loadable slot. -/
  | protocolLoad (w : Word)
  /-- `PROTOCOL_VERIFY_DONE` (R277): The verifier finishes checking an image and installs it or reports the failing code in PLSTAT. -/
  | protocolVerifyDone
  /-- `WAY_GATE` (R282): Firmware gates a quad-cache way, publishing, unlinking or refusing each line in it. -/
  | wayGate (quad : Nat) (keys : List Nat)
  /-- `QUAD_CACHE_SLEEP` (R283): A quad cache publishes and writes back, then sleeps with tags retained. -/
  | quadCacheSleep (quad : Nat)
  /-- `QUAD_CACHE_LOSS` (R284): A lost quad cache is spliced out of every sharer list by the homes. -/
  | quadCacheLoss (quad : Nat)
  /-- `RANGE_ENTRY_WRITE` (R265): A range-table entry write is checked and accepted, refused or used to invalidate the entry. -/
  | rangeEntryWrite (fn : Nat) (i : Nat) (ws : List Word)
  /-- `FUNCTION_ENABLE` (R358): Setting enable on a function makes the trust die generate its key pair before doorbells are accepted. -/
  | functionEnable (fn : Nat)
  /-- `FUNCTION_RESET` (R358): Resetting a function fences it if running, clears its state and replaces its key. -/
  | functionReset (fn : Nat)
  /-- `FRAME_WINDOW_WRITE` (R285): A frame-window write is accepted or refused if it would overlap another function's window. -/
  | frameWindowWrite (fn : Nat) (die : Nat) (w : Word)
  /-- `PAGE_WALK` (R289): A home's walker translates a virtual address through the five-level page table when a walker is free. -/
  | pageWalk (die : Nat) (fn : Nat) (page : Nat)
  /-- `WRITE_GRANT_REQUEST` (R362): A quad's first write to a page under a name asks the home to translate it for writing. -/
  | writeGrantRequest (quad : Nat) (fn : Nat) (page : Nat)
  /-- `WRITE_GRANT_ANSWER` (R362): The home's write grant reaches the quad cache and held bytes become local bytes. -/
  | writeGrantAnswer (quad : Nat) (fn : Nat) (page : Nat)
  /-- `FAULT_ENTRY_WRITE` (R302): A buffered fault entry is written at the fault queue's tail when there is room, and MSI-X is signalled. -/
  | faultEntryWrite (die : Nat) (fn : Nat)
  /-- `FQHEAD_WRITE` (R302): The driver advances its head count, or the write is ignored with an error. -/
  | fqheadWrite (fn : Nat) (w : Word)
  /-- `FQCTL_WRITE` (R302): The driver sets the fault queue's size and vector, resetting both counts. -/
  | fqctlWrite (fn : Nat) (w : Word)
  /-- `FQRES_RESOLVED` (R303): The host reports a fault resolved and the home walks again for the waiters. -/
  | fqresResolved (fn : Nat) (id : Nat)
  /-- `FQRES_NO_PAGE` (R303): The host reports no page and each waiter ends in its fault. -/
  | fqresNoPage (fn : Nat) (id : Nat)
  /-- `INVAL_APPEND` (R297): A write to INVAL word 3 appends an invalidation log entry to all four dies with a sequence number. -/
  | invalAppend (fn : Nat) (w : Word)
  /-- `LOG_APPLY` (R298): A die applies its invalidation log up to its end, purging lines, leaves, grants and alias records. -/
  | logApply (die : Nat)
  /-- `POWER_ON` (R361): The always-on rail starts the trust die and bring-up proceeds step by step. -/
  | powerOn (pass : List Bool)
  /-- `GET_VERSION` (R306): The trust die answers an SPDM GET_VERSION request. -/
  | getVersion
  /-- `GET_CAPABILITIES` (R306): The trust die answers an SPDM GET_CAPABILITIES request. -/
  | getCapabilities
  /-- `NEGOTIATE_ALGORITHMS` (R306): The trust die answers an SPDM NEGOTIATE_ALGORITHMS request. -/
  | negotiateAlgorithms
  /-- `GET_DIGESTS` (R306): The trust die answers an SPDM GET_DIGESTS request. -/
  | getDigests
  /-- `GET_CERTIFICATE` (R306): The trust die answers an SPDM GET_CERTIFICATE request. -/
  | getCertificate (slot : Nat) (off : Nat) (len : Nat)
  /-- `CHALLENGE` (R306): The trust die answers an SPDM CHALLENGE with a signature. -/
  | challenge (nonce : List Byte)
  /-- `GET_MEASUREMENTS` (R306): The trust die returns its signed measurement blocks. -/
  | getMeasurements (index : Nat) (nonce : List Byte)
  /-- `SPDM_UNSUPPORTED` (R306): Any other SPDM request is answered with ERROR UnsupportedRequest. -/
  | spdmUnsupported (code : Nat)
  /-- `TAKE_TRAP` (R315): A warp at task level takes a trap: splits stop, in-flight results are withdrawn, the frame is written and the handler starts. -/
  | takeTrap (t : Tid) (sp : Nat) (cause : Nat) (tval : Word) (telem : Nat)
  /-- `TIMER_EVENT` (R325): Firmware raises a timer event for a set of cores, reaching every warp and Sluice context there. -/
  | timerEvent (cores : List Nat)
  /-- `EXTERNAL_EVENT` (R325): Firmware raises an external event with a value for one warp, a Sluice context or a block. -/
  | externalEvent (target : EventTarget) (v : Word)
  /-- `DBGCTL_WRITE` (R326): Firmware writes DBGCTL to arm single step or debug mode. -/
  | dbgctlWrite (core : Nat) (w : Word)
  /-- `SOFT_ERROR` (R331): A storage error is detected and corrected, or turned into poison or trap 0x13. -/
  | softError (site : ErrorSite) (hard : Bool)
  /-- `DIE_LOSS` (R332): A lost die fails its messages, fences functions homed there and ends or relaunches its blocks. -/
  | dieLoss (die : Nat)
  /-- `AGENT_REJOIN` (R333): A recovered agent is reset, spliced out, invalidated and readmitted under a new incarnation. -/
  | agentRejoin (agent : Agent)
  /-- `LINK_CRC_ERROR` (R334): A link CRC error causes replay of unacknowledged flits in order. -/
  | linkCrcError (link : Nat)
  /-- `LINK_WIDTH_CHANGE` (R334): A link changes lane width at a flit boundary and replays its retry buffer. -/
  | linkWidthChange (link : Nat) (width : Nat)
  /-- `LINK_DOWN` (R334): A mesh link that cannot hold quarter width goes down and its traffic reroutes. -/
  | linkDown (link : Nat)
  /-- `CONFIG_REQUEST` (R356): A PCIe configuration request is answered, with retry status until die 0 is released. -/
  | configRequest (fn : Nat)
  /-- `FSTATUS_ERROR_CLEAR` (R357): Writing 1 to FSTATUS[30] clears the function's error bit. -/
  | fstatusErrorClear (fn : Nat)
  /-- `QBASE_WRITE` (R357): A write to a queue's base is taken, or ignored with an error when the queue is enabled. -/
  | qbaseWrite (fn : Nat) (hi : Bool) (w : Word)
  /-- `QUEUE_ENABLE` (R357): Setting QCTL enable starts a launch queue with both indices at 0, or is ignored for a bad k. -/
  | queueEnable (fn : Nat) (w : Word)
  /-- `QUEUE_DISABLE` (R357): Clearing QCTL enable stops fetching while fetched launches run on. -/
  | queueDisable (fn : Nat) (w : Word)
  /-- `REGISTER_WRITE` (R357): A write to a register with no row of its own stores the value. -/
  | registerWrite (fn : Nat) (off : Nat) (w : Word)
  /-- `MXMODE_WRITE` (R193): Firmware writes MXMODE and MXWIN at bind time in the four cores of a quad, choosing lease or paired mode and the window length. -/
  | mxmodeWrite (quad : Nat) (mode : Word) (win : Word)
  /-- `VARIABLE_PORT_FILL` (R310): A variable-latency result of K.q, Y.q, or MX.q or CPn.q from MXA, MXQ or CPQ lands in the issuing context's lanes some cycles after issue, or when OBJ's operation completes. -/
  | variablePortFill (t : Tid)
  /-- `POD_ROUTE_LOST` (R334): A package becomes unreachable by every pod route, and every function with a policy-3 range homed there is fenced. -/
  | podRouteLost (pkg : Nat)
  /-- `SCAN_WRITE_BACK` (R328): Before a thaw, firmware writes back general registers, the scratchpad region or global memory of a frozen job through the scan path. -/
  | scanWriteBack (t : Tid) (reg : Nat) (l : Nat) (w : Word)
  /-- `DEBUG_RESUME` (R327): Firmware resumes a warp or core stopped in debug mode through the scan path, and its in-flight results continue counting down. -/
  | debugResume (core : Nat)
deriving DecidableEq, Repr

end Sys2Proof
end

