-- ==== Sys2Proof/WellFormed.lean ====
section
/-! DEFINITION. When an instruction is well formed: for a move, that its fields have an encoding that the part does not
refuse (03 R46, R48, R59); for an event, that what it names exists. -/

namespace Sys2Proof

/-- The result ports with variable latency, DQ.q and EV.q: those on which `pop` and `try` are legal (03 R46, 02 R21). -/
def ResPort.variable : ResPort → Bool
  | .ls _ | .lg _ | .lw _ | .asq | .agq | .mxq | .cp0q | .cp1q | .yq | .kq | .dqq | .rlq | .evq => true
  | _ => false

/-- The flags ports (03 R48). -/
def ResPort.isFlags : ResPort → Bool
  | .a0f | .a1f | .f0f | .f1f | .vf => true
  | _ => false

/-- Sources on which `pop` and `try` are legal. -/
def Src.variable : Src → Bool
  | .port p => p.variable
  | _ => false

/-- The flags sources, which alone a cc register takes (03 R48). -/
def Src.isFlags : Src → Bool
  | .port p => p.isFlags
  | .cc _ => true
  | _ => false

/-- A destination that is a condition register. -/
def Dst.isCc : Dst → Bool
  | .cc _ => true
  | _ => false

/-- The modifiers are legal on this source and destination (03 R46, R48). -/
def Mods.legal (m : Mods) (x : Src) (d : Dst) : Bool :=
  (!(m.pop || m.try_) || (x.variable && !d.isCc)) && (!d.isCc || x.isFlags)

/-- A width that a load takes (03 R59): every one but `.m`. -/
def Width.load : Width → Bool
  | .m => false
  | _ => true

/-- A width that LDW takes (03 R59): `.w`, `.d`, `.q`. -/
def Width.wide : Width → Bool
  | .w | .d | .q => true
  | _ => false

/-- A width that a store takes (03 R59): no unsigned width. -/
def Width.store : Width → Bool
  | .bn | .hn => false
  | _ => true

/-- The thread's core, context and slot exist (02 R12, R13). -/
def Tid.ok (t : Tid) : Bool := t.core < 256 && t.ctx < 2 && t.slot ≤ 32

/-- A block's place exists. -/
def placeOk (core ctx : Nat) : Bool := core < 256 && ctx < 2

/-- The target of an external event exists (16 R325). -/
def EventTarget.ok : EventTarget → Bool
  | .warp c x s => placeOk c x && s < 32
  | .sluice c x | .allWarps c x => placeOk c x

/-- The struck store exists (16 R331). -/
def ErrorSite.ok : ErrorSite → Bool
  | .dram d a | .homeCache d a => d < 4 && a < 2 ^ 37
  | .quadCache q _ => q < 64
  | .l1 c _ => c < 256
  | .weightStore d o => d < 4 && o < 2 ^ 28
  | .general t r l => t.ok && r < 1056 && l < 32
  | .scratch c a => c < 256 && a < 2 ^ 19
  | .accumulator q r => q < 64 && r < 512
  | .plane q => q < 64

/-- The agent exists. -/
def Agent.ok : Agent → Bool
  | .quadCache q => q < 64
  | .die d => d < 4

/-- An instruction whose fields are all in range. -/
def Instr.wellFormed : Instr → Bool
  | .move h d m => m.legal h.src d
  | .lds _ wd | .ldg _ wd _ | .ldgs _ wd _ | .pfg _ wd _ => wd.load
  | .ldw _ wd => wd.wide
  | .sts _ wd | .stg _ wd _ => wd.store
  | .resultLanding t | .rillGrant t | .variablePortFill t => t.ok
  | .delayExpiry t sp | .waitExpiry t sp | .barrierRestart t sp | .fenceDone t sp | .watchdogExpiry t sp =>
    t.ok && sp < 4
  | .safePointStop t sp => t.ok && sp ≤ 4
  | .loadDataArrival t _ _ l | .wsBankServe t _ l => t.ok && l < 32
  | .windowEntry c | .heldRecordEntry c | .barrierObjectRmw c | .tilestUpdate c | .dbgctlWrite c _ | .debugResume c =>
    c < 256
  | .atomicResponse c _ _ | .atomicRetry c _ _ | .storeDrain c _ | .atom c _ _ | .homeRed c _ _ => c < 256
  | .codeFetch c f _ => c < 256 && f < 64
  | .sequencerPick c x | .taskOverrun c x | .save c x | .abandon c x | .yieldRequest c x _ => placeOk c x
  | .enginePark c x _ | .engineCommandStart c x _ | .engineElementCommit c x _ | .engineElementFault c x _ _
  | .engineCommandComplete c x _ | .collectiveParkSignal c x _ | .collectiveSegmentHandoff c x _ => placeOk c x
  | .resume _ c => c < 256
  | .doorbell f q _ => f < 64 && q < 4096
  | .launchArrival f q => f < 64 && q < 4096
  | .bindRecordWrite s ws => s < 1024 && ws.length == 16
  | .placementDecision d | .thermalEmergency d | .dieOnline d | .logApply d | .dieLoss d => d < 4
  | .agingPromotion d s => d < 4 && s < 1024
  | .grantedLevelWrite cs l => cs.all (· < 256) && l < 3
  | .bandPowerSwitch q b _ | .bandRampDone q b => q < 64 && b < 4
  | .weirGather _ d | .restartProposal _ d | .restartAck _ d => d < 4
  | .podSyncArrival _ p | .podRouteLost p => p < 64
  | .leaseGrant q | .mxWindowSwitch q | .quadCacheSleep q | .quadCacheLoss q | .mxmodeWrite q _ _ | .wayGate q _ =>
    q < 64
  | .publication q _ | .gets q _ | .getm q _ | .upg q _ | .puts q _ | .putm q _ | .pub q _ | .treq q _ | .tdone q _
  | .unlinkAck q _ | .lineGrant q _ => q < 64
  | .writeGrantRequest q f _ | .writeGrantAnswer q f _ => q < 64 && f < 64
  | .hostRead f _ _ | .hostWrite f _ _ | .functionEnable f | .functionReset f | .fqheadWrite f _ | .fqctlWrite f _
  | .fqresResolved f _ | .fqresNoPage f _ | .invalAppend f _ | .configRequest f | .fstatusErrorClear f
  | .qbaseWrite f _ _ | .queueEnable f _ | .queueDisable f _ | .registerWrite f _ _ => f < 64
  | .rangeEntryWrite f i ws => f < 64 && i < 64 && ws.length == 4
  | .frameWindowWrite f d _ => f < 64 && d < 4
  | .pageWalk d f _ | .faultEntryWrite d f => d < 4 && f < 64
  | .powerOn p => p.length == 4
  | .takeTrap t sp c _ _ => t.ok && sp < 4 && 1 ≤ c && c ≤ 24
  | .timerEvent cs | .scanRead cs => cs.all (· < 256)
  | .externalEvent g _ => g.ok
  | .softError site _ => site.ok
  | .agentRejoin a => a.ok
  | .linkCrcError l | .linkDown l => l < 20
  | .linkWidthChange l w => l < 20 && (w == 1 || w == 2 || w == 4)
  | .scanWriteBack t r l _ => t.ok && (r < 128 && l < 32 || r == 128 || r == 129)
  | _ => true

end Sys2Proof
end

