-- ==== Sys2Proof/Decode.lean ====
section
/-! DEFINITION. The decoder of move words, of bundle headers and of line headers (03 R33 to R60), total, refusing by
name; and the encoder of well-formed moves. Field extraction is arithmetic on numbers: field [lo + n - 1 : lo] of `w`
is `w / 2^lo % 2^n`. -/

namespace Sys2Proof

/-- Why a word is not an instruction (03 R61): trap 0x01 or trap 0x02. -/
inductive DecodeError where
  | illegalMove
  | illegalOpcode
deriving DecidableEq, Repr

/-- What decoding a word gives. -/
inductive Decoded where
  | instr (i : Instr)
  | error (e : DecodeError)
deriving DecidableEq, Repr

/-- Field of `n` bits at bit `lo`. -/
def fld (w lo n : Nat) : Nat := w / 2 ^ lo % 2 ^ n

/-- The condition with a code 0x0 to 0xD (03 R44). -/
def condOf : Nat → Cond
  | 0 => .eq | 1 => .ne | 2 => .lt | 3 => .ge | 4 => .gt | 5 => .le | 6 => .ltn | 7 => .gen | 8 => .gtn | 9 => .len
  | 10 => .mi | 11 => .pl | 12 => .vs | _ => .vc

/-- The code of a condition (03 R44). -/
def Cond.code : Cond → Nat
  | .eq => 0 | .ne => 1 | .lt => 2 | .ge => 3 | .gt => 4 | .le => 5 | .ltn => 6 | .gen => 7 | .gtn => 8 | .len => 9
  | .mi => 10 | .pl => 11 | .vs => 12 | .vc => 13

/-- The guard that a cc select and a condition field name (03 R44). -/
def guardOf (cc cond : Nat) : Option Guard :=
  if cond < 14 then some (.flag (condOf cond) (Fin.ofNat 4 cc))
  else if cond = 14 then some (.stage (Fin.ofNat 4 cc))
  else match cc with
    | 0 => some .always
    | 1 => some .never
    | 2 => some .first
    | _ => none

/-- The cc select field of a guard. -/
def Guard.ccField : Guard → Nat
  | .flag _ cc => cc.val
  | .stage s => s.val
  | .always => 0
  | .never => 1
  | .first => 2

/-- The condition field of a guard. -/
def Guard.condField : Guard → Nat
  | .flag c _ => c.code
  | .stage _ => 14
  | .always | .never | .first => 15

/-- The identity register with an index from 0x0E9. -/
def identOf : Nat → Ident
  | 0 => .lane | 1 => .warp | 2 => .block | 3 => .nblk | 4 => .core | 5 => .quad | 6 => .die | 7 => .pkg | 8 => .gslot
  | _ => .iter

/-- The index of an identity register from 0x0E9. -/
def Ident.code : Ident → Nat
  | .lane => 0 | .warp => 1 | .block => 2 | .nblk => 3 | .core => 4 | .quad => 5 | .die => 6 | .pkg => 7 | .gslot => 8
  | .iter => 9

/-- The result port with an index from 0x080 (03 R49). -/
def resPortOf : Nat → Option ResPort
  | 0 => some .a0q | 1 => some .a0f | 2 => some .a1q | 3 => some .a1f | 4 => some .f0q | 5 => some .f0f
  | 6 => some .f1q | 7 => some .f1f | 8 => some .sq | 9 => some .vq | 10 => some .vf | 11 => some .xq | 12 => some .xm
  | 13 => some .cq | 14 => some (.ls 0) | 15 => some (.ls 1) | 16 => some (.ls 2) | 17 => some (.ls 3)
  | 18 => some (.lg 0) | 19 => some (.lg 1) | 20 => some (.lg 2) | 21 => some (.lg 3) | 22 => some (.lw 0)
  | 23 => some (.lw 1) | 24 => some (.lw 2) | 25 => some (.lw 3) | 26 => some .asq | 27 => some .agq | 28 => some .mxq
  | 29 => some .cp0q | 30 => some .cp1q | 31 => some .yq | 32 => some .kq | 33 => some .dqq | 34 => some .rlq
  | 35 => some .evq | 36 => some .smq | _ => none

/-- The index of a result port from 0x080 (03 R49). -/
def ResPort.code : ResPort → Nat
  | .a0q => 0 | .a0f => 1 | .a1q => 2 | .a1f => 3 | .f0q => 4 | .f0f => 5 | .f1q => 6 | .f1f => 7 | .sq => 8 | .vq => 9
  | .vf => 10 | .xq => 11 | .xm => 12 | .cq => 13 | .ls j => 14 + j.val | .lg j => 18 + j.val | .lw j => 22 + j.val
  | .asq => 26 | .agq => 27 | .mxq => 28 | .cp0q => 29 | .cp1q => 30 | .yq => 31 | .kq => 32 | .dqq => 33 | .rlq => 34
  | .evq => 35 | .smq => 36

/-- The source that an id names (03 R49); none where the id is reserved. -/
def srcOf (n : Nat) : Option Src :=
  if n < 0x80 then some (.g (Fin.ofNat 128 n))
  else if n < 0xC0 then (resPortOf (n - 0x80)).map .port
  else if n < 0xE0 then some (.k (Fin.ofNat 32 (n - 0xC0)))
  else if n < 0xE3 then some (.lat (Fin.ofNat 3 (n - 0xE0)))
  else if n < 0xE9 then some (.imm (Fin.ofNat 6 (n - 0xE3)))
  else if n < 0xF3 then some (.ident (identOf (n - 0xE9)))
  else if n < 0xF7 then some (.cc (Fin.ofNat 4 (n - 0xF3)))
  else if n < 0x100 then none
  else some (.short (BitVec.ofNat 8 (n - 0x100)))

/-- The id of a source (03 R49). -/
def Src.code : Src → Nat
  | .g n => n.val
  | .port p => 0x80 + p.code
  | .k n => 0xC0 + n.val
  | .lat n => 0xE0 + n.val
  | .imm j => 0xE3 + j.val
  | .ident i => 0xE9 + i.code
  | .cc n => 0xF3 + n.val
  | .short v => 0x100 + v.toNat

/-- The non-trigger port with an id (03 R50). -/
def opPortOf : Nat → Option OpPort
  | 0x80 => some .a0a | 0x82 => some .a1a | 0x84 => some .f0a | 0x85 => some .f0b | 0x87 => some .f1a | 0x88 => some .f1b
  | 0x8B => some .va | 0x8D => some .xa | 0x8F => some .ca | 0x92 => some .lgh | 0x95 => some .ssm
  | 0x96 => some (.ssd 0) | 0x97 => some (.ssd 1) | 0x98 => some (.ssd 2) | 0x99 => some (.ssd 3) | 0x9B => some .sgh
  | 0x9C => some .sgm | 0x9D => some (.sgd 0) | 0x9E => some (.sgd 1) | 0x9F => some (.sgd 2) | 0xA0 => some (.sgd 3)
  | 0xA2 => some .asa | 0xA3 => some .asb | 0xA5 => some .agh | 0xA6 => some .aga | 0xA7 => some .agb | 0xAA => some .mxa
  | 0xAB => some .mxb | 0xAD => some .cp0a | 0xAE => some .cp0b | 0xB0 => some .cp1a | 0xB1 => some .cp1b
  | 0xB3 => some .ya | 0xB5 => some .ka | 0xB9 => some .sma | _ => none

/-- The id of a non-trigger port (03 R50). -/
def OpPort.code : OpPort → Nat
  | .a0a => 0x80 | .a1a => 0x82 | .f0a => 0x84 | .f0b => 0x85 | .f1a => 0x87 | .f1b => 0x88 | .va => 0x8B | .xa => 0x8D
  | .ca => 0x8F | .lgh => 0x92 | .ssm => 0x95 | .ssd j => 0x96 + j.val | .sgh => 0x9B | .sgm => 0x9C
  | .sgd j => 0x9D + j.val | .asa => 0xA2 | .asb => 0xA3 | .agh => 0xA5 | .aga => 0xA6 | .agb => 0xA7 | .mxa => 0xAA
  | .mxb => 0xAB | .cp0a => 0xAD | .cp0b => 0xAE | .cp1a => 0xB0 | .cp1b => 0xB1 | .ya => 0xB3 | .ka => 0xB5
  | .sma => 0xB9

/-- The non-trigger destination with an id (03 R50). -/
def dstOf (n : Nat) : Option Dst :=
  if n < 0x80 then some (.g (Fin.ofNat 128 n))
  else if n < 0xC0 then (opPortOf n).map .port
  else if n < 0xE0 then some (.k (Fin.ofNat 32 (n - 0xC0)))
  else if n < 0xFC then none
  else some (.cc (Fin.ofNat 4 (n - 0xFC)))

/-- The id of a non-trigger destination (03 R50). -/
def Dst.code : Dst → Nat
  | .g n => n.val
  | .port p => p.code
  | .k n => 0xC0 + n.val
  | .cc n => 0xFC + n.val

/-- Halves code of bits [3:2] (03 R46). -/
def halfOf : Nat → Half
  | 0 => .word | 1 => .lo | 2 => .hi | _ => .swp

/-- Code of a halves modifier. -/
def Half.code : Half → Nat
  | .word => 0 | .lo => 1 | .hi => 2 | .swp => 3

/-- Bit 31 code of bits [1:0] (03 R46). -/
def signOf : Nat → Sign
  | 0 => .keep | 1 => .neg | 2 => .abs | _ => .nabs

/-- Code of a bit 31 modifier. -/
def Sign.code : Sign → Nat
  | .keep => 0 | .neg => 1 | .abs => 2 | .nabs => 3

/-- The modifiers of bits [5:0] (03 R46). -/
def modsOf (op : Nat) : Mods :=
  { try_ := fld op 5 1 == 1, pop := fld op 4 1 == 1, half := halfOf (fld op 2 2), sign := signOf (fld op 0 2) }

/-- Bits [6:0] of a move's modifiers. -/
def Mods.code (m : Mods) : Nat := m.try_.toNat * 32 + m.pop.toNat * 16 + m.half.code * 4 + m.sign.code

/-- Rounding mode of an FP opcode's low bits (03 R56). -/
def rmOf : Nat → Rm
  | 0 => .rn | 1 => .rz | 2 => .ru | _ => .rd

/-- Code of a rounding mode. -/
def Rm.code : Rm → Nat
  | .rn => 0 | .rz => 1 | .ru => 2 | .rd => 3

/-- The scope with a code (02 R30); 10 to 15 are reserved. -/
def scopeOf : Nat → Option Scope
  | 0 => some .ln | 1 => some .wp | 2 => some .bk | 3 => some .co | 4 => some .qd | 5 => some .di | 6 => some .tw
  | 7 => some .pk | 8 => some .pd | 9 => some .sy | _ => none

/-- The code of a scope (02 R30). -/
def Scope.code : Scope → Nat
  | .ln => 0 | .wp => 1 | .bk => 2 | .co => 3 | .qd => 4 | .di => 5 | .tw => 6 | .pk => 7 | .pd => 8 | .sy => 9

/-- The scope class with a code (03 R59); 7 is reserved. -/
def atomScopeOf : Nat → Option AtomScope
  | 0 => some .co | 1 => some .qd | 2 => some .di | 3 => some .tw | 4 => some .pk | 5 => some .pd | 6 => some .sy
  | _ => none

/-- The code of a scope class. -/
def AtomScope.code : AtomScope → Nat
  | .co => 0 | .qd => 1 | .di => 2 | .tw => 3 | .pk => 4 | .pd => 5 | .sy => 6

/-- The width with a code (03 R59). -/
def widthOf : Nat → Width
  | 0 => .b | 1 => .bn | 2 => .h | 3 => .hn | 4 => .w | 5 => .d | 6 => .q | _ => .m

/-- The code of a width (03 R59). -/
def Width.code : Width → Nat
  | .b => 0 | .bn => 1 | .h => 2 | .hn => 3 | .w => 4 | .d => 5 | .q => 6 | .m => 7

/-- The hint with a code (03 R59); 3 is reserved. -/
def hintOf : Nat → Option Hint
  | 0 => some .normal | 1 => some .stream | 2 => some .keep | _ => none

/-- The code of a hint. -/
def Hint.code : Hint → Nat
  | .normal => 0 | .stream => 1 | .keep => 2

/-- ALU opcodes (03 R55). -/
def aluOf (h : Head) (u : Fin 2) : Nat → Option Instr
  | 0 => some (.add h u) | 1 => some (.adc h u) | 2 => some (.sub h u) | 3 => some (.sbc h u) | 4 => some (.rsb h u)
  | 5 => some (.and h u) | 6 => some (.or h u) | 7 => some (.xor h u) | 8 => some (.andn h u) | 9 => some (.orn h u)
  | 10 => some (.shl h u) | 11 => some (.shr h u) | 12 => some (.sar h u) | 13 => some (.rol h u)
  | 14 => some (.ror h u) | 15 => some (.min h u) | 16 => some (.max h u) | 17 => some (.minn h u)
  | 18 => some (.maxn h u) | 19 => some (.abs h u) | 20 => some (.addv h u) | 21 => some (.subv h u)
  | 22 => some (.mul h u) | 23 => some (.mulh h u) | 24 => some (.mulhn h u) | 25 => some (.div h u)
  | 26 => some (.rem h u) | 27 => some (.divn h u) | 28 => some (.remn h u) | 29 => some (.ads1 h u)
  | 30 => some (.ads2 h u) | 31 => some (.ads3 h u) | 32 => some (.ads4 h u) | 33 => some (.bfe h u)
  | 34 => some (.bfen h u) | 35 => some (.popc h u) | 36 => some (.clz h u) | 37 => some (.ctz h u)
  | 38 => some (.brev h u) | 39 => some (.bswp h u) | 40 => some (.sxb h u) | 41 => some (.sxh h u)
  | 42 => some (.zxb h u) | 43 => some (.zxh h u) | 44 => some (.mova h u) | _ => none

/-- FP operations: op, then the rounding mode of bits [1:0] (03 R56). -/
def fpOf (h : Head) (u : Fin 2) (op : Nat) : Option Instr :=
  let rm := rmOf (fld op 0 2)
  let plain (i : Instr) : Option Instr := if fld op 0 2 = 0 then some i else none
  match op / 4 with
  | 0 => some (.fma h u rm)
  | 1 => some (.fms h u rm)
  | 2 => some (.fnma h u rm)
  | 3 => some (.fnms h u rm)
  | 4 => some (.fadd h u rm)
  | 5 => some (.fsub h u rm)
  | 6 => some (.fmul h u rm)
  | 7 => plain (.fmin h u)
  | 8 => plain (.fmax h u)
  | 9 => plain (.fcmp h u)
  | 10 => some (.frnd h u rm)
  | 11 => some (.fscl h u rm)
  | 12 => some (.hfma2 h u rm)
  | 13 => some (.hadd2 h u rm)
  | 14 => some (.hmul2 h u rm)
  | 15 => some (.bfma2 h u rm)
  | 16 => some (.badd2 h u rm)
  | 17 => some (.bmul2 h u rm)
  | 18 => some (.fdot2h h u rm)
  | 19 => some (.fdot2b h u rm)
  | _ => none

/-- S opcodes (03 R57). -/
def sOf (h : Head) : Nat → Option Instr
  | 0 => some (.rcp h) | 1 => some (.rsq h) | 2 => some (.sqrt h) | 3 => some (.ex2 h) | 4 => some (.lg2 h)
  | 5 => some (.sinr h) | 6 => some (.cosr h) | 7 => some (.tanh h) | _ => none

/-- V opcodes (03 R57): 0x06 and 0x07 are reserved. -/
def vOf (h : Head) : Nat → Option Instr
  | 0 => some (.cvt h) | 1 => some (.qntS8 h) | 2 => some (.qntN8 h) | 3 => some (.qntS4 h) | 4 => some (.qntN4 h)
  | 5 => some (.qntS16 h) | 8 => some (.dqn h) | 9 => some (.pkh h) | 10 => some (.pkb h) | _ => none

/-- X opcodes (03 R57). -/
def xOf (h : Head) : Nat → Option Instr
  | 0 => some (.shfl h) | 1 => some (.shup h) | 2 => some (.shdn h) | 3 => some (.shxr h) | 4 => some (.bcst h)
  | 5 => some (.ball h) | 6 => some (.vany h) | 7 => some (.vall h) | 8 => some (.matchPeers h)
  | 9 => some (.mtcha h) | 10 => some (.wadd h) | 11 => some (.wmin h) | 12 => some (.wmax h) | 13 => some (.wminn h)
  | 14 => some (.wmaxn h) | 15 => some (.wand h) | 16 => some (.wor h) | 17 => some (.wxor h) | 18 => some (.wfadd h)
  | 19 => some (.scan h) | 20 => some (.scanx h) | 21 => some (.pln h) | 22 => some (.plg h) | _ => none

/-- C opcodes (03 R58). JOIN, LOOP, LBACK and RFL must carry the guard "always" (04 R64, R65). -/
def cOf (h : Head) (op : Nat) : Option Instr :=
  let unguarded (i : Instr) : Option Instr := if h.guard = .always then some i else none
  match op with
  | 0 => some (.bra h)
  | 1 => some (.brc h)
  | 2 => unguarded (.join h.src h.hold)
  | 3 => some (.call h)
  | 4 => some (.ret h)
  | 5 => unguarded (.loop h.src h.hold)
  | 6 => unguarded (.lback h.src h.hold)
  | 7 => some (.lext h)
  | 8 => some (.exit h)
  | 9 => some (.endTask h)
  | 10 => unguarded (.rfl h.src h.hold)
  | 11 => some (.psw h)
  | 12 => some (.brk h)
  | 13 => some (.wait h)
  | _ => none

/-- Y opcodes (03 R58); REL, ACQ and FEN carry a scope code in bits [3:0]. -/
def yOf (h : Head) (op : Nat) : Option Instr :=
  match op with
  | 0 => some (.bar h)
  | 1 => some (.bara h)
  | 2 => some (.barw h)
  | 3 => some (.sync h)
  | 4 => some (.boi h)
  | 5 => some (.box h)
  | 6 => some (.boa h)
  | 7 => some (.bow h)
  | 8 => some (.bot h)
  | _ => match op / 16, scopeOf (op % 16) with
    | 1, some e => some (.rel h e)
    | 2, some e => some (.acq h e)
    | 3, some e => some (.fen h e)
    | _, _ => none

/-- K opcodes (03 R58). -/
def kOf (h : Head) : Nat → Option Instr
  | 0 => some (.csrr h) | 1 => some (.csrw h) | 2 => some (.trap h) | 3 => some (.rte h) | 4 => some (.chk h)
  | 5 => some (.shp h) | 6 => some (.obj h) | 7 => some (.evt h) | _ => none

/-- MX opcodes (03 R60). -/
def mxOf (h : Head) : Nat → Option Instr
  | 0 => some (.mxw h) | 1 => some (.mxs h) | 2 => some (.mxg h) | 3 => some (.mxd h) | 4 => some (.mxz h)
  | 5 => some (.mxr h) | 6 => some (.mxq h) | 7 => some (.mxa h) | _ => none

/-- CP opcodes (03 R60). -/
def cpOf (h : Head) (u : Fin 2) : Nat → Option Instr
  | 0 => some (.cpy h u) | 1 => some (.gth h u) | 2 => some (.sct h u) | 3 => some (.ard h u) | 4 => some (.bcs h u)
  | 5 => some (.cpr h u) | 6 => some (.cpq h u) | 7 => some (.cpf h u) | _ => none

/-- LS, LG, LW, SS and SG opcodes (03 R59): hint [6:5], prefetch [4], speculative [3], width [2:0]. -/
def ldsOf (h : Head) (op : Nat) : Option Instr := if op < 7 then some (.lds h (widthOf op)) else none

/-- LG.t opcodes. -/
def ldgOf (h : Head) (op : Nat) : Option Instr :=
  if fld op 0 3 = 7 then none
  else match hintOf (fld op 5 2), fld op 4 1, fld op 3 1 with
    | some n, 0, 0 => some (.ldg h (widthOf (fld op 0 3)) n)
    | some n, 0, 1 => some (.ldgs h (widthOf (fld op 0 3)) n)
    | some n, 1, 0 => some (.pfg h (widthOf (fld op 0 3)) n)
    | _, _, _ => none

/-- LW.t opcodes. -/
def ldwOf (h : Head) (op : Nat) : Option Instr := if 4 ≤ op ∧ op ≤ 6 then some (.ldw h (widthOf op)) else none

/-- SS.t opcodes. -/
def stsOf (h : Head) (op : Nat) : Option Instr :=
  if op < 8 ∧ (widthOf op).store = true then some (.sts h (widthOf op)) else none

/-- SG.t opcodes. -/
def stgOf (h : Head) (op : Nat) : Option Instr :=
  if (widthOf (fld op 0 3)).store = true ∧ fld op 3 2 = 0 then
    (hintOf (fld op 5 2)).map fun n => .stg h (widthOf (fld op 0 3)) n
  else none

/-- AS.t operations (03 R59). -/
def atsOf (h : Head) : Nat → Option Instr
  | 0 => some (.atsAdd h) | 1 => some (.atsMin h) | 2 => some (.atsMax h) | 3 => some (.atsMinn h)
  | 4 => some (.atsMaxn h) | 5 => some (.atsAnd h) | 6 => some (.atsOr h) | 7 => some (.atsXor h)
  | 8 => some (.atsXchg h) | 9 => some (.atsCas h) | 10 => some (.atsInc h) | 11 => some (.atsDec h)
  | 12 => some (.atsFadd h) | _ => none

/-- AG.t operations (03 R59). -/
def atgOf (h : Head) (c : AtomScope) : Nat → Option Instr
  | 0 => some (.atgAdd h c) | 1 => some (.atgMin h c) | 2 => some (.atgMax h c) | 3 => some (.atgMinn h c)
  | 4 => some (.atgMaxn h c) | 5 => some (.atgAnd h c) | 6 => some (.atgOr h c) | 7 => some (.atgXor h c)
  | 8 => some (.atgXchg h c) | 9 => some (.atgCas h c) | 10 => some (.atgInc h c) | 11 => some (.atgDec h c)
  | 12 => some (.atgFadd h c) | _ => none

/-- RG.t operations (03 R59): 8 and 9 are reserved. -/
def redOf (h : Head) (c : AtomScope) : Nat → Option Instr
  | 0 => some (.redAdd h c) | 1 => some (.redMin h c) | 2 => some (.redMax h c) | 3 => some (.redMinn h c)
  | 4 => some (.redMaxn h c) | 5 => some (.redAnd h c) | 6 => some (.redOr h c) | 7 => some (.redXor h c)
  | 10 => some (.redInc h c) | 11 => some (.redDec h c) | 12 => some (.redFadd h c) | _ => none

/-- Opcodes with a scope class in [6:4] and an operation in [3:0] (03 R59). -/
def classOf (f : AtomScope → Nat → Option Instr) (op : Nat) : Option Instr :=
  (atomScopeOf (op / 16)).bind fun c => f c (op % 16)

/-- The instruction that a trigger port's opcode names (03 R50, R55 to R60): `none` where the destination is no trigger
port, `some none` where the opcode is reserved. -/
def triggerOf (h : Head) (dst op : Nat) : Option (Option Instr) :=
  match dst with
  | 0x81 => some (aluOf h 0 op)
  | 0x83 => some (aluOf h 1 op)
  | 0x86 => some (fpOf h 0 op)
  | 0x89 => some (fpOf h 1 op)
  | 0x8A => some (sOf h op)
  | 0x8C => some (vOf h op)
  | 0x8E => some (xOf h op)
  | 0x90 => some (cOf h op)
  | 0x91 => some (ldsOf h op)
  | 0x93 => some (ldgOf h op)
  | 0x94 => some (ldwOf h op)
  | 0x9A => some (stsOf h op)
  | 0xA1 => some (stgOf h op)
  | 0xA4 => some (atsOf h op)
  | 0xA8 => some (classOf (atgOf h) op)
  | 0xA9 => some (classOf (redOf h) op)
  | 0xAC => some (mxOf h op)
  | 0xAF => some (cpOf h 0 op)
  | 0xB2 => some (cpOf h 1 op)
  | 0xB4 => some (yOf h op)
  | 0xB6 => some (kOf h op)
  | 0xB7 => some (match op with | 0 => some (.dqp h) | _ => none)
  | 0xBA => some (match op with | 0 => some (.sinc h) | 1 => some (.sdec h) | 2 => some (.sset h) | _ => none)
  | 0xBB => some (match op with | 0 => some (.lacq h) | 1 => some (.lrel h) | _ => none)
  | 0xBC => some (match op with | 0 => some (.tarm h) | 1 => some (.tdis h) | _ => none)
  | 0xBD => some (match op with | 0 => some (.cti h) | 1 => some (.ctd h) | 2 => some (.cts h) | _ => none)
  | _ => none

/-- Decodes one move word (03 R43 to R60): the illegal-move checks come before the illegal-opcode check (R62). What
depends on the code kind, the register count and the bundle's immediate words (R51) is checked at the bundle. -/
def decodeMove (w : Nat) : Decoded :=
  match guardOf (fld w 30 2) (fld w 26 4), srcOf (fld w 9 9) with
  | some g, some x =>
    let h : Head := { guard := g, src := x, hold := Fin.ofNat 4 (fld w 7 2) }
    let op := fld w 0 7
    match triggerOf h (fld w 18 8) op with
    | some (some i) => .instr i
    | some none => .error .illegalOpcode
    | none =>
      match dstOf (fld w 18 8) with
      | none => .error .illegalMove
      | some d =>
        if fld w 6 1 = 1 ∨ (modsOf op).legal x d = false then .error .illegalMove
        else .instr (.move h d (modsOf op))
  | _, _ => .error .illegalMove

/-- The instruction the decoder reads from a word laid out as the opcode table numbers its bits: the table's 32-bit rows
are one move word; an event has no bits. -/
def decodeTableWord (nbits w : Nat) : Option Instr :=
  if nbits = 32 then
    match decodeMove (w % 2 ^ 32) with
    | .instr i => some i
    | .error _ => none
  else none

/-! ## The encoder -/

/-- Guard, source, hold, destination and opcode of a move; none for an event. -/
def Instr.parts : Instr → Option (Head × Nat × Nat)
  | .move h d m => some (h, d.code, m.code)
  | .add h u => some (h, 0x81 + 2 * u.val, 0)
  | .adc h u => some (h, 0x81 + 2 * u.val, 1)
  | .sub h u => some (h, 0x81 + 2 * u.val, 2)
  | .sbc h u => some (h, 0x81 + 2 * u.val, 3)
  | .rsb h u => some (h, 0x81 + 2 * u.val, 4)
  | .and h u => some (h, 0x81 + 2 * u.val, 5)
  | .or h u => some (h, 0x81 + 2 * u.val, 6)
  | .xor h u => some (h, 0x81 + 2 * u.val, 7)
  | .andn h u => some (h, 0x81 + 2 * u.val, 8)
  | .orn h u => some (h, 0x81 + 2 * u.val, 9)
  | .shl h u => some (h, 0x81 + 2 * u.val, 10)
  | .shr h u => some (h, 0x81 + 2 * u.val, 11)
  | .sar h u => some (h, 0x81 + 2 * u.val, 12)
  | .rol h u => some (h, 0x81 + 2 * u.val, 13)
  | .ror h u => some (h, 0x81 + 2 * u.val, 14)
  | .min h u => some (h, 0x81 + 2 * u.val, 15)
  | .max h u => some (h, 0x81 + 2 * u.val, 16)
  | .minn h u => some (h, 0x81 + 2 * u.val, 17)
  | .maxn h u => some (h, 0x81 + 2 * u.val, 18)
  | .abs h u => some (h, 0x81 + 2 * u.val, 19)
  | .addv h u => some (h, 0x81 + 2 * u.val, 20)
  | .subv h u => some (h, 0x81 + 2 * u.val, 21)
  | .mul h u => some (h, 0x81 + 2 * u.val, 22)
  | .mulh h u => some (h, 0x81 + 2 * u.val, 23)
  | .mulhn h u => some (h, 0x81 + 2 * u.val, 24)
  | .div h u => some (h, 0x81 + 2 * u.val, 25)
  | .rem h u => some (h, 0x81 + 2 * u.val, 26)
  | .divn h u => some (h, 0x81 + 2 * u.val, 27)
  | .remn h u => some (h, 0x81 + 2 * u.val, 28)
  | .ads1 h u => some (h, 0x81 + 2 * u.val, 29)
  | .ads2 h u => some (h, 0x81 + 2 * u.val, 30)
  | .ads3 h u => some (h, 0x81 + 2 * u.val, 31)
  | .ads4 h u => some (h, 0x81 + 2 * u.val, 32)
  | .bfe h u => some (h, 0x81 + 2 * u.val, 33)
  | .bfen h u => some (h, 0x81 + 2 * u.val, 34)
  | .popc h u => some (h, 0x81 + 2 * u.val, 35)
  | .clz h u => some (h, 0x81 + 2 * u.val, 36)
  | .ctz h u => some (h, 0x81 + 2 * u.val, 37)
  | .brev h u => some (h, 0x81 + 2 * u.val, 38)
  | .bswp h u => some (h, 0x81 + 2 * u.val, 39)
  | .sxb h u => some (h, 0x81 + 2 * u.val, 40)
  | .sxh h u => some (h, 0x81 + 2 * u.val, 41)
  | .zxb h u => some (h, 0x81 + 2 * u.val, 42)
  | .zxh h u => some (h, 0x81 + 2 * u.val, 43)
  | .mova h u => some (h, 0x81 + 2 * u.val, 44)
  | .fma h u rm => some (h, 0x86 + 3 * u.val, 0 + rm.code)
  | .fms h u rm => some (h, 0x86 + 3 * u.val, 4 + rm.code)
  | .fnma h u rm => some (h, 0x86 + 3 * u.val, 8 + rm.code)
  | .fnms h u rm => some (h, 0x86 + 3 * u.val, 12 + rm.code)
  | .fadd h u rm => some (h, 0x86 + 3 * u.val, 16 + rm.code)
  | .fsub h u rm => some (h, 0x86 + 3 * u.val, 20 + rm.code)
  | .fmul h u rm => some (h, 0x86 + 3 * u.val, 24 + rm.code)
  | .fmin h u => some (h, 0x86 + 3 * u.val, 28)
  | .fmax h u => some (h, 0x86 + 3 * u.val, 32)
  | .fcmp h u => some (h, 0x86 + 3 * u.val, 36)
  | .frnd h u rm => some (h, 0x86 + 3 * u.val, 40 + rm.code)
  | .fscl h u rm => some (h, 0x86 + 3 * u.val, 44 + rm.code)
  | .hfma2 h u rm => some (h, 0x86 + 3 * u.val, 48 + rm.code)
  | .hadd2 h u rm => some (h, 0x86 + 3 * u.val, 52 + rm.code)
  | .hmul2 h u rm => some (h, 0x86 + 3 * u.val, 56 + rm.code)
  | .bfma2 h u rm => some (h, 0x86 + 3 * u.val, 60 + rm.code)
  | .badd2 h u rm => some (h, 0x86 + 3 * u.val, 64 + rm.code)
  | .bmul2 h u rm => some (h, 0x86 + 3 * u.val, 68 + rm.code)
  | .fdot2h h u rm => some (h, 0x86 + 3 * u.val, 72 + rm.code)
  | .fdot2b h u rm => some (h, 0x86 + 3 * u.val, 76 + rm.code)
  | .rcp h => some (h, 0x8A, 0)
  | .rsq h => some (h, 0x8A, 1)
  | .sqrt h => some (h, 0x8A, 2)
  | .ex2 h => some (h, 0x8A, 3)
  | .lg2 h => some (h, 0x8A, 4)
  | .sinr h => some (h, 0x8A, 5)
  | .cosr h => some (h, 0x8A, 6)
  | .tanh h => some (h, 0x8A, 7)
  | .cvt h => some (h, 0x8C, 0)
  | .qntS8 h => some (h, 0x8C, 1)
  | .qntN8 h => some (h, 0x8C, 2)
  | .qntS4 h => some (h, 0x8C, 3)
  | .qntN4 h => some (h, 0x8C, 4)
  | .qntS16 h => some (h, 0x8C, 5)
  | .dqn h => some (h, 0x8C, 8)
  | .pkh h => some (h, 0x8C, 9)
  | .pkb h => some (h, 0x8C, 10)
  | .shfl h => some (h, 0x8E, 0)
  | .shup h => some (h, 0x8E, 1)
  | .shdn h => some (h, 0x8E, 2)
  | .shxr h => some (h, 0x8E, 3)
  | .bcst h => some (h, 0x8E, 4)
  | .ball h => some (h, 0x8E, 5)
  | .vany h => some (h, 0x8E, 6)
  | .vall h => some (h, 0x8E, 7)
  | .matchPeers h => some (h, 0x8E, 8)
  | .mtcha h => some (h, 0x8E, 9)
  | .wadd h => some (h, 0x8E, 10)
  | .wmin h => some (h, 0x8E, 11)
  | .wmax h => some (h, 0x8E, 12)
  | .wminn h => some (h, 0x8E, 13)
  | .wmaxn h => some (h, 0x8E, 14)
  | .wand h => some (h, 0x8E, 15)
  | .wor h => some (h, 0x8E, 16)
  | .wxor h => some (h, 0x8E, 17)
  | .wfadd h => some (h, 0x8E, 18)
  | .scan h => some (h, 0x8E, 19)
  | .scanx h => some (h, 0x8E, 20)
  | .pln h => some (h, 0x8E, 21)
  | .plg h => some (h, 0x8E, 22)
  | .bra h => some (h, 0x90, 0)
  | .brc h => some (h, 0x90, 1)
  | .join x k => some ({ guard := .always, src := x, hold := k }, 0x90, 2)
  | .call h => some (h, 0x90, 3)
  | .ret h => some (h, 0x90, 4)
  | .loop x k => some ({ guard := .always, src := x, hold := k }, 0x90, 5)
  | .lback x k => some ({ guard := .always, src := x, hold := k }, 0x90, 6)
  | .lext h => some (h, 0x90, 7)
  | .exit h => some (h, 0x90, 8)
  | .endTask h => some (h, 0x90, 9)
  | .rfl x k => some ({ guard := .always, src := x, hold := k }, 0x90, 10)
  | .psw h => some (h, 0x90, 11)
  | .brk h => some (h, 0x90, 12)
  | .wait h => some (h, 0x90, 13)
  | .bar h => some (h, 0xB4, 0)
  | .bara h => some (h, 0xB4, 1)
  | .barw h => some (h, 0xB4, 2)
  | .sync h => some (h, 0xB4, 3)
  | .boi h => some (h, 0xB4, 4)
  | .box h => some (h, 0xB4, 5)
  | .boa h => some (h, 0xB4, 6)
  | .bow h => some (h, 0xB4, 7)
  | .bot h => some (h, 0xB4, 8)
  | .rel h e => some (h, 0xB4, 16 + e.code)
  | .acq h e => some (h, 0xB4, 32 + e.code)
  | .fen h e => some (h, 0xB4, 48 + e.code)
  | .csrr h => some (h, 0xB6, 0)
  | .csrw h => some (h, 0xB6, 1)
  | .trap h => some (h, 0xB6, 2)
  | .rte h => some (h, 0xB6, 3)
  | .chk h => some (h, 0xB6, 4)
  | .shp h => some (h, 0xB6, 5)
  | .obj h => some (h, 0xB6, 6)
  | .evt h => some (h, 0xB6, 7)
  | .mxw h => some (h, 0xAC, 0)
  | .mxs h => some (h, 0xAC, 1)
  | .mxg h => some (h, 0xAC, 2)
  | .mxd h => some (h, 0xAC, 3)
  | .mxz h => some (h, 0xAC, 4)
  | .mxr h => some (h, 0xAC, 5)
  | .mxq h => some (h, 0xAC, 6)
  | .mxa h => some (h, 0xAC, 7)
  | .cpy h u => some (h, 0xAF + 3 * u.val, 0)
  | .gth h u => some (h, 0xAF + 3 * u.val, 1)
  | .sct h u => some (h, 0xAF + 3 * u.val, 2)
  | .ard h u => some (h, 0xAF + 3 * u.val, 3)
  | .bcs h u => some (h, 0xAF + 3 * u.val, 4)
  | .cpr h u => some (h, 0xAF + 3 * u.val, 5)
  | .cpq h u => some (h, 0xAF + 3 * u.val, 6)
  | .cpf h u => some (h, 0xAF + 3 * u.val, 7)
  | .dqp h => some (h, 0xB7, 0)
  | .sinc h => some (h, 0xBA, 0)
  | .sdec h => some (h, 0xBA, 1)
  | .sset h => some (h, 0xBA, 2)
  | .lacq h => some (h, 0xBB, 0)
  | .lrel h => some (h, 0xBB, 1)
  | .tarm h => some (h, 0xBC, 0)
  | .tdis h => some (h, 0xBC, 1)
  | .cti h => some (h, 0xBD, 0)
  | .ctd h => some (h, 0xBD, 1)
  | .cts h => some (h, 0xBD, 2)
  | .lds h wd => some (h, 0x91, wd.code)
  | .ldg h wd n => some (h, 0x93, n.code * 32 + wd.code)
  | .ldgs h wd n => some (h, 0x93, n.code * 32 + 8 + wd.code)
  | .pfg h wd n => some (h, 0x93, n.code * 32 + 16 + wd.code)
  | .ldw h wd => some (h, 0x94, wd.code)
  | .sts h wd => some (h, 0x9A, wd.code)
  | .stg h wd n => some (h, 0xA1, n.code * 32 + wd.code)
  | .atsAdd h => some (h, 0xA4, 0)
  | .atsMin h => some (h, 0xA4, 1)
  | .atsMax h => some (h, 0xA4, 2)
  | .atsMinn h => some (h, 0xA4, 3)
  | .atsMaxn h => some (h, 0xA4, 4)
  | .atsAnd h => some (h, 0xA4, 5)
  | .atsOr h => some (h, 0xA4, 6)
  | .atsXor h => some (h, 0xA4, 7)
  | .atsXchg h => some (h, 0xA4, 8)
  | .atsCas h => some (h, 0xA4, 9)
  | .atsInc h => some (h, 0xA4, 10)
  | .atsDec h => some (h, 0xA4, 11)
  | .atsFadd h => some (h, 0xA4, 12)
  | .atgAdd h c => some (h, 0xA8, c.code * 16 + 0)
  | .atgMin h c => some (h, 0xA8, c.code * 16 + 1)
  | .atgMax h c => some (h, 0xA8, c.code * 16 + 2)
  | .atgMinn h c => some (h, 0xA8, c.code * 16 + 3)
  | .atgMaxn h c => some (h, 0xA8, c.code * 16 + 4)
  | .atgAnd h c => some (h, 0xA8, c.code * 16 + 5)
  | .atgOr h c => some (h, 0xA8, c.code * 16 + 6)
  | .atgXor h c => some (h, 0xA8, c.code * 16 + 7)
  | .atgXchg h c => some (h, 0xA8, c.code * 16 + 8)
  | .atgCas h c => some (h, 0xA8, c.code * 16 + 9)
  | .atgInc h c => some (h, 0xA8, c.code * 16 + 10)
  | .atgDec h c => some (h, 0xA8, c.code * 16 + 11)
  | .atgFadd h c => some (h, 0xA8, c.code * 16 + 12)
  | .redAdd h c => some (h, 0xA9, c.code * 16 + 0)
  | .redMin h c => some (h, 0xA9, c.code * 16 + 1)
  | .redMax h c => some (h, 0xA9, c.code * 16 + 2)
  | .redMinn h c => some (h, 0xA9, c.code * 16 + 3)
  | .redMaxn h c => some (h, 0xA9, c.code * 16 + 4)
  | .redAnd h c => some (h, 0xA9, c.code * 16 + 5)
  | .redOr h c => some (h, 0xA9, c.code * 16 + 6)
  | .redXor h c => some (h, 0xA9, c.code * 16 + 7)
  | .redInc h c => some (h, 0xA9, c.code * 16 + 10)
  | .redDec h c => some (h, 0xA9, c.code * 16 + 11)
  | .redFadd h c => some (h, 0xA9, c.code * 16 + 12)
  | _ => none

/-- The number of a move word with these fields (03 R43). -/
def moveWord (h : Head) (dst op : Nat) : Nat :=
  h.guard.ccField * 2 ^ 30 + h.guard.condField * 2 ^ 26 + dst * 2 ^ 18 + h.src.code * 2 ^ 9 + h.hold.val * 2 ^ 7 + op

/-- The word of a move; none for an event, which has no encoding. -/
def encode (i : Instr) : Option Nat := i.parts.map fun p => moveWord p.1 p.2.1 p.2.2

/-! ## Bundle and line headers -/

/-- A bundle header's fields (03 R37). -/
structure Header where
  delay : Nat
  reserved : Bool
  safe : Bool
  bump : Nat
  nimm : Nat
  bumps : Nat
  repeats : Nat
  present : Nat
deriving DecidableEq, Repr

/-- The fields of a header word (03 R37). -/
def headerOf (w : Word) : Header :=
  { delay := fld w.toNat 28 4, reserved := fld w.toNat 27 1 == 1, safe := fld w.toNat 26 1 == 1,
    bump := fld w.toNat 21 5, nimm := fld w.toNat 18 3, bumps := fld w.toNat 12 6, repeats := fld w.toNat 6 6,
    present := fld w.toNat 0 6 }

/-- Bit `i` of a number. -/
def nbit (n i : Nat) : Bool := n / 2 ^ i % 2 == 1

/-- Number of set bits among the low `k`. -/
def popcount (n k : Nat) : Nat := ((List.range k).filter (nbit n)).length

/-- The length of a bundle in words (03 R38). -/
def Header.length (h : Header) : Nat := 1 + popcount h.present 6 + h.nimm

/-- The bump step in bytes, as a word (03 R37): signed five bits times 4. -/
def Header.step (h : Header) : Word := sextNat 5 h.bump * 4#32

/-- What makes a header illegal by itself (03 R39); `target` says that the bundle is marked in its line's target
mask. -/
def Header.illegal (h : Header) (target : Bool) : Bool :=
  h.reserved || h.nimm == 7
    || (List.range 6).any (fun i => nbit h.present i && nbit h.repeats i)
    || (List.range 6).any (fun i => nbit h.bumps i && !nbit h.repeats i)
    || (h.bumps == 0 && h.bump != 0)
    || (target && h.repeats != 0)

/-- Where the bundles of a line start, walking the headers from word 2 (03 R34): word numbers, at most `n` bundles;
`none` where a bundle crosses word 31. -/
def bundleStarts (ws : List Word) : Nat → Nat → List Nat → Option (List Nat)
  | 0, _, acc => some acc
  | n + 1, at_, acc =>
    let e := at_ + (headerOf (ws.getD at_ 0#32)).length
    if e ≤ 32 then bundleStarts ws n e (acc ++ [at_]) else none

/-- The first word of a line's header that breaks R33 or R34, if any: word 0 where the start mask is illegal, word 1
where a target bit is not a start bit. -/
def lineHeaderBad (ws : List Word) : Option Word :=
  let w0 := ws.getD 0 0#32
  let w1 := ws.getD 1 0#32
  let starts := fld w0.toNat 0 30
  let marked := (List.range 30).filter (nbit starts)
  if fld w0.toNat 30 2 ≠ 0 then some w0
  else if starts ≠ 0 ∧ (bundleStarts ws marked.length 2 []).map (·.map (· - 2)) ≠ some marked then some w0
  else if fld w1.toNat 30 2 ≠ 0 then some w1
  else if (List.range 30).any (fun i => nbit w1.toNat i && !nbit starts i) then some w1
  else none

end Sys2Proof
end

