-- ==== Sys2Proof/Machine/Tab.lean ====
section
/-! DEFINITION. Sparse tables in one canonical form: pairs of key and value, keys strictly rising, no entry equal to
what an unlisted key reads as. Memories are such tables of bytes (`Host.Cell`). -/

namespace Sys2Proof.Machine

/-- A sparse table by natural key. -/
abbrev Tab (α : Type) := List (Nat × α)

/-- The value at key `k`; `d` where it is unlisted. -/
def Tab.get {α : Type} (d : α) : Tab α → Nat → α
  | [], _ => d
  | (j, v) :: r, k => if j = k then v else Tab.get d r k

/-- Lists `v` at key `k`. -/
def Tab.insert {α : Type} : Tab α → Nat → α → Tab α
  | [], k, v => [(k, v)]
  | (j, u) :: r, k, v =>
    if k < j then (k, v) :: (j, u) :: r else if k = j then (k, v) :: r else (j, u) :: Tab.insert r k v

/-- Unlists key `k`. -/
def Tab.erase {α : Type} (m : Tab α) (k : Nat) : Tab α := m.filter fun e => e.1 != k

/-- Makes key `k` read as `v`, in canonical form. -/
def Tab.set {α : Type} [DecidableEq α] (d : α) (m : Tab α) (k : Nat) (v : α) : Tab α :=
  if v = d then Tab.erase m k else Tab.insert m k v

/-- Keys strictly rise. -/
def Tab.sorted {α : Type} : Tab α → Bool
  | [] => true
  | [_] => true
  | (j, _) :: (k, v) :: r => decide (j < k) && Tab.sorted ((k, v) :: r)

/-- The canonical form: keys strictly rise and no entry equals the default. -/
def Tab.wf {α : Type} [DecidableEq α] (d : α) (m : Tab α) : Bool :=
  Tab.sorted m && m.all fun e => decide (e.2 ≠ d)

/-- Listed entries whose key lies in `[lo, hi)`. -/
def Tab.within {α : Type} (m : Tab α) (lo hi : Nat) : Tab α := m.filter fun e => lo ≤ e.1 && e.1 < hi

/-- Unlists every key in `[lo, hi)`. -/
def Tab.clear {α : Type} (m : Tab α) (lo hi : Nat) : Tab α := m.filter fun e => !(lo ≤ e.1 && e.1 < hi)

end Sys2Proof.Machine
end

