-- ==== Sys2Proof/Machine/State.lean ====
section
/-! DEFINITION. The state of the part: plain data, everything the spec gives the machine. Lanes hold words in one table
per thread, keyed by register and lane; threads, blocks, cores, quads, dies and functions stand in sparse tables whose
unlisted entries are as after reset. Cores are numbered die x 64 + core, quads die x 16 + quad. -/

namespace Sys2Proof.Machine

/-! ## Threads -/

/-- A fixed-latency result in flight (16 R316, R320): unit 0 A0, 1 A1, 2 F0, 3 F1, 4 S, 5 V, 6 X.q, 7 X.m. It lands at
the start of cycle `due`. -/
structure Flight where
  unit : Nat
  mask : Mask
  vals : LaneVec
  flags : List (BitVec 4)
  raised : BitVec 5
  due : Nat
  split : Nat
deriving DecidableEq, Repr

/-- A result on its way to a variable-latency port or to SM.q (16 R310, 10 R202, 04 R87): it fills at `due`, or, where
`late` says so, at any time from `due` on. -/
structure Fill where
  port : ResPort
  mask : Mask
  vals : LaneVec
  due : Nat
  late : Bool
deriving DecidableEq, Repr

/-- One lane's access of a load (11 R219, R222): where, whether its data has arrived, and with what. `cause` 0 means no
fault. `part` is, of an access that crosses a sector boundary, the part that has been read, the upper one or not (11 R227). -/
structure LoadLane where
  lane : Nat
  addr : Nat
  arrived : Bool
  missed : Bool
  served : Bool
  poison : Bool
  cause : Nat
  vals : LaneVec
  part : Option (Bool × List Byte)
deriving DecidableEq, Repr

/-- A load in its queue (11 R222). -/
structure LoadEntry where
  seq : Nat
  width : Width
  hint : Hint
  spec : Bool
  mask : Mask
  lanes : List LoadLane
deriving DecidableEq, Repr

/-- The load queue of one port: oldest first; whether the port was triggered since the warp started (11 R222). -/
structure LoadQ where
  entries : List LoadEntry
  ever : Bool
deriving DecidableEq, Repr

/-- One loop level (04 R71, 16 R319). -/
structure LoopLevel where
  n : Nat
  i : Nat
  ring : Word
  body : Word
  lback : Word
deriving DecidableEq, Repr

/-- A repeat entry: the move word and its saved immediate (03 R40). -/
structure RepEntry where
  word : Word
  imm : Word
deriving DecidableEq, Repr

/-- A wait: kind 0 none, 1 BAR, 2 BARW, 3 SYNC, 4 BOW, 5 ACQ or FEN, and its record (06 R130, 16 R319). `due` is the
first cycle in which it may end; for kind 5 the sequence number of the acquire that it waits for. -/
structure WaitRec where
  kind : Nat
  w0 : Word
  w1 : Word
  due : Nat
deriving DecidableEq, Repr

/-- Where a split stands for issue (05 R106, R108; 06 R123). -/
inductive Place where
  | window (age bypass : Nat)
  | entry (since : Nat)
  | basin
  | restart (age : Nat)
  | away
deriving DecidableEq, Repr

/-- How a split came to its next bundle (03 R35, R36; 04 R73; 16 R321): in sequence, by a transfer of control, over a
loop's back edge, or restored by RTE. -/
inductive Arrive where
  | fall
  | jump
  | back
  | restored
deriving DecidableEq, Repr

/-- One entry of the split table (04 R68, 16 R319). `ready` is the first cycle in which its next bundle may issue;
`waited` says that WAIT set it; `switch_` is a switch-table word still to be read, and its schedule; `want` the code address
whose line the split waits for; `line` the line whose header the split has fetched (15 R364); `fetch` the code address whose fetch ended in a fault, with its cause; `parked` the ports
and lanes, and `owes` the stores and REDs (sequence numbers of its core), whose arrival lets it leave the Basin; `page` the global
address that its bundle waits to have translated, with the origin of that request (15 R301), and `pageFault` the one whose translation ended in a fault, with its
cause (12 R248). -/
structure Split where
  live : Bool
  pc : Word
  mask : Mask
  entry : Option Nat
  sched : Nat
  loops : List LoopLevel
  rep : List (Option RepEntry)
  ready : Nat
  waited : Bool
  wait : WaitRec
  rill : Bool
  lease : Bool
  switch_ : Option (Word × Nat)
  arrive : Arrive
  bank : Nat
  place : Place
  lastIssue : Nat
  stopped : Bool
  want : Option Word
  line : Option Nat
  fetch : Option (Word × Nat)
  safeWait : Bool
  parked : List (ResPort × Mask)
  owes : List Nat
  page : Option (Nat × Nat)
  pageFault : Option (Nat × Nat)
deriving DecidableEq, Repr

/-- One entry of the join stack (04 R68). `saved` and `delay` are the serial entry's saved state; `loops`, `sched`, `rep`,
`late`, `since`, `first` and `after` are what the lanes that arrived bring: loop state, schedule, repeat state, greatest
delay field, the cycles of the latest and of the first JOIN, and the address after the JOIN bundle. -/
structure JoinEntry where
  used : Bool
  join : Word
  expect : Mask
  arrived : Mask
  parent : Option Nat
  serial : Bool
  held : Mask
  resume : Word
  saved : Split
  delay : Nat
  loops : List LoopLevel
  sched : Nat
  rep : List (Option RepEntry)
  late : Nat
  since : Nat
  first : Nat
  after : Word
deriving DecidableEq, Repr

/-- A pending event trap (16 R324). -/
structure PendingTrap where
  cause : Nat
  tval : Word
  telem : Nat
deriving DecidableEq, Repr

/-- A fault attached to a lane of AS.q or AG.q (11 R228, R234). -/
structure LaneFault where
  cause : Nat
  addr : Nat
deriving DecidableEq, Repr

/-- A release that has not yet taken effect (13 R257): later writes of the thread wait for it. `need` holds the lines
of its observed set that its quad has not published. -/
structure Release where
  seq : Nat
  scope : Nat
  need : List Nat
deriving DecidableEq, Repr

/-- An acquire that has not completed (13 R258): the thread's later reads wait for it. `upto` is how far the die has to apply its
invalidation log (06 R129), `fence` that its release must have taken effect, `stalls` that a split waits for it (06 R115). -/
structure Acquire where
  seq : Nat
  scope : Nat
  upto : Nat
  fence : Bool
  stalls : Bool
deriving DecidableEq, Repr

/-- A lane of a faulted ATG that has not been performed, as its trigger made it (11 R228): it is made again where a handler has made
the access good. -/
structure Redo where
  lane : Nat
  addr : Nat
  a : Word
  c : Word
  op : Nat
  scope : Nat
  tseq : Nat
  split : Nat
deriving DecidableEq, Repr

/-- What a trap sets aside (16 R315 step 4): the load queues, and the ports AS.q, AG.q, Y.q, K.q, MX.q, CP0.q, CP1.q
and RL.q with their awaiting masks, attached faults and owners; `from_` is the thread's sequence number at the trap. `joins`, `splits`
and `flights` are the join stack, the split table and the in-flight records in frame order as the trap found them: they keep
what the frame has no place for (log 62), which is the loop state of the lanes that wait at a JOIN (04 R70), a PSW's switch still to be made
(R81), whether a waiting split's bundle was safe (06 R131), which split triggered a result (07 R133), and the flags that a
WFADD in flight raises (08 R163). -/
structure Aside where
  ls : LoadQ
  lg : LoadQ
  lw : LoadQ
  ports : Tab Word
  tags : Tab Mask
  awaits : Tab Word
  faults : Tab LaneFault
  fills : List Fill
  owners : Tab Nat
  from_ : Nat
  joins : List JoinEntry
  filled : Tab Bool
  splits : List Split
  flights : List Flight
  redo : List Redo
deriving DecidableEq, Repr

/-- A warp or a Sluice context (02 R12, R16, R31). `regs` holds a word for each register, port, condition register,
latch and latch age of each lane (`Reg.key`); `poison` the poison tags; `owners` the trigger whose result each
lane of AS.q and AG.q awaits (11 R232), and the tag whose result MX.q, CP0.q and CP1.q await (10 R202); `filled` which of
these three hold a result that no pop and no later trigger has taken (16 R318); `redo` the lanes of AG.q whose atomic ended in a fault and was not performed (11 R228); `raisedNow` the flags of the results that landed in cycle `raisedAt` (09 R170);
`bad` the words that a soft error has struck (16 R331). -/
structure Thread where
  live : Bool
  level : Bool
  regs : Tab Word
  poison : Tab Mask
  awaits : Tab Word
  owners : Tab Nat
  filled : Tab Bool
  faults : Tab LaneFault
  redo : List Redo
  ls : LoadQ
  lg : LoadQ
  lw : LoadQ
  flights : List Flight
  fills : List Fill
  fstat : Word
  raisedNow : BitVec 5
  raisedAt : Nat
  tcause : Word
  tval : Word
  telem : Word
  tepc : Word
  tmask : Word
  clkh : Word
  occupied : Mask
  splits : List Split
  joins : List JoinEntry
  pending : List PendingTrap
  aside : Option Aside
  dqPos : Nat
  seq : Nat
  releases : List Release
  acqs : List Acquire
  seen : List Nat
  dbgStop : Bool
  bad : Tab Bool
deriving DecidableEq, Repr

/-! ## Blocks -/

/-- A block barrier (06 R116): generation, the fixed count and S, warps arrived, lanes arrived of each warp not yet
whole, whether the Sluice has arrived, arrivals carried into later generations (slot, lanes), and how many arrivals were
made by warps that have ended, and each arriver's sequence number at its arrival. -/
structure Barrier where
  gen : Nat
  count : Nat
  s : Bool
  warps : Mask
  lanes : Tab Mask
  sluice : Bool
  carry : List (Nat × Nat)
  past : Nat
  seqs : Tab Nat
deriving DecidableEq, Repr

/-- A progress register (07 R136). `doneAt` is the cycle in which it became done. -/
structure Progress where
  tag : Nat
  cause : Nat
  state : Nat
  pass : Nat
  next : Nat
  doneAt : Nat
deriving DecidableEq, Repr

/-- One wait of a Sluice task: consume, semaphore, threshold (04 R83). -/
structure TaskWait where
  consume : Bool
  sem : Nat
  threshold : Nat
deriving DecidableEq, Repr

/-- An entry of a Sluice task table (04 R83). -/
structure Task where
  entry : Word
  armed : Bool
  waits : List TaskWait
  cycles : Nat
deriving DecidableEq, Repr

/-- SYNC at one scope, for one block (06 R122, R130): its generation, whether the block has arrived, its value, warps
and lanes arrived, whether the Sluice has; `seqs` holds, for each slot that has brought lanes, the number that follows its SYNC's release. -/
structure SyncState where
  gen : Nat
  value : Option Word
  warps : Mask
  lanes : Tab Mask
  sluice : Bool
  arrived : Bool
  seqs : Tab Nat
deriving DecidableEq, Repr

/-- A write that becomes visible at the start of the next cycle (02 R25, 16 R311): a k register (`reg` 0 to 31), or a
CSR of the block or the core. -/
structure LateWrite where
  reg : Nat
  val : Word
  sluice : Bool
deriving DecidableEq, Repr

/-- A resident block (02 R31). `lid` names its launch, `yield` the save area of a request to yield,
which holds from cycle `yieldFrom` on, `leaseWait` the cycle from which a resumed block waits for its lease (07 R145), `frozen` the cycle in
which the freeze wire stopped it, `overran` that the running task's overrun has struck (04 R85), `joinScope` the widest completion scope of its commands that have
completed, at which its contexts join them (12 R247), `kBad` the k registers that a soft error has struck (16 R331), `descs` the command descriptors of the
progress registers whose commands are done (07 R142, R143). -/
structure Block where
  resident : Bool
  lid : Nat
  fn : Nat
  block : Nat
  nblk : Nat
  gslot : Nat
  grouped : Bool
  twin : Bool
  warps : Nat
  nregs : Nat
  codeBase : Nat
  entry : Word
  k : List Word
  kBad : List Nat
  late : List LateWrite
  dq : List Word
  dqPushed : Nat
  shapes : List (List Word)
  progress : List Progress
  descs : List (List Word)
  engCount : Nat
  tvec : Word
  tframe : Word
  swtab : Word
  barriers : List Barrier
  syncs : List SyncState
  claim : Nat × Nat
  bandMask : BitVec 4
  tasks : List Task
  armed : List Bool
  running : Option Nat
  firstIssue : Option Nat
  paused : Nat
  pauseFrom : Option Nat
  overran : Bool
  mayPick : Nat
  scratchBase : Nat
  scratchSize : Nat
  wstage : Bool
  netExtra : Int
  yield : Option Nat
  yieldFrom : Nat
  leaseWait : Option Nat
  frozen : Option Nat
  failed : Bool
  placedAt : Nat
  runs : List (Nat × Nat)
  inherit : List (Nat × Nat)
  started : Mask
  joinScope : Nat
deriving DecidableEq, Repr

/-! ## Cores -/

/-- One lane's bytes of a store (11 R219, R226). -/
structure StoreLane where
  lane : Nat
  addr : Nat
  cells : List Host.Cell
deriving DecidableEq, Repr

/-- An entry of the store buffer (11 R219): scratch or global, its lanes still to write; `whole` the aligned sectors that its
lanes write whole together (11 R226); `hint` how its lines are allocated (11 R220); `frame` says that the part writes it, into a trap frame (16 R315 step 5). -/
structure StoreEntry where
  seq : Nat
  tid : Tid
  split : Nat
  fn : Nat
  global : Bool
  lanes : List StoreLane
  tseq : Nat
  whole : List Nat
  hint : Hint
  frame : Bool
deriving DecidableEq, Repr

/-- One lane's word of an atomic (11 R230): `stage` 0 waits, 1 performed and answering; `missed` says that its line was not found in the issuing
quad cache where the atomic is performed, or that it is performed elsewhere (05 R108). -/
structure AtomLane where
  lane : Nat
  addr : Nat
  a : Word
  c : Word
  stage : Nat
  old : Word
  cause : Nat
  tries : Nat
  missed : Bool
deriving DecidableEq, Repr

/-- An atomic trigger (11 R219, R230): kind 0 ATS, 1 ATG, 2 RED; operation 0 to 12; scope class code. -/
structure AtomEntry where
  seq : Nat
  tid : Tid
  split : Nat
  fn : Nat
  kind : Nat
  op : Nat
  scope : Nat
  lanes : List AtomLane
  tseq : Nat
deriving DecidableEq, Repr

/-- An operation on its way to a barrier object (06 R128): kind 0 BOI, 1 BOX, 2 BOA, 3 engine delivery, 4 BOT;
`need` holds the lines that an engine's delivery must see published (13 R263). -/
structure ObjOp where
  kind : Nat
  tid : Tid
  mask : Mask
  addr : Nat
  v : Word
  tseq : Nat
  need : List Nat
deriving DecidableEq, Repr

/-- A line held by an L1 (11 R223, 14 R266): its key (tag and virtual line), its bytes, its poisoned sectors and its hint
(R220). -/
structure L1Line where
  key : Nat
  bytes : List Byte
  poison : BitVec 4
  hint : Hint
deriving DecidableEq, Repr

/-- An EVT record whose release has not yet taken effect (16 R314). -/
structure EvtPost where
  tid : Tid
  seq : Nat
  word : Word
deriving DecidableEq, Repr

/-- A core (02 R31). `held` are the records that wait for room in the event queue, in the order of their completion (02 R19), `heldE` those
of EVT whose release has not taken effect. `tileLate` are the TILEST entries to come: the context, the cycle, the entry and its value (10 R212). `prefetch` holds the lines that a PFG still has to bring in: function, address and hint (11 R223). Scratch holds the bytes of the core's scratchpad share; `done` the cycle in which an engine last completed a
command, and the number after that engine's in the order CP0, CP1, MX (04 R84). -/
structure Core where
  sems : List (BitVec 16)
  evq : List Word
  held : List Word
  heldE : List EvtPost
  split : Word
  level : Word
  ashape : Word
  late : List LateWrite
  tilest : List Word
  tileLate : List (Nat × Nat × Nat × Word)
  dbgctl : Word
  watchdog : Nat
  mxmode : Word
  mxwin : Word
  lastFn : Option Nat
  l1 : List L1Line
  prefetch : List (Nat × Nat × Hint)
  icode : Tab (List Word)
  stores : List StoreEntry
  atoms : List AtomEntry
  objq : List ObjOp
  seqNo : Nat
  rr : Nat
  lastSluice : Nat
  warpIssued : Bool
  sluiceIssued : List Bool
  picked : List Bool
  divFree : List Nat
  sFree : Nat
  sluiceDiv : List Nat
  draining : Option Nat
  done : Nat × Nat
  scratch : List Host.Cell
  scratchPoison : Tab Bool
  stopped : Bool
deriving DecidableEq, Repr

/-! ## Quads -/

/-- What a plane holds (10 R206): weights by logical column and depth, with the description. `cells` holds the bits
loaded so far of each kept weight, at column x 8192 + element of the slice `held`;
`mask` the bands that MXW loaded; `loader` the command that loads it: its launch, %block and tag. -/
structure Plane where
  filled : Bool
  cells : Tab Byte
  record : List Word
  p : Nat
  sparse : Bool
  shape : Nat
  slice : Nat
  tag : Nat
  held : Nat
  mask : BitVec 4
  loader : Nat × Nat × Nat
deriving DecidableEq, Repr

/-- A request for the lease (10 R194). -/
structure LeaseReq where
  core : Nat
  ctx : Nat
  count : Nat
deriving DecidableEq, Repr

/-- A quad-cache line (14 R266, R268): `state` 0 none, 1 shared, 2 owned; `want` is the request that the quad has decided on
(0 none, else the event number of 14 R272 plus 1), `locked` that it has reached the home and awaits its answer; `writer` the
thread that last put local bytes there, its key plus 1; `heal` the sectors that a store among the local bytes has written whole (11
R226), `hint` how it was allocated (R220). -/
structure QLine where
  fn : Nat
  state : Nat
  bytes : List Byte
  lmask : BitVec 128
  lbytes : List Byte
  fwd : Nat
  bwd : Nat
  poison : BitVec 4
  locked : Bool
  want : Nat
  writer : Nat
  heal : BitVec 4
  hint : Hint
deriving DecidableEq, Repr

/-- A quad (10 R190, 14 R266); in paired mode `planeA` and `planeB` are the two cores' planes and `latchA` and `latchB` what MXS
has latched of them (10 R195). -/
structure Quad where
  active : Plane
  shadow : Plane
  planeA : Plane
  planeB : Plane
  latchA : Plane
  latchB : Plane
  latched : Bool
  acc : Tab (BitVec 48)
  accBad : Tab Bool
  planeBad : Bool
  powered : BitVec 4
  ramping : List (Nat × Nat)
  leaseHolder : Option (Nat × Nat)
  leaseLeft : Nat
  leaseFree : Nat
  leaseReqs : List LeaseReq
  lastFn : Option Nat
  lines : Tab QLine
  grants : List (Nat × Nat)
  grantWant : List (Nat × Nat)
  asleep : Bool
  lost : Bool
  gated : Nat
  incarnation : BitVec 16
deriving DecidableEq, Repr

/-! ## Homes -/

/-- A request at a home (14 R268, R272): the event number, its function, who (quad 0 to 63, 64 the slice, 65 the host), and,
for an atomic, its core and sequence number; `heal` the sectors that its bytes write whole (11 R226); `inc` the incarnation of the quad
cache that sent it (16 R333). -/
structure Req where
  kind : Nat
  fn : Nat
  who : Nat
  core : Nat
  seq : Nat
  addr : Nat
  bytes : List (Nat × Byte)
  heal : BitVec 4
  inc : BitVec 16
deriving DecidableEq, Repr

/-- A walk in progress (14 R269): kind 0 invalidation, 1 update; the quad it reaches next; the incarnation of the die that sent it (16
R333). -/
structure Walk where
  kind : Nat
  at_ : Nat
  req : Req
  done : Bool
  inc : BitVec 16
deriving DecidableEq, Repr

/-- A directory entry (14 R268). `ask` is a recall (1) or downgrade (2) on its way to the owner; `answer` the owner's
data on its way home; `frames` where, in the die's DRAM, the lines that move together lie, as their home has last sent them. -/
structure DirEntry where
  state : Nat
  head : Option Nat
  owner : Option Nat
  pend : Option Req
  pendDone : Bool
  queue : List Req
  walk : Option Walk
  ask : Nat
  answer : Option (List (Nat × Byte))
  frames : List Nat
deriving DecidableEq, Repr

/-- A grant on its way to a quad (14 R267, R271): kind 0 shared data, 1 owned data, 2 acknowledgement, 3 data not
cached, 4 error, 5 unlink acknowledgement; the bytes, and the poisoned sectors, of every line that moves together (R278);
`inc` the incarnation of the die that sent it (16 R333). -/
structure Grant where
  quad : Nat
  key : Nat
  kind : Nat
  bytes : List Byte
  poison : List (BitVec 4)
  inc : BitVec 16
deriving DecidableEq, Repr

/-- A live coherence object (14 R278): first and last line address, function. -/
structure ObjEntry where
  live : Bool
  lo : Nat
  hi : Nat
  fn : Nat
deriving DecidableEq, Repr

/-- A cached leaf (15 R293): function, virtual page base and size, frame, host bit, rights r w a x (bits 0 to 3). -/
structure Leaf where
  fn : Nat
  base : Nat
  size : Nat
  frame : Nat
  host : Bool
  rights : Nat
deriving DecidableEq, Repr

/-- Who waits on a fault (15 R300, R301). Origin 0 warp, 1 Sluice, 2 MX, 3 CP0, 4 CP1, 5 dispatch, 6 home. -/
structure Requester where
  pkg : Nat
  die : Nat
  core : Nat
  slot : Nat
  origin : Nat
  tag : Nat
deriving DecidableEq, Repr

/-- An outstanding page fault (15 R300): function, 4 KiB virtual page, id. -/
structure PageFault where
  fn : Nat
  page : Nat
  id : Nat
deriving DecidableEq, Repr

/-- A fault waiting for its entry in a fault queue (15 R300, R301). -/
structure FaultRec where
  fn : Nat
  kind : Nat
  id : Nat
  access : Nat
  level : Nat
  addr : Nat
  who : Requester
deriving DecidableEq, Repr

/-- The end of a page fault without a page (15 R303), kept for its waiters in the cycle in which it is reported. -/
structure Verdict where
  fn : Nat
  page : Nat
  cause : Nat
deriving DecidableEq, Repr

/-- An entry of the invalidation log (15 R296). -/
structure LogEntry where
  seq : Nat
  purge : Bool
  transl : Bool
  fn : Nat
  domain : Nat
  size : Nat
  base : Nat
deriving DecidableEq, Repr

/-- A logged result of a remote atomic at a home slice (11 R234). -/
structure Logged where
  slice : Nat
  core : Nat
  seq : Nat
  addr : Nat
  lane : Nat
  old : Word
deriving DecidableEq, Repr

/-- The record of a frame's names (15 R295): name (tag x 2^57 + page), whether it can write, other read-only names. -/
structure NameRec where
  names : List Nat
  writable : Bool
deriving DecidableEq, Repr

/-- A die (02 R31, 14 R268, 15). `pointers` are the rotating pointers of its slices, `turns` the lines that a request has reached in the
present cycle: where the slice's pointer stood, and how far from it the last requester is (14 R280);
`known` the incarnation numbers that its home agent and its quad caches record, of quad caches 0 to 63 and of die `d` at 64 + d (16 R333). -/
structure Die where
  dir : Tab DirEntry
  objs : List ObjEntry
  leaves : List Leaf
  names : Tab NameRec
  faults : List PageFault
  verdicts : List Verdict
  buffer : List FaultRec
  log : List LogEntry
  applied : Nat
  logs : List Logged
  token : Tab (Nat × Nat)
  tokenQ : List (Nat × Nat)
  pointers : Tab Nat
  turns : Tab (Nat × Nat)
  corr : List Word
  uncorr : List Word
  lost : Bool
  offline : Bool
  incarnation : BitVec 16
  known : Tab (BitVec 16)
  ws : List Host.Cell
  wsPoison : Tab Bool
deriving DecidableEq, Repr

/-! ## Functions, queues, launches -/

/-- A range entry (14 R264). -/
structure Range where
  valid : Bool
  words : List Word
deriving DecidableEq, Repr

/-- A launch queue (05 R91, 24 R357); `since` is the first launch number of its present enabling. -/
structure Queue where
  base : Nat
  k : Nat
  enabled : Bool
  stopped : Bool
  reason : Nat
  doorbell : Word
  read : Word
  fetched : Word
  since : Nat
deriving DecidableEq, Repr

/-- A function (15 R285, 24 R357, R358). `stage` holds words 1 to 3 of range entries as written, until word 0 writes the entry. -/
structure Function where
  enabled : Bool
  fenced : Bool
  error : Bool
  ranges : List Range
  stage : Tab Word
  ptroot : Nat
  frames : List Word
  tables : List Word
  wsWin : List Word
  keyGen : Nat
  qsel : Nat
  queues : Tab Queue
  fqbase : Nat
  fqctl : Word
  fqset : Nat
  fqhead : Word
  fqtail : Word
  nextFault : Nat
  inval : List Word
  invseq : Nat
deriving DecidableEq, Repr

/-- A wait of a launch (05 R93); `readAt` is the cycle of its last read, `owed` says that a completion record has been posted since. -/
structure LaunchWait where
  addr : Nat
  threshold : Word
  done : Bool
  readAt : Nat
  owed : Bool
deriving DecidableEq, Repr

/-- The Rill of a launch on one die (02 R15, 05 R102): ranges still to hand out; `served` is the cycle after that of the last refill
that it granted, and the place of the warp that got it (04 R77). -/
structure Rill where
  die : Nat
  ranges : List (Nat × Nat)
  served : Nat × Nat
deriving DecidableEq, Repr

/-- A work-group to place again (16 R330) or a saved block's return (05 R111): its first %block and the Rill
runs that its blocks had. -/
structure Again where
  block : Nat
  runs : List (Nat × List (Nat × Nat))
deriving DecidableEq, Repr

/-- A fetched launch (05 R92 to R104, 04 R88 to R90); `upto` is how far each die has to apply its invalidation log before it takes a
block, as the last satisfying read of a wait found it (R93); `joined` names the other packages that firmware has joined into its pod
domain, and `pods` the arrivals of theirs that no restart has taken yet (06 R125). -/
structure Launch where
  fn : Nat
  queue : Nat
  index : Word
  packet : List Word
  args : List Word
  tasks : List Task
  waits : List LaunchWait
  upto : List Nat
  started : Bool
  placed : Nat
  again : List Again
  relaunches : Nat
  failedBlock : Option Nat
  rills : List Rill
  extra : Tab Nat
  firstCycle : Option Nat
  status : Option Nat
  detail : Nat
  lastCycle : Nat
  posted : Bool
  frozen : Bool
  joined : List Nat
  pods : List Nat
deriving DecidableEq, Repr

/-- A bind record (05 R94). -/
structure Bind where
  valid : Bool
  words : List Word
deriving DecidableEq, Repr

/-- A dispatcher's standing of one slot (05 R97). -/
structure Standing where
  credit : Nat
  passed : Nat
  promoted : Nat
deriving DecidableEq, Repr

/-- A dispatcher (05 R95, R97): the standing of each slot, the slot chosen last at each level, and the cycle after that of its
last decision. -/
structure Dispatcher where
  standings : Tab Standing
  last : Tab Nat
  placedAt : Nat
deriving DecidableEq, Repr

/-! ## Engines -/

/-- An engine command (07 R136 to R143, 12 R239, 10 R202): engine 0 MX, 1 CP0, 2 CP1. `stage` 0 waits, 1 runs, 2 its
elements are done, 3 parked, 4 faulted. `slot` is the issuer's; `tseq` the
issuer's sequence number at the trigger. Of a collective: `inbox` the segments received (key pass x 65,536 + index), `sent` the
last segment handed over, `parkAt` the boundary at which its parties park (07 R147), `ended` that some party has completed.
`since` is the cycle from which its element at PR.next is the next one. `array` is the quad on whose array a matrix command has started or parked last. `resumed` says that MXR has named it after a save had parked it (19 R339); `seen` are the lines that it has read or written as
local bytes, or that its issuer had observed (13 R263). `orphan` is, of a command whose block has ended, that
block as it was, with the command's progress register. -/
structure Cmd where
  core : Nat
  ctx : Nat
  slot : Nat
  engine : Nat
  opcode : Nat
  a : Word
  b : Word
  t : Word
  tag : Nat
  pr : Nat
  fn : Nat
  lid : Nat
  sbase : Nat
  ssize : Nat
  recs : List (List Word)
  mask : BitVec 4
  wtag : Nat
  stage : Nat
  cause : Nat
  flags : List Bool
  scales : List Word
  ctl : List Word
  parties : List Word
  inbox : List (Nat × List Byte)
  shape : Nat
  fault : Option (Nat × Nat)
  tseq : Nat
  sent : Option (Nat × Nat)
  parkAt : Option (Nat × Nat)
  ended : Bool
  since : Nat
  array : Option Nat
  resumed : Bool
  seen : List Nat
  orphan : Option Block
deriving DecidableEq, Repr

/-! ## Barriers above the block -/

/-- A SYNC generation under way (06 R122 to R125): the launch, scope, instance, the blocks of the domain (core and
context), which have arrived, the line held, gathered dies, the proposed restart cycle, acknowledgements, pod arrivals
seen. `logs` says how far the die of a block that has arrived has to apply its invalidation log (06 R123 step 5). -/
structure Weir where
  lid : Nat
  scope : Nat
  value : Word
  blocks : List (Nat × Nat)
  arrived : List (Nat × Nat)
  logs : List ((Nat × Nat) × Nat)
  line : Bool
  lastCycle : Option Nat
  gathered : List Nat
  restart : Option Nat
  acks : List Nat
  proposed : List Nat
  confirmed : Bool
  sent : Bool
deriving DecidableEq, Repr

/-- A block saved to memory (07 R141 to R145), with the model's own copy of it (log 15): `elapsed` the cycles of its running task,
`image` the bytes that the save has written. -/
structure Saved where
  present : Bool
  area : Nat
  block : Block
  threads : List (Nat × Thread)
  sems : List (BitVec 16)
  evs : List Word
  leaseHeld : Bool
  leasePending : Bool
  leaseCount : Nat
  cmds : List Cmd
  acc : Tab (BitVec 48)
  scratch : List Host.Cell
  split : Word
  quad : Nat
  core : Nat
  clk : Nat
  elapsed : Nat
  image : List Byte
deriving DecidableEq, Repr

/-! ## The bundle being issued -/

/-- What the meaning of a move does when it is called (log 7): the whole move by itself, or one phase of its bundle:
whether it waits, its checks of one kind, its effect, its latch capture and pop. -/
inductive Phase where
  | whole
  | waits
  | check (kind : Nat)
  | effect
  | finish
deriving DecidableEq, Repr

/-- A trap that a check found (16 R309): cause, TVAL, TELEM, TEPC. -/
structure TrapRec where
  cause : Nat
  tval : Word
  telem : Nat
  tepc : Word
deriving DecidableEq, Repr

/-- What the triggers of one bundle take together of what is counted: in-flight records (16 R316), entries of the store buffer and of the
atomics (11 R219), progress registers (07 R136). -/
structure Takes where
  flights : Nat
  stores : Nat
  atoms : Nat
  cmds : Nat
deriving DecidableEq, Repr

/-- The bundle being issued (log 7): who issues, its slot in hand, the thread, the event queue and the decisions as they stood
at the bundle's start, what
its slots' imm sources yield, and what the phases found; `takes` what the triggers looked at so far will take. -/
structure Cur where
  on : Bool
  phase : Phase
  tid : Tid
  split : Nat
  pc : Word
  next : Word
  delay : Nat
  slot : Nat
  word : Word
  imms : List Word
  image : Thread
  evq : List Word
  dq : List Word
  wait : Bool
  trap : Option TrapRec
  after : Option TrapRec
  want : Option Word
  page : Option (Nat × Nat)
  takes : Takes
  pops : List ResPort
  popMask : Tab Word
  dead : Bool
  basin : Bool
deriving DecidableEq, Repr

/-! ## The package -/

/-- The ordering code (00 R1). -/
inductive Variant where
  | kv960p
  | kv960m
  | kv950m
deriving DecidableEq, Repr

/-- What outside agents see (16 R327, R328; 15 R302, R304; 06 R125). -/
inductive Output where
  | msix (fn vector : Nat)
  | fenceVector (fn : Nat)
  | scanRecord (bytes : List Byte)
  | signal (core : Nat)
  | emergency (die : Nat)
  | podArrival (lid pkg : Nat)
  | saveRefused (core ctx : Nat)
  | spdm (bytes : List Byte)
  | config (fn : Nat) (retry : Bool)
  | hostData (bytes : List Byte)
  | gateDenied (quad key : Nat)
  | podWrite (fn addr : Nat) (b : Byte)
  | podRead (fn addr n : Nat)
  | podAtomic (fn addr op seq : Nat)
  | hostAccess (fn kind addr n : Nat)
  | logSeq (fn seq : Nat)
deriving DecidableEq, Repr

/-- A mesh or pod link (16 R334): up, lane width 4, 2 or 1, next flit number, flits sent and not acknowledged, and that
its CRC was checked at bring-up (24 R361). Of a mesh link that is down the flits are those replayed on the new path. -/
structure Link where
  up : Bool
  width : Nat
  flit : Nat
  unacked : List Nat
  checked : Bool
deriving DecidableEq, Repr

/-- A request of the host for device memory that stands at its home (14 R363): a read of `n` bytes, or a write of `bytes`. -/
structure HostReq where
  fn : Nat
  addr : Nat
  n : Nat
  bytes : Option (List Byte)
deriving DecidableEq, Repr

/-- The package (00 R1, 02 R26, 15 R305, R306, 24). `records` is, for each die, the area of its DRAM that firmware has reserved for the
records of frames' names: first byte and length (15 R291, R295); `capList` the words of the capability list, as firmware wrote them (24 R360);
`joins` for each slot of the slot table the packages with which firmware joins its launches into pod domains, two words of 32 (06 R125; log 66);
`pladdr` is where the image of the running protocol load lies (24 R358), `hostQ` the host's requests that wait at their homes, in order (14 R280, R363). -/
structure Package where
  variant : Variant
  pkg : Nat
  podId : Word
  hostAtomics : Bool
  booted : Nat
  dies : BitVec 4
  retry : Bool
  measures : List (List Byte)
  spdm : Nat
  invSeq : Nat
  protos : List (Option (List Word))
  plreq : List Word
  pladdr : Nat
  plbusy : Bool
  plslot : Nat
  plreason : Nat
  links : List Link
  lostPods : List Nat
  slotstat : Word
  keySeq : Nat
  hostVector : Nat
  records : List (Nat × Nat)
  capList : List Word
  joins : Tab Word
  hostQ : List HostReq
deriving DecidableEq, Repr

/-- The state of the machine. `settled` says that the deliveries of the present cycle are over, and that its bundles
issue (log 5). -/
structure State where
  pack : Package
  clk : Nat
  fns : Tab Function
  binds : Tab Bind
  launches : Tab Launch
  nextLid : Nat
  dispatchers : Tab Dispatcher
  cores : Tab Core
  quads : Tab Quad
  dies : Tab Die
  blocks : Tab Block
  threads : Tab Thread
  cmds : List Cmd
  grants : List Grant
  weirs : Tab Weir
  nextGen : Nat
  saved : List Saved
  mem : List Host.Cell
  sectors : Tab Nat
  poison : Tab Bool
  hostMem : List Host.Cell
  outputs : List Output
  agenda : List Instr
  draws : Nat
  settled : Bool
  cur : Cur
deriving DecidableEq, Repr

/-- The ways a step can stop with a fault: none; no rule of the spec leaves the part without an effect. -/
inductive Fault where
  /-- Never raised: kept so that the type has a name for a stop that a later reading of the spec may need. Safe. -/
  | none_
deriving DecidableEq, Repr

/-- The ways a step can be refused. -/
inductive Refusal where
  /-- Raised by an arm of `exec` whose instruction has no meaning yet; no arm raises it. Safe: the run stops. -/
  | notModelled (mnemonic : String)
deriving DecidableEq, Repr

/-! ## Values after reset (logs 1, 2 and 3 name every one that the spec does not give) -/

def LoadQ.empty : LoadQ := { entries := [], ever := false }

def WaitRec.none_ : WaitRec := { kind := 0, w0 := 0#32, w1 := 0#32, due := 0 }

/-- A split-table entry that is not live. -/
def Split.empty : Split :=
  { live := false, pc := 0#32, mask := 0#32, entry := none, sched := 0, loops := [], rep := List.replicate 6 none,
    ready := 0, waited := false, wait := WaitRec.none_, rill := false, lease := false, switch_ := none,
    arrive := .fall, bank := 0, place := .away, lastIssue := 0, stopped := false, want := none, line := none, fetch := none,
    safeWait := false, parked := [], owes := [], page := none,
    pageFault := none }

/-- A join-stack entry that is not in use. -/
def JoinEntry.empty : JoinEntry :=
  { used := false, join := 0#32, expect := 0#32, arrived := 0#32, parent := none, serial := false, held := 0#32,
    resume := 0#32, saved := Split.empty, delay := 0, loops := [], sched := 0, rep := List.replicate 6 none,
    late := 0, since := 0, first := 0, after := 0#32 }

/-- A thread that does not exist. -/
def Thread.empty : Thread :=
  { live := false, level := false, regs := [], poison := [], awaits := [], owners := [], filled := [], faults := [], redo := [], ls := LoadQ.empty,
    lg := LoadQ.empty, lw := LoadQ.empty, flights := [], fills := [], fstat := 0#32, raisedNow := 0#5, raisedAt := 0, tcause := 0#32, tval := 0#32,
    telem := 0#32, tepc := 0#32, tmask := 0#32, clkh := 0#32, occupied := 0#32,
    splits := List.replicate 4 Split.empty, joins := List.replicate 8 JoinEntry.empty, pending := [], aside := none,
    dqPos := 0, seq := 0, releases := [], acqs := [], seen := [], dbgStop := false, bad := [] }

def Barrier.empty : Barrier :=
  { gen := 0, count := 0, s := false, warps := 0#32, lanes := [], sluice := false, carry := [], past := 0, seqs := [] }

def Progress.free : Progress := { tag := 0, cause := 0, state := 0, pass := 0, next := 0, doneAt := 0 }

def SyncState.empty : SyncState :=
  { gen := 0, value := none, warps := 0#32, lanes := [], sluice := false, arrived := false, seqs := [] }

/-- A context that holds no block. -/
def Block.empty : Block :=
  { resident := false, lid := 0, fn := 0, block := 0, nblk := 0, gslot := 0, grouped := false, twin := false, warps := 0,
    nregs := 32, codeBase := 0, entry := 0#32, k := List.replicate 32 0#32, kBad := [], late := [], dq := [], dqPushed := 0,
    shapes := List.replicate 64 (List.replicate 8 0#32), progress := List.replicate 8 Progress.free, descs := List.replicate 8 (List.replicate 8 0#32), engCount := 0,
    tvec := 0#32, tframe := 0#32, swtab := 0#32, barriers := List.replicate 16 Barrier.empty,
    syncs := List.replicate 9 SyncState.empty, claim := (0, 0), bandMask := 0#4, tasks := [], armed := [],
    running := none, firstIssue := none, paused := 0, pauseFrom := none, overran := false, mayPick := 0, scratchBase := 0, scratchSize := 0, wstage := false,
    netExtra := 0, yield := none, yieldFrom := 0, leaseWait := none, frozen := none, failed := false, placedAt := 0, runs := [], inherit := [],
    started := 0#32, joinScope := 0 }

/-- A core after reset (02 R20, 10 R191, R212): semaphores, ASHAPE and TILEST read 0; MXMODE is lease mode (R193). -/
def Core.reset : Core :=
  { sems := List.replicate 32 0#16, evq := [], held := [], heldE := [], split := 0x00208200#32,
    level := 0#32, ashape := 0#32, late := [], tilest := List.replicate 16 0#32, tileLate := [], dbgctl := 0#32,
    watchdog := 0, mxmode := 0#32, mxwin := 64#32, lastFn := none, l1 := [], prefetch := [], icode := [], stores := [], atoms := [],
    objq := [], seqNo := 0, rr := 0, lastSluice := 0, warpIssued := false, sluiceIssued := [false, false],
    picked := [false, false], divFree := List.replicate 32 0,
    sFree := 0, sluiceDiv := [0, 0], draining := none, done := (0, 0), scratch := [],
    scratchPoison := [], stopped := false }

def Plane.empty : Plane :=
  { filled := false, cells := [], record := [], p := 0, sparse := false, shape := 0, slice := 0, tag := 0, held := 0, mask := 0#4,
    loader := (0, 0, 0) }

/-- A quad after reset (10 R207): no latched weights; every row zero. -/
def Quad.reset : Quad :=
  { active := Plane.empty, shadow := Plane.empty, planeA := Plane.empty, planeB := Plane.empty,
    latchA := Plane.empty, latchB := Plane.empty, latched := false, acc := [], accBad := [], planeBad := false, powered := 0#4, ramping := [], leaseHolder := none, leaseLeft := 0, leaseFree := 0, leaseReqs := [],
    lastFn := none, lines := [], grants := [], grantWant := [], asleep := false, lost := false, gated := 0,
    incarnation := 0#16 }

def QLine.empty : QLine :=
  { fn := 0, state := 0, bytes := [], lmask := 0#128, lbytes := [], fwd := 64, bwd := 64, poison := 0#4,
    locked := false, want := 0, writer := 0, heal := 0#4, hint := .normal }

def DirEntry.empty : DirEntry :=
  { state := 0, head := none, owner := none, pend := none, pendDone := false, queue := [], walk := none, ask := 0,
    answer := none, frames := [] }

/-- A die after reset (14 R280): the rotating pointers hold 0. -/
def Die.reset : Die :=
  { dir := [], objs := List.replicate 256 { live := false, lo := 0, hi := 0, fn := 0 }, leaves := [], names := [],
    faults := [], verdicts := [], buffer := [], log := [], applied := 0, logs := [], token := [], tokenQ := [],
    pointers := [], turns := [], corr := List.replicate 6 0#32, uncorr := List.replicate 6 0#32, lost := false, offline := false,
    incarnation := 0#16, known := [], ws := [], wsPoison := [] }

def Range.empty : Range := { valid := false, words := List.replicate 4 0#32 }

def Queue.reset : Queue :=
  { base := 0, k := 4, enabled := false, stopped := false, reason := 0, doorbell := 0#32, read := 0#32,
    fetched := 0#32, since := 0 }

/-- A function after bring-up's clearing (24 R361), before its driver has written anything. -/
def Function.reset : Function :=
  { enabled := false, fenced := false, error := false, ranges := List.replicate 64 Range.empty, stage := [], ptroot := 0,
    frames := List.replicate 4 0#32, tables := List.replicate 4 0#32, wsWin := List.replicate 4 0#32, keyGen := 0,
    qsel := 0, queues := [], fqbase := 0, fqctl := 0#32, fqset := 0, fqhead := 0#32, fqtail := 0#32, nextFault := 1,
    inval := List.replicate 4 0#32, invseq := 0 }

def Bind.empty : Bind := { valid := false, words := List.replicate 16 0#32 }

def Launch.empty : Launch :=
  { fn := 0, queue := 0, index := 0#32, packet := [], args := [], tasks := [], waits := [], upto := [], started := false,
    placed := 0, again := [], relaunches := 0, failedBlock := none, rills := [], extra := [], firstCycle := none,
    status := none, detail := 0, lastCycle := 0, posted := true, frozen := false,
    joined := [], pods := [] }

def Standing.reset : Standing := { credit := 0, passed := 0, promoted := 0 }

def Dispatcher.reset : Dispatcher := { standings := [], last := [], placedAt := 0 }

def Link.reset : Link := { up := true, width := 4, flit := 0, unacked := [], checked := false }

def Takes.none_ : Takes := { flights := 0, stores := 0, atoms := 0, cmds := 0 }

/-- No bundle is being issued. -/
def Cur.idle : Cur :=
  { on := false, phase := .whole, tid := { core := 0, ctx := 0, slot := 0 }, split := 0, pc := 0#32, next := 0#32,
    delay := 0, slot := 0, word := 0#32, imms := [], image := Thread.empty, evq := [], dq := [], wait := false, trap := none,
    after := none, want := none, page := none, takes := Takes.none_, pops := [], popMask := [], dead := false, basin := false }

def Weir.empty : Weir :=
  { lid := 0, scope := 0, value := 0#32, blocks := [], arrived := [], logs := [], line := false, lastCycle := none, gathered := [],
    restart := none, acks := [], proposed := [], confirmed := false, sent := false }

/-- The package just after reset (24 R356, R361): bring-up has not begun and the endpoint answers with Configuration
Request Retry Status. -/
def Package.reset : Package :=
  { variant := .kv960m, pkg := 0, podId := 0#32, hostAtomics := true, booted := 0, dies := 0#4, retry := true,
    measures := List.replicate 10 (List.replicate 32 0#8), spdm := 0, invSeq := 0, protos := [none, none, none],
    plreq := [0#32, 0#32, 0#32], pladdr := 0, plbusy := false, plslot := 0, plreason := 0, links := List.replicate 20 Link.reset,
    lostPods := [], slotstat := 0#32, keySeq := 0, hostVector := 0,
    records := List.replicate 4 (0, 0), capList := [], joins := [], hostQ := [] }

/-- The machine right after reset: nothing resident, nothing fetched, memories with nothing listed. -/
def State.reset : State :=
  { pack := Package.reset, clk := 0, fns := [], binds := [], launches := [], nextLid := 1, dispatchers := [], cores := [],
    quads := [], dies := [], blocks := [], threads := [], cmds := [], grants := [], weirs := [], nextGen := 1,
    saved := [], mem := [], sectors := [], poison := [], hostMem := [], outputs := [], agenda := [], draws := 0,
    settled := false, cur := Cur.idle }

end Sys2Proof.Machine
end

