-- ==== Sys2Proof/Machine/Access.lean ====
section
/-! DEFINITION. The named ways to read and change the parts of the state: threads and their lanes, splits, blocks,
cores, quads, dies, functions, launches, and the bytes of each memory. -/

namespace Sys2Proof

/-- A thread in the Sluice slot (02 R16). -/
def Tid.isSluice (t : Tid) : Bool := t.slot == 32

/-- The key of a thread. -/
def Tid.key (t : Tid) : Nat := (t.core * 2 + t.ctx) * 64 + t.slot

end Sys2Proof

namespace Sys2Proof.Machine

/-- The thread with a key. -/
def tidOf (k : Nat) : Tid := { core := k / 128, ctx := k / 64 % 2, slot := k % 64 }

/-! ## Lanes and masks -/

/-- The lanes of a mask, lowest first. -/
def lanesOf (m : Mask) : List Nat := (List.range 32).filter m.getLsbD

/-- The lowest lane of a mask. -/
def lowest (m : Mask) : Option Nat := (lanesOf m).head?

/-- The mask with one lane. -/
def laneMask (l : Nat) : Mask := BitVec.ofNat 32 (2 ^ l)

/-- The mask of the lanes that satisfy a predicate. -/
def maskWhere (p : Nat → Bool) : Mask := (List.range 32).foldl (fun m l => if p l then m ||| laneMask l else m) 0#32

/-- A word for each of the 32 lanes. -/
def lanes32 (f : Nat → Word) : LaneVec := (List.range 32).map f

/-- The word of one lane. -/
def laneAt (v : LaneVec) (l : Nat) : Word := v.getD l 0#32

/-- Replaces element `i` of a list. -/
def setAt {α : Type} (xs : List α) (i : Nat) (x : α) : List α := xs.set i x

/-! ## Registers of a thread -/

/-- What a lane holds by name: general registers, condition registers, latches and their ages, operand ports, result
ports (02 R23). -/
inductive Reg where
  | g (n : Nat)
  | cc (j : Nat)
  | lat (j : Nat)
  | age (j : Nat)
  | op (p : OpPort)
  | res (p : ResPort)
deriving DecidableEq, Repr

/-- The number of a register among a lane's words. -/
def Reg.id : Reg → Nat
  | .g n => n % 128
  | .cc j => 128 + j % 4
  | .lat j => 132 + j % 3
  | .age j => 135 + j % 3
  | .op p => 72 + p.code
  | .res p => 300 + p.code

/-- The key of a register's word in one lane. -/
def Reg.key (r : Reg) (l : Nat) : Nat := r.id * 32 + l % 32

/-- A register's word in one lane. -/
def Thread.rd (th : Thread) (r : Reg) (l : Nat) : Word := Tab.get 0#32 th.regs (r.key l)

/-- Writes a register's word in one lane; a struck word becomes good. -/
def Thread.wr (th : Thread) (r : Reg) (l : Nat) (v : Word) : Thread :=
  { th with regs := Tab.set 0#32 th.regs (r.key l) v, bad := Tab.erase th.bad (r.key l) }

/-- Writes a register in the lanes of a mask. -/
def Thread.wrMask (th : Thread) (r : Reg) (m : Mask) (v : Nat → Word) : Thread :=
  (lanesOf m).foldl (fun t l => t.wr r l (v l)) th

/-- The poison tags of a register (11 R229). -/
def Thread.tags (th : Thread) (r : Reg) : Mask := Tab.get 0#32 th.poison r.id

/-- Sets the poison tags of a register in the lanes of a mask. -/
def Thread.setTags (th : Thread) (r : Reg) (m tags : Mask) : Thread :=
  { th with poison := Tab.set 0#32 th.poison r.id ((Tab.get 0#32 th.poison r.id &&& ~~~m) ||| (tags &&& m)) }

/-- The lanes of a port that await a result (11 R232). -/
def Thread.awaiting (th : Thread) (p : ResPort) : Mask := Tab.get 0#32 th.awaits p.code

/-- Sets which lanes of a port await a result. -/
def Thread.setAwaiting (th : Thread) (p : ResPort) (m : Mask) : Thread :=
  { th with awaits := Tab.set 0#32 th.awaits p.code m }

/-- The split-table entry `i`. -/
def Thread.split (th : Thread) (i : Nat) : Split := th.splits.getD i Split.empty

/-- Replaces a split-table entry. -/
def Thread.setSplit (th : Thread) (i : Nat) (sp : Split) : Thread := { th with splits := setAt th.splits i sp }

/-- Changes a split-table entry. -/
def Thread.modSplit (th : Thread) (i : Nat) (f : Split → Split) : Thread := th.setSplit i (f (th.split i))

/-- The join-stack entry `i`. -/
def Thread.join (th : Thread) (i : Nat) : JoinEntry := th.joins.getD i JoinEntry.empty

/-- Replaces a join-stack entry. -/
def Thread.setJoin (th : Thread) (i : Nat) (e : JoinEntry) : Thread := { th with joins := setAt th.joins i e }

/-- The live split-table entries' indices. -/
def Thread.liveSplits (th : Thread) : List Nat := (List.range 4).filter fun i => (th.split i).live

/-- The load queue of a port. -/
def Thread.loads (th : Thread) : LoadPort → LoadQ
  | .ls => th.ls
  | .lg => th.lg
  | .lw => th.lw

/-- Replaces the load queue of a port. -/
def Thread.setLoads (th : Thread) (p : LoadPort) (q : LoadQ) : Thread :=
  match p with
  | .ls => { th with ls := q }
  | .lg => { th with lg := q }
  | .lw => { th with lw := q }

/-! ## Parts of the state -/

/-- A thread. -/
def State.thread (s : State) (t : Tid) : Thread := Tab.get Thread.empty s.threads t.key

/-- Replaces a thread. -/
def State.setThread (s : State) (t : Tid) (th : Thread) : State :=
  { s with threads := Tab.set Thread.empty s.threads t.key th }

/-- Changes a thread. -/
def State.modThread (s : State) (t : Tid) (f : Thread → Thread) : State := s.setThread t (f (s.thread t))

/-- The block in a context of a core. -/
def State.block (s : State) (core ctx : Nat) : Block := Tab.get Block.empty s.blocks (core * 2 + ctx)

/-- Replaces the block in a context. -/
def State.setBlock (s : State) (core ctx : Nat) (b : Block) : State :=
  { s with blocks := Tab.set Block.empty s.blocks (core * 2 + ctx) b }

/-- Changes the block in a context. -/
def State.modBlock (s : State) (core ctx : Nat) (f : Block → Block) : State :=
  s.setBlock core ctx (f (s.block core ctx))

/-- A core. -/
def State.core (s : State) (c : Nat) : Core := Tab.get Core.reset s.cores c

/-- Replaces a core. -/
def State.setCore (s : State) (c : Nat) (x : Core) : State := { s with cores := Tab.set Core.reset s.cores c x }

/-- Changes a core. -/
def State.modCore (s : State) (c : Nat) (f : Core → Core) : State := s.setCore c (f (s.core c))

/-- A quad. -/
def State.quad (s : State) (q : Nat) : Quad := Tab.get Quad.reset s.quads q

/-- Replaces a quad. -/
def State.setQuad (s : State) (q : Nat) (x : Quad) : State := { s with quads := Tab.set Quad.reset s.quads q x }

/-- Changes a quad. -/
def State.modQuad (s : State) (q : Nat) (f : Quad → Quad) : State := s.setQuad q (f (s.quad q))

/-- A die. -/
def State.die (s : State) (d : Nat) : Die := Tab.get Die.reset s.dies d

/-- Replaces a die. -/
def State.setDie (s : State) (d : Nat) (x : Die) : State := { s with dies := Tab.set Die.reset s.dies d x }

/-- Changes a die. -/
def State.modDie (s : State) (d : Nat) (f : Die → Die) : State := s.setDie d (f (s.die d))

/-- A function. -/
def State.fn (s : State) (f : Nat) : Function := Tab.get Function.reset s.fns f

/-- Replaces a function. -/
def State.setFn (s : State) (f : Nat) (x : Function) : State := { s with fns := Tab.set Function.reset s.fns f x }

/-- Changes a function. -/
def State.modFn (s : State) (f : Nat) (g : Function → Function) : State := s.setFn f (g (s.fn f))

/-- A launch. -/
def State.launch (s : State) (l : Nat) : Launch := Tab.get Launch.empty s.launches l

/-- Replaces a launch. -/
def State.setLaunch (s : State) (l : Nat) (x : Launch) : State :=
  { s with launches := Tab.set Launch.empty s.launches l x }

/-- Changes a launch. -/
def State.modLaunch (s : State) (l : Nat) (f : Launch → Launch) : State := s.setLaunch l (f (s.launch l))

/-- Adds to what outside agents see. -/
def State.emit (s : State) (o : Output) : State := { s with outputs := s.outputs ++ [o] }

/-- One more free choice or free value has been taken (log 5). -/
def State.drawn (s : State) : State := { s with draws := s.draws + 1 }

/-- The quad of a core. -/
def quadOf (core : Nat) : Nat := core / 4

/-- The die of a core. -/
def dieOf (core : Nat) : Nat := core / 64

/-- The die of a quad. -/
def dieOfQuad (quad : Nat) : Nat := quad / 16

/-- The threads of a block that exist, keys rising. -/
def State.blockThreads (s : State) (core ctx : Nat) : List Tid :=
  (Tab.within s.threads ((core * 2 + ctx) * 64) ((core * 2 + ctx) * 64 + 64)).filterMap fun e =>
    if e.2.live then some (tidOf e.1) else none

/-- The warps of a block that exist. -/
def State.blockWarps (s : State) (core ctx : Nat) : List Tid :=
  (s.blockThreads core ctx).filter fun t => !t.isSluice

/-- The resident blocks' places. -/
def State.residents (s : State) : List (Nat × Nat) :=
  s.blocks.filterMap fun e => if e.2.resident then some (e.1 / 2, e.1 % 2) else none

/-- The warp's non-vacant lanes (02 R12). -/
def Thread.lanesHeld (th : Thread) : Mask := th.occupied

/-! ## Bytes -/

/-- The byte at an address of a memory; an unlisted address reads 0 (log 3). -/
def memGet (m : List Host.Cell) (a : Nat) : Byte := Tab.get 0#8 m a

/-- Writes one byte of a memory, in canonical form. -/
def memSet (m : List Host.Cell) (a : Nat) (b : Byte) : List Host.Cell := Tab.set 0#8 m a b

/-- Writes bytes at addresses, in order. -/
def memWrite (m : List Host.Cell) (cells : List Host.Cell) : List Host.Cell :=
  cells.foldl (fun m c => memSet m c.1 c.2) m

/-- The canonical form of a memory: addresses strictly rising, no entry equal to what an unlisted address reads as. -/
def Memory.wf (m : List Host.Cell) : Bool := Tab.wf 0#8 m

/-- The word of up to four bytes, little-endian (11 R221). -/
def wordOf (bs : List Byte) : Word := w32 (bs.foldr (fun b acc => b.toNat + 256 * acc) 0)

/-- Byte `i` of a word. -/
def byteOf (w : Word) (i : Nat) : Byte := BitVec.ofNat 8 (w.toNat / 256 ^ i)

/-- The four bytes of a word, little-endian. -/
def bytesOf (w : Word) : List Byte := (List.range 4).map (byteOf w)

/-- A number as `n` little-endian bytes. -/
def leBytes (n x : Nat) : List Byte := (List.range n).map fun i => BitVec.ofNat 8 (x / 256 ^ i)

/-- The number of little-endian bytes. -/
def leNat (bs : List Byte) : Nat := bs.foldr (fun b acc => b.toNat + 256 * acc) 0

/-- Bytes at successive addresses. -/
def cellsAt (a : Nat) (bs : List Byte) : List Host.Cell := (List.range bs.length).zipWith (fun i b => (a + i, b)) bs

/-- A byte of a core's scratchpad. -/
def State.scratchByte (s : State) (core a : Nat) : Byte := memGet (s.core core).scratch a

/-- `n` bytes of a core's scratchpad. -/
def State.scratchBytes (s : State) (core a n : Nat) : List Byte := (List.range n).map fun i => s.scratchByte core (a + i)

/-- The words that cells write whole. -/
def wholeWords (cells : List Host.Cell) : List Nat :=
  (cells.filter fun c => c.1 % 4 = 0 && [1, 2, 3].all fun i => cells.any fun d => d.1 == c.1 + i).map (·.1 / 4)

/-- Writes bytes of a core's scratchpad: a word written whole becomes good, one written in part stays as it was (11 R226; a scratchpad's code
covers 32 bits, 16 R331). -/
def State.scratchWrite (s : State) (core : Nat) (cells : List Host.Cell) : State :=
  s.modCore core fun c =>
    { c with scratch := memWrite c.scratch cells,
             scratchPoison := (wholeWords cells).foldl (fun m x => Tab.erase m x) c.scratchPoison }

/-! ## DRAM (15 R307) -/

/-- The function whose frame window holds a device address; the physical function for every other sector. -/
def State.frameOwner (s : State) (pa : Nat) : Nat :=
  let die := pa / 2 ^ 37 % 4
  let unit := pa % 2 ^ 37 / 2 ^ 30
  match s.fns.find? fun e =>
    e.1 ≠ 0 && (let w := e.2.frames.getD die 0#32
                w.bits 22 16 ≤ unit && unit < w.bits 22 16 + w.bits 6 0) with
  | some e => e.1
  | none => 0

/-- The key generation under which a device address is read and written. -/
def State.keyGenOf (s : State) (pa : Nat) : Nat := (s.fn (s.frameOwner pa)).keyGen

/-- A byte of DRAM as the home decrypts it: as stored where the sector was written under the present key. -/
def State.dramByte (s : State) (pa : Nat) : Byte :=
  let wrote := Tab.get 0 s.sectors (pa / 32)
  let now := s.keyGenOf pa
  if wrote = now then memGet s.mem pa else Config.recrypt wrote now pa (memGet s.mem pa)

/-- Writes one byte of DRAM under the present key; the rest of its sector is stored again under that key. -/
def State.dramSet (s : State) (pa : Nat) (b : Byte) : State :=
  let now := s.keyGenOf pa
  if Tab.get 0 s.sectors (pa / 32) = now then { s with mem := memSet s.mem pa b }
  else
    let base := pa / 32 * 32
    let old := (List.range 32).map fun i => (base + i, s.dramByte (base + i))
    { s with mem := memSet (memWrite s.mem old) pa b, sectors := Tab.set 0 s.sectors (pa / 32) now }

/-- Writes bytes of DRAM. -/
def State.dramWrite (s : State) (cells : List Host.Cell) : State := cells.foldl (fun s c => s.dramSet c.1 c.2) s

end Sys2Proof.Machine
end

