-- ==== Sys2Proof/Machine/Homes.lean ====
section
/-! DEFINITION. Where global addresses lie: range entries (14 R264, R265), page-table walks (15 R288 to R292), names of
frames (15 R294, R295), and reads and writes of global bytes as an agent of a place sees them (14 R266, R267). -/

namespace Sys2Proof.Machine

/-! ## Ranges (14 R264) -/

def Range.w (r : Range) (i : Nat) : Word := r.words.getD i 0#32
def Range.slot (r : Range) : Nat := (r.w 0).bits 30 28
def Range.policy (r : Range) : Nat := (r.w 0).bits 27 25
def Range.objMode (r : Range) : Bool := (r.w 0).bit 24
def Range.readOk (r : Range) : Bool := (r.w 0).bit 23
def Range.writeOk (r : Range) : Bool := (r.w 0).bit 22
def Range.atomOk (r : Range) : Bool := (r.w 0).bit 21
def Range.granule (r : Range) : Nat := 2 ^ ((r.w 0).bits 20 16 + 12)
def Range.die (r : Range) : Nat := (r.w 0).bits 15 14
def Range.size (r : Range) : Nat := 2 ^ ((r.w 0).bits 5 0 + 16)
def Range.remote (r : Range) : Nat := (r.w 1).bits 29 24
def Range.domain (r : Range) : Nat := (r.w 1).bits 7 0
def Range.base (r : Range) : Nat := (r.w 2).toNat + (r.w 3).toNat * 2 ^ 32
def Range.holds (r : Range) (a : Nat) : Bool := r.valid && r.base ≤ a && a < r.base + r.size

/-- Under policies 3 and 4 a range whose slot is not 3 is uncached (14 R265). -/
def Range.uncached (r : Range) : Bool := (r.policy == 3 || r.policy == 4) && r.slot != 3

/-- The index of the valid entry that holds an address. -/
def State.rangeIndex (s : State) (fn addr : Nat) : Option Nat :=
  (List.range 64).find? fun i => ((s.fn fn).ranges.getD i Range.empty).holds addr

/-- A range entry. -/
def State.range (s : State) (fn i : Nat) : Range := (s.fn fn).ranges.getD i Range.empty

/-- The range entry that holds an address; an invalid one where none does. -/
def State.rangeOf (s : State) (fn addr : Nat) : Range :=
  match s.rangeIndex fn addr with
  | some i => s.range fn i
  | none => Range.empty

/-- The home die of an address (14 R264, R274): interleaved, pinned, or the die that keeps the list of remote and host
lines. -/
def Range.home (r : Range) (addr : Nat) : Nat :=
  match r.policy with
  | 0 => (addr - r.base) / r.granule % 4
  | 1 | 2 => r.die
  | 3 => Config.podDie r.remote % 4
  | _ => 0

/-- The domain tag of an address (15 R294). -/
def State.tagOf (s : State) (fn addr : Nat) : Nat :=
  let d := (s.rangeOf fn addr).domain
  if d = 0 then 256 + fn else d

/-- The key of a line: tag and virtual line address. -/
def State.keyOf (s : State) (fn addr : Nat) : Nat := s.tagOf fn addr * 2 ^ 50 + addr / 128

/-- The virtual address of a line's first byte. -/
def keyAddr (key : Nat) : Nat := key % 2 ^ 50 * 128

/-- The home die of an address. -/
def State.homeOf (s : State) (fn addr : Nat) : Nat := (s.rangeOf fn addr).home addr

/-! ## Walks (15 R289 to R292) -/

/-- What a translation gives. -/
inductive Xlate where
  | ok (leaf : Leaf)
  | absent (level : Nat)
  | refused (kind level : Nat)
deriving DecidableEq, Repr

/-- How early a line is a candidate for replacement (11 R220): stream first, keep last. -/
def hintRank : Hint → Nat
  | .stream => 0
  | .normal => 1
  | .keep => 2

/-- A line holds data. -/
def QLine.full (x : QLine) : Bool := x.state ≠ 0 || x.lmask ≠ 0#128

/-- A quad-cache line. -/
def State.qline (s : State) (quad key : Nat) : QLine := Tab.get QLine.empty (s.quad quad).lines key

/-- The byte that a home knows to be on its way from an owner (14 R271). -/
def State.onItsWay (s : State) (fn addr : Nat) : Option Byte :=
  (s.die (s.homeOf fn addr)).dir.findSome? fun e =>
    if e.1 / 2 ^ 50 = s.tagOf fn addr then e.2.answer.bind fun bs => (bs.find? fun b => b.1 == addr).map (·.2) else none

/-- The byte at system scope where it is not the home's: the owner's coherent data where a quad owns the line or has sent it home. -/
def State.ownedByte (s : State) (fn addr : Nat) : Option Byte :=
  let key := s.keyOf fn addr
  match (s.quads.find? fun e => (Tab.get QLine.empty e.2.lines key).state == 2) with
  | some e => some ((Tab.get QLine.empty e.2.lines key).bytes.getD (addr % 128) 0#8)
  | none => s.onItsWay fn addr

/-- The byte of DRAM that a directory entry knows to be elsewhere: its owner's, or on its way from there. -/
def State.entryByte (s : State) (key pa : Nat) (d : DirEntry) : Option Byte :=
  let i := d.frames.idxOf (pa / 128 * 128)
  if d.frames.length ≤ i then none
  else match d.answer with
    | some bs => (bs.find? fun b => b.1 == keyAddr (key + i) + pa % 128).map (·.2)
    | none => d.owner.bind fun o =>
      let x := s.qline o (key + i)
      if x.state = 2 then some (x.bytes.getD (pa % 128) 0#8) else none

/-- A byte of DRAM as a page-table walker reads it (15 R289): what is visible at system scope, so the owner's where a quad owns the line
that lies there. -/
def State.walkByte (s : State) (pa : Nat) : Byte :=
  ((s.die (pa / 2 ^ 37 % 4)).dir.findSome? fun d => s.entryByte d.1 pa d.2).getD (s.dramByte pa)

/-- The 8 bytes of a page-table entry. -/
def State.pte (s : State) (pa : Nat) : Nat := leNat ((List.range 8).map fun i => s.walkByte (pa + i))

/-- A table lies in the function's table region of its die (15 R285, R289). -/
def State.tableOk (s : State) (fn pa : Nat) : Bool :=
  let w := (s.fn fn).tables.getD (pa / 2 ^ 37 % 4) 0#32
  let unit := pa % 2 ^ 37 / 2 ^ 30
  pa < 2 ^ 39 && w.bits 22 16 ≤ unit && unit < w.bits 22 16 + w.bits 6 0

/-- A frame lies in a function's frame window. -/
def State.inWindow (s : State) (fn pa : Nat) : Bool :=
  let w := (s.fn fn).frames.getD (pa / 2 ^ 37 % 4) 0#32
  let unit := pa % 2 ^ 37 / 2 ^ 30
  w.bits 22 16 ≤ unit && unit < w.bits 22 16 + w.bits 6 0

/-- Bytes of a die's DRAM lie in the area that firmware has reserved for the records of names (15 R295). -/
def State.inRecords (s : State) (pa n : Nat) : Bool :=
  let (a, m) := s.pack.records.getD (pa / 2 ^ 37 % 4) (0, 0)
  pa % 2 ^ 37 < a + m && a < pa % 2 ^ 37 + n

/-- The frames that a function may map (15 R291), by a page of `n` bytes: none of the area of the records of names. -/
def State.mayMap (s : State) (fn pa n : Nat) (shared : Bool) : Bool :=
  let outside := s.fns.all fun e => e.1 == 0 || !s.inWindow e.1 pa
  !s.inRecords pa n && (s.inWindow fn pa || ((fn == 0 || shared) && outside))

/-- The size of the page that a leaf at a level with a span maps (15 R289, R290). -/
def pageSize (level span : Nat) : Nat :=
  match level, span with
  | 3, _ => 2 ^ 30
  | 2, 0 => 2 ^ 21
  | 2, _ => 2 ^ 25
  | _, 0 => 2 ^ 12
  | _, 1 => 2 ^ 16
  | _, _ => 2 ^ 19

/-- A leaf entry's checks and its translation (15 R290, R291). -/
def State.leafOf (s : State) (fn addr level e : Nat) (r : Range) : Xlate :=
  let span := natBits e 9 8
  let size := pageSize level span
  let frame := natBits e 51 12 * 4096
  let host := natBits e 10 10 == 1
  let base := addr / size * size
  let bad := natBits e 55 52 ≠ 0 || natBits e 11 11 ≠ 0 || natBits e 7 6 ≠ 0 || span == 3 || (span == 2 && level == 2)
    || (span ≠ 0 && level == 3) || 4 ≤ level || frame % size ≠ 0
    || (!host && (natBits e 51 39 ≠ 0 || !s.mayMap fn frame size (r.domain ≠ 0) || frame / 2 ^ 37 % 4 ≠ r.home addr))
    || (host != (r.policy == 4))
    || (r.policy == 0 && r.granule < size) || base < r.base || r.base + r.size < base + size
  if bad then .refused 3 level
  else .ok { fn := fn, base := base, size := size, frame := frame, host := host, rights := natBits e 5 2 }

/-- The walk from a table at a level (15 R289). -/
def State.walkFrom (s : State) (fn addr : Nat) (r : Range) : Nat → Nat → Xlate
  | 0, _ => .refused 3 1
  | level + 1, table =>
    if !s.tableOk fn table then .refused 3 (level + 1)
    else
      let e := s.pte (table + addr / 2 ^ (12 + 9 * level) % 512 * 8)
      if e % 2 = 0 then .absent (level + 1)
      else if natBits e 1 1 = 1 then s.leafOf fn addr (level + 1) e r
      else if level = 0 || natBits e 55 52 ≠ 0 || natBits e 11 2 ≠ 0 || natBits e 51 39 ≠ 0
          || !s.tableOk fn (natBits e 51 12 * 4096) then .refused 3 (level + 1)
      else s.walkFrom fn addr r level (natBits e 51 12 * 4096)

/-- The range right that an access needs (15 R292): 0 read, 1 write, 2 atomic, 3 code fetch, 4 engine read, 5 engine
write, 6 launch read, 7 publication; 8 stands for an access whose right has been checked. -/
def Range.grants (r : Range) (access : Nat) : Bool :=
  match access with
  | 0 | 3 | 4 | 6 => r.readOk
  | 1 | 5 | 7 => r.writeOk
  | 8 => true
  | _ => r.atomOk

/-- The leaf right that an access needs (15 R292). -/
def Leaf.grants (l : Leaf) (access : Nat) : Bool :=
  match access with
  | 0 | 4 | 6 => nbit l.rights 0
  | 1 | 5 | 7 => nbit l.rights 1
  | 2 => nbit l.rights 2
  | 8 => true
  | _ => nbit l.rights 3

/-- The cached leaf that covers an address (15 R293). -/
def State.cachedLeaf (s : State) (fn addr : Nat) : Option Leaf :=
  (s.die (s.homeOf fn addr)).leaves.find? fun l => l.fn == fn && l.base ≤ addr && addr < l.base + l.size

/-- The translation that a walk finds, with the leaf's right (15 R289 to R292). -/
def State.walked (s : State) (fn addr access : Nat) (r : Range) : Xlate :=
  match s.walkFrom fn addr r 5 (s.fn fn).ptroot with
  | .ok l => if l.grants access then .ok l else .refused 2 0
  | x => x

/-- The translation of an address for an access (14 R265, 15 R288 to R293), before names are checked: by the cached leaf where it grants the
right, else by a walk, so that added rights need no log entry. -/
def State.xlate (s : State) (fn addr access : Nat) : Xlate :=
  match s.rangeIndex fn addr with
  | none => .refused 6 0
  | some i =>
    let r := s.range fn i
    if !r.grants access then .refused 2 0
    else if r.policy = 3 then
      .ok { fn := fn, base := addr / 4096 * 4096, size := 4096, frame := 0, host := false, rights := 15 }
    else
      match s.cachedLeaf fn addr with
      | some l => if l.grants access then .ok l else s.walked fn addr access r
      | none => s.walked fn addr access r

/-- The range or the leaf of an address refuses the right that an access needs (15 R292); a hit in a cache needs it too. -/
def State.rightRefused (s : State) (fn addr access : Nat) : Bool :=
  match s.xlate fn addr access with
  | .refused kind _ => kind == 2
  | _ => false

/-! ## Names (15 R295) -/

/-- The name under which an address is used. -/
def State.nameOf (s : State) (fn addr : Nat) : Nat := s.tagOf fn addr * 2 ^ 45 + addr / 4096

/-- Whether a name may be recorded for a frame's 4 KiB page, by the table of R295. -/
def NameRec.admits (n : NameRec) (name : Nat) (writes : Bool) : Bool :=
  match n.names with
  | [] => true
  | _ =>
    if n.writable then n.names.contains name
    else if writes then n.names == [name] else true

/-- The record with the name entered. -/
def NameRec.enter (n : NameRec) (name : Nat) (writes : Bool) : NameRec :=
  { names := if n.names.contains name then n.names else n.names ++ [name], writable := n.writable || writes }

def NameRec.none_ : NameRec := { names := [], writable := false }

/-- A leaf that translates an address for writing somebody. -/
def State.leafWrites (s : State) (fn addr : Nat) (l : Leaf) : Bool := nbit l.rights 1 && (s.rangeOf fn addr).writeOk

/-- The translation of an address with the check of its name (15 R295): an alias is refused; and, for a shared domain,
a cached leaf of another function under the name must give the same frame. -/
def State.translate (s : State) (fn addr access : Nat) : Xlate :=
  match s.xlate fn addr access with
  | .ok l =>
    let r := s.rangeOf fn addr
    if l.host || r.policy = 3 then .ok l
    else
      let pa := l.frame + (addr - l.base)
      let die := s.die (s.homeOf fn addr)
      let rec_ := Tab.get NameRec.none_ die.names (pa / 4096)
      let clash := r.domain ≠ 0 && die.leaves.any fun m =>
        m.fn ≠ fn && s.tagOf m.fn addr == r.domain && m.base ≤ addr && addr < m.base + m.size
          && m.frame + (addr - m.base) ≠ pa
      if rec_.admits (s.nameOf fn addr) (s.leafWrites fn addr l) && !clash then .ok l else .refused 4 0
  | x => x

/-- The first request that reaches a frame under a name records it, and the home caches the leaf (15 R293, R295); the leaf that was walked
last stands for its pages (R291). -/
def State.recordUse (s : State) (fn addr : Nat) (l : Leaf) : State :=
  let r := s.rangeOf fn addr
  if r.policy = 3 then s
  else
    let pa := l.frame + (addr - l.base)
    s.modDie (r.home addr) fun d =>
      { d with
        leaves := if d.leaves.contains l then d.leaves
          else (d.leaves.filter fun m => !(m.fn == l.fn && m.base < l.base + l.size && l.base < m.base + m.size)) ++ [l],
        names := if l.host then d.names
          else Tab.set NameRec.none_ d.names (pa / 4096)
            ((Tab.get NameRec.none_ d.names (pa / 4096)).enter (s.nameOf fn addr) (s.leafWrites fn addr l)) }

/-- Whether an address's page is translated and named already for an access, so that no walk is needed. -/
def State.ready (s : State) (fn addr access : Nat) : Bool :=
  match s.translate fn addr access with
  | .ok l => (s.rangeOf fn addr).policy = 3 || ((s.die (s.homeOf fn addr)).leaves.contains l
      && (l.host || (Tab.get NameRec.none_ (s.die (s.homeOf fn addr)).names
            ((l.frame + (addr - l.base)) / 4096)).names.contains (s.nameOf fn addr)))
  | _ => false

/-! ## Bytes as agents see them -/

/-- The byte that an address's home holds: DRAM, or host memory; a pod-remote byte is another package's (log 11). The right that the access
needs has been checked. -/
def State.homeByte (s : State) (fn addr : Nat) : Byte :=
  match s.xlate fn addr 8 with
  | .ok l =>
    if (s.rangeOf fn addr).policy = 3 then Config.freeByte (s.draws * 2 ^ 57 + addr)
    else if l.host then memGet s.hostMem (l.frame + (addr - l.base)) else s.dramByte (l.frame + (addr - l.base))
  | _ => 0#8

/-- The directory entry of a line at its home. -/
def State.dirOf (s : State) (die key : Nat) : DirEntry := Tab.get DirEntry.empty (s.die die).dir key

/-- Replaces a quad-cache line. -/
def State.setQLine (s : State) (quad key : Nat) (x : QLine) : State :=
  s.modQuad quad fun q => { q with lines := Tab.set QLine.empty q.lines key x }

/-- The byte at system scope: the owner's coherent data where a quad owns the line or has sent it home, else the home's. -/
def State.sysByte (s : State) (fn addr : Nat) : Byte := (s.ownedByte fn addr).getD (s.homeByte fn addr)

/-- The byte as a quad's agents see it: local bytes over coherent data over the system's (14 R266). -/
def State.quadByte (s : State) (quad fn addr : Nat) : Byte :=
  let ln := s.qline quad (s.keyOf fn addr)
  if ln.lmask.getLsbD (addr % 128) then ln.lbytes.getD (addr % 128) 0#8
  else if ln.state ≠ 0 then ln.bytes.getD (addr % 128) 0#8
  else s.sysByte fn addr

/-- `n` bytes as a quad's agents see them. -/
def State.quadBytes (s : State) (quad fn addr n : Nat) : List Byte :=
  (List.range n).map fun i => s.quadByte quad fn (addr + i)

/-- `n` bytes at system scope. -/
def State.sysBytes (s : State) (fn addr n : Nat) : List Byte := (List.range n).map fun i => s.sysByte fn (addr + i)

/-- A word at system scope. -/
def State.sysWord (s : State) (fn addr : Nat) : Word := wordOf (s.sysBytes fn addr 4)

/-- Where a byte lies in its home die's DRAM; nothing where it is the host's or another package's, or has no translation. -/
def State.dramPlace (s : State) (fn addr : Nat) : Option Nat :=
  match s.xlate fn addr 8 with
  | .ok l => if l.host || (s.rangeOf fn addr).policy = 3 then none else some (l.frame + (addr - l.base))
  | _ => none

/-- Whether the sector of an address is poisoned at its home. -/
def State.homePoison (s : State) (fn addr : Nat) : Bool :=
  match s.dramPlace fn addr with
  | some pa => Tab.get false s.poison (pa / 32)
  | none => false

/-- Whether a quad's agent reads poison at an address. -/
def State.quadPoison (s : State) (quad fn addr : Nat) : Bool :=
  let ln := s.qline quad (s.keyOf fn addr)
  if ln.lmask.getLsbD (addr % 128) then false
  else if ln.state ≠ 0 then ln.poison.getLsbD (addr % 128 / 32)
  else s.homePoison fn addr

/-- The host bus address of a byte of a host leaf (15 R293). -/
def State.hostPlace (s : State) (fn addr : Nat) : Option Nat :=
  match s.xlate fn addr 8 with
  | .ok l => if l.host then some (l.frame + (addr - l.base)) else none
  | _ => none

/-- A read of another package's memory goes out with the function's number (15 R288), and one of host memory as a request under the
function's requester ID (R293). -/
def State.farRead (s : State) (fn addr n : Nat) : State :=
  if (s.rangeOf fn addr).valid && (s.rangeOf fn addr).policy = 3 then s.emit (.podRead fn addr n)
  else match s.hostPlace fn addr with
    | some a => s.emit (.hostAccess fn 0 a n)
    | none => s

/-- Places one byte at its home, whose right has been checked; another package's memory is not this machine's (log 11). -/
def State.homePut (s : State) (fn addr : Nat) (b : Byte) : State :=
  match s.dramPlace fn addr, s.hostPlace fn addr with
  | some pa, _ => s.dramSet pa b
  | none, some a => { s with hostMem := memSet s.hostMem a b }
  | none, none => s

/-- Writes one byte at its home (14 R271 WM). What goes to another package carries the function's number (15 R288), and what goes to the
host its requester ID (R293). -/
def State.homeSet (s : State) (fn addr : Nat) (b : Byte) : State :=
  let s' := s.homePut fn addr b
  if (s.rangeOf fn addr).valid && (s.rangeOf fn addr).policy = 3 then s'.emit (.podWrite fn addr b)
  else match s.hostPlace fn addr with
    | some a => s'.emit (.hostAccess fn 1 a 1)
    | none => s'

/-- The aligned 32-byte sectors that cells write whole. -/
def coveredSectors (cells : List Host.Cell) : List Nat :=
  (cells.filter fun c => c.1 % 32 = 0 && (List.range 32).all fun i => cells.any fun d => d.1 == c.1 + i).map (·.1)

/-- The sectors of a list that lie in the line at an address. -/
def maskOfSectors (addr : Nat) (whole : List Nat) : BitVec 4 :=
  (List.range 4).foldl (fun m i => if whole.contains (addr / 128 * 128 + 32 * i) then m ||| BitVec.ofNat 4 (2 ^ i) else m) 0#4

/-- A sector that a store has written whole loses its poison at the home (11 R226). -/
def State.healSector (s : State) (fn addr : Nat) : State :=
  match s.dramPlace fn addr with
  | some pa => { s with poison := Tab.erase s.poison (pa / 32) }
  | none => s

/-- A poisoned line's poison goes to the home, which marks the sectors in memory (14 R282, R284). -/
def State.poisonHome (s : State) (fn key : Nat) (bad : BitVec 4) : State :=
  (List.range 4).foldl (fun s i =>
    if bad.getLsbD i then
      match s.dramPlace fn (keyAddr key + 32 * i) with
      | some pa => { s with poison := Tab.set false s.poison (pa / 32) true }
      | none => s
    else s) s

/-- The sectors of a mask, in the line at an address, lose their poison. -/
def State.healLine (s : State) (fn addr : Nat) (heal : BitVec 4) : State :=
  (List.range 4).foldl (fun s i => if heal.getLsbD i then s.healSector fn (addr / 128 * 128 + 32 * i) else s) s

/-- Bytes that several stores may have written come to their home: they clear no poison by themselves. -/
def State.homeStore (s : State) (fn : Nat) (cells : List Host.Cell) : State :=
  cells.foldl (fun s c => s.homeSet fn c.1 c.2) s

/-- Writes bytes at their home, of one write: a sector that it covers whole loses its poison. -/
def State.homeWrite (s : State) (fn : Nat) (cells : List Host.Cell) : State :=
  (coveredSectors cells).foldl (fun s b => s.healSector fn b) (s.homeStore fn cells)

/-! ## Refusals for the host (15 R299, R300) -/

/-- The die whose home agent meets a request: the home, or the requester's die where no valid range holds the address. -/
def State.faultDie (s : State) (fn addr die : Nat) : Nat :=
  if (s.rangeIndex fn addr).isSome then s.homeOf fn addr else die

/-- Notes a refused access for the host (15 R300). -/
def State.noteRefusal (s : State) (fn addr access kind level : Nat) (who : Requester) : State :=
  s.modDie (s.faultDie fn addr who.die) fun d =>
    { d with buffer := d.buffer ++ [{ fn := fn, kind := kind, id := 0, access := access, level := level, addr := addr, who := who }] }

/-- The level at which a translation stopped (15 R301). -/
def Xlate.level : Xlate → Nat
  | .ok _ => 0
  | .absent n | .refused _ n => n

/-- The home tells the host of bytes that it has to discard (15 R299, R301). -/
def State.noteLost (s : State) (fn addr access : Nat) (die : Nat) : State :=
  s.noteRefusal fn addr 7 5 (s.translate fn addr access).level { pkg := s.pack.pkg, die := die, core := 0, slot := 0, origin := 6, tag := 0 }

/-- Bytes that come to their home need a present translation, and those of a publication (access 7) a writable one; else they are discarded
and the host is told, page by page (15 R299). What an owner sends home (access 8) has been performed already: its right has been checked.
`shared` bytes may come from several stores. -/
def State.homeWriteMapped (s : State) (fn access : Nat) (cells : List Host.Cell) (shared : Bool) : State :=
  let mapped (page : Nat) : Bool := match s.translate fn (page * 4096) access with
    | .ok _ => true
    | _ => false
  let (good, lost) := ((cells.map fun c => c.1 / 4096).eraseDups).partition mapped
  let kept := cells.filter fun c => good.contains (c.1 / 4096)
  let s := lost.foldl (fun s p =>
    let a := ((cells.find? fun c => c.1 / 4096 == p).map (·.1)).getD (p * 4096)
    s.noteLost fn a access (s.homeOf fn a)) s
  if shared then s.homeStore fn kept else s.homeWrite fn kept

/-- Drops every quad's coherent copy of a line, keeping local bytes, and frees its directory entry (14 R266). -/
def State.dropCopies (s : State) (key : Nat) : State :=
  { s with
    quads := s.quads.map fun e =>
      (e.1, { e.2 with lines := e.2.lines.map fun x =>
        if x.1 = key then (x.1, { x.2 with state := 0, bytes := [], fwd := 64, bwd := 64 }) else x }),
    dies := s.dies.map fun e => (e.1, { e.2 with dir := Tab.erase e.2.dir key }) }

/-- Replaces the bytes of a run that starts at an address. -/
def patch (base : Nat) (cells : List Host.Cell) (bs : List Byte) : List Byte :=
  (List.range bs.length).zipWith (fun i b => ((cells.find? fun c => c.1 == base + i).map (·.2)).getD b) bs

/-- A write performed at system scope at one instant (05 R105; 12 R238): at the home, and in every copy that a quad holds or
that is on its way; what an L1 holds of its lines is dropped; what an update walk still carries is older, and takes the new bytes (13 R255). -/
def State.sysWrite (s : State) (fn addr : Nat) (bytes : List Byte) : State :=
  let cells := cellsAt addr bytes
  let tag := s.tagOf fn addr
  let near (key : Nat) : Bool := key / 2 ^ 50 == tag && keyAddr key < addr + bytes.length && addr < keyAddr key + 2 ^ 30
  let line (e : Nat × QLine) : Nat × QLine :=
    if near e.1 && e.2.state ≠ 0 then (e.1, { e.2 with
      bytes := patch (keyAddr e.1) cells e.2.bytes
      poison := e.2.poison &&& ~~~maskOfSectors (keyAddr e.1) (coveredSectors cells) }) else e
  let newer (bs : List (Nat × Byte)) : List (Nat × Byte) := bs.map fun b => (cells.find? fun c => c.1 == b.1).getD b
  let entry (d : Nat × DirEntry) : Nat × DirEntry :=
    if d.1 / 2 ^ 50 = tag then
      (d.1, { d.2 with
        answer := d.2.answer.map newer
        walk := d.2.walk.map fun (w : Walk) => if w.kind = 1 then { w with req := { w.req with bytes := newer w.req.bytes } } else w })
    else d
  let s : State := { s with
    cores := s.cores.map fun e => (e.1, { e.2 with l1 := e.2.l1.filter fun l =>
      !(l.key / 2 ^ 50 == tag && keyAddr l.key < addr + bytes.length && addr < keyAddr l.key + 128) }),
    quads := s.quads.map fun e => (e.1, { e.2 with lines := e.2.lines.map line }),
    grants := s.grants.map fun (g : Grant) => if near g.key then { g with bytes := patch (keyAddr g.key) cells g.bytes } else g,
    dies := s.dies.map fun e => (e.1, { e.2 with dir := e.2.dir.map entry }) }
  s.homeWrite fn cells

/-- Places bytes in a quad cache as local bytes (14 R266). -/
def State.localWrite (s : State) (quad fn : Nat) (cells : List Host.Cell) : State :=
  cells.foldl (fun s c =>
    let key := s.keyOf fn c.1
    let ln := s.qline quad key
    let i := c.1 % 128
    let lb := if ln.lbytes.length = 128 then ln.lbytes else List.replicate 128 0#8
    s.setQLine quad key { ln with fn := fn, lmask := ln.lmask ||| BitVec.ofNat 128 (2 ^ i), lbytes := lb.set i c.2 }) s

/-! ## Directory entries and sharer lists (14 R268, R269) -/

/-- The die's home agent is out of reset (15 R305): it is none of the dies that have not been released. -/
def State.homeServes (s : State) (die : Nat) : Bool := (List.range 4).all fun d => s.pack.dies.getLsbD d || d != die

/-- New traffic between two dies waits: the mesh link between them is down, and what it replays on the new path is not yet acknowledged (16
R334). -/
def State.pathHeld (s : State) (a b : Nat) : Bool :=
  (List.range 4).any fun i =>
    (match s.pack.links[i]? with
      | some l => !l.up && !l.unacked.isEmpty
      | none => false)
      && ((a == i && b == (i + 1) % 4) || (b == i && a == (i + 1) % 4))

/-- One incarnation number is older than another, modulo 2^16 (16 R333). -/
def olderInc (a b : BitVec 16) : Bool := 0 < (b - a).toNat && (b - a).toNat < 2 ^ 15

/-- The incarnation number of an agent that a die's home agent and quad caches record: of a quad cache, or of die `d` at 64 + d. -/
def State.knownInc (s : State) (die agent : Nat) : BitVec 16 := Tab.get 0#16 (s.die die).known agent

/-- Every die records an agent's incarnation number. -/
def State.recordInc (s : State) (agent : Nat) (v : BitVec 16) : State :=
  (List.range 4).foldl (fun s d => s.modDie d fun x => { x with known := Tab.set 0#16 x.known agent v }) s

/-- Changes a directory entry. -/
def State.modDir (s : State) (die dkey : Nat) (f : DirEntry → DirEntry) : State :=
  s.modDie die fun d => { d with dir := Tab.set DirEntry.empty d.dir dkey (f (Tab.get DirEntry.empty d.dir dkey)) }

/-- Changes a quad-cache line. -/
def State.modQLine (s : State) (quad key : Nat) (f : QLine → QLine) : State := s.setQLine quad key (f (s.qline quad key))

/-- Unlinks a quad; it keeps its pointers. -/
def State.unlink (s : State) (die dkey quad : Nat) : State :=
  let x := s.qline quad dkey
  let isHead := (s.dirOf die dkey).head = some quad
  if !isHead && x.bwd = 64 then s
  else
    let s := if isHead then s.modDir die dkey fun d => { d with head := if x.fwd = 64 then none else some x.fwd }
             else s.modQLine x.bwd dkey fun p => { p with fwd := x.fwd }
    if x.fwd = 64 then s else s.modQLine x.fwd dkey fun n => { n with bwd := x.bwd }

/-! ## Protocols (14 R270) -/

/-- Word `i` of the image in a loadable slot, 5 to 7. -/
def State.image (s : State) (slot i : Nat) : Word :=
  match s.pack.protos.getD (slot - 5) none with
  | some ws => ws.getD i 0#32
  | none => 0#32

/-- The write path of a slot (14 R270): 0 ownership, 1 write-through, 2 token. -/
def State.writePath (s : State) (slot : Nat) : Nat :=
  match slot with
  | 0 | 2 => 0
  | 1 | 3 => 1
  | 4 => 2
  | _ => (s.image slot 0).bits 25 24

/-- Atomics of classes core and quad are performed at the quad cache (11 R233, 14 R270). -/
def State.atomsAtQuad (s : State) (slot : Nat) : Bool :=
  match slot with
  | 0 | 2 | 4 => true
  | 1 | 3 => false
  | _ => (s.image slot 0).bit 26

/-- A byte stands in the quad cache: a local byte, or coherent data. -/
def State.inQuad (s : State) (quad fn a : Nat) : Bool :=
  let ln := s.qline quad (s.keyOf fn a)
  ln.state ≠ 0 || ln.lmask.getLsbD (a % 128)

/-- An atomic of a kind and a scope class is performed at the issuing quad cache (11 R233): in a TOK range an ATG of any class. -/
def State.atQuadCache (s : State) (fn kind scope addr : Nat) : Bool :=
  let r := s.rangeOf fn addr
  kind == 1 && r.valid && r.policy < 3 && s.atomsAtQuad r.slot && (scope ≤ 1 || r.slot = 4)

/-- A line held by a core's L1. -/
def State.l1Line (s : State) (core key : Nat) : Option L1Line := (s.core core).l1.find? fun l => l.key == key

/-- Every byte stands in the quad cache. -/
def State.allInQuad (s : State) (quad fn a n : Nat) : Bool := (List.range n).all fun i => s.inQuad quad fn (a + i)

/-- An access within one line finds its bytes in the core's L1, or all of them in the quad cache. -/
def State.hits (s : State) (core fn a n : Nat) : Bool :=
  (s.l1Line core (s.keyOf fn a)).isSome || s.allInQuad (quadOf core) fn a n

/-- An engine's or a launch's read of words at system scope. -/
def State.sysWords (s : State) (fn addr n : Nat) : List Word := (List.range n).map fun i => s.sysWord fn (addr + 4 * i)

end Sys2Proof.Machine
end

