-- ==== Sys2Proof/Machine/Packet.lean ====
section
/-! DEFINITION. The fields of a launch packet (05 R92), and the units that the part has (00 R1 to R3). -/

namespace Sys2Proof.Machine

def Launch.w (l : Launch) (i : Nat) : Word := l.packet.getD i 0#32
def Launch.retry (l : Launch) : Nat := (l.w 0).bits 15 13
def Launch.twin (l : Launch) : Bool := (l.w 0).bit 12
def Launch.grouped (l : Launch) : Bool := (l.w 0).bit 11 || (l.w 0).bit 12
def Launch.idempotent (l : Launch) : Bool := (l.w 0).bit 10
def Launch.wstage (l : Launch) : Bool := (l.w 0).bit 9
def Launch.ordered (l : Launch) : Bool := (l.w 0).bit 8
def Launch.nwaits (l : Launch) : Nat := (l.w 1).bits 26 24
def Launch.perDie (l : Launch) : Nat := if l.grouped then (l.w 1).bits 23 16 else 1
def Launch.warps (l : Launch) : Nat := (l.w 1).bits 5 0
def Launch.codeBase (l : Launch) : Nat := (l.w 2).toNat + (l.w 3).toNat * 2 ^ 32
def Launch.grid (l : Launch) : Nat := (l.w 5).toNat
def Launch.items (l : Launch) : Nat := (l.w 6).toNat
def Launch.taskCount (l : Launch) : Nat := (l.w 7).bits 31 24
def Launch.scratchUnits (l : Launch) : Nat := (l.w 7).bits 23 16
def Launch.rpt (l : Launch) : Nat := (l.w 7).bits 1 0
def Launch.argAddr (l : Launch) : Nat := (l.w 8).toNat + (l.w 9).toNat * 2 ^ 32
def Launch.taskAddr (l : Launch) : Nat := (l.w 10).toNat + (l.w 11).toNat * 2 ^ 32
def Launch.recAddr (l : Launch) : Nat := (l.w 14).toNat + (l.w 15).toNat * 2 ^ 32

/-- The blocks of one group, or of one twin group (05 R100). -/
def Launch.groupSize (l : Launch) : Nat := if l.twin then 2 * l.perDie else l.perDie

/-- The number of registers that a code of SPLIT.rpt names (02 R27). -/
def regsOf (rpt : Nat) : Nat := 32 * (rpt + 1)

/-! ## What the part has (00 R1 to R3) -/

/-- The part has pod links. -/
def Variant.hasPods (v : Variant) : Bool := v ≠ .kv950m

/-- The part has a weight store. -/
def Variant.hasStore (v : Variant) : Bool := v ≠ .kv950m

end Sys2Proof.Machine
end

