-- ==== Sys2Proof/Machine/Release.lean ====
section
/-! DEFINITION. Releases and acquires (06 R129; 13 R257 to R260): a thread's observed set, when a release has taken
effect, and what an acquire does to a core's L1. -/

namespace Sys2Proof.Machine

/-- The lines of a store's bytes still to write. -/
def State.storeKeys (s : State) (x : StoreEntry) : List Nat :=
  (x.lanes.flatMap fun l => l.cells.map fun c => s.keyOf x.fn c.1).eraseDups

/-- A line of a quad cache holds local bytes. -/
def State.hasLocal (s : State) (quad key : Nat) : Bool := (s.qline quad key).lmask ≠ 0#128

/-- The lines whose update is on its way to the sharers (14 R269). -/
def DirEntry.updates (d : DirEntry) (key : Nat) : List Nat :=
  match d.walk with
  | some w => if w.kind = 1 then (w.req.bytes.map fun b => key / 2 ^ 50 * 2 ^ 50 + b.1 / 128).eraseDups else []
  | none => []

/-- The lines of a UPD range, or of one like it, whose update has not reached every sharer (13 R262). -/
def State.updating (s : State) : List Nat := s.dies.flatMap fun e => e.2.dir.flatMap fun d => d.2.updates d.1

/-- A line stands where some agent of the part does not see it yet: as local bytes of a quad, or on an update walk. -/
def State.unpublished (s : State) (quad key : Nat) : Bool := s.hasLocal quad key || s.updating.contains key

/-- The lines that a release at die scope or wider must see published: those of the observed set that stand as local
bytes in the thread's quad cache or that an update walk still carries, and those of its buffered stores (06 R129, 13 R257). What the
thread read of an update on its way is not told apart: every such line counts. -/
def State.observedLines (s : State) (t : Tid) : List Nat :=
  let own := ((s.core t.core).stores.filter fun x => x.tid == t && x.global).flatMap s.storeKeys
  (((s.thread t).seen.filter (s.hasLocal (quadOf t.core))) ++ own ++ s.updating).eraseDups

/-- A thread has observed lines, by what it issued at `seq` (13 R257): they come into its floor, and into the observed set of every later
release that has not taken effect. -/
def Thread.observes (th : Thread) (seq : Nat) (keys : List Nat) : Thread :=
  if keys.isEmpty then th
  else { th with
    seen := (th.seen ++ keys).eraseDups,
    releases := th.releases.map fun (r : Release) =>
      if seq < r.seq && 5 ≤ r.scope then { r with need := (r.need ++ keys).eraseDups } else r }

/-- A release at a scope (06 R129): at lane and warp scope it orders nothing between agents. -/
def State.release (s : State) (t : Tid) (scope : Nat) : State :=
  if scope ≤ 1 then s
  else
    let need := if 5 ≤ scope then s.observedLines t else []
    s.modThread t fun th =>
      { th with releases := th.releases ++ [{ seq := th.seq, scope := scope, need := need }], seq := th.seq + 1 }

/-- Every lane of the loads issued before `seq` has its data: they are fixed (13 R256). -/
def LoadQ.fixedBefore (q : LoadQ) (seq : Nat) : Bool :=
  q.entries.all fun e => seq ≤ e.seq || e.lanes.all (·.arrived)

/-- Every load that the thread issued before `seq` is fixed. -/
def Thread.readsFixed (th : Thread) (seq : Nat) : Bool :=
  th.ls.fixedBefore seq && th.lg.fixedBefore seq && th.lw.fixedBefore seq
    && (match th.aside with
        | some a => a.ls.fixedBefore seq && a.lg.fixedBefore seq && a.lw.fixedBefore seq
        | none => true)

/-- Every read that the thread issued before `seq` is fixed: its loads, and its atomics, which are reads too (13 R261). -/
def State.readsFixed (s : State) (t : Tid) (seq : Nat) : Bool :=
  (s.thread t).readsFixed seq
    && (s.core t.core).atoms.all fun x => x.tid ≠ t || seq ≤ x.tseq || x.lanes.all fun l => l.stage ≠ 0

/-- Every store of the thread before `seq` has left the store buffer, and every atomic has been performed, where its line takes updates
by a walk once that has passed (13 R261). -/
def State.writesOut (s : State) (t : Tid) (seq : Nat) : Bool :=
  let c := s.core t.core
  c.stores.all (fun x => x.tid ≠ t || seq ≤ x.tseq)
    && c.atoms.all fun x => x.tid ≠ t || seq ≤ x.tseq || x.lanes.all fun l =>
      l.stage ≠ 0 && (x.kind = 0 || !s.updating.contains (s.keyOf x.fn l.addr))

/-- A release has taken effect (13 R257): a line that it waits for is published once it holds no local byte and no walk carries it. -/
def State.releaseDone (s : State) (t : Tid) (r : Release) : Bool :=
  s.readsFixed t r.seq && s.writesOut t r.seq && r.need.all fun k => !s.unpublished (quadOf t.core) k

/-- Every release that the thread issued up to `seq` has taken effect, so that what it issues from then on may become
visible. -/
def State.releasedBefore (s : State) (t : Tid) (seq : Nat) : Bool :=
  (s.thread t).releases.all fun r => seq < r.seq || s.releaseDone t r

/-- The release numbered `seq` of the thread has taken effect. -/
def State.releasedOne (s : State) (t : Tid) (seq : Nat) : Bool :=
  (s.thread t).releases.all fun r => r.seq ≠ seq || s.releaseDone t r

/-- Every release of the thread at a scope or wider has taken effect. -/
def State.releasedAt (s : State) (t : Tid) (scope : Nat) : Bool :=
  (s.thread t).releases.all fun r => r.scope < scope || s.releaseDone t r

/-- Drops the releases that have taken effect. -/
def State.pruneReleases (s : State) (t : Tid) : State :=
  if (s.thread t).releases.isEmpty then s
  else s.modThread t fun th => { th with releases := th.releases.filter fun r => !s.releaseDone t r }

/-- A line of a quad has been published whole: releases and engine deliveries that waited for it no longer do, but for a release whose thread
still holds a buffered store to it. -/
def State.linePublished (s : State) (quad key : Nat) : State :=
  let one (k : Nat) (th : Thread) : Thread :=
    let t := tidOf k
    if quadOf t.core ≠ quad then th
    else
      let buffered (seq : Nat) : Bool := (s.core t.core).stores.any fun x =>
        x.tid == t && x.global && x.tseq < seq && (s.storeKeys x).contains key
      { th with
        seen := th.seen.filter (· != key),
        releases := th.releases.map fun (r : Release) =>
          if buffered r.seq then r else { r with need := r.need.filter (· != key) } }
  let told (o : ObjOp) : ObjOp := if quadOf o.tid.core = quad then { o with need := o.need.filter (· != key) } else o
  { s with
    threads := s.threads.map fun e => (e.1, one e.1 e.2)
    cores := s.cores.map fun e => (e.1, if e.2.objq.all (·.need.isEmpty) then e.2 else { e.2 with objq := e.2.objq.map told }) }

/-- An update walk of lines has passed every sharer: no release waits for it any longer. -/
def State.updatePassed (s : State) (keys : List Nat) : State :=
  if keys.isEmpty then s
  else
    let one (k : Nat) (th : Thread) : Thread :=
      let quad := quadOf (tidOf k).core
      let stays (seq key : Nat) : Bool := !keys.contains key || s.hasLocal quad key
        || (s.core (tidOf k).core).stores.any fun x => x.tid == tidOf k && x.global && x.tseq < seq && (s.storeKeys x).contains key
      { th with releases := th.releases.map fun (r : Release) => { r with need := r.need.filter (stays r.seq) } }
    { s with threads := s.threads.map fun e => (e.1, one e.1 e.2) }

/-! ## Acquires (06 R129, 13 R258) -/

/-- The end of a die's invalidation log. -/
def Die.logEnd (d : Die) : Nat := d.log.foldl (fun a e => max a e.seq) d.applied

/-- An acquire at a scope may complete (06 R129, 13 R254, R258): what the thread issued before it is over, its reads fixed and, being at
a phase boundary, its writes visible on its core; and from package scope on the die has applied its invalidation log up to `upto`. -/
def State.acquireReady (s : State) (t : Tid) (seq scope upto : Nat) : Bool :=
  s.readsFixed t seq && (scope ≤ 1 || s.writesOut t seq) && (scope < 7 || upto ≤ (s.die (dieOf t.core)).applied)

/-- A pending acquire may complete: a fence's once its release has taken effect (13 R259). -/
def State.acquireMay (s : State) (t : Tid) (a : Acquire) : Bool :=
  s.acquireReady t a.seq a.scope a.upto && (!a.fence || s.releasedAt t a.scope)

/-- An acquire issued at `seq` completes: from quad scope on the core's L1 drops its lines, and from block scope on the floor takes in
what stands as local bytes in the quad cache, whoever of the quad wrote it (13 R258). -/
def State.acquireFrom (s : State) (t : Tid) (seq scope : Nat) : State :=
  if scope ≤ 1 then s
  else
    let q := s.quad (quadOf t.core)
    let local_ := (q.lines.filter fun e => e.2.lmask ≠ 0#128).map (·.1)
    let s := if 4 ≤ scope then s.modCore t.core fun c => { c with l1 := [] } else s
    s.modThread t fun th => th.observes seq local_

/-- An acquire of the present completes. -/
def State.acquire (s : State) (t : Tid) (scope : Nat) : State := s.acquireFrom t (s.thread t).seq scope

/-- Takes a pending acquire off, completed. -/
def State.endAcquire (s : State) (t : Tid) (a : Acquire) : State :=
  (s.acquireFrom t a.seq a.scope).modThread t fun th => { th with acqs := th.acqs.erase a }

/-- Every acquire that the thread issued before `seq` has completed, so that what it reads from then on may be fixed. -/
def Thread.acquiredBefore (th : Thread) (seq : Nat) : Bool := th.acqs.all fun a => seq < a.seq

/-- Makes an acquire, or a fence, of a thread (06 R129): done at once where nothing holds it; else it is pending. -/
def State.makeAcquire (s : State) (t : Tid) (scope : Nat) (fence stalls : Bool) : State × Option Acquire :=
  let a : Acquire := { seq := (s.thread t).seq, scope := scope, upto := (s.die (dieOf t.core)).logEnd, fence := fence, stalls := stalls }
  if (s.thread t).acqs.isEmpty && s.acquireMay t a then (s.acquire t scope, none)
  else (s.modThread t fun th => { th with acqs := th.acqs ++ [a], seq := th.seq + 1 }, some a)

/-- The acquire of a join, of a barrier's return or of a synchroniser that holds no split (06 R119, 13 R263). -/
def State.joinAcquire (s : State) (t : Tid) (scope : Nat) : State := (s.makeAcquire t scope false false).1

/-- Completes the acquires that stall no split, oldest first. -/
def State.settleAcquires (s : State) (t : Tid) : State :=
  (s.thread t).acqs.foldl (fun s a => if !a.stalls && s.acquireMay t a then s.endAcquire t a else s) s

/-- A waiting split goes on: through the entry queue (06 R115). -/
def Split.resumed (sp : Split) (clk : Nat) : Split := { sp with wait := WaitRec.none_, place := .entry clk }

/-- Starts an acquire, or a fence, for a split (06 R115, R129): what is not done at once stalls the split, by a wait of kind 5; but an
acquire at a scope up to the block's, and a fence at lane or warp scope, stall nothing. -/
def State.startAcquire (s : State) (t : Tid) (i scope : Nat) (fence : Bool) : State :=
  let stalls := !(scope ≤ 1 || scope = 2 && !fence)
  match s.makeAcquire t scope fence stalls with
  | (s, some a) =>
    if !stalls then s
    else s.modThread t fun th => th.modSplit i fun sp =>
      { sp with wait := { kind := 5, w0 := w32 (scope + (if fence then 16 else 0)), w1 := 0#32, due := a.seq }, place := .away }
  | (s, none) => s

end Sys2Proof.Machine
end

