-- ==== Sys2Proof/Machine/Barrier.lean ====
section
/-! DEFINITION. Block barriers (06 R116 to R121) and arrivals at SYNC (06 R122, R123): what a block keeps, when a
generation completes, which blocks form a domain. -/

namespace Sys2Proof.Machine

/-! ## Block barriers -/

/-- Every lane of the first mask is in the second. -/
def subMask (a b : Mask) : Bool := a &&& ~~~b == 0#32

/-- An arrival has been made in the present generation, by a whole warp or by some of its lanes. -/
def Barrier.touched (b : Barrier) : Bool := b.warps ≠ 0#32 || b.sluice || b.past ≠ 0

/-- A count and S have been fixed for the present generation (06 R117): by the first of its arrivals, which here is the first lane that arrives,
and not the first warp that is whole; so a value that differs traps from that lane on (DESIGN CHOICE: the rule speaks of the first arrival, and
calls both a lane's coming and a warp's an arrival; log 19). -/
def Barrier.fixed (b : Barrier) : Bool := b.touched || !b.lanes.isEmpty

/-- What a carried arrival of a slot brings once the warp is whole, whatever becomes of its lanes afterwards. -/
def wholeMark : Nat := 2 ^ 32 - 1

/-- The lanes that a carried arrival brings, as it is kept: those of a warp that is whole are marked so. -/
def carryMark (held lanes : Mask) : Nat := if subMask held lanes then wholeMark else lanes.toNat

/-- The place among later generations at which an arrival of a slot is carried: the first in which the slot is not yet
whole (06 R117). -/
def carryIn_ (held : Mask) (slot : Nat) (lanes : Mask) : List (Nat × Nat) → Nat → List (Nat × Nat) × Nat
  | [], n => ([(slot, carryMark held lanes)], n + 1)
  | (k, m) :: r, n =>
    if k ≠ slot then
      let (r', j) := carryIn_ held slot lanes r n
      ((k, m) :: r', j)
    else if slot = 32 || m = wholeMark then
      let (r', j) := carryIn_ held slot lanes r (n + 1)
      ((k, m) :: r', j)
    else ((k, carryMark held (w32 m ||| lanes)) :: r, n + 1)

/-- Lanes of a slot arrive (06 R117): in the present generation, or carried into a later one; with how many generations
later. `held` holds the warp's non-vacant lanes; slot 32 is the Sluice context, and a slot from 64 on an arrival that a warp which has ended had
made. -/
def Barrier.enter (b : Barrier) (held : Mask) (slot : Nat) (lanes : Mask) : Barrier × Nat :=
  if 64 ≤ slot then ({ b with past := b.past + 1 }, 0)
  else if slot = 32 then
    if b.sluice then
      let (c, n) := carryIn_ held slot lanes b.carry 0
      ({ b with carry := c }, n)
    else ({ b with sluice := true }, 0)
  else if b.warps.getLsbD slot then
    let (c, n) := carryIn_ held slot lanes b.carry 0
    ({ b with carry := c }, n)
  else
    let m := Tab.get 0#32 b.lanes slot ||| lanes
    if subMask held m then ({ b with warps := b.warps ||| laneMask slot, lanes := Tab.set 0#32 b.lanes slot 0#32 }, 0)
    else ({ b with lanes := Tab.set 0#32 b.lanes slot m }, 0)

/-- A block's barrier. -/
def State.barrier (s : State) (core ctx id : Nat) : Barrier := (s.block core ctx).barriers.getD id Barrier.empty

/-- Replaces a block's barrier. -/
def State.setBarrier (s : State) (core ctx id : Nat) (b : Barrier) : State :=
  s.modBlock core ctx fun k => { k with barriers := k.barriers.set id b }

/-- The non-vacant lanes of a slot's warp. -/
def State.heldLanes (s : State) (core ctx slot : Nat) : Mask := (s.thread { core := core, ctx := ctx, slot := slot }).occupied

/-- A warp, or the Sluice context, has arrived. -/
def Barrier.hasArrived (b : Barrier) (slot : Nat) : Bool := if slot = 32 then b.sluice else b.warps.getLsbD slot

/-- The generation is complete (06 R117): the arrivals are made once their releases have taken effect, those of a warp that has ended since
among them (R119). -/
def State.barrierWhole (s : State) (core ctx : Nat) (b : Barrier) : Bool :=
  b.seqs.all (fun e => 128 ≤ e.1 || s.releasedBefore { core := core, ctx := ctx, slot := e.1 } (e.2 - 1))
    && (if 0 < b.count then b.count ≤ (lanesOf b.warps).length + b.sluice.toNat + b.past
        else b.touched && (s.blockWarps core ctx).all (fun t => b.warps.getLsbD t.slot) && (!b.s || b.sluice))

/-- A wait for generation `rec` of a barrier is over (06 R118): it differs by 1 to 32,767. -/
def genOver (gen rec_ : Nat) : Bool :=
  let d := (gen + 65536 - rec_ % 65536) % 65536
  1 ≤ d && d ≤ 32767

/-- Each waiter of a barrier whose generation is over may go on from a cycle (06 R117). -/
def Thread.barrierDue (th : Thread) (id gen due : Nat) : Thread :=
  { th with splits := th.splits.map fun sp =>
      if (sp.wait.kind = 1 || sp.wait.kind = 2) && sp.wait.w0.bits 3 0 = id && sp.wait.due = 0
          && genOver gen (sp.wait.w0.bits 19 4) then
        { sp with wait := { sp.wait with due := due } }
      else sp }

/-- The first carried arrival of each slot, and the rest. -/
def firstCarried : List (Nat × Nat) → List Nat → List (Nat × Nat) × List (Nat × Nat)
  | [], _ => ([], [])
  | (k, m) :: r, seen =>
    if seen.contains k then
      let (a, b) := firstCarried r seen
      (a, (k, m) :: b)
    else
      let (a, b) := firstCarried r (k :: seen)
      ((k, m) :: a, b)

/-- Completes a barrier's generations as long as they are whole: waiters go on in cycle a + 2, and carried arrivals are
counted anew (06 R117). -/
def State.settleBarrier (core ctx id : Nat) : Nat → State → State
  | 0, s => s
  | n + 1, s =>
    let b := s.barrier core ctx id
    if !s.barrierWhole core ctx b then s
    else
      let (now, later) := firstCarried b.carry []
      let fresh : Barrier :=
        { Barrier.empty with gen := (b.gen + 1) % 65536, count := b.count, s := b.s, carry := later,
                             seqs := b.seqs.filterMap fun e => if 128 ≤ e.1 then some (e.1 - 128, e.2) else none }
      let fresh := now.foldl (fun f e => (f.enter (s.heldLanes core ctx e.1) e.1 (w32 e.2)).1) fresh
      let s := s.setBarrier core ctx id fresh
      let s := (s.blockThreads core ctx).foldl (fun s t => s.modThread t fun th => th.barrierDue id ((b.gen + 1) % 65536) (s.clk + 2)) s
      s.settleBarrier core ctx id n

/-- The arrival of a split's lanes at a barrier (06 R117), and the generation to which it is counted; beside it stands, for that generation, the
number that follows its own release (R119). -/
def State.barArrive (s : State) (t : Tid) (id count : Nat) (sBit : Bool) (lanes : Mask) : State × Nat :=
  let b := s.barrier t.core t.ctx id
  let b := if b.fixed then b else { b with count := count, s := sBit }
  let (b', n) := b.enter (s.heldLanes t.core t.ctx t.slot) t.slot lanes
  let b' := { b' with seqs := Tab.set 0 b'.seqs (t.slot + 128 * n) (s.thread t).seq }
  (s.setBarrier t.core t.ctx id b', (b.gen + n) % 65536)

/-- BAR's or BARA's value breaks the count or S that the generation's first arrival fixed (06 R117). -/
def Barrier.mismatch (b : Barrier) (count : Nat) (sBit : Bool) : Bool := b.fixed && (b.count ≠ count || b.s ≠ sBit)

/-! ## SYNC: arrivals of a block, and its domain (06 R122, R123) -/

/-- A block's SYNC state at a scope. -/
def State.sync (s : State) (core ctx scope : Nat) : SyncState := (s.block core ctx).syncs.getD scope SyncState.empty

/-- Replaces a block's SYNC state. -/
def State.setSync (s : State) (core ctx scope : Nat) (x : SyncState) : State :=
  s.modBlock core ctx fun b => { b with syncs := b.syncs.set scope x }

/-- Whether two cores lie in one instance of a scope 3 to 7 (02 R30). -/
def sameInstance (scope a b : Nat) : Bool :=
  match scope with
  | 3 => a == b
  | 4 => a / 4 == b / 4
  | 5 => a / 64 == b / 64
  | 6 => a / 128 == b / 128
  | _ => true

/-- The resident blocks of the domain of a block's SYNC at a scope (06 R122). At scope tw in a group launch that is not a twin-group launch, where
the rule can be read to mean the issuer's group, it is all the launch's blocks of the pair (DESIGN CHOICE; log 75). -/
def State.domain (s : State) (core ctx scope : Nat) : List (Nat × Nat) :=
  let b := s.block core ctx
  let size := (s.launch b.lid).groupSize
  s.residents.filter fun p =>
    let o := s.block p.1 p.2
    o.lid == b.lid && sameInstance scope core p.1
      && (!(b.grouped && (scope == 4 || scope == 5) || b.twin && scope == 6) || o.block / size == b.block / size)

/-- A saved block's place in the domains of SYNC generations under way. -/
def savedPlace (i : Nat) : Nat × Nat := (2 ^ 20 + i, 0)

/-- A place in a domain is that of a saved block. -/
def isSaved (p : Nat × Nat) : Bool := 2 ^ 20 ≤ p.1

/-- The SYNC generation under way in which a block takes part: the oldest. -/
def State.weirOf (s : State) (core ctx scope : Nat) : Option (Nat × Weir) :=
  let b := s.block core ctx
  s.weirs.find? fun e =>
    e.2.lid == b.lid && e.2.scope == scope && (if 7 ≤ scope then true else e.2.blocks.contains (core, ctx))

/-- A SYNC value differs from what its block or its domain has brought to the generation (06 R123 step 1): a block of an older generation, in
which this one takes no part, does not count (R122). -/
def State.syncConflict (s : State) (core ctx scope : Nat) (v : Word) : Bool :=
  let of (p : Nat × Nat) : Option Nat := (s.weirOf p.1 p.2 scope).map (·.1)
  ((s.weirOf core ctx scope).any fun e => e.2.value ≠ v)
    || (s.domain core ctx scope).any fun p => of p == of (core, ctx) && match (s.sync p.1 p.2 scope).value with
        | some w => w ≠ v
        | none => false

/-- The lines of an instance at a scope (06 R112); the core network is not counted in lines. -/
def weirLines (scope : Nat) : Option Nat :=
  match scope with
  | 3 => none
  | 4 => some 8
  | _ => some 16

/-- A generation by its number. -/
def State.weir (s : State) (gen : Nat) : Weir := Tab.get Weir.empty s.weirs gen

/-- Changes a generation. -/
def State.modWeir (s : State) (gen : Nat) (f : Weir → Weir) : State :=
  { s with weirs := Tab.set Weir.empty s.weirs gen (f (s.weir gen)) }

/-- The blocks of a generation's domain: formed at the first arrival; from package scope on, every block of the launch that has been placed and
has not ended, a saved one too (06 R122). -/
def State.weirBlocks (s : State) (w : Weir) : List (Nat × Nat) :=
  if 7 ≤ w.scope then
    s.residents.filter (fun p => (s.block p.1 p.2).lid == w.lid)
      ++ ((List.range s.saved.length).filter fun i => s.saved[i]?.any fun v => v.present && v.block.lid == w.lid).map savedPlace
  else w.blocks

/-- Two generations are of one instance of a scope. -/
def sameWeir (a b : Weir) : Bool :=
  a.scope == b.scope && match a.arrived.head?, b.arrived.head? with
    | some p, some q => sameInstance (min a.scope 7) p.1 q.1
    | _, _ => false

/-- A generation may be given a line: none of its blocks is saved (06 R131), and a line is free that no older generation of its instance
waits for. -/
def State.lineMay (s : State) (gen : Nat) : Bool :=
  let w := s.weir gen
  !w.line && !w.arrived.isEmpty && !(s.weirBlocks w).any isSaved && match weirLines w.scope with
    | none => true
    | some n => (s.weirs.filter fun e => e.2.line && sameWeir e.2 w).length < n
        && s.weirs.all fun e => gen ≤ e.1 || e.2.line || !sameWeir e.2 w

/-- A generation takes a free line at once (06 R123 step 3). -/
def State.takeLine (s : State) (gen : Nat) : State := if s.lineMay gen then s.modWeir gen fun w => { w with line := true } else s

/-- A block arrives at a generation; its die's log is to be applied as far as it now reaches (06 R123 step 5). -/
def Weir.arrive (w : Weir) (core ctx upto : Nat) : Weir :=
  { w with arrived := w.arrived ++ [(core, ctx)], logs := w.logs ++ [((core, ctx), upto)] }

/-- A block that has arrived joins the generation under way, or begins one: its domain is formed, and its line allocated, at the first arrival
(06 R122, R123 step 3). -/
def State.joinWeir (s : State) (core ctx scope : Nat) (v : Word) : State :=
  let upto := (s.die (dieOf core)).logEnd
  match s.weirOf core ctx scope with
  | some (g, w) => { s with weirs := Tab.set Weir.empty s.weirs g (w.arrive core ctx upto) }
  | none =>
    { s with
      weirs := Tab.set Weir.empty s.weirs s.nextGen
        (Weir.arrive { Weir.empty with lid := (s.block core ctx).lid, scope := scope, value := v, blocks := s.domain core ctx scope } core ctx upto),
      nextGen := s.nextGen + 1 } |>.takeLine s.nextGen

/-- The block arrives when each of its warps has, and its Sluice context where S is 1 (06 R123 step 1). Where S is 0 the Sluice context's own SYNC
brings no arrival that the rule asks for: it waits and restarts with its block; and a block of which no warp is left arrives by it alone (DESIGN
CHOICE: the rule does not say what a SYNC with S = 0 does in Sluice code; log 50). -/
def State.settleSync (s : State) (core ctx scope : Nat) : State :=
  let x := s.sync core ctx scope
  match x.value with
  | none => s
  | some v =>
    if !x.arrived && (x.warps ≠ 0#32 || x.sluice) && (s.blockWarps core ctx).all (fun t => x.warps.getLsbD t.slot)
        && (!v.bit 4 || x.sluice) then
      (s.setSync core ctx scope { x with arrived := true }).joinWeir core ctx scope v
    else s

/-- Lanes of a thread arrive at SYNC, after its release; a Sluice context whose arrival is not asked for holds up no input (log 50). -/
def State.syncArrive (s : State) (t : Tid) (scope : Nat) (v : Word) (lanes : Mask) : State :=
  let x := { s.sync t.core t.ctx scope with value := some v }
  let asked := !t.isSluice || v.bit 4 || (s.blockWarps t.core t.ctx).isEmpty
  let x := if asked then { x with seqs := Tab.set 0 x.seqs t.slot (s.thread t).seq } else x
  let x := if t.isSluice then { x with sluice := true }
    else
      let m := Tab.get 0#32 x.lanes t.slot ||| lanes
      if subMask (s.heldLanes t.core t.ctx t.slot) m then
        { x with warps := x.warps ||| laneMask t.slot, lanes := Tab.set 0#32 x.lanes t.slot 0#32 }
      else { x with lanes := Tab.set 0#32 x.lanes t.slot m }
  s.setSync t.core t.ctx scope x

/-! ## Lanes and warps that leave (06 R121) -/

/-- The lanes of a slot that have arrived for the generation `n` after the present one. -/
def Barrier.brought (b : Barrier) (slot n : Nat) : Mask :=
  if n = 0 then (if b.warps.getLsbD slot then BitVec.allOnes 32 else Tab.get 0#32 b.lanes slot)
  else w32 ((((b.carry.filter fun e => e.1 == slot)[n - 1]?).map (·.2)).getD 0)

/-- Some of a warp's lanes have become vacant: where the lanes still required have all arrived, the warp arrives; in later generations too
(06 R121). -/
def State.lanesLeft (s : State) (t : Tid) : State :=
  let held := s.heldLanes t.core t.ctx t.slot
  let kept (e : Nat × Nat) : Option (Nat × Nat) :=
    if e.1 ≠ t.slot || e.2 = wholeMark then some e
    else if w32 e.2 &&& held = 0#32 then none
    else some (e.1, carryMark held (w32 e.2 &&& held))
  let s := (List.range 16).foldl (fun s id =>
    let b := s.barrier t.core t.ctx id
    let s := if b.carry.isEmpty then s else s.setBarrier t.core t.ctx id { b with carry := b.carry.filterMap kept }
    let b := s.barrier t.core t.ctx id
    let m := Tab.get 0#32 b.lanes t.slot &&& held
    if Tab.get 0#32 b.lanes t.slot = 0#32 then s
    else
      let b := { b with lanes := Tab.set 0#32 b.lanes t.slot 0#32 }
      s.setBarrier t.core t.ctx id (if m = 0#32 then b else (b.enter held t.slot m).1)) s
  [3, 4, 5, 6, 7, 8].foldl (fun s scope =>
    let x := s.sync t.core t.ctx scope
    let m := Tab.get 0#32 x.lanes t.slot &&& held
    if Tab.get 0#32 x.lanes t.slot = 0#32 then s
    else
      let x := if m ≠ 0#32 && subMask held m then
          { x with warps := x.warps ||| laneMask t.slot, lanes := Tab.set 0#32 x.lanes t.slot 0#32 }
        else { x with lanes := Tab.set 0#32 x.lanes t.slot m }
      s.setSync t.core t.ctx scope x) s

/-- A warp has ended: it leaves every count-0 generation, and an arrival counted explicitly stands (06 R121). -/
def State.warpLeft (s : State) (t : Tid) : State :=
  let clear := ~~~laneMask t.slot
  let past (e : Nat × Nat) : Option (Nat × Nat) :=
    if e.1 ≠ t.slot then some e else if e.2 = wholeMark then some (e.1 + 64, e.2) else none
  let s := (List.range 16).foldl (fun s id =>
    let b := s.barrier t.core t.ctx id
    let had := b.warps.getLsbD t.slot
    let b := { b with lanes := Tab.set 0#32 b.lanes t.slot 0#32, warps := b.warps &&& clear,
                      past := if had && 0 < b.count then b.past + 1 else b.past,
                      carry := if b.count = 0 then b.carry.filter fun e => e.1 != t.slot else b.carry.filterMap past }
    s.setBarrier t.core t.ctx id b) s
  [3, 4, 5, 6, 7, 8].foldl (fun s scope =>
    let x := s.sync t.core t.ctx scope
    let x := { x with lanes := Tab.set 0#32 x.lanes t.slot 0#32, warps := x.warps &&& clear }
    s.setSync t.core t.ctx scope x) s

/-- At the end of a cycle, the generations of a block that are complete complete (06 R117), and the block arrives at
each SYNC for which its warps have (R123). -/
def State.settleBlock (s : State) (core ctx : Nat) : State :=
  let s := (List.range 16).foldl (fun s id =>
    if (s.barrier core ctx id).touched then s.settleBarrier core ctx id 40 else s) s
  [3, 4, 5, 6, 7, 8].foldl (fun s scope => s.settleSync core ctx scope) s

end Sys2Proof.Machine
end

