-- ==== Sys2Proof/Machine/Flags.lean ====
section
/-! DEFINITION. Flags: their layout (03 R48), the conditions that read them (03 R44), and the flags that ALU, F and V
results carry (08 R153, 09 R171). -/

namespace Sys2Proof.Machine

/-- Flags in the layout of R48: S [3], Z [2], C [1], V [0]. -/
def packFlags (s z c v : Bool) : BitVec 4 := BitVec.ofNat 4 (s.toNat * 8 + z.toNat * 4 + c.toNat * 2 + v.toNat)

/-- A condition read from flags (03 R44). -/
def Cond.holds (cond : Cond) (f : BitVec 4) : Bool :=
  let s := f.getLsbD 3
  let z := f.getLsbD 2
  let c := f.getLsbD 1
  let v := f.getLsbD 0
  match cond with
  | .eq => z
  | .ne => !z
  | .lt => s != v
  | .ge => s == v
  | .gt => !z && s == v
  | .le => z || s != v
  | .ltn => !c
  | .gen => c
  | .gtn => c && !z
  | .len => !c || z
  | .mi => s
  | .pl => !s
  | .vs => v
  | .vc => !v

/-- The flags of an ALU result (08 R153): S is bit 31 of q, Z is 1 exactly when q is 0. -/
def aluFlags (q : Word) (c v : Bool) : BitVec 4 := packFlags (q.getLsbD 31) (q == 0#32) c v

/-- The flags word that a move delivers from a flags source (03 R48). -/
def flagsWord (f : BitVec 4) : Word := f.zeroExtend 32

/-- The flags of a flags word. -/
def wordFlags (w : Word) : BitVec 4 := BitVec.ofNat 4 w.toNat

/-- The flags that FCMP delivers for less, equal, greater, unordered (09 R175). -/
inductive Relation where
  | less | equal | greater | unordered
deriving DecidableEq, Repr

/-- The flags of a relation (09 R175). -/
def Relation.flags : Relation → BitVec 4
  | .less => 0b1000#4
  | .equal => 0b0110#4
  | .greater => 0b0010#4
  | .unordered => 0b0011#4

/-! FSTAT's layout (09 R170): IV [4], DZ [3], OF [2], UF [1], NX [0]. -/

def flagIv : BitVec 5 := 0b10000#5
def flagDz : BitVec 5 := 0b01000#5
def flagOf : BitVec 5 := 0b00100#5
def flagUf : BitVec 5 := 0b00010#5
def flagNx : BitVec 5 := 0b00001#5

end Sys2Proof.Machine
end

