-- ==== Sys2Proof/Machine/Operands.lean ====
section
/-! DEFINITION. What a move reads and when it may: guards (03 R44), ring rotation (04 R74), sources (03 R45 to R49), the
readiness of variable-latency ports (01 R9, 11 R222, R232), and modifiers (03 R46). Everything is read from the image of
the thread at the start of the bundle (03 R52). -/

namespace Sys2Proof.Machine

/-- The innermost open loop of a split. -/
def Split.inner (sp : Split) : Option LoopLevel := sp.loops.getLast?

/-- The number of stages of a loop: bits [31:30] of the ring word, plus one (01 R10, 04 R72). -/
def LoopLevel.stages (l : LoopLevel) : Nat := l.ring.bits 31 30 + 1

/-- Stage predicate st_s of the innermost loop (04 R72); true outside any loop (03 R44). -/
def Split.stage (sp : Split) (st : Nat) : Bool :=
  match sp.inner with
  | none => true
  | some l => st < l.stages && st ≤ l.i && l.i - st < l.n

/-- The lanes in which a guard is true, within the issuing split (03 R44, 02 R14). -/
def guardMask (th : Thread) (sp : Split) (g : Guard) : Mask :=
  match g with
  | .flag c cc => maskWhere fun l => sp.mask.getLsbD l && Cond.holds c (wordFlags (th.rd (.cc cc.val) l))
  | .stage st => if sp.stage st.val then sp.mask else 0#32
  | .always => sp.mask
  | .never => 0#32
  | .first => match lowest sp.mask with
    | some l => laneMask l
    | none => 0#32

/-- Base and length of ring `r` of a ring word (01 R10). -/
def ringOf (w : Word) (r : Nat) : Nat × Nat := (w.bits (10 * r + 6) (10 * r), w.bits (10 * r + 9) (10 * r + 7) + 1)

/-- Renames a general register by the rings of one loop (04 R74). -/
def LoopLevel.rename (l : LoopLevel) (n : Nat) : Nat :=
  match (List.range 3).find? fun r =>
    let (base, len) := ringOf l.ring r
    1 < len && base ≤ n && n < base + len with
  | some r =>
    let (base, len) := ringOf l.ring r
    base + (n - base + l.i) % len
  | none => n

/-- Renames a general register by every open loop (04 R74): rings of open loops do not overlap. -/
def Split.rename (sp : Split) (n : Nat) : Nat := sp.loops.foldl (fun n l => l.rename n) n

/-- The load port and word of a load result port. -/
def loadPortOf : ResPort → Option (LoadPort × Nat)
  | .ls j => some (.ls, j.val)
  | .lg j => some (.lg, j.val)
  | .lw j => some (.lw, j.val)
  | _ => none

/-- The oldest load of a port. -/
def LoadQ.oldest (q : LoadQ) : Option LoadEntry := q.entries.head?

/-- The bytes of an access. -/
def widthBytes : Width → Nat
  | .b | .bn => 1
  | .h | .hn => 2
  | .w => 4
  | .d => 8
  | .q | .m => 16

/-- The words that a load delivers, which are the slots it takes. -/
def widthWords : Width → Nat
  | .d => 2
  | .q => 4
  | _ => 1

/-- What a lane's load of `n` bytes still has to read: one access, or one for each sector that it touches (11 R227). -/
def LoadLane.todo (x : LoadLane) (n : Nat) : List (Nat × Nat) :=
  let k := 32 - x.addr % 32
  if n ≤ k then [(x.addr, n)]
  else match x.part with
    | none => [(x.addr, k), (x.addr + k, n - k)]
    | some (true, _) => [(x.addr, k)]
    | some (false, _) => [(x.addr + k, n - k)]

/-- A lane's part of a load. -/
def LoadEntry.lane (e : LoadEntry) (l : Nat) : Option LoadLane := e.lanes.find? fun x => x.lane == l

/-- The Sluice context's oldest event record (12 R246). -/
def oldestRecord (evq : List Word) (ctx : Nat) : Option Word :=
  evq.find? fun w => (if w.getLsbD 29 then 1 else 0) == ctx

/-- The value of an identity register in a lane (02 R26); in Sluice code %lane and %warp read 0 (03 R51). -/
def State.ident (s : State) (t : Tid) (sp : Split) (i : Ident) (l : Nat) : Word :=
  let b := s.block t.core t.ctx
  match i with
  | .lane => if t.isSluice then 0#32 else w32 l
  | .warp => if t.isSluice then 0#32 else w32 t.slot
  | .block => w32 b.block
  | .nblk => w32 b.nblk
  | .core => w32 (t.core % 64)
  | .quad => w32 (t.core % 64 / 4)
  | .die => w32 (dieOf t.core)
  | .pkg => w32 s.pack.pkg
  | .gslot => w32 b.gslot
  | .iter => match sp.inner with
    | some lv => w32 lv.i
    | none => 0#32

/-- The decisions of a block that a thread has not popped (02 R18). -/
def Block.decisions (b : Block) (th : Thread) : List Word := b.dq.drop (th.dqPos - (b.dqPushed - b.dq.length))

/-- The word that a port delivers in a lane, and whether it carries a poison tag (11 R222, R229): `evq` and `dq` are the event
queue and the decisions still to pop. -/
def portRead (th : Thread) (evq dq : List Word) (t : Tid) (p : ResPort) (l : Nat) : Word × Bool :=
  match loadPortOf p with
  | some (lp, j) =>
    match (th.loads lp).oldest with
    | some e =>
      if e.mask.getLsbD l then
        match e.lane l with
        | some x => (x.vals.getD j 0#32, x.poison && decide (j < x.vals.length))
        | none => (0#32, false)
      else (th.rd (.res p) l, (th.tags (.res p)).getLsbD l)
    | none => if (th.loads lp).ever then (th.rd (.res p) l, (th.tags (.res p)).getLsbD l) else (0#32, false)
  | none =>
    match p with
    | .dqq => (dq.headD 0#32, false)
    | .evq => ((oldestRecord evq t.ctx).getD 0#32, false)
    | .mxq | .cp0q | .cp1q => (th.rd (.res p) 0, false)
    | _ => (th.rd (.res p) l, (th.tags (.res p)).getLsbD l)

/-- Whether a port holds a result for a lane (01 R9, 02 R18, 11 R222, R232). -/
def portReady (th : Thread) (evq : List Word) (b : Block) (t : Tid) (p : ResPort) (l : Nat) : Bool :=
  match loadPortOf p with
  | some (lp, _) =>
    match (th.loads lp).oldest with
    | some e => if e.mask.getLsbD l then (e.lane l).all (·.arrived) else true
    | none => !(th.loads lp).ever
  | none =>
    match p with
    | .dqq => th.dqPos < b.dqPushed
    | .evq => (oldestRecord evq t.ctx).isSome
    | _ => !(th.awaiting p).getLsbD l

/-- The value and tag that a source delivers in a lane, before modifiers, and 0 for a `.try` that is not ready. -/
def State.srcRead (s : State) (x : Src) (try_ : Bool) (l : Nat) : Word × Bool :=
  let th := s.cur.image
  let t := s.cur.tid
  let sp := th.split s.cur.split
  let b := s.block t.core t.ctx
  match x with
  | .g n =>
    let r := Reg.g (sp.rename n.val)
    (th.rd r l, (th.tags r).getLsbD l)
  | .port p =>
    if try_ && !portReady th s.cur.evq b t p l then (0#32, false) else portRead th s.cur.evq s.cur.dq t p l
  | .k n => (b.k.getD n.val 0#32, false)
  | .lat n => (th.rd (.lat n.val) l, (th.tags (.lat n.val)).getLsbD l)
  | .imm j => (s.cur.imms.getD j.val 0#32, false)
  | .ident i => (s.ident t sp i l, false)
  | .cc n => (th.rd (.cc n.val) l, false)
  | .short v => (v.signExtend 32, false)

/-- Whether a source holds its bundle back in some guarded lane (01 R9); `.try` never does. -/
def State.srcWaits (s : State) (x : Src) (try_ : Bool) (m : Mask) : Bool :=
  match x with
  | .port p =>
    !try_ && (lanesOf m).any fun l =>
      !portReady s.cur.image s.cur.evq (s.block s.cur.tid.core s.cur.tid.ctx) s.cur.tid p l
  | _ => false

/-- A lane's load has missed, or misses now, the L1 and the quad cache (05 R108): a scratchpad access never does, a weight-store access
always (11 R224), and the reader of an LDGS never parks (R223). -/
def State.laneMisses (s : State) (p : LoadPort) (e : LoadEntry) (x : LoadLane) : Bool :=
  let core := s.cur.tid.core
  !x.arrived && match p with
    | .ls => false
    | .lw => true
    | .lg => !e.spec && (x.missed
        || (x.todo (widthBytes e.width)).any fun y => !s.hits core (s.block core s.cur.tid.ctx).fn y.1 y.2)

/-- Whether what a waiting source waits for missed the L1 and the quad cache (05 R108), or faulted; an atomic that is performed elsewhere is such
an access. -/
def State.srcMissed (s : State) (x : Src) (m : Mask) : Bool :=
  match x with
  | .port .agq => (lanesOf (s.cur.image.awaiting .agq &&& m)).any fun l =>
      let owner := Tab.get 0 s.cur.image.owners (ResPort.agq.code * 32 + l)
      (s.core s.cur.tid.core).atoms.any fun e =>
        e.tid == s.cur.tid && e.kind == 1 && e.tseq + 1 == owner && e.lanes.any fun x => x.lane == l && x.missed
  | .port p =>
    match loadPortOf p with
    | some (lp, _) => match (s.cur.image.loads lp).oldest with
      | some e => (lanesOf m).any fun l => (e.lane l).any (s.laneMisses lp e)
      | none => false
    | none => false
  | _ => false

/-- A soft error has struck a word of a register, latch or port in some lane of a mask (16 R331). A load queue's oldest slot goes by its port. -/
def Thread.struck (th : Thread) (r : Reg) (m : Mask) : Bool := (lanesOf m).any fun l => Tab.get false th.bad (r.key l)

/-- The fault attached to what a source reads, in the lowest guarded lane that has one (11 R228, R234): cause and
address. A word that a soft error has struck gives cause 0x13 (16 R331). -/
def State.srcFault (s : State) (x : Src) (m : Mask) : Option (Nat × Nat) :=
  let th := s.cur.image
  match x with
  | .g n => if th.struck (.g ((th.split s.cur.split).rename n.val)) m then some (0x13, 0) else none
  | .lat n => if th.struck (.lat n.val) m then some (0x13, 0) else none
  | .k n => if m ≠ 0#32 && (s.block s.cur.tid.core s.cur.tid.ctx).kBad.contains n.val then some (0x13, 0) else none
  | .cc n => if th.struck (.cc n.val) m then some (0x13, 0) else none
  | .port p =>
    if th.struck (.res p) m then some (0x13, 0)
    else match loadPortOf p with
    | some (lp, _) => match (th.loads lp).oldest with
      | some e => ((lanesOf m).filterMap fun l => (e.lane l).bind fun y =>
          if y.arrived && y.cause ≠ 0 then some (y.cause, y.addr) else none).head?
      | none => none
    | none => ((lanesOf m).filterMap fun l =>
        let f := Tab.get { cause := 0, addr := 0 } th.faults (p.code * 32 + l)
        if f.cause ≠ 0 then some (f.cause, f.addr) else none).head?
  | _ => none

/-- A stale latch in the lowest guarded lane (03 R45). -/
def State.srcStale (s : State) (x : Src) (m : Mask) : Option Nat :=
  match x with
  | .lat n => if (lanesOf m).any fun l => s.cur.image.rd (.age n.val) l = 0#32 then some n.val else none
  | _ => none

/-- Applies halves and bit 31 modifiers (03 R46). -/
def Mods.apply (m : Mods) (w : Word) : Word :=
  let lo := w &&& 0xFFFF#32
  let hi := w >>> 16
  let v := match m.half with
    | .word => w
    | .lo => lo ||| (lo <<< 16)
    | .hi => hi ||| (hi <<< 16)
    | .swp => hi ||| (lo <<< 16)
  match m.sign with
  | .keep => v
  | .neg => v ^^^ 0x80000000#32
  | .abs => v &&& 0x7FFFFFFF#32
  | .nabs => v ||| 0x80000000#32

/-- The lanes in which the current move's guard is true. -/
def State.guard (s : State) (g : Guard) : Mask := guardMask s.cur.image (s.cur.image.split s.cur.split) g

/-- The value that a trigger move delivers in a lane (03 R47: no modifier). -/
def State.trig (s : State) (h : Head) (l : Nat) : Word := (s.srcRead h.src false l).1

/-- The thread that issues. -/
def State.self (s : State) : Thread := s.thread s.cur.tid

/-- The block of the thread that issues. -/
def State.selfBlock (s : State) : Block := s.block s.cur.tid.core s.cur.tid.ctx

/-- The core of the thread that issues. -/
def State.selfCore (s : State) : Core := s.core s.cur.tid.core

/-- An operand port of the thread that issues, as its bundle has written it (03 R52). -/
def State.oper (s : State) (p : OpPort) (l : Nat) : Word := s.self.rd (.op p) l

/-- The operand ports that hold one value for the warp (02 R23, 03 R52). -/
def OpPort.perWarp : OpPort → Bool
  | .mxa | .mxb | .cp0a | .cp0b | .cp1a | .cp1b => true
  | _ => false

/-- An operand port whose value a split-wide trigger takes from the lane `l`. -/
def State.operAt (s : State) (p : OpPort) (l : Nat) : Word := s.oper p (if OpPort.perWarp p then 0 else l)

end Sys2Proof.Machine
end

