-- ==== Sys2Proof/Machine/Frame.lean ====
section
/-! DEFINITION. The trap frame (16 R317 to R320), word by word: written from a thread, and read back. A word list stands
for the frame's bytes, little-endian. -/

namespace Sys2Proof.Machine

/-- The operand and result ports of the frame's port section, in order (16 R317). -/
def framePorts : List Reg :=
  [.op .a0a, .res .a0q, .op .a1a, .res .a1q, .op .f0a, .op .f0b, .res .f0q, .op .f1a, .op .f1b, .res .f1q, .res .sq,
   .op .va, .res .vq, .op .xa, .res .xq, .res .xm, .op .ca, .res .cq, .op .lgh, .op (.ssd 0), .op (.ssd 1), .op (.ssd 2),
   .op (.ssd 3), .op .sgh, .op (.sgd 0), .op (.sgd 1), .op (.sgd 2), .op (.sgd 3), .op .asa, .op .asb, .res .asq,
   .op .agh, .op .aga, .op .agb, .res .agq, .op .ya, .res .yq, .op .ka, .res .kq, .res .rlq]

/-- The flags ports, in frame order. -/
def frameFlags : List ResPort := [.a0f, .a1f, .f0f, .f1f, .vf]

/-- The ports of one value for the warp, in frame order. -/
def frameWarpPorts : List Reg :=
  [.op .mxa, .op .mxb, .res .mxq, .op .cp0a, .op .cp0b, .res .cp0q, .op .cp1a, .op .cp1b, .res .cp1q]

/-- The operand ports and latches whose poison tags have a word of their own, in frame order. -/
def framePoison : List Reg :=
  [.op .a0a, .op .a1a, .op .f0a, .op .f0b, .op .f1a, .op .f1b, .op .va, .op .xa, .op .ca, .op .lgh, .op .ssm,
   .op (.ssd 0), .op (.ssd 1), .op (.ssd 2), .op (.ssd 3), .op .sgh, .op .sgm, .op (.sgd 0), .op (.sgd 1),
   .op (.sgd 2), .op (.sgd 3), .op .asa, .op .asb, .op .agh, .op .aga, .op .agb, .op .ya, .op .ka, .lat 0, .lat 1,
   .lat 2]

/-- The per-warp operand ports whose tags are bits [13:8] of header word 5, the highest bit first (16 R318). -/
def frameWarpPoison : List Reg := [.op .mxa, .op .mxb, .op .cp0a, .op .cp0b, .op .cp1a, .op .cp1b]

/-- The ports with a fill mask, in frame order. -/
def frameFills : List ResPort := [.asq, .agq, .yq, .kq, .rlq]

/-- The ports that a trap sets aside (16 R315 step 4). -/
def asidePorts : List ResPort := [.asq, .agq, .yq, .kq, .mxq, .cp0q, .cp1q, .rlq]

/-- Four words with 4 bits for each lane (16 R317 cc). -/
def nibbleWords (f : Nat → Nat) : List Word :=
  (List.range 4).map fun i => w32 ((List.range 8).foldl (fun a l => a + f (8 * i + l) % 16 * 16 ^ l) 0)

/-- Lane `l`'s 4 bits of such words. -/
def nibbleAt (ws : List Word) (l : Nat) : Word := w32 ((ws.getD (l / 8) 0#32).bits (4 * (l % 8) + 3) (4 * (l % 8)))

/-- A loop level, five words (16 R319). -/
def loopWords (l : Option LoopLevel) : List Word :=
  match l with
  | some x => [w32 x.n, w32 x.i, x.ring, x.body, x.lback]
  | none => List.replicate 5 0#32

/-- Six repeat entries, two words each (16 R319). -/
def repWords (rep : List (Option RepEntry)) : List Word :=
  (List.range 6).flatMap fun i => match rep.getD i none with
    | some e => [e.word, e.imm]
    | none => [0#32, 0#32]

/-- The flags word of a split entry (16 R319). -/
def splitFlags (sp : Split) : Word :=
  w32 (sp.live.toNat * 2 ^ 31 + (sp.entry.getD 15) * 2 ^ 24 + sp.loops.length * 2 ^ 22 + sp.sched * 2 ^ 20
    + sp.wait.kind * 2 ^ 16
    + (List.range 6).foldl (fun a i => a + (if (sp.rep.getD i none).isSome then 2 ^ i else 0)) 0)

/-- A split-table entry, 28 words (16 R319); `clk` is the cycle from which its delay is counted. -/
def splitWords (clk : Nat) (sp : Split) : List Word :=
  if sp.live then
    [sp.pc, sp.mask, splitFlags sp, w32 (sp.ready - clk), sp.wait.w0, sp.wait.w1]
      ++ loopWords sp.loops[0]? ++ loopWords sp.loops[1]? ++ repWords sp.rep
  else List.replicate 28 0#32

/-- A join-stack entry, 32 words (16 R319); the saved flags' live bit is 0, since held lanes are no live split (log 62). -/
def joinWords (e : JoinEntry) : List Word :=
  if e.used then
    [e.join, e.expect, e.arrived, w32 (2 ^ 31 + e.serial.toNat * 2 ^ 30 + e.parent.getD 15), e.held, e.resume,
     if e.serial then splitFlags { e.saved with live := false } else 0#32, w32 e.delay]
      ++ loopWords e.saved.loops[0]? ++ loopWords e.saved.loops[1]? ++ repWords e.saved.rep
      ++ [e.saved.wait.w0, e.saved.wait.w1]
  else List.replicate 32 0#32

/-- An in-flight record, 40 words (16 R320); `clk` is the cycle of entry. -/
def flightWords (clk : Nat) (f : Flight) : List Word :=
  [w32 ((f.due - clk) * 2 ^ 16 + f.unit), f.mask, if f.unit < 6 then f.raised.zeroExtend 32 else 0#32, 0#32]
    ++ lanes32 (laneAt f.vals) ++ nibbleWords fun l => (f.flags.getD l 0#4).toNat

/-- Orders in-flight records by cycles left, then by unit code (16 R320). -/
def flightBefore (a b : Flight) : Bool := a.due < b.due || (a.due == b.due && a.unit ≤ b.unit)

/-- Inserts a record in order. -/
def flightInsert (x : Flight) : List Flight → List Flight
  | [] => [x]
  | y :: r => if flightBefore x y then x :: y :: r else y :: flightInsert x r

/-- The records in frame order. -/
def flightsSorted (fs : List Flight) : List Flight := fs.foldr flightInsert []

/-- What the header records of a trap (16 R318). -/
structure FrameHead where
  tepc : Word
  tmask : Word
  cause : Nat
  split : Nat
  tval : Word
  telem : Nat
deriving DecidableEq, Repr

/-- The pending bits of header word 6: watchdog, external event, timer (16 R318). -/
def pendingBits (ps : List PendingTrap) : Nat :=
  let has (c : Nat) := ps.any fun p => p.cause == c
  (has 0x11).toNat * 4 + (has 0x0E).toNat * 2 + (has 0x0D).toNat

/-- An event that header words 6 and 7 of a frame can hold: a timer, an external event, a watchdog (16 R318). -/
def PendingTrap.framed (p : PendingTrap) : Bool := p.cause == 0x11 || p.cause == 0x0E || p.cause == 0x0D

/-- The bit of header word 6 that stands for an event (16 R318). -/
def pendingBit (cause : Nat) : Nat :=
  match cause with
  | 0x11 => 4
  | 0x0E => 2
  | _ => 1

/-- The events that header words 6 and 7 hold (16 R318, R324). -/
def pendingOf (ws : List Word) : List PendingTrap :=
  let one (cause : Nat) (v : Word) : List PendingTrap :=
    if (ws.getD 6 0#32).toNat / pendingBit cause % 2 = 1 then [{ cause := cause, tval := v, telem := 0 }] else []
  one 0x11 0#32 ++ one 0x0E (ws.getD 7 0#32) ++ one 0x0D 0#32

/-- The registers that a frame holds: a trap's entry reads their words (16 R317). -/
def frameRegs : List Reg :=
  framePorts ++ frameWarpPorts ++ [.op .ssm, .op .sgm, .lat 0, .lat 1, .lat 2, .cc 0, .cc 1, .cc 2, .cc 3]
    ++ frameFlags.map Reg.res

/-- A soft error has struck a word that a trap's entry reads (16 R331). -/
def Thread.frameStruck (th : Thread) : Bool := th.bad.any fun e => frameRegs.any fun r => e.1 / 32 == r.id

/-- The frame of a thread (16 R317), 2,048 words; `clk` is the cycle of entry. -/
def frameWords (clk : Nat) (sluice : Bool) (th : Thread) (h : FrameHead) (flights : List Flight) : List Word :=
  let per (r : Reg) : List Word := lanes32 fun l => th.rd r l
  let filled (p : ResPort) : Nat := (Tab.get false th.filled p.code).toNat
  let head : List Word :=
    [h.tepc, h.tmask,
     w32 (h.cause * 2 ^ 16 + h.split * 2 ^ 14 + flights.length * 2 ^ 8 + filled .cp1q * 2 ^ 6 + filled .cp0q * 2 ^ 5
       + filled .mxq * 2 ^ 4),
     h.tval, w32 (h.telem % 65536),
     w32 ((List.range 6).foldl (fun a i => a + (if (th.tags (frameWarpPoison.getD i (.g 0))).getLsbD 0 then 2 ^ (13 - i)
       else 0)) 0 + th.fstat.toNat % 32),
     w32 (pendingBits th.pending),
     ((th.pending.find? fun p => p.cause == 0x0E).map (·.tval)).getD 0#32,
     w32 clk, w32 (clk / 2 ^ 32),
     w32 ((List.range 8).foldl (fun a i => a + (if (th.join i).used then 2 ^ (8 + i) else 0)) 0
       + (List.range 4).foldl (fun a i => a + (if (th.split i).live then 2 ^ i else 0)) 0)]
      ++ List.replicate 5 0#32
  head
    ++ (List.range 4).flatMap (fun i => splitWords clk (th.split i))
    ++ (List.range 8).flatMap (fun i => joinWords (th.join i))
    ++ (List.range 4).flatMap (fun j => nibbleWords fun l => (th.rd (.cc j) l).toNat)
    ++ (List.range 3).flatMap (fun j => per (.lat j))
    ++ (List.range 3).flatMap (fun j => (List.range 2).map fun i =>
        w32 ((List.range 16).foldl (fun a l => a + (th.rd (.age j) (16 * i + l)).toNat % 4 * 4 ^ l) 0))
    ++ framePorts.flatMap per
    ++ [OpPort.ssm, OpPort.sgm].flatMap (fun p => (List.range 16).map fun i =>
        w32 ((th.rd (.op p) (2 * i)).toNat % 65536 + (th.rd (.op p) (2 * i + 1)).toNat % 65536 * 65536))
    ++ frameFlags.flatMap (fun p => nibbleWords fun l => (th.rd (.res p) l).toNat)
    ++ frameWarpPorts.map (fun r => th.rd r 0)
    ++ framePoison.map th.tags
    ++ frameFills.map th.awaiting
    ++ [if sluice then th.rd (.res .smq) 0 else 0#32]
    ++ List.replicate 8 0#32
    ++ (List.range 4).flatMap (fun i => match flights[i]? with
        | some f => flightWords clk f
        | none => List.replicate 40 0#32)

/-! ## Reading a frame back (16 R321) -/

/-- Word at a byte offset of a frame. -/
def frameAt (ws : List Word) (off : Nat) : Word := ws.getD (off / 4) 0#32

/-- A loop level read back. -/
def loopOf (ws : List Word) (off : Nat) : LoopLevel :=
  { n := (frameAt ws off).toNat, i := (frameAt ws (off + 4)).toNat, ring := frameAt ws (off + 8),
    body := frameAt ws (off + 12), lback := frameAt ws (off + 16) }

/-- Repeat entries read back; bit i of `live` says that entry i is not empty. -/
def repOf (ws : List Word) (off live : Nat) : List (Option RepEntry) :=
  (List.range 6).map fun i =>
    if nbit live i then some { word := frameAt ws (off + 8 * i), imm := frameAt ws (off + 8 * i + 4) } else none

/-- A wait kind and record are in range (16 R319, R130). -/
def waitOk (kind : Nat) (w0 w1 : Word) : Bool :=
  match kind with
  | 0 => w0 == 0#32 && w1 == 0#32
  | 1 | 2 => w0.bits 31 20 == 0 && w1 == 0#32
  | 3 => w0.bits 31 20 == 0 && w1 == 0#32 && 3 ≤ w0.bits 3 0 && w0.bits 3 0 ≤ 8
  | 4 => w0 == 0#32 && w1.bits 3 1 == 0
  | 5 => w0.bits 31 5 == 0 && w0.bits 3 0 ≤ 9 && w1 == 0#32
  | _ => false

/-- The state that flags, delay, loops, repeat entries and a wait record give a split. -/
def stateOf (clk : Nat) (ws : List Word) (flags delay : Word) (loopOff repOff w0off : Nat) : Split :=
  let depth := flags.bits 23 22
  { Split.empty with
    entry := if flags.bits 27 24 = 15 then none else some (flags.bits 27 24), sched := flags.bits 21 20,
    loops := (List.range (min depth 2)).map fun i => loopOf ws (loopOff + 20 * i),
    rep := repOf ws repOff (flags.bits 5 0), ready := clk + delay.toNat,
    wait := { kind := flags.bits 18 16, w0 := frameAt ws w0off, w1 := frameAt ws (w0off + 4), due := 0 } }

/-- Split-table entry `i` read back; the delay is counted from `clk`. A wait or a switch that the frame leaves as the trap found it
keeps what the set-aside copy of the entry knows of it (log 62). -/
def splitOf (clk : Nat) (ws : List Word) (i : Nat) (old : Split) : Split :=
  let o := 0x40 + 112 * i
  let flags := frameAt ws (o + 8)
  if flags.bit 31 then
    { stateOf clk ws flags (frameAt ws (o + 12)) (o + 24) (o + 64) (o + 16) with
      live := true, pc := frameAt ws o, mask := frameAt ws (o + 4), arrive := .restored, lastIssue := clk,
      place := if flags.bits 18 16 = 0 then .entry clk else match old.live && old.wait.kind == 3 && flags.bits 18 16 == 3, old.place with
        | true, .restart a => .restart a
        | _, _ => .away,
      safeWait := old.live && old.wait.kind == flags.bits 18 16 && old.safeWait,
      switch_ := if old.live && old.pc = frameAt ws o then old.switch_ else none }
  else Split.empty

/-- Join-stack entry `i` read back onto the entry that the trap set aside (log 62). -/
def joinOf (ws : List Word) (i : Nat) (old : JoinEntry) : JoinEntry :=
  let o := 0x200 + 128 * i
  let w3 := frameAt ws (o + 12)
  if w3.bit 31 then
    { old with
      used := true, join := frameAt ws o, expect := frameAt ws (o + 4), arrived := frameAt ws (o + 8),
      parent := if w3.bits 3 0 = 15 then none else some (w3.bits 3 0), serial := w3.bit 30,
      held := frameAt ws (o + 16), resume := frameAt ws (o + 20),
      saved := { stateOf 0 ws (frameAt ws (o + 24)) 0#32 (o + 32) (o + 72) (o + 120) with
        ready := 0, safeWait := old.used && old.saved.wait.kind == (frameAt ws (o + 24)).bits 18 16 && old.saved.safeWait },
      delay := (frameAt ws (o + 28)).toNat }
  else JoinEntry.empty

/-- In-flight record `i` read back: it lands `r` cycles after `f`. The split that triggered it, and the flags that a WFADD raises, come
from the set-aside record of the same number and unit (log 62); a record that the handler made is the lowest split's. -/
def flightOf (f : Nat) (ws : List Word) (i : Nat) (old : Option Flight) : Flight :=
  let o := 0x1D80 + 160 * i
  let w0 := frameAt ws o
  let mine := old.filter fun x => x.unit == w0.bits 2 0
  { unit := w0.bits 2 0, mask := frameAt ws (o + 4),
    raised := if w0.bits 2 0 < 6 then BitVec.ofNat 5 (frameAt ws (o + 8)).toNat else (mine.map (·.raised)).getD 0#5,
    due := f + w0.bits 23 16, split := (mine.map (·.split)).getD 0, vals := lanes32 fun l => frameAt ws (o + 16 + 4 * l),
    flags := (List.range 32).map fun l =>
      BitVec.ofNat 4 (nibbleAt ((List.range 4).map fun k => frameAt ws (o + 144 + 4 * k)) l).toNat }

/-- A reserved field of the frame is set (16 R318 to R320). -/
def frameReserved (ws : List Word) (sluice : Bool) : Bool :=
  let h (i : Nat) := ws.getD i 0#32
  (h 2).bits 31 24 ≠ 0 || (h 2).bits 13 11 ≠ 0 || (h 2).bit 7 || (h 2).bits 3 0 ≠ 0 || (h 4).bits 31 16 ≠ 0
    || (h 5).bits 31 14 ≠ 0 || (h 5).bits 7 5 ≠ 0 || (h 6).bits 31 3 ≠ 0 || (h 10).bits 31 16 ≠ 0
    || (h 10).bits 7 4 ≠ 0 || (List.range 5).any (fun i => h (11 + i) ≠ 0#32)
    || (List.range 4).any (fun i => let f := frameAt ws (0x40 + 112 * i + 8)
        f.bits 30 28 ≠ 0 || f.bit 19 || f.bits 15 6 ≠ 0)
    || (List.range 8).any (fun i => let w := frameAt ws (0x200 + 128 * i + 12)
        let f := frameAt ws (0x200 + 128 * i + 24)
        w.bits 29 4 ≠ 0 || f.bits 30 28 ≠ 0 || f.bit 19 || f.bits 15 6 ≠ 0)
    || (!sluice && frameAt ws 0x1D5C ≠ 0#32)
    || (List.range 8).any (fun i => frameAt ws (0x1D60 + 4 * i) ≠ 0#32)
    || (List.range ((h 2).bits 10 8)).any (fun i => let o := 0x1D80 + 160 * i
        (frameAt ws o).bits 31 24 ≠ 0 || (frameAt ws o).bits 15 3 ≠ 0 || (frameAt ws (o + 8)).bits 31 5 ≠ 0
          || frameAt ws (o + 12) ≠ 0#32)

/-- A mask is the disjoint union of masks. -/
def partitions (whole : Mask) (parts : List Mask) : Bool :=
  parts.foldl (fun a m => a ||| m) 0#32 == whole
    && (parts.map fun m => (lanesOf m).length).foldl (· + ·) 0 == (lanesOf whole).length

/-- RTE's checks of a frame (16 R321): well formed, or the work-group ends. -/
def frameOk (ws : List Word) (occupied : Mask) (sluice : Bool) : Bool :=
  let n := (ws.getD 2 0#32).bits 10 8
  let splits := (List.range 4).map fun i => splitOf 0 ws i Split.empty
  let joins := (List.range 8).map fun i => joinOf ws i JoinEntry.empty
  !frameReserved ws sluice && n ≤ 4
    && (List.range n).all (fun i => let r := (frameAt ws (0x1D80 + 160 * i)).bits 23 16
        1 ≤ r && r ≤ 15)
    && splits.all (fun sp => !sp.live || waitOk sp.wait.kind sp.wait.w0 sp.wait.w1)
    && joins.all (fun e => !e.used || !e.serial || waitOk e.saved.wait.kind e.saved.wait.w0 e.saved.wait.w1)
    && partitions occupied (splits.filterMap (fun sp => if sp.live then some sp.mask else none)
        ++ joins.flatMap fun e => if e.used then [e.held, e.arrived] else [])

/-- Restores a thread from a frame (16 R321): every port but the set-aside ones, cc, latches and ages, poison tags,
FSTAT, split table and join stack. Delays count from `f`. -/
def frameRestore (f : Nat) (ws : List Word) (sluice : Bool) (th : Thread) : Thread :=
  let keep (r : Reg) : Bool := match r with
    | .res p => asidePorts.contains p
    | _ => false
  let ports (base : Nat) (rs : List Reg) (th : Thread) : Thread :=
    ((List.range rs.length).zip rs).foldl (fun th ir =>
      if keep ir.2 then th else (List.range 32).foldl (fun th l => th.wr ir.2 l (frameAt ws (base + 128 * ir.1 + 4 * l)))
        th) th
  let th := ports 0x640 [.lat 0, .lat 1, .lat 2] th
  let th := ports 0x7D8 framePorts th
  let th := (List.range 4).foldl (fun th j => (List.range 32).foldl (fun th l =>
      th.wr (.cc j) l (nibbleAt ((List.range 4).map fun k => frameAt ws (0x600 + 16 * j + 4 * k)) l)) th) th
  let th := (List.range 3).foldl (fun th j => (List.range 32).foldl (fun th l =>
      th.wr (.age j) l (w32 ((frameAt ws (0x7C0 + 8 * j + 4 * (l / 16))).bits (2 * (l % 16) + 1) (2 * (l % 16))))) th) th
  let half (p : OpPort) (base : Nat) (th : Thread) : Thread := (List.range 32).foldl (fun th l =>
      th.wr (.op p) l (w32 ((frameAt ws (base + 4 * (l / 2))).bits (16 * (l % 2) + 15) (16 * (l % 2))))) th
  let th := half .sgm 0x1C18 (half .ssm 0x1BD8 th)
  let th := ((List.range 5).zip frameFlags).foldl (fun th ip => (List.range 32).foldl (fun th l =>
      th.wr (.res ip.2) l (nibbleAt ((List.range 4).map fun k => frameAt ws (0x1C58 + 16 * ip.1 + 4 * k)) l)) th) th
  let th := ((List.range 9).zip frameWarpPorts).foldl (fun th ir =>
      if keep ir.2 then th else th.wr ir.2 0 (frameAt ws (0x1CA8 + 4 * ir.1))) th
  let th := ((List.range 31).zip framePoison).foldl (fun th ir =>
      th.setTags ir.2 (BitVec.allOnes 32) (frameAt ws (0x1CCC + 4 * ir.1))) th
  let th := ((List.range 6).zip frameWarpPoison).foldl (fun th ir =>
      th.setTags ir.2 1#32 (if (ws.getD 5 0#32).bit (13 - ir.1) then 1#32 else 0#32)) th
  let th := if sluice then th.wr (.res .smq) 0 (frameAt ws 0x1D5C) else th
  { th with
    fstat := (ws.getD 5 0#32) &&& 31#32,
    splits := (List.range 4).map fun i => splitOf f ws i (((th.aside.map (·.splits)).getD []).getD i Split.empty),
    joins := (List.range 8).map fun i => joinOf ws i (((th.aside.map (·.joins)).getD []).getD i JoinEntry.empty),
    flights := (List.range ((ws.getD 2 0#32).bits 10 8)).map fun i => flightOf f ws i (((th.aside.map (·.flights)).getD [])[i]?) }

end Sys2Proof.Machine
end

