-- ==== Sys2Proof/Machine/Ops.lean ====
section
/-! DEFINITION. The shared operations of the machine: scratch regions (11 R217, R218), event queue and semaphores (02 R17
to R20), Rills (02 R15), the end of warps, blocks and work-groups (04 R79, R86, R88; 16 R330), fencing (15 R304), taking
a trap and returning from one (16 R315 to R324). -/

namespace Sys2Proof.Machine

/-! ## Scratch regions (02 R29, 11 R217, R218) -/

/-- The resident block of a launch with a %gslot in the group that a block belongs to. -/
def State.groupMate (s : State) (b : Block) (gslot : Nat) : Option (Nat × Nat) :=
  let size := (s.launch b.lid).groupSize
  s.residents.find? fun p =>
    let o := s.block p.1 p.2
    o.lid == b.lid && o.gslot == gslot && o.block / size == b.block / size

/-- Where a scratch or pooled address lies for a block (11 R216, R217): the core and the address within its
scratchpad; none where it takes trap 0x08 (R218). -/
def State.scratchIn (s : State) (b : Block) (core : Nat) (a : Word) (n : Nat) : Option (Nat × Nat) :=
  if b.grouped then
    let off := a.bits 18 0
    let h := a.bits 31 31
    let o := if b.twin && 16 ≤ b.gslot then 1 else 0
    let slot := a.bits 30 27
    if a.bits 26 19 ≠ 0 || (h = 1 && !b.twin) then none
    else if 16 * (h ^^^ o) + slot = b.gslot then
      if off + n ≤ b.scratchSize then some (core, b.scratchBase + off) else none
    else
      match s.groupMate b (16 * (h ^^^ o) + slot) with
      | some (c, x) =>
        let m := s.block c x
        if off + n ≤ m.scratchSize then some (c, m.scratchBase + off) else none
      | none => none
  else if a.bits 31 19 ≠ 0 || b.scratchSize < a.toNat + n then none
  else some (core, b.scratchBase + a.toNat)

/-- The same for the block in a context. -/
def State.scratchAt (s : State) (core ctx : Nat) (a : Word) (n : Nat) : Option (Nat × Nat) :=
  s.scratchIn (s.block core ctx) core a n

/-! ## Semaphores and the event queue -/

/-- Adds to a semaphore, saturating at 65,535 (04 R84, R87). -/
def State.semAdd (s : State) (core i v : Nat) : State :=
  s.modCore core fun c => { c with sems := c.sems.set i (BitVec.ofNat 16 (min 65535 ((c.sems.getD i 0#16).toNat + v))) }

/-- A record word (12 R246). -/
def recordWord (origin ctx slot value : Nat) : Word := w32 (origin * 2 ^ 30 + ctx * 2 ^ 29 + slot * 2 ^ 24 + value % 2 ^ 24)

/-- Removes the records of a context. -/
def State.dropRecords (s : State) (core ctx : Nat) : State :=
  let keep (ws : List Word) := ws.filter fun w => (if w.getLsbD 29 then 1 else 0) != ctx
  s.modCore core fun c =>
    { c with evq := keep c.evq, held := keep c.held, heldE := c.heldE.filter fun p => p.tid.ctx != ctx }

/-! ## Rills (02 R15, 04 R77) -/

/-- Takes up to `n` indices from ranges, in increasing order: one consecutive run. -/
def takeRun (ranges : List (Nat × Nat)) (n : Nat) : List (Nat × Nat) × Nat × Nat :=
  match ranges.filter fun r => r.1 < r.2 with
  | [] => ([], 0, 0)
  | (a, b) :: rest => if n < b - a then ((a + n, b) :: rest, a, n) else (rest, a, b - a)

/-- The next run of a block: first what its predecessor was granted, run by run (16 R330), then its die's Rill. -/
def State.rillTake (s : State) (core ctx n : Nat) : State × Nat × Nat :=
  let b := s.block core ctx
  match b.inherit with
  | (a, e) :: rest =>
    let k := min n (e - a)
    let left := if a + k < e then (a + k, e) :: rest else rest
    (s.setBlock core ctx { b with inherit := left, runs := b.runs ++ [(a, a + k)] }, a, k)
  | [] =>
    let l := s.launch b.lid
    match l.rills.find? fun r => r.die == dieOf core with
    | none => (s, 0, 0)
    | some r =>
      let (left, a, k) := takeRun r.ranges n
      let s := s.setLaunch b.lid { l with rills := l.rills.map fun x =>
        if x.die = r.die then { x with ranges := left } else x }
      (if k = 0 then s else s.modBlock core ctx fun b => { b with runs := b.runs ++ [(a, a + k)] }, a, k)

/-- Whether a die's Rill still holds indices for a block. -/
def State.rillLeft (s : State) (core ctx : Nat) : Bool :=
  let b := s.block core ctx
  !b.inherit.isEmpty || (s.launch b.lid).rills.any fun r => r.die == dieOf core && r.ranges.any fun x => x.1 < x.2

/-! ## Warps -/

/-- Lane words of a register set to one value in some lanes. -/
def Thread.fillLanes (th : Thread) (rs : List Reg) (m : Mask) (v : Nat → Word) : Thread :=
  rs.foldl (fun th r => th.wrMask r m v) th

/-- Every register of a thread but its general registers is as at a start (08 R150, 09 R172, 10 R202, 11 R216, R232,
16 R310): only the general registers and their tags stay (04 R79). -/
def Thread.restart (th : Thread) (clk : Nat) : Thread :=
  { Thread.empty with
    regs := th.regs.filter fun e => e.1 < 4096, poison := th.poison.filter fun e => e.1 < 128,
    bad := th.bad.filter fun e => e.1 < 4096, live := true, seq := th.seq, releases := th.releases, acqs := th.acqs, seen := th.seen,
    clkh := th.clkh, splits := { Split.empty with lastIssue := clk } :: List.replicate 3 Split.empty }

/-- The first split of a warp, a task or a trap handler, at its entry (04 R79, R81). It comes there as by a transfer of control, so that its first
bundle has to be a marked target (03 R35, R36): the rules name the addresses of branches, calls, returns and joins (DEDUCED; log 63). -/
def startSplit (entry : Word) (mask : Mask) (clk : Nat) : Split :=
  { Split.empty with live := true, pc := entry, mask := mask, arrive := .jump, place := .entry clk, lastIssue := clk }

/-- Starts a warp in a slot: lanes are filled from the Rill, lowest first; a warp without a lane is not started
(02 R15). A warp that follows another in its slot starts at the end of the bundle that ended that one (04 R79 names no cycle), after the cycle's
Sluice bundle: a decision pushed in that cycle counts as earlier, and the new warp does not pop it (02 R18; DESIGN CHOICE, log 64). -/
def State.startWarp (s : State) (t : Tid) : State :=
  let b := s.block t.core t.ctx
  let rec fill : Nat → State → List (Nat × Nat) → State × List (Nat × Nat)
    | 0, s, got => (s, got)
    | k + 1, s, got =>
      let have_ := got.foldl (fun a r => a + r.2) 0
      if 32 ≤ have_ then (s, got)
      else
        let (s', a, n) := s.rillTake t.core t.ctx (32 - have_)
        if n = 0 then (s', got) else fill k s' (got ++ [(a, n)])
  let (s, got) := fill 33 s []
  let idx := got.flatMap fun r => (List.range r.2).map (r.1 + ·)
  if idx.isEmpty then s
  else
    let mask := maskWhere fun l => l < idx.length
    let th := ((s.thread t).restart s.clk).wrMask (.res .rlq) mask fun l => w32 (idx.getD l 0)
    let th := { th with occupied := mask, dqPos := (s.block t.core t.ctx).dqPushed,
                        splits := startSplit b.entry mask s.clk :: List.replicate 3 Split.empty }
    (s.setThread t th).modBlock t.core t.ctx fun b => { b with started := b.started ||| laneMask t.slot }

/-- Frees the decision-queue entries that every warp of the block has popped (02 R18). -/
def State.freeDecisions (s : State) (core ctx : Nat) : State :=
  let b := s.block core ctx
  let least := (s.blockWarps core ctx).foldl (fun a t => min a (s.thread t).dqPos) b.dqPushed
  let drop := least - (b.dqPushed - b.dq.length)
  s.setBlock core ctx { b with dq := b.dq.drop drop }

/-! ## Launch counters and ends (04 R86 to R90) -/

/-- A launch's counter on a core (04 R88): its resident blocks there, and its extra count. A saved block has not ended, so it counts where it was
saved (R88, 07 R141). -/
def State.coreCounter (s : State) (lid core : Nat) : Nat :=
  (s.residents.filter fun p => p.1 == core && (s.block p.1 p.2).lid == lid).length
    + (s.saved.filter fun v => v.present && v.block.lid == lid && v.core == core).length
    + Tab.get 0 (s.launch lid).extra core

/-- A launch's counter on a quad: the cores of the quad whose counters are not zero. Nothing else is passed upwards (04 R88). -/
def State.quadCounter (s : State) (lid quad : Nat) : Nat :=
  ((List.range 4).filter fun i => s.coreCounter lid (quad * 4 + i) ≠ 0).length

/-- A launch's counter on a die: the quads of the die whose counters are not zero. -/
def State.dieCounter (s : State) (lid die : Nat) : Nat :=
  ((List.range 16).filter fun i => s.quadCounter lid (die * 16 + i) ≠ 0).length

/-- A launch's package counter: the dies whose counters are not zero. -/
def State.packageCounter (s : State) (lid : Nat) : Nat := ((List.range 4).filter fun d => s.dieCounter lid d ≠ 0).length

/-- The package counter of a launch is zero (04 R88). -/
def State.counterZero (s : State) (lid : Nat) : Bool := s.packageCounter lid = 0

/-- A launch whose counter has returned to zero after its last block was placed is complete (04 R90). -/
def State.checkLaunch (s : State) (lid : Nat) : State :=
  let l := s.launch lid
  if l.started && l.status.isNone && l.placed = l.grid && l.again.isEmpty && s.counterZero lid then
    s.setLaunch lid { l with status := some (if l.failedBlock.isSome then 7 else 0), detail := l.failedBlock.getD 0,
                             lastCycle := s.clk }
  else s

/-- Clears accumulator rows (10 R205). -/
def Quad.clearRows (q : Quad) (f n : Nat) : Quad :=
  { q with acc := Tab.clear q.acc (f * 128) ((f + n) * 128), accBad := Tab.clear q.accBad f (f + n) }

/-- Ends the lease that a context holds, and withdraws its request (10 R194). -/
def State.endLease (s : State) (core ctx : Nat) : State :=
  s.modQuad (quadOf core) fun q =>
    let q := { q with leaseReqs := q.leaseReqs.filter fun r => !(r.core == core && r.ctx == ctx) }
    if q.leaseHolder = some (core, ctx) then { q with leaseHolder := none, leaseLeft := 0, leaseFree := s.clk + 1 } else q

/-- What stays of a thread that no longer exists: its sequence number, and the releases, the acquires and the observed lines that order
the stores it has issued. -/
def Thread.remains (th : Thread) : Thread := { Thread.empty with seq := th.seq, releases := th.releases, acqs := th.acqs, seen := th.seen }

/-- A command of a resident block. -/
def Cmd.of (c : Cmd) (core ctx : Nat) : Bool := c.core == core && c.ctx == ctx && c.orphan.isNone

/-- The same command. -/
def Cmd.same (c d : Cmd) : Bool := c.core == d.core && c.ctx == d.ctx && c.tag == d.tag

/-- The commands of a block that ends (04 R79, 07 R140): a faulted one, and one parked for want of its weights, are over; the
others go on to their completion with progress of their own, told apart from the commands of the next block by their tags
(log 40). -/
def State.leaveCommands (s : State) (core ctx : Nat) : State :=
  let b := s.block core ctx
  let n := 1 + s.cmds.foldl (fun a c => max a (c.tag / 2 ^ 24)) 0
  { s with cmds := s.cmds.filterMap fun (c : Cmd) =>
      if !c.of core ctx then some c
      else if c.stage = 4 || (c.stage = 3 && c.parkAt.isNone) then none
      else some { c with tag := c.tag + n * 2 ^ 24, orphan := some b } }

/-- Rows that a command of an ended block may still work on stay as they are until it completes. -/
def State.rowsLive (s : State) (core : Nat) (claim : Nat × Nat) : Bool :=
  s.cmds.any fun c => c.engine == 0 && quadOf c.core == quadOf core && c.orphan.any fun o => o.claim == claim

/-- Removes a block from its core: its threads, records, rows and lease; its region keeps its bytes (02 R29). -/
def State.vacate (s : State) (core ctx : Nat) : State :=
  let b := s.block core ctx
  let s := (s.endLease core ctx).dropRecords core ctx
  let s := if s.rowsLive core b.claim then s else s.modQuad (quadOf core) fun q => q.clearRows b.claim.1 b.claim.2
  let lo := (core * 2 + ctx) * 64
  { s with
    threads := s.threads.map fun e => if lo ≤ e.1 && e.1 < lo + 64 then (e.1, e.2.remains) else e,
    blocks := Tab.erase s.blocks (core * 2 + ctx) }

/-- A block that has ended leaves every SYNC domain (06 R122). -/
def State.leaveWeirs (s : State) (core ctx : Nat) : State :=
  { s with weirs := s.weirs.map fun e => (e.1, { e.2 with
      blocks := e.2.blocks.filter (· != (core, ctx)), arrived := e.2.arrived.filter (· != (core, ctx)) }) }

/-- The Sluice side of a block is finished (04 R86). -/
def Block.sluiceDone (b : Block) : Bool := b.running.isNone && b.armed.all (!·)

/-- Ends the block when its Sluice is finished and every warp has ended (04 R86): its count leaves the counter tree. -/
def State.checkBlock (s : State) (core ctx : Nat) : State :=
  let b := s.block core ctx
  if b.resident && b.sluiceDone && (s.blockWarps core ctx).isEmpty then
    (((s.leaveCommands core ctx).vacate core ctx).leaveWeirs core ctx).checkLaunch b.lid
  else s

/-- A warp has ended: a new one starts in its slot where the Rill still holds indices and `again` allows it
(04 R79); the decision queue and the block are checked. -/
def State.endWarp (s : State) (t : Tid) (again : Bool) : State :=
  let s := s.modThread t fun th =>
    { th.restart s.clk with live := false, occupied := 0#32, splits := List.replicate 4 Split.empty }
  let s := s.warpLeft t
  let s := if again && s.rillLeft t.core t.ctx then s.startWarp t else s
  (s.freeDecisions t.core t.ctx).checkBlock t.core t.ctx

/-! ## Unrecoverable faults (16 R329, R330; 15 R304) -/

/-- Discards a block without a save: its engine commands are dropped; stores and atomics already issued complete. -/
def State.discard (s : State) (core ctx : Nat) : State :=
  let s := { s with cmds := s.cmds.filter fun c => !c.of core ctx }
  (s.vacate core ctx).leaveWeirs core ctx

/-- The eight words of a completion record (05 R104). -/
def Launch.record (l : Launch) (status : Nat) : List Word :=
  let cycles := match l.firstCycle with
    | some c => l.lastCycle - c
    | none => 0
  [l.w 13, w32 status, w32 l.detail, w32 l.relaunches, w32 cycles, w32 (cycles / 2 ^ 32), 0#32, 0#32]

/-- Advances a queue's read index over consecutive slots whose records are written (05 R105). -/
def State.consume (s : State) (fn q : Nat) : Nat → State
  | 0 => s
  | n + 1 =>
    let qu := Tab.get Queue.reset (s.fn fn).queues q
    if qu.read ≠ qu.fetched
        && !(s.launches.any fun e => qu.since ≤ e.1 && e.2.fn == fn && e.2.queue == q && e.2.index == qu.read && !e.2.posted) then
      (s.modFn fn fun f => { f with queues := Tab.set Queue.reset f.queues q { qu with read := qu.read + 1#32 } }).consume
        fn q n
    else s

/-- Every unsatisfied wait of a launch is owed a re-read, since a completion record has been posted (05 R93). -/
def State.oweReads (s : State) : State :=
  { s with launches := s.launches.map fun e =>
      (e.1, { e.2 with waits := e.2.waits.map fun w => if w.done then w else { w with owed := true } }) }

/-- Posts a completion record, words 1 to 7 before word 0 (05 R105), where its page translates for writing; a launch whose
packet could not be read names no record. Every unsatisfied wait is then read again (R93). -/
def State.writeRecord (s : State) (lid status : Nat) : State :=
  let l := s.launch lid
  let ws := l.record status
  let s := if l.packet.isEmpty then s else match s.translate l.fn l.recAddr 1 with
    | .ok leaf =>
      let s := s.recordUse l.fn l.recAddr leaf
      let s := s.sysWrite l.fn (l.recAddr + 4) ((ws.drop 1).flatMap bytesOf)
      s.sysWrite l.fn l.recAddr (bytesOf (ws.headD 0#32))
    | _ => s
  ((s.setLaunch lid { l with posted := true, status := some status }).consume l.fn l.queue 65536).oweReads

/-- A walk whose requester is gone writes nothing at its end, and leaves no sharer. -/
def Walk.without (w : Walk) (fn : Nat) : Walk :=
  if w.req.fn ≠ fn then w
  else { w with req := { w.req with kind := if w.req.kind = 2 then 1 else w.req.kind, bytes := if w.kind = 0 then [] else w.req.bytes } }

/-- A line of a domain that other functions share loses what one function has of it, unpublished (15 R304 step 3): the quads that hold it for
the function are unlinked, its requests go, and a line of which it was the owner, or nobody is left, is in its first state. What waited for an
owner that has gone is taken anew; data on its way home arrives. -/
def State.leaveLine (s : State) (fn die key : Nat) : State :=
  let mine := (s.quads.map (·.1)).filter fun q => s.qline q key ≠ QLine.empty && (s.qline q key).fn == fn
  let s := mine.foldl (fun (s : State) q =>
    let fwd := (s.qline q key).fwd
    ((s.unlink die key q).modDir die key fun d => { d with
      walk := d.walk.map fun (w : Walk) => if w.at_ = q then { w with at_ := fwd, done := fwd == 64 } else w }).modQLine q key fun x =>
        { x with fwd := 64, bwd := 64 }) s
  let wonSlot : Bool := (s.rangeOf fn (keyAddr key)).slot == 3
  s.modDir die key fun d =>
    let pend := d.pend.filter fun r => r.fn != fn
    let d := { d with pend := pend, queue := d.queue.filter (fun r => r.fn != fn), walk := d.walk.map (·.without fn) }
    if d.answer.isNone && d.owner.any mine.contains then
      { d with state := 0, owner := none, ask := 0, pend := none, pendDone := false, queue := pend.toList ++ d.queue }
    else if d.head.isNone && d.owner.isNone && d.walk.isNone && pend.isNone && !wonSlot then { d with state := 0 }
    else d

/-- A live object ends with its function (14 R278). In a domain that other functions share its lines go home: an owner's data is written, or
answers who waits for it; no copy is left, so that a walk has passed, and what was on its way to a quad is asked for again (log 74). -/
def State.leaveObject (s : State) (fn die : Nat) (o : ObjEntry) : State :=
  let key := s.keyOf fn o.lo
  let keys := (List.range ((o.hi + 1 - o.lo) / 128)).map (key + ·)
  let d := s.dirOf die key
  let owner := d.owner.getD 64
  let held (k : Nat) : List Host.Cell := (cellsAt (keyAddr k) (s.qline owner k).bytes).filter fun c =>
    (s.qline owner k).state = 2 && !(s.qline owner k).poison.getLsbD (c.1 % 128 / 32)
  let data := d.answer.getD [] ++ keys.flatMap held
  let asked := d.owner.isSome && d.pend.isSome
  let f := (s.qline owner key).fn
  let s := keys.foldl (fun (s : State) k => s.poisonHome f k (s.qline owner k).poison) s
  let s := if asked then s else s.homeWriteMapped f 8 data false
  let coming (g : Grant) : Bool := keys.contains g.key && (g.kind = 0 || g.kind = 1 || (g.kind = 2 && (s.qline g.quad g.key).want = 3))
  let s := (s.grants.filter coming).foldl (fun (s : State) g =>
    s.modQLine g.quad g.key fun x => { x with want := 0, locked := false }) s
  let s := keys.foldl (fun (s : State) k => s.dropCopies k) s
  let upg (r : Req) : Req := if r.kind = 2 then { r with kind := 1 } else r
  { s with grants := s.grants.filter fun g => !coming g }.modDir die key fun _ =>
    { d with
      head := none, owner := if asked then d.owner else none, ask := 0, answer := if asked then some data else none, frames := []
      pend := d.pend.map upg, walk := d.walk.map fun (w : Walk) => { w with at_ := 64, done := true, req := upg w.req }
      state := if asked || d.walk.isSome || (s.rangeOf fn o.lo).slot = 3 then d.state else 0 }

/-- Drops everything that caches and homes hold for a function (15 R304 step 3), in its own domain and in those that it shares. -/
def State.dropFunction (s : State) (fn : Nat) : State :=
  let s := s.dies.foldl (fun s e => (e.2.objs.filter fun o => o.live && o.fn == fn).foldl (fun s o => s.leaveObject fn e.1 o) s) s
  let s := s.dies.foldl (fun s e => (e.2.dir.filter fun d => d.1 / 2 ^ 50 < 256).foldl (fun s d => s.leaveLine fn e.1 d.1) s) s
  let own (key : Nat) : Bool := key / 2 ^ 50 == 256 + fn
  { s with
    grants := s.grants.filter fun g => !own g.key && (s.qline g.quad g.key).fn != fn,
    quads := s.quads.map fun e => (e.1, { e.2 with
      lines := e.2.lines.filter fun x => x.2.fn != fn, grants := e.2.grants.filter fun g => g.2 != fn,
      grantWant := e.2.grantWant.filter fun g => g.1 != fn }),
    dies := s.dies.map fun e => (e.1, { e.2 with
      dir := e.2.dir.filter fun x => !own x.1, leaves := e.2.leaves.filter fun l => l.fn != fn,
      faults := e.2.faults.filter fun x => x.fn != fn, verdicts := e.2.verdicts.filter fun x => x.fn != fn,
      buffer := e.2.buffer.filter fun x => x.fn != fn,
      token := e.2.token.filter (fun x => x.1 / 64 != fn), tokenQ := e.2.tokenQ.filter fun x => x.1 / 64 != fn,
      objs := e.2.objs.map fun o => if o.fn = fn && o.live then { o with live := false } else o }),
    cores := s.cores.map fun e => (e.1,
      if e.2.lastFn = some fn then { e.2 with l1 := [], icode := [], prefetch := [] } else e.2),
    pack := { s.pack with hostQ := s.pack.hostQ.filter fun q => q.fn != fn } }

/-- Fences a function (15 R304): queues stop with reason 0x04, blocks and their saved copies are discarded, the rows of commands that outlived their block are cleared (R286), what caches
and homes hold is dropped, records of status 0x08 are written, the fence vector is signalled. -/
def State.fence (s : State) (fn : Nat) : State :=
  if (s.fn fn).fenced then s
  else
    let s := s.modFn fn fun f => { f with queues := f.queues.map fun q =>
      (q.1, if q.2.enabled then { q.2 with enabled := false, stopped := true, reason := 4 } else q.2) }
    let s := (s.residents.filter fun p => (s.block p.1 p.2).fn == fn).foldl (fun s p => s.discard p.1 p.2) s
    let gone (x : StoreEntry) : Bool := x.global && x.fn == fn
    let saved : List Saved := s.saved.map fun v => if v.block.fn = fn then { v with present := false } else v
    let cores : Tab Core := s.cores.map fun e => (e.1, { e.2 with stores := e.2.stores.filter fun x => !gone x })
    let left := s.cmds.filter fun c => c.fn == fn && c.engine == 0
    let s := left.foldl (fun s c => match c.orphan with
      | some o => s.modQuad (quadOf c.core) fun q => q.clearRows o.claim.1 o.claim.2
      | none => s) s
    let s : State := { s with saved := saved, cores := cores, cmds := s.cmds.filter fun c => c.fn != fn }
    let still : List Nat := s.launches.filterMap fun e => if e.2.fn = fn && !e.2.posted then some e.1 else none
    let s : State := still.foldl (fun s l => s.modLaunch l fun x => { x with detail := 0, lastCycle := s.clk }) s
    let s : State := still.foldl (fun s l => s.writeRecord l 8) s
    let s := s.dropFunction fn
    (s.modFn fn fun f => { f with fenced := true }).emit (.fenceVector fn)

/-- The places of a block's work-group: the block, or its whole group or twin group (16 R329). -/
def State.workGroup (s : State) (core ctx : Nat) : List (Nat × Nat) :=
  let b := s.block core ctx
  let size := (s.launch b.lid).groupSize
  if b.grouped then s.residents.filter fun p =>
    let o := s.block p.1 p.2
    o.lid == b.lid && o.block / size == b.block / size
  else [(core, ctx)]

/-- Removes a block's net change to the extra counts (16 R330 step 2). -/
def State.undoExtra (s : State) (core ctx : Nat) : State :=
  let b := s.block core ctx
  s.modLaunch b.lid fun l =>
    { l with extra := Tab.set 0 l.extra core (((Tab.get 0 l.extra core : Nat) : Int) - b.netExtra).toNat }

/-- Discards the saved blocks of a group, and their net change to the extra counts (16 R330). -/
def State.dropSaved (s : State) (b : Block) (size : Nat) : State :=
  let mine (v : Saved) : Bool := v.present && b.grouped && v.block.lid == b.lid && v.block.block / size == b.block / size
  let s := (s.saved.filter mine).foldl (fun s v => s.modLaunch b.lid fun l =>
    { l with extra := Tab.set 0 l.extra v.core (((Tab.get 0 l.extra v.core : Nat) : Int) - v.block.netExtra).toNat }) s
  { s with saved := s.saved.map fun v => if mine v then { v with present := false } else v }

/-- Ends a block's work-group (16 R330): it is relaunched where the launch is idempotent and has relaunches left,
abandoned where it is idempotent, and its function is fenced otherwise. -/
def State.endWorkGroup (s : State) (core ctx : Nat) : State :=
  let b := s.block core ctx
  if !b.resident then s
  else
    let places := s.workGroup core ctx
    let l := s.launch b.lid
    let runs := places.map fun p => ((s.block p.1 p.2).block, (s.block p.1 p.2).runs ++ (s.block p.1 p.2).inherit)
    let first := (b.block / l.groupSize) * l.groupSize
    let s := places.foldl (fun s p => (s.undoExtra p.1 p.2).discard p.1 p.2) s
    let s := s.dropSaved b l.groupSize
    let l := s.launch b.lid
    if l.idempotent && l.relaunches < l.retry then
      s.setLaunch b.lid { l with relaunches := l.relaunches + 1, again := l.again ++ [{ block := first, runs := runs }] }
    else if l.idempotent then
      let low := runs.foldl (fun a r => min a r.1) b.block
      (s.setLaunch b.lid { l with failedBlock := some (match l.failedBlock with
        | some f => min f low
        | none => low) }).checkLaunch b.lid
    else s.fence b.fn

/-! ## Taking a trap (16 R315) -/

/-- The frame slot of a thread: %warp, or the block's warp count for its Sluice context (16 R315 step 5). -/
def Block.frameAddr (b : Block) (t : Tid) : Nat := b.tframe.toNat + (if t.isSluice then b.warps else t.slot) * 8192

/-- The frame slot of a thread of the block that stands in its context. -/
def State.frameAddr (s : State) (t : Tid) : Nat := (s.block t.core t.ctx).frameAddr t

/-- A write that becomes visible at the next cycle reaches a block (02 R25, 16 R311). -/
def Block.takeLate (b : Block) (w : LateWrite) : Block :=
  if w.reg < 32 then { b with k := b.k.set w.reg w.val, kBad := b.kBad.filter (· != w.reg) }
  else if w.reg = 0x130 then { b with tvec := w.val }
  else if w.reg = 0x134 then { b with tframe := w.val }
  else b

/-- The writes of a cycle in their order: where a warp's bundle and the Sluice's write the same register, the Sluice's value
stands (02 R25). -/
def lateOrder (ws : List LateWrite) : List LateWrite := ws.filter (!·.sluice) ++ ws.filter (·.sluice)

/-- A block as the next cycle finds it. -/
def Block.endCycle (b : Block) : Block :=
  if b.late.isEmpty then b else { (lateOrder b.late).foldl Block.takeLate b with late := [] }

/-- The lanes of a write of words into a trap frame: 256 bytes each. -/
def frameLanes (a : Nat) (ws : List Word) : List StoreLane :=
  (List.range ((ws.length + 63) / 64)).map fun i =>
    { lane := i, addr := a + 256 * i, cells := cellsAt (a + 256 * i) (((ws.drop (64 * i)).take 64).flatMap bytesOf) }

/-- The part writes words into a thread's trap frame at an address of its core's scratchpad, through the scratchpad store path (16 R315
step 5). -/
def State.frameStore (s : State) (t : Tid) (a : Nat) (ws : List Word) : State :=
  let e : StoreEntry :=
    { seq := (s.core t.core).seqNo, tid := t, split := 0, fn := (s.block t.core t.ctx).fn, global := false,
      lanes := frameLanes (t.core * 2 ^ 20 + a) ws, tseq := (s.thread t).seq, whole := [], hint := .normal, frame := true }
  (s.modCore t.core fun c => { c with stores := c.stores ++ [e], seqNo := c.seqNo + 1 }).modThread t fun th => { th with seq := th.seq + 1 }

/-- The registers of what a trap sets aside: result ports, and what the load queues delivered last. -/
def asideRegs : List Reg :=
  asidePorts.map Reg.res
    ++ ([ResPort.ls 0, .ls 1, .ls 2, .ls 3, .lg 0, .lg 1, .lg 2, .lg 3, .lw 0, .lw 1, .lw 2, .lw 3].map Reg.res)

/-- The ports that a trap sets aside, as they stand. -/
def Thread.asideNow (th : Thread) : Aside :=
  { ls := th.ls, lg := th.lg, lw := th.lw,
    ports := th.regs.filter fun e => asideRegs.any fun r => e.1 / 32 == r.id,
    tags := th.poison.filter fun e => asideRegs.any fun r => e.1 == r.id,
    awaits := th.awaits, faults := th.faults, fills := th.fills, owners := th.owners, from_ := th.seq,
    joins := th.joins, filled := th.filled, splits := th.splits, flights := flightsSorted th.flights, redo := th.redo }

/-- The thread as its handler finds it (16 R315 steps 4 and 7): set-aside ports as never triggered, one split. An acquire for which a split
waited is abandoned (06 R115). -/
def Thread.asHandler (th : Thread) (tvec : Word) (clk : Nat) : Thread :=
  { th with
    level := true, aside := some th.asideNow, ls := LoadQ.empty, lg := LoadQ.empty, lw := LoadQ.empty,
    regs := th.regs.filter fun e =>
      !(asideRegs.any fun r => e.1 / 32 == r.id) && !([Reg.age 0, .age 1, .age 2].any fun r => e.1 / 32 == r.id),
    poison := th.poison.filter fun e => !(asideRegs.any fun r => e.1 == r.id),
    awaits := [], faults := [], redo := [], fills := [], owners := [], filled := [], flights := [], acqs := th.acqs.filter (!·.stalls),
    splits := startSplit tvec th.occupied clk :: List.replicate 3 Split.empty,
    joins := List.replicate 8 JoinEntry.empty }

/-- The result and flags ports of a unit. -/
def unitPorts : Nat → ResPort × Option ResPort
  | 0 => (.a0q, some .a0f)
  | 1 => (.a1q, some .a1f)
  | 2 => (.f0q, some .f0f)
  | 3 => (.f1q, some .f1f)
  | 4 => (.sq, none)
  | 5 => (.vq, some .vf)
  | 6 => (.xq, none)
  | _ => (.xm, none)

/-- A result lands on its ports; the flags that it raises go into FSTAT (09 R170). -/
def Thread.land (th : Thread) (clk : Nat) (f : Flight) : Thread :=
  let (q, g) := unitPorts f.unit
  let th := (th.wrMask (.res q) f.mask (laneAt f.vals)).setTags (.res q) f.mask 0#32
  let th := match g with
    | some p => th.wrMask (.res p) f.mask fun l => (f.flags.getD l 0#4).zeroExtend 32
    | none => th
  { th with
    fstat := th.fstat ||| f.raised.zeroExtend 32,
    raisedNow := if th.raisedAt = clk then th.raisedNow ||| f.raised else f.raised, raisedAt := clk }

/-- Results of SM.q land in the cycle after their trigger, before any trap that follows (04 R87). -/
def Thread.landSm (th : Thread) : Thread :=
  let (sm, rest) := th.fills.partition fun f => f.port == .smq
  sm.foldl (fun th f => th.wrMask (.res .smq) f.mask (laneAt f.vals)) { th with fills := rest }

/-- The results that land by cycle `e` have landed. -/
def Thread.landBy (th : Thread) (e : Nat) : Thread :=
  let (now, later) := th.flights.partition fun f => f.due ≤ e
  now.foldl (fun th f => th.land e f) { th with flights := later }

/-- Takes a trap (16 R315): the frame is written through the store path, the trap CSRs are set, the handler begins at TVEC at handler
level. Unrecoverable at handler level, with TVEC 0, with a frame outside the block's region, or for cause 0x13. A
breakpoint or single step in debug mode stops the warp instead (16 R327). A frame that would hold a word that a soft error has struck
is unrecoverable too: its reader takes 0x13 (16 R331). The events that the frame's header holds are pending there. `e` is the cycle of trap entry: where it is the next one, TVEC
and TFRAME are what the present cycle has written to them (16 R311). -/
def State.enterTrap (s : State) (e : Nat) (t : Tid) (split : Nat) (r : TrapRec) : State :=
  let b := if s.clk < e then (s.block t.core t.ctx).endCycle else s.block t.core t.ctx
  let th := ((s.thread t).landSm).landBy e
  let c := s.core t.core
  if (r.cause = 0x0B || r.cause = 0x0C) && c.dbgctl.bit 2 then
    ((s.setThread t { th with dbgStop := true }).modCore t.core fun c =>
      { c with stopped := c.stopped || c.dbgctl.bit 1 }).emit (.signal t.core)
  else if th.level || b.tvec = 0#32 || b.scratchSize < b.frameAddr t + 8192 || r.cause = 0x13 || th.frameStruck then
    s.endWorkGroup t.core t.ctx
  else
    let flights := flightsSorted th.flights
    let tmask := (th.split split).mask
    let head : FrameHead := { tepc := r.tepc, tmask := tmask, cause := r.cause, split := split, tval := r.tval,
                              telem := r.telem }
    let ws := frameWords e t.isSluice th head flights
    let s := s.frameStore t (b.scratchBase + b.frameAddr t) ws
    let th := { ({ th with seq := th.seq + 1 } : Thread).asHandler b.tvec e with
      pending := th.pending.filter (!·.framed), tcause := w32 r.cause, tval := r.tval, telem := w32 r.telem, tepc := r.tepc, tmask := tmask }
    let s := s.setThread t th
    if t.isSluice then s.modBlock t.core t.ctx fun b => { b with pauseFrom := some e } else s

/-- A trap that strikes in the present cycle. Of one check the trap's own bundle takes no effect. -/
def State.takeTrap (s : State) (t : Tid) (split : Nat) (r : TrapRec) : State := s.enterTrap s.clk t split r

/-- The lowest-numbered live split (16 R315). -/
def Thread.firstSplit (th : Thread) : Nat := th.liveSplits.headD 0

/-- The priority of event traps that meet at one boundary (16 R324). -/
def trapRank (cause : Nat) : Nat :=
  match cause with
  | 0x0C => 0 | 0x0A => 1 | 0x07 => 2 | 0x08 => 2 | 0x13 => 2 | 0x02 => 2 | 0x11 => 3 | 0x16 => 4 | 0x0E => 5 | _ => 6

/-- Makes an event trap pending (16 R324): timers coalesce, an external event replaces an earlier one's value. -/
def Thread.pend (th : Thread) (p : PendingTrap) : Thread :=
  let rest := if p.cause = 0x0D || p.cause = 0x0E || p.cause = 0x11 then
      th.pending.filter fun q => q.cause != p.cause else th.pending
  { th with pending := rest ++ [p] }

/-- The pending trap to take first. -/
def Thread.nextPending (th : Thread) : Option PendingTrap :=
  th.pending.foldl (fun a p => match a with
    | some q => if trapRank p.cause < trapRank q.cause then some p else some q
    | none => some p) none

/-! ## Returning from a trap (16 R321) -/

/-- Puts the set-aside queues and ports back as they now stand. -/
def Thread.unaside (th : Thread) : Thread :=
  match th.aside with
  | none => th
  | some a =>
    let th := { th with ls := a.ls, lg := a.lg, lw := a.lw, awaits := a.awaits, faults := a.faults, redo := a.redo, fills := a.fills,
                        owners := a.owners, filled := a.filled, aside := none,
                        regs := th.regs.filter fun e => !(asideRegs.any fun r => e.1 / 32 == r.id),
                        poison := th.poison.filter fun e => !(asideRegs.any fun r => e.1 == r.id) }
    { th with regs := a.ports.foldl (fun m e => Tab.set 0#32 m e.1 e.2) th.regs,
              poison := a.tags.foldl (fun m e => Tab.set 0#32 m e.1 e.2) th.poison }

/-! ## A thread's own writes (11 R235) -/

/-- The scratch byte named by a core and an address. -/
def scratchName (p : Nat × Nat) : Nat := p.1 * 2 ^ 20 + p.2

/-- Two spans of bytes overlap. -/
def spansMeet (a n b m : Nat) : Bool := a < b + m && b < a + n

/-- An own store or atomic, earlier than `seq`, to some of the bytes has not been performed; an atomic counts until its answer has come,
which its update of the quad's own copy precedes (11 R235, 13 R256). -/
def State.ownWriteBefore (s : State) (t : Tid) (global : Bool) (seq a n : Nat) : Bool :=
  let c := s.core t.core
  c.stores.any (fun x => x.tid == t && x.global == global && x.tseq < seq
      && x.lanes.any fun l => l.cells.any fun c => a ≤ c.1 && c.1 < a + n)
    || c.atoms.any (fun x => x.tid == t && (x.kind != 0) == global && x.tseq < seq
      && x.lanes.any fun l => spansMeet l.addr 4 a n)
    || (!global && s.cores.any fun e => e.2.objq.any fun o =>
          o.tid == t && o.tseq < seq && spansMeet (scratchName (e.1, o.addr)) 16 a n)

/-- Bytes of a scratchpad as a thread's later accesses find them (11 R235): its own buffered stores over what the
scratchpad holds. -/
def State.ownScratch (s : State) (t : Tid) (core a n : Nat) : List Byte :=
  let x := scratchName (core, a)
  let mine := (s.core t.core).stores.filter fun x => x.tid == t && !x.global
  let cells := mine.flatMap fun e => e.lanes.flatMap fun l => l.cells.filter fun c => x ≤ c.1 && c.1 < x + n
  (List.range n).map fun i => cells.foldl (fun b c => if c.1 = x + i then c.2 else b) (s.scratchByte core (a + i))

/-- A word of a scratchpad is poisoned for its thread's later accesses: it is poisoned, and no buffered store of the thread writes it whole
(11 R226, R235). -/
def State.ownPoisoned (s : State) (t : Tid) (core a : Nat) : Bool :=
  Tab.get false (s.core core).scratchPoison (a / 4)
    && !((s.core t.core).stores.any fun e => e.tid == t && !e.global
          && e.lanes.any fun l => (wholeWords l.cells).contains (scratchName (core, a) / 4))

/-- Words of a scratchpad as a thread's later accesses find them, 32 at a time. -/
def State.ownWords (s : State) (t : Tid) (core a n : Nat) : List Word :=
  (List.range (n / 32)).flatMap fun i =>
    let bs := s.ownScratch t core (a + 128 * i) 128
    (List.range 32).map fun j => wordOf ((bs.drop (4 * j)).take 4)

/-- An event reaches a thread (16 R324): at handler level those that its frame can hold become pending in header words 6 and 7, a later
external event in place of an earlier one; the others wait in the thread. -/
def State.pendAt (s : State) (t : Tid) (p : PendingTrap) : State :=
  if (s.thread t).level && p.framed then
    let a := (s.block t.core t.ctx).scratchBase + s.frameAddr t + 24
    let w := wordOf (s.ownScratch t t.core a 4) ||| w32 (pendingBit p.cause)
    s.frameStore t a (w :: if p.cause = 0x0E then [p.tval] else [])
  else s.modThread t fun th => th.pend p

/-! ## Accesses that a handler has made good (11 R228) -/

/-- An access would not end in a fault of its translation now. -/
def State.madeGood (s : State) (fn access a n : Nat) : Bool :=
  !(s.fn fn).fenced && [a, a + n - 1].all fun x => match s.translate fn x access with
    | .ok _ => true
    | _ => false

/-- A lane's access as it was when it was triggered. -/
def LoadLane.again (x : LoadLane) : LoadLane :=
  { x with arrived := false, served := false, poison := false, cause := 0, vals := [], part := none }

/-- The global loads of a queue whose faults have been made good are made again; the others keep their fault. -/
def State.remakeLoads (s : State) (fn : Nat) (q : LoadQ) : LoadQ :=
  let lane (n : Nat) (x : LoadLane) : LoadLane := if x.arrived && x.cause ≠ 0 && s.madeGood fn 0 x.addr n then x.again else x
  { q with entries := q.entries.map fun e => { e with lanes := e.lanes.map (lane (widthBytes e.width)) } }

/-- The lane of AG.q is made to wait again for an atomic. -/
def Thread.reawait (th : Thread) (r : Redo) : Thread :=
  let k := ResPort.agq.code * 32 + r.lane
  { th.setAwaiting .agq (th.awaiting .agq ||| laneMask r.lane) with
    owners := Tab.set 0 th.owners k (r.tseq + 1), faults := Tab.erase th.faults k, redo := th.redo.erase r }

/-- An atomic made again, in the place that its trigger has in the thread's order. -/
def State.remakeAtom (s : State) (t : Tid) (rs : List Redo) : State :=
  match rs with
  | [] => s
  | r :: _ =>
    let lane (x : Redo) : AtomLane :=
      { lane := x.lane, addr := x.addr, a := x.a, c := x.c, stage := 0, old := 0#32, cause := 0, tries := 0, missed := true }
    let e : AtomEntry :=
      { seq := (s.core t.core).seqNo, tid := t, split := r.split, fn := (s.block t.core t.ctx).fn, kind := 1, op := r.op,
        scope := r.scope, lanes := rs.map lane, tseq := r.tseq }
    (s.modCore t.core fun c => { c with atoms := c.atoms ++ [e], seqNo := c.seqNo + 1 }).modThread t fun th => rs.foldl Thread.reawait th

/-- A thread that returns from a trap makes again what its handler has made good. -/
def State.remake (s : State) (t : Tid) : State :=
  let fn := (s.block t.core t.ctx).fn
  let s := if (s.thread t).lg.entries.any (fun e => e.lanes.any fun x => x.cause ≠ 0) then
      s.modThread t fun th => { th with lg := s.remakeLoads fn th.lg } else s
  let good := (s.thread t).redo.filter fun r => s.madeGood fn 2 r.addr 4
  ((good.map (·.tseq)).eraseDups).foldl (fun s n => s.remakeAtom t (good.filter fun r => r.tseq = n)) s

/-- Returns from a trap (16 R321): the frame is read back from scratch, or the work-group ends where it is malformed, or a soft error shows in
it (16 R331). What its header words 6 and 7 hold is pending again (R324). -/
def State.returnFromTrap (s : State) (t : Tid) : State :=
  let b := s.block t.core t.ctx
  let th := s.thread t
  let a := b.scratchBase + s.frameAddr t
  let ws := s.ownWords t t.core a 2048
  if b.scratchSize < s.frameAddr t + 8192 || (List.range 2048).any (fun i => s.ownPoisoned t t.core (a + 4 * i)) || !frameOk ws (if t.isSluice && b.running.isNone then 0#32 else th.occupied) t.isSluice then s.endWorkGroup t.core t.ctx
  else
    let th := ((frameRestore (s.clk + 1) ws t.isSluice th).unaside)
    let s := (s.setThread t { th with level := false, pending := th.pending ++ pendingOf ws }).remake t
    if t.isSluice then s.modBlock t.core t.ctx fun b =>
      { b with paused := b.paused + (match b.pauseFrom with
                 | some c => s.clk + 1 - c
                 | none => 0), pauseFrom := none }
    else s

end Sys2Proof.Machine
end

