-- ==== Sys2Proof/Machine/Fetch.lean ====
section
/-! DEFINITION. Fetching code (03 R33 to R39, 04 R63, 15 R364) and the checks that depend on code, repeat state and
latches alone (03 R61, R62 checks 1 to 5). -/

namespace Sys2Proof.Machine

/-- The virtual address of a code address of a thread's block (04 R63). -/
def State.codeAddr (s : State) (t : Tid) (a : Word) : Nat := (s.block t.core t.ctx).codeBase + a.toNat

/-- The key of the line that holds a code address. -/
def State.codeKey (s : State) (t : Tid) (a : Word) : Nat :=
  s.keyOf (s.block t.core t.ctx).fn (s.codeAddr t a)

/-- The line that holds a code address, where the core holds it and its page may be executed. -/
def State.codeLine (s : State) (t : Tid) (a : Word) : Option (List Word) :=
  match Tab.get [] (s.core t.core).icode (s.codeKey t a) with
  | [] => none
  | ws => if s.rightRefused (s.block t.core t.ctx).fn (s.codeAddr t a) 3 then none else some ws

/-- The number of the word of its line that a code address names. -/
def lineWord (a : Word) : Nat := a.toNat % 128 / 4

/-- A held line's bundle at a code address: its header and where it begins. -/
def headerAt (line : List Word) (a : Word) : Header := headerOf (line.getD (lineWord a) 0#32)

/-- Whether a code address names a marked target of its line (03 R35). -/
def markedTarget (line : List Word) (a : Word) : Bool :=
  a.toNat % 4 = 0 && 2 ≤ lineWord a && nbit (line.getD 1 0#32).toNat (lineWord a - 2)

/-- Whether a code address names the start of a bundle of its line. -/
def startsBundle (line : List Word) (a : Word) : Bool :=
  a.toNat % 4 = 0 && 2 ≤ lineWord a && nbit (line.getD 0 0#32).toNat (lineWord a - 2)

/-- The address of the bundle after one in sequence (03 R35): the next start of the line, or word 2 of the next line. -/
def nextBundle (line : List Word) (a : Word) : Word :=
  let n := a + w32 (4 * (headerAt line a).length)
  if n.toNat % 128 ≠ 0 && a.toNat / 128 = n.toNat / 128 && startsBundle line n then n
  else w32 ((a.toNat / 128 + 1) * 128 + 8)

/-- Checks 1 and 2 of R62, on entering a line (03 R36): the line's header, then the target. A transfer of control takes
effect with its own bundle, and its target is checked when the split comes to it: R36 says that the trap strikes before any move of the bundle
that the split would have executed first in the line, and check 2 of R62 comes before those of that bundle (DEDUCED; log 63). -/
def arriveTrap (line : List Word) (sp : Split) : Option TrapRec :=
  let pc := sp.pc
  let bad : Option TrapRec := match lineHeaderBad line with
    | some w => some { cause := 0x03, tval := w, telem := 0, tepc := pc }
    | none => none
  let target : TrapRec := { cause := 0x04, tval := pc, telem := 0, tepc := pc }
  match sp.arrive with
  | .fall =>
    if pc.toNat % 128 = 8 then
      match bad with
      | some r => some r
      | none => if nbit (line.getD 0 0#32).toNat 0 then none
                else some { cause := 0x03, tval := line.getD 0 0#32, telem := 0, tepc := pc }
    else none
  | .back => match bad with
    | some r => some r
    | none => if startsBundle line pc then none
              else some { cause := 0x03, tval := line.getD 0 0#32, telem := 0, tepc := pc }
  | .jump => match bad with
    | some r => some r
    | none => if markedTarget line pc then none else some target
  | .restored => match bad with
    | some r => some r
    | none => if startsBundle line pc then none else some target

/-- One slot of a bundle to issue: its number, its move word, whether the word stands in the bundle, and what its imm
sources yield (03 R40, R41). -/
structure Slot where
  num : Nat
  word : Word
  here : Bool
  imms : List Word
deriving DecidableEq, Repr

/-- The move words of a bundle, by slot: present ones from the line, repeated ones from the repeat state. -/
def slotsOf (line : List Word) (sp : Split) : List Slot :=
  let h := headerAt line sp.pc
  let at_ (i : Nat) : Word := line.getD (lineWord sp.pc + i) 0#32
  let imms := (List.range h.nimm).map fun j => at_ (1 + popcount h.present 6 + j)
  (List.range 6).filterMap fun i =>
    if nbit h.present i then
      some { num := i, word := at_ (1 + popcount h.present i), here := true, imms := imms }
    else if nbit h.repeats i then
      match sp.rep.getD i none with
      | some e =>
        let v := if nbit h.bumps i then e.imm + h.step else e.imm
        some { num := i, word := e.word, here := false, imms := List.replicate 6 v }
      | none => none
    else none

/-- Destination id, source id and opcode of a move word (03 R43). -/
def dstId (w : Word) : Nat := fld w.toNat 18 8
def srcId (w : Word) : Nat := fld w.toNat 9 9

/-- The trigger ports (03 R50), by destination id: the units of R53. -/
def triggerIds : List Nat :=
  [0x81, 0x83, 0x86, 0x89, 0x8A, 0x8C, 0x8E, 0x90, 0x91, 0x93, 0x94, 0x9A, 0xA1, 0xA4, 0xA8, 0xA9, 0xAC, 0xAF, 0xB2, 0xB4,
   0xB6, 0xB7, 0xBA, 0xBB, 0xBC, 0xBD]

/-- Some element stands twice in a list. -/
def hasTwice : List Nat → Bool
  | [] => false
  | x :: r => r.contains x || hasTwice r

/-- The source is one of imm0 to imm5. -/
def isImmWord (w : Word) : Bool := 0x0E3 ≤ srcId w && srcId w ≤ 0x0E8

/-- Check 3 of R62 (03 R39, R41, R53): the bundle header and the other bundle-wide checks. -/
def bundleBad (line : List Word) (sp : Split) : Bool :=
  let h := headerAt line sp.pc
  let slots := slotsOf line sp
  h.illegal (markedTarget line sp.pc)
    || (List.range 6).any (fun i => nbit h.repeats i && (sp.rep.getD i none).isNone)
    || (List.range 6).any (fun i => nbit h.bumps i && (sp.rep.getD i none).any fun e => !isImmWord e.word)
    || (h.repeats ≠ 0 && slots.any fun x => dstId x.word == 0x90 && fld x.word.toNat 0 7 == 2)
    || hasTwice ((slots.map fun x => dstId x.word).filter triggerIds.contains)

/-- Ports that are illegal in a kind of code (02 R16), by source and destination id. -/
def portIllegal (sluice : Bool) (w : Word) : Bool :=
  if sluice then (0x84 ≤ srcId w && srcId w ≤ 0x8C) || srcId w == 0xA1 || srcId w == 0xA2 || (0x84 ≤ dstId w && dstId w ≤ 0x8E)
  else srcId w == 0xA3 || srcId w == 0xA4 || dstId w == 0xB7 || (0xB9 ≤ dstId w && dstId w ≤ 0xBD)

/-- Check 4 of R62 for one slot (03 R51, R61): illegal move, then illegal opcode, with what depends on the thread. -/
def slotTrap (sluice : Bool) (nregs nimm : Nat) (sp : Split) (x : Slot) : Option Nat :=
  let w := x.word
  let limit := if sluice then 64 else nregs
  let g (n : Nat) := n < 128 && limit ≤ sp.rename n
  let bad := portIllegal sluice w || g (srcId w) || g (dstId w)
    || (x.here && isImmWord w && nimm ≤ srcId w - 0x0E3)
  match decodeMove w.toNat with
  | .error .illegalMove => some 0x01
  | .error .illegalOpcode => if bad then some 0x01 else some 0x02
  | .instr i =>
    if bad then some 0x01
    else match i with
      | .join _ _ | .exit _ | .rfl _ _ => if sluice then some 0x02 else none
      | _ => none

/-- Check 5 of R62 for one slot (03 R45): a stale latch read under a true guard. -/
def slotStale (th : Thread) (sp : Split) (x : Slot) : Option Word :=
  match guardOf (fld x.word.toNat 30 2) (fld x.word.toNat 26 4), srcOf (srcId x.word) with
  | some g, some (.lat n) =>
    if (lanesOf (guardMask th sp g)).any fun l => th.rd (.age n.val) l = 0#32 then some (w32 (x.num * 4 + n.val)) else none
  | _, _ => none

/-- A slot's guard reads a condition register that a soft error has struck (16 R331). -/
def slotStruck (th : Thread) (sp : Split) (x : Slot) : Bool :=
  match guardOf (fld x.word.toNat 30 2) (fld x.word.toNat 26 4) with
  | some (.flag _ cc) => th.struck (.cc cc.val) sp.mask
  | _ => false

/-- Checks 1 to 5 of R62 for a split at a held line, and whether its guards can be read. -/
def codeTrap (th : Thread) (sluice : Bool) (nregs : Nat) (line : List Word) (sp : Split) : Option TrapRec :=
  let before (cause : Nat) (tval : Word) : TrapRec := { cause := cause, tval := tval, telem := 0, tepc := sp.pc }
  match arriveTrap line sp with
  | some r => some r
  | none =>
    if bundleBad line sp then some (before 0x03 (line.getD (lineWord sp.pc) 0#32))
    else
      let slots := slotsOf line sp
      let nimm := (headerAt line sp.pc).nimm
      match slots.filterMap fun x => (slotTrap sluice nregs nimm sp x).map fun c => (c, x.word) with
      | (c, w) :: _ => some (before c w)
      | [] => match slots.filterMap (slotStale th sp) with
        | v :: _ => some (before 0x10 v)
        | [] => if slots.any (slotStruck th sp) then some (before 0x13 0#32) else none

/-- The general registers that a bundle reads, renamed and distinct (03 R54, 04 R74). A move counts whatever its guard: R54 speaks
of the registers that the bundle's moves read, and does not say whether one whose guard is false in every lane, which reads
nothing (01 R9), counts (DESIGN CHOICE; log 23). -/
def readsOf (slots : List Slot) (sp : Split) : List Nat :=
  ((slots.filter fun x => srcId x.word < 128).map fun x => sp.rename (srcId x.word)).eraseDups

/-- The cycles that register banks add to a warp bundle (03 R54). -/
def bankStall (slots : List Slot) (sp : Split) : Nat :=
  (List.range 4).foldl (fun a b => max a (((readsOf slots sp).filter fun n => n % 4 == b).length - 2)) 0

/-- The repeat state after a bundle (03 R40). -/
def repAfter (line : List Word) (sp : Split) : List (Option RepEntry) :=
  let slots := slotsOf line sp
  (List.range 6).map fun i =>
    match slots.find? fun x => x.num == i with
    | some x =>
      let imm := if x.here then (if isImmWord x.word then x.imms.getD (srcId x.word - 0x0E3) 0#32 else 0#32)
                 else x.imms.getD 0 0#32
      some { word := x.word, imm := imm }
    | none => none

/-! ## The body of a loop (04 R71) -/

/-- What the scan of a loop's body finds: the address of the closing LBACK, a line that is not held, or no body. -/
inductive BodyScan where
  | found (lback : Word)
  | need (a : Word)
  | none_
deriving DecidableEq, Repr

/-- The move word that each slot holds in a bundle, given what the slots held in the one before (03 R40). -/
def slotWords (line : List Word) (a : Word) (before : List (Option Word)) : List (Option Word) :=
  let h := headerAt line a
  (List.range 6).map fun i =>
    if nbit h.present i then some (line.getD (lineWord a + 1 + popcount h.present i) 0#32)
    else if nbit h.repeats i then before.getD i none else none

/-- A slot's word is a trigger of C.t with an opcode. -/
def controlOp (op : Nat) (w : Option Word) : Bool := w.any fun w => dstId w == 0x90 && fld w.toNat 0 7 == op

/-- Reads code from a bundle on, at most `n` bundles, up to the LBACK that closes the body; `depth` counts inner loops. The rule
names no check of the line headers on the way: a header that breaks R34 is left to the split that enters the line, and a
sequence that comes to no bundle start has no closing LBACK (DESIGN CHOICE; log 63). -/
def State.scanBody (s : State) (t : Tid) : Nat → Word → Nat → List (Option Word) → BodyScan
  | 0, _, _, _ => .none_
  | n + 1, a, depth, before =>
    match s.codeLine t a with
    | none => .need a
    | some line =>
      if !startsBundle line a then .none_
      else
        let ws := slotWords line a before
        let depth' := if ws.any (controlOp 5) then depth + 1 else depth
        if ws.any (controlOp 6) then
          if depth' = 0 then .found a else s.scanBody t n (nextBundle line a) (depth' - 1) ws
        else s.scanBody t n (nextBundle line a) depth' ws

/-- A fetch that a split made ahead of its bundle, of the line that holds a code address, ended in a fault: the cause and the line's
first word (04 R69, R71; 15 R364). -/
def Split.fetchFault (sp : Split) (a : Word) : Option (Nat × Word) :=
  match sp.fetch with
  | some (f, cause) => if a.toNat / 128 = f.toNat / 128 then some (cause, w32 (a.toNat / 128 * 128)) else none
  | none => none

/-- What a line shows of a code address as a target (03 R35, R36): the trap that it takes, its TEPC the target. -/
def targetTrap (line : List Word) (a : Word) : Option TrapRec :=
  arriveTrap line { Split.empty with pc := a, arrive := .jump }

/-- The addresses of a body's bundles, from its first to its LBACK. -/
def insideBody (l : LoopLevel) (a : Word) : Bool := l.body.toNat ≤ a.toNat && a.toNat ≤ l.lback.toNat

end Sys2Proof.Machine
end

