-- ==== Sys2Proof/Machine/Action.lean ====
section
/-! DEFINITION. What the meaning of a move is made of (log 7): whether it waits, its checks in the order of kinds of
03 R62, its effect, and what it leaves for the end of its bundle (03 R52). A move whose bundle is not being issued
changes nothing. -/

namespace Sys2Proof.Machine

/-- The parts of a move's meaning. -/
structure Action where
  /-- The bundle is held back (01 R9, 02 R22). -/
  waits : State → Bool
  /-- The code address whose line it waits for (04 R71). -/
  needs : State → Option Word
  /-- The global address that it waits to have translated (12 R248), with the origin of that request (15 R301). -/
  page : State → Option (Nat × Nat)
  /-- What it waits for missed the caches (05 R108). -/
  missed : State → Bool
  /-- What it takes of what the bundle's triggers share. -/
  takes : State → Takes
  /-- Check 0x14 (10 R194). -/
  lease : State → Option TrapRec
  /-- Check 0x15 of the unit (00 R2). -/
  absent : State → Option TrapRec
  /-- Check 0x06 (11 R229). -/
  poison : State → Option TrapRec
  /-- The instruction's own checks. -/
  own : State → Option TrapRec
  /-- The effect. -/
  effect : State → State
  /-- Latch capture and pop (03 R52 item 4). -/
  finish : State → State

/-- A move that does nothing. -/
def Action.idle : Action :=
  { waits := fun _ => false, needs := fun _ => none, page := fun _ => none,
    missed := fun _ => false, takes := fun _ => Takes.none_, lease := fun _ => none, absent := fun _ => none,
    poison := fun _ => none, own := fun _ => none, effect := id, finish := id }

/-- The check of one kind (03 R62 step 6). -/
def Action.check (a : Action) (kind : Nat) : State → Option TrapRec :=
  match kind with
  | 0 => a.lease
  | 1 => a.absent
  | 2 => a.poison
  | _ => a.own

/-- The first check that fails. -/
def Action.fails (a : Action) (s : State) : Option TrapRec :=
  match a.lease s with
  | some r => some r
  | none => match a.absent s with
    | some r => some r
    | none => match a.poison s with
      | some r => some r
      | none => a.own s

/-- Notes that the bundle is held back, and by what. -/
def Action.hold (a : Action) (s : State) : State :=
  { s with cur := { s.cur with wait := true, basin := s.cur.basin || a.missed s,
                               want := match s.cur.want with
                                 | some w => some w
                                 | none => a.needs s
                               page := match s.cur.page with
                                 | some p => some p
                                 | none => a.page s } }

/-- Takes of two moves. -/
def Takes.plus (a b : Takes) : Takes :=
  { flights := a.flights + b.flights, stores := a.stores + b.stores, atoms := a.atoms + b.atoms, cmds := a.cmds + b.cmds }

/-- Notes what the move takes: a later trigger of the bundle waits where too little is left. -/
def Action.note (a : Action) (s : State) : State :=
  { s with cur := { s.cur with takes := s.cur.takes.plus (a.takes s) } }

/-- The move holds its bundle back. -/
def Action.held (a : Action) (s : State) : Bool := a.waits s || (a.needs s).isSome || (a.page s).isSome

/-- The move by itself: it waits, traps, or takes effect whole. -/
def Action.whole (a : Action) (s : State) : State :=
  if a.held s then a.hold s
  else match a.fails s with
    | some r => s.takeTrap s.cur.tid s.cur.split r
    | none => a.finish (a.effect s)

/-- One phase of the move, as the bundle being issued asks for it. -/
def Action.run (a : Action) (s : State) : State :=
  if !s.cur.on then s
  else match s.cur.phase with
    | .whole => a.whole s
    | .waits => if a.held s then a.hold s else a.note s
    | .check k => match s.cur.trap with
      | some _ => s
      | none => { s with cur := { s.cur with trap := a.check k s } }
    | .effect => a.effect s
    | .finish => a.finish s

/-- The outcome of a move's meaning: always a next state. -/
def Action.outcome (a : Action) (s : State) : Host.Outcome State Fault Refusal := .next (a.run s)

/-! ## Traps of kind before (16 R309) -/

/-- A trap at the bundle being issued. -/
def State.before (s : State) (cause : Nat) (tval : Word) : TrapRec :=
  { cause := cause, tval := tval, telem := 0, tepc := s.cur.pc }

/-- A trap at the bundle with the move word as TVAL. -/
def State.trapWord (s : State) (cause : Nat) : TrapRec := s.before cause s.cur.word

/-- The trap of a fault that a source brings, in a lane that took part (11 R228, R234): TVAL is the low word of the
address. -/
def State.faultTrap (s : State) (x : Src) (m : Mask) : Option TrapRec :=
  (s.srcFault x m).map fun f => s.before f.1 (w32 f.2)

/-! ## Latches and pops (03 R45, R46, R47) -/

/-- Captures what a move delivers into the latch that its hold code names. -/
def State.capture (s : State) (h : Head) (m : Mask) (v : Nat → Word × Bool) : State :=
  if h.hold.val = 0 || m = 0#32 then s
  else
    let j := h.hold.val - 1
    s.modThread s.cur.tid fun th =>
      ((th.wrMask (.lat j) m fun l => (v l).1).wrMask (.age j) m fun _ => 2#32).setTags (.lat j) m
        (maskWhere fun l => (v l).2)

/-- Notes that the bundle pops a port in some lanes. Two moves of one bundle that pop DQ.q, or EV.q, consume one entry between them, as 11 R222 says of
a load port; 03 R46 speaks of each move's pop alone (DEDUCED; log 64). -/
def State.notePop (s : State) (x : Src) (m : Mask) : State :=
  match x with
  | .port p =>
    if p.variable && m ≠ 0#32 then
      { s with cur := { s.cur with
          pops := if s.cur.pops.contains p then s.cur.pops else s.cur.pops ++ [p],
          popMask := Tab.set 0#32 s.cur.popMask p.code (Tab.get 0#32 s.cur.popMask p.code ||| m) } }
    else s
  | _ => s

/-! ## Triggers -/

/-- What a trigger reads: operand ports, whether its trigger value, and whether only in the lowest lane (04 R64). -/
structure Reads where
  ops : List OpPort
  t : Bool
  wide : Bool
deriving DecidableEq, Repr

/-- The lanes of a mask that a trigger reads. -/
def Reads.lanes (r : Reads) (m : Mask) : Mask :=
  if r.wide then (match lowest m with
    | some l => laneMask l
    | none => 0#32) else m

/-- An operand that the trigger reads carries a poison tag (11 R229). -/
def Reads.tagged (r : Reads) (s : State) (h : Head) (m : Mask) : Bool :=
  let n := r.lanes m
  (r.t && (lanesOf n).any fun l => (s.srcRead h.src false l).2)
    || r.ops.any fun p => (s.self.tags (.op p) &&& (if OpPort.perWarp p then 1#32 else n)) ≠ 0#32

/-- A soft error has struck an operand port that the trigger reads (16 R331). -/
def Reads.struck (r : Reads) (s : State) (m : Mask) : Bool :=
  r.ops.any fun p => s.self.struck (.op p) (if OpPort.perWarp p then 1#32 else r.lanes m)

/-- What is wrong with an operand port that a trigger reads in some lanes apart from `Reads`: a poison tag, or a struck word. -/
def State.operBad (s : State) (p : OpPort) (m : Mask) : Option TrapRec :=
  if s.self.tags (.op p) &&& m ≠ 0#32 then some (s.trapWord 0x06)
  else if s.self.struck (.op p) m then some (s.before 0x13 0#32) else none

/-- A trigger: nothing happens where no active lane's guard is true (11 R219, 04 R64); else it waits for its source and
for its own reasons, checks the poison of what it reads, the faults of its source, and its own checks; its source is
popped where it is a variable-latency port (03 R47). -/
def Action.trigger (h : Head) (r : Reads) (a : Action) : Action :=
  { waits := fun s => s.guard h.guard ≠ 0#32 && (s.srcWaits h.src false (s.guard h.guard) || a.waits s)
    needs := fun s => if s.guard h.guard = 0#32 then none else a.needs s
    page := fun s => if s.guard h.guard = 0#32 then none else a.page s
    missed := fun s => s.srcMissed h.src (s.guard h.guard)
    takes := fun s => if s.guard h.guard = 0#32 then Takes.none_ else a.takes s
    lease := fun s => if s.guard h.guard = 0#32 then none else a.lease s
    absent := fun s => if s.guard h.guard = 0#32 then none else a.absent s
    poison := fun s =>
      if s.guard h.guard = 0#32 then none
      else if r.tagged s h (s.guard h.guard) then some (s.trapWord 0x06) else a.poison s
    own := fun s =>
      if s.guard h.guard = 0#32 then none
      else match s.faultTrap h.src (s.guard h.guard) with
        | some f => some f
        | none => if r.struck s (s.guard h.guard) then some (s.before 0x13 0#32) else a.own s
    effect := fun s => if s.guard h.guard = 0#32 then s else a.effect s
    finish := fun s =>
      (s.capture h (s.guard h.guard) (s.srcRead h.src false)).notePop h.src (s.guard h.guard) }

/-- The lowest lane in which a trigger's guard is true. -/
def State.leadLane (s : State) (h : Head) : Nat := (lowest (s.guard h.guard)).getD 0

/-- The value that a split-wide trigger takes (04 R64). -/
def State.lead (s : State) (h : Head) : Word := s.trig h (s.leadLane h)

/-- An operand that a split-wide trigger takes. -/
def State.leadOper (s : State) (h : Head) (p : OpPort) : Word := s.operAt p (s.leadLane h)

/-- The split that issues. -/
def State.selfSplit (s : State) : Split := s.self.split s.cur.split

/-- Changes the split that issues. -/
def State.modSelfSplit (s : State) (f : Split → Split) : State :=
  s.modThread s.cur.tid fun th => th.modSplit s.cur.split f

/-- The lanes of the issuing split at the start of its bundle. -/
def State.active (s : State) : Mask := (s.cur.image.split s.cur.split).mask

/-! ## Fixed-latency results (01 R7, 02 R22, 16 R316) -/

/-- How many in-flight records a thread's results take. -/
def Thread.records' (th : Thread) : Nat := th.flights.length

/-- A trigger that would pass four records in flight waits, those counted that earlier triggers of its bundle take (16 R316). -/
def State.flightsFull (s : State) (n : Nat) : Bool := 4 < s.self.records' + s.cur.takes.flights + n

/-- A trigger that takes records in flight. -/
def flying (n : Nat) (_ : State) : Takes := { Takes.none_ with flights := n }

/-- Starts a result on its way to its port. -/
def State.launchFlight (s : State) (unit : Nat) (m : Mask) (vals : Nat → Word) (flags : Nat → BitVec 4)
    (raised : BitVec 5) (lat : Nat) : State :=
  s.modThread s.cur.tid fun th =>
    { th with flights := th.flights ++ [{ unit := unit, mask := m, vals := lanes32 fun l => if m.getLsbD l then vals l else 0#32,
                                          flags := (List.range 32).map fun l => if m.getLsbD l then flags l else 0#4,
                                          raised := raised, due := s.clk + lat, split := s.cur.split }] }

/-- Makes a port await a result in some lanes and sends the result to arrive later (11 R232, 16 R310). -/
def State.sendFill (s : State) (p : ResPort) (m : Mask) (v : Nat → Word) (lat : Nat) : State :=
  s.modThread s.cur.tid fun th =>
    let th := th.setAwaiting p (th.awaiting p ||| m)
    { th with fills := th.fills ++ [{ port := p, mask := m, vals := lanes32 v, due := s.clk + lat, late := p ≠ .kq }] }

end Sys2Proof.Machine
end

