-- ==== Sys2Proof/Machine/Alu.lean ====
section
/-! DEFINITION. The ALU instructions (08 R149 to R157): what each operation gives in a lane, and the trigger that all
share. -/

namespace Sys2Proof.Machine

/-- What the ALU gives in one lane: result, C and V (08 R153). -/
structure AluOut where
  q : Word
  c : Bool
  v : Bool
deriving DecidableEq, Repr

/-- A result whose C and V are 0. -/
def plainOut (q : Word) : AluOut := { q := q, c := false, v := false }

/-- The exact signed value lies outside 32 bits. -/
def overflows (x : Int) : Bool := x < -2147483648 || 2147483647 < x

/-- `a + t + cin`, its carry out and its signed overflow. -/
def sumOut (a t : Word) (cin : Bool) : AluOut :=
  { q := w32 (a.toNat + t.toNat + cin.toNat), c := 2 ^ 32 ≤ a.toNat + t.toNat + cin.toNat,
    v := overflows (a.toInt + t.toInt + cin.toNat) }

/-- `a - t - (1 - cin)`: C is 1 when there is no borrow. -/
def diffOut (a t : Word) (cin : Bool) : AluOut :=
  { q := w32i (a.toInt - t.toInt - (!cin).toNat), c := t.toNat + (!cin).toNat ≤ a.toNat,
    v := overflows (a.toInt - t.toInt - (!cin).toNat) }

/-- The nearest signed 32-bit value. -/
def saturate (x : Int) : Word := w32i (max (-2147483648) (min 2147483647 x))

def opAdd (a t : Word) (_ : Bool) : AluOut := sumOut a t false
def opAdc (a t : Word) (cin : Bool) : AluOut := sumOut a t cin
def opSub (a t : Word) (_ : Bool) : AluOut := diffOut a t true
def opSbc (a t : Word) (cin : Bool) : AluOut := diffOut a t cin
def opRsb (a t : Word) (_ : Bool) : AluOut := diffOut t a true
def opAnd (a t : Word) (_ : Bool) : AluOut := plainOut (a &&& t)
def opOr (a t : Word) (_ : Bool) : AluOut := plainOut (a ||| t)
def opXor (a t : Word) (_ : Bool) : AluOut := plainOut (a ^^^ t)
def opAndn (a t : Word) (_ : Bool) : AluOut := plainOut (a &&& ~~~t)
def opOrn (a t : Word) (_ : Bool) : AluOut := plainOut (a ||| ~~~t)

/-- SHL (08 R154): the count is the whole word; C is the last bit shifted out. -/
def opShl (a t : Word) (_ : Bool) : AluOut :=
  { q := if 32 ≤ t.toNat then 0#32 else a <<< t.toNat, c := 1 ≤ t.toNat && t.toNat ≤ 32 && a.bit (32 - t.toNat), v := false }

def opShr (a t : Word) (_ : Bool) : AluOut :=
  { q := if 32 ≤ t.toNat then 0#32 else a >>> t.toNat, c := 1 ≤ t.toNat && t.toNat ≤ 32 && a.bit (t.toNat - 1), v := false }

def opSar (a t : Word) (_ : Bool) : AluOut :=
  { q := a.sshiftRight t.toNat, c := 1 ≤ t.toNat && a.bit (min (t.toNat - 1) 31), v := false }

/-- ROL and ROR (08 R154): the count is t[4:0]. -/
def opRol (a t : Word) (_ : Bool) : AluOut :=
  let q : Word := a.rotateLeft (t.bits 4 0)
  { q := q, c := t.bits 4 0 ≠ 0 && q.bit 0, v := false }

def opRor (a t : Word) (_ : Bool) : AluOut :=
  let q : Word := a.rotateRight (t.bits 4 0)
  { q := q, c := t.bits 4 0 ≠ 0 && q.bit 31, v := false }

def opMin (a t : Word) (_ : Bool) : AluOut := plainOut (if a.toInt ≤ t.toInt then a else t)
def opMax (a t : Word) (_ : Bool) : AluOut := plainOut (if t.toInt ≤ a.toInt then a else t)
def opMinn (a t : Word) (_ : Bool) : AluOut := plainOut (if a.toNat ≤ t.toNat then a else t)
def opMaxn (a t : Word) (_ : Bool) : AluOut := plainOut (if t.toNat ≤ a.toNat then a else t)
def opAbs (_ t : Word) (_ : Bool) : AluOut := plainOut (if t.bit 31 then -t else t)

/-- ADDV and SUBV (08 R153): signed saturation; C as of the wrapping sum or difference, V where saturated. -/
def opAddv (a t : Word) (_ : Bool) : AluOut := { sumOut a t false with q := saturate (a.toInt + t.toInt) }
def opSubv (a t : Word) (_ : Bool) : AluOut := { diffOut a t true with q := saturate (a.toInt - t.toInt) }

def opMul (a t : Word) (_ : Bool) : AluOut := plainOut (a * t)
def opMulh (a t : Word) (_ : Bool) : AluOut := plainOut (w32i (a.toInt * t.toInt / 2 ^ 32))
def opMulhn (a t : Word) (_ : Bool) : AluOut := plainOut (w32 (a.toNat * t.toNat / 2 ^ 32))

/-- The divides (08 R155): truncated toward zero, every case defined. -/
def opDiv (a t : Word) (_ : Bool) : AluOut :=
  plainOut (if t = 0#32 then 0xFFFFFFFF#32 else w32i (a.toInt.tdiv t.toInt))
def opRem (a t : Word) (_ : Bool) : AluOut := plainOut (if t = 0#32 then a else w32i (a.toInt.tmod t.toInt))
def opDivn (a t : Word) (_ : Bool) : AluOut := plainOut (if t = 0#32 then 0xFFFFFFFF#32 else w32 (a.toNat / t.toNat))
def opRemn (a t : Word) (_ : Bool) : AluOut := plainOut (if t = 0#32 then a else w32 (a.toNat % t.toNat))

def opAds1 (a t : Word) (_ : Bool) : AluOut := sumOut a (t <<< 1) false
def opAds2 (a t : Word) (_ : Bool) : AluOut := sumOut a (t <<< 2) false
def opAds3 (a t : Word) (_ : Bool) : AluOut := sumOut a (t <<< 3) false
def opAds4 (a t : Word) (_ : Bool) : AluOut := sumOut a (t <<< 4) false

/-- The width of the bit field that t names (08 R156), cut at bit 31. -/
def fieldWidth (t : Word) : Nat := min (min (t.bits 13 8) 32) (32 - t.bits 4 0)

/-- BFE and BFEN (08 R156). -/
def opBfe (a t : Word) (_ : Bool) : AluOut :=
  plainOut (if fieldWidth t = 0 then 0#32 else sextNat (fieldWidth t) (a.toNat / 2 ^ t.bits 4 0))
def opBfen (a t : Word) (_ : Bool) : AluOut := plainOut (w32 (a.toNat / 2 ^ t.bits 4 0 % 2 ^ fieldWidth t))

def opPopc (_ t : Word) (_ : Bool) : AluOut := plainOut (w32 ((List.range 32).filter t.bit).length)

/-- Leading and trailing zeros; 32 of 0. -/
def opClz (_ t : Word) (_ : Bool) : AluOut :=
  plainOut (w32 (((List.range 32).find? fun i => t.bit (31 - i)).getD 32))
def opCtz (_ t : Word) (_ : Bool) : AluOut := plainOut (w32 (((List.range 32).find? t.bit).getD 32))

def opBrev (_ t : Word) (_ : Bool) : AluOut := plainOut (maskWhere fun i => t.bit (31 - i))
def opBswp (_ t : Word) (_ : Bool) : AluOut := plainOut (wordOf (bytesOf t).reverse)
def opSxb (_ t : Word) (_ : Bool) : AluOut := plainOut (sextNat 8 t.toNat)
def opSxh (_ t : Word) (_ : Bool) : AluOut := plainOut (sextNat 16 t.toNat)
def opZxb (_ t : Word) (_ : Bool) : AluOut := plainOut (t &&& 0xFF#32)
def opZxh (_ t : Word) (_ : Bool) : AluOut := plainOut (t &&& 0xFFFF#32)
def opMova (a _ : Word) (_ : Bool) : AluOut := plainOut a

/-- The A unit's operand port, result ports and in-flight unit code. -/
def aluOperand (u : Fin 2) : OpPort := if u = 0 then .a0a else .a1a
def aluFlagsPort (u : Fin 2) : ResPort := if u = 0 then .a0f else .a1f

/-- The divider of some lane of `m` is busy (02 R22): a Sluice context has one of its own. It is asked at the start of the bundle, so that two
divides of one bundle in one lane, one of each ALU, issue in the same cycle and share the divider's 16 cycles: neither 02 R22 nor 08 R155 says
what becomes of such a bundle (DESIGN CHOICE; log 75). -/
def State.dividerBusy (s : State) (m : Mask) : Bool :=
  let c := s.selfCore
  if s.cur.tid.isSluice then s.clk < c.sluiceDiv.getD s.cur.tid.ctx 0
  else (lanesOf m).any fun l => s.clk < c.divFree.getD l 0

/-- A divide keeps the dividers of its lanes busy for 16 cycles. -/
def State.holdDividers (s : State) (m : Mask) : State :=
  let t := s.cur.tid
  s.modCore t.core fun c =>
    if t.isSluice then { c with sluiceDiv := c.sluiceDiv.set t.ctx (s.clk + 16) }
    else { c with divFree := (lanesOf m).foldl (fun d l => d.set l (s.clk + 16)) c.divFree }

/-- The carry-in of ADC and SBC (08 R152): the C flag of the unit's own .f port. -/
def State.carryIn (s : State) (u : Fin 2) (l : Nat) : Bool := (s.self.rd (.res (aluFlagsPort u)) l).bit 1

/-- What an ALU operation gives in a lane. -/
def State.aluLane (s : State) (h : Head) (u : Fin 2) (op : Word → Word → Bool → AluOut) (l : Nat) : AluOut :=
  op (s.oper (aluOperand u) l) (s.trig h l) (s.carryIn u l)

/-- The parts of an ALU instruction: which operands it reads, its latency, whether it takes the divider. Two divides of one bundle, on A0.t and
A1.t, in the same lane both issue (DESIGN CHOICE; log 75). -/
def aluAction (h : Head) (u : Fin 2) (readsA readsT : Bool) (lat : Nat) (divides : Bool)
    (op : Word → Word → Bool → AluOut) : Action :=
  Action.trigger h { ops := if readsA then [aluOperand u] else [], t := readsT, wide := false }
    { Action.idle with
      waits := fun s => s.flightsFull 1 || (divides && s.dividerBusy (s.guard h.guard))
      takes := flying 1
      effect := fun s =>
        let m := s.guard h.guard
        let s' := s.launchFlight u.val m (fun l => (s.aluLane h u op l).q)
          (fun l => let o := s.aluLane h u op l
                    aluFlags o.q o.c o.v) 0#5 lat
        if divides then s'.holdDividers m else s' }

/-- An instruction that adds the unit's carry reads the flags port as well: a struck flags word gives 0x13 (16 R331). -/
def Action.carrying (a : Action) (h : Head) (u : Fin 2) : Action :=
  { a with own := fun s => match a.own s with
    | some r => some r
    | none => if s.self.struck (.res (aluFlagsPort u)) (s.guard h.guard) then some (s.before 0x13 0#32) else none }

/-- ADD (08 R153). -/
def execAdd (h : Head) (u : Fin 2) (s : State) : Host.Outcome State Fault Refusal :=
  (aluAction h u true true 1 false opAdd).outcome s

/-- ADC (08 R153). -/
def execAdc (h : Head) (u : Fin 2) (s : State) : Host.Outcome State Fault Refusal :=
  ((aluAction h u true true 1 false opAdc).carrying h u).outcome s

/-- SUB (08 R153). -/
def execSub (h : Head) (u : Fin 2) (s : State) : Host.Outcome State Fault Refusal :=
  (aluAction h u true true 1 false opSub).outcome s

/-- SBC (08 R153). -/
def execSbc (h : Head) (u : Fin 2) (s : State) : Host.Outcome State Fault Refusal :=
  ((aluAction h u true true 1 false opSbc).carrying h u).outcome s

/-- RSB (08 R153). -/
def execRsb (h : Head) (u : Fin 2) (s : State) : Host.Outcome State Fault Refusal :=
  (aluAction h u true true 1 false opRsb).outcome s

/-- AND (08 R153). -/
def execAnd (h : Head) (u : Fin 2) (s : State) : Host.Outcome State Fault Refusal :=
  (aluAction h u true true 1 false opAnd).outcome s

/-- OR (08 R153). -/
def execOr (h : Head) (u : Fin 2) (s : State) : Host.Outcome State Fault Refusal :=
  (aluAction h u true true 1 false opOr).outcome s

/-- XOR (08 R153). -/
def execXor (h : Head) (u : Fin 2) (s : State) : Host.Outcome State Fault Refusal :=
  (aluAction h u true true 1 false opXor).outcome s

/-- ANDN (08 R153). -/
def execAndn (h : Head) (u : Fin 2) (s : State) : Host.Outcome State Fault Refusal :=
  (aluAction h u true true 1 false opAndn).outcome s

/-- ORN (08 R153). -/
def execOrn (h : Head) (u : Fin 2) (s : State) : Host.Outcome State Fault Refusal :=
  (aluAction h u true true 1 false opOrn).outcome s

/-- SHL (08 R154). -/
def execShl (h : Head) (u : Fin 2) (s : State) : Host.Outcome State Fault Refusal :=
  (aluAction h u true true 1 false opShl).outcome s

/-- SHR (08 R154). -/
def execShr (h : Head) (u : Fin 2) (s : State) : Host.Outcome State Fault Refusal :=
  (aluAction h u true true 1 false opShr).outcome s

/-- SAR (08 R154). -/
def execSar (h : Head) (u : Fin 2) (s : State) : Host.Outcome State Fault Refusal :=
  (aluAction h u true true 1 false opSar).outcome s

/-- ROL (08 R154). -/
def execRol (h : Head) (u : Fin 2) (s : State) : Host.Outcome State Fault Refusal :=
  (aluAction h u true true 1 false opRol).outcome s

/-- ROR (08 R154). -/
def execRor (h : Head) (u : Fin 2) (s : State) : Host.Outcome State Fault Refusal :=
  (aluAction h u true true 1 false opRor).outcome s

/-- MIN (08 R153). -/
def execMin (h : Head) (u : Fin 2) (s : State) : Host.Outcome State Fault Refusal :=
  (aluAction h u true true 1 false opMin).outcome s

/-- MAX (08 R153). -/
def execMax (h : Head) (u : Fin 2) (s : State) : Host.Outcome State Fault Refusal :=
  (aluAction h u true true 1 false opMax).outcome s

/-- MINN (08 R153). -/
def execMinn (h : Head) (u : Fin 2) (s : State) : Host.Outcome State Fault Refusal :=
  (aluAction h u true true 1 false opMinn).outcome s

/-- MAXN (08 R153). -/
def execMaxn (h : Head) (u : Fin 2) (s : State) : Host.Outcome State Fault Refusal :=
  (aluAction h u true true 1 false opMaxn).outcome s

/-- ABS (08 R153). -/
def execAbs (h : Head) (u : Fin 2) (s : State) : Host.Outcome State Fault Refusal :=
  (aluAction h u false true 1 false opAbs).outcome s

/-- ADDV (08 R153). -/
def execAddv (h : Head) (u : Fin 2) (s : State) : Host.Outcome State Fault Refusal :=
  (aluAction h u true true 1 false opAddv).outcome s

/-- SUBV (08 R153). -/
def execSubv (h : Head) (u : Fin 2) (s : State) : Host.Outcome State Fault Refusal :=
  (aluAction h u true true 1 false opSubv).outcome s

/-- MUL (08 R153). -/
def execMul (h : Head) (u : Fin 2) (s : State) : Host.Outcome State Fault Refusal :=
  (aluAction h u true true 3 false opMul).outcome s

/-- MULH (08 R153). -/
def execMulh (h : Head) (u : Fin 2) (s : State) : Host.Outcome State Fault Refusal :=
  (aluAction h u true true 3 false opMulh).outcome s

/-- MULHN (08 R153). -/
def execMulhn (h : Head) (u : Fin 2) (s : State) : Host.Outcome State Fault Refusal :=
  (aluAction h u true true 3 false opMulhn).outcome s

/-- DIV (08 R155). -/
def execDiv (h : Head) (u : Fin 2) (s : State) : Host.Outcome State Fault Refusal :=
  (aluAction h u true true 16 true opDiv).outcome s

/-- REM (08 R155). -/
def execRem (h : Head) (u : Fin 2) (s : State) : Host.Outcome State Fault Refusal :=
  (aluAction h u true true 16 true opRem).outcome s

/-- DIVN (08 R155). -/
def execDivn (h : Head) (u : Fin 2) (s : State) : Host.Outcome State Fault Refusal :=
  (aluAction h u true true 16 true opDivn).outcome s

/-- REMN (08 R155). -/
def execRemn (h : Head) (u : Fin 2) (s : State) : Host.Outcome State Fault Refusal :=
  (aluAction h u true true 16 true opRemn).outcome s

/-- ADS1 (08 R153). -/
def execAds1 (h : Head) (u : Fin 2) (s : State) : Host.Outcome State Fault Refusal :=
  (aluAction h u true true 1 false opAds1).outcome s

/-- ADS2 (08 R153). -/
def execAds2 (h : Head) (u : Fin 2) (s : State) : Host.Outcome State Fault Refusal :=
  (aluAction h u true true 1 false opAds2).outcome s

/-- ADS3 (08 R153). -/
def execAds3 (h : Head) (u : Fin 2) (s : State) : Host.Outcome State Fault Refusal :=
  (aluAction h u true true 1 false opAds3).outcome s

/-- ADS4 (08 R153). -/
def execAds4 (h : Head) (u : Fin 2) (s : State) : Host.Outcome State Fault Refusal :=
  (aluAction h u true true 1 false opAds4).outcome s

/-- BFE (08 R156). -/
def execBfe (h : Head) (u : Fin 2) (s : State) : Host.Outcome State Fault Refusal :=
  (aluAction h u true true 1 false opBfe).outcome s

/-- BFEN (08 R156). -/
def execBfen (h : Head) (u : Fin 2) (s : State) : Host.Outcome State Fault Refusal :=
  (aluAction h u true true 1 false opBfen).outcome s

/-- POPC (08 R153). -/
def execPopc (h : Head) (u : Fin 2) (s : State) : Host.Outcome State Fault Refusal :=
  (aluAction h u false true 1 false opPopc).outcome s

/-- CLZ (08 R153). -/
def execClz (h : Head) (u : Fin 2) (s : State) : Host.Outcome State Fault Refusal :=
  (aluAction h u false true 1 false opClz).outcome s

/-- CTZ (08 R153). -/
def execCtz (h : Head) (u : Fin 2) (s : State) : Host.Outcome State Fault Refusal :=
  (aluAction h u false true 1 false opCtz).outcome s

/-- BREV (08 R153). -/
def execBrev (h : Head) (u : Fin 2) (s : State) : Host.Outcome State Fault Refusal :=
  (aluAction h u false true 1 false opBrev).outcome s

/-- BSWP (08 R153). -/
def execBswp (h : Head) (u : Fin 2) (s : State) : Host.Outcome State Fault Refusal :=
  (aluAction h u false true 1 false opBswp).outcome s

/-- SXB (08 R153). -/
def execSxb (h : Head) (u : Fin 2) (s : State) : Host.Outcome State Fault Refusal :=
  (aluAction h u false true 1 false opSxb).outcome s

/-- SXH (08 R153). -/
def execSxh (h : Head) (u : Fin 2) (s : State) : Host.Outcome State Fault Refusal :=
  (aluAction h u false true 1 false opSxh).outcome s

/-- ZXB (08 R153). -/
def execZxb (h : Head) (u : Fin 2) (s : State) : Host.Outcome State Fault Refusal :=
  (aluAction h u false true 1 false opZxb).outcome s

/-- ZXH (08 R153). -/
def execZxh (h : Head) (u : Fin 2) (s : State) : Host.Outcome State Fault Refusal :=
  (aluAction h u false true 1 false opZxh).outcome s

/-- MOVA (08 R153). -/
def execMova (h : Head) (u : Fin 2) (s : State) : Host.Outcome State Fault Refusal :=
  (aluAction h u true false 1 false opMova).outcome s

end Sys2Proof.Machine
end

