-- ==== Sys2Proof/Machine/Float.lean ====
section
/-! DEFINITION. Floating point (09 R165 to R177): values are exact, and each operation rounds once. -/

namespace Sys2Proof.Machine

/-- A floating format (09 R165): exponent and fraction bits. -/
structure Fmt where
  ebits : Nat
  fbits : Nat
deriving DecidableEq, Repr

def fp32 : Fmt := { ebits := 8, fbits := 23 }
def fp16 : Fmt := { ebits := 5, fbits := 10 }
def bf16 : Fmt := { ebits := 8, fbits := 7 }

/-- The width of a format in bits. -/
def Fmt.width (f : Fmt) : Nat := 1 + f.ebits + f.fbits

/-- The exponent of the smallest normal. -/
def Fmt.emin (f : Fmt) : Int := 2 - 2 ^ (f.ebits - 1)

/-- The bits of +infinity. -/
def Fmt.infBits (f : Fmt) : Nat := (2 ^ f.ebits - 1) * 2 ^ f.fbits

/-- The canonical quiet NaN (09 R166). -/
def Fmt.nanBits (f : Fmt) : Nat := f.infBits + 2 ^ (f.fbits - 1)

/-- The sign bit. -/
def Fmt.signBit (f : Fmt) (neg : Bool) : Nat := if neg then 2 ^ (f.ebits + f.fbits) else 0

/-- A value: a NaN, signalling or quiet; an infinity; or the exact number `m * 2^e` with a sign, a zero where `m` is
0. -/
inductive FVal where
  | nan (signalling : Bool)
  | inf (neg : Bool)
  | num (neg : Bool) (m : Nat) (e : Int)
deriving DecidableEq, Repr

/-- The value of a pattern (09 R165). -/
def Fmt.unpack (f : Fmt) (x : Nat) : FVal :=
  let neg := x / 2 ^ (f.ebits + f.fbits) % 2 == 1
  let ex := x / 2 ^ f.fbits % 2 ^ f.ebits
  let fr := x % 2 ^ f.fbits
  if ex = 2 ^ f.ebits - 1 then
    if fr = 0 then .inf neg else .nan (fr < 2 ^ (f.fbits - 1))
  else if ex = 0 then .num neg fr (f.emin - f.fbits)
  else .num neg (2 ^ f.fbits + fr) (f.emin - f.fbits + (ex - 1 : Nat))

/-- A rounded result: its pattern and the flags it raised. -/
structure Rounded where
  bits : Nat
  raised : BitVec 5
deriving DecidableEq, Repr

/-- Whether a magnitude with quotient `q` and remainder `r` of `2^sh` rounds up (09 R167). -/
def roundsUp (rm : Rm) (neg : Bool) (q r half : Nat) : Bool :=
  match rm with
  | .rn => r > half || (r == half && q % 2 == 1)
  | .rz => false
  | .ru => !neg && r != 0
  | .rd => neg && r != 0

/-- Rounds `m * 2^e` to a multiple of `2^q`: the multiple and whether it is inexact. -/
def roundAt (rm : Rm) (neg : Bool) (m : Nat) (e q : Int) : Nat × Bool :=
  if q ≤ e then (m * 2 ^ (e - q).toNat, false)
  else
    let sh := (q - e).toNat
    let quo := m / 2 ^ sh
    let rem := m % 2 ^ sh
    (if roundsUp rm neg quo rem (2 ^ (sh - 1)) then quo + 1 else quo, rem != 0)

/-- Rounds the non-zero number `m * 2^e` once to a format (09 R167, R168). -/
def Fmt.roundNum (f : Fmt) (rm : Rm) (neg : Bool) (m : Nat) (e : Int) : Rounded :=
  let top : Int := e + Nat.log2 m
  let lowest := f.emin - f.fbits
  let q := max (top - f.fbits) lowest
  let (mag, inexact) := roundAt rm neg m e q
  let bits := (q - lowest).toNat * 2 ^ f.fbits + mag
  if f.infBits ≤ bits then
    let toInf := match rm with
      | .rn => true
      | .rz => false
      | .ru => !neg
      | .rd => neg
    { bits := f.signBit neg + (if toInf then f.infBits else f.infBits - 1), raised := flagOf ||| flagNx }
  else
    let tiny := if f.emin ≤ top then false
      else (roundAt rm neg m e (top - f.fbits)).1 < 2 ^ (f.emin - (top - f.fbits)).toNat
    { bits := f.signBit neg + bits,
      raised := (if inexact then flagNx else 0#5) ||| (if tiny && inexact then flagUf else 0#5) }

/-- The canonical NaN, raising IV or nothing. -/
def Fmt.nan (f : Fmt) (iv : Bool) : Rounded := { bits := f.nanBits, raised := if iv then flagIv else 0#5 }

/-- The negation of a value. -/
def FVal.neg : FVal → FVal
  | .nan s => .nan s
  | .inf n => .inf (!n)
  | .num n m e => .num (!n) m e

/-- Whether a value is a signalling NaN. -/
def FVal.snan : FVal → Bool
  | .nan s => s
  | _ => false

/-- Whether a value is a NaN. -/
def FVal.isNan : FVal → Bool
  | .nan _ => true
  | _ => false

/-- The exact product of two values, and whether it raises IV: 0 x infinity, or a signalling NaN (09 R168). -/
def FVal.mul : FVal → FVal → FVal × Bool
  | .nan a, .nan b => (.nan false, a || b)
  | .nan a, _ => (.nan false, a)
  | _, .nan b => (.nan false, b)
  | .inf a, .inf b => (.inf (a != b), false)
  | .inf a, .num b m _ => if m = 0 then (.nan false, true) else (.inf (a != b), false)
  | .num a m _, .inf b => if m = 0 then (.nan false, true) else (.inf (a != b), false)
  | .num a m e, .num b n g => (.num (a != b) (m * n) (e + g), false)

/-- The signed integer of a number scaled to exponent `lo`. -/
def FVal.scaled (lo : Int) : FVal → Int
  | .num n m e => (if n then -1 else 1) * (m * 2 ^ (e - lo).toNat : Nat)
  | _ => 0

/-- The exponent of a number; `d` for anything else. -/
def FVal.expo (d : Int) : FVal → Int
  | .num _ _ e => e
  | _ => d

/-- The sign of a term. -/
def FVal.sign : FVal → Bool
  | .inf n => n
  | .num n _ _ => n
  | .nan _ => false

/-- The exact sum of terms, rounded once (09 R167 to R169). `iv` says that forming a term raised IV. -/
def Fmt.sum (f : Fmt) (rm : Rm) (terms : List FVal) (iv : Bool) : Rounded :=
  let iv := iv || terms.any FVal.snan
  if terms.any FVal.isNan then f.nan iv
  else
    let infs := terms.filter fun t => match t with
      | .inf _ => true
      | _ => false
    match infs with
    | i :: rest =>
      if rest.any fun j => j.sign != i.sign then f.nan true
      else { bits := f.signBit i.sign + f.infBits, raised := if iv then flagIv else 0#5 }
    | [] =>
      let lo := terms.foldl (fun a t => min a (t.expo a)) 0
      let total := terms.foldl (fun a t => a + t.scaled lo) 0
      if total = 0 then
        let allZero := terms.all fun t => match t with
          | .num _ m _ => m == 0
          | _ => false
        let s0 := (terms.headD (.num false 0 0)).sign
        let neg := if allZero && terms.all (fun t => t.sign == s0) then s0 else rm == .rd
        { bits := f.signBit neg, raised := 0#5 }
      else f.roundNum rm (total < 0) total.natAbs lo

/-- A product alone, rounded (FMUL and its kin): a zero takes the XOR of the signs (09 R169). -/
def Fmt.prod (f : Fmt) (rm : Rm) (a b : FVal) : Rounded :=
  match a.mul b with
  | (.nan _, iv) => f.nan iv
  | (.inf n, _) => { bits := f.signBit n + f.infBits, raised := 0#5 }
  | (.num n m e, _) => if m = 0 then { bits := f.signBit n, raised := 0#5 } else f.roundNum rm n m e

/-- `a * b + c`, fused (09 R174), with the product negated where `negP` and the addend where `negC`. -/
def Fmt.fma (f : Fmt) (rm : Rm) (a b c : Nat) (negP negC : Bool) : Rounded :=
  let (p, iv) := (f.unpack a).mul (f.unpack b)
  let t := f.unpack c
  f.sum rm [if negP then p.neg else p, if negC then t.neg else t] iv

/-- `a + b` or `a - b` (09 R174). -/
def Fmt.add (f : Fmt) (rm : Rm) (a b : Nat) (sub : Bool) : Rounded :=
  let y := f.unpack b
  f.sum rm [f.unpack a, if sub then y.neg else y] false

/-- `a * b` (09 R174). -/
def Fmt.mul (f : Fmt) (rm : Rm) (a b : Nat) : Rounded := f.prod rm (f.unpack a) (f.unpack b)

/-- Rounds to an integral value, kept in the format (09 R174 FRND). -/
def Fmt.rnd (f : Fmt) (rm : Rm) (a : Nat) : Rounded :=
  match f.unpack a with
  | .nan s => f.nan s
  | .inf n => { bits := f.signBit n + f.infBits, raised := 0#5 }
  | .num n m e =>
    let (mag, inexact) := roundAt rm n m e 0
    let flag := if inexact then flagNx else 0#5
    if mag = 0 then { bits := f.signBit n, raised := flag }
    else if 0 ≤ e then { bits := a, raised := 0#5 }
    else { bits := (f.roundNum .rn n mag 0).bits, raised := flag }

/-- `a * 2^t` for a signed word t (09 R174 FSCL); beyond 600 either way the exact t makes no difference. -/
def Fmt.scl (f : Fmt) (rm : Rm) (a : Nat) (t : Int) : Rounded :=
  match f.unpack a with
  | .nan s => f.nan s
  | .inf n => { bits := f.signBit n + f.infBits, raised := 0#5 }
  | .num n m e => if m = 0 then { bits := f.signBit n, raised := 0#5 } else f.roundNum rm n m (e + max (-600) (min 600 t))

/-- An ordering number of a non-NaN pattern, with -0 below +0. -/
def Fmt.order (f : Fmt) (a : Nat) : Int :=
  let mag := a % 2 ^ (f.ebits + f.fbits)
  if a / 2 ^ (f.ebits + f.fbits) % 2 = 1 then -(mag : Int) - 1 else mag

/-- FMIN or FMAX (09 R175). -/
def Fmt.minmax (f : Fmt) (greater : Bool) (a t : Nat) : Rounded :=
  let x := f.unpack a
  let y := f.unpack t
  let flag := if x.snan || y.snan then flagIv else 0#5
  if x.isNan && y.isNan then { bits := f.nanBits, raised := flag }
  else if x.isNan then { bits := t, raised := flag }
  else if y.isNan then { bits := a, raised := flag }
  else { bits := if (f.order a < f.order t) != greater then a else t, raised := flag }

/-- The relation of a to t (09 R175 FCMP): -0 and +0 compare equal. -/
def Fmt.relation (f : Fmt) (a t : Nat) : Relation :=
  let x := f.unpack a
  let y := f.unpack t
  if x.isNan || y.isNan then .unordered
  else
    let key (n : Nat) : Int :=
      let mag : Int := (n % 2 ^ (f.ebits + f.fbits) : Nat)
      if n / 2 ^ (f.ebits + f.fbits) % 2 = 1 then -mag else mag
    if key a < key t then .less else if key a = key t then .equal else .greater

/-- The dot form `t + a.lo * b.lo + a.hi * b.hi` with halves of format `h`, rounded to fp32 (09 R177). -/
def dot2 (h : Fmt) (rm : Rm) (a b t : Word) : Rounded :=
  let lo (w : Word) := h.unpack (w.toNat % 65536)
  let hi (w : Word) := h.unpack (w.toNat / 65536)
  let (p, iv) := (lo a).mul (lo b)
  let (q, jv) := (hi a).mul (hi b)
  fp32.sum rm [fp32.unpack t.toNat, p, q] (iv || jv)

/-- Whether a pattern is a zero, or a NaN. -/
def Fmt.isZero (f : Fmt) (x : Nat) : Bool := x % 2 ^ (f.ebits + f.fbits) == 0
def Fmt.isNanBits (f : Fmt) (x : Nat) : Bool := (f.unpack x).isNan

/-- What a function unit gives in one lane: result, flags, raised sticky flags. -/
structure UnitOut where
  q : Word
  fl : BitVec 4
  raised : BitVec 5
deriving DecidableEq, Repr

/-- An fp32 result of F with its flags (09 R171). -/
def scalarOut (r : Rounded) : UnitOut :=
  let q := w32 r.bits
  { q := q, fl := packFlags (q.getLsbD 31) (fp32.isZero r.bits) false (fp32.isNanBits r.bits), raised := r.raised }

/-- A packed result of F with its flags (09 R171, R176). -/
def packedOut (f : Fmt) (lo hi : Rounded) : UnitOut :=
  let q := w32 (lo.bits + 65536 * hi.bits)
  { q := q, fl := packFlags (q.getLsbD 31) (f.isZero lo.bits && f.isZero hi.bits) false
                    (f.isNanBits lo.bits || f.isNanBits hi.bits),
    raised := lo.raised ||| hi.raised }

/-- Applies an operation to both halves (09 R176). -/
def packed (f : Fmt) (op : Nat → Nat → Nat → Rounded) (a b t : Word) : UnitOut :=
  packedOut f (op (a.toNat % 65536) (b.toNat % 65536) (t.toNat % 65536))
    (op (a.toNat / 65536) (b.toNat / 65536) (t.toNat / 65536))

/-- `m * 2^e` with a sticky bit below it: a number that lies strictly between two neighbours of its last bit. -/
def Fmt.roundSticky (f : Fmt) (rm : Rm) (neg : Bool) (m : Nat) (e : Int) (sticky : Bool) : Rounded :=
  f.roundNum rm neg (2 * m + sticky.toNat) (e - 1)

end Sys2Proof.Machine
end

