-- ==== Sys2Proof/Machine/Fp.lean ====
section
/-! DEFINITION. The FP instructions of F0 and F1 (09 R172 to R177). -/

namespace Sys2Proof.Machine

/-- The F unit's operand ports. -/
def fpA (u : Fin 2) : OpPort := if u = 0 then .f0a else .f1a
def fpB (u : Fin 2) : OpPort := if u = 0 then .f0b else .f1b

/-- What an FP operation gives in a lane from a, b and t. -/
def State.fpLane (s : State) (h : Head) (u : Fin 2) (op : Word → Word → Word → UnitOut) (l : Nat) : UnitOut :=
  op (s.oper (fpA u) l) (s.oper (fpB u) l) (s.trig h l)

/-- The flags that the lanes of a mask raise, ORed. -/
def raisedOver (m : Mask) (f : Nat → BitVec 5) : BitVec 5 := (lanesOf m).foldl (fun a l => a ||| f l) 0#5

/-- The parts of an FP instruction: the operand ports it reads beside t, and its operation; latency 4. -/
def fpAction (h : Head) (u : Fin 2) (ops : List OpPort) (op : Word → Word → Word → UnitOut) : Action :=
  Action.trigger h { ops := ops, t := true, wide := false }
    { Action.idle with
      waits := fun s => s.flightsFull 1
      takes := flying 1
      effect := fun s =>
        let m := s.guard h.guard
        s.launchFlight (2 + u.val) m (fun l => (s.fpLane h u op l).q) (fun l => (s.fpLane h u op l).fl)
          (raisedOver m fun l => (s.fpLane h u op l).raised) 4 }

/-- FCMP (09 R175): a unchanged, with the flags of its relation to t. -/
def opFcmp (a _ t : Word) : UnitOut :=
  { q := a, fl := (fp32.relation a.toNat t.toNat).flags,
    raised := if (fp32.unpack a.toNat).snan || (fp32.unpack t.toNat).snan then flagIv else 0#5 }

def opFma (negP negC : Bool) (rm : Rm) (a b t : Word) : UnitOut :=
  scalarOut (fp32.fma rm a.toNat b.toNat t.toNat negP negC)
def opFadd (sub : Bool) (rm : Rm) (a _ t : Word) : UnitOut := scalarOut (fp32.add rm a.toNat t.toNat sub)
def opFmul (rm : Rm) (a _ t : Word) : UnitOut := scalarOut (fp32.mul rm a.toNat t.toNat)
def opFminmax (greater : Bool) (a _ t : Word) : UnitOut := scalarOut (fp32.minmax greater a.toNat t.toNat)
def opFrnd (rm : Rm) (_ _ t : Word) : UnitOut := scalarOut (fp32.rnd rm t.toNat)
def opFscl (rm : Rm) (a _ t : Word) : UnitOut := scalarOut (fp32.scl rm a.toNat t.toInt)
def opPfma (f : Fmt) (rm : Rm) (a b t : Word) : UnitOut := packed f (fun x y z => f.fma rm x y z false false) a b t
def opPadd (f : Fmt) (rm : Rm) (a b t : Word) : UnitOut := packed f (fun x _ z => f.add rm x z false) a b t
def opPmul (f : Fmt) (rm : Rm) (a b t : Word) : UnitOut := packed f (fun x _ z => f.mul rm x z) a b t
def opDot2 (f : Fmt) (rm : Rm) (a b t : Word) : UnitOut := scalarOut (dot2 f rm a b t)

/-- FMA (09 R174). -/
def execFma (h : Head) (u : Fin 2) (rm : Rm) (s : State) : Host.Outcome State Fault Refusal :=
  (fpAction h u [fpA u, fpB u] (opFma false false rm)).outcome s

/-- FMS (09 R174). -/
def execFms (h : Head) (u : Fin 2) (rm : Rm) (s : State) : Host.Outcome State Fault Refusal :=
  (fpAction h u [fpA u, fpB u] (opFma false true rm)).outcome s

/-- FNMA (09 R174). -/
def execFnma (h : Head) (u : Fin 2) (rm : Rm) (s : State) : Host.Outcome State Fault Refusal :=
  (fpAction h u [fpA u, fpB u] (opFma true false rm)).outcome s

/-- FNMS (09 R174). -/
def execFnms (h : Head) (u : Fin 2) (rm : Rm) (s : State) : Host.Outcome State Fault Refusal :=
  (fpAction h u [fpA u, fpB u] (opFma true true rm)).outcome s

/-- FADD (09 R174). -/
def execFadd (h : Head) (u : Fin 2) (rm : Rm) (s : State) : Host.Outcome State Fault Refusal :=
  (fpAction h u [fpA u] (opFadd false rm)).outcome s

/-- FSUB (09 R174). -/
def execFsub (h : Head) (u : Fin 2) (rm : Rm) (s : State) : Host.Outcome State Fault Refusal :=
  (fpAction h u [fpA u] (opFadd true rm)).outcome s

/-- FMUL (09 R174). -/
def execFmul (h : Head) (u : Fin 2) (rm : Rm) (s : State) : Host.Outcome State Fault Refusal :=
  (fpAction h u [fpA u] (opFmul rm)).outcome s

/-- FMIN (09 R175). -/
def execFmin (h : Head) (u : Fin 2) (s : State) : Host.Outcome State Fault Refusal :=
  (fpAction h u [fpA u] (opFminmax false)).outcome s

/-- FMAX (09 R175). -/
def execFmax (h : Head) (u : Fin 2) (s : State) : Host.Outcome State Fault Refusal :=
  (fpAction h u [fpA u] (opFminmax true)).outcome s

/-- FCMP (09 R175). -/
def execFcmp (h : Head) (u : Fin 2) (s : State) : Host.Outcome State Fault Refusal :=
  (fpAction h u [fpA u] (opFcmp)).outcome s

/-- FRND (09 R174). -/
def execFrnd (h : Head) (u : Fin 2) (rm : Rm) (s : State) : Host.Outcome State Fault Refusal :=
  (fpAction h u [] (opFrnd rm)).outcome s

/-- FSCL (09 R174). -/
def execFscl (h : Head) (u : Fin 2) (rm : Rm) (s : State) : Host.Outcome State Fault Refusal :=
  (fpAction h u [fpA u] (opFscl rm)).outcome s

/-- HFMA2 (09 R176). -/
def execHfma2 (h : Head) (u : Fin 2) (rm : Rm) (s : State) : Host.Outcome State Fault Refusal :=
  (fpAction h u [fpA u, fpB u] (opPfma fp16 rm)).outcome s

/-- HADD2 (09 R176). -/
def execHadd2 (h : Head) (u : Fin 2) (rm : Rm) (s : State) : Host.Outcome State Fault Refusal :=
  (fpAction h u [fpA u] (opPadd fp16 rm)).outcome s

/-- HMUL2 (09 R176). -/
def execHmul2 (h : Head) (u : Fin 2) (rm : Rm) (s : State) : Host.Outcome State Fault Refusal :=
  (fpAction h u [fpA u] (opPmul fp16 rm)).outcome s

/-- BFMA2 (09 R176). -/
def execBfma2 (h : Head) (u : Fin 2) (rm : Rm) (s : State) : Host.Outcome State Fault Refusal :=
  (fpAction h u [fpA u, fpB u] (opPfma bf16 rm)).outcome s

/-- BADD2 (09 R176). -/
def execBadd2 (h : Head) (u : Fin 2) (rm : Rm) (s : State) : Host.Outcome State Fault Refusal :=
  (fpAction h u [fpA u] (opPadd bf16 rm)).outcome s

/-- BMUL2 (09 R176). -/
def execBmul2 (h : Head) (u : Fin 2) (rm : Rm) (s : State) : Host.Outcome State Fault Refusal :=
  (fpAction h u [fpA u] (opPmul bf16 rm)).outcome s

/-- FDOT2H (09 R177). -/
def execFdot2h (h : Head) (u : Fin 2) (rm : Rm) (s : State) : Host.Outcome State Fault Refusal :=
  (fpAction h u [fpA u, fpB u] (opDot2 fp16 rm)).outcome s

/-- FDOT2B (09 R177). -/
def execFdot2b (h : Head) (u : Fin 2) (rm : Rm) (s : State) : Host.Outcome State Fault Refusal :=
  (fpAction h u [fpA u, fpB u] (opDot2 bf16 rm)).outcome s

end Sys2Proof.Machine
end

