-- ==== Sys2Proof/Machine/Memory.lean ====
section
/-! DEFINITION. The loads and stores (11 R216 to R229): addresses and their checks at the trigger, the load queues, the
store buffer. What happens after the trigger is in the events. A scratch byte of a core is named core x 2^20 + address. -/

namespace Sys2Proof.Machine

/-! ## Widths (11 R221, R226) -/

/-- The words that a load delivers from its bytes (11 R221). -/
def loadWords (wd : Width) (bs : List Byte) : LaneVec :=
  let word (i n : Nat) : Word := wordOf ((bs.drop i).take n)
  match wd with
  | .b => [sextNat 8 (word 0 1).toNat]
  | .bn => [word 0 1]
  | .h => [sextNat 16 (word 0 2).toNat]
  | .hn => [word 0 2]
  | .w => [word 0 4]
  | .d => [word 0 4, word 4 4]
  | .q | .m => [word 0 4, word 4 4, word 8 4, word 12 4]

/-- The bytes that a store writes at an address (11 R226). -/
def storeCells (wd : Width) (x : Nat) (d : Nat → Word) (m : Word) : List Host.Cell :=
  match wd with
  | .m => (cellsAt (x / 16 * 16) ((List.range 4).flatMap fun j => bytesOf (d j))).filter fun c => m.getLsbD (c.1 % 16)
  | _ => cellsAt x (((List.range 4).flatMap fun j => bytesOf (d j)).take (widthBytes wd))

/-! ## Addresses (11 R216 to R218) -/

/-- A trigger's scratch or pooled address in a lane, where it passes R218. -/
def State.scratchTarget (s : State) (h : Head) (n : Nat) (l : Nat) : Option Nat :=
  (s.scratchAt s.cur.tid.core s.cur.tid.ctx (s.trig h l) n).map scratchName

/-- A trigger's global address in a lane: the h port over the trigger value. -/
def State.globalAddr (s : State) (p : OpPort) (h : Head) (l : Nat) : Nat :=
  (s.oper p l).toNat * 2 ^ 32 + (s.trig h l).toNat

/-- A global address that R218 refuses. -/
def globalBad (a n : Nat) : Bool := 2 ^ 57 < a + n

/-- The lowest guarded lane that satisfies a predicate. -/
def State.laneWhere (s : State) (h : Head) (p : Nat → Bool) : Option Nat := (lanesOf (s.guard h.guard)).find? p

/-- The check of scratch addresses (11 R218). -/
def scratchCheck (h : Head) (n : Nat) (s : State) : Option TrapRec :=
  (s.laneWhere h fun l => (s.scratchTarget h n l).isNone).map fun l => s.before 0x08 (s.trig h l)

/-- The check of global addresses: on a part without pod links a pod-remote one names an absent unit (00 R3), then
R218. -/
def globalCheck (p : OpPort) (h : Head) (n : Nat) (s : State) : Option TrapRec :=
  let remote (l : Nat) := !s.pack.variant.hasPods && (s.rangeOf s.selfBlock.fn (s.globalAddr p h l)).valid
    && (s.rangeOf s.selfBlock.fn (s.globalAddr p h l)).policy == 3
  if (s.laneWhere h remote).isSome then some (s.trapWord 0x15)
  else (s.laneWhere h fun l => globalBad (s.globalAddr p h l) n).map fun l => s.before 0x08 (s.oper p l)

/-- The weight-store bank of an offset (11 R225). -/
def wsBank (x : Nat) : Nat := x / 2 ^ 12 % 64

/-- Bytes outside a function's weight-store window on a die (15 R287). -/
def State.wsOutside (s : State) (fn die x n : Nat) : Bool :=
  let w := (s.fn fn).wsWin.getD die 0#32
  [wsBank x, wsBank (x + n - 1)].any fun b => b < w.bits 13 8 || w.bits 13 8 + w.bits 5 0 ≤ b

/-- The check of weight-store offsets (11 R218, 15 R287). -/
def weightCheck (h : Head) (n : Nat) (s : State) : Option TrapRec :=
  let bad (l : Nat) := (s.trig h l).bits 31 28 ≠ 0
  let out (l : Nat) := s.wsOutside s.selfBlock.fn (dieOf s.cur.tid.core) (s.trig h l).toNat n
  match s.laneWhere h bad with
  | some l => some (s.before 0x08 (s.trig h l))
  | none => (s.laneWhere h out).map fun l => s.before 0x08 (s.trig h l)

/-! ## Loads -/

/-- A lane's access that has not arrived. -/
def LoadLane.pending (l addr : Nat) (missed : Bool) : LoadLane :=
  { lane := l, addr := addr, arrived := false, missed := missed, served := false, poison := false, cause := 0, vals := [],
    part := none }

/-- A load queue has no room for a load (11 R222). -/
def LoadQ.full (q : LoadQ) (wd : Width) : Bool :=
  8 < q.entries.foldl (fun a e => a + widthWords e.width) 0 + widthWords wd

/-- A load enters its queue. -/
def State.enterLoad (s : State) (p : LoadPort) (wd : Width) (n : Hint) (spec : Bool) (m : Mask) (lane : Nat → LoadLane) :
    State :=
  s.modThread s.cur.tid fun th =>
    let q := th.loads p
    let e : LoadEntry := { seq := th.seq, width := wd, hint := n, spec := spec, mask := m, lanes := (lanesOf m).map lane }
    ({ th with seq := th.seq + 1 }).setLoads p { q with entries := q.entries ++ [e], ever := true }

/-- The keys of the lines that an access touches. -/
def State.keysOf (s : State) (fn addr n : Nat) : List Nat :=
  ([s.keyOf fn addr, s.keyOf fn (addr + n - 1)]).eraseDups

/-- LDS (11 R216, R221, R222). -/
def execLds (h : Head) (wd : Width) (s : State) : Host.Outcome State Fault Refusal :=
  (Action.trigger h { ops := [], t := true, wide := false }
    { Action.idle with
      waits := fun s => s.self.ls.full wd
      own := scratchCheck h (widthBytes wd)
      effect := fun s => s.enterLoad .ls wd .normal false (s.guard h.guard) fun l =>
        LoadLane.pending l ((s.scratchTarget h (widthBytes wd) l).getD 0) false }).outcome s

/-- LDG (11 R216, R221, R222). -/
def execLdg (h : Head) (wd : Width) (n : Hint) (s : State) : Host.Outcome State Fault Refusal :=
  (Action.trigger h { ops := [.lgh], t := true, wide := false }
    { Action.idle with
      waits := fun s => s.self.lg.full wd
      own := globalCheck .lgh h (widthBytes wd)
      effect := fun s => s.enterLoad .lg wd n false (s.guard h.guard) fun l =>
        let a := s.globalAddr .lgh h l
        { LoadLane.pending l a false with
          missed := ((LoadLane.pending l a false).todo (widthBytes wd)).any fun x =>
            !s.hits s.cur.tid.core s.selfBlock.fn x.1 x.2 } }).outcome s

/-- LDGS (11 R223): what would trap delivers poison; its reader never goes to the Basin. -/
def execLdgs (h : Head) (wd : Width) (n : Hint) (s : State) : Host.Outcome State Fault Refusal :=
  (Action.trigger h { ops := [.lgh], t := true, wide := false }
    { Action.idle with
      waits := fun s => s.self.lg.full wd
      effect := fun s => (s.enterLoad .lg wd n true (s.guard h.guard) fun l =>
        let a := s.globalAddr .lgh h l
        if globalBad a (widthBytes wd) then
          { LoadLane.pending l a false with
            arrived := true, poison := true,
            vals := (List.range (widthWords wd)).map fun j => Config.freeWord (s.draws * 4096 + l * 4 + j) }
        else LoadLane.pending l a false) |>.drawn }).outcome s

/-- Brings the line that holds an address into the core's L1, where its quad cache holds it, with a hint (11 R220, R223). -/
def State.fillL1 (s : State) (core fn addr : Nat) (h : Hint) : State :=
  let key := s.keyOf fn addr
  let q := s.qline (quadOf core) key
  if q.state = 0 || (s.core core).l1.any (fun l => l.key == key) then s
  else
    let bs := (List.range 128).map fun i => s.quadByte (quadOf core) fn (keyAddr key + i)
    s.modCore core fun c => { c with l1 := c.l1 ++ [{ key := key, bytes := bs, poison := q.poison, hint := h }] }

/-- Prefetches a line: it comes into the L1 at once where the quad cache holds it, and else when the home has sent it. -/
def State.prefetch (s : State) (core fn a : Nat) (h : Hint) : State :=
  if (s.qline (quadOf core) (s.keyOf fn a)).state ≠ 0 then s.fillL1 core fn a h
  else s.modCore core fun c => { c with prefetch := if c.prefetch.contains (fn, a, h) then c.prefetch else c.prefetch ++ [(fn, a, h)] }

/-- PFG (11 R223): a prefetch, which takes no slot and writes no port; it is dropped on any fault. -/
def execPfg (h : Head) (_wd : Width) (n : Hint) (s : State) : Host.Outcome State Fault Refusal :=
  (Action.trigger h { ops := [.lgh], t := true, wide := false }
    { Action.idle with
      effect := fun s => (lanesOf (s.guard h.guard)).foldl (fun s' l =>
        let a := s.globalAddr .lgh h l
        if globalBad a 1 then s'
        else match s'.translate s.selfBlock.fn a 0 with
          | .ok _ => s'.prefetch s.cur.tid.core s.selfBlock.fn a n
          | _ => s') s }).outcome s

/-- LDW (11 R224, R225): a part without a weight store has no such unit. -/
def execLdw (h : Head) (wd : Width) (s : State) : Host.Outcome State Fault Refusal :=
  (Action.trigger h { ops := [], t := true, wide := false }
    { Action.idle with
      waits := fun s => s.self.lw.full wd
      absent := fun s => if s.pack.variant.hasStore then none else some (s.trapWord 0x15)
      own := weightCheck h (widthBytes wd)
      effect := fun s => s.enterLoad .lw wd .normal false (s.guard h.guard) fun l =>
        LoadLane.pending l (s.trig h l).toNat true }).outcome s

/-! ## Stores -/

/-- The data ports that a store reads. -/
def storePorts (d : Fin 4 → OpPort) (m : OpPort) (wd : Width) : List OpPort :=
  match wd with
  | .d => [d 0, d 1]
  | .q => [d 0, d 1, d 2, d 3]
  | .m => [d 0, d 1, d 2, d 3, m]
  | _ => [d 0]

/-- Sixty-four store triggers stand in the core's store buffer (11 R219). -/
def State.storesFull (s : State) : Bool := 64 ≤ s.selfCore.stores.length + s.cur.takes.stores

/-- Where a store's bytes begin: `.m` writes within the aligned 16 bytes (11 R226). -/
def storeBase (wd : Width) (x : Nat) : Nat :=
  match wd with
  | .m => x / 16 * 16
  | _ => x

/-- A store enters the store buffer (11 R219, R226). -/
def State.enterStore (s : State) (global : Bool) (n : Hint) (m : Mask) (lane : Nat → StoreLane) : State :=
  let t := s.cur.tid
  let e : StoreEntry :=
    { seq := s.selfCore.seqNo, tid := t, split := s.cur.split, fn := s.selfBlock.fn, global := global,
      lanes := (lanesOf m).map lane, tseq := s.self.seq,
      whole := if global then coveredSectors ((lanesOf m).flatMap fun l => (lane l).cells) else [], hint := n, frame := false }
  (s.modCore t.core fun c => { c with stores := c.stores ++ [e], seqNo := c.seqNo + 1 }).modThread t fun th =>
    { th with seq := th.seq + 1 }

/-- The scratch address that a store names, with the bits that `.m` clears. -/
def State.storeTarget (s : State) (h : Head) (wd : Width) (l : Nat) : Option Nat :=
  let v := match wd with
    | .m => s.trig h l &&& ~~~15#32
    | _ => s.trig h l
  (s.scratchAt s.cur.tid.core s.cur.tid.ctx v (widthBytes wd)).map scratchName

/-- STS's check. -/
def stsCheck (h : Head) (wd : Width) (s : State) : Option TrapRec :=
  (s.laneWhere h fun l => (s.storeTarget h wd l).isNone).map fun l => s.before 0x08 (s.trig h l)

/-- STS (11 R226). -/
def execSts (h : Head) (wd : Width) (s : State) : Host.Outcome State Fault Refusal :=
  (Action.trigger h { ops := storePorts .ssd .ssm wd, t := true, wide := false }
    { Action.idle with
      waits := fun s => s.storesFull
      takes := fun _ => { Takes.none_ with stores := 1 }
      own := stsCheck h wd
      effect := fun s => s.enterStore false .normal (s.guard h.guard) fun l =>
        let x := (s.storeTarget h wd l).getD 0
        { lane := l, addr := x, cells := storeCells wd x (fun j => s.oper (.ssd (Fin.ofNat 4 j)) l) (s.oper .ssm l) } }).outcome s

/-- STG's check: of the bytes that the store may write. -/
def stgCheck (h : Head) (wd : Width) (s : State) : Option TrapRec :=
  match wd with
  | .m => globalCheck .sgh h 1 s
  | _ => globalCheck .sgh h (widthBytes wd) s

/-- STG (11 R226). -/
def execStg (h : Head) (wd : Width) (n : Hint) (s : State) : Host.Outcome State Fault Refusal :=
  (Action.trigger h { ops := .sgh :: storePorts .sgd .sgm wd, t := true, wide := false }
    { Action.idle with
      waits := fun s => s.storesFull
      takes := fun _ => { Takes.none_ with stores := 1 }
      own := stgCheck h wd
      effect := fun s => s.enterStore true n (s.guard h.guard) fun l =>
        let x := s.globalAddr .sgh h l
        { lane := l, addr := storeBase wd x,
          cells := storeCells wd x (fun j => s.oper (.sgd (Fin.ofNat 4 j)) l) (s.oper .sgm l) } }).outcome s

end Sys2Proof.Machine
end

