-- ==== Sys2Proof/Machine/Atomic.lean ====
section
/-! DEFINITION. The atomics (11 R230 to R234): their operations on a word, their checks, and the atomic request queue. What
happens after the trigger is in the events. -/

namespace Sys2Proof.Machine

/-- The new word of an atomic operation, by its code (11 R230): `m` the word, `a` the operand, `c` the compare value. -/
def atomicNew (op : Nat) (m a c : Word) : Word :=
  match op with
  | 0 => m + a
  | 1 => if m.toInt ≤ a.toInt then m else a
  | 2 => if a.toInt ≤ m.toInt then m else a
  | 3 => if m.toNat ≤ a.toNat then m else a
  | 4 => if a.toNat ≤ m.toNat then m else a
  | 5 => m &&& a
  | 6 => m ||| a
  | 7 => m ^^^ a
  | 8 => a
  | 9 => if m = c then a else m
  | 10 => if a.toNat ≤ m.toNat then 0#32 else m + 1#32
  | 11 => if m = 0#32 || a.toNat < m.toNat then a else m - 1#32
  | _ => w32 (fp32.add .rn m.toNat a.toNat false).bits

/-- A request of an atomic stands at its home already. -/
def State.atomSent (s : State) (core seq addr : Nat) : Bool :=
  let me (r : Req) : Bool := (r.kind == 8 || r.kind == 9) && r.core == core && r.seq == seq && r.addr == addr
  s.dies.any fun e => e.2.dir.any fun d => d.2.queue.any me || d.2.pend.any me

/-- Thirty-two atomic triggers have requests that have not left the core (11 R219). -/
def State.atomsFull (s : State) : Bool :=
  32 ≤ (s.selfCore.atoms.filter fun x => x.lanes.any fun l => l.stage == 0 && !s.atomSent s.cur.tid.core x.seq l.addr).length
    + s.cur.takes.atoms

/-- A word address that is not a multiple of 4 (11 R230). -/
def alignedCheck (h : Head) (s : State) : Option TrapRec :=
  (s.laneWhere h fun l => (s.trig h l).toNat % 4 ≠ 0).map fun l => s.before 0x05 (s.trig h l)

/-- The checks of an atomic: R218 before alignment. -/
def atomCheck (h : Head) (kind : Nat) (s : State) : Option TrapRec :=
  match if kind = 0 then scratchCheck h 4 s else globalCheck .agh h 4 s with
  | some r => some r
  | none => alignedCheck h s

/-- The port that a kind of atomic returns to. -/
def atomPort (kind : Nat) : ResPort := if kind = 0 then .asq else .agq

/-- A trigger of AS.t or AG.t takes its port over in the guarded lanes (11 R232), and with it what an earlier one left to be made
again. -/
def Thread.awaitAtom (th : Thread) (p : ResPort) (m : Mask) : Thread :=
  let th := th.setAwaiting p (th.awaiting p ||| m)
  { th with
    redo := if p = .agq then th.redo.filter fun x => !m.getLsbD x.lane else th.redo
    owners := (lanesOf m).foldl (fun o l => Tab.set 0 o (p.code * 32 + l) (th.seq + 1)) th.owners,
    faults := (lanesOf m).foldl (fun f l => Tab.erase f (p.code * 32 + l)) th.faults }

/-- An atomic enters the atomic request queue (11 R219, R230). -/
def State.enterAtom (s : State) (h : Head) (kind op scope : Nat) : State :=
  let t := s.cur.tid
  let m := s.guard h.guard
  let lane (l : Nat) : AtomLane :=
    { lane := l,
      addr := if kind = 0 then (s.scratchTarget h 4 l).getD 0 else s.globalAddr .agh h l,
      a := s.oper (if kind = 0 then .asa else .aga) l, c := s.oper (if kind = 0 then .asb else .agb) l,
      stage := 0, old := 0#32, cause := 0, tries := 0,
      missed := kind ≠ 0 && !(s.atQuadCache s.selfBlock.fn kind scope (s.globalAddr .agh h l)
        && s.inQuad (quadOf t.core) s.selfBlock.fn (s.globalAddr .agh h l)) }
  let e : AtomEntry :=
    { seq := s.selfCore.seqNo, tid := t, split := s.cur.split, fn := s.selfBlock.fn, kind := kind, op := op, scope := scope,
      lanes := (lanesOf m).map lane, tseq := s.self.seq }
  (s.modCore t.core fun c => { c with atoms := c.atoms ++ [e], seqNo := c.seqNo + 1 }).modThread t fun th =>
    { (if kind = 2 then th else th.awaitAtom (atomPort kind) m) with seq := th.seq + 1 }

/-- An atomic trigger: kind 0 ATS, 1 ATG, 2 RED. -/
def atomAction (h : Head) (kind op scope : Nat) : Action :=
  let ops : List OpPort :=
    if kind = 0 then (if op = 9 then [.asa, .asb] else [.asa])
    else if op = 9 then [.agh, .aga, .agb] else [.agh, .aga]
  Action.trigger h { ops := ops, t := true, wide := false }
    { Action.idle with
      waits := fun s => s.atomsFull
      takes := fun _ => { Takes.none_ with atoms := 1 }
      own := atomCheck h kind
      effect := fun s => s.enterAtom h kind op scope }

/-! ## ATS -/

/-- ATS_ADD (11 R230). -/
def execAtsAdd (h : Head) (s : State) : Host.Outcome State Fault Refusal := (atomAction h 0 0 0).outcome s

/-- ATS_MIN (11 R230). -/
def execAtsMin (h : Head) (s : State) : Host.Outcome State Fault Refusal := (atomAction h 0 1 0).outcome s

/-- ATS_MAX (11 R230). -/
def execAtsMax (h : Head) (s : State) : Host.Outcome State Fault Refusal := (atomAction h 0 2 0).outcome s

/-- ATS_MINN (11 R230). -/
def execAtsMinn (h : Head) (s : State) : Host.Outcome State Fault Refusal := (atomAction h 0 3 0).outcome s

/-- ATS_MAXN (11 R230). -/
def execAtsMaxn (h : Head) (s : State) : Host.Outcome State Fault Refusal := (atomAction h 0 4 0).outcome s

/-- ATS_AND (11 R230). -/
def execAtsAnd (h : Head) (s : State) : Host.Outcome State Fault Refusal := (atomAction h 0 5 0).outcome s

/-- ATS_OR (11 R230). -/
def execAtsOr (h : Head) (s : State) : Host.Outcome State Fault Refusal := (atomAction h 0 6 0).outcome s

/-- ATS_XOR (11 R230). -/
def execAtsXor (h : Head) (s : State) : Host.Outcome State Fault Refusal := (atomAction h 0 7 0).outcome s

/-- ATS_XCHG (11 R230). -/
def execAtsXchg (h : Head) (s : State) : Host.Outcome State Fault Refusal := (atomAction h 0 8 0).outcome s

/-- ATS_CAS (11 R230). -/
def execAtsCas (h : Head) (s : State) : Host.Outcome State Fault Refusal := (atomAction h 0 9 0).outcome s

/-- ATS_INC (11 R230). -/
def execAtsInc (h : Head) (s : State) : Host.Outcome State Fault Refusal := (atomAction h 0 10 0).outcome s

/-- ATS_DEC (11 R230). -/
def execAtsDec (h : Head) (s : State) : Host.Outcome State Fault Refusal := (atomAction h 0 11 0).outcome s

/-- ATS_FADD (11 R230). -/
def execAtsFadd (h : Head) (s : State) : Host.Outcome State Fault Refusal := (atomAction h 0 12 0).outcome s

/-! ## ATG -/

/-- ATG_ADD (11 R230, R233). -/
def execAtgAdd (h : Head) (c : AtomScope) (s : State) : Host.Outcome State Fault Refusal :=
  (atomAction h 1 0 (AtomScope.code c)).outcome s

/-- ATG_MIN (11 R230, R233). -/
def execAtgMin (h : Head) (c : AtomScope) (s : State) : Host.Outcome State Fault Refusal :=
  (atomAction h 1 1 (AtomScope.code c)).outcome s

/-- ATG_MAX (11 R230, R233). -/
def execAtgMax (h : Head) (c : AtomScope) (s : State) : Host.Outcome State Fault Refusal :=
  (atomAction h 1 2 (AtomScope.code c)).outcome s

/-- ATG_MINN (11 R230, R233). -/
def execAtgMinn (h : Head) (c : AtomScope) (s : State) : Host.Outcome State Fault Refusal :=
  (atomAction h 1 3 (AtomScope.code c)).outcome s

/-- ATG_MAXN (11 R230, R233). -/
def execAtgMaxn (h : Head) (c : AtomScope) (s : State) : Host.Outcome State Fault Refusal :=
  (atomAction h 1 4 (AtomScope.code c)).outcome s

/-- ATG_AND (11 R230, R233). -/
def execAtgAnd (h : Head) (c : AtomScope) (s : State) : Host.Outcome State Fault Refusal :=
  (atomAction h 1 5 (AtomScope.code c)).outcome s

/-- ATG_OR (11 R230, R233). -/
def execAtgOr (h : Head) (c : AtomScope) (s : State) : Host.Outcome State Fault Refusal :=
  (atomAction h 1 6 (AtomScope.code c)).outcome s

/-- ATG_XOR (11 R230, R233). -/
def execAtgXor (h : Head) (c : AtomScope) (s : State) : Host.Outcome State Fault Refusal :=
  (atomAction h 1 7 (AtomScope.code c)).outcome s

/-- ATG_XCHG (11 R230, R233). -/
def execAtgXchg (h : Head) (c : AtomScope) (s : State) : Host.Outcome State Fault Refusal :=
  (atomAction h 1 8 (AtomScope.code c)).outcome s

/-- ATG_CAS (11 R230, R233). -/
def execAtgCas (h : Head) (c : AtomScope) (s : State) : Host.Outcome State Fault Refusal :=
  (atomAction h 1 9 (AtomScope.code c)).outcome s

/-- ATG_INC (11 R230, R233). -/
def execAtgInc (h : Head) (c : AtomScope) (s : State) : Host.Outcome State Fault Refusal :=
  (atomAction h 1 10 (AtomScope.code c)).outcome s

/-- ATG_DEC (11 R230, R233). -/
def execAtgDec (h : Head) (c : AtomScope) (s : State) : Host.Outcome State Fault Refusal :=
  (atomAction h 1 11 (AtomScope.code c)).outcome s

/-- ATG_FADD (11 R230, R233). -/
def execAtgFadd (h : Head) (c : AtomScope) (s : State) : Host.Outcome State Fault Refusal :=
  (atomAction h 1 12 (AtomScope.code c)).outcome s

/-! ## RED -/

/-- RED_ADD (11 R230, R233). -/
def execRedAdd (h : Head) (c : AtomScope) (s : State) : Host.Outcome State Fault Refusal :=
  (atomAction h 2 0 (AtomScope.code c)).outcome s

/-- RED_MIN (11 R230, R233). -/
def execRedMin (h : Head) (c : AtomScope) (s : State) : Host.Outcome State Fault Refusal :=
  (atomAction h 2 1 (AtomScope.code c)).outcome s

/-- RED_MAX (11 R230, R233). -/
def execRedMax (h : Head) (c : AtomScope) (s : State) : Host.Outcome State Fault Refusal :=
  (atomAction h 2 2 (AtomScope.code c)).outcome s

/-- RED_MINN (11 R230, R233). -/
def execRedMinn (h : Head) (c : AtomScope) (s : State) : Host.Outcome State Fault Refusal :=
  (atomAction h 2 3 (AtomScope.code c)).outcome s

/-- RED_MAXN (11 R230, R233). -/
def execRedMaxn (h : Head) (c : AtomScope) (s : State) : Host.Outcome State Fault Refusal :=
  (atomAction h 2 4 (AtomScope.code c)).outcome s

/-- RED_AND (11 R230, R233). -/
def execRedAnd (h : Head) (c : AtomScope) (s : State) : Host.Outcome State Fault Refusal :=
  (atomAction h 2 5 (AtomScope.code c)).outcome s

/-- RED_OR (11 R230, R233). -/
def execRedOr (h : Head) (c : AtomScope) (s : State) : Host.Outcome State Fault Refusal :=
  (atomAction h 2 6 (AtomScope.code c)).outcome s

/-- RED_XOR (11 R230, R233). -/
def execRedXor (h : Head) (c : AtomScope) (s : State) : Host.Outcome State Fault Refusal :=
  (atomAction h 2 7 (AtomScope.code c)).outcome s

/-- RED_INC (11 R230, R233). -/
def execRedInc (h : Head) (c : AtomScope) (s : State) : Host.Outcome State Fault Refusal :=
  (atomAction h 2 10 (AtomScope.code c)).outcome s

/-- RED_DEC (11 R230, R233). -/
def execRedDec (h : Head) (c : AtomScope) (s : State) : Host.Outcome State Fault Refusal :=
  (atomAction h 2 11 (AtomScope.code c)).outcome s

/-- RED_FADD (11 R230, R233). -/
def execRedFadd (h : Head) (c : AtomScope) (s : State) : Host.Outcome State Fault Refusal :=
  (atomAction h 2 12 (AtomScope.code c)).outcome s

end Sys2Proof.Machine
end

