-- ==== Sys2Proof/Machine/Fault.lean ====
section
/-! DEFINITION. Page faults and refused accesses at the homes (15 R300 to R303): what a request for a translation meets,
the fault queue, and the events of the driver that resolve faults. -/

namespace Sys2Proof.Machine

/-- The form of every event's meaning: where what it needs is not there, nothing happens (log 6). -/
def State.happens (s : State) (ok : State → Bool) (effect : State → State) : Host.Outcome State Fault Refusal :=
  .next (if ok s then effect s else s)

/-! ## Requests -/

/-- What a request for a translation meets. -/
inductive Ask where
  | go (leaf : Leaf)
  | waits
  | fails (cause : Nat)
deriving DecidableEq, Repr

/-- A thread as requester (15 R301). -/
def State.requester (s : State) (t : Tid) : Requester :=
  { pkg := s.pack.pkg, die := dieOf t.core, core := t.core % 64, slot := if t.isSluice then 0 else t.slot,
    origin := if t.isSluice then 1 else 0, tag := 0 }

/-- The outstanding fault of an address's page (15 R300). -/
def State.pageFault (s : State) (fn addr : Nat) : Option PageFault :=
  (s.die (s.homeOf fn addr)).faults.find? fun x => x.fn == fn && x.page == addr / 4096

/-- The verdict on an address's page. -/
def State.verdict (s : State) (fn addr : Nat) : Option Verdict :=
  (s.die (s.homeOf fn addr)).verdicts.find? fun x => x.fn == fn && x.page == addr / 4096

/-- The fault id after one (15 R301). -/
def nextFaultId (n : Nat) : Nat := if n % 65536 = 65535 then 1 else n + 1

/-- Raises a page fault at a home (15 R300). -/
def State.raiseFault (s : State) (fn addr access level : Nat) (who : Requester) : State :=
  let id := (s.fn fn).nextFault
  (s.modDie (s.homeOf fn addr) fun d =>
    { d with
      faults := d.faults ++ [{ fn := fn, page := addr / 4096, id := id }],
      buffer := d.buffer ++ [{ fn := fn, kind := 1, id := id, access := access, level := level, addr := addr, who := who }] }).modFn
    fn fun f => { f with nextFault := nextFaultId f.nextFault }

/-- A request for a translation at its home (15 R288 to R303): it goes on, waits on a page fault, or ends with cause 0x07 or 0x08. A fenced
function's request is refused (R304); a home agent in reset answers nothing (R305). What finds the fault buffer full waits there in the
order of its arrival: in the list of faults, beyond its first 256 (R300; log 39). -/
def State.ask (s : State) (fn addr access : Nat) (who : Requester) : State × Ask :=
  if !s.homeServes (s.faultDie fn addr who.die) then (s, .waits)
  else match s.verdict fn addr with
  | some v => (s, .fails v.cause)
  | none =>
    if (s.fn fn).fenced then (s, .fails 8)
    else if (s.pageFault fn addr).isSome then (s, .waits)
    else match s.translate fn addr access with
      | .ok leaf => (s.recordUse fn addr leaf, .go leaf)
      | .absent level => (s.raiseFault fn addr access level who, .waits)
      | .refused kind level => (s.noteRefusal fn addr access kind level who, .fails 8)

/-- Whether a request would come to something new: it does not wait on what it waits on already. -/
def State.mayAsk (s : State) (fn addr die : Nat) : Bool :=
  s.homeServes (s.faultDie fn addr die) && !s.pathHeld die (s.faultDie fn addr die) && ((s.verdict fn addr).isSome || (s.fn fn).fenced || (s.pageFault fn addr).isNone)

/-- A request for an address ends in a fault now; a speculative one does so where the page is absent, or its fault is outstanding (11 R223). -/
def State.endsNow (s : State) (fn access addr : Nat) (spec : Bool) : Bool :=
  ((s.rangeIndex fn addr).isNone || s.homeServes (s.homeOf fn addr)) && ((s.verdict fn addr).isSome || (s.fn fn).fenced
    || (spec && (s.pageFault fn addr).isSome) || match s.translate fn addr access with
      | .ok _ => false
      | .absent _ => spec
      | .refused _ _ => true)

/-! ## What waits for a translation -/

/-- A request that waits for its translation. -/
structure Want where
  fn : Nat
  addr : Nat
  access : Nat
  who : Requester
deriving DecidableEq, Repr

/-- The load queues of a thread, those set aside among them. -/
def Thread.queuesOf (th : Thread) (p : LoadPort) : List LoadQ :=
  match th.aside with
  | none => [th.loads p]
  | some a => [th.loads p, match p with
      | .ls => a.ls
      | .lg => a.lg
      | .lw => a.lw]

/-- The live threads. -/
def State.liveThreads (s : State) : List Tid := s.threads.filterMap fun e => if e.2.live then some (tidOf e.1) else none

/-- The global addresses that a thread's loads, and its splits, wait for. -/
def State.threadWants (s : State) (t : Tid) : List Want :=
  let th := s.thread t
  let fn := (s.block t.core t.ctx).fn
  let who := s.requester t
  let loads := (th.queuesOf .lg).flatMap fun q => (q.entries.filter (!·.spec)).flatMap fun e =>
    (e.lanes.filter (!·.arrived)).map fun l => ({ fn := fn, addr := l.addr, access := 0, who := who } : Want)
  let codes := th.splits.filterMap fun sp => (if sp.live then sp.want else none).map fun a =>
    ({ fn := fn, addr := s.codeAddr t a / 128 * 128, access := 3, who := who } : Want)
  let pages := th.splits.filterMap fun sp => (if sp.live then sp.page else none).map fun a =>
    ({ fn := fn, addr := a.1, access := 4, who := { who with origin := a.2 } } : Want)
  loads ++ codes ++ pages

/-- The global addresses that a core's atomics wait for. -/
def State.coreWants (s : State) (core : Nat) : List Want :=
  (s.core core).atoms.flatMap fun e => if e.kind = 0 then [] else
    (e.lanes.filter fun l => l.stage == 0).map fun l =>
      ({ fn := e.fn, addr := l.addr, access := 2, who := s.requester e.tid } : Want)

/-- Every request that waits for its translation. -/
def State.wants (s : State) : List Want :=
  s.liveThreads.flatMap s.threadWants ++ (s.cores.map (·.1)).flatMap s.coreWants

/-! ## Splits that leave the Basin (05 R108) -/

/-- Splits whose last awaited result has arrived, or whose fault is resolved, join the back of the entry queue. -/
def Thread.unpark (th : Thread) (b : Block) (t : Tid) (clk : Nat) : Thread :=
  { th with splits := th.splits.map fun (sp : Split) =>
      if sp.place = .basin && !sp.stopped && sp.owes.isEmpty && sp.want.isNone && sp.page.isNone
          && sp.parked.all (fun x => (lanesOf (x.2 &&& sp.mask)).all fun l => portReady th [] b t x.1 l) then
        { sp with place := .entry clk, parked := [] }
      else sp }

/-- The same for a thread of the state. -/
def State.unpark (s : State) (t : Tid) : State :=
  s.modThread t fun th => th.unpark (s.block t.core t.ctx) t s.clk

/-- A split that waits for a page goes to the Basin; a Sluice context has no place to leave. -/
def Split.park (sp : Split) (sluice : Bool) : Split :=
  if sluice then sp else match sp.place with
    | .away => sp
    | _ => { sp with place := .basin }

/-! ## PAGE_WALK (15 R289) -/

/-- The requests for a page that a die's walkers may serve: a bundle's own, and those of accesses that do not end in a fault
now, which the access itself meets. -/
def State.walkWants (s : State) (die fn page : Nat) : List Want :=
  s.wants.filter fun w => w.fn == fn && w.addr / 4096 == page && s.faultDie fn w.addr w.who.die == die
    && s.mayAsk fn w.addr w.who.die && (w.access == 4 || !s.endsNow fn w.access w.addr false)

/-- What the answer to its page request makes of a split (12 R248). -/
def Split.pageAnswer (sp : Split) (page : Nat) (sluice : Bool) (a : Ask) : Split :=
  if sp.live && sp.page.any (fun p => p.1 / 4096 == page) then
    match a with
    | .go _ => { sp with page := none }
    | .waits => sp.park sluice
    | .fails c => { sp with page := none, pageFault := sp.page.map fun p => (p.1, c) }
  else sp

/-- PAGE_WALK (15 R289, R293, R300): a walker translates a page for a request that waits on it; the splits whose bundle
waits for the page itself go on with what it gave. -/
def execPageWalk (die fn page : Nat) (s : State) : Host.Outcome State Fault Refusal :=
  s.happens (fun s => !(s.walkWants die fn page).isEmpty) fun s =>
    match s.walkWants die fn page with
    | [] => s
    | w :: _ =>
      let (s, a) := s.ask fn w.addr w.access w.who
      if w.access ≠ 4 then s
      else s.liveThreads.foldl (fun s t =>
        if (s.block t.core t.ctx).fn = fn then
          (s.modThread t fun th => { th with splits := th.splits.map fun sp => sp.pageAnswer page t.isSluice a }).unpark t
        else s) s

/-! ## The fault queue (15 R302) -/

/-- The size of a function's fault ring. -/
def Function.ringSize (f : Function) : Nat := 2 ^ f.fqctl.bits 4 0

/-- The ring has room: its base and size are set, and it is not full. -/
def Function.ringRoom (f : Function) : Bool := f.fqset = 7 && (f.fqtail - f.fqhead).toNat < f.ringSize

/-- The words of a fault-queue entry (15 R301), word 0 with its phase. -/
def FaultRec.words (x : FaultRec) (die : Nat) (phase : Bool) : List Word :=
  let w := x.who
  [w32 (phase.toNat * 2 ^ 31 + x.kind * 2 ^ 16 + (if x.kind = 1 then x.id else 0)),
   w32 (x.access * 2 ^ 28 + x.level * 2 ^ 24 + die * 2 ^ 22), w32 x.addr, w32 (x.addr / 2 ^ 32),
   w32 (w.pkg * 2 ^ 26 + w.die * 2 ^ 24 + w.core * 2 ^ 18 + w.slot * 2 ^ 13 + w.origin * 2 ^ 10), w32 (w.tag % 2 ^ 24),
   0#32, 0#32]

/-- The first buffered fault of a function at a die, of the 256 that the buffer holds (15 R300). -/
def State.nextEntry (s : State) (die fn : Nat) : Option FaultRec := ((s.die die).buffer.take 256).find? fun x => x.fn == fn

/-- The host link stands: it is die 0's (16 R332). -/
def State.hostLink (s : State) : Bool := !(s.die 0).lost

/-- The host and the driver reach the part's registers and memory: bring-up has ended Configuration Request Retry Status (24 R361 step 5), and the
link stands. -/
def State.hostUp (s : State) : Bool := s.hostLink && s.pack.booted ≠ 0 && !s.pack.retry

/-- FAULT_ENTRY_WRITE (15 R302): a buffered entry goes to the ring's tail, words 1 to 7 before word 0. -/
def execFaultEntryWrite (die fn : Nat) (s : State) : Host.Outcome State Fault Refusal :=
  s.happens (fun s => s.hostLink && (s.nextEntry die fn).isSome && (s.fn fn).ringRoom && !(s.fn fn).fenced) fun s =>
    match s.nextEntry die fn with
    | none => s
    | some x =>
      let f := s.fn fn
      let at_ := f.fqbase + f.fqtail.toNat % f.ringSize * 32
      let ws := x.words die (!f.fqtail.bit (f.fqctl.bits 4 0))
      let m := memWrite s.hostMem (cellsAt (at_ + 4) ((ws.drop 1).flatMap bytesOf))
      let s := { s with hostMem := memWrite m (cellsAt at_ (bytesOf (ws.headD 0#32))) }
      ((s.modDie die fun d => { d with buffer := d.buffer.erase x }).modFn fn fun f => { f with fqtail := f.fqtail + 1#32 }).emit
        (.msix fn (f.fqctl.bits 26 16))

/-- A write to a function's window that is refused sets its error bit (24 R357). -/
def State.fnError (s : State) (fn : Nat) : State := s.modFn fn fun f => { f with error := true }

/-- A write to a function's window; every one but the clearing of the error bit is ignored once it is fenced (24 R357). -/
def State.fnWrite (s : State) (fn : Nat) (effect : State → State) : Host.Outcome State Fault Refusal :=
  s.happens (fun s => s.hostUp && !(s.fn fn).fenced) effect

/-- FQHEAD_WRITE (15 R302): the head moves forward, at most to the tail. -/
def execFqheadWrite (fn : Nat) (w : Word) (s : State) : Host.Outcome State Fault Refusal :=
  s.fnWrite fn fun s =>
    let f := s.fn fn
    if (w - f.fqhead).toNat ≤ (f.fqtail - f.fqhead).toNat then s.modFn fn fun f => { f with fqhead := w } else s.fnError fn

/-- FQCTL_WRITE (15 R302, 24 R357): size and vector, and both counts become 0. -/
def execFqctlWrite (fn : Nat) (w : Word) (s : State) : Host.Outcome State Fault Refusal :=
  s.fnWrite fn fun s =>
    if w.bits 4 0 < 6 || 16 < w.bits 4 0 then s.fnError fn
    else s.modFn fn fun f =>
      { f with fqctl := w &&& 0x07FF001F#32, fqhead := 0#32, fqtail := 0#32, fqset := if f.fqset % 8 < 4 then f.fqset + 4 else f.fqset }

/-- The die that holds a function's outstanding fault with an id. -/
def State.faultHolder (s : State) (fn id : Nat) : Option (Nat × PageFault) :=
  (s.dies.filterMap fun e => (e.2.faults.find? fun x => x.fn == fn && x.id == id).map fun x => (e.1, x)).head?

/-- FQRES_RESOLVED (15 R303): the fault is no longer outstanding, so that each of its waiters walks again. -/
def execFqresResolved (fn id : Nat) (s : State) : Host.Outcome State Fault Refusal :=
  s.fnWrite fn fun s =>
    match s.faultHolder fn id with
    | none => s.fnError fn
    | some (d, x) => s.modDie d fun y => { y with faults := y.faults.erase x }

/-- FQRES_NO_PAGE (15 R303): each waiter ends with cause 0x07. -/
def execFqresNoPage (fn id : Nat) (s : State) : Host.Outcome State Fault Refusal :=
  s.fnWrite fn fun s =>
    match s.faultHolder fn id with
    | none => s.fnError fn
    | some (d, x) => s.modDie d fun y =>
        { y with faults := y.faults.erase x, verdicts := y.verdicts ++ [{ fn := fn, page := x.page, cause := 7 }] }

end Sys2Proof.Machine
end

