-- ==== Sys2Proof/Machine/Window.lean ====
section
/-! DEFINITION. Where splits stand for issue (05 R106 to R108): the issue window, the entry queue, the Basin; and the
split table and join stack of a warp: merges, held halves, vacated lanes (04 R68 to R70, R76, R79). -/

namespace Sys2Proof.Machine

/-! ## The window -/

/-- The warps on a core. -/
def State.coreWarps (s : State) (core : Nat) : List Tid := s.blockWarps core 0 ++ s.blockWarps core 1

/-- The live splits of a core's warps. -/
def State.coreSplits (s : State) (core : Nat) : List (Tid × Nat) :=
  (s.coreWarps core).flatMap fun t => (s.thread t).liveSplits.map fun i => (t, i)

/-- A split stands in the window. -/
def Split.inWindow (sp : Split) : Bool :=
  match sp.place with
  | .window _ _ => true
  | _ => false

/-- How many splits a core's window holds (05 R106). -/
def State.windowCount (s : State) (core : Nat) : Nat :=
  ((s.coreSplits core).filter fun p => ((s.thread p.1).split p.2).inWindow).length

/-- The age of a split entering the window now: the cycle, then an order that the pointer over warp slots gives (05
R106). -/
def State.freshAge (s : State) (t : Tid) (younger : Bool) : Nat :=
  s.clk * 256 + (t.slot + 32 * t.ctx + 64 - (s.core t.core).rr % 64) % 64 * 2 + younger.toNat

/-- The place of a new split (05 R106): the window where it has room, else the back of the entry queue. -/
def State.newPlace (s : State) (t : Tid) : Place :=
  if s.windowCount t.core < 8 then .window (s.freshAge t true) 0 else .entry s.clk

/-! ## Splits and the join stack (04 R68 to R70) -/

/-- A free entry of the split table. -/
def Thread.freeSplit (th : Thread) : Option Nat := (List.range 4).find? fun i => !(th.split i).live

/-- A free entry of the join stack. -/
def Thread.freeJoin (th : Thread) : Option Nat := (List.range 8).find? fun i => !(th.join i).used

/-- Two loop states are equal (04 R70): depth, and at each depth trip count, index, stages and ring word. -/
def sameLoops (a b : List LoopLevel) : Bool := a.map (fun l => (l.n, l.i, l.ring)) == b.map fun l => (l.n, l.i, l.ring)

/-- Starts the held half of a serial entry under the saved state (04 R70); its saved delay counts from now. -/
def Thread.startHeld (th : Thread) (clk e : Nat) : Thread :=
  let j := th.join e
  if !j.used || !j.serial || j.held = 0#32 then th
  else match th.freeSplit with
    | none => th
    | some k =>
      let h := { j.saved with
        live := true, pc := j.resume, mask := j.held, entry := some e, ready := clk + 1 + j.delay, arrive := .fall,
        bank := 0, lastIssue := clk, stopped := false, want := none, fetch := none,
        place := if j.saved.wait.kind = 0 then .entry clk else .away }
      (th.setSplit k h).setJoin e { j with held := 0#32, resume := 0#32 }

/-- Merges an entry whose lanes have all arrived (04 R70): one split after the JOIN bundle, no earlier than one cycle
after the last JOIN bundle plus the greatest delay. -/
def Thread.tryMerge (th : Thread) (clk e : Nat) : Thread :=
  let j := th.join e
  if !j.used || j.held ≠ 0#32 || j.arrived = 0#32 || !subMask j.expect j.arrived then th
  else match th.freeSplit with
    | none => th
    | some k =>
      let m := { Split.empty with
        live := true, pc := j.after, mask := j.arrived, entry := j.parent, loops := j.loops, sched := j.sched,
        rep := j.rep, ready := max (clk + 1) (j.since + 1 + j.late), place := .entry clk, lastIssue := clk }
      (th.setSplit k m).setJoin e JoinEntry.empty

/-- An entry that is complete merges. One of which no lane is left ends, as the split would that its merge had made: the lanes that its parent
holds start (04 R76). -/
def Thread.settleJoin (th : Thread) (clk e : Nat) : Thread :=
  let j := th.join e
  if j.used && j.expect = 0#32 then
    let th := th.setJoin e JoinEntry.empty
    match j.parent with
    | some p => th.startHeld clk p
    | none => th
  else th.tryMerge clk e

/-- Every entry is settled, and once more for each of their eight levels, since the end of one may end its parent. -/
def Thread.mergeAll (th : Thread) (clk : Nat) : Thread :=
  (List.range 64).foldl (fun th n => th.settleJoin clk (n % 8)) th

/-- Makes lanes of a thread vacant (04 R76): they leave their splits and every expect set; a split without lanes ends,
and the lanes that its serial entry holds start at once. -/
def Thread.vacateLanes (th : Thread) (clk : Nat) (v : Mask) : Thread :=
  let keep := ~~~v
  let ended := th.liveSplits.filter fun i => (th.split i).mask &&& keep = 0#32
  let entries := ended.filterMap fun i => (th.split i).entry
  let th : Thread := { th with
    occupied := th.occupied &&& keep,
    splits := th.splits.map fun (sp : Split) =>
      if sp.live then (if sp.mask &&& keep = 0#32 then Split.empty else { sp with mask := sp.mask &&& keep }) else sp,
    joins := th.joins.map fun (j : JoinEntry) =>
      if j.used then { j with expect := j.expect &&& keep, arrived := j.arrived &&& keep, held := j.held &&& keep } else j }
  (entries.foldl (fun th e => th.startHeld clk e) th).mergeAll clk

/-- Lanes become vacant: the warp ends where none is left (04 R76, R79), and barriers are looked at (06 R121). -/
def State.vacateWarp (s : State) (t : Tid) (v : Mask) (again : Bool) : State :=
  let s := s.modThread t fun th => th.vacateLanes s.clk v
  if (s.thread t).occupied = 0#32 then { s.endWarp t again with cur := { s.cur with dead := true } } else s.lanesLeft t

end Sys2Proof.Machine
end

