-- ==== Sys2Proof/Machine/Landing.lean ====
section
/-! DEFINITION. Events inside a core: results that land, counts that run out, the issue window, the Rill, the sequencer, held
records, the lease, code fetches, pending traps, and what firmware writes into a core. -/

namespace Sys2Proof.Machine

/-- A block of a group of which some block is still saved. -/
def State.savedMate (s : State) (b : Block) : Bool :=
  let size := (s.launch b.lid).groupSize
  b.grouped && s.saved.any fun v => v.present && v.block.lid == b.lid && v.block.block / size == b.block / size

/-- A resumed block issues nothing until its lease is granted and its whole group is back, and until every block of a SYNC domain in which it has arrived is
resumed (06 R131, 07 R145). -/
def State.resuming (s : State) (core ctx : Nat) : Bool :=
  let b := s.block core ctx
  b.leaseWait.isSome || s.savedMate b || s.weirs.any fun e => (s.weirBlocks e.2).contains (core, ctx) && (s.weirBlocks e.2).any isSaved

/-- The clocks of a thread run: its job is not frozen (07 R148). -/
def State.running (s : State) (t : Tid) : Bool := (s.block t.core t.ctx).frozen.isNone

/-! ## Results (01 R7, 16 R316) -/

/-- Results of a thread are due. -/
def State.landingDue (s : State) (t : Tid) : Bool := s.running t && (s.thread t).flights.any fun f => f.due ≤ s.clk

/-- RESULT_LANDING (01 R7, 16 R316). -/
def execResultLanding (t : Tid) (s : State) : Host.Outcome State Fault Refusal :=
  s.happens (fun s => s.landingDue t) fun s =>
    s.modThread t fun th => th.landBy s.clk

/-- A split's count has run out. -/
def State.countOver (s : State) (t : Tid) (i : Nat) (waited : Bool) : Bool :=
  let sp := (s.thread t).split i
  s.running t && (s.block t.core t.ctx).leaseWait.isNone && sp.live && sp.ready ≠ 0 && sp.ready ≤ s.clk && sp.waited == waited

/-- DELAY_EXPIRY (01 R8). -/
def execDelayExpiry (t : Tid) (i : Nat) (s : State) : Host.Outcome State Fault Refusal :=
  s.happens (fun s => s.countOver t i false) fun s => s.modThread t fun th => th.modSplit i fun sp => { sp with ready := 0 }

/-- WAIT_EXPIRY (04 R80). -/
def execWaitExpiry (t : Tid) (i : Nat) (s : State) : Host.Outcome State Fault Refusal :=
  s.happens (fun s => s.countOver t i true) fun s =>
    s.modThread t fun th => th.modSplit i fun sp => { sp with ready := 0, waited := false }

/-! ## Results of variable latency (16 R310, 06 R113, 10 R205, R213) -/

/-- The lanes in which a port holds words: one for the ports of the engines. -/
def portLanes (p : ResPort) (m : Mask) : Mask :=
  match p with
  | .mxq | .cp0q | .cp1q => 1#32
  | _ => m

/-- The ports that hold one result for the whole thread (10 R202, 12 R236). -/
def isEnginePort (p : ResPort) : Bool :=
  match p with
  | .mxq | .cp0q | .cp1q => true
  | _ => false

/-- A result fills its port. -/
def Thread.fill (th : Thread) (f : Fill) : Thread :=
  let m := portLanes f.port f.mask
  let th := (th.wrMask (.res f.port) m (laneAt f.vals)).setTags (.res f.port) m 0#32
  if f.port = .smq then th
  else if isEnginePort f.port then
    { th.setAwaiting f.port (th.awaiting f.port &&& ~~~f.mask) with filled := Tab.set false th.filled f.port.code true }
  else th.setAwaiting f.port (th.awaiting f.port &&& ~~~f.mask)

/-- A result fills a port that a trap has set aside (16 R323). -/
def Aside.fill (a : Aside) (f : Fill) : Aside :=
  let m := portLanes f.port f.mask
  let r := Reg.res f.port
  { a with
    ports := (lanesOf m).foldl (fun x l => Tab.set 0#32 x (r.key l) (laneAt f.vals l)) a.ports,
    tags := Tab.set 0#32 a.tags r.id (Tab.get 0#32 a.tags r.id &&& ~~~m),
    awaits := Tab.set 0#32 a.awaits f.port.code (Tab.get 0#32 a.awaits f.port.code &&& ~~~f.mask),
    filled := if isEnginePort f.port then Tab.set false a.filled f.port.code true else a.filled }

/-- The fills that are due in their exact cycle; else the first of those that may come at any time. -/
def pickFills (clk : Nat) (fs : List Fill) : List Fill × List Fill :=
  let (now, rest) := fs.partition fun f => f.due ≤ clk && !f.late
  if !now.isEmpty then (now, rest)
  else match fs.find? fun f => f.due ≤ clk with
    | some f => ([f], fs.erase f)
    | none => ([], fs)

/-- The fills of a thread, those set aside among them. -/
def Thread.allFills (th : Thread) : List Fill := th.fills ++ ((th.aside.map (·.fills)).getD [])

/-- A fill is due in its exact cycle. -/
def State.fillDue (s : State) (t : Tid) : Bool :=
  s.running t && (s.thread t).allFills.any fun f => f.due ≤ s.clk && !f.late

/-- A fill may come now. -/
def State.fillMay (s : State) (t : Tid) : Bool := s.running t && (s.thread t).allFills.any fun f => f.due ≤ s.clk

/-- VARIABLE_PORT_FILL (16 R310). -/
def execVariablePortFill (t : Tid) (s : State) : Host.Outcome State Fault Refusal :=
  s.happens (fun s => s.fillMay t) fun s =>
    (s.modThread t fun th =>
      let (now, rest) := pickFills s.clk th.fills
      if !now.isEmpty then now.foldl (fun th f => th.fill f) { th with fills := rest }
      else match th.aside with
        | none => th
        | some a =>
          let (now, rest) := pickFills s.clk a.fills
          { th with aside := some (now.foldl (fun a f => a.fill f) { a with fills := rest }) }).unpark t

/-! ## The issue window (05 R106) -/

/-- The split that enters a core's window next: the oldest of the entry queue, splits of one cycle by the pointer over warp
slots. -/
def State.nextEntering (s : State) (core : Nat) : Option (Tid × Nat) :=
  let rank (p : Tid × Nat) : Option (Nat × Nat) := match ((s.thread p.1).split p.2).place with
    | .entry since => if s.running p.1 && !((s.thread p.1).split p.2).stopped then some (since, (p.1.slot + 32 * p.1.ctx + 64 - (s.core core).rr % 64) % 64) else none
    | _ => none
  (s.coreSplits core).foldl (fun best p => match rank p with
    | none => best
    | some x => match best.bind rank with
      | some y => if x.1 < y.1 || (x.1 == y.1 && x.2 < y.2) then some p else best
      | none => some p) none

/-- A split enters the window now. -/
def State.entryDue (s : State) (core : Nat) : Bool := s.windowCount core < 8 && (s.nextEntering core).isSome

/-- WINDOW_ENTRY (05 R106): it takes a fresh age. -/
def execWindowEntry (core : Nat) (s : State) : Host.Outcome State Fault Refusal :=
  s.happens (fun s => s.entryDue core) fun s =>
    match s.nextEntering core with
    | some (t, i) => s.modThread t fun th => th.modSplit i fun sp => { sp with place := .window (s.freshAge t false) 0 }
    | none => s

/-! ## The Rill (04 R77) -/

/-- The split that waits for the Rill. -/
def Thread.rillSplit (th : Thread) : Option Nat := (List.range 4).find? fun i => (th.split i).live && (th.split i).rill

/-- A warp's place in the order in which a Rill serves the requests of one cycle: by core, then by warp slot (04 R77). Of equal warp slots of
a core's two blocks, which the rule does not order, context 0's goes first (DESIGN CHOICE; log 75). -/
def rillPlace (t : Tid) : Nat := t.core * 64 + t.slot * 2 + t.ctx

/-- The launch and the die of a thread's Rill. -/
def State.rillMine (s : State) (t : Tid) (r : Rill) : Bool := r.die == dieOf t.core && r.served.1 == s.clk + 1

/-- A refill may be granted: a request of an earlier place than one that its Rill has served in this cycle reached it later (04
R77). -/
def State.rillMay (s : State) (t : Tid) : Bool :=
  s.running t && (s.thread t).live && (s.thread t).rillSplit.isSome
    && (s.launch (s.block t.core t.ctx).lid).rills.all fun r => !s.rillMine t r || r.served.2 < rillPlace t

/-- A Rill has served a warp in the present cycle. -/
def State.rillServed (s : State) (t : Tid) : State :=
  let note (r : Rill) : Rill := if r.die = dieOf t.core then { r with served := (s.clk + 1, rillPlace t) } else r
  s.modLaunch (s.block t.core t.ctx).lid fun l => { l with rills := l.rills.map note }

/-- RILL_GRANT (04 R77). -/
def execRillGrant (t : Tid) (s : State) : Host.Outcome State Fault Refusal :=
  s.happens (fun s => s.rillMay t) fun s =>
    match (s.thread t).rillSplit with
    | none => s
    | some i =>
      let s := s.rillServed t
      let vacant := lanesOf (~~~(s.thread t).occupied)
      let (s, a, n) := s.rillTake t.core t.ctx vacant.length
      let got := vacant.take n
      let m := maskWhere got.contains
      s.modThread t fun th =>
        let th := (th.wrMask (.res .rlq) m fun l => w32 (a + got.idxOf l)).setTags (.res .rlq) m 0#32
        let th := th.setAwaiting .rlq (th.awaiting .rlq &&& ~~~m)
        let th := th.fillLanes [.cc 0, .cc 1, .cc 2, .cc 3, .age 0, .age 1, .age 2] m fun _ => 0#32
        let th := { th with occupied := th.occupied ||| m }
        let whole := (th.split i).mask ||| m
        (th.modSplit i fun sp => { sp with mask := whole, rill := false }).wrMask (.res .cq) whole fun _ => whole

/-! ## The sequencer (04 R84, R85) -/

/-- A task's waits are all satisfied (04 R84). -/
def Core.satisfied (c : Core) (k : Task) : Bool :=
  (List.range 32).all fun i =>
    let mine := k.waits.filter fun w => w.sem == i
    let v := (c.sems.getD i 0#16).toNat
    mine.all (fun w => w.consume || w.threshold ≤ v)
      && (mine.filter (·.consume)).foldl (fun a w => a + w.threshold) 0 ≤ v

/-- The task that a context's sequencer picks. -/
def State.pick (s : State) (core ctx : Nat) : Option Nat :=
  let b := s.block core ctx
  (List.range b.tasks.length).find? fun i =>
    b.armed.getD i false && (b.tasks[i]?).any fun k => (s.core core).satisfied k

/-- A context's Sluice thread. -/
def sluiceOf (core ctx : Nat) : Tid := { core := core, ctx := ctx, slot := 32 }

/-- The sequencer may pick. -/
def State.mayPick (s : State) (core ctx : Nat) : Bool :=
  let b := s.block core ctx
  b.resident && b.running.isNone && b.frozen.isNone && !(b.yield.isSome && b.yieldFrom ≤ s.clk) && !s.resuming core ctx
    && b.mayPick ≤ s.clk
    && !(s.thread (sluiceOf core ctx)).level && !(s.core core).stopped && (s.pick core ctx).isSome

/-- SEQUENCER_PICK (04 R84): the task is disarmed, its consuming waits are taken, and its first bundle may issue from the
next cycle on. A task that consumes what a command has added to a semaphore joins that command (12 R247). -/
def execSequencerPick (core ctx : Nat) (s : State) : Host.Outcome State Fault Refusal :=
  s.happens (fun s => s.mayPick core ctx) fun s =>
    match s.pick core ctx with
    | none => s
    | some i =>
      let k := (s.block core ctx).tasks.getD i { entry := 0#32, armed := false, waits := [], cycles := 0 }
      let s := s.modCore core fun c => { c with sems := (k.waits.filter (·.consume)).foldl (fun m w =>
        m.set w.sem (BitVec.ofNat 16 ((m.getD w.sem 0#16).toNat - w.threshold))) c.sems }
      let s := s.modBlock core ctx fun b =>
        { b with armed := b.armed.set i false, running := some i, firstIssue := none, paused := 0, pauseFrom := none,
                 overran := false }
      let s := if k.waits.any (·.consume) then s.joinAcquire (sluiceOf core ctx) (s.block core ctx).joinScope else s
      s.modThread (sluiceOf core ctx) fun th =>
        { th with splits := { startSplit k.entry 1#32 s.clk with ready := s.clk + 1 } :: List.replicate 3 Split.empty,
                  joins := List.replicate 8 JoinEntry.empty }

/-- The running task has used up its declared cycles, and its overrun has not struck yet (04 R85). -/
def State.overrun (s : State) (core ctx : Nat) : Bool :=
  let b := s.block core ctx
  match b.running, b.firstIssue with
  | some i, some f =>
    b.resident && b.frozen.isNone && b.pauseFrom.isNone && !b.overran
      && (b.tasks[i]?).any fun k => f + b.paused + k.cycles ≤ s.clk
  | _, _ => false

/-- TASK_OVERRUN (04 R85): trap 0x16 strikes the Sluice context; TVAL holds the task index. -/
def execTaskOverrun (core ctx : Nat) (s : State) : Host.Outcome State Fault Refusal :=
  s.happens (fun s => s.overrun core ctx) fun s =>
    (s.modThread (sluiceOf core ctx) fun th =>
      th.pend { cause := 0x16, tval := w32 ((s.block core ctx).running.getD 0), telem := 0 }).modBlock core ctx fun b =>
        { b with overran := true }

/-! ## The event queue (02 R19, 16 R314) -/

/-- A command's result fills a port that awaits it, set aside or not (10 R202; 16 R323). -/
def Thread.takeResult (th : Thread) (p : ResPort) (tag : Nat) (v : Word) : Thread :=
  let k := p.code * 32
  let f : Fill := { port := p, mask := BitVec.allOnes 32, vals := lanes32 fun _ => v, due := 0, late := false }
  let th := if Tab.get 0 th.owners k = tag then { th.fill f with owners := Tab.erase th.owners k } else th
  match th.aside with
  | some a => if Tab.get 0 a.owners k = tag then { th with aside := some { a.fill f with owners := Tab.erase a.owners k } } else th
  | none => th

/-- The result of a command reaches every port of its block that awaits the tag: that of its own trigger, and that of the
MXR or CPR that resumed it (07 R146, 10 R214, 12 R244). -/
def State.takeResults (s : State) (core ctx tag : Nat) : State :=
  (List.range 33).foldl (fun s slot =>
    let t : Tid := { core := core, ctx := ctx, slot := slot }
    if (s.thread t).live then
      (s.modThread t fun th => [ResPort.mxq, .cp0q, .cp1q].foldl (fun th p =>
        th.takeResult p tag (w32 (2 * 2 ^ 24 + tag))) th).unpark t
    else s) s

/-- A record enters the event queue; the result port of an engine's command fills after it (12 R245). -/
def State.enterRecord (s : State) (core : Nat) (w : Word) : State :=
  let s := s.modCore core fun c => { c with evq := c.evq ++ [w] }
  if w.bits 31 30 = 3 then s else s.takeResults core (w.bits 29 29) (w.bits 23 0)

/-- Posts a record: into the queue where it has room and no other waits, else it is held (02 R19). -/
def State.postRecord (s : State) (core : Nat) (w : Word) : State :=
  if (s.core core).evq.length < 64 && (s.core core).held.isEmpty then s.enterRecord core w
  else s.modCore core fun c => { c with held := c.held ++ [w] }

/-- An EVT's record whose release has taken effect: it is posted (16 R314). -/
def State.evtReady (s : State) (core : Nat) : Option EvtPost :=
  (s.core core).heldE.find? fun e => s.releasedBefore e.tid e.seq

/-- The oldest held record, where the queue has room for it. -/
def State.heldNext (s : State) (core : Nat) : Option Word :=
  if (s.core core).evq.length < 64 then (s.core core).held.head? else none

/-- A record comes on: the oldest held one enters, or an EVT's is posted. -/
def State.heldMay (s : State) (core : Nat) : Bool := (s.heldNext core).isSome || (s.evtReady core).isSome

/-- HELD_RECORD_ENTRY (02 R19, 16 R314): records enter in the order in which they were completed; of one cycle those of the engines come before
EVT's. -/
def execHeldRecordEntry (core : Nat) (s : State) : Host.Outcome State Fault Refusal :=
  s.happens (fun s => s.heldMay core) fun s =>
    match s.heldNext core, s.evtReady core with
    | some w, _ => (s.modCore core fun c => { c with held := c.held.tail }).enterRecord core w
    | none, some e => (s.modCore core fun c => { c with heldE := c.heldE.erase e, done := (s.clk, 4) }).postRecord core e.word
    | none, none => s

/-! ## The lease (10 R194, 15 R286) -/

/-- The next lease may be granted. -/
def State.leaseDue (s : State) (quad : Nat) : Bool :=
  let q := s.quad quad
  q.leaseHolder.isNone && q.leaseFree ≤ s.clk && !q.leaseReqs.isEmpty

/-- A Cascade passes to a block of a function: planes of another function's weights are cleared (15 R286). -/
def Quad.passTo (q : Quad) (fn : Nat) : Quad :=
  if q.lastFn = some fn then q
  else { q with active := Plane.empty, shadow := Plane.empty, planeA := Plane.empty, planeB := Plane.empty, latchA := Plane.empty,
                latchB := Plane.empty, latched := false,
                planeBad := false, lastFn := some fn }

/-- MX_WINDOW_SWITCH (10 R195): which core the array serves follows from CLK and MXWIN alone, so the switch changes no other
state; a command works only in its core's windows. -/
def execMxWindowSwitch (_quad : Nat) (s : State) : Host.Outcome State Fault Refusal := s.happens (fun _ => false) id

/-- TILEST entries are due. -/
def State.tileNow (s : State) (core : Nat) (x : Nat × Nat × Nat × Word) : Bool :=
  x.2.1 ≤ s.clk && (s.block core x.1).frozen.isNone
def State.tileDue (s : State) (core : Nat) : Bool := (s.core core).tileLate.any (s.tileNow core)

/-- TILEST_UPDATE (10 R212). -/
def execTilestUpdate (core : Nat) (s : State) : Host.Outcome State Fault Refusal :=
  s.happens (fun s => s.tileDue core) fun s => s.modCore core fun c =>
    let (now, later) := c.tileLate.partition (s.tileNow core)
    { c with tilest := now.foldl (fun m x => m.set x.2.2.1 x.2.2.2) c.tilest, tileLate := later }

/-! ## Code (15 R364) -/

/-- The code line that a split waits for, by its virtual line address. -/
def State.wantsLine (s : State) (t : Tid) (sp : Split) (fn line : Nat) : Bool :=
  (s.block t.core t.ctx).fn == fn && sp.live && sp.want.any fun a => s.codeAddr t a / 128 == line

/-- The threads of a core. -/
def State.coreThreads (s : State) (core : Nat) : List Tid := s.blockThreads core 0 ++ s.blockThreads core 1

/-- The threads of a core of which a split waits for a line. -/
def State.lineWanters (s : State) (core fn line : Nat) : List Tid :=
  (s.coreThreads core).filter fun t => (s.thread t).splits.any fun sp => s.wantsLine t sp fn line

/-- A fetch would come to something new. -/
def State.fetchMay (s : State) (core fn line : Nat) : Bool :=
  !(s.lineWanters core fn line).isEmpty && s.mayAsk fn (line * 128) (dieOf core)

/-- What the outcome of a fetch makes of a split that waits for the line. -/
def Split.fetched (sp : Split) (sluice : Bool) (a : Ask) : Split :=
  match a with
  | .go _ => { sp with want := none }
  | .waits => sp.park sluice
  | .fails c => { sp with want := none, fetch := sp.want.map fun w => (w, c) }

/-- CODE_FETCH (15 R364): the line comes to the core; or the splits that wait for it park on a page fault, or find that it
cannot be fetched. -/
def execCodeFetch (core fn line : Nat) (s : State) : Host.Outcome State Fault Refusal :=
  s.happens (fun s => s.fetchMay core fn line) fun s =>
    match s.lineWanters core fn line with
    | [] => s
    | t :: more =>
      let (s, a) := s.ask fn (line * 128) 3 (s.requester t)
      let s := match a with
        | .go _ =>
          let s := s.farRead fn (line * 128) 128
          let bs := s.quadBytes (quadOf core) fn (line * 128) 128
          let ws := (List.range 32).map fun i => wordOf ((bs.drop (4 * i)).take 4)
          (s.modCore core fun c => { c with icode := Tab.set [] c.icode (s.keyOf fn (line * 128)) ws }).drawn
        | _ => s
      (t :: more).foldl (fun s t => (s.modThread t fun th =>
        { th with splits := th.splits.map fun sp => if s.wantsLine t sp fn line then sp.fetched t.isSluice a else sp }).unpark t) s

/-! ## Traps that strike at a boundary (16 R315, R324, R325, R327) -/

/-- A load or an atomic of a thread that fills a port waits on a page fault. -/
def State.portOnPage (s : State) (t : Tid) (p : ResPort) : Bool :=
  let fn := (s.block t.core t.ctx).fn
  match p with
  | .agq => (s.core t.core).atoms.any fun e =>
      e.tid == t && e.kind == 1 && e.lanes.any fun l => l.stage == 0 && (s.pageFault fn l.addr).isSome
  | _ => match loadPortOf p with
    | some (.lg, _) => (s.thread t).lg.entries.any fun e =>
        e.lanes.any fun l => !l.arrived && [l.addr, l.addr + widthBytes e.width - 1].any fun x => (s.pageFault fn x).isSome
    | _ => false

/-- A split is in the Basin, or parked on a page fault: that of its own bundle's page, and, of a Sluice context, which has no place to leave
(05 R108), that of its store or RED, of its code, or of what its bundle reads (16 R325). -/
def State.parkedOnPage (s : State) (t : Tid) (sp : Split) : Bool :=
  sp.place == .basin || sp.page.isSome
    || (t.isSluice && (!sp.owes.isEmpty || sp.want.any (fun a => (s.pageFault (s.block t.core t.ctx).fn (s.codeAddr t a)).isSome)
        || sp.parked.any fun x => s.portOnPage t x.1))

/-- The watchdog of a split has run out (16 R325): it has issued nothing for the core's period; `i` counts the split
table's entries. A half that waits at a JOIN counts from its JOIN bundle. -/
def State.watchdogOver (s : State) (t : Tid) (i : Nat) : Bool :=
  let th := s.thread t
  let sp := th.split i
  let period := (s.core t.core).watchdog
  let old (since : Nat) : Bool := period ≠ 0 && since + period ≤ s.clk
  let halves := th.joins.any fun j => j.used && j.arrived ≠ 0#32 && old j.first
  th.live && s.running t && (s.block t.core t.ctx).leaseWait.isNone && !th.dbgStop && !(s.core t.core).stopped
    && th.pending.all (fun p => p.cause != 0x11)
    && ((sp.live && !sp.stopped && !s.parkedOnPage t sp && old sp.lastIssue)
      || (halves && i = th.liveSplits.headD 0))

/-- WATCHDOG_EXPIRY (07 R132, 16 R325): at handler level it is unrecoverable (16 R329). -/
def execWatchdogExpiry (t : Tid) (i : Nat) (s : State) : Host.Outcome State Fault Refusal :=
  s.happens (fun s => s.watchdogOver t i) fun s =>
    if (s.thread t).level then s.endWorkGroup t.core t.ctx else s.modThread t fun th => th.pend { cause := 0x11, tval := 0#32, telem := 0 }

/-- Firmware steps a split-table entry that is not live (16 R327). -/
def State.stepsNothing (s : State) (t : Tid) : Bool :=
  let c := s.core t.core
  let th := s.thread t
  c.dbgctl.bit 0 && c.dbgctl.bits 12 8 = t.slot && th.live && !(th.split (c.dbgctl.bits 14 13)).live
    && (t.ctx = 0 || !(s.thread { t with ctx := 0 }).live)

/-- The trap that strikes a thread at the present boundary, none of its splits between two parts of a bundle; a task overrun waits for no
switch (04 R85). What is pending strikes at task level; a step of an entry that is not live strikes at either level (16 R327, R329). -/
def State.boundaryTrap (s : State) (t : Tid) : Option PendingTrap :=
  let th := s.thread t
  if !th.live || th.dbgStop || !s.running t || s.resuming t.core t.ctx || (s.core t.core).stopped || th.occupied = 0#32
      || th.splits.any (fun sp => sp.live && (sp.rill || (sp.switch_.isSome && th.pending.all fun p => p.cause != 0x16))) then none
  else if s.stepsNothing t then some { cause := 0x0C, tval := 0#32, telem := 0 }
  else if th.level then none
  else th.nextPending

/-- TAKE_TRAP (16 R315): a pending trap strikes; its split is the lowest live one. A timer or an external event that meets TVEC 0 is discarded
(16 R325). -/
def execTakeTrap (t : Tid) (i cause : Nat) (tval : Word) (telem : Nat) (s : State) : Host.Outcome State Fault Refusal :=
  let p : PendingTrap := { cause := cause, tval := tval, telem := telem }
  s.happens (fun s => s.boundaryTrap t = some p && (s.thread t).firstSplit = i) fun s =>
    let s := if s.stepsNothing t then s.modCore t.core fun c => { c with dbgctl := c.dbgctl &&& ~~~1#32 } else s
    let s := s.modThread t fun th => { th with pending := th.pending.erase p }
    if (cause = 0x0D || cause = 0x0E) && (s.block t.core t.ctx).tvec = 0#32 then s
    else s.takeTrap t i { cause := cause, tval := tval, telem := telem, tepc := ((s.thread t).split i).pc }

/-- Pends an event at a thread; one whose TVEC is 0 discards it (16 R325). -/
def State.pendEvent (s : State) (t : Tid) (cause : Nat) (v : Word) : State :=
  if (s.block t.core t.ctx).tvec = 0#32 then s
  else if (s.thread t).live then s.pendAt t { cause := cause, tval := v, telem := 0 } else s

/-- TIMER_EVENT (16 R325). -/
def execTimerEvent (cores : List Nat) (s : State) : Host.Outcome State Fault Refusal :=
  s.happens (fun _ => true) fun s =>
    (cores.flatMap s.coreThreads).foldl (fun s t => s.pendEvent t 0x0D 0#32) s

/-- EXTERNAL_EVENT (16 R325). -/
def execExternalEvent (target : EventTarget) (v : Word) (s : State) : Host.Outcome State Fault Refusal :=
  s.happens (fun _ => true) fun s =>
    match target with
    | .warp c x w => s.pendEvent { core := c, ctx := x, slot := w } 0x0E v
    | .sluice c x => s.pendEvent (sluiceOf c x) 0x0E v
    | .allWarps c x => (s.blockWarps c x).foldl (fun s t => s.pendEvent t 0x0E v) s

/-- DBGCTL_WRITE (16 R326). -/
def execDbgctlWrite (core : Nat) (w : Word) (s : State) : Host.Outcome State Fault Refusal :=
  s.happens (fun _ => true) fun s => s.modCore core fun c =>
    { c with dbgctl := w &&& 0x7F07#32 }

/-- DEBUG_RESUME (16 R327). -/
def execDebugResume (core : Nat) (s : State) : Host.Outcome State Fault Refusal :=
  s.happens (fun _ => true) fun s =>
    (s.coreThreads core).foldl (fun s t => s.modThread t fun th => { th with dbgStop := false })
      (s.modCore core fun c => { c with stopped := false })

/-! ## What firmware writes into cores (05 R109, 10 R193) -/

/-- GRANTED_LEVEL_WRITE (05 R109): one cycle for every named core. -/
def execGrantedLevelWrite (cores : List Nat) (level : Nat) (s : State) : Host.Outcome State Fault Refusal :=
  s.happens (fun _ => level < 3) fun s => cores.foldl (fun s c => s.modCore c fun x => { x with level := w32 level }) s

/-- MXMODE_WRITE (10 R193): equal values in the four cores of a quad; a window length outside 64 to 1,024 is none. Binding a
pair clears planes that belong to another function (15 R286). -/
def execMxmodeWrite (quad : Nat) (mode win : Word) (s : State) : Host.Outcome State Fault Refusal :=
  s.happens (fun _ => 64 ≤ win.bits 10 0 && win.bits 10 0 ≤ 1024) fun s =>
    let s := (List.range 4).foldl (fun s i => s.modCore (quad * 4 + i) fun c =>
      { c with mxmode := mode &&& 0x3D#32, mxwin := win &&& 0x7FF#32 }) s
    if mode.bit 0 then s.modQuad quad fun q => { q with
      planeA := Plane.empty, planeB := Plane.empty, latchA := Plane.empty, latchB := Plane.empty, active := Plane.empty, shadow := Plane.empty, latched := false } else s

end Sys2Proof.Machine
end

