-- ==== Sys2Proof/Machine/Arrival.lean ====
section
/-! DEFINITION. Loads after their trigger (11 R221 to R225, R228, R235): when a lane's data may arrive, where it is read, and
with what fault. A lane reads each sector that it touches at one instant (R227). -/

namespace Sys2Proof.Machine

/-! ## Order within a warp (11 R235) -/

/-- An own load of some of the bytes, earlier than `seq`, has not been read. -/
def State.ownReadBefore (s : State) (t : Tid) (p : LoadPort) (seq a n : Nat) : Bool :=
  ((s.thread t).queuesOf p).any fun q => q.entries.any fun e =>
    e.seq < seq && e.lanes.any fun l => !l.arrived && (l.todo (widthBytes e.width)).any fun x => spansMeet x.1 x.2 a n

/-! ## What a global read finds -/

/-- A byte as a core's load finds it: in its L1, where that is used and holds the line, else in the quad cache. -/
def State.hitByte (s : State) (core fn a : Nat) (useL1 : Bool) : Byte × Bool :=
  match s.l1Line core (s.keyOf fn a), useL1 with
  | some l, true => (l.bytes.getD (a % 128) 0#8, l.poison.getLsbD (a % 128 / 32))
  | _, _ => (s.quadByte (quadOf core) fn a, s.quadPoison (quadOf core) fn a)

/-- A line is read anew: the L1 drops its copy and takes the quad cache's, where that is coherent (11 R223; log 16). -/
def State.reloadL1 (s : State) (core fn a : Nat) (h : Hint) : State :=
  let key := s.keyOf fn a
  if s.inQuad (quadOf core) fn a then
    (s.modCore core fun c => { c with l1 := c.l1.filter fun l => l.key != key }).fillL1 core fn a h
  else s

/-- A thread that reads, by a load issued at `seq`, a line of which some agent does not see every byte yet has observed what it holds (13
R257). -/
def State.observe (s : State) (t : Tid) (seq fn a n : Nat) : State :=
  let keys := (s.keysOf fn a n).filter (s.unpublished (quadOf t.core))
  if keys.isEmpty then s else s.modThread t fun th => th.observes seq keys

/-- The outcome of one lane's load. -/
structure Got where
  bytes : List Byte
  poison : Bool
  cause : Nat
deriving DecidableEq, Repr

/-- The pages of an access. -/
def accessPages (a n : Nat) : List Nat := [a, a + n - 1].map (· / 4096) |>.eraseDups

/-- Asks for each page of an access; the first that does not go on decides. -/
def State.askAll (s : State) (fn access : Nat) (who : Requester) : List Nat → State × Option (Option Nat)
  | [] => (s, none)
  | a :: rest =>
    match s.ask fn a access who with
    | (s, .go _) => s.askAll fn access who rest
    | (s, .waits) => (s, some none)
    | (s, .fails c) => (s, some (some c))

/-- The addresses at which an access meets its pages: its first byte, and the first byte of its second page. -/
def pageStarts (a n : Nat) : List Nat := (accessPages a n).map fun p => max a (p * 4096)

/-- Every page of an access may be asked for. -/
def State.mayAskAll (s : State) (fn access die a n : Nat) : Bool :=
  (pageStarts a n).all fun x => s.mayAsk fn x die || (s.ready fn x access && !s.pathHeld die (s.homeOf fn x))

/-- Some page of an access ends in a fault now. -/
def State.failsNow (s : State) (fn access a n : Nat) (spec : Bool) : Bool :=
  (pageStarts a n).any fun x => s.endsNow fn access x spec

/-- Whether the range of an address is uncached (14 R265). -/
def State.isUncached (s : State) (fn a : Nat) : Bool := (s.rangeOf fn a).valid && (s.rangeOf fn a).uncached

/-! ## Objects and lines read at their home -/

/-- The live object that holds a line (14 R278): one of the same function, or of another that names the line by the same tag. -/
def State.objectOf (s : State) (fn addr : Nat) : Option ObjEntry :=
  (s.die (s.homeOf fn addr)).objs.find? fun o =>
    o.live && o.lo ≤ addr && addr ≤ o.hi && (o.fn == fn || s.tagOf o.fn addr == s.tagOf fn addr)

/-- The key under which a line's directory entry stands: its own, or that of its object's first line. -/
def State.dirKey (s : State) (fn key : Nat) : Nat :=
  match s.objectOf fn (keyAddr key) with
  | some o => s.keyOf fn o.lo
  | none => key

/-- The slot of a line's protocol. -/
def State.slotOf (s : State) (fn addr : Nat) : Nat := (s.rangeOf fn addr).slot

/-- A line is read at its home, uncached: an uncached range, or a line of WON that has not been written (14 R274). -/
def State.readsAtHome (s : State) (fn a : Nat) : Bool :=
  s.isUncached fn a
    || (s.slotOf fn a = 3 && (s.dirOf (s.homeOf fn a) (s.dirKey fn (s.keyOf fn a))).state = 0)

/-! ## LOAD_DATA_ARRIVAL -/

/-- A load in a thread's queues, and one of its lanes. -/
def Thread.findLoad (th : Thread) (p : LoadPort) (seq l : Nat) : Option (LoadEntry × LoadLane) :=
  (((th.queuesOf p).flatMap (·.entries)).find? fun e => e.seq == seq).bind fun e => (e.lane l).map fun x => (e, x)

/-- Changes a lane of a load in the queue that holds it. -/
def LoadQ.modLane (q : LoadQ) (seq l : Nat) (f : LoadLane → LoadLane) : LoadQ :=
  { q with entries := q.entries.map fun e => if e.seq = seq then
      { e with lanes := e.lanes.map fun x => if x.lane = l then f x else x } else e }

/-- Changes a lane of a load, set aside or not. -/
def Thread.modLoad (th : Thread) (p : LoadPort) (seq l : Nat) (f : LoadLane → LoadLane) : Thread :=
  let th := th.setLoads p ((th.loads p).modLane seq l f)
  { th with aside := th.aside.map fun (a : Aside) => match p with
      | .ls => { a with ls := a.ls.modLane seq l f }
      | .lg => { a with lg := a.lg.modLane seq l f }
      | .lw => { a with lw := a.lw.modLane seq l f } }

/-- A scratch read. -/
def State.scratchGot (s : State) (x n : Nat) : Got :=
  let core := x / 2 ^ 20
  let a := x % 2 ^ 20
  let bad := (List.range n).any fun i => Tab.get false (s.core core).scratchPoison ((a + i) / 4)
  { bytes := s.scratchBytes core a n, poison := false, cause := if bad then 0x13 else 0 }

/-- A weight-store read (11 R224): beyond the store's last byte a free value. -/
def State.weightGot (s : State) (die x n : Nat) : Got :=
  let byte (i : Nat) : Byte := if x + i < 2 ^ 28 then memGet (s.die die).ws (x + i) else Config.freeByte (s.draws * 2 ^ 57 + x + i)
  let bad := (List.range n).any fun i => Tab.get false (s.die die).wsPoison ((x + i) / 32)
  { bytes := (List.range n).map byte, poison := false, cause := if bad then 0x13 else 0 }

/-- A load takes its bytes of a line from the core's L1: by choice, or because the quad cache has not all of them. The bytes of one access come
from one of the two, so that it never sees part of a write (13 R255). -/
def State.fromL1 (s : State) (core fn a n : Nat) (choice : Bool) : Bool := choice || !s.allInQuad (quadOf core) fn a n

/-- A global read that hits. -/
def State.globalGot (s : State) (core fn a n : Nat) (useL1 : Bool) : Got :=
  let bs := (List.range n).map fun i => s.hitByte core fn (a + i) useL1
  { bytes := bs.map (·.1), poison := false, cause := if bs.any (·.2) then 0x13 else 0 }

/-- A global read at its home; the quad's own local bytes come first. -/
def State.homeGot (s : State) (core fn a n : Nat) : Got :=
  let byte (x : Nat) : Byte :=
    let ln := s.qline (quadOf core) (s.keyOf fn x)
    if ln.lmask.getLsbD (x % 128) then ln.lbytes.getD (x % 128) 0#8 else s.homeByte fn x
  { bytes := (List.range n).map fun i => byte (a + i), poison := false,
    cause := if (List.range n).any fun i => s.homePoison fn (a + i) then 0x13 else 0 }

/-- LDGS turns every fault into poison (11 R223). -/
def Got.speculate (g : Got) (spec : Bool) : Got := if spec && g.cause ≠ 0 then { g with poison := true, cause := 0 } else g

/-- What a lane receives: words of its bytes; free words where it received none (11 R228; log 41). -/
def State.deliver (s : State) (e : LoadEntry) (x : LoadLane) (g : Got) : LoadLane :=
  { x with
    arrived := true, poison := g.poison, cause := g.cause,
    vals := if g.cause = 0 && !g.poison then loadWords e.width g.bytes
            else (List.range (widthWords e.width)).map fun j => Config.freeWord (s.draws * 4096 + x.lane * 4 + j) }

/-- One access of a lane may be made now, as far as its own thread's other accesses to the bytes are concerned (11 R235). -/
def State.partReady (s : State) (t : Tid) (p : LoadPort) (seq : Nat) (x : Nat × Nat) : Bool :=
  (p == .lw || !s.ownWriteBefore t (p == .lg) seq x.1 x.2) && !s.ownReadBefore t p seq x.1 x.2

/-- One access of a lane finds its data, or its fault, now. -/
def State.partMay (s : State) (t : Tid) (p : LoadPort) (e : LoadEntry) (l : LoadLane) (x : Nat × Nat) : Bool :=
  let fn := (s.block t.core t.ctx).fn
  s.partReady t p e.seq x && match p with
    | .ls => true
    | .lw => l.served
    | .lg =>
      (if s.readsAtHome fn x.1 then s.mayAskAll fn 0 (dieOf t.core) x.1 x.2 else s.hits t.core fn x.1 x.2)
        || s.failsNow fn 0 x.1 x.2 e.spec

/-- The accesses of a lane that may be made now: those that still have to be, where the thread's earlier acquires have completed (13
R258). -/
def State.partsMay (s : State) (t : Tid) (p : LoadPort) (seq l : Nat) : List (Nat × Nat) :=
  match (s.thread t).findLoad p seq l with
  | none => []
  | some (e, x) =>
    if x.arrived || !(s.thread t).live || !(s.thread t).acquiredBefore seq then []
    else (x.todo (widthBytes e.width)).filter (s.partMay t p e x)

/-- A lane of a load may receive some of its data, or its fault, now. -/
def State.arrivalMay (s : State) (t : Tid) (p : LoadPort) (seq l : Nat) : Bool := !(s.partsMay t p seq l).isEmpty

/-- What an access of a global load finds; none where it waits on. -/
def State.globalArrival (s : State) (t : Tid) (e : LoadEntry) (a n : Nat) : State × Option Got :=
  let fn := (s.block t.core t.ctx).fn
  let fault (c : Nat) : Got := { bytes := [], poison := false, cause := c }
  if !s.readsAtHome fn a && s.hits t.core fn a n && !(pageStarts a n).any (fun x => s.rightRefused fn x 0) then
    let useL1 := s.fromL1 t.core fn a n (Config.choice s.draws % 2 = 0)
    let g := s.globalGot t.core fn a n useL1
    let s := if useL1 then s else s.reloadL1 t.core fn a e.hint
    (s.observe t e.seq fn a n, some g)
  else if e.spec && s.failsNow fn 0 a n true then (s, some (fault 7))
  else match s.askAll fn 0 (s.requester t) (pageStarts a n) with
    | (s, none) => if s.readsAtHome fn a then ((s.farRead fn a n).observe t e.seq fn a n, some (s.homeGot t.core fn a n)) else (s, none)
    | (s, some none) => (s, none)
    | (s, some (some c)) => (s, some (fault c))

/-- What one access of a lane finds. -/
def State.readPart (s : State) (t : Tid) (p : LoadPort) (e : LoadEntry) (x : Nat × Nat) : State × Option Got :=
  match p with
  | .ls => (s, some (s.scratchGot x.1 x.2))
  | .lw => (s, some (s.weightGot (dieOf t.core) x.1 x.2))
  | .lg => s.globalArrival t e x.1 x.2

/-- A lane with one more of its accesses made: its data arrives with the last one, or with a fault or poison. -/
def State.withPart (s : State) (e : LoadEntry) (l : LoadLane) (x : Nat × Nat) (g : Got) : LoadLane :=
  let g := g.speculate e.spec
  let bytes := match l.part with
    | none => g.bytes
    | some (true, hi) => g.bytes ++ hi
    | some (false, lo) => lo ++ g.bytes
  if g.cause ≠ 0 || g.poison || (l.todo (widthBytes e.width)).length ≤ 1 then s.deliver e l { g with bytes := bytes }
  else { l with part := some (x.1 ≠ l.addr, g.bytes) }

/-- An access of a lane brings what it found. -/
def State.deliverPart (s : State) (t : Tid) (p : LoadPort) (e : LoadEntry) (l : Nat) (x : Nat × Nat) (g : Got) : State :=
  (s.modThread t fun th => th.modLoad p e.seq l fun y => s.withPart e y x g).drawn.unpark t

/-- LOAD_DATA_ARRIVAL (11 R222, R227, R228, R235): the data of one lane of a load arrives; of an access that crosses a sector boundary one
part, and which of the two is free. `i` is the load's number in its thread's order. -/
def execLoadDataArrival (t : Tid) (p : LoadPort) (i l : Nat) (s : State) : Host.Outcome State Fault Refusal :=
  s.happens (fun s => s.arrivalMay t p i l) fun s =>
    let parts := s.partsMay t p i l
    match (s.thread t).findLoad p i l, parts[Config.choice s.draws % parts.length]? with
    | some (e, _), some x =>
      let s := if parts.length ≤ 1 then s else s.drawn
      match s.readPart t p e x with
      | (s, some g) => s.deliverPart t p e l x g
      | (s, none) => s
    | _, _ => s

/-! ## The weight store's refresh (11 R225) -/

/-- The bank that refreshes now. -/
def State.refreshing (s : State) : Nat := s.clk % 65536 / 1024

/-- The bytes touch the refreshing bank. -/
def State.wsHeld (s : State) (x n : Nat) : Bool := wsBank x == s.refreshing || wsBank (x + n - 1) == s.refreshing

/-- A weight-store access may be served now. -/
def State.serveMay (s : State) (t : Tid) (seq l : Nat) : Bool :=
  match (s.thread t).findLoad .lw seq l with
  | some (e, x) => !x.arrived && !x.served && !s.wsHeld x.addr (widthBytes e.width)
  | none => false

/-- WS_BANK_SERVE (11 R225): an access whose banks do not refresh is served; its data arrives later. -/
def execWsBankServe (t : Tid) (i l : Nat) (s : State) : Host.Outcome State Fault Refusal :=
  s.happens (fun s => s.serveMay t i l) fun s =>
    s.modThread t fun th => th.modLoad .lw i l fun x => { x with served := true }

end Sys2Proof.Machine
end

