-- ==== Sys2Proof/Machine/Special.lean ====
section
/-! DEFINITION. The special functions of the S unit (09 R178, R179): each the exact function value rounded once to
nearest even. The roots and the reciprocal are exact; the others are formed with 640 fraction bits, far beyond what any
fp32 argument needs to decide the rounding, and their exact cases are taken apart (log 9). -/

namespace Sys2Proof.Machine

/-- Fraction bits of the fixed-point numbers. -/
def fixBits : Nat := 640

/-- One in fixed point. -/
def fixOne : Nat := 2 ^ fixBits

/-- Product of two fixed-point numbers. -/
def fixMul (a b : Nat) : Nat := a * b / fixOne

/-- The sum over k < n of `x^(2k+1) / (2k+1)`, alternating where `alt`, for `x = 1 / d`. -/
def atanSeries (d : Nat) (alt : Bool) : Nat → Nat → Int → Int → Int
  | 0, _, _, acc => acc
  | n + 1, k, p, acc =>
    let term := p / (2 * k + 1 : Nat)
    atanSeries d alt n (k + 1) (p / (d * d : Nat)) (if alt && k % 2 == 1 then acc - term else acc + term)

/-- ln 2 = 2 atanh(1/3). -/
def fixLn2 : Nat := (2 * atanSeries 3 false 210 0 (fixOne / 3 : Nat) 0).toNat

/-- pi = 16 atan(1/5) - 4 atan(1/239). -/
def fixPi : Nat := (16 * atanSeries 5 true 145 0 (fixOne / 5 : Nat) 0 - 4 * atanSeries 239 true 45 0 (fixOne / 239 : Nat) 0).toNat

/-- The sum of `x^k / k!` from term `k` on, `n` terms. -/
def expSeries (x : Nat) : Nat → Nat → Nat → Nat → Nat
  | 0, _, _, acc => acc
  | n + 1, k, p, acc => expSeries x n (k + 1) (fixMul p x / (k + 1)) (acc + p)

/-- e^x for x in [0, 1). -/
def fixExp (x : Nat) : Nat := expSeries x 140 0 fixOne 0

/-- Alternating series of sin (`k0` 1) or cos (`k0` 0) of an angle below 2. -/
def trigSeries (x2 : Nat) : Nat → Nat → Int → Int → Int
  | 0, _, _, acc => acc
  | n + 1, k, p, acc => trigSeries x2 n (k + 2) (-(p * x2 / (fixOne * ((k + 1) * (k + 2))))) (acc + p)

/-- sin of a fixed-point angle in [0, 2). -/
def fixSin (x : Nat) : Nat := (trigSeries (fixMul x x) 100 1 x 0).toNat

/-- cos of a fixed-point angle in [0, 2). -/
def fixCos (x : Nat) : Nat := (trigSeries (fixMul x x) 100 0 fixOne 0).toNat

/-- The sum of `z^(2k+1) / (2k+1)`. -/
def atanhSeries (z2 : Nat) : Nat → Nat → Nat → Nat → Nat
  | 0, _, _, acc => acc
  | n + 1, k, p, acc => atanhSeries z2 n (k + 1) (fixMul p z2) (acc + p / (2 * k + 1))

/-- ln of a fixed-point number in [1, 2): 2 atanh((x - 1) / (x + 1)). -/
def fixLn (x : Nat) : Nat :=
  let z := (x - fixOne) * fixOne / (x + fixOne)
  2 * atanhSeries (fixMul z z) 210 0 z 0

/-- A fixed-point number `m * 2^e`, truncated. -/
def toFix (m : Nat) (e : Int) : Nat :=
  if 0 ≤ e + fixBits then m * 2 ^ (e + fixBits).toNat else m / 2 ^ (-(e + fixBits)).toNat

/-- Rounds an irrational fixed-point result to fp32, nearest even. -/
def fixRound (neg : Bool) (m : Nat) (e : Int) : Rounded := fp32.roundSticky .rn neg m (e - fixBits) true

/-- The exact number 1.0 with a sign. -/
def oneBits (neg : Bool) : Nat := fp32.signBit neg + 0x3F800000

/-- The integer square root, by Newton steps from above. -/
def isqrtIter (n : Nat) : Nat → Nat → Nat
  | 0, x => x
  | k + 1, x => let y := (x + n / x) / 2
                if y < x then isqrtIter n k y else x

/-- The integer square root. -/
def isqrt (n : Nat) : Nat := if n = 0 then 0 else isqrtIter n 200 (2 ^ (Nat.log2 n / 2 + 1))

/-- RCP (09 R179). -/
def sRcp (t : Nat) : Rounded :=
  match fp32.unpack t with
  | .nan s => fp32.nan s
  | .inf n => { bits := fp32.signBit n, raised := 0#5 }
  | .num n m e =>
    if m = 0 then { bits := fp32.signBit n + fp32.infBits, raised := flagDz }
    else fp32.roundSticky .rn n (2 ^ 64 / m) (-64 - e) (2 ^ 64 % m != 0)

/-- SQRT (09 R179). -/
def sSqrt (t : Nat) : Rounded :=
  match fp32.unpack t with
  | .nan s => fp32.nan s
  | .inf n => if n then fp32.nan true else { bits := fp32.infBits, raised := 0#5 }
  | .num n m e =>
    if m = 0 then { bits := fp32.signBit n, raised := 0#5 }
    else if n then fp32.nan true
    else
      let (m', e') := if e % 2 = 0 then (m * 2 ^ 64, e - 64) else (m * 2 ^ 65, e - 65)
      let r := isqrt m'
      fp32.roundSticky .rn false r (e' / 2) (r * r != m')

/-- RSQ (09 R179): the reciprocal of the root, from the root of `2^k / m`. -/
def sRsq (t : Nat) : Rounded :=
  match fp32.unpack t with
  | .nan s => fp32.nan s
  | .inf n => if n then fp32.nan true else { bits := 0, raised := 0#5 }
  | .num n m e =>
    if m = 0 then { bits := fp32.signBit n + fp32.infBits, raised := flagDz }
    else if n then fp32.nan true
    else
      let k : Nat := if e % 2 = 0 then 200 else 201
      let x := 2 ^ k / m
      let r := isqrt x
      fp32.roundSticky .rn false r ((-e - k) / 2) (r * r * m != 2 ^ k)

/-- 2^(n + f) with f in [0, 1), as mantissa and exponent. -/
def sEx2 (t : Nat) : Rounded :=
  match fp32.unpack t with
  | .nan s => fp32.nan s
  | .inf n => { bits := if n then 0 else fp32.infBits, raised := 0#5 }
  | .num n m e =>
    let x : Int := (if n then -1 else 1) * (toFix m (min e 16) : Int)
    let whole := max (-400) (min 400 (x / fixOne))
    let frac := (x % fixOne).toNat
    if frac = 0 then fp32.roundNum .rn false 1 whole
    else fixRound false (fixExp (fixMul frac fixLn2)) whole

/-- LG2 (09 R179). -/
def sLg2 (t : Nat) : Rounded :=
  match fp32.unpack t with
  | .nan s => fp32.nan s
  | .inf n => if n then fp32.nan true else { bits := fp32.infBits, raised := 0#5 }
  | .num n m e =>
    if m = 0 then { bits := fp32.signBit true + fp32.infBits, raised := flagDz }
    else if n then fp32.nan true
    else
      let k := Nat.log2 m
      let whole : Int := e + k
      if m = 2 ^ k then
        if whole = 0 then { bits := 0, raised := 0#5 } else fp32.roundNum .rn (whole < 0) whole.natAbs 0
      else
        let v : Int := whole * (fixOne : Int) + (fixLn (toFix m (-(k : Int))) * fixOne / fixLn2 : Nat)
        fixRound (v < 0) v.natAbs 0

/-- sin or cos of `2 pi t` (09 R179): the turn is reduced exactly, then to a quarter. -/
def sTurn (cos : Bool) (t : Nat) : Rounded :=
  match fp32.unpack t with
  | .nan s => fp32.nan s
  | .inf _ => fp32.nan true
  | .num n m e =>
    let turn := toFix m (min e 0) % fixOne
    let turn := if 0 < e then 0 else turn
    let quarter := fixOne / 4
    let quad := turn / quarter
    let r := turn % quarter
    let neg := if cos then quad == 1 || quad == 2 else n != (2 ≤ quad)
    let useCos := cos != (quad % 2 == 1)
    if r = 0 then
      if useCos then { bits := oneBits neg, raised := 0#5 }
      else { bits := if cos then 0 else fp32.signBit n, raised := 0#5 }
    else
      let angle := fixMul r (2 * fixPi)
      fixRound neg (if useCos then fixCos angle else fixSin angle) 0

/-- TANH (09 R179): (e^2t - 1) / (e^2t + 1); from 16 on the value lies between 1 and its lower neighbour. -/
def sTanh (t : Nat) : Rounded :=
  match fp32.unpack t with
  | .nan s => fp32.nan s
  | .inf n => { bits := oneBits n, raised := 0#5 }
  | .num n m e =>
    if m = 0 then { bits := fp32.signBit n, raised := 0#5 }
    else
      let x := toFix m (min e 10)
      if 16 * fixOne ≤ x then fixRound n (fixOne - 1) 0
      else
        let k := 2 * x / fixLn2
        let big := fixExp (2 * x - k * fixLn2) * 2 ^ k
        fixRound n ((big - fixOne) * fixOne / (big + fixOne)) 0

end Sys2Proof.Machine
end

