-- ==== Sys2Proof/Machine/Convert.lean ====
section
/-! DEFINITION. The special functions of S (09 R178, R179) and the conversions of V (09 R180 to R186). -/

namespace Sys2Proof.Machine

/-! ## S -/

/-- A warp of the core has triggered S less than 4 cycles ago (02 R22, 09 R178). -/
def State.specialBusy (s : State) : Bool := s.clk < s.selfCore.sFree

/-- A warp's S trigger holds back the next one of the core for 4 cycles; a Sluice context's holds back none, as the rule counts those of warps
(DEDUCED; log 65). -/
def State.holdSpecial (s : State) : State :=
  if s.cur.tid.isSluice then s else s.modCore s.cur.tid.core fun c => { c with sFree := s.clk + 4 }

/-- The parts of a special function: it reads t alone; latency 12; its flags go to FSTAT alone. -/
def specialAction (h : Head) (op : Nat → Rounded) : Action :=
  Action.trigger h { ops := [], t := true, wide := false }
    { Action.idle with
      waits := fun s => s.flightsFull 1 || s.specialBusy
      takes := flying 1
      effect := fun s =>
        let m := s.guard h.guard
        (s.launchFlight 4 m (fun l => w32 (op (s.trig h l).toNat).bits) (fun _ => 0#4)
          (raisedOver m fun l => (op (s.trig h l).toNat).raised) 12).holdSpecial }

/-- RCP (09 R179). -/
def execRcp (h : Head) (s : State) : Host.Outcome State Fault Refusal := (specialAction h sRcp).outcome s

/-- RSQ (09 R179). -/
def execRsq (h : Head) (s : State) : Host.Outcome State Fault Refusal := (specialAction h sRsq).outcome s

/-- SQRT (09 R179). -/
def execSqrt (h : Head) (s : State) : Host.Outcome State Fault Refusal := (specialAction h sSqrt).outcome s

/-- EX2 (09 R179). -/
def execEx2 (h : Head) (s : State) : Host.Outcome State Fault Refusal := (specialAction h sEx2).outcome s

/-- LG2 (09 R179). -/
def execLg2 (h : Head) (s : State) : Host.Outcome State Fault Refusal := (specialAction h sLg2).outcome s

/-- SINR (09 R179). -/
def execSinr (h : Head) (s : State) : Host.Outcome State Fault Refusal := (specialAction h (sTurn false)).outcome s

/-- COSR (09 R179). -/
def execCosr (h : Head) (s : State) : Host.Outcome State Fault Refusal := (specialAction h (sTurn true)).outcome s

/-- TANH (09 R179). -/
def execTanh (h : Head) (s : State) : Host.Outcome State Fault Refusal := (specialAction h sTanh).outcome s

/-! ## Element formats (09 R181) -/

/-- The floating format with a code. -/
def floatOf : Nat → Option Fmt
  | 0 => some fp32
  | 1 => some fp16
  | 2 => some bf16
  | _ => none

/-- Signedness and width of the integer format with a code 0x3 to 0xA. -/
def intOf (code : Nat) : Bool × Nat :=
  (code % 2 == 1, match code with
    | 3 | 4 => 32
    | 5 | 6 => 16
    | 7 | 8 => 8
    | _ => 4)

/-- The range of an integer format. -/
def intRange (sg : Bool) (w : Nat) : Int × Int := if sg then (-(2 ^ (w - 1)), 2 ^ (w - 1) - 1) else (0, 2 ^ w - 1)

/-- The integer that a word holds in a format. -/
def intIn (sg : Bool) (w : Nat) (x : Word) : Int :=
  let n := x.toNat % 2 ^ w
  if sg && 2 ^ (w - 1) ≤ n then (n : Int) - 2 ^ w else n

/-- An integer's low bits, placed in a word (09 R181). -/
def intPlace (sg : Bool) (w : Nat) (x : Int) : Word :=
  let n := (x % 2 ^ w).toNat
  if sg then sextNat w n else w32 n

/-- A V result with its flags (09 R171). -/
def vOut (q : Word) (zero v : Bool) (raised : BitVec 5) : UnitOut :=
  { q := q, fl := packFlags (q.bit 31) zero false v, raised := raised }

/-- A rounded float result of CVT: with `sat`, an overflow gives the largest finite value (09 R183). -/
def floatOut (f : Fmt) (sat neg : Bool) (r : Rounded) : UnitOut :=
  if sat && r.raised &&& flagOf ≠ 0#5 then vOut (w32 (f.signBit neg + f.infBits - 1)) false true r.raised
  else vOut (w32 r.bits) (f.isZero r.bits) false r.raised

/-- An integer result of CVT: in range, or clamped, or its low bits (09 R183). -/
def intOut (sg : Bool) (w : Nat) (sat : Bool) (x : Int) (inexact out : BitVec 5) : UnitOut :=
  let (lo, hi) := intRange sg w
  if lo ≤ x && x ≤ hi then vOut (intPlace sg w x) (x == 0) false inexact
  else
    let q := if sat then intPlace sg w (max lo (min hi x)) else intPlace sg w x
    vOut q (q == 0#32) true out

/-- CVT (09 R183) under a legal control word. -/
def opCvt (a _ t : Word) : UnitOut :=
  let sat := a.bit 10
  let rm := rmOf (a.bits 9 8)
  let dst := a.bits 7 4
  let src := a.bits 3 0
  match floatOf src with
  | some f =>
    match f.unpack (t.toNat % 2 ^ f.width), floatOf dst with
    | .nan g, some d => vOut (w32 d.nanBits) false false (if g then flagIv else 0#5)
    | .inf n, some d => vOut (w32 (d.signBit n + d.infBits)) false false 0#5
    | .num n m e, some d =>
      if m = 0 then vOut (w32 (d.signBit n)) true false 0#5 else floatOut d sat n (d.roundNum rm n m e)
    | .num n m e, none =>
      let (k, nx) := roundAt rm n m e 0
      intOut (intOf dst).1 (intOf dst).2 sat (if n then -(k : Int) else k) (if nx then flagNx else 0#5) flagIv
    | _, none => vOut 0#32 true true flagIv
  | none =>
    let x := intIn (intOf src).1 (intOf src).2 t
    match floatOf dst with
    | some d => if x = 0 then vOut 0#32 true false 0#5
                else floatOut d sat (x < 0) (d.roundNum rm (x < 0) x.natAbs 0)
    | none => intOut (intOf dst).1 (intOf dst).2 sat x 0#5 0#5

/-- A control word that CVT rejects (09 R182). -/
def cvtBad (a : Word) : Bool := a.bits 31 11 ≠ 0 || 10 < a.bits 7 4 || 10 < a.bits 3 0

/-- QNT to an integer format (09 R184): true division, one rounding to nearest even. -/
def opQnt (sg : Bool) (w : Nat) (a _ t : Word) : UnitOut :=
  let (lo, hi) := intRange sg w
  let bound (neg : Bool) (raised : BitVec 5) : UnitOut :=
    let x := if neg then lo else hi
    vOut (intPlace sg w x) (x == 0) true raised
  let invalid := vOut 0#32 true true flagIv
  match fp32.unpack t.toNat, fp32.unpack a.toNat with
  | .nan _, _ => invalid
  | _, .nan _ => invalid
  | .inf _, .inf _ => invalid
  | .inf n, .num k m _ => if m = 0 then bound (n != k) (flagDz ||| flagNx) else bound (n != k) flagNx
  | .num _ _ _, .inf _ => vOut 0#32 true false 0#5
  | .num n x e, .num k y f =>
    if y = 0 then (if x = 0 then invalid else bound (n != k) (flagDz ||| flagNx))
    else
      let num := x * 2 ^ (e - f).toNat
      let den := y * 2 ^ (f - e).toNat
      let q := num / den
      let r := num % den
      let q' := if 2 * r > den || (2 * r == den && q % 2 == 1) then q + 1 else q
      let v : Int := if n != k then -(q' : Int) else q'
      if v < lo || hi < v then bound (n != k) flagNx
      else vOut (intPlace sg w v) (v == 0) false (if r = 0 then 0#5 else flagNx)

/-- DQN (09 R185): a signed integer times a scale, rounded once. -/
def opDqn (a _ t : Word) : UnitOut :=
  let r := fp32.prod .rn (.num (t.toInt < 0) t.toInt.natAbs 0) (fp32.unpack a.toNat)
  vOut (w32 r.bits) (fp32.isZero r.bits) false r.raised

/-- One half of PKH or PKB: an fp32 value rounded to a 16-bit format (09 R186). -/
def narrow (f : Fmt) (x : Word) : Rounded :=
  match fp32.unpack x.toNat with
  | .nan g => f.nan g
  | .inf n => { bits := f.signBit n + f.infBits, raised := 0#5 }
  | .num n m e => if m = 0 then { bits := f.signBit n, raised := 0#5 } else f.roundNum .rn n m e

/-- PKH and PKB (09 R186). -/
def opPack (f : Fmt) (a _ t : Word) : UnitOut :=
  let lo := narrow f a
  let hi := narrow f t
  vOut (w32 (lo.bits + 65536 * hi.bits)) (f.isZero lo.bits && f.isZero hi.bits) false (lo.raised ||| hi.raised)

/-! ## V -/

/-- What a V operation gives in a lane. -/
def State.convLane (s : State) (h : Head) (op : Word → Word → Word → UnitOut) (l : Nat) : UnitOut :=
  op (s.oper .va l) 0#32 (s.trig h l)

/-- The parts of a conversion; latency 4. `own` is its own check. -/
def convAction (h : Head) (own : State → Option TrapRec) (op : Word → Word → Word → UnitOut) : Action :=
  Action.trigger h { ops := [.va], t := true, wide := false }
    { Action.idle with
      waits := fun s => s.flightsFull 1
      takes := flying 1
      own := own
      effect := fun s =>
        let m := s.guard h.guard
        s.launchFlight 5 m (fun l => (s.convLane h op l).q) (fun l => (s.convLane h op l).fl)
          (raisedOver m fun l => (s.convLane h op l).raised) 4 }

/-- CVT's check of its control word (09 R182): the lowest lane that breaks it. -/
def cvtCheck (h : Head) (s : State) : Option TrapRec :=
  ((lanesOf (s.guard h.guard)).find? fun l => cvtBad (s.oper .va l)).map fun l => s.before 0x02 (s.oper .va l)

/-- CVT (09 R182, R183). -/
def execCvt (h : Head) (s : State) : Host.Outcome State Fault Refusal := (convAction h (cvtCheck h) opCvt).outcome s

/-- QNT.s8 (09 R184). -/
def execQntS8 (h : Head) (s : State) : Host.Outcome State Fault Refusal :=
  (convAction h (fun _ => none) (opQnt true 8)).outcome s

/-- QNT.n8 (09 R184). -/
def execQntN8 (h : Head) (s : State) : Host.Outcome State Fault Refusal :=
  (convAction h (fun _ => none) (opQnt false 8)).outcome s

/-- QNT.s4 (09 R184). -/
def execQntS4 (h : Head) (s : State) : Host.Outcome State Fault Refusal :=
  (convAction h (fun _ => none) (opQnt true 4)).outcome s

/-- QNT.n4 (09 R184). -/
def execQntN4 (h : Head) (s : State) : Host.Outcome State Fault Refusal :=
  (convAction h (fun _ => none) (opQnt false 4)).outcome s

/-- QNT.s16 (09 R184). -/
def execQntS16 (h : Head) (s : State) : Host.Outcome State Fault Refusal :=
  (convAction h (fun _ => none) (opQnt true 16)).outcome s

/-- DQN (09 R185). -/
def execDqn (h : Head) (s : State) : Host.Outcome State Fault Refusal :=
  (convAction h (fun _ => none) opDqn).outcome s

/-- PKH (09 R186). -/
def execPkh (h : Head) (s : State) : Host.Outcome State Fault Refusal :=
  (convAction h (fun _ => none) (opPack fp16)).outcome s

/-- PKB (09 R186). -/
def execPkb (h : Head) (s : State) : Host.Outcome State Fault Refusal :=
  (convAction h (fun _ => none) (opPack bf16)).outcome s

end Sys2Proof.Machine
end

