-- ==== Sys2Proof/Machine/Shape.lean ====
section
/-! DEFINITION. Shape records (10 R196, R197; 12 R242): their fields, what SHP refuses (10 R198), how large rows and tensors
are, and where an element lies (09 R187, R188). A record is its 8 words. -/

namespace Sys2Proof.Machine

/-- A shape record. -/
abbrev Rec := List Word

def Rec.w (r : Rec) (i : Nat) : Word := r.getD i 0#32
def Rec.companion (r : Rec) : Bool := (Rec.w r 0).bits 31 28 == 0xA
def Rec.kind (r : Rec) : Nat := (Rec.w r 0).bits 3 0
def Rec.hasCompanion (r : Rec) : Bool := (Rec.w r 0).bit 16
def Rec.rank (r : Rec) : Nat := (Rec.w r 0).bits 15 14 + 1
def Rec.object (r : Rec) : Bool := (Rec.w r 0).bit 13
def Rec.sparse (r : Rec) : Bool := (Rec.w r 0).bit 12
def Rec.planes (r : Rec) : Nat := (Rec.w r 0).bits 11 8
def Rec.format (r : Rec) : Nat := (Rec.w r 0).bits 7 4
def Rec.space (r : Rec) : Nat := (Rec.w r 0).bits 3 0
def Rec.base (r : Rec) : Nat := (Rec.w r 1).toNat + (Rec.w r 2).toNat * 2 ^ 32

/-- Dimension `i`, 0 to 3. -/
def Rec.dim (r : Rec) (i : Nat) : Nat :=
  match i with
  | 0 => (Rec.w r 3).bits 15 0
  | 1 => (Rec.w r 3).bits 31 16
  | 2 => (Rec.w r 4).bits 15 0
  | _ => (Rec.w r 4).bits 31 16

/-- A dimension, with those beyond the rank counted as 1. -/
def Rec.extent (r : Rec) (i : Nat) : Nat := if i < Rec.rank r then Rec.dim r i else 1

/-- Byte stride `i`, 1 to 3. -/
def Rec.stride (r : Rec) (i : Nat) : Nat := (Rec.w r (4 + i)).toNat

/-- The bits of an element (09 R181, R187). -/
def formatBits : Nat → Nat
  | 0 | 3 | 4 => 32
  | 1 | 2 | 5 | 6 => 16
  | 7 | 8 => 8
  | 9 | 10 => 4
  | 12 => 48
  | _ => 0

/-- The bytes of one row of d0 elements (10 R196, 09 R188). -/
def Rec.rowBytes (r : Rec) : Nat :=
  if Rec.format r = 11 then Rec.planes r * Rec.dim r 0 / 8 else (Rec.dim r 0 * formatBits (Rec.format r) + 7) / 8

/-- The rows of a tensor. -/
def Rec.rows (r : Rec) : Nat := Rec.extent r 1 * Rec.extent r 2 * Rec.extent r 3

/-- The address of row `i`, rows counted with d1 fastest (12 R240). -/
def Rec.rowAddr (r : Rec) (i : Nat) : Nat :=
  let e1 := Rec.extent r 1
  let e2 := Rec.extent r 2
  Rec.base r + (if 1 < Rec.rank r then i % e1 * Rec.stride r 1 else 0)
    + (if 2 < Rec.rank r then i / e1 % e2 * Rec.stride r 2 else 0)
    + (if 3 < Rec.rank r then i / (e1 * e2) * Rec.stride r 3 else 0)

/-- The bytes that one row of a record covers: a sparse column holds half its elements and a metadata block (10 R200). -/
def Rec.coverBytes (r : Rec) : Nat :=
  if Rec.format r = 11 && Rec.sparse r then Rec.planes r * Rec.dim r 0 / 16 + Rec.dim r 0 / 8 else Rec.rowBytes r

/-- The last byte that a record covers, counted from its base (14 R279). -/
def Rec.lastByte (r : Rec) : Nat :=
  (List.range 3).foldl (fun a i =>
    if i + 1 < Rec.rank r then a + (Rec.dim r (i + 1) - 1) * Rec.stride r (i + 1) else a) (Rec.coverBytes r - 1)

/-- A dimension or stride beyond the rank is not zero, or a reserved field, space, format or planes value is bad. -/
def Rec.mainBad (r : Rec) : Bool :=
  (Rec.w r 0).bits 31 17 ≠ 0 || 3 < Rec.space r || 0xC < Rec.format r
    || (if Rec.format r = 11 then Rec.planes r < 2 || 8 < Rec.planes r else Rec.planes r ≠ 0)
    || (List.range 4).any (fun i => Rec.rank r ≤ i && Rec.dim r i ≠ 0)
    || (List.range 3).any (fun i => Rec.rank r ≤ i + 1 && Rec.stride r (i + 1) ≠ 0)

/-- What SHP refuses of an unfold record (10 R197, R198). -/
def Rec.unfoldBad (r : Rec) : Bool :=
  (Rec.w r 0).bits 27 4 ≠ 0 || (Rec.w r 4).bits 31 9 ≠ 0 || (List.range 3).any (fun i => Rec.w r (5 + i) ≠ 0#32)
    || (List.range 4).any (fun i => (Rec.w r 1).bits (8 * i + 7) (8 * i) = 0)
    || (Rec.w r 2).bits 15 8 = 0 || (Rec.w r 2).bits 7 0 = 0

/-- What SHP refuses of an index list (12 R242). -/
def Rec.listBad (r : Rec) : Bool :=
  (Rec.w r 0).bits 27 10 ≠ 0 || (Rec.w r 3).bits 31 16 ≠ 0 || (List.range 4).any (fun i => Rec.w r (4 + i) ≠ 0#32)

/-- What SHP refuses (10 R198). -/
def Rec.bad (r : Rec) : Bool :=
  if Rec.companion r then
    match Rec.kind r with
    | 1 => Rec.unfoldBad r
    | 2 => Rec.listBad r
    | _ => true
  else Rec.mainBad r

/-- A block's record in a slot. -/
def Block.shape (b : Block) (slot : Nat) : Rec := b.shapes.getD slot (List.replicate 8 0#32)

/-! ## Progress registers (07 R136) -/

/-- The progress register that a tag-taking command takes: the lowest free, else the one done for the longest time. -/
def Block.freeProgress (b : Block) : Option Nat :=
  match (List.range 8).find? fun i => (b.progress.getD i Progress.free).state == 0 with
  | some i => some i
  | none => (List.range 8).foldl (fun best i =>
      let p := b.progress.getD i Progress.free
      if p.state ≠ 2 then best
      else match best with
        | none => some i
        | some j => if p.doneAt < (b.progress.getD j Progress.free).doneAt then some i else some j) none

/-- The progress registers that tag-taking commands may take. -/
def Block.spareProgress (b : Block) : Nat := (b.progress.filter fun p => p.state == 0 || p.state == 2).length

/-- The tag of the block's next command (07 R136): 0 is skipped. -/
def Block.nextTag (b : Block) : Nat := if (b.engCount + 1) % 2 ^ 24 = 0 then 1 else (b.engCount + 1) % 2 ^ 24

/-- The register that holds a tag, if it is not free. -/
def Block.progressOf (b : Block) (tag : Nat) : Option Nat :=
  (List.range 8).find? fun i => let p := b.progress.getD i Progress.free; p.state ≠ 0 && p.tag == tag

/-- Bits [31:0] of a progress register (07 R136). -/
def Progress.low (p : Progress) : Word := w32 (p.state * 2 ^ 24 + p.pass % 256 * 2 ^ 16 + p.next % 2 ^ 16)

end Sys2Proof.Machine
end

