-- ==== Sys2Proof/Machine/Command.lean ====
section
/-! DEFINITION. Issuing engine commands (07 R136; 10 R202; 12 R236): progress registers and tags, the result port that a
trigger takes over, the notify byte, and what MXQ and CPQ read. -/

namespace Sys2Proof.Machine

/-- The result port of an engine port: 0 MX.q, 1 CP0.q, 2 CP1.q. -/
def enginePort : Nat → ResPort
  | 0 => .mxq
  | 1 => .cp0q
  | _ => .cp1q

/-- The operand ports a and b of an engine port. -/
def engineA : Nat → OpPort
  | 0 => .mxa
  | 1 => .cp0a
  | _ => .cp1a

def engineB : Nat → OpPort
  | 0 => .mxb
  | 1 => .cp0b
  | _ => .cp1b

/-- A trigger empties the context's result port and takes it over for a command's tag; tag 0 stands for a result that
comes with the trigger itself (10 R202). -/
def Thread.takePort (th : Thread) (port tag : Nat) : Thread :=
  let p := enginePort port
  let th := th.setAwaiting p (BitVec.allOnes 32)
  { th with owners := Tab.set 0 th.owners (p.code * 32) tag, fills := th.fills.filter fun f => f.port != p,
            filled := Tab.erase th.filled p.code }

/-- The port takes a result in the cycle after issue (10 R205, R213). -/
def State.answerNext (s : State) (port : Nat) (v : Word) : State :=
  s.modThread s.cur.tid fun th =>
    let th := th.takePort port 0
    { th with fills := th.fills ++ [{ port := enginePort port, mask := BitVec.allOnes 32, vals := lanes32 fun _ => v,
                                      due := s.clk + 1, late := false }] }

/-- A tag-taking trigger waits for a progress register beside those that its bundle's other triggers take (07 R136), and while the queue of
its engine holds 16 commands. -/
def State.commandWaits (s : State) (engine : Nat) : Bool :=
  let t := s.cur.tid
  s.selfBlock.spareProgress ≤ s.cur.takes.cmds
    || 16 ≤ (s.cmds.filter fun c => c.engine == engine && c.stage == 0
        && (if engine = 0 then quadOf c.core == quadOf t.core else c.core == t.core)).length

/-- The bits of a notify byte that are reserved (10 R201). -/
def notifyBad (v : Word) : Bool := v.bit 29

/-- A command as it is issued. -/
def State.newCommand (s : State) (engine opcode : Nat) (a b v : Word) (recs : List Rec) : Cmd :=
  let t := s.cur.tid
  let k := s.selfBlock
  { core := t.core, ctx := t.ctx, slot := t.slot, engine := engine, opcode := opcode,
    a := a, b := b, t := v, tag := k.nextTag, pr := k.freeProgress.getD 0, fn := k.fn, lid := k.lid, sbase := k.scratchBase,
    ssize := k.scratchSize, recs := recs, mask := k.bandMask, wtag := 0, stage := 0, cause := 0, flags := [], scales := [],
    ctl := [], parties := [], inbox := [], shape := s.selfCore.ashape.bits 1 0, fault := none, tseq := s.self.seq,
    sent := none, parkAt := none, ended := false, since := s.clk, array := none, resumed := false, seen := s.observedLines t, orphan := none }

/-- The command descriptor of a command with the weight tag of word 4, which a matrix command alone has (07 R143). -/
def Cmd.descriptor (c : Cmd) (wtag : Nat) : List Word :=
  [w32 (c.engine + c.opcode * 2 ^ 8 + c.slot % 32 * 2 ^ 16 + (c.slot == 32).toNat * 2 ^ 21), c.a, c.b, c.t,
   w32 (if c.engine = 0 then wtag else 0), 0#32, 0#32, 0#32]

/-- What an engine command takes of what its bundle's triggers share. -/
def oneCommand (_ : State) : Takes := { Takes.none_ with cmds := 1 }

/-- The block takes the command's tag and progress register (07 R136). -/
def Block.take (b : Block) (c : Cmd) (state doneAt : Nat) : Block :=
  { b with engCount := c.tag,
           progress := b.progress.set c.pr { tag := c.tag, cause := 0, state := state, pass := 0, next := 0, doneAt := doneAt } }

/-- The scope at which a command's writes are performed when it completes (12 R245): a pooled region's for a record that lies in one, else
core scope, which takes in the block's. -/
def Cmd.completionScope (c : Cmd) (twin : Bool) : Nat := if c.recs.any fun r => Rec.space r = 3 then (if twin then 6 else 5) else 3

/-- Issues a command: its fork is a release at its completion scope (13 R263). -/
def State.issueCommand (s : State) (c : Cmd) : State :=
  let s := s.release s.cur.tid (c.completionScope s.selfBlock.twin)
  let s := s.modBlock c.core c.ctx fun b => b.take c 1 0
  { (s.modThread s.cur.tid fun th => { th.takePort c.engine c.tag with seq := th.seq + 1 }) with cmds := s.cmds ++ [c] }

/-- The command that a tag names in a block, parked or faulted by its progress register, on an engine that satisfies a predicate. -/
def State.resumable (s : State) (core ctx tag : Nat) (engine : Nat → Bool) : Option Cmd :=
  s.cmds.find? fun c =>
    c.of core ctx && c.tag == tag && engine c.engine && 3 ≤ ((s.block core ctx).progress.getD c.pr Progress.free).state

/-- Resumes a command under its own tag (07 R140): a matrix command that a save has parked goes to the back of the array's commands (10 R204),
any other keeps its place (12 R239, 16 R339), and the result goes to the port that resumed it. A parked party of a collective goes on with
the others (07 R147). -/
def State.resumeCommand (s : State) (c : Cmd) (port : Nat) : State :=
  let party := c.engine ≠ 0 && (c.opcode = 3 || c.opcode = 4) && c.stage = 3
  let c' := { c with stage := if party then 3 else 0, cause := 0, fault := none, resumed := c.engine = 0 && c.stage = 3 }
  let others := s.cmds.filter fun d => !c.same d
  let cmds := if c.engine = 0 && c.stage = 3 then others ++ [c']
    else s.cmds.map fun d => if c.same d then c' else d
  let s := s.modBlock c.core c.ctx fun b =>
    let p := b.progress.getD c.pr Progress.free
    { b with progress := b.progress.set c.pr { p with state := 1, cause := 0 } }
  { (s.modThread s.cur.tid fun th => th.takePort port c.tag) with cmds := cmds }

/-- Bits [31:0] of the block's progress register with a tag; 0 where none has it (10 R213, 12 R244). -/
def State.queryTag (s : State) (tag : Nat) : Word :=
  match s.selfBlock.progressOf tag with
  | some i => Progress.low (s.selfBlock.progress.getD i Progress.free)
  | none => 0#32

/-- A split-wide engine trigger; `takes` says whether it takes a tag. -/
def engineAction (h : Head) (ops : List OpPort) (readsT : Bool) (waits : State → Bool) (takes : State → Takes)
    (lease own : State → Option TrapRec) (effect : State → State) : Action :=
  Action.trigger h { ops := ops, t := readsT, wide := true }
    { Action.idle with waits := waits, takes := takes, lease := lease, own := own, effect := effect }

end Sys2Proof.Machine
end

