-- ==== Sys2Proof/Machine/Cascade.lean ====
section
/-! DEFINITION. The matrix instructions at their issue (10 R191 to R214): the lease, the checks of R203, MXA, MXQ, MXR, and
the commands that the Cascade then runs. -/

namespace Sys2Proof.Machine

/-! ## Shapes of the array -/

/-- Logical columns of a shape (10 R191). -/
def columnsOf (shape : Nat) : Nat := 128 / 2 ^ shape

/-- The chain of a shape. -/
def chainOf (shape : Nat) : Nat := 2 ^ shape

/-- The depth of one pass (10 R192). -/
def depthOf (shape p : Nat) (sparse : Bool) : Nat := 256 * chainOf shape * (8 / p) * (if sparse then 2 else 1)

/-! ## The lease (10 R194, R195) -/

/-- A counted command from a block that may not trigger it takes trap 0x14. -/
def leaseCheck (s : State) : Option TrapRec :=
  let t := s.cur.tid
  let m := s.selfCore.mxmode
  let ok := if m.bit 0 then t.core % 4 == m.bits 5 4 || t.core % 4 == m.bits 3 2
    else (s.quad (quadOf t.core)).leaseHolder == some (t.core, t.ctx)
  if ok then none else some (s.trapWord 0x14)

/-- A counted command has been triggered: the lease ends when its count reaches 0. -/
def State.countLease (s : State) : State :=
  if s.selfCore.mxmode.bit 0 then s
  else s.modQuad (quadOf s.cur.tid.core) fun q =>
    if q.leaseLeft ≤ 1 then { q with leaseHolder := none, leaseLeft := 0, leaseFree := s.clk + 1 }
    else { q with leaseLeft := q.leaseLeft - 1 }

/-! ## Checks (10 R201, R203) -/

/-- The first value of a list that is refused. -/
def firstBad (s : State) (xs : List (Bool × Nat × Word)) : Option TrapRec :=
  (xs.find? (·.1)).map fun x => s.before x.2.1 x.2.2

/-- Rows that do not all lie within the block's claim. -/
def State.rowsOut (s : State) (r m : Nat) : Bool :=
  let c := s.selfBlock.claim
  r < c.1 || c.1 + c.2 < r + m

/-- The count M of rows: 1 to 512. -/
def rowsBad (v : Word) : Bool := v.bits 10 0 = 0 || 512 < v.bits 10 0

/-- The record in a slot of the issuing block. -/
def State.rec_ (s : State) (slot : Nat) : Rec := s.selfBlock.shape slot

/-- A record in weight-store space on a part without a weight store. -/
def State.storeAbsent (s : State) (r : Rec) : Bool :=
  !Rec.companion r && Rec.space r = 2 && !s.pack.variant.hasStore

/-- MXW's record check (10 R206). -/
def weightBad (r : Rec) (p slice shape : Nat) : Bool :=
  Rec.companion r || Rec.format r ≠ 11 || Rec.rank r ≠ 2 || Rec.planes r < p || Rec.dim r 1 = 0
    || columnsOf shape < Rec.dim r 1 || Rec.dim r 0 = 0 || Rec.dim r 0 % (if Rec.sparse r then 64 else 32) ≠ 0
    || 2 < shape || Rec.dim r 0 ≤ slice * depthOf shape p (Rec.sparse r)

/-- MXW's checks. -/
def mxwCheck (h : Head) (s : State) : Option TrapRec :=
  let a := s.leadOper h .mxa
  let b := s.leadOper h .mxb
  let v := s.lead h
  let p := a.bits 11 8
  let r := s.rec_ (a.bits 5 0)
  firstBad s
    [(a.bits 31 12 ≠ 0 || a.bits 7 6 ≠ 0 || p < 2 || 8 < p, 0x02, a), (b.bits 31 16 ≠ 0, 0x02, b),
     (notifyBad v || v.bits 23 16 ≠ 0, 0x02, v),
     (weightBad r p (v.bits 15 0) (s.selfCore.ashape.bits 1 0), 0x09, w32 (a.bits 5 0)),
     (s.storeAbsent r, 0x15, s.cur.word)]

/-- MXW (10 R206): a command of the load path. -/
def execMxw (h : Head) (s : State) : Host.Outcome State Fault Refusal :=
  (engineAction h [.mxa, .mxb] true (fun s => s.commandWaits 0) oneCommand leaseCheck (mxwCheck h) fun s =>
    let a := s.leadOper h .mxa
    (s.issueCommand (s.newCommand 0 0 a (s.leadOper h .mxb) (s.lead h) [s.rec_ (a.bits 5 0)])).countLease).outcome s

/-- MXS's check. -/
def mxsCheck (h : Head) (s : State) : Option TrapRec :=
  let v := s.lead h
  firstBad s [(notifyBad v || v.bits 23 0 ≠ 0, 0x02, v)]

/-- MXS (10 R207). -/
def execMxs (h : Head) (s : State) : Host.Outcome State Fault Refusal :=
  (engineAction h [] true (fun s => s.commandWaits 0) oneCommand leaseCheck (mxsCheck h) fun s =>
    (s.issueCommand (s.newCommand 0 1 0#32 0#32 (s.lead h) [])).countLease).outcome s

/-- The rows and the inner dimension of an A operand (10 R199): M_A and K_A. -/
def operandShape (r c : Rec) : Nat × Nat :=
  if Rec.rank r = 2 then (Rec.dim r 1, Rec.dim r 0)
  else ((Rec.w c 3).bits 15 0 * (Rec.w c 3).bits 31 16, (Rec.w c 1).bits 7 0 * (Rec.w c 1).bits 15 8 * Rec.dim r 0)

/-- MXG's record check (10 R199, R208): a plain record, or a rank-3 record with an unfold record in the next slot. That
the rank-3 record's word 0 bit 16 must say so is the model's reading: 10 R199 asks for the next slot's record alone (DESIGN CHOICE; log 75). -/
def activationBad (r c : Rec) (m0 m : Nat) : Bool :=
  let f := Rec.format r
  let unfold := Rec.rank r = 3 && Rec.hasCompanion r && Rec.companion c && Rec.kind c = 1
  let (rows, k) := operandShape r c
  Rec.companion r || f < 7 || 10 < f || !(Rec.space r = 0 || Rec.space r = 3) || !(Rec.rank r = 2 || unfold)
    || rows < m0 + m || k = 0 || (9 ≤ f && Rec.dim r 0 % 2 ≠ 0)

/-- MXG's checks. -/
def mxgCheck (h : Head) (s : State) : Option TrapRec :=
  let a := s.leadOper h .mxa
  let b := s.leadOper h .mxb
  let v := s.lead h
  let i := a.bits 5 0
  firstBad s
    [(a.bits 31 6 ≠ 0, 0x02, a), (b.bits 31 26 ≠ 0, 0x02, b),
     (notifyBad v || v.bits 23 17 ≠ 0 || v.bits 15 11 ≠ 0 || rowsBad v, 0x02, v),
     (s.rowsOut (b.bits 25 16) (v.bits 10 0), 0x08, b),
     (activationBad (s.rec_ i) (s.rec_ (i + 1)) (b.bits 15 0) (v.bits 10 0), 0x09, w32 i)]

/-- MXG (10 R208). -/
def execMxg (h : Head) (s : State) : Host.Outcome State Fault Refusal :=
  (engineAction h [.mxa, .mxb] true (fun s => s.commandWaits 0) oneCommand leaseCheck (mxgCheck h) fun s =>
    let a := s.leadOper h .mxa
    let i := a.bits 5 0
    (s.issueCommand (s.newCommand 0 2 a (s.leadOper h .mxb) (s.lead h) [s.rec_ i, s.rec_ (i + 1)])).countLease).outcome s

/-- MXD's record check (10 R211). -/
def drainBad (r : Rec) (m0 m : Nat) : Bool :=
  let f := Rec.format r
  Rec.companion r || !([0, 1, 2, 5, 7, 8, 9, 10].contains f) || !(Rec.space r = 0 || Rec.space r = 1 || Rec.space r = 3)
    || Rec.rank r ≠ 2 || 128 < Rec.dim r 0 || Rec.dim r 0 = 0 || Rec.dim r 1 < m0 + m || (9 ≤ f && Rec.dim r 0 % 2 ≠ 0)

/-- MXD's checks. -/
def mxdCheck (h : Head) (s : State) : Option TrapRec :=
  let a := s.leadOper h .mxa
  let b := s.leadOper h .mxb
  let v := s.lead h
  firstBad s
    [(a.bits 31 19 ≠ 0, 0x02, a), (b.bits 31 26 ≠ 0, 0x02, b),
     (notifyBad v || v.bits 23 16 ≠ 0 || v.bit 11 || rowsBad v, 0x02, v),
     (s.rowsOut (b.bits 25 16) (v.bits 10 0), 0x08, b),
     (s.selfBlock.scratchSize < a.bits 18 6 * 64 + 512, 0x08, a),
     (drainBad (s.rec_ (a.bits 5 0)) (b.bits 15 0) (v.bits 10 0), 0x09, w32 (a.bits 5 0))]

/-- MXD (10 R211). -/
def execMxd (h : Head) (s : State) : Host.Outcome State Fault Refusal :=
  (engineAction h [.mxa, .mxb] true (fun s => s.commandWaits 0) oneCommand leaseCheck (mxdCheck h) fun s =>
    let a := s.leadOper h .mxa
    (s.issueCommand (s.newCommand 0 3 a (s.leadOper h .mxb) (s.lead h) [s.rec_ (a.bits 5 0)])).countLease).outcome s

/-- MXZ's checks. -/
def mxzCheck (h : Head) (s : State) : Option TrapRec :=
  let b := s.leadOper h .mxb
  let v := s.lead h
  firstBad s
    [(b.bits 31 26 ≠ 0 || b.bits 15 0 ≠ 0, 0x02, b), (notifyBad v || v.bits 23 11 ≠ 0 || rowsBad v, 0x02, v),
     (s.rowsOut (b.bits 25 16) (v.bits 10 0), 0x08, b)]

/-- MXZ (10 R210). -/
def execMxz (h : Head) (s : State) : Host.Outcome State Fault Refusal :=
  (engineAction h [.mxb] true (fun s => s.commandWaits 0) oneCommand leaseCheck (mxzCheck h) fun s =>
    (s.issueCommand (s.newCommand 0 4 0#32 (s.leadOper h .mxb) (s.lead h) [])).countLease).outcome s

/-! ## MXR, MXQ, MXA -/

/-- The command that MXR names. -/
def State.mxrCommand (s : State) (h : Head) : Option Cmd :=
  s.resumable s.cur.tid.core s.cur.tid.ctx (s.lead h).toNat (· == 0)

/-- A core of a pair that is the first one (10 R193). -/
def State.firstOfPair (s : State) (core : Nat) : Bool := core % 4 == (s.core core).mxmode.bits 5 4

/-- The latched weights as a core sees them (10 R195, R207). -/
def State.latchedPlane (s : State) (core : Nat) : Option Plane :=
  let q := s.quad (quadOf core)
  if (s.core core).mxmode.bit 0 then
    let p := if s.firstOfPair core then q.latchA else q.latchB
    if p.filled then some p else none
  else if q.latched then some q.active else none

/-- The latched weights' tag as the core sees it (10 R195, R207). -/
def State.latchedTag (s : State) (core : Nat) : Option Nat :=
  (s.latchedPlane core).map (·.tag)

/-- The plane that MXW loads. -/
def State.loadPlane (s : State) (core : Nat) : Plane :=
  let q := s.quad (quadOf core)
  if (s.core core).mxmode.bit 0 then (if s.firstOfPair core then q.planeA else q.planeB) else q.shadow

/-- The matrix commands of a core's array, oldest first; in paired mode the core's own. -/
def State.arrayCmds (s : State) (core : Nat) : List Cmd :=
  s.cmds.filter fun d => d.engine == 0
    && (if (s.core core).mxmode.bit 0 then d.core == core else quadOf d.core == quadOf core)

/-- The weight tag of a matrix command that has not started (07 R143): of the last MXS before it, done or still to come. -/
def State.expectedTag (s : State) (c : Cmd) : Nat :=
  match ((s.arrayCmds c.core).takeWhile fun d => !c.same d).reverse.dropWhile (fun d => d.opcode != 1) with
  | [] => (s.latchedTag c.core).getD 0
  | _ :: rest => match rest.find? fun d => d.opcode == 0 with
    | some d => d.b.bits 15 0
    | none => (s.loadPlane c.core).tag

/-- MXR's checks (10 R214). -/
def mxrCheck (h : Head) (s : State) : Option TrapRec :=
  let v := s.lead h
  if v.bits 31 24 ≠ 0 then some (s.before 0x02 v)
  else match s.mxrCommand h with
    | none => some (s.before 0x02 v)
    | some c =>
      if c.opcode = 2 && s.latchedTag s.cur.tid.core ≠ some c.wtag then
        some { s.before 0x18 v with telem := (s.selfBlock.progress.getD c.pr Progress.free).next }
      else none

/-- MXR (10 R214): counts against the lease. -/
def execMxr (h : Head) (s : State) : Host.Outcome State Fault Refusal :=
  (engineAction h [] true (fun _ => false) (fun _ => Takes.none_) leaseCheck (mxrCheck h) fun s =>
    match s.mxrCommand h with
    | some c => (s.resumeCommand c 0).countLease
    | none => s).outcome s

/-- A tag value with bits [31:24] set. -/
def tagCheck (h : Head) (s : State) : Option TrapRec :=
  if (s.lead h).bits 31 24 ≠ 0 then some (s.before 0x02 (s.lead h)) else none

/-- MXQ (10 R213). -/
def execMxq (h : Head) (s : State) : Host.Outcome State Fault Refusal :=
  (engineAction h [] true (fun _ => false) (fun _ => Takes.none_) (fun _ => none) (tagCheck h) fun s =>
    s.answerNext 0 (s.queryTag (s.lead h).toNat)).outcome s

/-- The claim that MXA asks for. -/
def State.mxaClaim (s : State) (h : Head) : Nat × Nat :=
  ((s.leadOper h .mxa).bits 25 16, (s.leadOper h .mxa).bits 9 0)

/-- A command of the issuing block's own, on the Cascade, that satisfies a predicate. -/
def State.ownMx (s : State) (p : Cmd → Bool) : Bool :=
  s.cmds.any fun c => c.of s.cur.tid.core s.cur.tid.ctx && c.engine == 0 && p c

/-- A parked or faulted matrix command of the block, over which MXA may not change the claim. -/
def State.mxStuck (s : State) : Bool := s.ownMx fun c => c.stage = 3 || c.stage = 4

/-- MXA waits for a progress register, and, where it changes the claim over no stuck command, until no MXG, MXD or MXZ of the block runs. -/
def mxaWaits (h : Head) (s : State) : Bool :=
  s.commandWaits 0
    || (s.mxaClaim h ≠ s.selfBlock.claim && !s.mxStuck && s.ownMx fun c => 2 ≤ c.opcode && c.opcode ≤ 4 && c.stage < 3)

/-- MXA's checks (10 R201, R205). -/
def mxaCheck (h : Head) (s : State) : Option TrapRec :=
  let a := s.leadOper h .mxa
  let v := s.lead h
  let (f, n) := s.mxaClaim h
  firstBad s
    [(a.bits 31 26 ≠ 0 || a.bits 15 10 ≠ 0 || 512 < n, 0x02, a), (v.bits 31 4 ≠ 0, 0x02, v),
     (512 < f + n, 0x02, a), ((f, n) ≠ s.selfBlock.claim && s.mxStuck, 0x02, a)]

/-- Two row ranges meet. -/
def rowsMeet (a b : Nat × Nat) : Bool := 0 < a.2 && 0 < b.2 && a.1 < b.1 + b.2 && b.1 < a.1 + a.2

/-- Rows meet another block's claim in the quad, or rows that a command of an ended block works on. -/
def State.claimMeets (s : State) (core ctx : Nat) (c : Nat × Nat) : Bool :=
  (s.cmds.any fun d => d.engine == 0 && quadOf d.core == quadOf core && d.orphan.any fun o => rowsMeet c o.claim)
    || s.residents.any fun p => quadOf p.1 == quadOf core && p ≠ (core, ctx) && rowsMeet c (s.block p.1 p.2).claim

/-- Releases the rows of an old claim that a new one does not hold: they are cleared (10 R205). -/
def Quad.release (q : Quad) (old new_ : Nat × Nat) : Quad :=
  (List.range old.2).foldl (fun q i =>
    let r := old.1 + i
    if new_.1 ≤ r && r < new_.1 + new_.2 then q else q.clearRows r 1) q

/-- MXA (10 R205): acts at issue; its answer comes in the cycle after. -/
def execMxa (h : Head) (s : State) : Host.Outcome State Fault Refusal :=
  (engineAction h [.mxa] true (mxaWaits h) oneCommand (fun _ => none) (mxaCheck h) fun s =>
    let t := s.cur.tid
    let powered := (s.quad (quadOf t.core)).powered
    let mask := BitVec.ofNat 4 ((s.lead h).bits 3 0) &&& powered
    let claim := s.mxaClaim h
    let old := s.selfBlock.claim
    let refused := claim ≠ old && s.claimMeets t.core t.ctx claim
    let c := s.newCommand 0 7 (s.leadOper h .mxa) 0#32 (s.lead h) []
    let s := s.modBlock t.core t.ctx fun b =>
      { b.take c 2 s.clk with
        bandMask := mask, claim := if refused then old else claim, descs := b.descs.set c.pr (c.descriptor (s.expectedTag c)) }
    let s := if refused then s else s.modQuad (quadOf t.core) fun q => q.release old claim
    s.answerNext 0 (w32 (refused.toNat * 2 ^ 31 + powered.toNat * 16 + mask.toNat))).outcome s

end Sys2Proof.Machine
end

