-- ==== Sys2Proof/Machine/Protocol.lean ====
section
/-! DEFINITION. The protocol tables (14 R270 to R275): their entries by state and event, for the five built-in slots and the
loaded ones; the verifier (R276, R277). -/

namespace Sys2Proof.Machine

/-- A table entry (14 R271): next state, actions, whether it queues, LE, and whether it is defined. -/
structure Entry where
  next : Nat
  acts : List Nat
  q : Bool
  le : Bool
  ok : Bool
deriving DecidableEq, Repr

/-- An entry with actions that leads to a state. -/
def Entry.go (acts : List Nat) (next : Nat) : Entry := { next := next, acts := acts, q := false, le := false, ok := true }

/-- An entry that queues its event. -/
def Entry.queue (st : Nat) : Entry := { next := st, acts := [], q := true, le := false, ok := true }

/-- A protocol error that keeps its state. -/
def Entry.error (st : Nat) : Entry := { next := st, acts := [18], q := false, le := false, ok := true }

/-- The INV table (14 R273). -/
def invEntry (st ev : Nat) : Entry :=
  match st, ev with
  | 0, 0 => .go [0, 7] 1
  | 0, 1 | 0, 2 => .go [1, 7, 9] 2
  | 0, 3 => .go [2] 0
  | 0, 8 | 0, 9 => .go [13] 0
  | 1, 0 => .go [0, 7] 1
  | 1, 1 | 1, 2 => .go [3, 14] 3
  | 1, 3 => { Entry.go [2, 8] 1 with le := true }
  | 1, 8 | 1, 9 => .go [3, 14] 4
  | 2, 0 => .go [6, 14] 6
  | 2, 1 | 2, 2 => .go [5, 14] 5
  | 2, 3 => .go [2] 2
  | 2, 4 => .go [2, 8, 10, 11] 0
  | 2, 8 | 2, 9 => .go [5, 14] 7
  | 3, 6 => .go [12] 2
  | 4, 6 => .go [12] 0
  | 5, 4 | 5, 7 => .go [8, 10, 11, 12] 2
  | 6, 4 => .go [8, 10, 11, 12] 1
  | 6, 7 => .go [10, 11, 12] 1
  | 7, 4 | 7, 7 => .go [8, 10, 11, 12] 0
  | 3, 4 | 4, 4 | 3, 7 | 4, 7 | 5, 6 | 6, 6 | 7, 6 => .error st
  | 0, _ | 1, _ | 2, _ => .error st
  | _, _ => .queue st

/-- The UPD table (14 R274). -/
def updEntry (st ev : Nat) : Entry :=
  match st, ev with
  | 0, 0 | 1, 0 => .go [0, 7] 1
  | 0, 3 => .go [2] 0
  | 1, 3 => { Entry.go [2, 8] 1 with le := true }
  | 0, 5 => .go [2, 11] 0
  | 1, 5 => .go [4, 11, 14] 2
  | 0, 8 | 0, 9 => .go [13] 0
  | 1, 8 | 1, 9 => .go [4, 13, 14] 2
  | 2, 6 => .go [12] 1
  | 2, 4 | 2, 7 => .error st
  | 2, _ => .queue st
  | _, _ => .error st

/-- The MIG table (14 R274): INV without its shared states; a read miss is taken as an ownership request. -/
def migEntry (st ev : Nat) : Entry :=
  match st, ev with
  | 0, 0 | 2, 0 | 5, 0 | 7, 0 => invEntry st 1
  | _, _ => invEntry st ev

/-- The WON table (14 R274). -/
def wonEntry (st ev : Nat) : Entry :=
  match st, ev with
  | 0, 0 => .go [0, 17] 0
  | 1, 0 | 2, 0 => .go [0, 7] 2
  | 0, 3 | 1, 3 => .go [2] st
  | 2, 3 => .go [2, 8] 2
  | 0, 5 | 1, 5 => .go [2, 11] 1
  | 0, 8 | 0, 9 | 1, 8 | 1, 9 => .go [13] 1
  | _, _ => .error st

/-- The TOK table (14 R274, R275): lines 0 to 2; the token's record 8 free, 9 held, 10 passing. -/
def tokEntry (st ev : Nat) : Entry :=
  match st, ev with
  | 0, 0 | 1, 0 => .go [0, 7] 1
  | 0, 3 => .go [2] 0
  | 1, 3 => { Entry.go [2, 8] 1 with le := true }
  | 0, 5 => .go [2, 11] 0
  | 1, 5 => .go [3, 11, 14] 2
  | 0, 9 => .go [13] 0
  | 1, 9 => .go [3, 14] 2
  | 2, 6 => .go [12] 0
  | 2, 4 | 2, 7 => .error st
  | 2, _ => .queue st
  | 8, 10 => .go [15] 9
  | 9, 10 => .go [14, 16] 10
  | 10, 11 => .go [12] 9
  | 10, _ => .queue st
  | _, _ => .error st

/-- The entry that a word of an image holds (14 R271). -/
def entryOfWord (w : Word) : Entry :=
  { next := w.bits 31 28, acts := (List.range 20).filter fun k => w.bit (8 + k), q := w.bit 6, le := w.bit 5, ok := w.bit 7 }

/-- The entry of a slot's table. -/
def State.entry (s : State) (slot st ev : Nat) : Entry :=
  match slot with
  | 0 => invEntry st ev
  | 1 => updEntry st ev
  | 2 => migEntry st ev
  | 3 => wonEntry st ev
  | 4 => tokEntry st ev
  | _ =>
    let e := entryOfWord (s.image slot (16 + st * 24 + ev))
    if e.ok then e else .error st

/-- The request that a read miss makes of a table (14 R274 MIG). -/
def missKind (slot : Nat) : Nat := if slot = 2 then 1 else 0

/-! ## The verifier (14 R277) -/

/-- An entry of an image. -/
def imageEntry (ws : List Word) (st ev : Nat) : Entry := entryOfWord (ws.getD (16 + st * 24 + ev) 0#32)

/-- The class of a state (14 R270). -/
def imageClass (ws : List Word) (st : Nat) : Nat := (ws.getD 1 0#32).bits (2 * st + 1) (2 * st)

/-- Every state and event below the counts. -/
def stateEvents (n m : Nat) : List (Nat × Nat) := (List.range n).flatMap fun s => (List.range m).map fun e => (s, e)

/-- Check 0x01: the header. -/
def headerCodeBad (ws : List Word) : Bool :=
  let w := ws.getD 0 0#32
  w.bits 23 21 ≠ 0 || (List.range 14).any (fun i => ws.getD (2 + i) 0#32 ≠ 0#32) || w.bits 25 24 = 3 || w.bits 20 16 = 0
    || (w.bit 26 && !w.bit 27)

/-- Check 0x02: reserved bits, and entries beyond the counts. -/
def reservedCodeBad (ws : List Word) (n : Nat) : Bool :=
  (stateEvents 16 24).any fun p =>
    let w := ws.getD (16 + p.1 * 24 + p.2) 0#32
    w.bits 4 0 ≠ 0 || w.bit 27 || ((n ≤ p.1 || 12 ≤ p.2) && w ≠ 0#32)

/-- Check 0x05: single writer. -/
def writerCodeBad (ws : List Word) (n : Nat) : Bool :=
  (stateEvents n 12).any fun p =>
    let e := imageEntry ws p.1 p.2
    let to_ := imageClass ws e.next
    ([1, 15, 9].any e.acts.contains && to_ ≠ 2) || e.acts.contains 4
      || (to_ = 2 && imageClass ws p.1 = 1 && e.next ≠ p.1 && !e.q && !e.acts.contains 3 && !e.acts.contains 5)

/-- The events whose arrival an entry awaits: the end of a walk, an owner's answer, a holder's drain. -/
def awaitedBy (e : Entry) : List Nat :=
  (if e.acts.contains 3 || e.acts.contains 4 then [6] else []) ++ (if e.acts.contains 5 || e.acts.contains 6 then [7] else [])
    ++ (if e.acts.contains 16 then [11] else [])

/-- An entry ends a request: by GR, SDX or AK. -/
def Entry.ends (e : Entry) : Bool := [12, 1, 2].any e.acts.contains

/-- In a state, what is awaited arrives in whatever order, and one of the next `n` entries ends the request. -/
def chainEnds (ws : List Word) : Nat → Nat → List Nat → Bool
  | 0, _, _ => false
  | n + 1, st, ks => !ks.isEmpty && ks.all fun k =>
      let f := imageEntry ws st k
      f.ends || chainEnds ws n f.next (ks.erase k ++ awaitedBy f)

/-- A request ends within `n` entries (check 0x06): its own entry ends it, or one of those that what it awaits brings; one that queues is
taken again once what its state awaits has arrived. -/
def endsWithin (ws : List Word) : Nat → Nat → Nat → Bool
  | 0, _, _ => false
  | 1, st, ev => (imageEntry ws st ev).ends
  | n + 2, st, ev =>
    let e := imageEntry ws st ev
    let ks := [6, 7, 11].filter fun k => !(imageEntry ws st k).q && !(imageEntry ws st k).acts.contains 18
    e.ends || (if e.q then !ks.isEmpty && ks.all fun k => endsWithin ws n (imageEntry ws st k).next ev
               else chainEnds ws (n + 1) e.next (awaitedBy e))

/-- The verifier's code for an image (14 R277); `inUse` says that a valid range entry names the slot. -/
def verifyCode (ws : List Word) (inUse : Bool) : Nat :=
  let w := ws.getD 0 0#32
  let n := w.bits 31 28 + 1
  let has (ks : List Nat) : Bool := (stateEvents n 12).any fun p => ks.any (imageEntry ws p.1 p.2).acts.contains
  if headerCodeBad ws then 1
  else if reservedCodeBad ws n then 2
  else if (stateEvents n 12).any fun p => !(imageEntry ws p.1 p.2).ok then 3
  else if (stateEvents n 12).any fun p => n ≤ (imageEntry ws p.1 p.2).next then 4
  else if w.bit 27 && writerCodeBad ws n then 5
  else if (stateEvents n 12).any fun p => [1, 2, 5, 10].contains p.2 && !endsWithin ws 4 p.1 p.2 then 6
  else if ((w.bit 19 || w.bit 20) && has [5, 6, 15, 16]) || (w.bits 20 16 ≠ 2 && has [15, 16]) then 7
  else if inUse then 8
  else 0

end Sys2Proof.Machine
end

