-- ==== Sys2Proof/Machine/Coherence.lean ====
section
/-! DEFINITION. The protocol engines of the homes (14 R266 to R275, R280, R281) and the quad caches' side: requests, walks,
recalls, grants, publications, the write token. Requests run their line's table, or, for a line of a live object, the object's
(R278); the table's entry is looked up by the state and the event, and its actions are taken in increasing order. -/

namespace Sys2Proof.Machine

/-! ## Lines that move together (14 R278) -/

/-- The keys of the lines that move with a directory key. -/
def State.group (s : State) (fn dkey : Nat) : List Nat :=
  match s.objectOf fn (keyAddr dkey) with
  | some o => (List.range ((o.hi + 1 - o.lo) / 128)).map (dkey + ·)
  | none => [dkey]

/-- The cells of the local bytes of a line. -/
def QLine.localCells (x : QLine) (key : Nat) : List Host.Cell :=
  (cellsAt (keyAddr key) x.lbytes).filter fun c => x.lmask.getLsbD (c.1 % 128)

/-- Local bytes of an owned line are coherent data at once: they are performed at system scope (14 R267). -/
def State.mergeOwned (s : State) (quad key : Nat) : State :=
  let x := s.qline quad key
  if x.state = 2 && x.lmask ≠ 0#128 then
    (s.setQLine quad key { x with
      bytes := patch (keyAddr key) (x.localCells key) x.bytes, lmask := 0#128, lbytes := [], poison := x.poison &&& ~~~x.heal,
      heal := 0#4 }).linePublished quad key
  else s

/-! ## The sharer list (14 R269) -/

/-- Links a quad at the head. -/
def State.link (s : State) (die dkey quad : Nat) : State :=
  let h := (s.dirOf die dkey).head
  let s := s.modQLine quad dkey fun x => { x with fwd := h.getD 64, bwd := 64 }
  let s := match h with
    | some o => s.modQLine o dkey fun x => { x with bwd := quad }
    | none => s
  s.modDir die dkey fun d => { d with head := some quad }

/-! ## Atomics at a home (11 R230 to R234) -/

/-- An atomic of a core by its number. -/
def State.atomOf (s : State) (core seq : Nat) : Option AtomEntry := (s.core core).atoms.find? fun e => e.seq == seq

/-- Replaces the lanes of an atomic; one without lanes is over. -/
def State.setAtomLanes (s : State) (core seq : Nat) (lanes : List AtomLane) : State :=
  s.modCore core fun c => { c with atoms := c.atoms.filterMap fun e =>
    if e.seq = seq then (if lanes.isEmpty then none else some { e with lanes := lanes }) else some e }

/-- Applies an atomic to one word for the lanes that name it, in increasing order: the word after, and the lanes with what
they found. -/
def applyLanes (op addr stage : Nat) : List AtomLane → Word → Word × List AtomLane
  | [], m => (m, [])
  | l :: rest, m =>
    if l.addr = addr && l.stage = 0 then
      let (m', rest') := applyLanes op addr stage rest (atomicNew op m l.a l.c)
      (m', { l with stage := stage, old := m } :: rest')
    else
      let (m', rest') := applyLanes op addr stage rest m
      (m', l :: rest')

/-- A store or RED is over: no split of its thread waits for it any longer. -/
def State.settleIssuer (s : State) (t : Tid) (seq : Nat) : State :=
  if (s.thread t).splits.any (fun sp => sp.owes.contains seq) then
    (s.modThread t fun th => { th with splits := th.splits.map fun (sp : Split) => { sp with owes := sp.owes.filter (· != seq) } }).unpark t
  else s

/-- Ends the lanes of an atomic at a word: a result on its way, a fault on its way, or, for a RED, done. A fault of a RED
strikes as an event (11 R228). -/
def State.answerAtom (s : State) (core seq addr cause : Nat) (lanes : List AtomLane) (kind : Nat) : State :=
  let here := lanes.filter fun l => l.addr == addr
  if kind = 2 then
    let s := match s.atomOf core seq with
      | some e => if cause = 0 || here.isEmpty then s else s.modThread e.tid fun th =>
          if th.live then th.pend { cause := cause, tval := w32 addr, telem := 0 } else th
      | none => s
    let rest := lanes.filter fun l => l.addr != addr
    match s.atomOf core seq, rest with
    | some e, [] => (s.setAtomLanes core seq []).settleIssuer e.tid seq
    | _, _ => s.setAtomLanes core seq rest
  else s.setAtomLanes core seq (lanes.map fun l => if l.addr = addr then { l with cause := cause } else l)

/-- The completion log of a home slice keeps the results of a core's last 64 remote atomics there (11 R234). -/
def State.logAtom (s : State) (die core seq addr key : Nat) (lanes : List AtomLane) : State :=
  if die = dieOf core then s
  else s.modDie die fun d =>
    let slice := Config.sliceOf key % 64
    let mine (x : Logged) : Bool := x.slice == slice && x.core == core
    let new_ := (lanes.filter fun l => l.addr == addr && l.stage == 1).map fun l =>
      ({ slice := slice, core := core, seq := seq % 65536, addr := addr, lane := l.lane, old := l.old } : Logged)
    let same (x : Logged) : Bool := x.seq == seq % 65536 && x.addr == addr
    let all := d.logs.filter (fun x => mine x && !same x) ++ new_
    let ops := (all.map fun x => (x.seq, x.addr)).eraseDups
    let last := ops.drop (ops.length - 64)
    { d with logs := d.logs.filter (!mine ·) ++ all.filter fun x => last.contains (x.seq, x.addr) }

/-- The logged result of a lane of a remote atomic. -/
def State.loggedOld (s : State) (die core seq addr lane : Nat) : Option Word :=
  ((s.die die).logs.find? fun x => x.core == core && x.seq == seq % 65536 && x.addr == addr && x.lane == lane).map (·.old)

/-- A core's L1 drops a line. -/
def State.dropL1 (s : State) (core key : Nat) : State :=
  if (s.l1Line core key).isNone then s else s.modCore core fun c => { c with l1 := c.l1.filter fun x => x.key != key }

/-- The new word of an atomic comes to its home. One of another package goes out with the function's number, one of the host as a request under
its requester ID (11 R233; 15 R288, R293; log 11). -/
def State.homeAtomic (s : State) (fn addr op seq : Nat) (cells : List Host.Cell) : State :=
  let s' := cells.foldl (fun (s : State) c => s.homePut fn c.1 c.2) s
  if (s.rangeOf fn addr).valid && (s.rangeOf fn addr).policy = 3 then s'.emit (.podAtomic fn addr op seq)
  else match s.hostPlace fn addr with
    | some a => s'.emit (.hostAccess fn 2 a 4)
    | none => s'

/-- The host completes an operation as a PCIe AtomicOp (11 R233): add, exchange and compare-and-swap; add alone for a RED. -/
def State.hostTakes (s : State) (e : AtomEntry) (addr : Nat) : Bool :=
  (s.rangeOf e.fn addr).policy ≠ 4
    || (s.pack.hostAtomics && (e.op = 0 || (e.kind ≠ 2 && (e.op = 8 || e.op = 9))))

/-- Performs an atomic at its home (11 R230, R231): `AT`. Its updated bytes are what an update walk carries; where there is such a walk, a
RED is over once it has passed (13 R261). -/
def State.performHome (s : State) (die : Nat) (r : Req) (walk : Bool) : State × List (Nat × Byte) :=
  match s.atomOf r.core r.seq with
  | none => (s, [])
  | some e =>
    if (List.range 4).any fun i => s.homePoison r.fn (r.addr + i) then
      (s.answerAtom r.core r.seq r.addr 0x13 (e.lanes.map fun l => if l.addr = r.addr then { l with stage := 1 } else l) e.kind, [])
    else
      let m := wordOf ((List.range 4).map fun i => s.homeByte r.fn (r.addr + i))
      let (m', lanes) := applyLanes e.op r.addr 1 e.lanes m
      let cells := cellsAt r.addr (bytesOf m')
      let s := (s.homeAtomic r.fn r.addr e.op r.seq cells).drawn
      let s := s.dropL1 r.core (s.keyOf r.fn r.addr)
      let s := s.logAtom die r.core r.seq r.addr (s.keyOf r.fn r.addr) lanes
      (if walk && e.kind = 2 then s.setAtomLanes r.core r.seq lanes else s.answerAtom r.core r.seq r.addr 0 lanes e.kind, cells)

/-- A RED whose update walk has passed is over; what its core's L1 has read of the line meanwhile is older (13 R256). -/
def State.endRed (s : State) (r : Req) : State :=
  match s.atomOf r.core r.seq with
  | some e => if e.kind = 2 then (s.dropL1 r.core (s.keyOf r.fn r.addr)).answerAtom r.core r.seq r.addr 0 e.lanes 2 else s
  | none => s

/-! ## Actions (14 R271, R272) -/

/-- The home notes where, in its DRAM, the lines of an entry lie that it sends to be cached (15 R289). -/
def State.noteFrames (s : State) (dkey fn : Nat) (keys : List Nat) : State :=
  s.modDir (s.homeOf fn (keyAddr dkey)) dkey fun d => { d with frames := keys.map fun k => (s.dramPlace fn (keyAddr k)).getD (2 ^ 63) }

/-- Sends an answer to a requester; the host's answer is its data (14 R363). Lines of another package and of the host's are read there first
(15 R288, R293). -/
def State.sendGrant (s : State) (dkey : Nat) (r : Req) (kind : Nat) : State :=
  let keys := s.group r.fn dkey
  let data := kind == 0 || kind == 1 || kind == 3
  let bytes := if data then keys.flatMap fun k => (List.range 128).map fun i => s.homeByte r.fn (keyAddr k + i) else []
  let bad (k : Nat) : BitVec 4 := (List.range 4).foldl (fun m i =>
    if s.homePoison r.fn (keyAddr k + 32 * i) then m ||| BitVec.ofNat 4 (2 ^ i) else m) 0#4
  let key := if r.kind = 5 then s.keyOf r.fn r.addr else dkey
  let g : Grant := { quad := r.who, key := key, kind := kind, bytes := bytes, poison := if data then keys.map bad else [],
                     inc := (s.die (s.homeOf r.fn (keyAddr dkey))).incarnation }
  let s := if data then keys.foldl (fun (s : State) k => s.farRead r.fn (keyAddr k) 128) s else s
  let s := if kind = 0 || kind = 1 then s.noteFrames dkey r.fn keys else s
  if r.who < 64 then { s with grants := s.grants ++ [g] } else s

/-- The bytes that arrive with a request are written at the home (14 R271 WM): those of a publication need a translation for writing; an
owner's data has been performed already (15 R299). -/
def State.writeArriving (s : State) (r : Req) : State :=
  (s.homeWriteMapped r.fn (if r.kind = 5 then 7 else 8) r.bytes (r.kind = 5)).healLine r.fn r.addr r.heal

/-! ## Write tokens (14 R275) -/

/-- A range's number: its function and its entry. -/
def State.rangeId (s : State) (fn addr : Nat) : Nat := fn * 64 + (s.rangeIndex fn addr).getD 0

/-- The record of a range's write token: its state, 8 to 10, and its holder (14 R275). -/
def State.tokenOf (s : State) (rid : Nat) : Nat × Nat :=
  let r := s.range (rid / 64) (rid % 64)
  Tab.get (8, 64) (s.die r.die).token rid

/-- Changes the record of a range's write token. -/
def State.setToken (s : State) (rid : Nat) (x : Nat × Nat) : State :=
  s.modDie (s.range (rid / 64) (rid % 64)).die fun d => { d with token := Tab.set (8, 64) d.token rid x }

/-- A quad holds the write token of an address's range. -/
def State.holdsToken (s : State) (quad fn addr : Nat) : Bool :=
  let t := s.tokenOf (s.rangeId fn addr)
  t.2 = quad && t.1 ≠ 8

/-- Ends an access with a protocol error (14 R271 ER). -/
def State.protocolError (s : State) (dkey : Nat) (r : Req) : State :=
  if r.kind = 8 || r.kind = 9 then
    match s.atomOf r.core r.seq with
    | some e => s.answerAtom r.core r.seq r.addr 8 (e.lanes.map fun l => if l.addr = r.addr then { l with stage := 1 } else l) e.kind
    | none => s
  else if r.who < 64 && r.kind ≠ 6 && r.kind ≠ 7 then s.sendGrant dkey r 4 else s

/-- The actions by which GR completes a request (14 R272). -/
def completion (kind : Nat) (done : Bool) : List Nat :=
  match kind with
  | 0 => [0, 7]
  | 1 => [1, 7, 9]
  | 2 => [2, 9]
  | 5 => [2]
  | 8 | 9 => if done then [] else [13]
  | _ => []

/-- One action of an entry but GR. What a publication brings is written once the walk of an invalidation that it begins has ended, so that no
reader at the home sees it while a copy still gives the older bytes (13 R262). Data that is not cached makes no link; the host is never a sharer or an owner
(R363). -/
def State.action1 (s : State) (die dkey : Nat) (acts : List Nat) (r : Req) (k : Nat) : State × List (Nat × Byte) :=
  let d := s.dirOf die dkey
  let walk (kind : Nat) (r : Req) : DirEntry → DirEntry := fun d =>
    { d with walk := some { kind := kind, at_ := d.head.getD 64, req := r, done := d.head.isNone, inc := (s.die die).incarnation } }
  match k with
  | 0 => (s.sendGrant dkey r (if acts.contains 17 then 3 else 0), r.bytes)
  | 1 => (s.sendGrant dkey r (if acts.contains 17 then 3 else 1), r.bytes)
  | 2 => (s.sendGrant dkey r (if r.kind = 3 || r.kind = 4 then 5 else 2), r.bytes)
  | 3 => (s.modDir die dkey (walk 0 r), r.bytes)
  | 4 => (s.modDir die dkey (walk 1 r), r.bytes)
  | 5 => (s.modDir die dkey fun d => { d with ask := 1 }, r.bytes)
  | 6 => (s.modDir die dkey fun d => { d with ask := 2 }, r.bytes)
  | 7 => (if r.who < 64 && !acts.contains 17 then s.link die dkey r.who else s, r.bytes)
  | 8 => (s.unlink die dkey (if r.kind = 7 then d.owner.getD r.who else r.who), r.bytes)
  | 9 => (if r.who < 64 then s.modDir die dkey fun d => { d with owner := some r.who } else s, r.bytes)
  | 10 => (s.modDir die dkey fun d => { d with owner := none, ask := 0, answer := none }, r.bytes)
  | 11 => (if acts.contains 3 && r.kind = 5 then s else s.writeArriving r, r.bytes)
  | 13 => s.performHome die r (acts.contains 4)
  | 14 => (s.modDir die dkey fun d => { d with pend := some r, pendDone := acts.contains 13 }, r.bytes)
  | 15 => (if r.who < 64 then s.setToken (s.rangeId r.fn (keyAddr dkey)) (9, r.who) else s, r.bytes)
  | 16 =>
    let t := s.tokenOf (s.rangeId r.fn (keyAddr dkey))
    (if t.1 = 9 then s.setToken (s.rangeId r.fn (keyAddr dkey)) (10, t.2) else s, r.bytes)
  | 18 => (s.protocolError dkey r, r.bytes)
  | _ => (s, r.bytes)

/-- Actions in increasing order. A walk of an update carries the bytes as the entry leaves them, so WU is started after AT. -/
def State.actions (s : State) (die dkey : Nat) (acts : List Nat) (r : Req) : List Nat → State
  | [] => s
  | k :: rest =>
    let (s, bytes) := s.action1 die dkey acts r k
    s.actions die dkey acts { r with bytes := bytes } rest

/-- The order in which the actions of an entry are taken: increasing, but that an atomic is performed before its update is
sent. -/
def orderActs (acts : List Nat) : List Nat :=
  if acts.contains 13 && acts.contains 4 then acts.filter (· < 4) ++ [13, 4] ++ acts.filter fun k => 4 < k && k ≠ 13 else acts

/-- GR: completes the pending request. -/
def State.completePending (s : State) (die dkey : Nat) : State :=
  let d := s.dirOf die dkey
  match d.pend with
  | none => s
  | some r =>
    let acts := completion r.kind d.pendDone
    (s.actions die dkey acts r acts).modDir die dkey fun d => { d with pend := none, pendDone := false }

/-- Runs the table for one event at a line. The unlink of a write-back that answers a recall is acknowledged too (R269, R281). Where the request
that GR would complete has gone with its function, a line without a copy is in its first state (15 R304). -/
def State.runEntry (s : State) (die dkey : Nat) (r : Req) (e : Entry) : State :=
  let acts := orderActs e.acts
  let s := s.actions die dkey acts r (acts.filter (· ≠ 12))
  let s := if r.kind = 4 && e.acts.contains 8 && !e.acts.contains 2 then s.sendGrant dkey r 5 else s
  let gone := e.acts.contains 12 && (s.dirOf die dkey).pend.isNone
  let s := if e.acts.contains 12 then s.completePending die dkey else s
  s.modDir die dkey fun d =>
    { d with state := if (e.le && d.head.isNone) || (gone && d.head.isNone && d.owner.isNone) then 0 else e.next }

/-- A request as the home takes it: an UPG that names a copy which a walk has already removed is a GETM (14 R273). -/
def State.asTaken (s : State) (dkey : Nat) (r : Req) : Req :=
  if r.kind = 2 && (s.qline r.who dkey).state ≠ 1 then { r with kind := 1 } else r

/-- Takes the queued requests of a line, first in, first out, as long as the line's state does not queue them. -/
def State.takeQueued (s : State) (die dkey : Nat) : Nat → State
  | 0 => s
  | n + 1 =>
    let d := s.dirOf die dkey
    match d.queue with
    | [] => s
    | r₀ :: rest =>
      let r := s.asTaken dkey r₀
      let e := s.entry (s.slotOf r.fn (keyAddr dkey)) d.state r.kind
      if e.q then s
      else ((s.modDir die dkey fun d => { d with queue := rest }).runEntry die dkey r e).takeQueued die dkey n

/-! ## Requests of one cycle (14 R280) -/

/-- How far a requester is from where a line's slice had its pointer when the first request of the cycle reached the line. -/
def turnOf (start who : Nat) : Nat := (who + 66 - start) % 66

/-- A request for a line may still reach its home in the present cycle: none that goes after it has, the home serves (15 R305), and a quad's way
there is open (16 R334). -/
def State.turnMay (s : State) (fn key who : Nat) : Bool :=
  let die := s.homeOf fn (keyAddr key)
  let t := Tab.get (0, 0) (s.die die).turns key
  s.homeServes die && (64 ≤ who || !s.pathHeld (dieOfQuad who) die) && (t.1 = 0 || t.2 ≤ turnOf (t.1 - 1) who)

/-- A request reaches the home of a line: the first of the cycle moves the slice's pointer. -/
def State.takeTurn (s : State) (die dkey who : Nat) : State :=
  s.modDie die fun d =>
    let slice := Config.sliceOf dkey % 64
    let t := Tab.get (0, 0) d.turns dkey
    let start := if t.1 = 0 then Tab.get 0 d.pointers slice else t.1 - 1
    { d with
      pointers := if t.1 = 0 then Tab.set 0 d.pointers slice ((who + 1) % 66) else d.pointers
      turns := Tab.set (0, 0) d.turns dkey (start + 1, turnOf start who) }

/-- A request or an event reaches the home of a line (14 R271, R280): its table runs, or the request is queued. One of an incarnation older than
the home has recorded is dropped (16 R333). -/
def State.atHome (s : State) (die dkey : Nat) (r₀ : Req) : State :=
  if r₀.who < 64 && olderInc r₀.inc (s.knownInc die r₀.who) then s else
  let s := if r₀.who < 66 && r₀.kind ≠ 7 then s.takeTurn die dkey r₀.who else s
  let d := s.dirOf die dkey
  let r := s.asTaken dkey r₀
  let e := s.entry (s.slotOf r.fn (keyAddr dkey)) d.state r.kind
  if e.q || (r.kind < 6 || 8 ≤ r.kind) && r.kind ≠ 4 && !d.queue.isEmpty then
    s.modDir die dkey fun d => { d with queue := d.queue ++ [r₀] }
  else
    let s := s.runEntry die dkey r e
    s.takeQueued die dkey (s.dirOf die dkey).queue.length

/-- The requests of a line that its state no longer queues are to be taken: what they waited for has gone with its function (15 R304). -/
def State.queueMay (s : State) (die key : Nat) : Bool :=
  let d := s.dirOf die key
  d.pend.isNone && d.walk.isNone && match d.queue with
    | [] => false
    | r :: _ => !(s.entry (s.slotOf r.fn (keyAddr key)) d.state (s.asTaken key r).kind).q

/-- They are taken. -/
def execQueuedRequests (die key : Nat) (s : State) : Host.Outcome State Fault Refusal :=
  s.happens (fun s => s.queueMay die key) fun s => s.takeQueued die key (s.dirOf die key).queue.length

/-- A request by a quad, or, from 64 on, by the home itself or the host. -/
def State.quadReq (s : State) (kind fn quad : Nat) (bytes : List (Nat × Byte)) : Req :=
  { kind := kind, fn := fn, who := quad, core := 0, seq := 0, addr := 0, bytes := bytes, heal := 0#4,
    inc := if quad < 64 then (s.quad quad).incarnation else 0#16 }

/-! ## What a quad cache needs -/

/-- A line that an agent of a quad needs, and how it is to be allocated (11 R220). -/
structure Need where
  key : Nat
  fn : Nat
  addr : Nat
  access : Nat
  who : Requester
  hint : Hint
deriving DecidableEq, Repr

/-- The cores of a quad. -/
def quadCores (quad : Nat) : List Nat := (List.range 4).map (quad * 4 + ·)

/-- The threads of a quad. -/
def State.quadThreads (s : State) (quad : Nat) : List Tid := (quadCores quad).flatMap s.coreThreads

/-- An address translates for a read, so that a request that must raise no fault may be made for it (11 R223). -/
def State.translates (s : State) (fn a : Nat) : Bool :=
  match s.translate fn a 0 with
  | .ok _ => true
  | _ => false

/-- The lines that prefetches of a quad's cores still have to bring in. -/
def State.prefetchNeeds (s : State) (quad : Nat) : List Need :=
  (quadCores quad).flatMap fun c => ((s.core c).prefetch.filter fun p => s.translates p.1 p.2.1 && !s.readsAtHome p.1 p.2.1).map fun p =>
    ({ key := s.keyOf p.1 p.2.1, fn := p.1, addr := p.2.1, access := 0, hint := p.2.2,
       who := { pkg := s.pack.pkg, die := dieOf c, core := c % 64, slot := 0, origin := 0, tag := 0 } } : Need)

/-- The lines that loads and prefetches of a quad miss; an LDGS asks for none that would fault. -/
def State.loadNeeds (s : State) (quad : Nat) : List Need :=
  ((s.quadThreads quad).flatMap fun t =>
    let fn := (s.block t.core t.ctx).fn
    ((s.thread t).queuesOf .lg).flatMap fun q => q.entries.flatMap fun e =>
      (e.lanes.filter (!·.arrived)).flatMap fun l =>
        (((l.todo (widthBytes e.width)).map (·.1)).filter fun a =>
            !s.readsAtHome fn a && !s.hits t.core fn a 1 && (!e.spec || s.translates fn a)).map fun a =>
          ({ key := s.keyOf fn a, fn := fn, addr := a, access := 0, who := s.requester t, hint := e.hint } : Need))
  ++ s.prefetchNeeds quad

/-- An atomic is performed at the quad cache (11 R233). -/
def State.quadAtomic (s : State) (e : AtomEntry) (addr : Nat) : Bool :=
  s.atQuadCache e.fn e.kind e.scope addr

/-- The lines that atomics performed at the quad cache need. -/
def State.atomNeeds (s : State) (quad : Nat) : List Need :=
  (quadCores quad).flatMap fun c => (s.core c).atoms.flatMap fun e =>
    (e.lanes.filter fun l => l.stage == 0 && s.quadAtomic e l.addr).map fun l =>
      ({ key := s.keyOf e.fn l.addr, fn := e.fn, addr := l.addr, access := 2, who := s.requester e.tid, hint := .normal } : Need)

/-- A quad has nothing under way for a line. -/
def State.lineIdle (s : State) (quad fn key : Nat) : Bool :=
  let x := s.qline quad (s.dirKey fn key)
  !x.locked && !(s.quad quad).lost

/-- A quad cache wakes (14 R283). -/
def State.wake (s : State) (quad : Nat) : State :=
  if (s.quad quad).asleep then s.modQuad quad fun q => { q with asleep := false } else s

/-- Marks a request of a quad as on its way; a sleeping cache wakes first. -/
def State.sendRequest (s : State) (quad fn dkey kind : Nat) (bytes : List (Nat × Byte)) : State :=
  let s := (s.wake quad).modQLine quad dkey fun x => { x with fn := fn, want := kind + 1, locked := true }
  s.atHome (s.homeOf fn (keyAddr dkey)) dkey (s.quadReq kind fn quad bytes)

/-! ## GETS, GETM, UPG -/

/-- The need behind a read miss. -/
def State.getsNeed (s : State) (quad key : Nat) : Option Need :=
  let tok (n : Need) : Bool := s.writePath (s.slotOf n.fn n.addr) = 2
  (s.loadNeeds quad ++ (s.atomNeeds quad).filter tok).find? fun n =>
    n.key == key && s.lineIdle quad n.fn key && (s.qline quad key).state = 0
      && (s.qline quad (s.dirKey n.fn key)).want = 0 && s.mayAsk n.fn n.addr n.who.die
      && !s.endsNow n.fn n.access n.addr false && s.turnMay n.fn (s.dirKey n.fn key) quad

/-- GETS (14 R272): a read miss reaches the home, which translates it. -/
def execGets (quad key : Nat) (s : State) : Host.Outcome State Fault Refusal :=
  s.happens (fun s => (s.getsNeed quad key).isSome) fun s =>
    match s.getsNeed quad key with
    | none => s
    | some n =>
      match s.ask n.fn n.addr n.access n.who with
      | (s, .go _) =>
        (s.sendRequest quad n.fn (s.dirKey n.fn key) (missKind (s.slotOf n.fn n.addr)) []).modQLine quad key fun x => { x with hint := n.hint }
      | (s, _) => s

/-- The need behind an ownership request: an atomic at the quad cache, or local bytes to publish. -/
def State.ownNeed (s : State) (quad key : Nat) (shared : Bool) : Option Need :=
  let x := s.qline quad key
  let d (fn : Nat) := s.qline quad (s.dirKey fn key)
  let publish : List Need := if x.lmask ≠ 0#128 && [2, 3].contains (d x.fn).want then
      [{ key := key, fn := x.fn, addr := keyAddr key, access := 7,
         who := { pkg := s.pack.pkg, die := dieOfQuad quad, core := 0, slot := 0, origin := 6, tag := 0 }, hint := x.hint }] else []
  let atoms := (s.atomNeeds quad).filter fun n => n.key == key && s.writePath (s.slotOf n.fn n.addr) = 0
  (publish ++ atoms).find? fun n =>
    s.lineIdle quad n.fn key && x.state = (if shared then 1 else 0) && s.turnMay n.fn (s.dirKey n.fn key) quad
      && (n.access = 7 || (s.mayAsk n.fn n.addr n.who.die && !s.endsNow n.fn n.access n.addr false))

/-- Local bytes that no longer have a translation for writing are discarded, and the host is told (15 R299). -/
def State.loseLocal (s : State) (quad key : Nat) : State :=
  let x := s.qline quad key
  let s := s.noteLost x.fn (((x.localCells key).head?.map (·.1)).getD (keyAddr key)) 7 (dieOfQuad quad)
  (s.setQLine quad key { x with lmask := 0#128, lbytes := [], want := 0, heal := 0#4 }).linePublished quad key

/-- An ownership request reaches the home. -/
def State.requestOwner (s : State) (quad key : Nat) (shared : Bool) : State :=
  match s.ownNeed quad key shared with
  | none => s
  | some n =>
    let dkey := s.dirKey n.fn key
    let kind := if shared then 2 else 1
    if n.access = 7 then
      match s.translate n.fn n.addr 7 with
      | .ok _ => s.sendRequest quad n.fn dkey kind []
      | _ => s.loseLocal quad key
    else match s.ask n.fn n.addr n.access n.who with
      | (s, .go _) => s.sendRequest quad n.fn dkey kind []
      | (s, _) => s

/-- GETM (14 R272). -/
def execGetm (quad key : Nat) (s : State) : Host.Outcome State Fault Refusal :=
  s.happens (fun s => (s.ownNeed quad key false).isSome) fun s => s.requestOwner quad key false

/-- UPG (14 R272). -/
def execUpg (quad key : Nat) (s : State) : Host.Outcome State Fault Refusal :=
  s.happens (fun s => (s.ownNeed quad key true).isSome) fun s => s.requestOwner quad key true

/-! ## Evictions -/

/-- Every line that moves with a directory key is free of local bytes in a quad. -/
def State.groupClean (s : State) (quad fn dkey : Nat) : Bool :=
  (s.group fn dkey).all fun k => (s.qline quad k).lmask = 0#128

/-- A quad may evict a line that it holds in a state, of those whose hint makes them the first candidates (11 R220). -/
def State.mayEvict (s : State) (quad key st : Nat) : Bool :=
  let x := s.qline quad key
  x.state = st && x.want = 0 && !x.locked && s.dirKey x.fn key = key && s.groupClean quad x.fn key && s.turnMay x.fn key quad
    && s.grants.all (fun g => !(g.quad == quad && g.key == key))
    && (s.quad quad).lines.all fun l => !l.2.full || hintRank x.hint ≤ hintRank l.2.hint

/-- Drops a quad's coherent data of the lines that move together; pointers and local bytes stay. -/
def State.dropCoherent (s : State) (quad fn dkey : Nat) : State :=
  (s.group fn dkey).foldl (fun s k => s.modQLine quad k fun x => { x with state := 0, bytes := [], poison := 0#4 }) s

/-- PUTS (14 R272): a clean copy is evicted. -/
def execPuts (quad key : Nat) (s : State) : Host.Outcome State Fault Refusal :=
  s.happens (fun s => s.mayEvict quad key 1) fun s =>
    let fn := (s.qline quad key).fn
    (s.dropCoherent quad fn key).sendRequest quad fn key 3 []

/-- The bytes of the lines that move together, as a quad holds them; a poisoned sector has none to give, and stays poisoned at
the home. -/
def State.heldBytes (s : State) (quad fn dkey : Nat) : List (Nat × Byte) :=
  (s.group fn dkey).flatMap fun k =>
    (cellsAt (keyAddr k) (s.qline quad k).bytes).filter fun c => !(s.qline quad k).poison.getLsbD (c.1 % 128 / 32)

/-- PUTM (14 R272, R281): an owned line is written back. -/
def execPutm (quad key : Nat) (s : State) : Host.Outcome State Fault Refusal :=
  s.happens (fun s => s.mayEvict quad key 2) fun s =>
    let fn := (s.qline quad key).fn
    let bytes := s.heldBytes quad fn key
    (s.dropCoherent quad fn key).sendRequest quad fn key 4 bytes

/-! ## Publication (14 R267, R275) -/

/-- A quad cache may begin to publish a line. -/
def State.mayPublish (s : State) (quad key : Nat) : Bool :=
  let x := s.qline quad key
  let d := s.qline quad (s.dirKey x.fn key)
  x.lmask ≠ 0#128 && !d.locked && d.want = 0 && !(s.quad quad).lost

/-- PUBLICATION (14 R267): a quad cache sets out to publish a line's local bytes, by the write path of its protocol. -/
def execPublication (quad key : Nat) (s : State) : Host.Outcome State Fault Refusal :=
  s.happens (fun s => s.mayPublish quad key) fun s =>
    let x := s.qline quad key
    let slot := s.slotOf x.fn (keyAddr key)
    match s.writePath slot with
    | 0 => if x.state = 2 then s.mergeOwned quad key
           else s.modQLine quad (s.dirKey x.fn key) fun d => { d with fn := x.fn, want := if d.state = 1 then 3 else 2 }
    | _ => s.modQLine quad key fun d => { d with want := 6 }

/-- A write-through may reach the home: with a token, from its holder alone. -/
def State.pubMay (s : State) (quad key : Nat) : Bool :=
  let x := s.qline quad key
  x.want = 6 && !x.locked && s.turnMay x.fn (s.dirKey x.fn key) quad
    && (s.writePath (s.slotOf x.fn (keyAddr key)) ≠ 2 || s.holdsToken quad x.fn (keyAddr key))

/-- A write-through sends a line's local bytes home, where they still have a translation for writing. -/
def State.sendPub (s : State) (quad key : Nat) : State :=
  let x := s.qline quad key
  match s.translate x.fn (keyAddr key) 7 with
  | .ok _ =>
    let s := (s.wake quad).modQLine quad key fun x => { x with want := 6, locked := true }
    s.atHome (s.homeOf x.fn (keyAddr key)) (s.dirKey x.fn key)
      { s.quadReq 5 x.fn quad (x.localCells key) with addr := keyAddr key, heal := x.heal }
  | _ => s.loseLocal quad key

/-- PUB (14 R272): a write-through of local bytes reaches the home. -/
def execPub (quad key : Nat) (s : State) : Host.Outcome State Fault Refusal :=
  s.happens (fun s => s.pubMay quad key) fun s => s.sendPub quad key

/-! ## Walks (14 R269) -/

/-- The home of a directory key that has something under way: the die, and the entry. -/
def State.dirAt (s : State) (key : Nat) : Option (Nat × DirEntry) :=
  (s.dies.filterMap fun e => (e.2.dir.find? fun d => d.1 == key).map fun d => (e.1, d.2)).head?

/-- No answer is on its way to a quad for a line: messages about one line reach a quad in the order in which they were
sent. -/
def State.answered (s : State) (quad key : Nat) : Bool := s.grants.all fun g => !(g.quad == quad && g.key == key)

/-- The walk of a kind that may take its next step; a quad takes none of an older incarnation of the home (16 R333). -/
def State.walkAt (s : State) (key kind : Nat) : Option (Nat × Walk) :=
  (s.dirAt key).bind fun p => p.2.walk.bind fun w =>
    if w.kind = kind && !w.done && s.answered w.at_ key && !s.pathHeld p.1 (dieOfQuad w.at_)
        && !olderInc w.inc (s.knownInc (dieOfQuad w.at_) (64 + p.1)) then some (p.1, w) else none

/-- The walk goes on to the quad after one, or is done. -/
def State.passWalk (s : State) (die key next : Nat) : State :=
  s.modDir die key fun d => { d with walk := d.walk.map fun w => { w with at_ := next, done := next == 64 } }

/-- An invalidation walk takes its next step: a quad drops its coherent data and its pointers and passes the walk on; the requester of an
UPG only passes it on. -/
def State.stepInvalidation (s : State) (key : Nat) : State :=
  match s.walkAt key 0 with
  | none => s
  | some (die, w) =>
    let next := (s.qline w.at_ key).fwd
    let s := if w.req.kind = 2 && w.req.who = w.at_ then s
      else (s.dropCoherent w.at_ w.req.fn key).modQLine w.at_ key fun x => { x with fwd := 64, bwd := 64 }
    s.passWalk die key next

/-- INVALIDATION_WALK (14 R269). -/
def execInvalidationWalk (key : Nat) (s : State) : Host.Outcome State Fault Refusal :=
  s.happens (fun s => (s.walkAt key 0).isSome) fun s => s.stepInvalidation key

/-- An update walk takes its next step: a quad applies the bytes to its coherent data and passes the walk on; the requester of a PUB
only passes it on, and for a sleeping cache the line is marked invalid (R283). -/
def State.stepUpdate (s : State) (key : Nat) : State :=
  match s.walkAt key 1 with
  | none => s
  | some (die, w) =>
    let next := (s.qline w.at_ key).fwd
    let s := if w.req.kind = 5 && w.req.who = w.at_ then s
      else if (s.quad w.at_).asleep then
        ((s.dropCoherent w.at_ w.req.fn key).unlink die key w.at_).modQLine w.at_ key fun x => { x with fwd := 64, bwd := 64 }
      else (s.group w.req.fn key).foldl (fun s k => s.modQLine w.at_ k fun x =>
        if x.state = 0 then x else { x with
          bytes := patch (keyAddr k) w.req.bytes x.bytes
          poison := if w.req.addr = keyAddr k then x.poison &&& ~~~w.req.heal else x.poison }) s
    s.passWalk die key next

/-- UPDATE_WALK (14 R269). -/
def execUpdateWalk (key : Nat) (s : State) : Host.Outcome State Fault Refusal :=
  s.happens (fun s => (s.walkAt key 1).isSome) fun s => s.stepUpdate key

/-- The end of a line's walk may be reported. -/
def State.wackMay (s : State) (key : Nat) : Bool := (s.dirAt key).any fun p => p.2.walk.any (·.done)

/-- The end of a walk reaches the home. After an invalidation the list holds the requester of an UPG, or nobody, and what was published is
written; after an update what waited for it goes on. -/
def State.endWalk (s : State) (key : Nat) : State :=
  match s.dirAt key with
  | none => s
  | some (die, d) =>
    match d.walk with
    | none => s
    | some w =>
      let s := s.modDir die key fun d => { d with walk := none, head :=
        if w.kind = 0 then (if w.req.kind = 2 then some w.req.who else none) else d.head }
      let s := if w.kind = 0 && w.req.kind = 2 then s.modQLine w.req.who key fun x => { x with fwd := 64, bwd := 64 } else s
      let s := if w.kind = 0 && w.req.kind = 5 then s.writeArriving w.req else s
      let s := if w.kind = 1 then (s.updatePassed (d.updates key)).endRed w.req else s
      s.atHome die key { w.req with kind := 6, who := 66 }

/-- WACK (14 R269, R272). -/
def execWack (key : Nat) (s : State) : Host.Outcome State Fault Refusal :=
  s.happens (fun s => s.wackMay key) fun s => s.endWalk key

/-! ## Recalls and downgrades (14 R271, R281) -/

/-- An owner is asked for its line. -/
def State.recallAt (s : State) (key ask : Nat) : Option (Nat × Nat) :=
  (s.dirAt key).bind fun p => p.2.owner.bind fun o =>
    if p.2.ask = ask && p.2.answer.isNone && s.answered o key && !s.pathHeld p.1 (dieOfQuad o) then some (p.1, o) else none

/-- The owner publishes, sends the line, and keeps a shared copy or none. -/
def State.surrender (s : State) (key die quad : Nat) (keep : Bool) : State :=
  let fn := (s.qline quad key).fn
  let s := (s.group fn key).foldl (fun s k => s.mergeOwned quad k) s
  let bytes := s.heldBytes quad fn key
  let s := if keep then (s.group fn key).foldl (fun s k => s.modQLine quad k fun x => { x with state := 1 }) s
           else s.dropCoherent quad fn key
  s.modDir die key fun d => { d with ask := 0, answer := some bytes }

/-- A recall (1) or a downgrade (2) reaches the owner. -/
def State.askOwner (s : State) (key ask : Nat) : State :=
  match s.recallAt key ask with
  | some (die, o) => s.surrender key die o (ask == 2)
  | none => s

/-- RECALL (14 R271). -/
def execRecall (key : Nat) (s : State) : Host.Outcome State Fault Refusal :=
  s.happens (fun s => (s.recallAt key 1).isSome) fun s => s.askOwner key 1

/-- DOWNGRADE (14 R271). -/
def execDowngrade (key : Nat) (s : State) : Host.Outcome State Fault Refusal :=
  s.happens (fun s => (s.recallAt key 2).isSome) fun s => s.askOwner key 2

/-- An owner's answer is on its way. -/
def State.dataMay (s : State) (key : Nat) : Bool := (s.dirAt key).any fun p => p.2.answer.isSome && p.2.owner.isSome

/-- The owner's answer reaches the home. -/
def State.ownerAnswers (s : State) (key : Nat) : State :=
  match s.dirAt key with
  | none => s
  | some (die, d) =>
    let o := d.owner.getD 64
    s.atHome die key (s.quadReq 7 (s.qline o key).fn o (d.answer.getD []))

/-- DATA (14 R272). -/
def execDataAnswer (key : Nat) (s : State) : Host.Outcome State Fault Refusal :=
  s.happens (fun s => s.dataMay key) fun s => s.ownerAnswers key

/-! ## Answers (14 R267) -/

/-- The first answer on its way to a quad for a line, of a kind that satisfies a predicate. -/
def State.grantFor (s : State) (quad key : Nat) (p : Nat → Bool) : Option Grant :=
  match s.grants.find? fun g => g.quad == quad && g.key == key with
  | some g => if p g.kind && !s.pathHeld (s.homeOf (s.qline quad key).fn (keyAddr key)) (dieOfQuad quad) then some g else none
  | none => none

/-- An answer that an older incarnation of the home has sent (16 R333). -/
def State.staleGrant (s : State) (g : Grant) : Bool :=
  olderInc g.inc (s.knownInc (dieOfQuad g.quad) (64 + s.homeOf (s.qline g.quad g.key).fn (keyAddr g.key)))

/-- Lines that prefetches of a core waited for have come into its quad cache (11 R223). -/
def State.takePrefetch (s : State) (core : Nat) (keys : List Nat) : State :=
  let mine := (s.core core).prefetch.filter fun p => keys.contains (s.keyOf p.1 p.2.1)
  if mine.isEmpty then s
  else (mine.foldl (fun s p => s.fillL1 core p.1 p.2.1 p.2.2) s).modCore core fun c =>
    { c with prefetch := c.prefetch.filter fun p => !mine.contains p }

/-- Coherent data comes into a quad cache; what is owned takes in the local bytes, which are then published. -/
def State.takeData (s : State) (quad fn : Nat) (g : Grant) (st : Nat) : State :=
  let keys := s.group fn g.key
  let s := (List.range keys.length).foldl (fun s i =>
    let k := keys.getD i g.key
    s.modQLine quad k fun x => { x with fn := fn, state := st, bytes := (g.bytes.drop (128 * i)).take 128, poison := g.poison.getD i 0#4 }) s
  let s := keys.foldl (fun s k => s.mergeOwned quad k) s
  (quadCores quad).foldl (fun s c => s.takePrefetch c keys) s

/-- A published line's local bytes are at the home: the mask clears, and a copy that the quad keeps takes the bytes. -/
def State.clearLocal (s : State) (quad key : Nat) : State :=
  let x := s.qline quad key
  (s.setQLine quad key { x with
    bytes := if x.state = 0 then [] else patch (keyAddr key) (x.localCells key) x.bytes, lmask := 0#128, lbytes := [],
    poison := x.poison &&& ~~~x.heal, heal := 0#4 }).linePublished quad key

/-- Every load of a quad that waits for a line ends with trap 0x08 (14 R271 ER). -/
def State.failLoads (s : State) (quad key : Nat) : State :=
  (s.quadThreads quad).foldl (fun s t =>
    let fn := (s.block t.core t.ctx).fn
    let hit (wd : Width) (l : LoadLane) : Bool := !l.arrived && (l.todo (widthBytes wd)).any fun x => s.keyOf fn x.1 == key
    let q (x : LoadQ) : LoadQ := { x with entries := x.entries.map fun (e : LoadEntry) =>
      { e with lanes := e.lanes.map fun l => if hit e.width l then
          s.deliver e l (({ bytes := [], poison := false, cause := 8 } : Got).speculate e.spec) else l } }
    (s.modThread t fun th => { th with lg := q th.lg, aside := th.aside.map fun (a : Aside) => { a with lg := q a.lg } }).unpark t) s

/-- The atomics of a quad that wait for a line end with trap 0x08 (14 R271 ER). -/
def State.failAtoms (s : State) (quad key : Nat) : State :=
  (quadCores quad).foldl (fun s c => (s.core c).atoms.foldl (fun s e =>
    ((e.lanes.filter fun l => l.stage == 0 && s.quadAtomic e l.addr && s.keyOf e.fn l.addr == key).map (·.addr)).eraseDups.foldl
      (fun s a => match s.atomOf c e.seq with
        | some e => s.answerAtom c e.seq a 8 (e.lanes.map fun l => if l.addr = a then { l with stage := 1 } else l) e.kind
        | none => s) s) s) s

/-- A publication ends in a protocol error: the thread that last wrote the line takes trap 0x08, and its bytes are dropped (14 R271, R274). -/
def State.failLocal (s : State) (quad key : Nat) : State :=
  let x := s.qline quad key
  if x.lmask = 0#128 then s
  else
    let s := if x.writer = 0 then s else s.modThread (tidOf (x.writer - 1)) fun th =>
      if th.live then th.pend { cause := 8, tval := w32 (keyAddr key), telem := 0 } else th
    (s.modQLine quad key fun x => { x with lmask := 0#128, lbytes := [], heal := 0#4 }).linePublished quad key

/-- Data that is not cached reaches a quad (14 R271 NC): the loads that wait for the line, and may be read now, take it. -/
def State.giveUncached (s : State) (quad : Nat) (g : Grant) : State :=
  (s.quadThreads quad).foldl (fun s t =>
    let fn := (s.block t.core t.ctx).fn
    let keys := s.group fn g.key
    ((s.thread t).queuesOf .lg).foldl (fun s q => q.entries.foldl (fun s e => e.lanes.foldl (fun s l =>
      if l.arrived || !(s.thread t).acquiredBefore e.seq then s
      else (l.todo (widthBytes e.width)).foldl (fun s x =>
        match (List.range keys.length).find? fun i => keys.getD i 0 == s.keyOf fn x.1 with
        | none => s
        | some i =>
          if !s.partReady t .lg e.seq x then s
          else
            let ln := s.qline quad (s.keyOf fn x.1)
            let byte (a : Nat) : Byte := if ln.lmask.getLsbD (a % 128) then ln.lbytes.getD (a % 128) 0#8
              else g.bytes.getD (128 * i + a % 128) 0#8
            let bad := (g.poison.getD i 0#4).getLsbD (x.1 % 128 / 32)
            (s.observe t e.seq fn x.1 x.2).deliverPart t .lg e l.lane x
              { bytes := (List.range x.2).map fun j => byte (x.1 + j), poison := false, cause := if bad then 0x13 else 0 }) s) s) s) s) s

/-- An answer's effect on a quad: a sleeping cache wakes first (14 R283). -/
def State.takeGrant (s : State) (quad key : Nat) (g : Grant) : State :=
  let x := s.qline quad key
  if s.staleGrant g then { s with grants := s.grants.erase g } else
  let s := { s.wake quad with grants := s.grants.erase g }
  let s := s.modQLine quad key fun x => { x with want := 0, locked := false }
  match g.kind with
  | 0 => s.takeData quad x.fn g 1
  | 1 => s.takeData quad x.fn g 2
  | 2 =>
    if x.want = 3 then
      let keys := s.group x.fn key
      let s := keys.foldl (fun s k => s.modQLine quad k fun x => { x with state := 2 }) s
      keys.foldl (fun s k => s.mergeOwned quad k) s
    else s.clearLocal quad key
  | 3 => s.giveUncached quad g
  | 4 =>
    if x.want = 6 then s.failLocal quad key
    else if x.want = 2 || x.want = 3 then
      ((s.group x.fn key).foldl (fun s k => s.failLocal quad k) s).failAtoms quad key
    else if x.want = 1 then ((s.failLoads quad key).failAtoms quad key).drawn
    else s
  | _ => s

/-- LINE_GRANT (14 R267): a home's answer reaches the quad cache. A PUB of one line of an object is answered at its own
line. -/
def execLineGrant (quad key : Nat) (s : State) : Host.Outcome State Fault Refusal :=
  s.happens (fun s => (s.grantFor quad key (· ≠ 5)).isSome) fun s =>
    match s.grantFor quad key (· ≠ 5) with
    | some g => s.takeGrant quad key g
    | none => s

/-- The home acknowledges an unlink, and the quad drops its pointers. -/
def State.takeUnlink (s : State) (quad key : Nat) (g : Grant) : State :=
  if s.staleGrant g then { s with grants := s.grants.erase g } else
  ({ s with grants := s.grants.erase g }).modQLine quad key fun x => { x with want := 0, locked := false, fwd := 64, bwd := 64 }

/-- UNLINK_ACK (14 R269). -/
def execUnlinkAck (quad key : Nat) (s : State) : Host.Outcome State Fault Refusal :=
  s.happens (fun s => (s.grantFor quad key (· = 5)).isSome) fun s =>
    match s.grantFor quad key (· = 5) with
    | some g => s.takeUnlink quad key g
    | none => s

/-! ## A line's protocol at one instant

Gating, sleep, the log and the host's requests move lines as one event: the messages of the line's own protocol are
delivered within it. -/

/-- The next message about a line under way is delivered; `own` is a line of its object whose write-through is answered by itself. -/
def State.lineStep (s : State) (key own : Nat) : Option State :=
  match s.grants.find? fun g => g.key == key || g.key == own with
  | some g => some (if g.kind = 5 then s.takeUnlink g.quad g.key g else s.takeGrant g.quad g.key g)
  | none =>
    if (s.walkAt key 0).isSome then some (s.stepInvalidation key)
    else if (s.walkAt key 1).isSome then some (s.stepUpdate key)
    else if s.wackMay key then some (s.endWalk key)
    else if (s.recallAt key 1).isSome then some (s.askOwner key 1)
    else if (s.recallAt key 2).isSome then some (s.askOwner key 2)
    else if s.dataMay key then some (s.ownerAnswers key)
    else none

/-- Every message about a line is delivered, up to a number of them. -/
def State.settleLine (s : State) (key own : Nat) : Nat → State
  | 0 => s
  | n + 1 => match s.lineStep key own with
    | some s => s.settleLine key own n
    | none => s

/-- A bound on the messages that one line can have under way: walks of 64 quads for each of the requests that can be queued. -/
def lineMessages : Nat := 65536

/-! ## The write token (14 R275) -/

/-- Lines of a range that hold local bytes in a quad. -/
def State.localInRange (s : State) (quad rid : Nat) : List Nat :=
  ((s.quad quad).lines.filter fun e => e.2.lmask ≠ 0#128 && s.rangeId e.2.fn (keyAddr e.1) == rid
    && (s.rangeIndex e.2.fn (keyAddr e.1)).isSome).map (·.1)

/-- A quad wants the token of a range: it has local bytes there, or an atomic to perform. -/
def State.wantsToken (s : State) (quad rid : Nat) : Bool :=
  let r := s.range (rid / 64) (rid % 64)
  r.valid && s.writePath r.slot = 2 && (s.tokenOf rid).2 ≠ quad
    && (!(s.localInRange quad rid).isEmpty || (s.atomNeeds quad).any fun n => s.rangeId n.fn n.addr == rid)
    && !(s.die r.die).tokenQ.any fun q => q.1 == rid && q.2 == quad

/-- TREQ (14 R275): free, it is passed; held, its holder is asked to drain; passing, the request waits. The range's queue
holds the request that the token is passing to first. -/
def execTreq (quad rid : Nat) (s : State) : Host.Outcome State Fault Refusal :=
  s.happens (fun s => s.wantsToken quad rid) fun s =>
    let r := s.range (rid / 64) (rid % 64)
    let t := s.tokenOf rid
    let e := s.entry r.slot t.1 10
    if e.acts.contains 15 then s.setToken rid (e.next, quad)
    else
      let s := if e.acts.contains 16 then s.setToken rid (e.next, t.2) else s
      s.modDie r.die fun d => { d with tokenQ := d.tokenQ ++ [(rid, quad)] }

/-- TOKEN_DRAIN_REQUEST (14 R275): the holder is asked to drain; it publishes its local bytes in the range, each by a
publication of its own. -/
def execTokenDrainRequest (rid : Nat) (s : State) : Host.Outcome State Fault Refusal :=
  s.happens (fun s => (s.tokenOf rid).1 = 10) fun s =>
    let q := (s.tokenOf rid).2
    (s.localInRange q rid).foldl (fun s k => if s.mayPublish q k then s.modQLine q k fun x => { x with want := 6 } else s) s

/-- A holder has drained. -/
def State.drained (s : State) (quad rid : Nat) : Bool :=
  let t := s.tokenOf rid
  t.1 = 10 && t.2 = quad && (s.localInRange quad rid).isEmpty

/-- TDONE (14 R275): the token passes to the request that waits, or is free again for one that has gone. -/
def execTdone (quad rid : Nat) (s : State) : Host.Outcome State Fault Refusal :=
  s.happens (fun s => s.drained quad rid) fun s =>
    let r := s.range (rid / 64) (rid % 64)
    let q := (s.die r.die).tokenQ
    match q.find? fun x => x.1 == rid with
    | none => s.setToken rid (8, 64)
    | some x =>
      let s := s.modDie r.die fun d => { d with tokenQ := d.tokenQ.erase x }
      let s := s.setToken rid ((s.entry r.slot 10 11).next, x.2)
      if (q.erase x).any fun y => y.1 == rid then s.setToken rid ((s.entry r.slot (s.tokenOf rid).1 10).next, x.2) else s

/-! ## Publication and eviction as one event (14 R267, R282, R283; 15 R298) -/

/-- Publishes a line by a write-through, delivered within the event. -/
def State.pubNow (s : State) (quad key : Nat) : State :=
  (s.sendPub quad key).settleLine (s.dirKey (s.qline quad key).fn key) key lineMessages

/-- The write token of a range passes to a quad: its holder publishes what it holds there first; requests that wait go on waiting. -/
def State.seizeToken (s : State) (quad rid : Nat) : State :=
  let t := s.tokenOf rid
  if t.1 ≠ 8 && t.2 = quad then s
  else
    let s := if t.1 = 8 then s else (s.localInRange t.2 rid).foldl (fun s k => s.pubNow t.2 k) s
    let waits := (s.die (s.range (rid / 64) (rid % 64)).die).tokenQ.any fun q => q.1 == rid
    s.setToken rid (if waits then 10 else 9, quad)

/-- Publishes a line's local bytes by the write path of its protocol, all within one event: by an ownership request, or by a write-through,
which needs the range's token where there is one. Without a translation for writing they are lost (15 R299). -/
def State.publishNow (s : State) (quad key : Nat) : State :=
  if (s.qline quad key).lmask = 0#128 then s
  else
    let fn := (s.qline quad key).fn
    let dkey := s.dirKey fn key
    let s := s.settleLine dkey key lineMessages
    let x := s.qline quad key
    if x.lmask = 0#128 then s
    else if x.state = 2 then s.mergeOwned quad key
    else match s.translate fn (keyAddr key) 7 with
      | .ok _ =>
        match s.writePath (s.slotOf fn (keyAddr key)) with
        | 0 => (s.sendRequest quad fn dkey (if (s.qline quad dkey).state = 1 then 2 else 1) []).settleLine dkey key lineMessages
        | 2 => (s.seizeToken quad (s.rangeId fn (keyAddr key))).pubNow quad key
        | _ => s.pubNow quad key
      | _ => s.loseLocal quad key

/-- Publishes, unlinks and drops a line, or the object that it belongs to (15 R298), by the table's entries for an eviction. -/
def State.purgeLine (s : State) (quad key : Nat) : State :=
  let fn := (s.qline quad key).fn
  let dkey := s.dirKey fn key
  let s := (s.group fn dkey).foldl (fun s k => s.publishNow quad k) (s.settleLine dkey key lineMessages)
  match (s.qline quad dkey).state with
  | 0 => s.modQLine quad key fun x => { x with state := 0, bytes := [], want := 0 }
  | 1 => ((s.dropCoherent quad fn dkey).sendRequest quad fn dkey 3 []).settleLine dkey key lineMessages
  | _ =>
    let bytes := s.heldBytes quad fn dkey
    ((s.dropCoherent quad fn dkey).sendRequest quad fn dkey 4 bytes).settleLine dkey key lineMessages

end Sys2Proof.Machine
end

