-- ==== Sys2Proof/Machine/Control.lean ====
section
/-! DEFINITION. The control instructions of C (04 R63 to R82). -/

namespace Sys2Proof.Machine

/-- A relative target (04 R63). -/
def State.relTarget (s : State) (off : Word) : Word := s.cur.pc + off

/-- The issuing split's next bundle is at a target (04 R67). -/
def State.goTo (s : State) (a : Word) (how : Arrive) : State := s.modSelfSplit fun sp => { sp with pc := a, arrive := how }

/-- The loops open in the issuing split at the start of its bundle. -/
def State.loops (s : State) : List LoopLevel := (s.cur.image.split s.cur.split).loops

/-- A target is outside the innermost body while a loop is open (04 R75). -/
def State.leavesBody (s : State) (a : Word) : Bool :=
  match s.loops.getLast? with
  | some l => !insideBody l a
  | none => false

/-- A split-wide control trigger that reads C.t alone (04 R64). -/
def controlAction (h : Head) (readsT : Bool) (own : State → Option TrapRec) (effect : State → State) : Action :=
  Action.trigger h { ops := [], t := readsT, wide := true } { Action.idle with own := own, effect := effect }

/-! ## BRA, CALL, RET, LEXT (04 R67) -/

/-- BRA's check: a target inside the innermost body. -/
def braCheck (h : Head) (s : State) : Option TrapRec :=
  let a := s.relTarget (s.lead h)
  if s.leavesBody a then some (s.before 0x02 a) else none

/-- BRA (04 R67). -/
def execBra (h : Head) (s : State) : Host.Outcome State Fault Refusal :=
  (controlAction h true (braCheck h) fun s => s.goTo (s.relTarget (s.lead h)) .jump).outcome s

/-- CALL's checks: word 2 of a line, then no loop open. The bundle of a CALL that names another word takes no effect: R67 makes this
check beside the one of trap 0x02, before the target is looked at (DEDUCED; log 63). -/
def callCheck (h : Head) (s : State) : Option TrapRec :=
  let a := s.relTarget (s.lead h)
  if a.toNat % 128 ≠ 8 then some { cause := 0x04, tval := a, telem := 0, tepc := a }
  else if !s.loops.isEmpty then some (s.trapWord 0x02) else none

/-- CALL (04 R67): the link goes to C.q of every active lane. -/
def execCall (h : Head) (s : State) : Host.Outcome State Fault Refusal :=
  (controlAction h true (callCheck h) fun s =>
    let m := s.active
    (s.modThread s.cur.tid fun th => th.wrMask (.res .cq) m fun _ => s.cur.next).goTo (s.relTarget (s.lead h)) .jump).outcome s

/-- RET's check: no loop open. -/
def retCheck (s : State) : Option TrapRec := if !s.loops.isEmpty then some (s.trapWord 0x02) else none

/-- RET (04 R67). -/
def execRet (h : Head) (s : State) : Host.Outcome State Fault Refusal :=
  (controlAction h true retCheck fun s => s.goTo (s.lead h) .jump).outcome s

/-- LEXT's checks: a loop open, and a target outside its body. -/
def lextCheck (h : Head) (s : State) : Option TrapRec :=
  let a := s.relTarget (s.lead h)
  match s.loops.getLast? with
  | none => some (s.trapWord 0x02)
  | some l => if insideBody l a then some (s.before 0x02 a) else none

/-- LEXT (04 R67): leaves the innermost loop. -/
def execLext (h : Head) (s : State) : Host.Outcome State Fault Refusal :=
  (controlAction h true (lextCheck h) fun s =>
    (s.modSelfSplit fun sp => { sp with loops := sp.loops.dropLast }).goTo (s.relTarget (s.lead h)) .jump).outcome s

/-! ## BRC (04 R69) -/

/-- The lane from which BRC's join offset comes. -/
def State.firstActive (s : State) : Nat := (lowest s.active).getD 0

/-- The join address that a dividing BRC names. -/
def State.joinTarget (s : State) : Word := s.relTarget (s.oper .ca s.firstActive)

/-- A line that a dividing BRC still has to fetch (04 R69): the target's, then, where the target is good, the join address's. -/
def State.brcLacks (s : State) (a j : Word) : Option Word :=
  let lacks (x : Word) : Bool := (s.codeLine s.cur.tid x).isNone && (s.selfSplit.fetchFault x).isNone
  if lacks a then some a
  else match s.codeLine s.cur.tid a with
    | none => none
    | some line => if (targetTrap line a).isNone && lacks j then some j else none

/-- What a BRC waits to have fetched: it reads both its addresses through the instruction fetch path, where it divides. -/
def brcNeeds (h : Head) (s : State) : Option Word :=
  if s.guard h.guard = s.active then none else s.brcLacks (s.relTarget (s.lead h)) s.joinTarget

/-- The target and the join address of a dividing BRC (04 R69): each line's header, then its mark, TEPC the address; a line that
could not be fetched traps as at a bundle of that line (target, 15 R364) or as code that LOOP reads (join address; DEDUCED,
log 63). -/
def State.brcTargets (s : State) (a j : Word) : Option TrapRec :=
  match s.codeLine s.cur.tid a with
  | none => (s.selfSplit.fetchFault a).map fun f => { cause := f.1, tval := f.2, telem := 0, tepc := f.2 }
  | some la => match targetTrap la a with
    | some r => some r
    | none => match s.codeLine s.cur.tid j with
      | none => (s.selfSplit.fetchFault j).map fun f => s.before f.1 f.2
      | some lj => targetTrap lj j

/-- BRC's own checks, in the order of R69. -/
def brcCheck (h : Head) (s : State) : Option TrapRec :=
  let m := s.guard h.guard
  let a := s.relTarget (s.lead h)
  if m = s.active then (if s.leavesBody a then some (s.before 0x02 a) else none)
  else
    let j := s.joinTarget
    match s.brcTargets a j with
    | some r => some r
    | none =>
      if s.leavesBody a then some (s.before 0x02 a)
      else if s.self.freeJoin.isNone then some (s.before 0x02 j)
      else none

/-- The block that the issuing split belongs to is asked to yield (07 R135). -/
def State.yielding (s : State) : Bool := s.selfBlock.yield.isSome && s.selfBlock.yieldFrom ≤ s.clk

/-- A BRC that would make a new split is not executed while a yield is pending (07 R135). -/
def brcWaits (h : Head) (s : State) : Bool :=
  s.yielding && s.guard h.guard ≠ s.active && s.self.freeSplit.isSome

/-- A dividing BRC reads C.a of the lowest active lane. -/
def brcTagged (h : Head) (s : State) : Option TrapRec :=
  if s.guard h.guard ≠ s.active then s.operBad .ca (laneMask s.firstActive) else none

/-- Divides the issuing split (04 R69): peers where the split table has a free entry, else serial. -/
def Thread.divide (th : Thread) (i : Nat) (taken : Mask) (target join next : Word) (delay : Nat) (place : Place) : Thread :=
  let p := th.split i
  let rest := p.mask &&& ~~~taken
  match th.freeJoin with
  | none => th
  | some e =>
    let entry := { JoinEntry.empty with used := true, join := join, expect := p.mask, parent := p.entry }
    match th.freeSplit with
    | some k =>
      let th := th.setJoin e entry
      let th := th.setSplit i { p with mask := rest, pc := next, arrive := .fall, entry := some e }
      th.setSplit k { p with mask := taken, pc := target, arrive := .jump, entry := some e, place := place }
    | none =>
      let th := th.setJoin e { entry with serial := true, held := rest, resume := next, saved := p, delay := delay }
      th.setSplit i { p with mask := taken, pc := target, arrive := .jump, entry := some e }

/-- BRC (04 R69). -/
def execBrc (h : Head) (s : State) : Host.Outcome State Fault Refusal :=
  (Action.trigger h { ops := [], t := true, wide := true }
    { Action.idle with
      waits := brcWaits h
      needs := brcNeeds h
      poison := brcTagged h
      own := brcCheck h
      effect := fun s =>
        let m := s.guard h.guard
        let a := s.relTarget (s.lead h)
        if m = s.active then s.goTo a .jump
        else s.modThread s.cur.tid fun th =>
          th.divide s.cur.split m a s.joinTarget s.cur.next s.cur.delay (s.newPlace s.cur.tid) }).outcome s

/-! ## Unguarded triggers (04 R64) -/

/-- The head of a trigger that carries the guard `always`. -/
def alwaysHead (x : Src) (k : Fin 4) : Head := { guard := .always, src := x, hold := k }

/-- The entry that a JOIN at this bundle closes (04 R70). -/
def State.joinEntry (s : State) : Option Nat :=
  match s.selfSplit.entry with
  | some e => if (s.self.join e).join = s.cur.pc then some e else none
  | none => none

/-- JOIN's check: lanes that arrived before have equal loop state (04 R70). -/
def joinCheck (s : State) : Option TrapRec :=
  match s.joinEntry with
  | some e =>
    let j := s.self.join e
    if j.arrived ≠ 0#32 && !sameLoops s.loops j.loops then some (s.before 0x02 s.cur.pc) else none
  | none => none

/-- The issuing split arrives at its JOIN (04 R70). -/
def Thread.arriveJoin (th : Thread) (clk i e delay : Nat) (next : Word) : Thread :=
  let sp := th.split i
  let j := th.join e
  let th := th.setJoin e { j with
    arrived := j.arrived ||| sp.mask, loops := sp.loops, sched := sp.sched, rep := sp.rep, late := max j.late delay,
    since := clk, first := if j.arrived = 0#32 then clk else j.first, after := next }
  ((th.setSplit i Split.empty).startHeld clk e).tryMerge clk e

/-- JOIN (04 R70): no control effect where the split's entry does not name this bundle. -/
def execJoin (x : Src) (k : Fin 4) (s : State) : Host.Outcome State Fault Refusal :=
  (Action.trigger (alwaysHead x k) { ops := [], t := false, wide := true }
    { Action.idle with
      own := joinCheck
      effect := fun s => match s.joinEntry with
        | some e => s.modThread s.cur.tid fun th => th.arriveJoin s.clk s.cur.split e s.cur.delay s.cur.next
        | none => s }).outcome s

/-- The body that a LOOP at this bundle opens (04 R71). -/
def State.loopBody (s : State) : BodyScan :=
  let line := (s.codeLine s.cur.tid s.cur.pc).getD []
  s.scanBody s.cur.tid 64 s.cur.next 0
    (slotWords line s.cur.pc ((s.cur.image.split s.cur.split).rep.map fun r => r.map (·.word)))

/-- The rings of a ring word that rotate: base and length (04 R71). -/
def rotating (w : Word) : List (Nat × Nat) := ((List.range 3).map (ringOf w)).filter fun r => 1 < r.2

/-- Two rings overlap. -/
def ringsMeet (a b : Nat × Nat) : Bool := a.1 < b.1 + b.2 && b.1 < a.1 + a.2

/-- Some ring of a list meets a later one. -/
def ringsClash : List (Nat × Nat) → Bool
  | [] => false
  | r :: rest => rest.any (ringsMeet r) || ringsClash rest

/-- A ring word that LOOP rejects (04 R71). -/
def ringBad (limit : Nat) (w : Word) (open_ : List LoopLevel) : Bool :=
  let rs := rotating w
  rs.any (fun r => limit < r.1 + r.2) || ringsClash rs
    || rs.any fun r => open_.any fun l => (rotating l.ring).any (ringsMeet r)

/-- The registers a thread may name. -/
def State.regLimit (s : State) : Nat := if s.cur.tid.isSluice then 64 else s.selfBlock.nregs

/-- A fetch of a body's line that ended in a fault: its first word, and the cause (04 R71, 15 R364). -/
def State.bodyFault (s : State) : Option (Nat × Word) :=
  match s.loopBody with
  | .need a => s.selfSplit.fetchFault a
  | _ => none

/-- LOOP's own checks (04 R71). With two levels open the trap strikes at once, and no line of the body is fetched or found missing before it: the
rule gives these no order (DESIGN CHOICE; log 75). -/
def loopCheck (h : Head) (s : State) : Option TrapRec :=
  let n := s.trig h s.firstActive
  let ring := s.oper .ca s.firstActive
  if 2 ≤ s.loops.length then some (s.before 0x02 n)
  else match s.bodyFault with
    | some (cause, a) => some (s.before cause a)
    | none => match s.loopBody with
      | .none_ => some (s.before 0x02 n)
      | _ => if ringBad s.regLimit ring s.loops then some (s.before 0x02 ring) else none

/-- LOOP waits while a line of its body is still to be fetched (04 R71). -/
def State.loopNeeds (s : State) : Option Word :=
  if 2 ≤ s.loops.length then none
  else match s.loopBody, s.bodyFault with
    | .need a, none => some a
    | _, _ => none

/-- Opens a loop level, or skips the body where there is no iteration (04 R71, R72). -/
def State.openLoop (s : State) (n ring lback : Word) : State :=
  let stages := ring.bits 31 30 + 1
  if n.toNat + stages - 1 = 0 then
    let line := (s.codeLine s.cur.tid lback).getD []
    s.goTo (nextBundle line lback) .back
  else s.modSelfSplit fun sp =>
    { sp with loops := sp.loops ++ [{ n := n.toNat, i := 0, ring := ring, body := s.cur.next, lback := lback }] }

/-- LOOP (04 R71, R72). -/
def execLoop (x : Src) (k : Fin 4) (s : State) : Host.Outcome State Fault Refusal :=
  let h := alwaysHead x k
  (Action.trigger h { ops := [.ca], t := true, wide := true }
    { Action.idle with
      needs := fun s => s.loopNeeds
      own := loopCheck h
      effect := fun s => match s.loopBody with
        | .found lback => s.openLoop (s.trig h s.firstActive) (s.oper .ca s.firstActive) lback
        | _ => s }).outcome s

/-- LBACK's check: it ends the innermost body (04 R73). -/
def lbackCheck (s : State) : Option TrapRec :=
  match s.loops.getLast? with
  | some l => if l.lback = s.cur.pc then none else some (s.trapWord 0x02)
  | none => some (s.trapWord 0x02)

/-- The back edge (04 R73): the next iteration, or the loop level closes. -/
def State.closeBody (s : State) : State :=
  match s.selfSplit.loops.getLast? with
  | some l =>
    if l.i + 2 < l.n + l.stages then
      s.modSelfSplit fun sp => { sp with loops := sp.loops.dropLast ++ [{ l with i := l.i + 1 }], pc := l.body, arrive := .back }
    else s.modSelfSplit fun sp => { sp with loops := sp.loops.dropLast }
  | none => s

/-- LBACK (04 R73). -/
def execLback (x : Src) (k : Fin 4) (s : State) : Host.Outcome State Fault Refusal :=
  (Action.trigger (alwaysHead x k) { ops := [], t := false, wide := true }
    { Action.idle with own := lbackCheck, effect := fun s => s.closeBody }).outcome s

/-- RFL (04 R77): a split that holds every non-vacant lane asks the Rill, and its next bundle waits for the grant; any
other split only reads its mask. -/
def execRfl (x : Src) (k : Fin 4) (s : State) : Host.Outcome State Fault Refusal :=
  (Action.trigger (alwaysHead x k) { ops := [], t := false, wide := true }
    { Action.idle with
      effect := fun s =>
        let m := s.selfSplit.mask
        if m = s.self.occupied then s.modSelfSplit fun sp => { sp with rill := true }
        else s.modThread s.cur.tid fun th => th.wrMask (.res .cq) m fun _ => m }).outcome s

/-! ## EXIT and END (04 R76, R79, R85) -/

/-- EXIT (04 R76): per lane. -/
def execExit (h : Head) (s : State) : Host.Outcome State Fault Refusal :=
  (Action.trigger h { ops := [], t := false, wide := false }
    { Action.idle with effect := fun s => s.vacateWarp s.cur.tid (s.guard h.guard) true }).outcome s

/-- Ends the task that a Sluice context runs (04 R85): the sequencer may pick again in the next cycle. -/
def State.endTask (s : State) (t : Tid) : State :=
  let s := s.modThread t fun th =>
    { th.unaside with level := false, splits := List.replicate 4 Split.empty, joins := List.replicate 8 JoinEntry.empty }
  let s := s.modBlock t.core t.ctx fun b =>
    { b with running := none, firstIssue := none, paused := 0, pauseFrom := none, mayPick := s.clk + 1 }
  s.checkBlock t.core t.ctx

/-- END (04 R79, R85): the warp ends at once and no new one starts in its slot; in Sluice code the task ends. -/
def execEndTask (h : Head) (s : State) : Host.Outcome State Fault Refusal :=
  (controlAction h false (fun _ => none) fun s =>
    if s.cur.tid.isSluice then s.endTask s.cur.tid else s.vacateWarp s.cur.tid (BitVec.allOnes 32) false).outcome s

/-! ## PSW, BRK, WAIT (04 R80 to R82) -/

/-- The core's granted level (04 R81). -/
def State.granted (s : State) : Nat := s.selfCore.level.bits 1 0

/-- PSW's check of its entry, where the schedule changes (04 R81). -/
def pswCheck (h : Head) (s : State) : Option TrapRec :=
  if s.granted = s.selfSplit.sched then none
  else if s.selfBlock.swtab.bits 7 0 ≤ (s.lead h).toNat then some (s.before 0x02 (s.lead h)) else none

/-- The address of a switch-table word (04 R81). -/
def State.switchWord (s : State) (e : Word) : Word :=
  w32 (s.selfBlock.swtab.bits 31 8 * 256 + (e.toNat * 3 + s.granted) * 4)

/-- PSW (04 R81): the table word is read through the instruction fetch path before the split's next bundle. -/
def execPsw (h : Head) (s : State) : Host.Outcome State Fault Refusal :=
  (controlAction h true (pswCheck h) fun s =>
    if s.granted = s.selfSplit.sched then s
    else s.modSelfSplit fun sp => { sp with switch_ := some (s.switchWord (s.lead h), s.granted) }).outcome s

/-- Notes the trap that strikes after the bundle (16 R309); one that is noted already stands first (16 R324). -/
def State.noteAfter (s : State) (cause : Nat) (tval : Word) : State :=
  match s.cur.after with
  | none => { s with cur := { s.cur with after := some { cause := cause, tval := tval, telem := 0, tepc := s.cur.next } } }
  | some _ => s.modThread s.cur.tid fun th => th.pend { cause := cause, tval := tval, telem := 0 }

/-- BRK (04 R82). -/
def execBrk (h : Head) (s : State) : Host.Outcome State Fault Refusal :=
  (controlAction h true (fun _ => none) fun s => s.noteAfter 0x0B (s.lead h)).outcome s

/-- WAIT (04 R80): the split's next bundle issues v cycles later. -/
def execWait (h : Head) (s : State) : Host.Outcome State Fault Refusal :=
  (controlAction h true (fun _ => none) fun s =>
    s.modSelfSplit fun sp => { sp with ready := sp.ready + (s.lead h).toNat, waited := true }).outcome s

end Sys2Proof.Machine
end

