-- ==== Sys2Proof/Machine/Copy.lean ====
section
/-! DEFINITION. The copy instructions at their issue (12 R236 to R251): their checks, and the commands that CP0 and CP1 then
run. -/

namespace Sys2Proof.Machine

/-- The engine of a copy unit. -/
def copyEngine (u : Fin 2) : Nat := 1 + u.val

/-- A barrier-object offset that CPn.b holds when t[23] is 1: its alignment and region (12 R238). -/
def State.objectBad (s : State) (a : Word) : Option TrapRec :=
  if a.toNat % 16 ≠ 0 then some (s.before 0x05 a)
  else if (s.scratchAt s.cur.tid.core s.cur.tid.ctx a 16).isNone then some (s.before 0x08 a) else none

/-- The object check of a copy trigger. -/
def copyObject (h : Head) (u : Fin 2) (s : State) : Option TrapRec :=
  if (s.lead h).bit 23 then s.objectBad (s.leadOper h (engineB (copyEngine u))) else none

/-- The poison of CPn.b, which is read only where t[23] is 1. -/
def copyTagged (h : Head) (u : Fin 2) (s : State) : Option TrapRec :=
  if (s.lead h).bit 23 then s.operBad (engineB (copyEngine u)) 1#32 else none

/-- The first trap of a list. -/
def firstTrap : List (Option TrapRec) → Option TrapRec
  | [] => none
  | some r :: _ => some r
  | none :: rest => firstTrap rest

/-- The bytes of a tensor (12 R240). -/
def Rec.bytes (r : Rec) : Nat := Rec.rowBytes r * Rec.rows r

/-- The largest tensor that a copy takes (12 R240). -/
def copyLimit : Nat := 16776960

/-- A record that no copy takes: a companion, or a tensor without a byte. -/
def copyRecBad (r : Rec) : Bool := Rec.companion r || Rec.bytes r = 0

/-- Equal dimensions at every rank. -/
def sameDims (a b : Rec) : Bool := Rec.rank a == Rec.rank b && (List.range 4).all fun i => Rec.dim a i == Rec.dim b i

/-- Equal format and planes. -/
def sameFormat (a b : Rec) : Bool := Rec.format a == Rec.format b && Rec.planes a == Rec.planes b

/-- Source and destination slots of a copy value. -/
def copySrc (v : Word) : Nat := v.bits 11 6
def copyDst (v : Word) : Nat := v.bits 5 0

/-- A copy trigger: `recs` are the slots whose records it copies. -/
def copyAction (h : Head) (u : Fin 2) (opcode : Nat) (ops : List OpPort) (recs : Word → List Nat)
    (own : State → Option TrapRec) : Action :=
  Action.trigger h { ops := ops, t := true, wide := true }
    { Action.idle with
      waits := fun s => s.commandWaits (copyEngine u)
      takes := oneCommand
      poison := copyTagged h u
      own := own
      effect := fun s =>
        let v := s.lead h
        s.issueCommand (s.newCommand (copyEngine u) opcode (s.leadOper h (engineA (copyEngine u)))
          (s.leadOper h (engineB (copyEngine u))) v ((recs v).map s.rec_)) }

/-! ## CPY and CPF (12 R240, R241) -/

/-- CPY's checks, in the order of R238. -/
def cpyCheck (h : Head) (u : Fin 2) (s : State) : Option TrapRec :=
  let v := s.lead h
  let src := s.rec_ (copySrc v)
  let dst := s.rec_ (copyDst v)
  firstTrap
    [firstBad s [(s.storeAbsent src || s.storeAbsent dst, 0x15, s.cur.word), (notifyBad v || v.bits 22 12 ≠ 0, 0x02, v)],
     copyObject h u s,
     firstBad s
       [(!Rec.companion dst && Rec.space dst = 2 && !s.selfBlock.wstage, 0x08, w32 (copyDst v)),
        (copyRecBad src, 0x09, w32 (copySrc v)), (copyRecBad dst, 0x09, w32 (copyDst v)),
        (!sameFormat src dst || !sameDims src dst || copyLimit < Rec.bytes dst, 0x09, w32 (copyDst v))]]

/-- CPY (12 R240). -/
def execCpy (h : Head) (u : Fin 2) (s : State) : Host.Outcome State Fault Refusal :=
  (copyAction h u 0 [] (fun v => [copySrc v, copyDst v]) (cpyCheck h u)).outcome s

/-- CPF's checks. The limit of bytes is the one that 12 R240 gives for CPY; 12 R241 is silent (DESIGN CHOICE; log 75). -/
def cpfCheck (h : Head) (u : Fin 2) (s : State) : Option TrapRec :=
  let v := s.lead h
  let dst := s.rec_ (copyDst v)
  firstTrap
    [firstBad s [(s.storeAbsent dst, 0x15, s.cur.word), (notifyBad v || v.bits 22 6 ≠ 0, 0x02, v)],
     copyObject h u s,
     firstBad s
       [(!Rec.companion dst && Rec.space dst = 2, 0x08, w32 (copyDst v)),
        (copyRecBad dst || 10 < Rec.format dst || copyLimit < Rec.bytes dst, 0x09, w32 (copyDst v))]]

/-- CPF (12 R241). -/
def execCpf (h : Head) (u : Fin 2) (s : State) : Host.Outcome State Fault Refusal :=
  (copyAction h u 7 [engineA (copyEngine u)] (fun v => [copyDst v]) (cpfCheck h u)).outcome s

/-! ## GTH and SCT (12 R242, R243) -/

/-- An index list that no gather or scatter takes. -/
def indexListBad (r : Rec) : Bool :=
  let size := if (Rec.w r 0).bits 7 4 = 4 then 4 else 2
  !Rec.companion r || Rec.kind r ≠ 2 || (Rec.w r 0).bits 9 8 = 2 || !((Rec.w r 0).bits 7 4 = 4 || (Rec.w r 0).bits 7 4 = 6)
    || Rec.base r % size ≠ 0 || (Rec.w r 3).bits 15 0 = 0

/-- Records that no gather or scatter takes: `listed` is the one with the index list, `other` the other one. -/
def gatherBad (listed list other : Rec) : Bool :=
  copyRecBad listed || copyRecBad other || Rec.rank listed ≠ 2 || Rec.rank other ≠ 2 || !sameFormat listed other
    || Rec.dim listed 0 ≠ Rec.dim other 0 || (formatBits (Rec.format listed) = 4 && Rec.dim listed 0 % 2 ≠ 0)
    || !Rec.hasCompanion listed || indexListBad list || Rec.dim other 1 < (Rec.w list 3).bits 15 0

/-- The checks of GTH and SCT. -/
def gatherCheck (h : Head) (u : Fin 2) (scatter : Bool) (s : State) : Option TrapRec :=
  let v := s.lead h
  let src := s.rec_ (copySrc v)
  let dst := s.rec_ (copyDst v)
  let i := if scatter then copyDst v else copySrc v
  let other := if scatter then src else dst
  firstTrap
    [firstBad s [(s.storeAbsent src || s.storeAbsent dst, 0x15, s.cur.word), (notifyBad v || v.bits 22 12 ≠ 0, 0x02, v)],
     copyObject h u s,
     firstBad s
       [(!Rec.companion dst && Rec.space dst = 2, 0x08, w32 (copyDst v)),
        (gatherBad (s.rec_ i) (s.rec_ (i + 1)) other, 0x09, w32 i)]]

/-- GTH (12 R243). -/
def execGth (h : Head) (u : Fin 2) (s : State) : Host.Outcome State Fault Refusal :=
  (copyAction h u 1 [] (fun v => [copySrc v, copyDst v, copySrc v + 1]) (gatherCheck h u false)).outcome s

/-- SCT (12 R243). -/
def execSct (h : Head) (u : Fin 2) (s : State) : Host.Outcome State Fault Refusal :=
  (copyAction h u 2 [] (fun v => [copySrc v, copyDst v, copyDst v + 1]) (gatherCheck h u true)).outcome s

/-! ## Collectives (12 R248 to R251) -/

/-- The address of the copy-control block. -/
def State.controlAddr (s : State) (h : Head) (u : Fin 2) : Nat :=
  (s.leadOper h (engineA (copyEngine u))).toNat + (s.leadOper h (engineB (copyEngine u))).toNat * 2 ^ 32

/-- A word of the copy-control block as the issuing engine reads it. -/
def State.controlWord (s : State) (h : Head) (u : Fin 2) (i : Nat) : Word :=
  wordOf (s.quadBytes (quadOf s.cur.tid.core) s.selfBlock.fn (s.controlAddr h u + 4 * i) 4)

/-- Where the party table lies, and its parties. -/
def State.tableAddr (s : State) (h : Head) (u : Fin 2) : Nat :=
  (s.controlWord h u 6).toNat + (s.controlWord h u 7).toNat * 2 ^ 32
def State.partyCount (s : State) (h : Head) (u : Fin 2) : Nat := 2 ^ (s.controlWord h u 0).bits 19 16

/-- A word of the party table. -/
def State.partyWord (s : State) (h : Head) (u : Fin 2) (i : Nat) : Word :=
  wordOf (s.quadBytes (quadOf s.cur.tid.core) s.selfBlock.fn (s.tableAddr h u + 4 * i) 4)

/-- The first word of a copy-control block that R248 refuses, by index: ARD's root is 0, and BCS ignores the operation. -/
def controlBad (bcast : Bool) (w : Nat → Word) : Option Nat :=
  let w0 := w 0
  let n := w0.bits 19 16
  let ty := w0.bits 23 20
  let op := if bcast then 0 else w0.bits 27 24
  let bad (i : Nat) : Bool := match i with
    | 0 => w0.bits 31 28 ≠ 0 || 5 < op || !(ty = 0 || ty = 3 || ty = 4) || (ty = 0 && 3 ≤ op) || n = 0 || 12 < n
    | 1 => (w 1).bits 31 28 ≠ 0 || (w 1).bits 15 12 ≠ 0 || 2 ^ n ≤ (w 1).bits 27 16 || 2 ^ n ≤ (w 1).bits 11 0
      || (!bcast && (w 1).bits 27 16 ≠ 0)
    | 2 => (w 2).toNat % 4 ≠ 0 || (w 2).toNat < 4 || 268431360 < (w 2).toNat
    | 3 => (w 3).bits 31 1 ≠ 0
    | 4 => false
    | 6 => (w 6).toNat % 64 ≠ 0
    | 7 => (w 7).bits 31 25 ≠ 0
    | _ => w i ≠ 0#32
  (List.range 16).find? bad

/-- The control word refused. -/
def State.controlRefused (s : State) (h : Head) (u : Fin 2) (bcast : Bool) : Option Nat :=
  controlBad bcast (s.controlWord h u)

/-- The first misaligned word of the party table; BCS ignores the receive areas. -/
def State.partyRefused (s : State) (h : Head) (u : Fin 2) (bcast : Bool) : Option Nat :=
  (List.range (4 * s.partyCount h u)).find? fun i =>
    (i % 4 = 0 || (i % 4 = 2 && !bcast)) && (s.partyWord h u i).toNat % 4 ≠ 0

/-- A party's buffer or receive area lies in a pod-remote range. -/
def State.partyRemote (s : State) (h : Head) (u : Fin 2) (bcast : Bool) : Bool :=
  (List.range (s.partyCount h u)).any fun r =>
    let at_ (i : Nat) := (s.partyWord h u (4 * r + i)).toNat + (s.partyWord h u (4 * r + i + 1)).toNat * 2 ^ 32
    let far (a : Nat) := (s.rangeOf s.selfBlock.fn a).valid && (s.rangeOf s.selfBlock.fn a).policy == 3
    far (at_ 0) || (!bcast && far (at_ 2))

/-- The pages of bytes that the engine reads at issue. -/
def pagesOf (a n : Nat) : List Nat := (List.range ((a % 4096 + n + 4095) / 4096)).map fun i => (a / 4096 + i) * 4096

/-- The first page that is not yet translated for the engine's read. -/
def State.untranslated (s : State) (a n : Nat) : Option Nat :=
  (pagesOf a n).find? fun p => !s.ready s.selfBlock.fn p 4

/-- The page that ARD or BCS waits for: of the copy-control block, then of the party table. -/
def State.collectivePage (s : State) (h : Head) (u : Fin 2) (bcast : Bool) : Option Nat :=
  let a := s.controlAddr h u
  if a % 64 ≠ 0 || 2 ^ 57 ≤ a then none
  else match s.untranslated a 64 with
    | some p => some p
    | none => if (s.controlRefused h u bcast).isSome then none
              else s.untranslated (s.tableAddr h u) (16 * s.partyCount h u)

/-- The page whose translation ended in a fault, with its cause. -/
def State.collectiveFault (s : State) (h : Head) (u : Fin 2) (bcast : Bool) : Option (Nat × Nat) :=
  match s.collectivePage h u bcast, s.selfSplit.pageFault with
  | some p, some (q, cause) => if p / 4096 = q / 4096 then some (p, cause) else none
  | _, _ => none

/-- The engine's reads at issue wait for what the issuing context has written there before (12 R247): the copy-control block, then the
party table. -/
def State.controlPending (s : State) (h : Head) (u : Fin 2) (bcast : Bool) : Bool :=
  let own (a n : Nat) : Bool := s.ownWriteBefore s.cur.tid true s.self.seq a n
  let a := s.controlAddr h u
  a % 64 = 0 && a < 2 ^ 57
    && (own a 64 || ((s.controlRefused h u bcast).isNone && own (s.tableAddr h u) (16 * s.partyCount h u)))

/-- The checks of ARD and BCS. -/
def collectiveCheck (h : Head) (u : Fin 2) (bcast : Bool) (s : State) : Option TrapRec :=
  let v := s.lead h
  let a := s.controlAddr h u
  match s.collectiveFault h u bcast with
  | some (p, cause) => some (s.before cause (w32 p))
  | none =>
    firstTrap
      [firstBad s
         [(notifyBad v || v.bits 23 0 ≠ 0, 0x02, v), (a % 64 ≠ 0, 0x02, w32 a), (2 ^ 57 ≤ a, 0x08, w32 (a / 2 ^ 32))],
       (s.controlRefused h u bcast).map fun i => s.before 0x02 (w32 i),
       (s.partyRefused h u bcast).map fun i => s.before 0x02 (w32 i),
       firstBad s [(s.partyRemote h u bcast && !s.pack.variant.hasPods, 0x15, s.cur.word)],
       if (s.controlWord h u 3).bit 0 then s.objectBad (s.controlWord h u 4) else none]

/-- ARD and BCS at issue: the engine copies the control block and the party table. -/
def collectiveAction (h : Head) (u : Fin 2) (bcast : Bool) : Action :=
  Action.trigger h { ops := [engineA (copyEngine u), engineB (copyEngine u)], t := true, wide := true }
    { Action.idle with
      waits := fun s => s.commandWaits (copyEngine u) || s.controlPending h u bcast
      takes := oneCommand
      page := fun s => if (s.collectiveFault h u bcast).isSome || notifyBad (s.lead h) || (s.lead h).bits 23 0 ≠ 0 then none
                       else (s.collectivePage h u bcast).map fun p => (p, 3 + u.val)
      own := collectiveCheck h u bcast
      effect := fun s =>
        let c := s.newCommand (copyEngine u) (if bcast then 4 else 3) (s.leadOper h (engineA (copyEngine u)))
          (s.leadOper h (engineB (copyEngine u))) (s.lead h) []
        let s' := (s.farRead c.fn (s.controlAddr h u) 64).farRead c.fn (s.tableAddr h u) (16 * s.partyCount h u)
        s'.issueCommand { c with ctl := (List.range 16).map (s.controlWord h u),
                                 parties := (List.range (4 * s.partyCount h u)).map (s.partyWord h u) } }

/-- ARD (12 R249). -/
def execArd (h : Head) (u : Fin 2) (s : State) : Host.Outcome State Fault Refusal := (collectiveAction h u false).outcome s

/-- BCS (12 R250). -/
def execBcs (h : Head) (u : Fin 2) (s : State) : Host.Outcome State Fault Refusal := (collectiveAction h u true).outcome s

/-! ## CPR and CPQ (12 R244) -/

/-- The command that CPR names. -/
def State.cprCommand (s : State) (h : Head) : Option Cmd :=
  s.resumable s.cur.tid.core s.cur.tid.ctx (s.lead h).toNat (· != 0)

/-- CPR's check. -/
def cprCheck (h : Head) (s : State) : Option TrapRec :=
  if (s.lead h).bits 31 24 ≠ 0 || (s.cprCommand h).isNone then some (s.before 0x02 (s.lead h)) else none

/-- CPR (12 R244). -/
def execCpr (h : Head) (u : Fin 2) (s : State) : Host.Outcome State Fault Refusal :=
  (engineAction h [] true (fun _ => false) (fun _ => Takes.none_) (fun _ => none) (cprCheck h) fun s =>
    match s.cprCommand h with
    | some c => s.resumeCommand c (copyEngine u)
    | none => s).outcome s

/-- CPQ (12 R244). -/
def execCpq (h : Head) (u : Fin 2) (s : State) : Host.Outcome State Fault Refusal :=
  (engineAction h [] true (fun _ => false) (fun _ => Takes.none_) (fun _ => none) (tagCheck h) fun s =>
    s.answerNext (copyEngine u) (s.queryTag (s.lead h).toNat)).outcome s

end Sys2Proof.Machine
end

