-- ==== Sys2Proof/Machine/Cross.lean ====
section
/-! DEFINITION. The cross-lane instructions of X (08 R158 to R164). `p` is the mask of participants, `d` and `a` the
values that lanes deliver and hold. -/

namespace Sys2Proof.Machine

/-- What lane `l` receives from lane `k`, its own value where `k` does not take part (08 R159). -/
def fromLane (p : Mask) (d : Nat → Word) (l k : Nat) : Word := if p.getLsbD k then d k else d l

def opShfl (p : Mask) (d a : Nat → Word) (l : Nat) : Word := fromLane p d l ((a l).bits 4 0)
def opShup (p : Mask) (d a : Nat → Word) (l : Nat) : Word :=
  if (a l).bits 4 0 ≤ l then fromLane p d l (l - (a l).bits 4 0) else d l
def opShdn (p : Mask) (d a : Nat → Word) (l : Nat) : Word :=
  if l + (a l).bits 4 0 ≤ 31 then fromLane p d l (l + (a l).bits 4 0) else d l
def opShxr (p : Mask) (d a : Nat → Word) (l : Nat) : Word := fromLane p d l (l ^^^ (a l).bits 4 0)
def opBcst (p : Mask) (d a : Nat → Word) (l : Nat) : Word := fromLane p d l ((a ((lowest p).getD 0)).bits 4 0)

def opBall (p : Mask) (d _ : Nat → Word) (_ : Nat) : Word := maskWhere fun k => p.getLsbD k && d k ≠ 0#32
def opVany (p : Mask) (d _ : Nat → Word) (_ : Nat) : Word := boolWord ((lanesOf p).any fun k => d k ≠ 0#32)
def opVall (p : Mask) (d _ : Nat → Word) (_ : Nat) : Word := boolWord ((lanesOf p).all fun k => d k ≠ 0#32)
def opMatch (p : Mask) (d _ : Nat → Word) (l : Nat) : Word := maskWhere fun k => p.getLsbD k && d k = d l
def opMtcha (p : Mask) (d _ : Nat → Word) (l : Nat) : Word := if (lanesOf p).all fun k => d k = d l then p else 0#32

/-- The leader mask of MATCH (08 R161). -/
def leaders (p : Mask) (d : Nat → Word) : Mask :=
  maskWhere fun k => p.getLsbD k && (lanesOf p).all fun n => !(n < k && d n = d k)

/-- Folds an operation over the participants' values, lowest lane first. -/
def foldLanes (p : Mask) (d : Nat → Word) (f : Word → Word → Word) : Word :=
  match lanesOf p with
  | [] => 0#32
  | l :: r => r.foldl (fun a k => f a (d k)) (d l)

def opWadd (p : Mask) (d _ : Nat → Word) (_ : Nat) : Word := foldLanes p d (· + ·)
def opWmin (p : Mask) (d _ : Nat → Word) (_ : Nat) : Word := foldLanes p d fun x y => if x.toInt ≤ y.toInt then x else y
def opWmax (p : Mask) (d _ : Nat → Word) (_ : Nat) : Word := foldLanes p d fun x y => if x.toInt ≤ y.toInt then y else x
def opWminn (p : Mask) (d _ : Nat → Word) (_ : Nat) : Word := foldLanes p d fun x y => if x.toNat ≤ y.toNat then x else y
def opWmaxn (p : Mask) (d _ : Nat → Word) (_ : Nat) : Word := foldLanes p d fun x y => if x.toNat ≤ y.toNat then y else x
def opWand (p : Mask) (d _ : Nat → Word) (_ : Nat) : Word := foldLanes p d (· &&& ·)
def opWor (p : Mask) (d _ : Nat → Word) (_ : Nat) : Word := foldLanes p d (· ||| ·)
def opWxor (p : Mask) (d _ : Nat → Word) (_ : Nat) : Word := foldLanes p d (· ^^^ ·)

/-- One level of WFADD's tree (08 R163): adjacent values are added, to nearest even. -/
def treeLevel : List Rounded → List Rounded
  | x :: y :: r =>
    let z := fp32.add .rn x.bits y.bits false
    { bits := z.bits, raised := z.raised ||| x.raised ||| y.raised } :: treeLevel r
  | r => r

/-- WFADD (08 R163): the sum and the flags its 31 additions raise. -/
def wfaddTree (p : Mask) (d : Nat → Word) : Rounded :=
  let leaf (k : Nat) : Rounded := { bits := if p.getLsbD k then (d k).toNat else 0x80000000, raised := 0#5 }
  (treeLevel (treeLevel (treeLevel (treeLevel (treeLevel ((List.range 32).map leaf)))))).headD
    { bits := 0, raised := 0#5 }

def opWfadd (p : Mask) (d _ : Nat → Word) (_ : Nat) : Word := w32 (wfaddTree p d).bits

def opScan (p : Mask) (d _ : Nat → Word) (l : Nat) : Word :=
  (lanesOf p).foldl (fun a k => if k ≤ l then a + d k else a) 0#32
def opScanx (p : Mask) (d _ : Nat → Word) (l : Nat) : Word :=
  (lanesOf p).foldl (fun a k => if k < l then a + d k else a) 0#32

/-- PLN and PLG (08 R164). -/
def opPln (p : Mask) (d a : Nat → Word) (l : Nat) : Word :=
  maskWhere fun k => p.getLsbD k && (d k).bit ((a l).bits 4 0)
def opPlg (p : Mask) (d a : Nat → Word) (l : Nat) : Word :=
  (lanesOf p).foldl (fun w k => if (d k).bit l then w ||| laneMask ((a k).bits 4 0) else w) 0#32

/-- The parts of a cross-lane instruction: what it reads beside d, X.q of each participant, X.m, and the flags raised;
latency 6, two records in flight (08 R158, 16 R316). -/
def crossAction (h : Head) (ops : List OpPort) (poison : State → Option TrapRec)
    (op : Mask → (Nat → Word) → (Nat → Word) → Nat → Word) (other : Mask → (Nat → Word) → Mask)
    (raised : Mask → (Nat → Word) → BitVec 5) : Action :=
  Action.trigger h { ops := ops, t := true, wide := false }
    { Action.idle with
      waits := fun s => s.flightsFull 2
      takes := flying 2
      poison := poison
      effect := fun s =>
        let p := s.guard h.guard
        let s' := s.launchFlight 6 p (op p (s.trig h) (s.oper .xa)) (fun _ => 0#4) (raised p (s.trig h)) 6
        s'.launchFlight 7 p (fun _ => other p (s.trig h)) (fun _ => 0#4) 0#5 6 }

/-- BCST reads X.a of its lowest participant alone (08 R160). -/
def bcstTagged (h : Head) (s : State) : Option TrapRec :=
  s.operBad .xa (laneMask (s.leadLane h))

/-- X.m of every instruction but MATCH: the mask of the participants. -/
def sameMask (p : Mask) (_ : Nat → Word) : Mask := p

/-- No flags. -/
def noFlags (_ : Mask) (_ : Nat → Word) : BitVec 5 := 0#5

/-- SHFL (08 R160). -/
def execShfl (h : Head) (s : State) : Host.Outcome State Fault Refusal :=
  (crossAction h [.xa] (fun _ => none) opShfl sameMask noFlags).outcome s

/-- SHUP (08 R160). -/
def execShup (h : Head) (s : State) : Host.Outcome State Fault Refusal :=
  (crossAction h [.xa] (fun _ => none) opShup sameMask noFlags).outcome s

/-- SHDN (08 R160). -/
def execShdn (h : Head) (s : State) : Host.Outcome State Fault Refusal :=
  (crossAction h [.xa] (fun _ => none) opShdn sameMask noFlags).outcome s

/-- SHXR (08 R160). -/
def execShxr (h : Head) (s : State) : Host.Outcome State Fault Refusal :=
  (crossAction h [.xa] (fun _ => none) opShxr sameMask noFlags).outcome s

/-- BCST (08 R160). -/
def execBcst (h : Head) (s : State) : Host.Outcome State Fault Refusal :=
  (crossAction h [] (bcstTagged h) opBcst sameMask noFlags).outcome s

/-- BALL (08 R161). -/
def execBall (h : Head) (s : State) : Host.Outcome State Fault Refusal :=
  (crossAction h [] (fun _ => none) opBall sameMask noFlags).outcome s

/-- VANY (08 R161). -/
def execVany (h : Head) (s : State) : Host.Outcome State Fault Refusal :=
  (crossAction h [] (fun _ => none) opVany sameMask noFlags).outcome s

/-- VALL (08 R161). -/
def execVall (h : Head) (s : State) : Host.Outcome State Fault Refusal :=
  (crossAction h [] (fun _ => none) opVall sameMask noFlags).outcome s

/-- MATCH (08 R161). -/
def execMatchPeers (h : Head) (s : State) : Host.Outcome State Fault Refusal :=
  (crossAction h [] (fun _ => none) opMatch leaders noFlags).outcome s

/-- MTCHA (08 R161). -/
def execMtcha (h : Head) (s : State) : Host.Outcome State Fault Refusal :=
  (crossAction h [] (fun _ => none) opMtcha sameMask noFlags).outcome s

/-- WADD (08 R162). -/
def execWadd (h : Head) (s : State) : Host.Outcome State Fault Refusal :=
  (crossAction h [] (fun _ => none) opWadd sameMask noFlags).outcome s

/-- WMIN (08 R162). -/
def execWmin (h : Head) (s : State) : Host.Outcome State Fault Refusal :=
  (crossAction h [] (fun _ => none) opWmin sameMask noFlags).outcome s

/-- WMAX (08 R162). -/
def execWmax (h : Head) (s : State) : Host.Outcome State Fault Refusal :=
  (crossAction h [] (fun _ => none) opWmax sameMask noFlags).outcome s

/-- WMINN (08 R162). -/
def execWminn (h : Head) (s : State) : Host.Outcome State Fault Refusal :=
  (crossAction h [] (fun _ => none) opWminn sameMask noFlags).outcome s

/-- WMAXN (08 R162). -/
def execWmaxn (h : Head) (s : State) : Host.Outcome State Fault Refusal :=
  (crossAction h [] (fun _ => none) opWmaxn sameMask noFlags).outcome s

/-- WAND (08 R162). -/
def execWand (h : Head) (s : State) : Host.Outcome State Fault Refusal :=
  (crossAction h [] (fun _ => none) opWand sameMask noFlags).outcome s

/-- WOR (08 R162). -/
def execWor (h : Head) (s : State) : Host.Outcome State Fault Refusal :=
  (crossAction h [] (fun _ => none) opWor sameMask noFlags).outcome s

/-- WXOR (08 R162). -/
def execWxor (h : Head) (s : State) : Host.Outcome State Fault Refusal :=
  (crossAction h [] (fun _ => none) opWxor sameMask noFlags).outcome s

/-- WFADD (08 R163). -/
def execWfadd (h : Head) (s : State) : Host.Outcome State Fault Refusal :=
  (crossAction h [] (fun _ => none) opWfadd sameMask (fun p d => (wfaddTree p d).raised)).outcome s

/-- SCAN (08 R162). -/
def execScan (h : Head) (s : State) : Host.Outcome State Fault Refusal :=
  (crossAction h [] (fun _ => none) opScan sameMask noFlags).outcome s

/-- SCANX (08 R162). -/
def execScanx (h : Head) (s : State) : Host.Outcome State Fault Refusal :=
  (crossAction h [] (fun _ => none) opScanx sameMask noFlags).outcome s

/-- PLN (08 R164). -/
def execPln (h : Head) (s : State) : Host.Outcome State Fault Refusal :=
  (crossAction h [.xa] (fun _ => none) opPln sameMask noFlags).outcome s

/-- PLG (08 R164). -/
def execPlg (h : Head) (s : State) : Host.Outcome State Fault Refusal :=
  (crossAction h [.xa] (fun _ => none) opPlg sameMask noFlags).outcome s

end Sys2Proof.Machine
end

