-- ==== Sys2Proof/Machine/Sync.lean ====
section
/-! DEFINITION. The sync instructions of Y (06 R113 to R131). -/

namespace Sys2Proof.Machine

/-- A Y trigger: split-wide, reading Y.t where its value counts and Y.a where it names an object. -/
def syncAction (h : Head) (ops : List OpPort) (readsT : Bool) (waits : State → Bool) (own : State → Option TrapRec)
    (effect : State → State) : Action :=
  Action.trigger h { ops := ops, t := readsT, wide := true }
    { Action.idle with waits := waits, own := own, effect := effect }

/-- The first sequence number of what the thread has issued at its present level (16 R315 step 4). -/
def Thread.levelFrom (th : Thread) : Nat :=
  match th.aside with
  | some a => a.from_
  | none => 0

/-- A result on its way to Y.q (06 R113). -/
def State.yPending (s : State) : Bool :=
  s.self.fills.any (fun f => f.port == .yq)
    || s.cores.any fun e => e.2.objq.any fun o =>
        o.tid == s.cur.tid && (o.kind == 2 || o.kind == 4) && s.self.levelFrom ≤ o.tseq

/-- BAR, BARA, BARW and SYNC are illegal at handler level (06 R113). -/
def State.taskOnly (s : State) (own : Option TrapRec) : Option TrapRec :=
  if s.self.level then some (s.trapWord 0x02) else own

/-- The acquire or fence that a split's wait records begins (06 R115). -/
def State.beginAcquire (s : State) (t : Tid) (i : Nat) : State :=
  let w := ((s.thread t).split i).wait
  let s := if w.w0.bit 4 then s.release t (w.w0.bits 3 0) else s
  match s.makeAcquire t (w.w0.bits 3 0) (w.w0.bit 4) true with
  | (s, some a) => s.modThread t fun th => th.modSplit i fun sp => { sp with wait := { w with due := a.seq } }
  | (s, none) => s.modThread t fun th => th.modSplit i fun sp => sp.resumed s.clk

/-- The splits of a thread that wait at SYNC take their places after a return or a resume: those whose generation is under way in the restart
set, at the age that they had there or, where none is recorded, at the present one (log 62); those whose generation has completed outside it
(06 R123, R130, R131). -/
def State.syncPlaces (s : State) (t : Tid) : State :=
  (s.thread t).liveSplits.foldl (fun s i =>
    let w := ((s.thread t).split i).wait
    if w.kind ≠ 3 then s
    else
      let over_ := genOver (s.sync t.core t.ctx (w.w0.bits 3 0)).gen (w.w0.bits 19 4)
      let age := s.freshAge t false
      s.modThread t fun th => th.modSplit i fun sp =>
        { sp with place := if over_ then .away else match sp.place with
            | .restart a => .restart a
            | _ => .restart age }) s

/-! ## Block barriers (06 R117 to R120) -/

/-- BAR's and BARA's check of their value (06 R114, R117). -/
def barCheck (h : Head) (s : State) : Option TrapRec :=
  let v := s.lead h
  let count := v.bits 9 4
  let b := s.barrier s.cur.tid.core s.cur.tid.ctx (v.bits 3 0)
  s.taskOnly
    (if v.bits 31 11 ≠ 0 || 33 < count || (v.bit 10 && count ≠ 0) || (s.cur.tid.isSluice && count = 0 && !v.bit 10)
        || b.mismatch count (v.bit 10) then some (s.before 0x02 v) else none)

/-- The lanes that an arrival brings: those of the issuing split that are not vacant. -/
def State.arrivingLanes (s : State) : Mask := s.active &&& s.self.occupied

/-- The arrival of the issuing split's lanes, after REL.bk (06 R119), with the token of the generation it counts to. -/
def State.arrive (s : State) (v : Word) : State × Word :=
  let (s', gen) := (s.release s.cur.tid 2).barArrive s.cur.tid (v.bits 3 0) (v.bits 9 4) (v.bit 10) s.arrivingLanes
  (s', w32 (gen * 16 + v.bits 3 0))

/-- A waiting split leaves the window (06 R115); one that a JOIN of its bundle has closed does not wait. -/
def State.waitSelf (s : State) (kind : Nat) (w0 w1 : Word) : State :=
  if !s.selfSplit.live then s
  else s.modSelfSplit fun sp =>
    { sp with wait := { kind := kind, w0 := w0, w1 := w1, due := 0 },
              place := if kind = 3 then .restart (match sp.place with
                  | .window a _ => a
                  | _ => s.freshAge s.cur.tid false) else .away }

/-- A serial entry's held lanes have yet to arrive at a barrier, in the generation to which the token's arrival was counted (06 R120). -/
def State.heldBack (s : State) (e : Nat) (token : Word) : Bool :=
  let j := s.self.join e
  let b := s.barrier s.cur.tid.core s.cur.tid.ctx (token.bits 3 0)
  j.used && j.serial && j.held &&& ~~~b.brought s.cur.tid.slot ((token.bits 19 4 + 65536 - b.gen) % 65536) ≠ 0#32

/-- The issuing split, waiting, swaps places with the held lanes of its serial entry (06 R120). -/
def Thread.giveWay (th : Thread) (clk i e : Nat) : Thread :=
  let p := th.split i
  let j := th.join e
  let h := { j.saved with
    live := true, pc := j.resume, mask := j.held, entry := some e, ready := clk + 1 + j.delay, arrive := .fall,
    bank := 0, lastIssue := clk, stopped := false, want := none, fetch := none,
    place := if j.saved.wait.kind = 0 then .entry clk else .away }
  (th.setSplit i h).setJoin e { j with held := p.mask, resume := p.pc, saved := p, delay := p.ready - (clk + 1) }

/-- BAR (06 R117, R119, R120). -/
def execBar (h : Head) (s : State) : Host.Outcome State Fault Refusal :=
  (syncAction h [] true (fun _ => false) (barCheck h) fun s =>
    let v := s.lead h
    let (s', token) := s.arrive v
    let s' := s'.waitSelf 1 token 0#32
    match s'.selfSplit.entry with
    | some e => if s'.heldBack e token then s'.modThread s.cur.tid fun th => th.giveWay s.clk s.cur.split e else s'
    | none => s').outcome s

/-- BARA (06 R118): the token goes to Y.q. -/
def execBara (h : Head) (s : State) : Host.Outcome State Fault Refusal :=
  (syncAction h [] true (fun s => s.yPending) (barCheck h) fun s =>
    let (s', token) := s.arrive (s.lead h)
    s'.sendFill .yq s.active (fun _ => token) 1).outcome s

/-- BARW's check of its token. -/
def barwCheck (h : Head) (s : State) : Option TrapRec :=
  s.taskOnly (if (s.lead h).bits 31 20 ≠ 0 then some (s.before 0x02 (s.lead h)) else none)

/-- BARW (06 R118, R119): with a generation already complete it returns at once, and its return acquires. -/
def execBarw (h : Head) (s : State) : Host.Outcome State Fault Refusal :=
  (syncAction h [] true (fun _ => false) (barwCheck h) fun s =>
    let v := s.lead h
    if genOver (s.barrier s.cur.tid.core s.cur.tid.ctx (v.bits 3 0)).gen (v.bits 19 4) then
      s.joinAcquire s.cur.tid 2
    else s.waitSelf 2 v 0#32).outcome s

/-! ## SYNC (06 R122, R123) -/

/-- SYNC's checks (06 R114, R123). -/
def syncCheck (h : Head) (s : State) : Option TrapRec :=
  let v := s.lead h
  let scope := v.bits 3 0
  s.taskOnly
    (if v.bits 31 5 ≠ 0 || scope < 3 || 8 < scope then some (s.before 0x02 v)
     else if s.syncConflict s.cur.tid.core s.cur.tid.ctx scope v then some (s.before 0x02 v)
     else if scope = 8 && !s.pack.variant.hasPods then some (s.trapWord 0x15) else none)

/-- SYNC (06 R123): a release at the scope, the arrival, and the wait for the restart. -/
def execSync (h : Head) (s : State) : Host.Outcome State Fault Refusal :=
  (syncAction h [] true (fun _ => false) (syncCheck h) fun s =>
    let v := s.lead h
    let scope := v.bits 3 0
    let t := s.cur.tid
    let s' := (s.release t scope).syncArrive t scope v s.arrivingLanes
    s'.waitSelf 3 (w32 ((s.sync t.core t.ctx scope).gen % 65536 * 16 + scope)) 0#32).outcome s

/-! ## Barrier objects (06 R126 to R128) -/

/-- Where an object offset lies: the core that holds it and its address there. -/
def State.object (s : State) (t : Tid) (a : Word) : Option (Nat × Nat) := s.scratchAt t.core t.ctx a 16

/-- An object's scope (06 R126). -/
def objectScope (t : Tid) (holder : Nat) (own : Bool) : Nat :=
  if own then 2 else if dieOf t.core = dieOf holder then 5 else 6

/-- The block that an offset names is the issuer's own (11 R217). -/
def State.ownRegion (s : State) (t : Tid) (a : Word) : Bool :=
  let b := s.block t.core t.ctx
  !b.grouped || (a.bit 31 == false && a.bits 30 27 = b.gslot % 16)

/-- An object's phase. -/
def State.phase (s : State) (core a : Nat) : Bool := (wordOf (s.scratchBytes core a 4)).bit 31

/-- The checks of an object instruction (06 R114, R128): its value, then the object's alignment and region. -/
def objectCheck (h : Head) (bad : Word → Bool) (s : State) : Option TrapRec :=
  let v := s.lead h
  let a := s.leadOper h .ya
  if bad v then some (s.before 0x02 v)
  else if a.toNat % 16 ≠ 0 then some (s.before 0x05 a)
  else if (s.object s.cur.tid a).isNone then some (s.before 0x08 a) else none

/-- Sends an operation to the scratch atomic unit of the core that holds the object (06 R128). -/
def State.sendObject (s : State) (kind : Nat) (a v : Word) : State :=
  match s.object s.cur.tid a with
  | none => s
  | some (c, at_) =>
    let op : ObjOp := { kind := kind, tid := s.cur.tid, mask := s.active, addr := at_, v := v, tseq := s.self.seq, need := [] }
    (s.modCore c fun x => { x with objq := x.objq ++ [op] }).modThread s.cur.tid fun th => { th with seq := th.seq + 1 }

/-- The values of arrivals that BOI and BOA reject (06 R114). -/
def arrivalsBad (v : Word) : Bool := v = 0#32 || 65535 < v.toNat

/-- The values that BOX rejects. -/
def bytesBad (v : Word) : Bool := v.bit 31

/-- The values that BOW and BOT reject. -/
def parityBad (v : Word) : Bool := 1 < v.toNat

/-- BOI (06 R127). -/
def execBoi (h : Head) (s : State) : Host.Outcome State Fault Refusal :=
  (syncAction h [.ya] true (fun _ => false) (objectCheck h arrivalsBad) fun s =>
    s.sendObject 0 (s.leadOper h .ya) (s.lead h)).outcome s

/-- BOX (06 R127). -/
def execBox (h : Head) (s : State) : Host.Outcome State Fault Refusal :=
  (syncAction h [.ya] true (fun _ => false) (objectCheck h bytesBad) fun s =>
    s.sendObject 1 (s.leadOper h .ya) (s.lead h)).outcome s

/-- The scope of the object that an offset names. -/
def State.scopeOfObject (s : State) (t : Tid) (a : Word) : Nat :=
  match s.object t a with
  | some (c, _) => objectScope t c (s.ownRegion t a)
  | none => 2

/-- BOA (06 R127): a release at the object's scope, then the arrival; the phase before it goes to Y.q. -/
def execBoa (h : Head) (s : State) : Host.Outcome State Fault Refusal :=
  (syncAction h [.ya] true (fun s => s.yPending) (objectCheck h arrivalsBad) fun s =>
    let a := s.leadOper h .ya
    let v := s.lead h
    let m := s.active
    ((s.release s.cur.tid (s.scopeOfObject s.cur.tid a)).sendObject 2 a v).modThread s.cur.tid fun th =>
      th.setAwaiting .yq (th.awaiting .yq ||| m)).outcome s

/-- The thread's earlier operations and stores on an object's bytes have been performed (06 R128, 11 R235). -/
def State.objectSettled (s : State) (t : Tid) (core a seq : Nat) : Bool :=
  (s.core core).objq.all (fun o => o.tid ≠ t || seq ≤ o.tseq || o.addr ≠ a)
    && (s.core t.core).stores.all fun x => x.tid ≠ t || seq ≤ x.tseq || x.global
        || x.lanes.all fun l => l.cells.all fun c => !(core * 2 ^ 20 + a ≤ c.1 && c.1 < core * 2 ^ 20 + a + 16)

/-- A wait at BOW is over (06 R127): the object's phase differs from the parity. -/
def State.bowOver (s : State) (t : Tid) (w1 : Word) : Bool :=
  match s.object t (w1 &&& ~~~15#32) with
  | some (c, a) => s.objectSettled t c a (s.thread t).seq && s.phase c a != w1.bit 0
  | none => true

/-- BOW (06 R127): where the phase has flipped it goes on with its acquire, else it waits. -/
def execBow (h : Head) (s : State) : Host.Outcome State Fault Refusal :=
  (syncAction h [.ya] true (fun _ => false) (objectCheck h parityBad) fun s =>
    let a := s.leadOper h .ya
    let w1 := a ||| s.lead h
    if s.bowOver s.cur.tid w1 then s.startAcquire s.cur.tid s.cur.split (s.scopeOfObject s.cur.tid a) false
    else s.waitSelf 4 0#32 w1).outcome s

/-- BOT (06 R127). -/
def execBot (h : Head) (s : State) : Host.Outcome State Fault Refusal :=
  (syncAction h [.ya] true (fun s => s.yPending) (objectCheck h parityBad) fun s =>
    let m := s.active
    (s.sendObject 4 (s.leadOper h .ya) (s.lead h)).modThread s.cur.tid fun th =>
      th.setAwaiting .yq (th.awaiting .yq ||| m)).outcome s

/-! ## REL, ACQ, FEN (06 R129) -/

/-- REL (06 R129): it never stalls. -/
def execRel (h : Head) (e : Scope) (s : State) : Host.Outcome State Fault Refusal :=
  (syncAction h [] false (fun _ => false) (fun _ => none) fun s => s.release s.cur.tid (Scope.code e)).outcome s

/-- ACQ (06 R129). -/
def execAcq (h : Head) (e : Scope) (s : State) : Host.Outcome State Fault Refusal :=
  (syncAction h [] false (fun _ => false) (fun _ => none) fun s =>
    s.startAcquire s.cur.tid s.cur.split (Scope.code e) false).outcome s

/-- FEN (06 R129): a release, then, once it is done, an acquire. -/
def execFen (h : Head) (e : Scope) (s : State) : Host.Outcome State Fault Refusal :=
  (syncAction h [] false (fun _ => false) (fun _ => none) fun s =>
    if Scope.code e ≤ 1 then s
    else (s.release s.cur.tid (Scope.code e)).startAcquire s.cur.tid s.cur.split (Scope.code e) true).outcome s

end Sys2Proof.Machine
end

