-- ==== Sys2Proof/Machine/Drain.lean ====
section
/-! DEFINITION. Stores, atomics and barrier-object operations after their trigger (11 R219, R226 to R235, 15 R362, 06 R128),
and the ends of waits at barriers and fences (06 R115, R117, R129). A lane of a store is written sector by sector (11 R227). -/

namespace Sys2Proof.Machine

/-! ## Faults of stores and REDs (11 R228) -/

/-- What a thread issued before its present level stands in the frame that it has left. -/
def State.atLevel (s : State) (t : Tid) (tseq : Nat) : Bool := (s.thread t).levelFrom ≤ tseq

/-- The issuing split parks until its store or RED is performed. -/
def State.parkIssuer (s : State) (t : Tid) (i tseq seq : Nat) : State :=
  let sp := (s.thread t).split i
  if !s.atLevel t tseq || !sp.live || sp.owes.contains seq then s
  else s.modThread t fun th => th.modSplit i fun sp => { sp.park t.isSluice with owes := sp.owes ++ [seq] }

/-- A fault strikes a thread at its first boundary after the report. -/
def State.pendFault (s : State) (t : Tid) (cause addr : Nat) : State :=
  s.modThread t fun th => if th.live then th.pend { cause := cause, tval := w32 addr, telem := 0 } else th

/-! ## Write grants (15 R362) -/

/-- A quad may write to the page of an address. -/
def State.granted_ (s : State) (quad fn a : Nat) : Bool := (s.quad quad).grants.contains (s.nameOf fn a, fn)

/-- The pages of an access that are still to be granted. -/
def State.ungranted (s : State) (quad fn a n : Nat) : List Nat := (pageStarts a n).filter fun x => !s.granted_ quad fn x

/-- The span of a store's lane. -/
def StoreLane.span (l : StoreLane) : Nat × Nat :=
  match l.cells with
  | [] => (l.addr, 0)
  | c :: rest =>
    let hi := rest.foldl (fun m x => max m x.1) c.1
    (c.1, hi + 1 - c.1)

/-- The pages of an access to cached ranges that are still to be granted; one of an uncached range needs no grant. -/
def State.toGrant (s : State) (quad fn a n : Nat) : List Nat := (s.ungranted quad fn a n).filter fun x => !s.isUncached fn x

/-- The pages of an access that lie in uncached ranges. -/
def State.uncachedPages (s : State) (fn a n : Nat) : List Nat := (pageStarts a n).filter (s.isUncached fn)

/-- Pages that stores of a quad wait to write. -/
def State.grantNeeds (s : State) (quad : Nat) : List (Need × StoreEntry) :=
  (quadCores quad).flatMap fun c => (s.core c).stores.flatMap fun e =>
    if !e.global then [] else e.lanes.flatMap fun l =>
      let (a, n) := l.span
      if n = 0 then []
      else (s.toGrant quad e.fn a n).map fun x =>
        ({ key := x / 4096, fn := e.fn, addr := x, access := 1, who := s.requester e.tid, hint := e.hint }, e)

/-- The request for a write grant that goes out. -/
def State.grantRequest (s : State) (quad fn page : Nat) : Option (Need × StoreEntry) :=
  if (s.quad quad).grantWant.contains (fn, page) then none
  else (s.grantNeeds quad).find? fun n => n.1.fn == fn && n.1.key == page && s.mayAsk fn n.1.addr n.1.who.die

/-- Ends the lane of a store with a fault. -/
def State.failStore (s : State) (core : Nat) (e : StoreEntry) (l : StoreLane) (cause addr : Nat) : State :=
  let lanes := e.lanes.filter (· ≠ l)
  let done (b : Nat) : Bool := l.cells.any fun y => y.1 / 32 * 32 == b
  let less (x : StoreEntry) : StoreEntry := { x with lanes := lanes, whole := x.whole.filter fun b => !done b }
  let s := s.modCore core fun c =>
    { c with stores := c.stores.filterMap fun x =>
        if x.seq = e.seq then (if lanes.isEmpty then none else some (less x)) else some x }
  let s := s.pendFault e.tid cause addr
  if lanes.isEmpty then s.settleIssuer e.tid e.seq else s

/-- Ends the lanes of a quad's stores that touch a page. -/
def State.failPage (s : State) (quad fn page cause : Nat) : State :=
  (quadCores quad).foldl (fun s c => (s.core c).stores.foldl (fun s e =>
    if e.global && e.fn = fn then
      (e.lanes.filter fun l => (accessPages l.span.1 l.span.2).contains page).foldl (fun s l =>
        match (s.core c).stores.find? fun x => x.seq == e.seq with
        | some e => s.failStore c e l cause (max l.span.1 (page * 4096))
        | none => s) s
    else s) s) s

/-- WRITE_GRANT_REQUEST (15 R362): the home translates the page for writing and records the name; the answer is on its way. On
a page fault the issuing split parks; a refusal is a fault of the write. -/
def execWriteGrantRequest (quad fn page : Nat) (s : State) : Host.Outcome State Fault Refusal :=
  s.happens (fun s => (s.grantRequest quad fn page).isSome) fun s =>
    match s.grantRequest quad fn page with
    | none => s
    | some (n, _) =>
      match s.ask fn n.addr 1 n.who with
      | (s, .go _) => s.modQuad quad fun q => { q with grantWant := q.grantWant ++ [(fn, page)] }
      | (s, .waits) => (s.grantNeeds quad).foldl (fun s x =>
          if x.1.fn = fn && x.1.key = page then s.parkIssuer x.2.tid x.2.split x.2.tseq x.2.seq else s) s
      | (s, .fails c) => s.failPage quad fn page c

/-- WRITE_GRANT_ANSWER (15 R362): the grant reaches the quad cache. -/
def execWriteGrantAnswer (quad fn page : Nat) (s : State) : Host.Outcome State Fault Refusal :=
  s.happens (fun s => (s.quad quad).grantWant.contains (fn, page)) fun s =>
    s.modQuad quad fun q =>
      { q with grantWant := q.grantWant.erase (fn, page), grants := q.grants ++ [(s.nameOf fn (page * 4096), fn)] }

/-! ## STORE_DRAIN (11 R219, R226, R235, 13 R257, R260) -/

/-- A write of a thread may become visible: its earlier reads are fixed, its earlier releases have taken effect, and its
earlier writes to the same bytes are performed. -/
def State.mayWrite (s : State) (t : Tid) (global : Bool) (tseq a n : Nat) : Bool :=
  s.readsFixed t tseq && s.releasedBefore t tseq && !s.ownWriteBefore t global tseq a n

/-- The bytes of a store may become visible. What the part writes into a trap frame is no write of the program: it follows the thread's own
accesses to scratchpads alone (11 R235, 16 R315 step 5). -/
def State.entryMay (s : State) (e : StoreEntry) (a n : Nat) : Bool :=
  if e.frame then
    let th := s.thread e.tid
    th.ls.fixedBefore e.tseq && (th.aside.all fun x => x.ls.fixedBefore e.tseq) && !s.ownWriteBefore e.tid false e.tseq a n
  else s.mayWrite e.tid e.global e.tseq a n

/-- A line of WON that is sealed takes no write (14 R274). -/
def State.sealed (s : State) (fn a : Nat) : Bool :=
  s.slotOf fn a = 3 && (s.dirOf (s.homeOf fn a) (s.dirKey fn (s.keyOf fn a))).state = 2

/-- A quad cache takes local bytes into a line: no write-through of it is under way. -/
def State.takesLocal (s : State) (quad fn a : Nat) : Bool :=
  (s.qline quad (s.keyOf fn a)).want ≠ 6 && !(s.quad quad).lost

/-- The cells of a lane that lie in a sector. -/
def StoreLane.inSector (l : StoreLane) (b : Nat) : List Host.Cell := l.cells.filter fun c => c.1 / 32 * 32 == b

/-- The sectors in which a lane still has bytes to write. -/
def StoreLane.sectors (l : StoreLane) : List Nat := (l.cells.map fun c => c.1 / 32 * 32).eraseDups

/-- The store of a core by its number, and its lowest lane. -/
def State.storeOf (s : State) (core seq : Nat) : Option (StoreEntry × StoreLane) :=
  ((s.core core).stores.find? fun e => e.seq == seq).bind fun e => e.lanes.head?.map fun l => (e, l)

/-- The bytes of a lane that lie in a sector may be written now, every page of the lane's bytes being translated (11 R227): granted, or, in an
uncached range, asked for at its home. -/
def State.sectorMay (s : State) (core : Nat) (e : StoreEntry) (l : StoreLane) (b : Nat) : Bool :=
  let (a, n) := l.span
  s.entryMay e (max a b) (min (a + n) (b + 32) - max a b)
    && (!e.global
      || ((s.toGrant (quadOf core) e.fn a n).isEmpty
          && (s.uncachedPages e.fn a n).all (fun x => s.mayAskAll e.fn 1 (dieOf core) x 1)
          && (s.isUncached e.fn b || s.takesLocal (quadOf core) e.fn b)))

/-- The sectors of a store's lowest lane that may be written now. -/
def State.sectorsMay (s : State) (core seq : Nat) : List Nat :=
  match s.storeOf core seq with
  | none => []
  | some (e, l) => l.sectors.filter (s.sectorMay core e l)

/-- A store's lowest lane may be written now, or some of it; one without bytes once its turn has come. -/
def State.drainMay (s : State) (core seq : Nat) : Bool :=
  match s.storeOf core seq with
  | none => false
  | some (e, l) => if l.cells.isEmpty then s.entryMay e l.addr 0 else !(s.sectorsMay core seq).isEmpty

/-- The sectors that a store writes whole with its lowest lane: those that its lanes cover together, of which no later lane has
a byte to write (11 R226). -/
def StoreEntry.wholeNow (e : StoreEntry) : List Nat :=
  match e.lanes with
  | [] => []
  | l :: rest => e.whole.filter fun b =>
      (l.cells.any fun c => c.1 / 32 * 32 == b) && !(rest.any fun x => x.cells.any fun c => c.1 / 32 * 32 == b)

/-- Bytes become local bytes of a quad cache (14 R266); those of an owned line are coherent at once;
`whole` names the sectors that are now written whole. -/
def State.quadWrite (s : State) (core fn writer : Nat) (cells : List Host.Cell) (whole : List Nat) : State :=
  let quad := quadOf core
  let keys := (cells.map fun c => s.keyOf fn c.1).eraseDups
  let s := (s.wake quad).localWrite quad fn cells
  let s := s.modCore core fun c => { c with l1 := c.l1.filter fun x => !keys.contains x.key }
  keys.foldl (fun s k => (s.modQLine quad k fun x =>
    { x with writer := writer, heal := x.heal ||| maskOfSectors (keyAddr k) whole }).mergeOwned quad k) s

/-- The bytes of a sector of a store's lowest lane have been written, or the lane had none. -/
def State.laneDone (s : State) (core : Nat) (e : StoreEntry) (b : Nat) : State :=
  let more : List StoreLane := match e.lanes with
    | [] => []
    | l :: _ =>
      let left := l.cells.filter fun c => c.1 / 32 * 32 != b
      if left.isEmpty then [] else [{ l with cells := left }]
  let rest := more ++ e.lanes.drop 1
  let s := s.modCore core fun c => { c with stores := c.stores.filterMap fun x =>
    if x.seq = e.seq then (if rest.isEmpty then none else some { x with lanes := rest }) else some x }
  if rest.isEmpty then s.settleIssuer e.tid e.seq else s

/-- A sector of a store's lane to an uncached range goes to its home (14 R265). -/
def State.drainHome (s : State) (core : Nat) (e : StoreEntry) (l : StoreLane) (b : Nat) : State :=
  let s := s.homeStore e.fn (l.inSector b)
  (if e.wholeNow.contains b then s.healSector e.fn b else s).laneDone core e b

/-- A sector of a store's lane to a cached range becomes local bytes of the quad cache, allocated as the store's hint says (11 R220); a sealed
line of WON takes none (14 R274). -/
def State.drainQuad (s : State) (core : Nat) (e : StoreEntry) (l : StoreLane) (b : Nat) : State :=
  if s.sealed e.fn b then s.failStore core e l 8 b
  else
    let s := s.quadWrite core e.fn (e.tid.key + 1) (l.inSector b) (e.wholeNow.filter (· == b))
    let s := s.modQLine (quadOf core) (s.keyOf e.fn b) fun x => { x with hint := e.hint }
    let s := s.modThread e.tid fun th => th.observes e.tseq ([s.keyOf e.fn b].filter (s.hasLocal (quadOf core)))
    s.laneDone core e b

/-- The bytes of one sector of a store's lowest lane are written: into the scratchpad, into the quad cache as local bytes, or at an uncached
home. -/
def State.drainSector (s : State) (core : Nat) (e : StoreEntry) (l : StoreLane) (b : Nat) : State :=
  if !e.global then (s.scratchWrite (b / 2 ^ 20) ((l.inSector b).map fun c => (c.1 % 2 ^ 20, c.2))).laneDone core e b
  else match s.askAll e.fn 1 (s.requester e.tid) (s.uncachedPages e.fn l.span.1 l.span.2) with
  | (s, none) => if s.isUncached e.fn b then s.drainHome core e l b else s.drainQuad core e l b
  | (s, some none) => s.parkIssuer e.tid e.split e.tseq e.seq
  | (s, some (some c)) => s.failStore core e l c l.span.1

/-- STORE_DRAIN (11 R219, R227): a sector of the lowest lane of a store is written; of an access that crosses a sector boundary, which of the
two goes first is free. -/
def execStoreDrain (core seq : Nat) (s : State) : Host.Outcome State Fault Refusal :=
  s.happens (fun s => s.drainMay core seq) fun s =>
    match s.storeOf core seq with
    | none => s
    | some (e, l) =>
      let bs := s.sectorsMay core seq
      match bs[Config.choice s.draws % bs.length]? with
      | none => s.laneDone core e 0
      | some b => (if bs.length ≤ 1 then s else s.drawn).drainSector core e l b

/-! ## Atomics (11 R230 to R234) -/

/-- An atomic, and whether some of its lanes at a word have a stage. -/
def State.atomAt (s : State) (core seq addr stage : Nat) : Option AtomEntry :=
  match s.atomOf core seq with
  | some e => if e.lanes.any fun l => l.addr == addr && l.stage == stage then some e else none
  | none => none

/-- An atomic may be performed as far as its own thread is concerned. -/
def State.atomReady (s : State) (e : AtomEntry) (addr : Nat) : Bool :=
  s.mayWrite e.tid (e.kind != 0) e.tseq addr 4 && (s.thread e.tid).acquiredBefore e.tseq

/-- No byte of a word stands as a local byte in a quad: what the thread has seen there is at the home already (13 R255). -/
def State.wordPublished (s : State) (quad fn addr : Nat) : Bool :=
  let x := s.qline quad (s.keyOf fn addr)
  (List.range 4).all fun i => !x.lmask.getLsbD (addr % 128 + i)

/-- A RED in a token range is ordered behind what the token's holder has to drain (11 R233). -/
def State.tokenDrained (s : State) (fn addr : Nat) : Bool :=
  s.writePath (s.slotOf fn addr) ≠ 2 || (s.localInRange (s.tokenOf (s.rangeId fn addr)).2 (s.rangeId fn addr)).isEmpty

/-- An atomic performed at its home may set out. -/
def State.homeAtomMay (s : State) (core seq addr kind : Nat) : Bool :=
  match s.atomAt core seq addr 0 with
  | none => false
  | some e =>
    e.kind = kind && !s.quadAtomic e addr && !s.atomSent core seq addr && s.atomReady e addr
      && s.wordPublished (quadOf core) e.fn addr && (kind ≠ 2 || s.tokenDrained e.fn addr) && s.mayAsk e.fn addr (dieOf core)
      && (s.isUncached e.fn addr || s.turnMay e.fn (s.dirKey e.fn (s.keyOf e.fn addr)) (quadOf core))

/-- Marks the lanes of an atomic at a word as answered with a cause. -/
def State.failAtom (s : State) (core : Nat) (e : AtomEntry) (addr cause : Nat) : State :=
  s.answerAtom core e.seq addr cause (e.lanes.map fun l => if l.addr = addr then { l with stage := 1 } else l) e.kind

/-- Performs an atomic of an uncached range at its home, which is the host's memory or another package's (11 R233; log
11). -/
def State.performUncached (s : State) (core : Nat) (e : AtomEntry) (addr : Nat) : State :=
  let m := wordOf ((List.range 4).map fun i => s.homeByte e.fn (addr + i))
  let (m', lanes) := applyLanes e.op addr 1 e.lanes m
  let s := (s.homeAtomic e.fn addr e.op e.seq (cellsAt addr (bytesOf m'))).drawn
  let s := if (s.rangeOf e.fn addr).policy = 3 then s
    else s.logAtom (s.homeOf e.fn addr) core e.seq addr (s.keyOf e.fn addr) lanes
  s.answerAtom core e.seq addr 0 lanes e.kind

/-- An atomic or a RED reaches its home; the host takes only the operations that it completes. -/
def State.sendAtom (s : State) (core seq addr kind : Nat) : State :=
  match s.atomAt core seq addr 0 with
  | none => s
  | some e =>
    match s.ask e.fn addr 2 (s.requester e.tid) with
    | (s, .fails c) => s.failAtom core e addr c
    | (s, .waits) => if kind = 2 then s.parkIssuer e.tid e.split e.tseq e.seq else s
    | (s, .go _) =>
      if !s.hostTakes e addr then s.failAtom core e addr 8
      else if s.isUncached e.fn addr then s.performUncached core e addr
      else
        let r : Req := { kind := if kind = 2 then 9 else 8, fn := e.fn, who := quadOf core, core := core, seq := seq, addr := addr,
                         bytes := [], heal := 0#4, inc := (s.quad (quadOf core)).incarnation }
        s.atHome (s.homeOf e.fn addr) (s.dirKey e.fn (s.keyOf e.fn addr)) r

/-- ATOM (14 R272): an ATG to be performed at the home reaches it. -/
def execAtom (core seq addr : Nat) (s : State) : Host.Outcome State Fault Refusal :=
  s.happens (fun s => s.homeAtomMay core seq addr 1) fun s => s.sendAtom core seq addr 1

/-- RED at the home (14 R272). -/
def execHomeRed (core seq addr : Nat) (s : State) : Host.Outcome State Fault Refusal :=
  s.happens (fun s => s.homeAtomMay core seq addr 2) fun s => s.sendAtom core seq addr 2

/-- An atomic at the scratch atomic unit, or at the quad cache once it owns the line or holds the token. -/
def State.nearAtomMay (s : State) (core : Nat) (e : AtomEntry) (addr : Nat) : Bool :=
  let quad := quadOf core
  s.atomReady e addr && (e.kind = 0 || (s.quadAtomic e addr && s.takesLocal quad e.fn addr
    && (if s.writePath (s.slotOf e.fn addr) = 2 then
          s.holdsToken quad e.fn addr && (s.tokenOf (s.rangeId e.fn addr)).1 = 9
            && (List.range 4).all fun i => s.inQuad quad e.fn (addr + i)
        else (s.qline quad (s.keyOf e.fn addr)).state = 2)))

/-- The translation that an atomic at the quad cache needs ends in a fault now. -/
def State.nearAtomFails (s : State) (e : AtomEntry) (addr : Nat) : Bool :=
  s.quadAtomic e addr && s.atomReady e addr && s.endsNow e.fn 2 addr false

/-- Performs an atomic at the scratch atomic unit of the core that holds the region. -/
def State.performScratch (s : State) (e : AtomEntry) (addr : Nat) : State × List AtomLane :=
  let k := addr / 2 ^ 20
  let a := addr % 2 ^ 20
  if Tab.get false (s.core k).scratchPoison (a / 4) then
    (s, e.lanes.map fun l => if l.addr = addr then { l with stage := 1, cause := 0x13 } else l)
  else
    let (m', lanes) := applyLanes e.op addr 1 e.lanes (wordOf (s.scratchBytes k a 4))
    (s.scratchWrite k (cellsAt a (bytesOf m')), lanes)

/-- Performs an atomic at the issuing quad cache. -/
def State.performQuad (s : State) (core : Nat) (e : AtomEntry) (addr : Nat) : State × List AtomLane :=
  let quad := quadOf core
  if (List.range 4).any fun i => s.quadPoison quad e.fn (addr + i) then
    (s, e.lanes.map fun l => if l.addr = addr then { l with stage := 1, cause := 0x13 } else l)
  else
    let (m', lanes) := applyLanes e.op addr 1 e.lanes (wordOf (s.quadBytes quad e.fn addr 4))
    let s := s.quadWrite core e.fn (e.tid.key + 1) (cellsAt addr (bytesOf m')) []
    (s.modThread e.tid fun th => th.observes e.tseq ([s.keyOf e.fn addr].filter (s.hasLocal quad)), lanes)

/-- A result or a fault comes to a lane of AS.q or AG.q, where the lane still awaits this trigger (11 R232); `redo` is what is left of an
atomic that was not performed (11 R228). -/
def Thread.landAtom (th : Thread) (p : ResPort) (tseq : Nat) (l : AtomLane) (v : Word) (redo : List Redo) : Thread :=
  let k := p.code * 32 + l.lane
  let fault (f : Tab LaneFault) : Tab LaneFault :=
    Tab.set { cause := 0, addr := 0 } f k { cause := l.cause, addr := if l.cause = 0 then 0 else l.addr }
  if Tab.get 0 th.owners k = tseq + 1 then
    let th := (th.wr (.res p) l.lane v).setTags (.res p) (laneMask l.lane) 0#32
    { th.setAwaiting p (th.awaiting p &&& ~~~laneMask l.lane) with owners := Tab.erase th.owners k, faults := fault th.faults, redo := th.redo ++ redo }
  else match th.aside with
    | some a =>
      if Tab.get 0 a.owners k = tseq + 1 then
        { th with aside := some { (a.fill { port := p, mask := laneMask l.lane, vals := lanes32 fun _ => v, due := 0, late := true }) with
            owners := Tab.erase a.owners k, faults := fault a.faults, redo := a.redo ++ redo } }
      else th
    | none => th

/-- Lands the answered lanes of an atomic at a word; what the core's L1 has read of the line meanwhile is older (13 R256). -/
def State.landAtoms (s : State) (core seq addr : Nat) : State :=
  match s.atomOf core seq with
  | none => s
  | some e =>
    let (here, rest) := e.lanes.partition fun l => l.addr == addr && l.stage != 0
    let value (l : AtomLane) : Word := if l.cause = 0 then l.old else Config.freeWord (s.draws * 4096 + l.lane * 4)
    let redo (l : AtomLane) : List Redo :=
      if e.kind = 1 && (l.cause = 7 || l.cause = 8) then
        [{ lane := l.lane, addr := l.addr, a := l.a, c := l.c, op := e.op, scope := e.scope, tseq := e.tseq, split := e.split }]
      else []
    let s := if e.kind = 1 then s.dropL1 core (s.keyOf e.fn addr) else s
    let s := s.modThread e.tid fun th => here.foldl (fun th l => th.landAtom (atomPort e.kind) e.tseq l (value l) (redo l)) th
    ((s.setAtomLanes core seq rest).drawn).unpark e.tid

/-- The write of an atomic is performed at the scope of its class (13 R261): the update walk of its line, where it began one, has passed; and
what a quad cache performed for a class wider than the quad has been published. -/
def State.atomWide (s : State) (core : Nat) (e : AtomEntry) (addr : Nat) : Bool :=
  e.kind = 0 || (e.lanes.any fun l => l.addr == addr && l.stage == 1 && l.cause ≠ 0)
    || (!s.updating.contains (s.keyOf e.fn addr) && (!s.quadAtomic e addr || s.wordPublished (quadOf core) e.fn addr))

/-- An atomic's word may be answered now. -/
def State.responseMay (s : State) (core seq addr : Nat) : Bool :=
  ((s.atomAt core seq addr 1).any fun e => e.kind ≠ 2 && s.atomWide core e addr)
    || (match s.atomAt core seq addr 0 with
        | some e => e.kind ≠ 2 && (s.nearAtomMay core e addr || s.nearAtomFails e addr)
        | none => false)

/-- ATOMIC_RESPONSE (11 R232): the old value lands in AS.q or AG.q in the lanes that await it. At the scratch atomic unit and
at the quad cache the atomic is performed at this instant too; one of a class wider than the quad is answered later (13 R261). -/
def execAtomicResponse (core seq addr : Nat) (s : State) : Host.Outcome State Fault Refusal :=
  s.happens (fun s => s.responseMay core seq addr) fun s =>
    if (s.atomAt core seq addr 1).isSome then s.landAtoms core seq addr
    else match s.atomAt core seq addr 0 with
      | none => s
      | some e =>
        if !s.nearAtomMay core e addr then
          match s.ask e.fn addr 2 (s.requester e.tid) with
          | (s, .fails c) => (s.failAtom core e addr c).landAtoms core seq addr
          | (s, _) => s
        else
          let (s, lanes) := if e.kind = 0 then s.performScratch e addr else s.performQuad core e addr
          let s := s.setAtomLanes core seq lanes
          if e.kind = 1 && 2 ≤ e.scope then s else s.landAtoms core seq addr

/-- The response of an atomic may be lost or in error: it was performed at a home on another die or another package. -/
def State.retryMay (s : State) (core seq addr : Nat) : Bool :=
  match s.atomAt core seq addr 1 with
  | some e => e.kind = 1 && !s.quadAtomic e addr && (s.homeOf e.fn addr ≠ dieOf core || (s.rangeOf e.fn addr).policy = 3)
  | none => false

/-- ATOMIC_RETRY (11 R234): the response of such an atomic is lost or in error: one retry, which the home answers with the logged result and
does not apply again (of another package's log the model holds nothing: the result stands); a second error leaves an ATG's lanes with trap
0x12. -/
def execAtomicRetry (core seq addr : Nat) (s : State) : Host.Outcome State Fault Refusal :=
  s.happens (fun s => s.retryMay core seq addr) fun s =>
    match s.atomOf core seq with
    | none => s
    | some e => s.setAtomLanes core seq (e.lanes.map fun l =>
        if l.addr = addr && l.stage = 1 then
          (if l.tries = 0 then { l with tries := 1, old := (s.loggedOld (s.homeOf e.fn addr) core seq addr l.lane).getD l.old }
           else { l with cause := 0x12 }) else l)

/-! ## Barrier objects (06 R126 to R128) -/

/-- An operation's turn has come: what its thread did before has been performed as far as it must, and what an engine's delivery has to see
published is so (13 R263). -/
def State.objReady (s : State) (core : Nat) (o : ObjOp) : Bool :=
  s.releasedBefore o.tid o.tseq && s.objectSettled o.tid core o.addr o.tseq
    && o.need.all (fun k => !s.unpublished (quadOf o.tid.core) k)
    && (o.kind ≠ 4 || s.readsFixed o.tid o.tseq)

/-- The next operation that a core's scratch atomic unit performs, in the order in which they reached it. -/
def State.nextObject (s : State) (core : Nat) : Option ObjOp := (s.core core).objq.find? (s.objReady core)

/-- The words of an object. -/
def State.objectWords (s : State) (core a : Nat) : List Word :=
  (List.range 4).map fun i => wordOf (s.scratchBytes core (a + 4 * i) 4)

/-- Writes an object: phase, arrivals to come, bytes to come, arrivals per phase, generation. -/
def State.writeObject (s : State) (core a : Nat) (phase : Bool) (pend : Nat) (bytes : Int) (count gen : Nat) : State :=
  s.scratchWrite core (cellsAt a ([w32 (phase.toNat * 2 ^ 31 + pend), w32i bytes, w32 count, w32 gen].flatMap bytesOf))

/-- A result on its way to Y.q, of the level at which it was asked for. -/
def Thread.sendY (th : Thread) (clk : Nat) (o : ObjOp) (v : Word) : Thread :=
  let f : Fill := { port := .yq, mask := o.mask, vals := lanes32 fun _ => v, due := clk + 1, late := true }
  match th.aside with
  | some a => if o.tseq < a.from_ then { th with aside := some { a with fills := a.fills ++ [f] } } else { th with fills := th.fills ++ [f] }
  | none => { th with fills := th.fills ++ [f] }

/-- The scope of the object that an operation acts on (06 R126). -/
def State.scopeOfOp (s : State) (o : ObjOp) (core : Nat) : Nat :=
  let b := s.block o.tid.core o.tid.ctx
  objectScope o.tid core (core = o.tid.core && b.scratchBase ≤ o.addr && o.addr < b.scratchBase + b.scratchSize)

/-- One operation on an object (06 R127), and whether the phase is then looked at. Its answer and its trap go to the warp that holds the slot when
it is performed, also where that is a later one than the warp that issued it: 06 R128 does not say who gets them (DESIGN CHOICE; log 75). -/
def State.objectOp (s : State) (core : Nat) (o : ObjOp) : State :=
  let w := s.objectWords core o.addr
  let w0 := w.getD 0 0#32
  let phase := w0.bit 31
  let pend := w0.bits 15 0
  let bytes := (w.getD 1 0#32).toInt
  let count := (w.getD 2 0#32).bits 15 0
  let gen := (w.getD 3 0#32).toNat
  let after (s : State) (pend : Nat) (bytes : Int) : State :=
    if pend = 0 && bytes = 0 then s.writeObject core o.addr (!phase) count 0 count (gen + 1)
    else s.writeObject core o.addr phase pend bytes count gen
  let answer (s : State) (v : Word) : State := s.modThread o.tid fun th => if th.live then th.sendY s.clk o v else th
  let refuse (s : State) : State := s.modThread o.tid fun th =>
    if th.live then th.pend { cause := 2, tval := o.v, telem := 0 } else th
  match o.kind with
  | 0 => s.writeObject core o.addr false o.v.toNat 0 o.v.toNat 0
  | 1 => if 2 ^ 31 - 1 < bytes + o.v.toNat then refuse s else after s pend (bytes + o.v.toNat)
  | 2 => if pend < o.v.toNat then refuse (answer s (w32 (2 ^ 31 + phase.toNat)))
         else answer (after s (pend - o.v.toNat) bytes) (w32 phase.toNat)
  | 3 => after s pend (bytes - o.v.toNat)
  | _ =>
    if phase != o.v.bit 0 then
      answer (s.joinAcquire o.tid (s.scopeOfOp o core)) 1#32
    else answer s 0#32

/-- BARRIER_OBJECT_RMW (06 R128): one operation, as one atomic read-modify-write. -/
def execBarrierObjectRmw (core : Nat) (s : State) : Host.Outcome State Fault Refusal :=
  s.happens (fun s => (s.nextObject core).isSome) fun s =>
    match s.nextObject core with
    | none => s
    | some o => (s.modCore core fun c => { c with objq := c.objq.erase o }).objectOp core o

/-! ## Waits (06 R115, R117, R118, R129, R130) -/

/-- A split's wait at a barrier or an object is over. -/
def State.waitOver (s : State) (t : Tid) (i : Nat) : Bool :=
  let sp := (s.thread t).split i
  let w := sp.wait
  sp.live && !sp.stopped && s.running t && match w.kind with
    | 1 | 2 => if w.due ≠ 0 then w.due ≤ s.clk
               else genOver (s.barrier t.core t.ctx (w.w0.bits 3 0)).gen (w.w0.bits 19 4)
    | 3 => sp.place = .away && genOver (s.sync t.core t.ctx (w.w0.bits 3 0)).gen (w.w0.bits 19 4)
    | 4 => s.bowOver t w.w1
    | _ => false

/-- BARRIER_RESTART (06 R117 to R119, R127, R130): each wait ends with the acquire of its instruction. A SYNC that was restored after its
restart goes on too. -/
def execBarrierRestart (t : Tid) (i : Nat) (s : State) : Host.Outcome State Fault Refusal :=
  s.happens (fun s => s.waitOver t i) fun s =>
    let w := ((s.thread t).split i).wait
    let s := s.modThread t fun th => th.modSplit i fun sp => sp.resumed s.clk
    match w.kind with
    | 4 => s.startAcquire t i (s.scopeOfObject t (w.w1 &&& ~~~15#32)) false
    | 3 => s.startAcquire t i (w.w0.bits 3 0) false
    | _ => s.joinAcquire t 2

/-- The pending acquire for which a split waits. -/
def Thread.acquireOf (th : Thread) (sp : Split) : Option Acquire := th.acqs.find? fun a => a.stalls && a.seq == sp.wait.due

/-- A split's acquire or fence may complete. -/
def State.fenceOver (s : State) (t : Tid) (i : Nat) : Bool :=
  let sp := (s.thread t).split i
  sp.live && !sp.stopped && sp.wait.kind = 5 && s.running t && match (s.thread t).acquireOf sp with
    | some a => s.acquireMay t a
    | none => true

/-- FENCE_DONE (06 R129): the split goes on; where its wait, that of a held half which a handler has edited, has not begun its acquire, it begins
now (R130). -/
def execFenceDone (t : Tid) (i : Nat) (s : State) : Host.Outcome State Fault Refusal :=
  s.happens (fun s => s.fenceOver t i) fun s =>
    match (s.thread t).acquireOf ((s.thread t).split i) with
    | some a => (s.endAcquire t a).modThread t fun th => th.modSplit i fun sp => sp.resumed s.clk
    | none => s.beginAcquire t i

/-! ## The invalidation log (15 R296 to R298) -/

/-- A tag and an address lie in an entry. -/
def LogEntry.covers (e : LogEntry) (tag addr : Nat) : Bool :=
  tag == (if e.domain = 0 then 256 + e.fn else e.domain) && e.base ≤ addr && addr < e.base + 2 ^ (e.size + 12)

/-- A line's key lies in an entry. -/
def LogEntry.coversKey (e : LogEntry) (key : Nat) : Bool := e.covers (key / 2 ^ 50) (keyAddr key)

/-- The lines of a die's quad caches that a purge reaches: what they hold, and what is on its way to them. -/
def State.purgeLines (s : State) (die : Nat) (e : LogEntry) : List (Nat × Nat) :=
  if !e.purge then []
  else (List.range 16).flatMap fun i =>
    let q := die * 16 + i
    ((s.quad q).lines.filter fun x => e.coversKey x.1 && (x.2.state ≠ 0 || x.2.lmask ≠ 0#128 || x.2.locked)).map fun x => (q, x.1)

/-- The next entry of a die's log. -/
def Die.nextLog (d : Die) : Option LogEntry := d.log.find? fun e => e.seq == d.applied + 1

/-- A die has an entry to apply. -/
def State.logMay (s : State) (die : Nat) : Bool := s.homeServes die && (s.die die).nextLog.isSome

/-- Applies one entry of the log (15 R298): purge, then translation, then the sequence number. A write grant whose answer is on its way is
dropped with those that have arrived, and is asked for again (R362). -/
def State.applyLog (s : State) (die : Nat) (e : LogEntry) : State :=
  let s := (s.purgeLines die e).foldl (fun s p => s.purgeLine p.1 p.2) s
  let s := if !e.purge then s else (List.range 64).foldl (fun s i =>
    if (s.core (die * 64 + i)).l1.isEmpty && (s.core (die * 64 + i)).icode.isEmpty then s
    else s.modCore (die * 64 + i) fun c =>
      { c with l1 := c.l1.filter fun l => !e.coversKey l.key, icode := c.icode.filter fun l => !e.coversKey l.1 }) s
  let name (n : Nat) : Bool := e.covers (n / 2 ^ 45) (n % 2 ^ 45 * 4096)
  let s := if !e.transl then s else (List.range 16).foldl (fun s i =>
    if (s.quad (die * 16 + i)).grants.isEmpty && (s.quad (die * 16 + i)).grantWant.isEmpty then s
    else s.modQuad (die * 16 + i) fun q => { q with
      grants := q.grants.filter fun g => !name g.1, grantWant := q.grantWant.filter fun g => !name (s.nameOf g.1 (g.2 * 4096)) }) s
  s.modDie die fun d =>
    { d with
      applied := e.seq, log := d.log.filter (· ≠ e),
      leaves := if e.transl then d.leaves.filter fun l => !(l.base < e.base + 2 ^ (e.size + 12) && e.base < l.base + l.size
          && (if e.domain = 0 then l.fn == e.fn else s.tagOf l.fn l.base == e.domain)) else d.leaves,
      names := if e.transl then d.names.filterMap fun n =>
          let kept := n.2.names.filter fun x => !name x
          if kept.isEmpty then none else some (n.1, { n.2 with names := kept }) else d.names }

/-- LOG_APPLY (15 R298): the next entry of a die's log. -/
def execLogApply (die : Nat) (s : State) : Host.Outcome State Fault Refusal :=
  s.happens (fun s => s.logMay die) fun s =>
    match (s.die die).nextLog with
    | some e => s.applyLog die e
    | none => s

/-- INVAL_APPEND (15 R297): a write of the window's last word appends the entry to every die's log; a virtual function's entry
names itself, and is refused with number 0 where it breaks the rules. -/
def execInvalAppend (fn : Nat) (w : Word) (s : State) : Host.Outcome State Fault Refusal :=
  s.fnWrite fn fun s =>
    let ws := (s.fn fn).inval.set 3 w
    let w0 := ws.getD 0 0#32
    let w1 := ws.getD 1 0#32
    let base := (ws.getD 2 0#32).toNat + w.toNat * 2 ^ 32
    let bad := w0.bits 31 26 ≠ 0 || w0.bits 23 14 ≠ 0 || w1.bits 31 6 ≠ 0 || 45 < w1.bits 5 0 || !(w0.bit 25 || w0.bit 24)
      || (fn ≠ 0 && w0.bits 7 0 ≠ 0)
    let s := s.modFn fn fun f => { f with inval := ws }
    if bad then s.modFn fn fun f => { f with invseq := 0 }
    else
      let n := s.pack.invSeq + 1
      let e : LogEntry := { seq := n, purge := w0.bit 25, transl := w0.bit 24, fn := if fn = 0 then w0.bits 13 8 else fn,
                            domain := w0.bits 7 0, size := w1.bits 5 0, base := base / 2 ^ (w1.bits 5 0 + 12) * 2 ^ (w1.bits 5 0 + 12) }
      let s := (List.range 4).foldl (fun s d => s.modDie d fun x => { x with log := x.log ++ [e] }) s
      ({ s with pack := { s.pack with invSeq := n } }.modFn fn fun f => { f with invseq := n }).emit (.logSeq fn n)

end Sys2Proof.Machine
end

