-- ==== Sys2Proof/Machine/Engine.lean ====
section
/-! DEFINITION. Engine commands as they run (07 R137 to R140; 10 R204 to R215; 12 R239 to R251): when one starts, its elements,
their faults, collectives, and completion. An element acts whole, at one instant. -/

namespace Sys2Proof.Machine

/-! ## Commands and their progress -/

/-- The command of a block with a tag. -/
def State.cmdOf (s : State) (core ctx tag : Nat) : Option Cmd :=
  s.cmds.find? fun c => c.core == core && c.ctx == ctx && c.tag == tag

/-- Changes a command. -/
def State.modCmd (s : State) (c : Cmd) (f : Cmd → Cmd) : State :=
  { s with cmds := s.cmds.map fun d => if c.same d then f d else d }

/-- The block of a command. -/
def State.cmdBlock (s : State) (c : Cmd) : Block := c.orphan.getD (s.block c.core c.ctx)

/-- The progress register of a command. -/
def State.progressOf (s : State) (c : Cmd) : Progress :=
  (s.cmdBlock c).progress.getD c.pr Progress.free

/-- Changes the progress register of a command. -/
def State.modProgress (s : State) (c : Cmd) (f : Progress → Progress) : State :=
  let g (b : Block) : Block := { b with progress := b.progress.set c.pr (f (b.progress.getD c.pr Progress.free)) }
  if c.orphan.isSome then s.modCmd c fun d => { d with orphan := d.orphan.map g } else s.modBlock c.core c.ctx g

/-- The context that issued a command. -/
def Cmd.issuer (c : Cmd) : Tid := { core := c.core, ctx := c.ctx, slot := c.slot }

/-- The clocks of a command run (07 R148). -/
def State.cmdRuns (s : State) (c : Cmd) : Bool :=
  !(s.launch c.lid).frozen && (c.orphan.isSome || ((s.block c.core c.ctx).frozen.isNone && (s.block c.core c.ctx).resident))

/-- A command as requester of translations (15 R301). -/
def State.engineRequester (s : State) (c : Cmd) : Requester :=
  { pkg := s.pack.pkg, die := dieOf c.core, core := c.core % 64, slot := 0, origin := 2 + c.engine, tag := c.tag % 2 ^ 24 }

/-- A record of a command. -/
def Cmd.rec_ (c : Cmd) (i : Nat) : Rec := c.recs.getD i (List.replicate 8 0#32)

/-! ## The array (10 R191 to R195) -/

/-- Replaces the plane that MXW loads. -/
def State.setLoadPlane (s : State) (core : Nat) (p : Plane) : State :=
  s.modQuad (quadOf core) fun q =>
    if (s.core core).mxmode.bit 0 then (if s.firstOfPair core then { q with planeA := p } else { q with planeB := p })
    else { q with shadow := p }

/-- What MXS has latched of a core's plane in paired mode. -/
def State.latch (s : State) (core : Nat) : Plane :=
  if s.firstOfPair core then (s.quad (quadOf core)).latchA else (s.quad (quadOf core)).latchB

/-- Replaces it. -/
def State.setLatch (s : State) (core : Nat) (p : Plane) : State :=
  s.modQuad (quadOf core) fun q => if s.firstOfPair core then { q with latchA := p } else { q with latchB := p }

/-- The plane that MXG multiplies with. In paired mode the core has one plane: what MXG finds there of the latched weights is kept with their
description, apart from what an MXW loads (10 R195). -/
def State.workPlane (s : State) (core : Nat) : Plane :=
  if (s.core core).mxmode.bit 0 then s.latch core else (s.quad (quadOf core)).active

/-- Replaces the plane that MXG multiplies with. -/
def State.setWorkPlane (s : State) (core : Nat) (p : Plane) : State :=
  if (s.core core).mxmode.bit 0 then s.setLatch core p else s.modQuad (quadOf core) fun q => { q with active := p }

/-- MXS (10 R195, R207): the planes are exchanged and the shadow is empty; in paired mode the core's plane is latched where it
stands. -/
def State.swapPlanes (s : State) (core : Nat) : State :=
  let p := s.loadPlane core
  if (s.core core).mxmode.bit 0 then (s.setLatch core p).setLoadPlane core { p with filled := false, cells := [] }
  else s.modQuad (quadOf core) fun q => { q with active := p, shadow := Plane.empty, latched := true }

/-- An MXW loads a core's plane: in paired mode nothing of the latched weights stands there any longer, and an MXG streams its slice anew from
their record (10 R195, R208). -/
def State.overload (s : State) (core : Nat) : State :=
  if (s.core core).mxmode.bit 0 then s.setLatch core { s.latch core with cells := [], held := 2 ^ 16 } else s

/-- The array works on a core's commands now (10 R195). -/
def State.mxTurn (s : State) (core : Nat) : Bool :=
  let k := s.core core
  !k.mxmode.bit 0 || (s.clk / k.mxwin.bits 10 0 % 2 == 0) == s.firstOfPair core

/-- A mask names whole chains of a shape (10 R205). -/
def wholeChains (mask : BitVec 4) (shape : Nat) : Bool :=
  match shape with
  | 0 => true
  | 1 => mask.getLsbD 0 == mask.getLsbD 1 && mask.getLsbD 2 == mask.getLsbD 3
  | _ => mask = 0#4 || mask = 15#4

/-- The passes of an MXG over latched weights (10 R208). -/
def Cmd.mxgPasses (c : Cmd) (p : Plane) : Nat :=
  let d := depthOf p.shape p.p p.sparse
  ((operandShape (c.rec_ 0) (c.rec_ 1)).2 + d - 1) / d

/-- What MXG finds wrong with the latched weights at its start (10 R205, R208). -/
def Cmd.mxgBad (c : Cmd) : Option Plane → Bool
  | none => true
  | some p =>
    let d := depthOf p.shape p.p p.sparse
    (Rec.dim p.record 0 + d - 1) / d < p.slice + c.mxgPasses p || !wholeChains c.mask p.shape

/-! ## Elements (07 R137) -/

/-- The count M of rows of a matrix command, and its first accumulator row. -/
def Cmd.rows (c : Cmd) : Nat := c.t.bits 10 0
def Cmd.firstRow (c : Cmd) : Nat := c.b.bits 25 16

/-- The parties of a collective, its bytes and its segments. -/
def Cmd.word (c : Cmd) (i : Nat) : Word := c.ctl.getD i 0#32
def Cmd.steps (c : Cmd) : Nat := (c.word 0).bits 19 16
def Cmd.size (c : Cmd) : Nat := (c.word 2).toNat
def Cmd.segments (c : Cmd) : Nat := (c.size + 4095) / 4096

/-- Passes and elements per pass of a command. -/
def State.extentOf (s : State) (c : Cmd) : Nat × Nat :=
  match c.engine, c.opcode with
  | 0, 0 => (c.a.bits 11 8, 16)
  | 0, 1 => (1, 1)
  | 0, 2 => (match s.latchedPlane c.core with
             | some p => c.mxgPasses p
             | none => 1, (c.rows + 7) / 8)
  | 0, _ => (1, (c.rows + 7) / 8)
  | _, 0 => (1, (Rec.bytes (c.rec_ 1) + 255) / 256)
  | _, 7 => (1, (Rec.bytes (c.rec_ 0) + 255) / 256)
  | _, 1 | _, 2 => (1, (Rec.w (c.rec_ 2) 3).bits 15 0)
  | _, _ => (c.steps, c.segments)

/-- Advances a command past the element at PR.next; after the last its elements are done. -/
def State.advanceCmd (s : State) (c : Cmd) : State :=
  let s := s.modCmd c fun d => { d with since := s.clk }
  let (passes, count) := s.extentOf c
  let p := s.progressOf c
  if p.next + 1 < count then s.modProgress c fun p => { p with next := p.next + 1 }
  else if p.pass + 1 < passes then s.modProgress c fun p => { p with pass := p.pass + 1, next := 0 }
  else (s.modProgress c fun p => { p with next := p.next + 1 }).modCmd c fun d => { d with stage := 2 }

/-! ## Bytes that elements read and write -/

/-- A byte named by a record's space and address. -/
structure Ref where
  space : Nat
  addr : Nat
deriving DecidableEq, Repr

/-- Where a byte lies: 0 scratchpad with its name, 1 global, 2 weight store; none where the command may not reach it. -/
def State.refAt (s : State) (c : Cmd) (r : Ref) : Option (Nat × Nat) :=
  match r.space with
  | 0 => if r.addr < c.ssize then some (0, scratchName (c.core, c.sbase + r.addr)) else none
  | 1 => if r.addr < 2 ^ 57 then some (1, r.addr) else none
  | 2 => if r.addr < 2 ^ 28 && !s.wsOutside c.fn (dieOf c.core) r.addr 1 then some (2, r.addr) else none
  | _ => if r.addr < 2 ^ 32 then (s.scratchIn (s.cmdBlock c) c.core (w32 r.addr) 1).map fun p => (0, scratchName p) else none

/-- The byte that a command reads. -/
def State.refByte (s : State) (c : Cmd) (r : Ref) : Byte :=
  match s.refAt c r with
  | some (0, x) => s.scratchByte (x / 2 ^ 20) (x % 2 ^ 20)
  | some (1, x) => s.quadByte (quadOf c.core) c.fn x
  | some (_, x) => memGet (s.die (dieOf c.core)).ws x
  | none => 0#8

/-- The byte is poison. -/
def State.refPoison (s : State) (c : Cmd) (r : Ref) : Bool :=
  match s.refAt c r with
  | some (0, x) => Tab.get false (s.core (x / 2 ^ 20)).scratchPoison (x % 2 ^ 20 / 4)
  | some (1, x) => s.quadPoison (quadOf c.core) c.fn x
  | some (_, x) => Tab.get false (s.die (dieOf c.core)).wsPoison (x / 32)
  | none => false

/-- What the fork of the command orders before its access has been performed (10 R215, 12 R247): before a read, every write of the issuer's
observed set is visible on its core (13 R263); before a write, the fork's release has taken effect. -/
def State.forked (s : State) (c : Cmd) (write global : Bool) (x : Nat) : Bool :=
  if write then s.mayWrite c.issuer global c.tseq x 1
  else s.readsFixed c.issuer c.tseq && s.writesOut c.issuer c.tseq && !s.ownWriteBefore c.issuer global c.tseq x 1

/-- A weight-store byte's bank has refreshed ever since the element became the next one: it has had no instant outside its bank's window (11
R225). -/
def State.wsKept (s : State) (c : Cmd) (x : Nat) : Bool := wsBank x == s.refreshing && s.clk / 1024 * 1024 ≤ c.since

/-- A write goes to a page that the quad cache has a write grant for: it asks for no translation (15 R362). -/
def State.engineGranted (s : State) (c : Cmd) (write : Bool) (x : Nat) : Bool :=
  write && !s.isUncached c.fn x && s.granted_ (quadOf c.core) c.fn x

/-- A byte may be accessed, or its fault found, now: nothing that it waits for already keeps it. -/
def State.refMay (s : State) (c : Cmd) (write : Bool) (r : Ref) : Bool :=
  match s.refAt c r with
  | some (0, x) => s.forked c write false x
  | some (1, x) =>
    let access := if write then 5 else 4
    s.forked c write true x && (s.engineGranted c write x || s.ready c.fn x access || s.mayAsk c.fn x (dieOf c.core))
      && (!write || s.isUncached c.fn x || s.takesLocal (quadOf c.core) c.fn x)
  | some (_, x) => !s.wsKept c x
  | none => true

/-- Reaches a byte: the state after its page has been asked for, and a wait or the cause of a fault. -/
def State.reachRef (s : State) (c : Cmd) (write : Bool) (r : Ref) : State × Option (Option Nat) :=
  let poison (s : State) : Option (Option Nat) := if !write && s.refPoison c r then some (some 6) else none
  match s.refAt c r with
  | none => (s, some (some 8))
  | some (1, x) =>
    if s.engineGranted c write x then (s, if s.sealed c.fn x then some (some 8) else none)
    else match s.ask c.fn x (if write then 5 else 4) (s.engineRequester c) with
    | (s, .waits) => (s, some none)
    | (s, .fails k) => (s, some (some k))
    | (s, .go _) => (s, if write && s.sealed c.fn x then some (some 8) else poison s)
  | some _ => (s, poison s)

/-- An element's reads of another package's memory, and of the host's, go out, sector by sector (15 R288, R293). -/
def State.podReads (s : State) (c : Cmd) (rs : List Ref) : State :=
  (((rs.filter fun r => r.space == 1).map fun r => r.addr / 32 * 32).eraseDups).foldl (fun s a => s.farRead c.fn a 32) s

/-- What a command has read or written where some agent of the part does not see it yet: its delivery to a barrier object waits for it (13
R263). -/
def State.noteSeen (s : State) (c : Cmd) (rs : List Ref) : State :=
  let keys := ((rs.filterMap fun r => match s.refAt c r with
    | some (1, x) => some (s.keyOf c.fn x)
    | _ => none).eraseDups).filter (s.unpublished (quadOf c.core))
  if keys.isEmpty then s else s.modCmd c fun d => { d with seen := (d.seen ++ keys).eraseDups }

/-- Reaches bytes in order; the first that does not go on decides. -/
def State.reachAll (s : State) (c : Cmd) (write : Bool) : List Ref → State × Option (Option Nat)
  | [] => (s, none)
  | r :: rest =>
    match s.reachRef c write r with
    | (s, none) => s.reachAll c write rest
    | x => x

/-- A quad may write to the pages of bytes that its engine has written (15 R362). -/
def State.grantPages (s : State) (quad fn : Nat) (cells : List Host.Cell) : State :=
  s.modQuad quad fun q => { q with grants := q.grants ++ (((cells.map fun x => (s.nameOf fn x.1, fn)).eraseDups).filter
    fun g => !q.grants.contains g) }

/-- The lines that a command has written come into the observed set of the core's threads, one of which will join it
(12 R247; log 17). -/
def State.observeWrites (s : State) (core : Nat) (keys : List Nat) : State :=
  (s.coreThreads core).foldl (fun s t => s.modThread t fun th =>
    { th with seen := (th.seen ++ keys.filter (s.hasLocal (quadOf core))).eraseDups }) s

/-- Writes global bytes for a command: local bytes of the quad cache, or at an uncached home. -/
def State.engineGlobal (s : State) (core fn writer : Nat) (cells : List Host.Cell) : State :=
  if cells.isEmpty then s
  else
    let (far, near) := cells.partition fun x => s.isUncached fn x.1
    let s := s.homeWrite fn far
    let keys := (near.map fun x => s.keyOf fn x.1).eraseDups
    let s := (s.quadWrite core fn writer near (coveredSectors near)).grantPages (quadOf core) fn near
    s.observeWrites core keys

/-- A line is made ready for a write that is performed at system scope: local bytes that quads hold of it are published first, a range's write
token passes to the writer's quad, and a line of WON is a written one (14 R267, R274, R275). -/
def State.readyLine (s : State) (core fn key : Nat) : State :=
  let a := keyAddr key
  if s.isUncached fn a then s
  else
    let s := (s.quads.map (·.1)).foldl (fun (s : State) q => s.publishNow q key) s
    if s.slotOf fn a = 3 then s.modDir (s.homeOf fn a) (s.dirKey fn key) fun d => { d with state := max 1 d.state }
    else if s.writePath (s.slotOf fn a) = 2 then s.seizeToken (quadOf core) (s.rangeId fn a)
    else s

/-- Cells as runs of bytes. -/
def runsOf : List Host.Cell → List (Nat × List Byte)
  | [] => []
  | c :: rest => match runsOf rest with
    | [] => [(c.1, [c.2])]
    | (a, bs) :: more => if a = c.1 + 1 then (c.1, c.2 :: bs) :: more else (c.1, [c.2]) :: (a, bs) :: more

/-- Writes global bytes for a command so that every agent sees them from one instant on (13 R262). -/
def State.systemStore (s : State) (core fn : Nat) (cells : List Host.Cell) : State :=
  let keys := (cells.map fun x => s.keyOf fn x.1).eraseDups
  let s := keys.foldl (fun (s : State) k => s.readyLine core fn k) s
  (runsOf cells).foldl (fun (s : State) r => s.sysWrite fn r.1 r.2) s

/-- Writes bytes of a die's weight store; a sector written whole is no longer bad. -/
def State.storeWrite (s : State) (die : Nat) (cells : List Host.Cell) : State :=
  s.modDie die fun d =>
    { d with
      ws := memWrite d.ws cells,
      wsPoison := cells.foldl (fun m x => if x.1 % 32 = 0 && (List.range 32).all (fun i => cells.any fun y => y.1 == x.1 + i)
        then Tab.erase m (x.1 / 32) else m) d.wsPoison }

/-- The barrier object that a command tells of its elements: the core that holds it, and its address there. -/
def State.cmdObject (s : State) (c : Cmd) : Option (Nat × Nat) :=
  let collective := c.engine ≠ 0 && (c.opcode = 3 || c.opcode = 4)
  if c.engine = 0 then none
  else if collective then (if (c.word 3).bit 0 then s.scratchIn (s.cmdBlock c) c.core (c.word 4) 16 else none)
  else if c.t.bit 23 then s.scratchIn (s.cmdBlock c) c.core c.b 16 else none

/-- Writes the bytes of an element. -/
def State.writeRefs (s : State) (c : Cmd) (ws : List (Ref × Byte)) : State :=
  let placed := ws.filterMap fun w => (s.refAt c w.1).map fun p => (p, w.2)
  let cells (k : Nat) : List Host.Cell := placed.filterMap fun x => if x.1.1 = k then some (x.1.2, x.2) else none
  let near := cells 0
  let s := ((near.map fun x => x.1 / 2 ^ 20).eraseDups).foldl (fun s k =>
    s.scratchWrite k ((near.filter fun x => x.1 / 2 ^ 20 == k).map fun x => (x.1 % 2 ^ 20, x.2))) s
  let s := s.engineGlobal c.core c.fn (c.issuer.key + 1) (cells 1)
  let far := cells 2
  if far.isEmpty then s else s.storeWrite (dieOf c.core) far

/-- Tells the command's barrier object of bytes (06 R128): a release at the object's scope, so that at die scope or wider it is performed once what
the command has seen is published (13 R263). -/
def State.tell (s : State) (c : Cmd) (bytes : Nat) : State :=
  match s.cmdObject c with
  | none => s
  | some (k, a) =>
    let o : ObjOp := { kind := 3, tid := c.issuer, mask := 0#32, addr := a, v := w32 bytes, tseq := c.tseq, need := [] }
    let seen := ((s.cmdOf c.core c.ctx c.tag).map (·.seen)).getD c.seen
    let need := if 5 ≤ s.scopeOfOp o k then seen.filter (s.unpublished (quadOf c.core)) else []
    s.modCore k fun x => { x with objq := x.objq ++ [{ o with need := need }] }

/-! ## What one element is -/

/-- An element: the bytes it reads, a fault that they show, whether it reads a cell that a soft error has struck, its writes,
its effect on the array, and the bytes it tells its object of. -/
structure Elem where
  reads : List Ref
  bad : Option Nat
  struck : Bool
  writes : List (Ref × Byte)
  inner : State → State
  told : Nat

/-- An element that does nothing yet. -/
def Elem.idle : Elem := { reads := [], bad := none, struck := false, writes := [], inner := id, told := 0 }

/-! ### Weights (09 R188, R189; 10 R200) -/

/-- The bits of a stored plane of a column, and where the planes of a column begin. -/
def Rec.kept (r : Rec) : Nat := if Rec.sparse r then Rec.dim r 0 / 2 else Rec.dim r 0
def Rec.column (r : Rec) (n : Nat) : Nat := Rec.base r + n * Rec.stride r 1

/-- The byte of plane `j` of column `n` that holds stored bit `x`. -/
def Rec.planeByte (r : Rec) (n j x : Nat) : Ref := { space := Rec.space r, addr := Rec.column r n + j * (Rec.kept r / 8) + x / 8 }

/-- The metadata byte of a group of four elements. -/
def Rec.metaByte (r : Rec) (n group : Nat) : Ref :=
  { space := Rec.space r, addr := Rec.column r n + Rec.planes r * (Rec.kept r / 8) + group / 2 }

/-- The two positions that a group keeps. -/
def State.keptPair (s : State) (c : Cmd) (r : Rec) (n group : Nat) : Nat × Nat :=
  let nib := (s.refByte c (Rec.metaByte r n group)).toNat / (if group % 2 = 0 then 1 else 16) % 16
  (nib % 4, nib / 4)

/-- Bit `j` of element `k` of column `n`: plane `j`, 0 where the element is not kept or lies beyond the record. -/
def State.weightBit (s : State) (c : Cmd) (r : Rec) (n k j : Nat) : Bool :=
  let stored (x : Nat) : Bool := (s.refByte c (Rec.planeByte r n j x)).getLsbD (x % 8)
  if Rec.dim r 1 ≤ n || Rec.dim r 0 ≤ k then false
  else if Rec.sparse r then
    let (a, b) := s.keptPair c r n (k / 4)
    if k % 4 = a then stored (k / 4 * 2) else if k % 4 = b then stored (k / 4 * 2 + 1) else false
  else stored k

/-- The bytes of plane `j`, and the metadata, of elements `[lo, hi)` of a column. -/
def Rec.weightRefs (r : Rec) (n j lo hi : Nat) : List Ref :=
  let hi := min hi (Rec.dim r 0)
  if Rec.dim r 1 ≤ n || hi ≤ lo then []
  else if Rec.sparse r then
    ((List.range ((hi - lo) / 16)).map fun i => Rec.planeByte r n j (lo / 2 + 8 * i))
      ++ (List.range ((hi - lo) / 8)).map fun i => Rec.metaByte r n (lo / 4 + 2 * i)
  else (List.range ((hi - lo) / 8)).map fun i => Rec.planeByte r n j (lo + 8 * i)

/-- Some group of elements `[lo, hi)` of a column has invalid metadata. -/
def State.metaBad (s : State) (c : Cmd) (r : Rec) (n lo hi : Nat) : Bool :=
  let hi := min hi (Rec.dim r 0)
  Rec.sparse r && n < Rec.dim r 1 && (List.range ((hi - lo) / 4)).any fun i =>
    let p := s.keptPair c r n (lo / 4 + i)
    p.2 ≤ p.1

/-- Sets bit 7 - j of cells: plane `j` of elements `[lo, hi)` of a column, kept at their place in the slice that starts at
`base`; plane 0 clears the other bits. -/
def State.loadCells (s : State) (c : Cmd) (r : Rec) (base n j lo hi : Nat) (powered : Bool) (m : Tab Byte) : Tab Byte :=
  (List.range (hi - lo)).foldl (fun m i =>
    let k := lo + i
    let key := n * 8192 + (k - base)
    let old := if j = 0 then 0#8 else Tab.get 0#8 m key
    let bit := powered && s.weightBit c r n k j
    Tab.set 0#8 m key (old ||| (if bit then BitVec.ofNat 8 (2 ^ (7 - j)) else 0#8))) m

/-! ### MXW, MXS, MXZ (10 R206, R207, R210) -/

/-- Element (j, e) of MXW: plane j of physical columns 8e to 8e + 7. -/
def State.mxwElem (s : State) (c : Cmd) (j e : Nat) : Elem :=
  let r := c.rec_ 0
  let g := chainOf c.shape
  let d := depthOf c.shape (c.a.bits 11 8) (Rec.sparse r)
  let band := e / 4
  let base := c.t.bits 15 0 * d
  let lo := base + band % g * (d / g)
  let hi := lo + d / g
  let cols := (List.range 8).map fun i => band / g * 32 + e % 4 * 8 + i
  let on := c.mask.getLsbD band
  { Elem.idle with
    reads := if on then cols.flatMap fun n => Rec.weightRefs r n j lo hi else [],
    bad := if on && cols.any (fun n => s.metaBad c r n lo hi) then some 9 else none,
    inner := fun s =>
      let p := s.loadPlane c.core
      let cells := cols.foldl (fun m n => s.loadCells c r base n j lo hi on m) p.cells
      let last := j + 1 = c.a.bits 11 8 && e = 15
      s.setLoadPlane c.core { p with cells := cells, filled := last } }

/-- A command's own name: its launch, %block and tag. -/
def State.cmdName (s : State) (c : Cmd) : Nat × Nat × Nat := (c.lid, (s.cmdBlock c).block, c.tag)

/-- The plane that a starting MXW finds: what it has loaded already where it is the same array and nothing else has been
loaded; else an empty one, to be loaded from the first element (10 R206). -/
def Cmd.plane (c : Cmd) (name : Nat × Nat × Nat) : Plane :=
  { Plane.empty with
    record := c.rec_ 0, p := c.a.bits 11 8, sparse := Rec.sparse (c.rec_ 0), shape := c.shape, slice := c.t.bits 15 0,
    held := c.t.bits 15 0, tag := c.b.bits 15 0, mask := c.mask, loader := name }

/-- MXS's element. -/
def mxsElem (c : Cmd) : Elem := { Elem.idle with inner := fun s => s.swapPlanes c.core }

/-- The accumulator rows of element `e`. -/
def Cmd.elemRows (c : Cmd) (e : Nat) : List Nat := (List.range (min 8 (c.rows - 8 * e))).map (8 * e + ·)

/-- MXZ's element: rows cleared. -/
def mxzElem (c : Cmd) (e : Nat) : Elem :=
  { Elem.idle with inner := fun s => s.modQuad (quadOf c.core) fun q => q.clearRows (c.firstRow + 8 * e) (c.elemRows e).length }

/-! ### MXG (10 R199, R208) -/

/-- The bytes of element (m, k) of an A operand, and which of two it is in its byte; none for a pad element. -/
def aPlace (r u : Rec) (m k : Nat) : Option (Ref × Nat) :=
  let w := formatBits (Rec.format r)
  let place (at_ i : Nat) : Ref × Nat := ({ space := Rec.space r, addr := at_ + i * w / 8 }, i * w % 8)
  if Rec.rank r = 2 then some (place (Rec.base r + m * Rec.stride r 1) k)
  else
    let f (i hi lo : Nat) := (Rec.w u i).bits hi lo
    let ow := f 3 31 16
    let kw := f 1 15 8
    let kh := f 1 7 0
    let ch := Rec.dim r 0
    let (tap, c) := if f 4 8 8 = 0 then (k / ch, k % ch) else (k % (kh * kw), k / (kh * kw))
    let y : Int := (m / ow * f 1 23 16 + tap / kw * f 2 7 0 : Nat) - (f 2 23 16 : Nat)
    let x : Int := (m % ow * f 1 31 24 + tap % kw * f 2 15 8 : Nat) - (f 2 31 24 : Nat)
    if 0 ≤ y && y < Rec.dim r 2 && 0 ≤ x && x < Rec.dim r 1 then
      some (place (Rec.base r + x.toNat * Rec.stride r 1 + y.toNat * Rec.stride r 2) c)
    else none

/-- The signed or unsigned integer of a pattern of format 7 to 10. -/
def activation (format x : Nat) : Int :=
  match format with
  | 7 => (BitVec.ofNat 8 x).toInt
  | 8 => (x % 256 : Nat)
  | 9 => (BitVec.ofNat 4 x).toInt
  | _ => (x % 16 : Nat)

/-- Element (m, k) of an A operand; the unfold record's pad value outside the input. -/
def State.aValue (s : State) (c : Cmd) (m k : Nat) : Int :=
  let r := c.rec_ 0
  match aPlace r (c.rec_ 1) m k with
  | some (at_, sh) => activation (Rec.format r) ((s.refByte c at_).toNat / 2 ^ sh)
  | none => activation (Rec.format r) ((Rec.w (c.rec_ 1) 4).bits 7 0)

/-- The dot product of an A row with a column of the plane, over one pass (10 R208). -/
def State.rowSum (s : State) (c : Cmd) (l : Plane) (cells : Tab Byte) (m n first depth kA : Nat) : Int :=
  (List.range depth).foldl (fun a i =>
    if kA ≤ first + i then a
    else a + s.aValue c m (first + i) * ((Tab.get 0#8 cells (n * 8192 + i)).toInt / 2 ^ (8 - l.p))) 0

/-- The columns that a mask leaves on in a shape. -/
def onColumns (mask : BitVec 4) (shape : Nat) : List Nat :=
  (List.range (columnsOf shape)).filter fun n => mask.getLsbD (n / 32 * chainOf shape)

/-- Every cell of a slice of the latched weights, as it is streamed for a pass (10 R208). -/
def State.sliceCells (s : State) (c : Cmd) (l : Plane) (slice : Nat) : Tab Byte :=
  let d := depthOf l.shape l.p l.sparse
  (onColumns l.mask l.shape).foldl (fun m n => (List.range l.p).foldl (fun m j =>
    s.loadCells c l.record (slice * d) n j (slice * d) (slice * d + d) true m) m) []

/-- Element (j, e) of MXG. -/
def State.mxgElem (s : State) (c : Cmd) (j e : Nat) : Elem :=
  match s.latchedPlane c.core with
  | none => Elem.idle
  | some l =>
    let d := depthOf l.shape l.p l.sparse
    let slice := l.slice + j
    let work := s.workPlane c.core
    let fresh := work.held ≠ slice
    let cols := onColumns c.mask l.shape
    let loads := onColumns l.mask l.shape
    let kA := (operandShape (c.rec_ 0) (c.rec_ 1)).2
    let m0 := c.b.bits 15 0
    let rows := c.elemRows e
    let ks := (List.range (min d (kA - j * d))).map (j * d + ·)
    let lo := slice * d
    let add := !(c.t.bit 16 && j = 0)
    { Elem.idle with
      reads := (if fresh then loads.flatMap fun n => (List.range l.p).flatMap fun p => Rec.weightRefs l.record n p lo (lo + d) else [])
        ++ rows.flatMap fun i => ks.filterMap fun k => (aPlace (c.rec_ 0) (c.rec_ 1) (m0 + i) k).map (·.1),
      bad := if fresh && loads.any (fun n => s.metaBad c l.record n lo (lo + d)) then some 9 else none,
      struck := (!fresh && (s.quad (quadOf c.core)).planeBad)
        || (add && rows.any fun i => Tab.get false (s.quad (quadOf c.core)).accBad (c.firstRow + i)),
      inner := fun s =>
        let cells := if fresh then s.sliceCells c l slice else work.cells
        let s := if fresh then s.setWorkPlane c.core { work with cells := cells, held := slice } else s
        s.modQuad (quadOf c.core) fun q =>
          { q with
            planeBad := q.planeBad && !fresh,
            accBad := if add || cols.length < 128 then q.accBad
              else rows.foldl (fun m i => Tab.erase m (c.firstRow + i)) q.accBad,
            acc := rows.foldl (fun m i => cols.foldl (fun m n =>
              let key := (c.firstRow + i) * 128 + n
              let sum := s.rowSum c l cells (m0 + i) n (j * d) d kA
              let old : Int := if add then (Tab.get 0#48 m key).toInt else 0
              Tab.set 0#48 m key (BitVec.ofInt 48 (old + sum))) m) q.acc } }

/-! ### MXD (10 R211, R212) -/

/-- A drained element: its pattern, and whether it is flagged. -/
def drainOne (format : Nat) (acc : BitVec 48) (scale : Word) : Nat × Bool :=
  let a : FVal := .num (acc.toInt < 0) acc.toInt.natAbs 0
  let k := fp32.unpack scale.toNat
  let special := match k with
    | .num _ _ _ => false
    | _ => true
  let float (f : Fmt) : Nat × Bool :=
    let v := f.prod .rn a k
    (v.bits, special || v.raised &&& flagOf ≠ 0#5)
  let int (sg : Bool) (w : Nat) : Nat × Bool :=
    let (lo, hi) := intRange sg w
    let put (v : Int) : Nat := (BitVec.ofInt w v).toNat
    match (a.mul k).1 with
    | .nan _ => (0, true)
    | .inf n => (put (if n then lo else hi), true)
    | .num n m e =>
      let mag : Int := ((roundAt .rn n m e 0).1 : Nat)
      let v := if n then -mag else mag
      if v < lo then (put lo, true) else if hi < v then (put hi, true) else (put v, special)
  match format with
  | 0 => float fp32
  | 1 => float fp16
  | 2 => float bf16
  | 5 => int true 16
  | 7 => int true 8
  | 8 => int false 8
  | 9 => int true 4
  | _ => int false 4

/-- The bytes of a row of patterns of a width. -/
def packRow (w : Nat) (xs : List Nat) : List Byte :=
  leBytes ((xs.length * w + 7) / 8) (xs.foldr (fun x acc => x % 2 ^ w + 2 ^ w * acc) 0)

/-- Element `e` of MXD. -/
def State.mxdElem (s : State) (c : Cmd) (e : Nat) : Elem :=
  let r := c.rec_ 0
  let q := s.quad (quadOf c.core)
  let w := formatBits (Rec.format r)
  let rows := c.elemRows e
  let out (i : Nat) : List (Nat × Bool) := (List.range (Rec.dim r 0)).map fun n =>
    drainOne (Rec.format r) (Tab.get 0#48 q.acc ((c.firstRow + i) * 128 + n)) (c.scales.getD n 0#32)
  let row (i : Nat) : List (Ref × Byte) :=
    let bs := packRow w ((out i).map (·.1))
    (List.range bs.length).zipWith (fun x b =>
      ({ space := Rec.space r, addr := Rec.base r + (c.b.bits 15 0 + i) * Rec.stride r 1 + x }, b)) bs
  { Elem.idle with
    struck := rows.any fun i => Tab.get false q.accBad (c.firstRow + i),
    writes := rows.flatMap row,
    inner := fun s => s.modCmd c fun d =>
      { d with flags := (List.range 128).map fun n => d.flags.getD n false || rows.any fun i => ((out i).getD n (0, false)).2 } }

/-! ### CPY, CPF, GTH, SCT (12 R240 to R243) -/

/-- Logical byte `x` of a tensor, and whether it holds only a low half (10 R196). -/
def Rec.logical (r : Rec) (x : Nat) : Ref × Bool :=
  let n := Rec.rowBytes r
  ({ space := Rec.space r, addr := Rec.rowAddr r (x / n) + x % n },
   formatBits (Rec.format r) = 4 && Rec.dim r 0 % 2 = 1 && x % n + 1 = n)

/-- A byte to be written; of a half byte the other half stays. -/
def State.putByte (s : State) (c : Cmd) (at_ : Ref × Bool) (b : Byte) : Ref × Byte :=
  (at_.1, if at_.2 then (s.refByte c at_.1 &&& 0xF0#8) ||| (b &&& 0x0F#8) else b)

/-- The logical bytes of element `e` of a tensor of `n` bytes. -/
def elemBytes (n e : Nat) : List Nat := (List.range (min 256 (n - 256 * e))).map (256 * e + ·)

/-- Element `e` of CPY. -/
def State.cpyElem (s : State) (c : Cmd) (e : Nat) : Elem :=
  let src := c.rec_ 0
  let dst := c.rec_ 1
  let xs := elemBytes (Rec.bytes dst) e
  { Elem.idle with
    reads := xs.map fun x => (Rec.logical src x).1,
    writes := xs.map fun x => s.putByte c (Rec.logical dst x) (s.refByte c (Rec.logical src x).1),
    told := xs.length }

/-- The byte of a fill word that falls on logical byte `x` of a row. -/
def fillByte (bits : Nat) (a : Word) (x : Nat) : Byte :=
  match bits with
  | 4 => (byteOf a 0 &&& 0x0F#8) ||| (byteOf a 0 <<< 4)
  | 8 => byteOf a 0
  | 16 => byteOf a (x % 2)
  | _ => byteOf a (x % 4)

/-- Element `e` of CPF. -/
def State.cpfElem (s : State) (c : Cmd) (e : Nat) : Elem :=
  let dst := c.rec_ 0
  let xs := elemBytes (Rec.bytes dst) e
  let n := Rec.rowBytes dst
  { Elem.idle with
    writes := xs.map fun x => s.putByte c (Rec.logical dst x) (fillByte (formatBits (Rec.format dst)) c.a (x % n)),
    told := xs.length }

/-- The bytes of index `i` of an index list (12 R242). -/
def indexRefs (r : Rec) (i : Nat) : List Ref :=
  let size := if (Rec.w r 0).bits 7 4 = 4 then 4 else 2
  (List.range size).map fun b => { space := (Rec.w r 0).bits 9 8, addr := Rec.base r + i * size + b }

/-- Element `i` of GTH or SCT. -/
def State.gatherElem (s : State) (c : Cmd) (scatter : Bool) (i : Nat) : Elem :=
  let src := c.rec_ 0
  let dst := c.rec_ 1
  let list := indexRefs (c.rec_ 2) i
  let x := leNat (list.map (s.refByte c))
  let n := Rec.rowBytes src
  let (from_, to_) := if scatter then (i, x) else (x, i)
  if (if scatter then Rec.dim dst 1 else Rec.dim src 1) ≤ x then { Elem.idle with reads := list, bad := some 8 }
  else
    { Elem.idle with
      reads := list ++ (List.range n).map fun b => { space := Rec.space src, addr := Rec.base src + from_ * Rec.stride src 1 + b },
      writes := (List.range n).map fun b =>
        ({ space := Rec.space dst, addr := Rec.base dst + to_ * Rec.stride dst 1 + b },
         s.refByte c { space := Rec.space src, addr := Rec.base src + from_ * Rec.stride src 1 + b }),
      told := n }

/-! ### Collectives (12 R248 to R251) -/

/-- ARD and BCS. -/
def Cmd.collective (c : Cmd) : Bool := c.engine ≠ 0 && (c.opcode == 3 || c.opcode == 4)

def Cmd.rank (c : Cmd) : Nat := (c.word 1).bits 11 0
def Cmd.root (c : Cmd) : Nat := (c.word 1).bits 27 16

/-- The buffer of a rank, and its receive area. -/
def Cmd.buffer (c : Cmd) (r : Nat) : Nat := (c.parties.getD (4 * r) 0#32).toNat + (c.parties.getD (4 * r + 1) 0#32).toNat * 2 ^ 32
def Cmd.receive (c : Cmd) (r : Nat) : Nat :=
  (c.parties.getD (4 * r + 2) 0#32).toNat + (c.parties.getD (4 * r + 3) 0#32).toNat * 2 ^ 32

/-- Commands with one collective id. -/
def Cmd.sameId (c d : Cmd) : Bool := (d.word 0).bits 15 0 == (c.word 0).bits 15 0

/-- The other parties that a party meets: of its function, of its collective id or at a place of its own table; started. -/
def State.mates (s : State) (c : Cmd) : List Cmd :=
  s.cmds.filter fun d => d.collective && d.fn == c.fn && !c.same d && 1 ≤ d.stage
    && (c.sameId d || d.buffer d.rank == c.buffer d.rank)

/-- No block of this package is the party of a rank: one of another package is, or it has not issued yet. -/
def State.farRank (s : State) (c : Cmd) (r : Nat) : Bool :=
  let party (d : Cmd) : Bool := d.collective && d.fn == c.fn && c.sameId d && d.rank == r
  !s.cmds.any party && !s.saved.any fun v => v.present && v.cmds.any party

/-- A rank's relative rank, and what a party has to do in a step: 0 nothing, 1 hand over, 2 take. -/
def Cmd.relative (c : Cmd) : Nat := (c.rank + 2 ^ c.steps - c.root) % 2 ^ c.steps
def Cmd.role (c : Cmd) (j : Nat) : Nat :=
  if c.steps ≤ j then 0
  else if c.opcode = 3 then 3
  else if c.relative < 2 ^ j then (if c.relative + 2 ^ j < 2 ^ c.steps then 1 else 0)
  else if c.relative < 2 ^ (j + 1) then 2 else 0

/-- The rank met in a step. -/
def Cmd.partner (c : Cmd) (j : Nat) : Nat :=
  if c.opcode = 3 then c.rank ^^^ 2 ^ j
  else
    let v := if c.role j = 1 then c.relative + 2 ^ j else c.relative - 2 ^ j
    (v + c.root) % 2 ^ c.steps

/-- The first step from `j` on in which a party has elements. -/
def Cmd.nextStep (c : Cmd) (j : Nat) : Nat :=
  ((List.range (c.steps - j)).map (j + ·)).find? (fun i => c.role i != 0) |>.getD c.steps

/-- The step and segment that a party performs next: steps in which it has no elements are passed over. -/
def State.position (s : State) (c : Cmd) : Nat × Nat :=
  let p := s.progressOf c
  if c.role p.pass = 0 then (c.nextStep p.pass, 0) else (p.pass, p.next)

/-- One position comes before another. -/
def comesFirst (a b : Nat × Nat) : Bool := a.1 < b.1 || (a.1 == b.1 && a.2 < b.2)

/-- The boundary at which the parties park (07 R147). -/
def State.parkTarget (s : State) (c : Cmd) : Option (Nat × Nat) := (c :: s.mates c).findSome? (·.parkAt)

/-- A position that no parking holds back. -/
def State.free_ (s : State) (c : Cmd) (p : Nat × Nat) : Bool :=
  match s.parkTarget c with
  | some t => comesFirst p t
  | none => true

/-- Two parties' blocks disagree (12 R251). -/
def Cmd.disagrees (c d : Cmd) : Bool :=
  c.opcode != d.opcode || c.word 0 != d.word 0 || c.root != d.root || c.size != d.size

/-- The key of a segment. -/
def segKey (p : Nat × Nat) : Nat := p.1 * 65536 + p.2

/-- A segment stands in a party's receive area, or in its buffer, and its own has been handed over. -/
def State.taking (s : State) (c : Cmd) : Option (List Byte) :=
  let p := s.position c
  if c.role p.1 ≥ 2 && (c.opcode = 4 || c.sent = some p) && s.free_ c p then
    (c.inbox.find? fun x => x.1 == segKey p).map (·.2)
  else none

/-- A party waits for the party of a rank: its next element meets it, and it has not yet been handed what the element takes. -/
def State.waitsOn (s : State) (d : Cmd) (r : Nat) : Bool :=
  let j := (s.position d).1
  d.role j ≠ 0 && d.partner j == r && (s.taking d).isNone

/-- A party finds that its partner's block differs, or that two parties claim one rank (12 R251). A party of another id at the partner's
place differs where the two wait for one another; one that is still at another exchange is waited for, and so is one of the same id whose collective another party has ended already: it
is an earlier one. -/
def State.mismatch (s : State) (c : Cmd) : Bool :=
  let p := c.partner (s.position c).1
  let ms := s.mates c
  let there := ms.filter fun d => d.rank == p
  let mine := there.filter c.sameId
  let now (d : Cmd) : Bool := d.ended == c.ended
  s.waitsOn c p && ((mine.any fun d => c.disagrees d && (now d || s.waitsOn d c.rank)) || 1 < (mine.filter now).length
    || (ms.any fun d => c.sameId d && d.rank == c.rank && now d)
    || (mine.isEmpty && there.any fun d => s.waitsOn d c.rank))

/-- The partner of a party's next element, running. -/
def State.met (s : State) (c : Cmd) : Option Cmd :=
  (s.mates c).find? fun d => c.sameId d && d.rank == c.partner (s.position c).1 && d.stage == 1

/-- The bytes of a segment of a buffer. -/
def Cmd.segRefs (c : Cmd) (base e : Nat) : List Ref :=
  (List.range (min 4096 (c.size - 4096 * e))).map fun i => { space := 1, addr := base + 4096 * e + i }

/-- A party may hand over its next segment: its partner stands at it too, and what the partner's area held before has been taken. -/
def State.handing (s : State) (c : Cmd) : Option (Cmd × List Ref × List Ref) :=
  let p := s.position c
  match s.met c with
  | some d =>
    if c.role p.1 % 2 = 1 && c.sent ≠ some p && s.position d = p && !d.inbox.any (fun x => x.1 == segKey p) && s.free_ c p && !s.mismatch c then
      some (d, c.segRefs (c.buffer c.rank) p.2,
        c.segRefs (if c.opcode = 3 then c.receive d.rank else c.buffer d.rank) p.2)
    else none
  | none => none

/-- What a party's progress becomes when an element at a position is committed; the last one ends its elements. -/
def State.commitAt (s : State) (c : Cmd) (p : Nat × Nat) : State :=
  let s := s.modCmd c fun d => { d with since := s.clk }
  let s := s.modProgress c fun r => { r with pass := p.1, next := p.2 }
  let s := if p.2 + 1 < c.segments then s.modProgress c fun r => { r with next := p.2 + 1 }
    else if c.nextStep (p.1 + 1) < c.steps then s.modProgress c fun r => { r with pass := p.1 + 1, next := 0 }
    else (s.modProgress c fun r => { r with next := p.2 + 1 }).modCmd c fun d => { d with stage := 2 }
  if ((s.cmdOf c.core c.ctx c.tag).any fun d => d.stage == 2) then s.tell c c.size else s

/-- Hands a segment over: into the partner's receive area (ARD) or its buffer (BCS), where it is visible at once, to every agent. -/
def State.handOver (s : State) (c d : Cmd) (src dst : List Ref) : State :=
  let p := s.position c
  let bs := src.map (s.refByte c)
  let s := s.systemStore c.core c.fn ((dst.map (·.addr)).zip bs)
  let s := s.modCmd d fun x => { x with inbox := x.inbox ++ [(segKey p, bs)] }
  let s := s.modCmd c fun x => { x with sent := some p }
  if c.opcode = 4 then s.commitAt c p else s

/-- The combine operations of ARD (12 R249). -/
def combine (op ty : Nat) (lo hi : Word) : Word :=
  match op with
  | 0 => if ty = 0 then w32 (fp32.sum .rn [fp32.unpack lo.toNat, fp32.unpack hi.toNat] false).bits else lo + hi
  | 1 => if ty = 0 then w32 (fp32.minmax false lo.toNat hi.toNat).bits
         else if ty = 3 then (if lo.slt hi then lo else hi) else (if lo < hi then lo else hi)
  | 2 => if ty = 0 then w32 (fp32.minmax true lo.toNat hi.toNat).bits
         else if ty = 3 then (if lo.slt hi then hi else lo) else (if lo < hi then hi else lo)
  | 3 => lo &&& hi
  | 4 => lo ||| hi
  | _ => lo ^^^ hi

/-- The words of bytes. -/
def wordsOf (bs : List Byte) : List Word := (List.range (bs.length / 4)).map fun i => wordOf ((bs.drop (4 * i)).take 4)

/-- The element of a party that takes a segment: ARD combines it into its own buffer, the party whose bit of the step is 0
giving the first operand. -/
def State.takeElem (s : State) (c : Cmd) (got : List Byte) : Elem :=
  let p := s.position c
  if c.opcode = 4 then Elem.idle
  else
    let own := c.segRefs (c.buffer c.rank) p.2
    let f (a b : Word) : Word :=
      let (lo, hi) := if c.rank / 2 ^ p.1 % 2 = 0 then (a, b) else (b, a)
      combine ((c.word 0).bits 27 24) ((c.word 0).bits 23 20) lo hi
    let ws := (wordsOf (own.map (s.refByte c))).zipWith f (wordsOf got)
    { Elem.idle with reads := own, writes := own.zip (ws.flatMap bytesOf) }

/-- The element of a party whose partner is a block of another package (12 R249, R250): its segment goes to the partner's area over the
pod's links, and `far` is the segment that the partner has sent. -/
def State.farElem (s : State) (c : Cmd) (far : List Byte) : Elem :=
  let p := s.position c
  let own := c.segRefs (c.buffer c.rank) p.2
  let there := c.segRefs (if c.opcode = 3 then c.receive (c.partner p.1) else c.buffer (c.partner p.1)) p.2
  let sent := there.zip (own.map (s.refByte c))
  match c.role p.1 with
  | 1 => { Elem.idle with reads := own, writes := sent }
  | 2 => { Elem.idle with writes := own.zip far }
  | _ => let x := s.takeElem c far
         { x with writes := sent ++ x.writes }

/-! ## Performing elements -/

/-- The element at PR.next of a command that is no collective. -/
def State.elemOf (s : State) (c : Cmd) : Elem :=
  let p := s.progressOf c
  match c.engine, c.opcode with
  | 0, 0 => s.mxwElem c p.pass p.next
  | 0, 1 => mxsElem c
  | 0, 2 => s.mxgElem c p.pass p.next
  | 0, 3 => s.mxdElem c p.next
  | 0, _ => mxzElem c p.next
  | _, 0 => s.cpyElem c p.next
  | _, 1 => s.gatherElem c false p.next
  | _, 2 => s.gatherElem c true p.next
  | _, _ => s.cpfElem c p.next

/-- What performing an element comes to: the state after its pages have been asked for, and a wait or the cause of a fault. -/
def State.reachElem (s : State) (c : Cmd) (x : Elem) : State × Option (Option Nat) :=
  match s.reachAll c false x.reads with
  | (s, none) =>
    if x.struck then (s, some (some 0x13))
    else match x.bad with
      | some k => (s, some (some k))
      | none => s.reachAll c true (x.writes.map (·.1))
  | r => r

/-- Every byte of an element may be accessed, or its fault found, now. -/
def State.elemMay (s : State) (c : Cmd) (x : Elem) : Bool :=
  x.reads.all (s.refMay c false) && (x.writes.map (·.1)).all (s.refMay c true)

/-- What a running command does next: an element of its own, a segment handed over, or nothing. -/
def State.nextElem (s : State) (c : Cmd) : Option Elem :=
  if !s.cmdRuns c || c.stage ≠ 1 || (c.engine = 0 && !s.mxTurn c.core) then none
  else if c.collective then
    (s.handing c).map fun h => { Elem.idle with reads := h.2.1, writes := h.2.2.map fun r => (r, 0#8) }
  else some (s.elemOf c)

/-- A running command's next element may be performed. -/
def State.commitMay (s : State) (c : Cmd) : Bool :=
  match s.nextElem c with
  | some x => s.elemMay c x && (match s.reachElem c x with
      | (_, some (some _)) => false
      | _ => true)
  | none => false

/-- Performs an element that has reached its bytes. -/
def State.performElem (s : State) (c : Cmd) (x : Elem) : State :=
  let s := ((x.inner (s.writeRefs c x.writes)).drawn).noteSeen c (x.reads ++ x.writes.map (·.1))
  if x.told = 0 then s.advanceCmd c else (s.advanceCmd c).tell c x.told

/-- ENGINE_ELEMENT_COMMIT (07 R138): the element at PR.next is performed whole and committed, or waits for a page. -/
def execEngineElementCommit (core ctx tag : Nat) (s : State) : Host.Outcome State Fault Refusal :=
  s.happens (fun s => (s.cmdOf core ctx tag).any s.commitMay) fun s =>
    match s.cmdOf core ctx tag with
    | none => s
    | some c =>
      match s.nextElem c with
      | none => s
      | some x =>
        match s.reachElem c x with
        | (s, some _) => s
        | (s, none) =>
          let s := s.podReads c x.reads
          if c.collective then
            match s.handing c with
            | some (d, src, dst) => (s.handOver c d src dst).drawn
            | none => s
          else s.performElem c x

/-- A party may take the segment that its partner has handed over. -/
def State.takeMay (s : State) (c : Cmd) : Bool :=
  s.cmdRuns c && c.stage = 1 && c.collective && match s.taking c with
    | some got =>
      let x := s.takeElem c got
      s.elemMay c x && (match s.reachElem c x with
        | (_, some (some _)) => false
        | _ => true)
    | none => false

/-- The segment that a partner of another package sends: its memory is not this machine's, so that the bytes are free values (log 11). -/
def State.farBytes (s : State) (c : Cmd) : List Byte :=
  let p := s.position c
  if c.role p.1 = 1 then [] else (List.range (min 4096 (c.size - 4096 * p.2))).map fun i => Config.freeByte (s.draws * 2 ^ 57 + i)

/-- A partner of another package may exchange a party's next segment with it. -/
def State.farMay (s : State) (c : Cmd) : Bool :=
  let p := s.position c
  s.cmdRuns c && c.stage = 1 && c.collective && c.role p.1 ≠ 0 && s.free_ c p && s.farRank c (c.partner p.1)
    && s.elemMay c (s.farElem c (s.farBytes c))

/-! ## Faults (07 R139) -/

/-- The weight-store offset at which a command's next element leaves its function's window, where that is what ends it (15 R287). -/
def State.windowMiss (s : State) (c : Cmd) : Option Nat :=
  (s.nextElem c).bind fun (x : Elem) =>
    let stops (write : Bool) (r : Ref) : Bool := (s.reachRef c write r).2.isSome
    let first := match x.reads.find? (stops false) with
      | some r => some r
      | none => (x.writes.map Prod.fst).find? (stops true)
    first.bind fun r => if r.space = 2 && (s.refAt c r).isNone then some r.addr else none

/-- Trap 0x0A strikes the context that issued a command; for a struck accumulator or plane 0x13 does (16 R331), and for an access outside the
function's weight-store window 0x08 with the offset (15 R287). -/
def State.strikeIssuer (s : State) (c : Cmd) (cause p : Nat) (miss : Option Nat) : State :=
  s.modThread c.issuer fun th =>
    if !th.live then th
    else match miss with
      | some x => th.pend { cause := 8, tval := w32 x, telem := 0 }
      | none => th.pend { cause := if cause = 0x13 then 0x13 else 0x0A, tval := w32 c.tag, telem := p }

/-- A command whose block has ended is over: the rows that its block claimed are cleared and free with the last of them. -/
def State.dropOrphan (s : State) (c : Cmd) : State :=
  let s := { s with cmds := s.cmds.filter fun d => !c.same d }
  match c.orphan with
  | none => s
  | some o =>
    if c.engine ≠ 0 || s.rowsLive c.core o.claim then s
    else s.modQuad (quadOf c.core) fun q => q.clearRows o.claim.1 o.claim.2

/-- A command becomes faulted, and strikes the context that issued it; one whose block has ended is over. -/
def State.faultCommand (s : State) (c : Cmd) (cause : Nat) : State :=
  if c.orphan.isSome then s.dropOrphan c else
  let p := (s.progressOf c).next
  let miss := if cause = 8 then s.windowMiss c else none
  let s := s.modProgress c fun r => { r with state := 4, cause := cause }
  let s := s.modCmd c fun d => { d with stage := 4, cause := cause }
  let s := if cause = 0x13 && (s.quad (quadOf c.core)).planeBad && c.opcode = 2 then
      s.modQuad (quadOf c.core) fun q => { q with latched := false, active := Plane.empty, latchA := Plane.empty,
                                                  latchB := Plane.empty, planeBad := false }
    else s
  s.strikeIssuer c cause p miss

/-- A partner of another package exchanges a segment with a party: the party's element is committed, or faults. -/
def State.farExchange (s : State) (c : Cmd) : State :=
  let x := s.farElem c (s.farBytes c)
  match s.reachElem c x with
  | (s, some none) => s
  | (s, some (some k)) => s.faultCommand c k
  | (s, none) =>
    ((s.systemStore c.core c.fn (x.writes.map fun w => (w.1.addr, w.2))).commitAt c (s.position c)).drawn

/-- COLLECTIVE_SEGMENT_HANDOFF (12 R249, R250): a segment handed over is combined into the party's own buffer and committed; or a
partner of another package exchanges segments with the party, at an instant that comes in from outside (log 47). -/
def execCollectiveSegmentHandoff (core ctx tag : Nat) (s : State) : Host.Outcome State Fault Refusal :=
  s.happens (fun s => (s.cmdOf core ctx tag).any fun c => s.takeMay c || s.farMay c) fun s =>
    match s.cmdOf core ctx tag with
    | none => s
    | some c =>
      if !s.takeMay c then s.farExchange c else
      match s.taking c with
      | none => s
      | some got =>
        let p := s.position c
        let x := s.takeElem c got
        match s.reachElem c x with
        | (s, some _) => s
        | (s, none) =>
          let s := (s.writeRefs c x.writes).noteSeen c (x.reads ++ x.writes.map (·.1))
          let s := s.modCmd c fun d => { d with inbox := d.inbox.filter fun y => y.1 != segKey p }
          (s.commitAt c p).drawn

/-- The fault in which a running command's next element ends now, with the state after its page has been asked for. -/
def State.elemFault (s : State) (c : Cmd) : Option (State × Nat) :=
  let try_ (x : Elem) : Option (State × Nat) :=
    if s.elemMay c x then match s.reachElem c x with
      | (s, some (some k)) => some (s, k)
      | _ => none
    else none
  if !s.cmdRuns c || c.stage ≠ 1 then none
  else if c.collective && s.mismatch c then some (s, 9)
  else match (s.nextElem c).bind try_ with
    | some r => some r
    | none => if c.collective then (s.taking c).bind fun got => try_ (s.takeElem c got) else none

/-- A party's next element meets a party of another package, whose copy-control block may differ from its own (12 R251). -/
def State.meetsFar (s : State) (c : Cmd) : Bool :=
  s.cmdRuns c && c.stage = 1 && c.collective && c.role (s.position c).1 ≠ 0 && s.farRank c (c.partner (s.position c).1)

/-- ENGINE_ELEMENT_FAULT (07 R139). That a partner of another package has a block that differs, or that one there claims the party's rank, comes in
from outside (12 R251; log 47). -/
def execEngineElementFault (core ctx tag cause : Nat) (s : State) : Host.Outcome State Fault Refusal :=
  s.happens (fun s => (s.cmdOf core ctx tag).any fun c => (s.elemFault c).any (fun r => r.2 == cause) || (cause = 9 && s.meetsFar c)) fun s =>
    match s.cmdOf core ctx tag with
    | none => s
    | some c => match (s.elemFault c).filter fun r => r.2 == cause with
      | some (s, k) => s.faultCommand c k
      | none => s.faultCommand c cause

/-! ## Starting (10 R204, R205; 12 R239; 05 R110) -/

/-- The matrix commands of the array before a command, those parked apart; in paired mode its own core's. -/
def State.mxBefore (s : State) (c : Cmd) : List Cmd :=
  ((s.arrayCmds c.core).filter fun d => d.stage != 3).takeWhile fun d => !c.same d

/-- The commands that a matrix command must follow have completed. An MXW that MXR has named after a save had parked it is a command of the compute
path (10 R204, 19 R339): it follows every earlier command, and every later one follows it. -/
def State.mxFree (s : State) (c : Cmd) : Bool :=
  let many (d : Cmd) : Bool := d.opcode == 2 && (match s.latchedPlane d.core with
    | some p => 1 < d.mxgPasses p
    | none => false)
  (s.mxBefore c).all fun d => d.stage ≠ 4 && (match c.opcode with
    | 0 => !c.resumed && d.opcode != 0 && d.opcode != 1 && !many d
    | 1 => false
    | _ => d.opcode == 0 && !d.resumed)

/-- A band of a weight command's mask is still ramping (05 R110). -/
def State.ramps (s : State) (c : Cmd) : Bool :=
  (c.opcode == 0 || c.opcode == 2) && (s.quad (quadOf c.core)).ramping.any fun b => c.mask.getLsbD b.1

/-- The copy command is the first of its engine (12 R239). -/
def State.cpFirst (s : State) (c : Cmd) : Bool :=
  match s.cmds.find? fun d => d.engine == c.engine && d.core == c.core with
  | some d => c.same d
  | none => false

/-- An engine holds a record that has found the event queue full: its next command of that core waits (02 R19, 12 R246). -/
def State.engineHeld (s : State) (c : Cmd) : Bool :=
  (s.core c.core).held.any fun w => w.bits 31 30 == (if c.engine = 0 then 2 else c.engine - 1)

/-- A copy command may begin or go on on its engine. -/
def State.cpTurn (s : State) (c : Cmd) : Bool := s.cmdRuns c && s.cpFirst c && !s.engineHeld c

/-- The parked parties of a collective. -/
def State.parties (s : State) (c : Cmd) : List Cmd := (c :: s.mates c).filter fun d => c.sameId d && d.stage == 3

/-- Every party of a parked collective is there again, at the head of its engine, and all hold the same progress (07 R147). Parties of
other packages are taken to be so (log 47). -/
def State.reunited (s : State) (c : Cmd) : Bool :=
  let p := s.progressOf c
  let back (d : Cmd) : Bool :=
    (s.progressOf d).pass == p.pass && (s.progressOf d).next == p.next && s.cpTurn d
      && (d.orphan.isSome || (s.block d.core d.ctx).yield.isNone)
  (List.range (2 ^ c.steps)).all fun r => s.farRank c r || (s.parties c).any fun d => d.rank == r && back d

/-- The scale vector of MXD (10 R211). -/
def Cmd.scaleRefs (c : Cmd) : List Ref :=
  (List.range 512).map fun i => { space := 0, addr := c.a.bits 18 6 * 64 + i }

/-- A waiting command may start. -/
def State.startMay (s : State) (c : Cmd) : Bool :=
  if c.engine = 0 then
    c.stage = 0 && s.cmdRuns c && !s.engineHeld c && s.mxTurn c.core && s.mxFree c && !s.ramps c
      && (c.opcode ≠ 3 || c.scaleRefs.all (s.refMay c false))
  else s.cpTurn c && (c.stage = 0 || (c.collective && c.stage = 3 && s.reunited c))

/-- What a matrix command finds wrong at its start (10 R205, R207, R208). -/
def State.startFault (s : State) (c : Cmd) : Option Nat :=
  match c.opcode with
  | 0 => if wholeChains c.mask c.shape then none else some 9
  | 1 => if (s.loadPlane c.core).filled then none else some 9
  | 2 => if c.mxgBad (s.latchedPlane c.core) then some 9 else none
  | 3 => if c.scaleRefs.any (s.refPoison c) then some 6 else none
  | _ => none

/-- A matrix command comes to an array: at its first start it notes the tag of the weights that the MXS before it has latched (07 R143), 0
where none is latched. -/
def State.enterArray (s : State) (c : Cmd) (wtag : Nat) : State :=
  s.modCmd c fun d => { d with wtag := if d.array.isNone then wtag else d.wtag, array := some (quadOf c.core) }

/-- A matrix command starts: MXW finds its plane, which is its own only on the array where it parked (10 R206), MXD reads its scales. -/
def State.startMx (s : State) (c : Cmd) : State :=
  match c.opcode with
  | 0 =>
    let p := s.loadPlane c.core
    let fresh := c.plane (s.cmdName c)
    let mine := !p.filled && { p with cells := [] } = fresh && c.array == some (quadOf c.core)
    (if mine then s else (s.setLoadPlane c.core fresh).modProgress c fun r => { r with pass := 0, next := 0 }).overload c.core
  | 3 =>
    let ws := wordsOf (c.scaleRefs.map (s.refByte c))
    let special (w : Word) : Bool := w.bits 30 23 = 255
    s.modCmd c fun d => { d with
      scales := ws,
      flags := (List.range 128).map fun n => n < Rec.dim (c.rec_ 0) 0 && special (ws.getD n 0#32) }
  | _ => s

/-- ENGINE_COMMAND_START (10 R204, 12 R239). -/
def execEngineCommandStart (core ctx tag : Nat) (s : State) : Host.Outcome State Fault Refusal :=
  s.happens (fun s => (s.cmdOf core ctx tag).any s.startMay) fun s =>
    match s.cmdOf core ctx tag with
    | none => s
    | some c =>
      let run (s : State) (c : Cmd) : State :=
        (s.modProgress c fun r => { r with state := 1 }).modCmd c fun d => { d with stage := 1, parkAt := none, since := s.clk }
      if c.engine ≠ 0 then (if c.stage = 3 then s.parties c else [c]).foldl run s
      else
        let started (s : State) : State := (run s c).enterArray c ((s.latchedTag c.core).getD 0)
        match s.startFault c with
        | some k => (started s).faultCommand c k
        | none => started (s.startMx c)

/-! ## Completion (10 R202, 12 R245; 04 R84) -/

/-- The order of engines within a cycle: CP0, CP1, MX. -/
def engineRank (e : Nat) : Nat := if e = 0 then 3 else e

/-- A delivery of a command to its barrier object is still on its way (12 R245 step 2). -/
def State.delivering (s : State) (c : Cmd) : Bool :=
  s.cores.any fun e => e.2.objq.any fun o => o.kind == 3 && o.tid == c.issuer && o.tseq == c.tseq

/-- A command whose elements are done may complete, once the release of its fork has taken effect (13 R263): in one cycle the engines come in
their order. -/
def State.completeMay (s : State) (c : Cmd) : Bool :=
  let d := (s.core c.core).done
  s.cmdRuns c && c.stage = 2 && !s.delivering c && s.releasedBefore c.issuer c.tseq && (d.1 ≠ s.clk || d.2 < engineRank c.engine)

/-- TILEST entries of a drain, to be written 16 cycles later (10 R212). -/
def State.tileResult (s : State) (c : Cmd) : State :=
  if c.engine ≠ 0 || c.opcode ≠ 3 then s
  else
    let d0 := Rec.dim (c.rec_ 0) 0
    let entry (b : Nat) : Nat × Nat × Nat × Word :=
      (c.ctx, s.clk + 16, (c.t.bits 15 12 + b) % 16, maskWhere fun j => c.flags.getD (32 * b + j) false)
    s.modCore c.core fun k =>
      { k with tileLate := k.tileLate ++ (((List.range 4).filter fun b => 32 * b < d0).map entry) }

/-- A progress register keeps the descriptor of its command, which is done (07 R142). -/
def State.keepDescriptor (s : State) (c : Cmd) : State :=
  if c.orphan.isSome then s
  else s.modBlock c.core c.ctx fun b => { b with descs := b.descs.set c.pr (c.descriptor c.wtag) }

/-- ENGINE_COMMAND_COMPLETE (12 R245, 10 R202): the semaphore, the record, the port, and the progress register; a port fills after
the record has entered the queue. A command whose block has ended posts no record: its block's records are freed (12 R246; log 40). -/
def execEngineCommandComplete (core ctx tag : Nat) (s : State) : Host.Outcome State Fault Refusal :=
  s.happens (fun s => (s.cmdOf core ctx tag).any s.completeMay) fun s =>
    match s.cmdOf core ctx tag with
    | none => s
    | some c =>
      let s := s.tileResult c
      let s := if c.collective then (if c.ended then [] else s.mates c).foldl (fun s d => s.modCmd d fun x => { x with ended := true }) s else s
      let s := s.modProgress c fun r => { r with state := 2, doneAt := s.clk }
      let s := if c.orphan.isSome then s
        else s.modBlock core ctx fun b => { b with joinScope := max b.joinScope (c.completionScope b.twin) }
      let s := (s.keepDescriptor c).dropOrphan c
      let s := s.modCore core fun k => { k with done := (s.clk, engineRank c.engine) }
      let s := if c.t.bit 30 then s.semAdd core (c.t.bits 28 24) 1 else s
      if c.t.bit 31 && c.orphan.isNone then s.postRecord core (recordWord (if c.engine = 0 then 2 else c.engine - 1) ctx 0 tag)
      else s.takeResults core ctx tag

end Sys2Proof.Machine
end

