-- ==== Sys2Proof/Machine/System.lean ====
section
/-! DEFINITION. The system instructions of K (16 R310 to R314, R321; 10 R198) and the CSRs (16 R312). -/

namespace Sys2Proof.Machine

/-- A K trigger: split-wide; it waits for an earlier K result (16 R310). -/
def systemAction (h : Head) (ops : List OpPort) (readsT : Bool) (waits : State → Bool) (own : State → Option TrapRec)
    (effect : State → State) : Action :=
  Action.trigger h { ops := ops, t := readsT, wide := true }
    { Action.idle with
      waits := fun s => s.self.fills.any (fun f => f.port == .kq) || waits s
      own := own
      effect := effect }

/-! ## CSRs (16 R312) -/

/-- WSREF (11 R225). -/
def State.wsref (s : State) : Word :=
  if !s.pack.variant.hasStore then 0#32 else w32 (s.clk % 65536 / 1024 * 2 ^ 16 + (1024 - s.clk % 1024))

/-- CAPBASE (24 R359). -/
def State.capbase (s : State) : Word :=
  let var_ := match s.pack.variant with
    | .kv960p => 0
    | .kv960m => 1
    | .kv950m => 2
  w32 (var_ * 2 ^ 28 + s.pack.variant.hasPods.toNat * 2 ^ 7 + s.pack.variant.hasStore.toNat * 2 ^ 6 + s.pack.dies.toNat)

/-- The records of the capability list of a part with these dies (24 R360): ID and words 1 to 3 of every unit that is present. -/
def Package.units (p : Package) : List (Nat × List Word) :=
  let dies := w32 p.dies.toNat
  [(0x01, [dies, w32 64, w32 16])] ++
  (if p.variant.hasStore then [(0x02, [w32 64, w32 4194304, dies])] else []) ++
  (if p.variant.hasPods then [(0x03, [w32 16, w32 200, p.podId])] else []) ++
  [(0x04, [w32 63, w32 p.hostAtomics.toNat, 0#32]), (0x05, [w32 0xE0, 0#32, 0#32]), (0x06, [w32 0x13, 0#32, 0#32])]

/-- The words of the capability list from offset `off` on (24 R360): each record's first word names the next record, the last names
0. -/
def capWords (off : Nat) : List (Nat × List Word) → List Word
  | [] => []
  | [(id, ws)] => w32 (id * 2 ^ 8 + 1) :: ws
  | (id, ws) :: rest => w32 ((off + 16) * 2 ^ 16 + id * 2 ^ 8 + 1) :: ws ++ capWords (off + 16) rest

/-- The value of a CSR for a thread; none for a number outside the map. -/
def State.csr (s : State) (t : Tid) (n : Nat) : Option Word :=
  let th := s.thread t
  let b := s.block t.core t.ctx
  let c := s.core t.core
  match n with
  | 0x000 => some (w32 s.clk)
  | 0x001 => some th.clkh
  | 0x010 => some (c.level &&& 3#32)
  | 0x011 => some b.swtab
  | 0x020 => some (if t.isSluice then 0#32 else th.fstat &&& 31#32)
  | 0x030 => some b.tvec
  | 0x031 => some th.tcause
  | 0x032 => some th.tval
  | 0x033 => some th.telem
  | 0x034 => some b.tframe
  | 0x035 => some th.tepc
  | 0x036 => some th.tmask
  | 0x040 => some c.ashape
  | 0x041 => some (c.mxmode &&& 0x3D#32)
  | 0x042 => some (c.mxwin &&& 0x7FF#32)
  | 0x060 => some s.wsref
  | 0x070 => some (w32 (t.core % 64))
  | 0x071 => some (w32 (t.core % 64 / 4))
  | 0x072 => some (w32 (dieOf t.core))
  | 0x073 => some (w32 s.pack.pkg)
  | 0x074 => some s.pack.podId
  | 0x080 => some c.split
  | 0x090 => some (c.dbgctl &&& 0x7F07#32)
  | 0x0A0 => some s.capbase
  | _ => if 0x050 ≤ n && n ≤ 0x05F then some (c.tilest.getD (n - 0x050) 0#32) else none

/-- Whether CSRW may write a CSR at a level. -/
def csrWritable (n : Nat) (handler : Bool) : Bool :=
  n == 0x020 || n == 0x030 || n == 0x040 || (n == 0x034 && !handler)

/-- A value that a writable CSR refuses. -/
def csrBad (n : Nat) (v : Word) : Bool :=
  match n with
  | 0x020 => v.bits 31 5 ≠ 0
  | 0x030 => v ≠ 0#32 && v.toNat % 128 ≠ 8
  | 0x034 => v.toNat % 8192 ≠ 0 || 0x80000 ≤ v.toNat
  | _ => v.bits 31 2 ≠ 0 || v.bits 1 0 = 3

/-- CSRR's check and the first of CSRW's (16 R311). -/
def csrCheck (h : Head) (s : State) : Option TrapRec :=
  let v := s.lead h
  if v.bits 31 12 ≠ 0 || (s.csr s.cur.tid (v.bits 11 0)).isNone then some (s.before 0x02 v) else none

/-- The value of the CSR that a trigger names. -/
def State.csrLead (s : State) (h : Head) : Word := (s.csr s.cur.tid ((s.lead h).bits 11 0)).getD 0#32

/-- CSRR (16 R311): a read of CLK latches CLKH. -/
def execCsrr (h : Head) (s : State) : Host.Outcome State Fault Refusal :=
  (systemAction h [] true (fun _ => false) (csrCheck h) fun s =>
    let s' := s.sendFill .kq s.active (fun _ => s.csrLead h) 2
    if (s.lead h).bits 11 0 = 0 then s'.modThread s.cur.tid fun th => { th with clkh := w32 (s.clk / 2 ^ 32) } else s').outcome s

/-- CSRW's checks. -/
def csrwCheck (h : Head) (s : State) : Option TrapRec :=
  match csrCheck h s with
  | some r => some r
  | none =>
    let n := (s.lead h).bits 11 0
    if !csrWritable n s.self.level then some (s.trapWord 0x0F)
    else if csrBad n (s.leadOper h .ka) then some (s.before 0x02 (s.leadOper h .ka)) else none

/-- Writes a CSR (16 R311): FSTAT at once, with the landings of the cycle ORed in (09 R170); the others as of the next
cycle. -/
def State.writeCsr (s : State) (t : Tid) (n : Nat) (v : Word) : State :=
  let late : LateWrite := { reg := 0x100 + n, val := v, sluice := t.isSluice }
  match n with
  | 0x020 =>
    if t.isSluice then s
    else s.modThread t fun th =>
      { th with fstat := v ||| (if th.raisedAt = s.clk then th.raisedNow.zeroExtend 32 else 0#32) }
  | 0x040 => s.modCore t.core fun c => { c with late := c.late ++ [late] }
  | _ => s.modBlock t.core t.ctx fun b => { b with late := b.late ++ [late] }

/-- CSRW (16 R311). -/
def execCsrw (h : Head) (s : State) : Host.Outcome State Fault Refusal :=
  (systemAction h [.ka] true (fun _ => false) (csrwCheck h) fun s =>
    (s.sendFill .kq s.active (fun _ => s.csrLead h) 2).writeCsr s.cur.tid ((s.lead h).bits 11 0) (s.leadOper h .ka)).outcome s

/-- TRAP (16 R313). -/
def execTrap (h : Head) (s : State) : Host.Outcome State Fault Refusal :=
  (systemAction h [] true (fun _ => false) (fun _ => none) fun s => s.noteAfter 0x17 (s.lead h)).outcome s

/-! ## RTE (16 R321) -/

/-- Something that the handler triggered has not landed or arrived (16 R321); what the trap has set aside may still be on its way (R323). -/
def State.handlerBusy (s : State) : Bool :=
  let th := s.self
  let t := s.cur.tid
  let from_ := match th.aside with
    | some a => a.from_
    | none => 0
  th.level && (!th.flights.isEmpty || !th.ls.fixedBefore th.seq || !th.lg.fixedBefore th.seq || !th.lw.fixedBefore th.seq
    || th.fills.any (fun f => f.port == .kq || f.port == .yq || f.port == .smq)
    || (s.core t.core).atoms.any (fun x => x.tid == t && from_ ≤ x.tseq)
    || s.cores.any fun e => e.2.objq.any fun o => o.tid == t && from_ ≤ o.tseq && (o.kind == 2 || o.kind == 4))

/-- RTE's check: it is legal at handler level alone. -/
def rteCheck (s : State) : Option TrapRec := if s.self.level then none else some (s.trapWord 0x0F)

/-- Acquires and fences that the frame records as waits begin again (06 R115, R130), and waits at SYNC take their places again; a context that
waits for the lease goes on waiting (10 R194). -/
def State.renewWaits (s : State) (t : Tid) : State :=
  let s := ((s.thread t).liveSplits.foldl (fun s i => if ((s.thread t).split i).wait.kind = 5 then s.beginAcquire t i else s) s).syncPlaces t
  if t.isSluice && (s.quad (quadOf t.core)).leaseReqs.any (fun r => r.core == t.core && r.ctx == t.ctx) then
    s.modThread t fun th => { th with splits := th.splits.map fun (sp : Split) => if sp.live then { sp with lease := true } else sp }
  else s

/-- RTE (16 R321). -/
def execRte (h : Head) (s : State) : Host.Outcome State Fault Refusal :=
  (systemAction h [] false (fun s => s.handlerBusy) rteCheck fun s =>
    if s.self.level then (s.returnFromTrap s.cur.tid).renewWaits s.cur.tid else s).outcome s

/-! ## CHK, SHP, OBJ, EVT -/

/-- The guarded lanes in which CHK's value carries a poison tag. -/
def State.taggedLanes (s : State) (h : Head) : Mask :=
  maskWhere fun l => (s.guard h.guard).getLsbD l && (s.srcRead h.src false l).2

/-- CHK (16 R313): per lane; it only tests its value. -/
def execChk (h : Head) (s : State) : Host.Outcome State Fault Refusal :=
  (Action.trigger h { ops := [], t := false, wide := false }
    { Action.idle with
      waits := fun s => s.self.fills.any (fun f => f.port == .kq)
      poison := fun s => if s.taggedLanes h ≠ 0#32 then some (s.before 0x06 (s.taggedLanes h)) else none }).outcome s

/-- The record that SHP reads: 32 bytes of the block's own region, as the context's earlier stores leave them. -/
def State.shpRecord (s : State) (h : Head) : Rec :=
  let t := s.cur.tid
  let bytes := s.ownScratch t t.core (s.selfBlock.scratchBase + (s.leadOper h .ka).toNat) 32
  (List.range 8).map fun i => wordOf ((bytes.drop (4 * i)).take 4)

/-- The core's scratch address of the record that SHP reads. -/
def State.shpAt (s : State) (h : Head) : Nat := s.selfBlock.scratchBase + (s.leadOper h .ka).toNat

/-- An earlier atomic or barrier-object operation of the thread on the record's bytes is still to be performed: SHP's read follows it in program
order (10 R198, 11 R235). -/
def State.shpWaits (s : State) (h : Head) : Bool :=
  let t := s.cur.tid
  let x := scratchName (t.core, s.shpAt h)
  s.selfCore.atoms.any (fun e => e.tid == t && e.kind == 0 && e.lanes.any fun l => spansMeet l.addr 4 x 32)
    || s.cores.any fun e => e.2.objq.any fun o => o.tid == t && spansMeet (scratchName (e.1, o.addr)) 16 x 32

/-- A word of the record is poisoned, and no buffered store of the thread writes it whole (10 R198, 11 R226). -/
def State.shpPoisoned (s : State) (h : Head) : Bool :=
  (List.range 8).any fun i => s.ownPoisoned s.cur.tid s.cur.tid.core (s.shpAt h + 4 * i)

/-- SHP's checks (10 R198). -/
def shpCheck (h : Head) (s : State) : Option TrapRec :=
  let o := s.leadOper h .ka
  let v := s.lead h
  if v.bits 31 6 ≠ 0 then some (s.before 0x02 v)
  else if o.toNat % 32 ≠ 0 then some (s.before 0x02 o)
  else if s.selfBlock.scratchSize < o.toNat + 32 then some (s.before 0x08 o)
  else if s.shpPoisoned h then some (s.trapWord 0x06)
  else if Rec.bad (s.shpRecord h) then some (s.before 0x02 (Rec.w (s.shpRecord h) 0)) else none

/-- SHP (10 R198): writes one record into one slot. -/
def execShp (h : Head) (s : State) : Host.Outcome State Fault Refusal :=
  (systemAction h [.ka] true (fun s => s.shpWaits h) (shpCheck h) fun s =>
    s.modBlock s.cur.tid.core s.cur.tid.ctx fun b =>
      { b with shapes := b.shapes.set ((s.lead h).bits 5 0) (s.shpRecord h) }).outcome s

/-- EVT's check (16 R314). -/
def evtCheck (h : Head) (s : State) : Option TrapRec :=
  if (s.lead h).bits 31 24 ≠ 0 then some (s.before 0x02 (s.lead h)) else none

/-- The event queue has no room for another record of EVT. -/
def State.queueFull (s : State) : Bool :=
  64 ≤ s.selfCore.evq.length + s.selfCore.held.length + s.selfCore.heldE.length

/-- EVT (16 R314): REL.bk, then the record is posted once that release has taken effect. -/
def execEvt (h : Head) (s : State) : Host.Outcome State Fault Refusal :=
  (systemAction h [] true (fun s => s.queueFull) (evtCheck h) fun s =>
    let t := s.cur.tid
    let w := recordWord 3 t.ctx (if t.isSluice then 0 else t.slot) ((s.lead h).bits 23 0)
    let s := s.release t 2
    s.modCore t.core fun c => { c with heldE := c.heldE ++ [{ tid := t, seq := s.self.seq, word := w }] }).outcome s

end Sys2Proof.Machine
end

