-- ==== Sys2Proof/Machine/Object.lean ====
section
/-! DEFINITION. Coherence objects (14 R278, R279): what OBJ checks, the gathering of lines at their home, and the objects that it enters and
frees. -/

namespace Sys2Proof.Machine

/-- The record that OBJ names. -/
def State.objRecord (s : State) (h : Head) : Rec := s.selfBlock.shape ((s.leadOper h .ka).bits 5 0)

/-- The bytes that the record covers, rounded out to lines. -/
def objSpan (r : Rec) : Nat × Nat := (Rec.base r / 128 * 128, (Rec.base r + Rec.lastByte r) / 128 * 128 + 127)

/-- The lines of a span. -/
def spanLines (sp : Nat × Nat) : List Nat := (List.range ((sp.2 + 1 - sp.1) / 128)).map fun i => sp.1 + 128 * i

/-- The span lies in one object-mode range, and its lines have one home die. -/
def State.objRangeOk (s : State) (fn : Nat) (sp : Nat × Nat) : Bool :=
  match s.rangeIndex fn sp.1 with
  | none => false
  | some i =>
    let r := s.range fn i
    r.objMode && r.holds sp.2 && (if r.policy = 0 then
      (sp.1 - r.base) / r.granule = (sp.2 - r.base) / r.granule || (spanLines sp).all fun a => r.home a == r.home sp.1
      else true)

/-- OBJ's checks (14 R279). -/
def objCheck (h : Head) (s : State) : Option TrapRec :=
  let a := s.leadOper h .ka
  let v := s.lead h
  let r := s.objRecord h
  if a.bits 31 6 ≠ 0 then some (s.before 0x02 a)
  else if v.bits 31 1 ≠ 0 then some (s.before 0x02 v)
  else if Rec.companion r || Rec.space r ≠ 1 || !Rec.object r || Rec.rowBytes r = 0 || Rec.rows r = 0 then
    some (s.before 0x09 a)
  else if !s.objRangeOk s.selfBlock.fn (objSpan r) then some (s.before 0x08 a)
  else none

/-- Recalls, publishes and unlinks a line from every quad cache: what is under way for it is delivered; then each quad that holds something of it
publishes it and gives it up, so that an owner's data and every quad's local bytes go home, by their own function's translation (15 R299), and no
copy is left. -/
def State.gatherLine (s : State) (fn addr : Nat) : State :=
  let key := s.keyOf fn addr
  let s := s.settleLine (s.dirKey fn key) key lineMessages
  let s := (s.quads.map (·.1)).foldl (fun (s : State) q =>
    if s.qline q key = QLine.empty then s else s.purgeLine q key) s
  { s with
    quads := s.quads.map fun e => (e.1, { e.2 with lines := Tab.erase e.2.lines key }),
    dies := s.dies.map fun e => (e.1, { e.2 with dir := Tab.erase e.2.dir key }) }

/-- A live object meets a span of a function's space: one of its own, or of a function that names those lines by the same tag. -/
def State.objMeets (s : State) (o : ObjEntry) (sp : Nat × Nat) (fn : Nat) : Bool :=
  o.live && o.lo ≤ sp.2 && sp.1 ≤ o.hi && (o.fn == fn || s.tagOf o.fn o.lo == s.tagOf fn sp.1)

/-- The operation of OBJ at the home die (14 R279), and what it gives K.q. -/
def State.objApply (s : State) (fn : Nat) (r : Rec) (release : Bool) : State × Word :=
  let sp := objSpan r
  let die := s.homeOf fn sp.1
  let objs := (s.die die).objs
  let answer (i : Nat) : Word := w32 (die * 256 + i)
  if release then
    match (List.range objs.length).find? fun i =>
      let o := objs.getD i { live := false, lo := 0, hi := 0, fn := 0 }
      o.live && o.fn == fn && o.lo == sp.1 && o.hi == sp.2 with
    | none => (s, 0x80000003#32)
    | some i =>
      let s := (spanLines sp).foldl (fun s a => s.gatherLine fn a) s
      (s.modDie die fun d => { d with objs := d.objs.set i { live := false, lo := 0, hi := 0, fn := 0 } }, answer i)
  else
    match (List.range objs.length).find? fun i => !(objs.getD i { live := true, lo := 0, hi := 0, fn := 0 }).live with
    | none => (s, 0x80000001#32)
    | some i =>
      if objs.any fun o => s.objMeets o sp fn then (s, 0x80000002#32)
      else
        let s := (spanLines sp).foldl (fun s a => s.gatherLine fn a) s
        (s.modDie die fun d => { d with objs := d.objs.set i { live := true, lo := sp.1, hi := sp.2, fn := fn } }, answer i)

/-- OBJ (14 R279): K.q fills when the operation is done, later than a CSR's result (16 R310). -/
def execObj (h : Head) (s : State) : Host.Outcome State Fault Refusal :=
  (systemAction h [.ka] true (fun _ => false) (objCheck h) fun s =>
    let (s', v) := s.objApply s.selfBlock.fn (s.objRecord h) ((s.lead h).bit 0)
    let m := s.active
    s'.modThread s.cur.tid fun th =>
      let th := th.setAwaiting .kq (th.awaiting .kq ||| m)
      { th with fills := th.fills ++ [{ port := .kq, mask := m, vals := lanes32 fun _ => v, due := s.clk + 3, late := true }] }).outcome s

end Sys2Proof.Machine
end

