-- ==== Sys2Proof/Machine/HostRegs.lean ====
section
/-! DEFINITION. What the host and firmware write: registers of functions and queues (24 R357, R358), range entries (14 R264,
R265), protocol images (R276, R277), the host's reads and writes of device memory (R363), gating, sleep and loss of a quad cache
(R282 to R284), keys, reset and windows of functions (15 R285, R307). -/

namespace Sys2Proof.Machine

/-! ## Registers of a function (24 R357) -/

/-- FSTATUS_ERROR_CLEAR: the one write that a fenced function's window takes. -/
def execFstatusErrorClear (fn : Nat) (s : State) : Host.Outcome State Fault Refusal :=
  s.happens State.hostUp fun s => s.modFn fn fun f => { f with error := false }

/-- A queue of a function. -/
def State.queue (s : State) (fn q : Nat) : Queue := Tab.get Queue.reset (s.fn fn).queues q

/-- Changes a queue of a function. -/
def State.modQueue (s : State) (fn q : Nat) (f : Queue → Queue) : State :=
  s.modFn fn fun x => { x with queues := Tab.set Queue.reset x.queues q (f (Tab.get Queue.reset x.queues q)) }

/-- A 64-bit register with one half written. -/
def halfWritten (old : Nat) (hi : Bool) (w : Word) : Nat :=
  if hi then old % 2 ^ 32 + w.toNat * 2 ^ 32 else old / 2 ^ 32 * 2 ^ 32 + w.toNat

/-- QBASE_WRITE: taken while the selected queue is not enabled; the base is 128-byte aligned. -/
def execQbaseWrite (fn : Nat) (hi : Bool) (w : Word) (s : State) : Host.Outcome State Fault Refusal :=
  s.fnWrite fn fun s =>
    let q := (s.fn fn).qsel
    if (s.queue fn q).enabled then s.fnError fn
    else s.modQueue fn q fun x => { x with base := halfWritten x.base hi (if hi then w else w &&& ~~~0x7F#32) }

/-- QUEUE_ENABLE: a QCTL write that sets enable. On an enabled queue it may not change k. -/
def execQueueEnable (fn : Nat) (w : Word) (s : State) : Host.Outcome State Fault Refusal :=
  s.fnWrite fn fun s =>
    let q := (s.fn fn).qsel
    let x := s.queue fn q
    let k := w.bits 4 0
    if k < 4 || 16 < k then s.fnError fn
    else if x.enabled then (if k = x.k then s else s.fnError fn)
    else s.modQueue fn q fun x => { x with
      k := k, enabled := true, stopped := false, reason := 0, doorbell := 0#32, read := 0#32, fetched := 0#32, since := s.nextLid }

/-- QUEUE_DISABLE: a QCTL write that clears enable stops fetching; what was fetched runs on. -/
def execQueueDisable (fn : Nat) (w : Word) (s : State) : Host.Outcome State Fault Refusal :=
  s.fnWrite fn fun s =>
    let q := (s.fn fn).qsel
    let x := s.queue fn q
    let k := w.bits 4 0
    if x.enabled then
      let s := if k = x.k then s else s.fnError fn
      s.modQueue fn q fun x => { x with enabled := false, stopped := true, reason := 0 }
    else s.modQueue fn q fun x => { x with k := k }

/-! ## Registers without a row of their own -/

/-- A write into BAR0 (24 R357). A reserved or read-only offset holds nothing; a write of FQRES with a reserved value is refused (15 R303). -/
def State.bar0Write (s : State) (fn off : Nat) (w : Word) : State :=
  match off with
  | 0x08 => s.modFn fn fun f => { f with qsel := w.bits 11 0 }
  | 0x20 => s.modFn fn fun f =>
      { f with fqbase := halfWritten f.fqbase false (w &&& ~~~0x1F#32), fqset := f.fqset ||| 1 }
  | 0x24 => s.modFn fn fun f => { f with fqbase := halfWritten f.fqbase true w, fqset := f.fqset ||| 2 }
  | 0x30 => if 2 ≤ w.bits 31 30 || w.bits 29 16 ≠ 0 then s.fnError fn else s
  | 0x40 => s.modFn fn fun f => { f with inval := f.inval.set 0 w }
  | 0x44 => s.modFn fn fun f => { f with inval := f.inval.set 1 w }
  | 0x48 => s.modFn fn fun f => { f with inval := f.inval.set 2 w }
  | _ => s

/-- The fields of an INVAL word that are not reserved (15 R296), which a read gives: a reserved field reads 0 (00 R6), though an append looks at
what was written to it. -/
def invalField (i : Nat) (w : Word) : Word :=
  match i with
  | 0 => w &&& 0x03003FFF#32
  | 1 => w &&& 0x0000003F#32
  | _ => w

/-- A read of BAR0 (24 R357); reserved offsets read 0. The capability list is as firmware wrote it at bring-up (R361); a doorbell holds the write
index (05 R91). -/
def State.bar0Read (s : State) (fn off : Nat) : Word :=
  let f := s.fn fn
  let x := s.queue fn f.qsel
  let half (n : Nat) : Word := w32 (if off % 8 = 0 then n else n / 2 ^ 32)
  if 0x800 ≤ off && off < 0x1000 then s.pack.capList.getD ((off - 0x800) / 4) 0#32
  else if 0x4000 ≤ off && off < 0x8000 && off % 4 = 0 then (s.queue fn ((off - 0x4000) / 4)).doorbell
  else if 0x60 ≤ off && off < 0x80 then half (s.die ((off - 0x60) / 8)).applied
  else match off with
  | 0x00 => w32 (f.fenced.toNat * 2 ^ 31 + f.error.toNat * 2 ^ 30)
  | 0x08 => w32 f.qsel
  | 0x10 | 0x14 => w32 (if off = 0x10 then x.base else x.base / 2 ^ 32)
  | 0x18 => w32 (x.enabled.toNat * 2 ^ 31 + x.stopped.toNat * 2 ^ 30 + x.reason * 2 ^ 24 + x.k)
  | 0x1C => x.read
  | 0x20 | 0x24 => w32 (if off = 0x20 then f.fqbase else f.fqbase / 2 ^ 32)
  | 0x28 => f.fqctl
  | 0x2C => f.fqhead
  | 0x40 | 0x44 | 0x48 | 0x4C => invalField ((off - 0x40) / 4) (f.inval.getD ((off - 0x40) / 4) 0#32)
  | 0x50 | 0x54 => w32 (if off = 0x50 then f.invseq else f.invseq / 2 ^ 32)
  | _ => 0#32

/-- A word of a function's range table: word 0 is that of the entry, words 1 to 3 what was last written to them. -/
def Function.rangeWord (f : Function) (i : Nat) : Word :=
  let r := f.ranges.getD (i / 4) Range.empty
  if i % 4 = 0 then (if r.valid then r.words.getD 0 0#32 else 0#32) else Tab.get 0#32 f.stage i

/-- A word of a function's control block as it reads (24 R358); the reset bit has cleared itself. -/
def Function.controlWord (f : Function) (i : Nat) : Word :=
  match i with
  | 0 => w32 (f.enabled.toNat * 2 ^ 31)
  | 2 => w32 f.ptroot
  | 3 => w32 (f.ptroot / 2 ^ 32)
  | 4 | 5 | 6 | 7 => f.frames.getD (i - 4) 0#32
  | 8 | 9 | 10 | 11 => f.tables.getD (i - 8) 0#32
  | 12 | 13 | 14 | 15 => f.wsWin.getD (i - 12) 0#32
  | _ => 0#32

/-- A read of BAR2 (24 R358): range tables, control blocks, PLREQ, PLSTAT, FENCEVEC, SLOTSTAT and the error counters, in which a
correctable counter stands before its uncorrectable one. -/
def State.bar2Read (s : State) (off : Nat) : Word :=
  let fences := (List.range 64).foldl (fun n f => n + (s.fn f).fenced.toNat * 2 ^ f) 0
  if off < 0x10000 then (s.fn (off / 0x400)).rangeWord (off % 0x400 / 4)
  else if off < 0x14000 then (s.fn ((off - 0x10000) / 256)).controlWord (off % 256 / 4)
  else if 0x21000 ≤ off && off < 0x21100 then
    let d := s.die ((off - 0x21000) / 64)
    (if off / 4 % 2 = 0 then d.corr else d.uncorr).getD (off % 64 / 8) 0#32
  else match off with
  | 0x20000 | 0x20004 => s.pack.plreq.getD (off % 16 / 4) 0#32
  | 0x20008 => w32 s.pack.plslot
  | 0x2000C => w32 (s.pack.plbusy.toNat * 2 ^ 31 + s.pack.plreason)
  | 0x20010 => w32 fences
  | 0x20014 => w32 (fences / 2 ^ 32)
  | 0x20020 => s.pack.slotstat
  | _ => 0#32

/-- A write to one of the words of a function's control block that are plain registers (24 R358): PTROOT, table regions, weight-store windows. -/
def Function.control (f : Function) (i : Nat) (w : Word) : Function :=
  match i with
  | 2 => { f with ptroot := halfWritten f.ptroot false (w &&& ~~~0xFFF#32) }
  | 3 => { f with ptroot := halfWritten f.ptroot true w }
  | 8 | 9 | 10 | 11 => { f with tables := f.tables.set (i - 8) (w &&& 0x007F007F#32) }
  | 12 | 13 | 14 | 15 => { f with wsWin := f.wsWin.set (i - 12) (w &&& 0x00003F3F#32) }
  | _ => f

/-- CONFIG_REQUEST (24 R356): retry status until die 0 is released. -/
def execConfigRequest (fn : Nat) (s : State) : Host.Outcome State Fault Refusal :=
  s.happens State.hostLink fun s => s.emit (.config fn s.pack.retry)

/-! ## Functions (15 R285, R307) -/

/-- A new key pair for a function, by its generation (log 12). -/
def State.newKey (s : State) (fn : Nat) : State :=
  let n := s.pack.keySeq + 1
  { s with pack := { s.pack with keySeq := n } }.modFn fn fun f => { f with keyGen := n }

/-- A function that was not enabled is, once the trust die has generated its key pair. -/
def State.enableFunction (s : State) (fn : Nat) : State :=
  if (s.fn fn).enabled then s else (s.newKey fn).modFn fn fun f => { f with enabled := true }

/-- FUNCTION_ENABLE (24 R358). -/
def execFunctionEnable (fn : Nat) (s : State) : Host.Outcome State Fault Refusal := s.happens State.hostUp fun s => s.enableFunction fn

/-- A running function is fenced; then every item of R285 is cleared and the key replaced (15 R304). -/
def State.resetFunction (s : State) (fn : Nat) : State := ((s.fence fn).setFn fn { Function.reset with enabled := (s.fn fn).enabled }).newKey fn

/-- FUNCTION_RESET (24 R358). -/
def execFunctionReset (fn : Nat) (s : State) : Host.Outcome State Fault Refusal := s.happens State.hostUp fun s => s.resetFunction fn

/-- Two windows of a die overlap. -/
def windowsMeet (a b : Word) : Bool :=
  0 < a.bits 6 0 && 0 < b.bits 6 0 && a.bits 22 16 < b.bits 22 16 + b.bits 6 0 && b.bits 22 16 < a.bits 22 16 + a.bits 6 0

/-- A frame window is written; refused where it would overlap another function's window. -/
def State.writeWindow (s : State) (fn die : Nat) (w : Word) : State :=
  if s.fns.any fun e => e.1 != fn && windowsMeet w (e.2.frames.getD die 0#32) then s
  else s.modFn fn fun f => { f with frames := f.frames.set die (w &&& 0x007F007F#32) }

/-- FRAME_WINDOW_WRITE (15 R285). -/
def execFrameWindowWrite (fn die : Nat) (w : Word) (s : State) : Host.Outcome State Fault Refusal :=
  s.happens State.hostUp fun s => s.writeWindow fn die w

/-! ## Range entries (14 R264, R265) -/

/-- A field is set that must be zero: reserved, or not used by the policy. -/
def Range.strayField (r : Range) : Bool :=
  let w := r.w 0
  w.bits 7 6 ≠ 0 || (r.w 1).bits 31 30 ≠ 0 || (r.w 1).bits 23 8 ≠ 0 || (r.w 3).bits 31 25 ≠ 0 || 4 < r.policy
    || 41 < w.bits 5 0 || 18 < w.bits 20 16
    || (r.policy ≠ 0 && w.bits 20 16 ≠ 0) || (r.policy ≠ 1 && r.policy ≠ 2 && w.bits 15 14 ≠ 0)
    || (r.policy ≠ 2 && w.bits 13 8 ≠ 0) || (r.policy ≠ 3 && r.remote ≠ 0)

/-- The table of a loadable slot is accepted and allows a policy. -/
def State.slotAllows (s : State) (slot policy : Nat) : Bool :=
  slot < 5 || ((s.pack.protos.getD (slot - 5) none).isSome && (s.image slot 0).bit (16 + policy))

/-- An entry is refused (14 R265). -/
def State.rangeRefused (s : State) (fn i : Nat) (r : Range) : Bool :=
  r.strayField || r.base % r.size ≠ 0 || (r.policy = 0 && r.size < r.granule)
    || (List.range 64).any (fun j => j != i && (s.range fn j).valid && r.base < (s.range fn j).base + (s.range fn j).size
          && (s.range fn j).base < r.base + r.size)
    || !s.slotAllows r.slot r.policy || (r.slot = 4 && r.policy ≠ 1) || (r.policy = 3 && !s.pack.variant.hasPods)

/-- Every quad cache publishes and drops every line of an address range of a function's space. -/
def State.dropRange (s : State) (fn base size : Nat) : State :=
  let tag := s.tagOf fn base
  let inside (key : Nat) : Bool := key / 2 ^ 50 == tag && base ≤ keyAddr key && keyAddr key < base + size
  let keys := ((s.quads.flatMap fun e => (e.2.lines.map (·.1)).filter inside)
    ++ (s.dies.flatMap fun e => (e.2.dir.map (·.1)).filter inside)).eraseDups
  let s := keys.foldl (fun s k => s.gatherLine fn (keyAddr k)) s
  { s with cores := s.cores.map fun e => (e.1, { e.2 with l1 := e.2.l1.filter fun l => !inside l.key }) }

/-- The token of a range is free, and nobody waits for it (14 R275). -/
def State.clearToken (s : State) (rid : Nat) : State :=
  { s with dies := s.dies.map fun e => (e.1, { e.2 with
      token := Tab.erase e.2.token rid, tokenQ := e.2.tokenQ.filter fun q => q.1 != rid }) }

/-- A range entry is written: with Valid clear it is invalidated, and its token with it; a write over a valid entry is refused and changes
nothing; one that breaks a rule leaves the entry invalid. Words 1 to 3 are kept as written (24 R358). -/
def State.writeRange (s : State) (fn i : Nat) (ws : List Word) : State :=
  let old := s.range fn i
  let r : Range := { valid := (ws.getD 0 0#32).bit 31, words := (List.range 4).map fun j => ws.getD j 0#32 }
  let put (s : State) (r : Range) : State := s.modFn fn fun f => { f with ranges := f.ranges.set i r }
  let s := s.modFn fn fun f => { f with stage := (List.range 3).foldl (fun m j => Tab.set 0#32 m (4 * i + 1 + j) (ws.getD (1 + j) 0#32)) f.stage }
  if !r.valid then
    let s := if old.valid then s.dropRange fn old.base old.size else s
    (put s r).clearToken (fn * 64 + i)
  else if old.valid then s
  else if s.rangeRefused fn i r then put s Range.empty
  else (put s r).clearToken (fn * 64 + i)

/-- RANGE_ENTRY_WRITE (14 R264, R265). -/
def execRangeEntryWrite (fn i : Nat) (ws : List Word) (s : State) : Host.Outcome State Fault Refusal :=
  s.happens (fun s => s.hostUp && decide (i < 64)) fun s => s.writeRange fn i ws

/-! ## Protocol images (14 R276, R277) -/

/-- A write of PLREQ word 2 starts a load of the image at the address that stands in words 0 and 1; ignored while one runs, which a later write of
those words does not reach. -/
def State.loadProtocol (s : State) (w : Word) : State :=
  if s.pack.plbusy then s
  else { s with pack := { s.pack with
    plreq := s.pack.plreq.set 2 w, plbusy := true, plslot := w.bits 2 0,
    pladdr := (s.pack.plreq.getD 0 0#32).toNat + (s.pack.plreq.getD 1 0#32).toNat * 2 ^ 32 } }

/-- PROTOCOL_LOAD (14 R276, 24 R358). -/
def execProtocolLoad (w : Word) (s : State) : Host.Outcome State Fault Refusal := s.happens State.hostUp fun s => s.loadProtocol w

/-! ## Writes by offset (24 R357, R358) -/

/-- A write to a word of a function's control block (24 R358): word 0 resets and enables or disables the function, words 4 to 7 are its frame
windows. -/
def State.controlWrite (s : State) (fn i : Nat) (w : Word) : State :=
  if i = 0 then
    let s := if w.bit 30 then s.resetFunction fn else s
    if w.bit 31 then s.enableFunction fn else s.modFn fn fun f => { f with enabled := false }
  else if 4 ≤ i && i < 8 then s.writeWindow fn (i - 4) w
  else s.modFn fn fun f => f.control i w

/-- A write into BAR2 (24 R358): a write to word 0 of a range entry writes the entry with the words 1 to 3 that were written before. Error counters
are cleared by writing 0. -/
def State.bar2Write (s : State) (off : Nat) (w : Word) : State :=
  if off < 0x10000 then
    let fn := off / 0x400
    let i := off % 0x400 / 4
    if i % 4 ≠ 0 then s.modFn fn fun f => { f with stage := Tab.set 0#32 f.stage i w }
    else s.writeRange fn (i / 4) (w :: (List.range 3).map fun j => Tab.get 0#32 (s.fn fn).stage (i + 1 + j))
  else if off < 0x14000 then s.controlWrite ((off - 0x10000) / 256) (off % 256 / 4) w
  else if off = 0x20008 then s.loadProtocol w
  else if off = 0x20000 || off = 0x20004 then
    { s with pack := { s.pack with plreq := s.pack.plreq.set (off % 16 / 4) w } }
  else if 0x21000 ≤ off && off < 0x21100 && w = 0#32 then
    let i := off % 64 / 4
    s.modDie ((off - 0x21000) / 64) fun d =>
      if i % 2 = 0 then { d with corr := d.corr.set (i / 2) 0#32 } else { d with uncorr := d.uncorr.set (i / 2) 0#32 }
  else s

/-- A write of firmware to what the rules let it set and give no register: for each core the watchdog period (16 R325; log 67), then for each
slot of the slot table the packages that its launches are joined with, two words of 32 (06 R125; log 66). -/
def State.firmwareWrite (s : State) (i : Nat) (w : Word) : State :=
  if i < 256 then s.modCore i fun c => { c with watchdog := w.toNat }
  else if i < 256 + 2048 then { s with pack := { s.pack with joins := Tab.set 0#32 s.pack.joins (i - 256) w } }
  else s

/-- REGISTER_WRITE: offsets below 2^20 are those of the function's BAR0, those from 2^20 on those of the physical function's BAR2; words
from 2^21 on are firmware's own (DESIGN CHOICE of form; log 38). -/
def execRegisterWrite (fn off : Nat) (w : Word) (s : State) : Host.Outcome State Fault Refusal :=
  if off < 2 ^ 20 then s.fnWrite fn fun s => s.bar0Write fn off w
  else if off < 2 ^ 21 then s.happens (fun s => s.hostUp && fn == 0) fun s => s.bar2Write (off - 2 ^ 20) w
  else s.happens (fun _ => fn == 0) fun s => s.firmwareWrite ((off - 2 ^ 21) / 4) w

/-- The image's words, as it stands in the physical function's space. -/
def State.loadImage (s : State) : List Word :=
  s.sysWords 0 s.pack.pladdr 400

/-- A valid range entry of some function names a slot. -/
def State.slotInUse (s : State) (slot : Nat) : Bool := s.fns.any fun e => e.2.ranges.any fun r => r.valid && r.slot == slot

/-- PROTOCOL_VERIFY_DONE: the code of the first check that fails, or the table is installed and measured. Slots 0 to 4 cannot
be loaded. -/
def execProtocolVerifyDone (s : State) : Host.Outcome State Fault Refusal :=
  s.happens (fun s => s.pack.plbusy) fun s =>
    let slot := s.pack.plslot
    let ws := s.loadImage
    let code := verifyCode ws (slot < 5 || s.slotInUse slot)
    let p := { s.pack with plbusy := false, plreason := code }
    if code ≠ 0 then { s with pack := p }
    else { s with pack := { p with protos := p.protos.set (slot - 5) (some ws),
                                   measures := p.measures.set (slot + 2) (Config.sm3 (ws.flatMap bytesOf)) } }

/-! ## The host's reads and writes of device memory (14 R363) -/

/-- The lines of a span. -/
def hostLines (a n : Nat) : List Nat := (List.range ((a % 128 + n + 127) / 128)).map fun i => a / 128 * 128 + 128 * i

/-- The host's requests as requester. -/
def State.hostWho (s : State) (fn addr : Nat) : Requester :=
  { pkg := s.pack.pkg, die := s.homeOf fn addr, core := 0, slot := 0, origin := 6, tag := 0 }

/-- Nothing is under way for the line of an address. -/
def State.lineSettled (s : State) (fn a : Nat) : Bool :=
  let key := s.dirKey fn (s.keyOf fn a)
  let d := s.dirOf (s.homeOf fn a) key
  d.pend.isNone && d.walk.isNone && d.queue.isEmpty && d.ask = 0 && d.answer.isNone
    && s.grants.all (fun g => g.key != key)
    && (s.slotOf fn a ≠ 4 || (s.tokenOf (s.rangeId fn a)).1 ≠ 10)

/-- A host request may be served: its pages may be asked for, and its lines are settled. -/
def State.hostMay (s : State) (fn a n access : Nat) : Bool :=
  0 < n && s.mayAskAll fn access (s.homeOf fn a) a n
    && (hostLines a n).all fun x => s.lineSettled fn x && (s.isUncached fn x || s.turnMay fn (s.dirKey fn (s.keyOf fn x)) 65)

/-- A host read of one line at its home: the table's entry for GETS, whose answer is not cached; the host is never linked. A
line that is left without a copy and without an owner is in its first state. -/
def State.hostGets (s : State) (fn a : Nat) : State :=
  if s.slotOf fn a = 3 || s.isUncached fn a then s
  else
    let key := s.dirKey fn (s.keyOf fn a)
    let die := s.homeOf fn a
    let s := (s.atHome die key { s.quadReq 0 fn 65 [] with addr := a }).settleLine key key lineMessages
    s.modDir die key fun d => if d.head.isNone && d.owner.isNone && d.pend.isNone then { d with state := 0 } else d

/-- A request of the host joins those that wait at their homes (14 R280, R363): none is refused for contention. -/
def State.hostAsk (s : State) (q : HostReq) : State := { s with pack := { s.pack with hostQ := s.pack.hostQ ++ [q] } }

/-- HOST_READ (14 R363). -/
def execHostRead (fn addr n : Nat) (s : State) : Host.Outcome State Fault Refusal :=
  s.happens (fun s => s.hostUp && decide (0 < n)) fun s => s.hostAsk { fn := fn, addr := addr, n := n, bytes := none }

/-- The path of a home write (14 R268, R363): an owner is recalled, copies are invalidated, and the line is left in its first state; `who`
makes the request (R280). -/
def State.clearCopies (s : State) (fn key who : Nat) : State :=
  let die := s.homeOf fn (keyAddr key)
  let s := s.takeTurn die key who
  let s := match (s.dirOf die key).owner with
    | some o =>
      let s := s.surrender key die o false
      s.homeWriteMapped fn 8 ((s.dirOf die key).answer.getD []) false
    | none => s
  (s.group fn key).foldl (fun s k => s.dropCopies k) s

/-- A home write of one line of the host's (14 R363): copies are invalidated, an owner recalled, the holder of a token
drained, and the line is left in its first state; under WON it is written, or discarded where it is sealed. -/
def State.hostPut (s : State) (fn : Nat) (cells : List Host.Cell) (a : Nat) : State :=
  let key := s.dirKey fn (s.keyOf fn a)
  let die := s.homeOf fn a
  let cells := cells.filter fun c => c.1 / 128 == a / 128
  if s.isUncached fn a then s.homeWrite fn cells
  else if s.slotOf fn a = 3 then
    let s := s.takeTurn die key 65
    if (s.dirOf die key).state = 2 then s.fnError fn
    else (s.homeWrite fn cells).modDir die key fun d => { d with state := 1 }
  else
    let rid := s.rangeId fn a
    let s := if s.writePath (s.slotOf fn a) = 2 && (s.tokenOf rid).1 ≠ 8 then
        let q := (s.tokenOf rid).2
        ((s.localInRange q rid).foldl (fun s k => s.publishNow q k) s).setToken rid (8, 64)
      else s
    (s.clearCopies fn key 65).homeWrite fn cells

/-! ## What caches give up of themselves (14 R268, R280; 15 R293, R362) -/

/-- A line that a quad-cache atomic, a recall's answer or a token drain is working on. -/
def State.lineBusy (s : State) (quad key : Nat) : Bool :=
  let x := s.qline quad key
  let dkey := s.dirKey x.fn key
  let d := s.dirOf (s.homeOf x.fn (keyAddr key)) dkey
  let t := s.tokenOf (s.rangeId x.fn (keyAddr key))
  (s.atomNeeds quad).any (fun n => s.keyOf n.fn n.addr == key && s.lineIdle quad n.fn key == false)
    || (d.owner = some quad && (d.ask ≠ 0 || d.answer.isSome))
    || (s.writePath (s.slotOf x.fn (keyAddr key)) = 2 && t.1 = 10 && t.2 = quad && x.lmask ≠ 0#128)

/-- What a cache may give up: a line at a home, a line of a quad cache, data or code of an L1, a cached leaf of a die, a write grant of
a quad. -/
inductive Spare where
  | line (fn key : Nat)
  | held (quad key : Nat)
  | data (core key : Nat)
  | code (core key : Nat)
  | leaf (die : Nat) (l : Leaf)
  | grant (quad : Nat) (g : Nat × Nat)
deriving DecidableEq, Repr

/-- Those of the lowest rank. -/
def firstOut (xs : List (Nat × Spare)) : List Spare :=
  let low := xs.foldl (fun m x => min m x.1) 3
  (xs.filter fun x => x.1 == low).map (·.2)

/-- The lines that may leave a die's home cache, by the function of a quad that holds a copy: nothing is under way for them, and their table has a
path for a home write, which WON has not. -/
def State.homeSpares (s : State) (die : Nat) : List Spare :=
  (s.die die).dir.filterMap fun d =>
    match (match d.2.owner with
      | some o => some o
      | none => d.2.head) with
    | none => none
    | some q =>
      let fn := (s.qline q d.1).fn
      if d.2.state ≠ 0 && s.slotOf fn (keyAddr d.1) ≠ 3 && s.lineSettled fn (keyAddr d.1) && s.turnMay fn d.1 64 then some (.line fn d.1)
      else none

/-- A code line lies in the body of a loop that a split of the core has open: the loop runs from its buffer (01 R9; 20 R341), and the line stays. -/
def State.loopLine (s : State) (core key : Nat) : Bool :=
  (s.coreThreads core).any fun t => (s.thread t).splits.any fun sp => sp.live && sp.loops.any fun l =>
    s.codeKey t l.body ≤ key && key ≤ s.codeKey t l.lback

/-- What a core's L1 may give up first. -/
def State.l1Spares (s : State) (core : Nat) : List Spare :=
  firstOut ((s.core core).l1.map (fun l => (hintRank l.hint, Spare.data core l.key))
    ++ ((s.core core).icode.filter fun l => !s.loopLine core l.1).map fun l => (hintRank .normal, Spare.code core l.1))

/-- The lines that a quad cache may give up first; one under way stays. -/
def State.quadSpares (s : State) (quad : Nat) : List Spare :=
  firstOut (((s.quad quad).lines.filter fun l => l.2.full && l.2.want = 0 && !s.lineBusy quad l.1 && s.lineSettled l.2.fn (keyAddr l.1)).map
    fun l => (hintRank l.2.hint, Spare.held quad l.1))

/-- A cache with a size of its own. -/
inductive Cache where
  | l1 (core : Nat)
  | quad (quad : Nat)
  | home (die : Nat)
deriving DecidableEq, Repr

/-- The caches that hold something. -/
def State.caches (s : State) : List Cache :=
  s.cores.map (fun e => .l1 e.1) ++ s.quads.map (fun e => .quad e.1) ++ s.dies.map fun e => .home e.1

/-- By how many lines a cache holds more than its share (00 R5, 02 R28): an L1 of SPLIT.l1 units of 64 KiB, a quad cache of 2 MiB, a home cache of
32 MiB for a die. -/
def State.excess (s : State) : Cache → Nat
  | .l1 core => (s.core core).l1.length + (s.core core).icode.length - (s.core core).split.bits 15 12 * 512
  | .quad quad => ((s.quad quad).lines.filter fun l => l.2.full).length - 16384
  | .home die => ((s.die die).dir.filter fun d => d.2.head.isSome || d.2.owner.isSome).length - 262144

/-- What a cache may give up first. -/
def State.cacheSpares (s : State) : Cache → List Spare
  | .l1 core => s.l1Spares core
  | .quad quad => s.quadSpares quad
  | .home die => s.homeSpares die

/-- One of them is given up: a line by its table's path for a home write, by requester 64. -/
def State.giveUp (s : State) : Spare → State
  | .line fn key => s.clearCopies fn key 64
  | .held quad key => s.purgeLine quad key
  | .data core key => s.dropL1 core key
  | .code core key => s.modCore core fun c => { c with icode := Tab.erase c.icode key }
  | .leaf die l => s.modDie die fun d => { d with leaves := d.leaves.erase l }
  | .grant quad g => s.modQuad quad fun q => { q with grants := q.grants.erase g }

/-- A cache gives one of its first candidates up, and which is free; one that may give nothing up keeps what it has. -/
def State.giveOne (s : State) (c : Cache) : State :=
  let xs := s.cacheSpares c
  match xs[Config.choice s.draws % xs.length]? with
  | some x => s.drawn.giveUp x
  | none => s

/-- A cache that holds more than its share gives lines up until it does not. -/
def State.trim (s : State) (c : Cache) : State := (List.range (s.excess c)).foldl (fun s _ => s.giveOne c) s

/-- What else caches may give up at any time: a line of a home or of an L1, a cached leaf, a write grant; a quad cache's own evictions are the
events PUTS, PUTM and PUB. -/
def State.spares (s : State) : List Spare :=
  s.dies.flatMap (fun e => s.homeSpares e.1) ++ s.cores.flatMap (fun e => s.l1Spares e.1)
    ++ s.dies.flatMap (fun e => e.2.leaves.map (Spare.leaf e.1)) ++ s.quads.flatMap fun e => e.2.grants.map (Spare.grant e.1)

/-- At the end of a cycle every cache holds no more than its share, and some cache may give something more up (log 70). -/
def State.evictSome (s : State) : State :=
  let s := s.caches.foldl (fun s c => s.trim c) s
  let xs := s.spares
  if xs.isEmpty then s
  else match xs[Config.choice s.draws % (xs.length + 1)]? with
    | some x => s.drawn.giveUp x
    | none => s.drawn

/-- The oldest request of a function of the host's. -/
def State.hostNext (s : State) (fn : Nat) : Option HostReq := s.pack.hostQ.find? fun q => q.fn == fn

/-- A request's kind of access and its length. -/
def HostReq.access (q : HostReq) : Nat := if q.bytes.isNone then 0 else 1
def HostReq.length (q : HostReq) : Nat := (q.bytes.map (·.length)).getD q.n

/-- The oldest request of a function of the host's may be served now. -/
def State.hostServeMay (s : State) (fn : Nat) : Bool := (s.hostNext fn).any fun q => s.hostMay q.fn q.addr q.length q.access

/-- A request of the host's is served at its home (14 R363): translated, then coherent, each line by the table; a read is answered with the bytes at
system scope. One that waits for a page stands on; one that is refused is over. -/
def execHostServe (fn : Nat) (s : State) : Host.Outcome State Fault Refusal :=
  s.happens (fun s => s.hostServeMay fn) fun s =>
    match s.hostNext fn with
    | none => s
    | some q =>
      let gone (s : State) : State := { s with pack := { s.pack with hostQ := s.pack.hostQ.erase q } }
      match s.askAll fn q.access (s.hostWho fn q.addr) (pageStarts q.addr q.length), q.bytes with
      | (s, none), none =>
        let s := (hostLines q.addr q.n).foldl (fun s a => s.hostGets fn a) s
        (gone s).emit (.hostData (s.sysBytes fn q.addr q.n))
      | (s, none), some bs => gone ((hostLines q.addr bs.length).foldl (fun s a => s.hostPut fn (cellsAt q.addr bs) a) s)
      | (s, some none), _ => s
      | (s, some (some _)), _ => gone s

/-- HOST_WRITE (14 R363). -/
def execHostWrite (fn addr : Nat) (bytes : List Byte) (s : State) : Host.Outcome State Fault Refusal :=
  s.happens (fun s => s.hostUp && decide (0 < bytes.length)) fun s =>
    s.hostAsk { fn := fn, addr := addr, n := bytes.length, bytes := some bytes }

/-! ## Quad caches: gating, sleep, loss (14 R282 to R284) -/

/-- WAY_GATE (14 R282): each line of the way, which firmware's request names, is published, written back or unlinked and
dropped; a locked one is refused. -/
def execWayGate (quad : Nat) (keys : List Nat) (s : State) : Host.Outcome State Fault Refusal :=
  s.happens (fun _ => true) fun s =>
    let held (s : State) (k : Nat) : Bool := (s.qline quad k).state ≠ 0 || (s.qline quad k).lmask ≠ 0#128
    let denied := keys.filter fun k => held s k && s.lineBusy quad k
    let s := keys.foldl (fun s k =>
      let x := s.qline quad k
      if denied.contains k then s.emit (.gateDenied quad k)
      else if held s k then (s.purgeLine quad k).poisonHome x.fn k x.poison else s) s
    if denied.isEmpty then s.modQuad quad fun q => { q with gated := q.gated + 1 } else s

/-- A quad cache may sleep: nothing is under way for its lines. -/
def State.maySleep (s : State) (quad : Nat) : Bool :=
  !(s.quad quad).asleep && !(s.quad quad).lost && (s.quad quad).lines.all fun x => !s.lineBusy quad x.1

/-- QUAD_CACHE_SLEEP (14 R283): local bytes are published and owned lines written back; shared lines stay linked. -/
def execQuadCacheSleep (quad : Nat) (s : State) : Host.Outcome State Fault Refusal :=
  s.happens (fun s => s.maySleep quad) fun s =>
    let s := (s.quad quad).lines.foldl (fun s x => s.publishNow quad x.1) s
    let s := (s.quad quad).lines.foldl (fun s x => if (s.qline quad x.1).state = 2 then s.purgeLine quad x.1 else s) s
    s.modQuad quad fun q => { q with asleep := true }

/-- The directories without a quad (14 R284): spliced out of every list; where it was the owner, the line is poisoned and in its
first state, in which the requests that waited are taken; a line with a request of its own under way is gathered at the home. -/
def State.spliceOut (s : State) (quad : Nat) : State :=
  s.dies.foldl (fun s e => e.2.dir.foldl (fun s d =>
    let key := d.1
    let x := s.qline quad key
    let own := match d.2.pend with
      | some r => if r.who = quad && d.2.owner ≠ some quad then some r.fn else none
      | none => none
    let s := match own with
      | some fn => (s.group fn key).foldl (fun (s : State) k => s.gatherLine fn (keyAddr k)) s
      | none => s
    let s := if (s.dirOf e.1 key).head = some quad || x.bwd ≠ 64 then s.unlink e.1 key quad else s
    let s := s.modDir e.1 key fun d => { d with
      queue := d.queue.filter fun r => r.who != quad,
      walk := d.walk.map fun (w : Walk) => if w.at_ = quad then { w with at_ := x.fwd, done := x.fwd == 64 } else w }
    if (s.dirOf e.1 key).owner = some quad then
      let s := (s.group x.fn key).foldl (fun s k => s.poisonHome x.fn k 15#4) s
      let waits : List Req := (s.dirOf e.1 key).pend.toList.filter fun r => r.who != quad
      let queue := (s.dirOf e.1 key).queue
      let s := s.modDir e.1 key fun d =>
        { d with state := 0, owner := none, ask := 0, answer := none, pend := none, pendDone := false, queue := [] }
      (waits ++ queue).foldl (fun (s : State) r => s.atHome e.1 key r) s
    else s) s) s

/-- QUAD_CACHE_LOSS (14 R284): every line of the cache is invalid, and the homes splice it out. -/
def execQuadCacheLoss (quad : Nat) (s : State) : Host.Outcome State Fault Refusal :=
  s.happens (fun s => !(s.quad quad).lost) fun s =>
    let s := s.spliceOut quad
    let s := (s.quad quad).lines.foldl (fun s x => if x.2.lmask = 0#128 then s else s.linePublished quad x.1) s
    { s with grants := s.grants.filter fun g => g.quad != quad }.modQuad quad fun q =>
      { q with lines := [], grants := [], grantWant := [], asleep := false, lost := true }

end Sys2Proof.Machine
end

