-- ==== Sys2Proof/Machine/Launch.lean ====
section
/-! DEFINITION. From launch to issue (05 R91 to R111): doorbells, fetching and waiting of launches, bind records, placement,
completion records, band power and thermal emergencies. -/

namespace Sys2Proof.Machine

/-! ## Waits (05 R93) -/

/-- The dispatch hardware as requester (15 R301). -/
def State.dispatchWho (s : State) : Requester :=
  { pkg := s.pack.pkg, die := 0, core := 0, slot := 0, origin := 5, tag := 0 }

/-- A launch ends before any block of it starts (05 R104). -/
def State.failLaunch (s : State) (lid status detail : Nat) : State :=
  s.modLaunch lid fun l => { l with status := some status, detail := detail, firstCycle := none, lastCycle := s.clk }

/-- Reads the word of an unsatisfied wait at system scope. A satisfying read acts as an ACQ.sy: the blocks see what each die's
invalidation log holds by then. -/
def State.rereadWait (s : State) (lid i : Nat) : State :=
  let l := s.launch lid
  match l.waits[i]? with
  | none => s
  | some w =>
    if w.done || l.status.isSome then s
    else
      let note (s : State) (done : Bool) : State := s.modLaunch lid fun l =>
        { l with waits := l.waits.set i { w with done := done, readAt := s.clk, owed := false },
                 upto := if done then (List.range 4).map fun d => (s.die d).logEnd else l.upto }
      match s.ask l.fn w.addr 6 s.dispatchWho with
      | (s, .go _) => note (s.farRead l.fn w.addr 4) (w.threshold.toNat ≤ (s.sysWord l.fn w.addr).toNat)
      | (s, .waits) => note s false
      | (s, .fails _) => s.failLaunch lid 6 0

/-- Reads every unsatisfied wait of a launch. -/
def State.rereadWaits (s : State) (lid : Nat) : State :=
  (List.range (s.launch lid).waits.length).foldl (fun s i => s.rereadWait lid i) s

/-- A re-read would come to something. -/
def State.rereadMay (s : State) (lid i : Nat) : Bool :=
  let l := s.launch lid
  l.status.isNone && (l.waits[i]?).any fun w =>
    !w.done && s.mayAsk l.fn w.addr 0
      && match s.translate l.fn w.addr 6 with
        | .ok _ => w.threshold.toNat ≤ (s.sysWord l.fn w.addr).toNat
        | _ => true

/-- A re-read that the part owes now: a completion record has been posted, or 65,536 cycles have passed, since the last (05 R93). -/
def State.rereadDue (s : State) (lid i : Nat) : Bool :=
  let l := s.launch lid
  l.status.isNone && (l.waits[i]?).any fun w => !w.done && (w.owed || w.readAt + 65536 ≤ s.clk)

/-- WAIT_REREAD (05 R93). -/
def execWaitReread (lid i : Nat) (s : State) : Host.Outcome State Fault Refusal :=
  s.happens (fun _ => true) fun s => s.rereadWait lid i

/-! ## Doorbells (05 R91) -/

/-- The launches of a queue, oldest first. -/
def State.queueLaunches (s : State) (fn q : Nat) : List Nat :=
  (s.launches.filter fun e => e.2.fn == fn && e.2.queue == q).map (·.1)

/-- A queue stops with a reason (24 R357). -/
def State.stopQueue (s : State) (fn q reason : Nat) : State :=
  s.modQueue fn q fun x => { x with stopped := true, reason := reason }

/-- What a doorbell write does to its queue (05 R91): the new write index is taken where it is not behind the last one and at most
2^k beyond the read index; else the queue stops. A stopped queue takes none, nor does one of a function that is not enabled (24 R358). -/
def State.ringDoorbell (s : State) (fn q : Nat) (v : Word) : State :=
  let x := s.queue fn q
  let p := (x.doorbell - x.read).toNat
  let d := (v - x.read).toNat
  if !(s.fn fn).enabled then s
  else if !x.enabled then s.stopQueue fn q 3
  else if x.stopped then s
  else if d < p then s.stopQueue fn q 1
  else if 2 ^ x.k < d then s.stopQueue fn q 2
  else s.modQueue fn q fun x => { x with doorbell := v }

/-- DOORBELL (05 R91, R93): whatever becomes of the write, unsatisfied waits of the queue's launches are read again. -/
def execDoorbell (fn q : Nat) (v : Word) (s : State) : Host.Outcome State Fault Refusal :=
  s.fnWrite fn fun s => (s.queueLaunches fn q).foldl (fun s l => s.rereadWaits l) (s.ringDoorbell fn q v)

/-! ## Packets (05 R92, 04 R83) -/

/-- The checks of a packet, by word. -/
def packetChecks (ws : List Word) : List (Nat × Bool) :=
  let w (i : Nat) : Word := ws.getD i 0#32
  let grouped := (w 0).bit 11 || (w 0).bit 12
  let g := (w 1).bits 23 16
  [(0, (w 0).bits 31 16 ≠ 0 || (w 0).bits 7 0 ≠ 1),
   (1, (w 1).bits 31 27 ≠ 0 || 4 < (w 1).bits 26 24 || (grouped && (g = 0 || 16 < g)) || (w 1).bits 15 6 ≠ 0
      || (w 1).bits 5 0 = 0 || 32 < (w 1).bits 5 0),
   (2, (w 2).bits 6 0 ≠ 0), (3, (w 3).bits 31 25 ≠ 0), (4, (w 4).bits 6 0 ≠ 8), (5, w 5 = 0#32),
   (7, 64 < (w 7).bits 31 24 || 128 < (w 7).bits 23 16 || (w 7).bits 15 2 ≠ 0), (8, (w 8).bits 5 0 ≠ 0),
   (10, (w 7).bits 31 24 ≠ 0 && (w 10).bits 4 0 ≠ 0), (14, (w 14).bits 4 0 ≠ 0)]
    ++ (List.range (min 4 ((w 1).bits 26 24))).flatMap fun i =>
      [(16 + 4 * i, decide ((w (16 + 4 * i)).bits 1 0 ≠ 0)), (19 + 4 * i, decide (w (19 + 4 * i) ≠ 0#32))]

/-- The index of the first bad word of a packet. -/
def packetBad (ws : List Word) : Option Nat := ((packetChecks ws).find? (·.2)).map (·.1)

/-- A task-table entry breaks R83: a reserved field, the number of waits or D, the cases for which the rule fails the launch. For an
entry address other than word 2 of a line the rule gives no fate: the task is kept, and its first bundle runs where it is a marked
target and else takes trap 0x04 (DESIGN CHOICE; log 63). -/
def taskBad (ws : List Word) : Bool :=
  let w (i : Nat) : Word := ws.getD i 0#32
  (w 1).bits 30 27 ≠ 0 || 4 < (w 1).bits 26 24 || (w 1).bits 23 0 = 0
    || (List.range 4).any (fun i => (w (2 + i)).bits 30 21 ≠ 0) || w 6 ≠ 0#32 || w 7 ≠ 0#32

/-- A task-table entry. -/
def taskOf (ws : List Word) : Task :=
  let w (i : Nat) : Word := ws.getD i 0#32
  { entry := w 0, armed := (w 1).bit 31, cycles := (w 1).bits 23 0,
    waits := (List.range ((w 1).bits 26 24)).map fun i =>
      { consume := (w (2 + i)).bit 31, sem := (w (2 + i)).bits 20 16, threshold := (w (2 + i)).bits 15 0 } }

/-- The waits of a packet. -/
def waitsOf (ws : List Word) : List LaunchWait :=
  (List.range ((ws.getD 1 0#32).bits 26 24)).map fun i =>
    { addr := (ws.getD (16 + 4 * i) 0#32).toNat + (ws.getD (17 + 4 * i) 0#32).toNat * 2 ^ 32,
      threshold := ws.getD (18 + 4 * i) 0#32, done := false, readAt := 0, owed := false }

/-! ## Fetching (05 R103) -/

/-- The queue has a packet to fetch. -/
def State.mayFetch (s : State) (fn q : Nat) : Bool :=
  let x := s.queue fn q
  x.enabled && !x.stopped && !(s.fn fn).fenced && (x.fetched - x.read).toNat < (x.doorbell - x.read).toNat

/-- The address of the packet that a queue fetches next. -/
def Queue.packetAddr (x : Queue) : Nat := x.base + x.fetched.toNat % 2 ^ x.k * 128

/-- The end of a launch's reads: none where they wait for a page; else its packet, arguments, tasks and status. -/
abbrev Fetched := Option (List Word × List Word × List Task × Option (Nat × Nat))

/-- Reads what follows a sound packet: arguments, task table, entry line. -/
def State.fetchRest (s : State) (fn : Nat) (ws : List Word) : State × Fetched :=
  let l : Launch := { Launch.empty with packet := ws }
  let n := l.taskCount
  let tasks := if n = 0 then [] else pageStarts l.taskAddr (32 * n)
  match s.askAll fn 6 s.dispatchWho (l.argAddr :: tasks) with
  | (s, some none) => (s, none)
  | (s, some (some _)) => (s, some (ws, [], [], some (6, 0)))
  | (s, none) =>
    match s.ask fn (l.codeBase + (l.w 4).toNat / 128 * 128) 3 s.dispatchWho with
    | (s, .waits) => (s, none)
    | (s, .fails _) => (s, some (ws, [], [], some (6, 0)))
    | (s, .go _) =>
      let s := if n = 0 then s else s.farRead fn l.taskAddr (32 * n)
      let s := (s.farRead fn l.argAddr 64).farRead fn (l.codeBase + (l.w 4).toNat / 128 * 128) 128
      let rows := (List.range n).map fun i => s.sysWords fn (l.taskAddr + 32 * i) 8
      let status := if rows.any taskBad then some (2, 0)
        else if l.wstage && !s.pack.variant.hasStore then some (4, 0)
        else if l.grouped && l.grid % l.groupSize ≠ 0 then some (5, 0) else none
      (s, some (ws, s.sysWords fn l.argAddr 16, rows.map taskOf, status))

/-- Reads a launch's packet, and what it names. -/
def State.fetchLaunch (s : State) (fn q : Nat) : State × Fetched :=
  let at_ := (s.queue fn q).packetAddr
  match s.ask fn at_ 6 s.dispatchWho with
  | (s, .waits) => (s, none)
  | (s, .fails _) => (s, some ([], [], [], some (6, 0)))
  | (s, .go _) =>
    let s := s.farRead fn at_ 128
    let ws := s.sysWords fn at_ 32
    match packetBad ws with
    | some i => (s, some (ws, [], [], some (1, i)))
    | none => s.fetchRest fn ws

/-- The addresses that a launch's fetch would ask for first: the next one that is not at hand. -/
def State.fetchNext (s : State) (fn q : Nat) : List (Nat × Nat) :=
  let at_ := (s.queue fn q).packetAddr
  let l : Launch := { Launch.empty with packet := s.sysWords fn at_ 32 }
  (at_, 6) :: (l.argAddr, 6) :: (if l.taskCount = 0 then [] else (pageStarts l.taskAddr (32 * l.taskCount)).map fun a => (a, 6))
    ++ [(l.codeBase + (l.w 4).toNat / 128 * 128, 3)]

/-- The fetch would come to something new. -/
def State.arriveMay (s : State) (fn q : Nat) : Bool :=
  s.mayFetch fn q && match (s.fetchNext fn q).find? fun a => !s.ready fn a.1 a.2 with
    | some a => s.mayAsk fn a.1 0
    | none => true

/-! ## Bind records (05 R94, R95) -/

def Bind.w (b : Bind) (i : Nat) : Word := b.words.getD i 0#32
def Bind.level (b : Bind) : Nat := (b.w 0).bits 29 28
def Bind.fn (b : Bind) : Nat := (b.w 0).bits 27 22
def Bind.queue (b : Bind) : Nat := (b.w 0).bits 11 0
def Bind.weight (b : Bind) : Nat := (b.w 1).bits 31 16
def Bind.config (b : Bind) : Word := b.w 1 &&& 0xFFF#32
def Bind.power (b : Bind) : Nat := (b.w 2).bits 1 0

/-- A core of the core set, numbered die x 64 + core. -/
def Bind.hasCore (b : Bind) (c : Nat) : Bool := (b.w (4 + c / 32)).bit (c % 32)

/-- Registers per thread, scratchpad bytes and warps of a split configuration (02 R27, R28). -/
def configRpt (w : Word) : Nat := w.bits 5 4
def configScratch (w : Word) : Nat := w.bits 11 8 * 65536
def configWarps (w : Word) : Nat := min 32 ((32 + 16 * w.bits 1 0) / (w.bits 5 4 + 1))

/-- A split configuration is legal (02 R28). -/
def configLegal (w : Word) : Bool := w.bits 1 0 ≠ 3 && 2 ≤ w.bits 11 8 && w.bits 11 8 ≤ 8 && w.bits 1 0 + w.bits 11 8 + 2 ≤ 11

/-- The SPLIT register of a configuration (02 R27). -/
def splitWord (w : Word) : Word :=
  w32 (configWarps w * 2 ^ 16 + (10 - w.bits 1 0 - w.bits 11 8) * 2 ^ 12 + w.bits 11 0)

/-- The slot of the valid record that names a queue. -/
def State.boundSlot (s : State) (fn q : Nat) : Option Nat :=
  (s.binds.find? fun e => e.2.valid && e.2.fn == fn && e.2.queue == q).map (·.1)

/-- The other packages with which firmware joins the launches of a queue into a pod domain (06 R125; log 66). -/
def State.joinedWith (s : State) (fn q : Nat) : List Nat :=
  match s.boundSlot fn q with
  | some slot => (List.range 64).filter fun p =>
      p ≠ s.pack.pkg && s.pack.variant.hasPods && Word.bit (Tab.get 0#32 s.pack.joins (2 * slot + p / 32)) (p % 32)
  | none => []

/-- LAUNCH_ARRIVAL (05 R103): the next packet of a queue is fetched with its arguments, tasks and entry line, and its waits are
read; a launch that cannot run gets its status. It is joined into the pod domain that firmware has set for its queue's slot. -/
def execLaunchArrival (fn q : Nat) (s : State) : Host.Outcome State Fault Refusal :=
  s.happens (fun s => s.mayFetch fn q) fun s =>
    match s.fetchLaunch fn q with
    | (s, none) => s
    | (s, some (ws, args, tasks, status)) =>
      let lid := s.nextLid
      let l : Launch := { Launch.empty with
        fn := fn, queue := q, index := (s.queue fn q).fetched, packet := ws, args := args, tasks := tasks, waits := waitsOf ws,
        status := status.map (·.1), detail := (status.map (·.2)).getD 0, posted := false,
        joined := s.joinedWith fn q }
      let s := { s with nextLid := lid + 1 }.setLaunch lid l
      (s.modQueue fn q fun x => { x with fetched := x.fetched + 1#32 }).rereadWaits lid

/-- The reason for which a record is refused (05 R95), 0 for none. -/
def State.bindReason (s : State) (slot : Nat) (b : Bind) : Nat :=
  let w := b.w
  if !configLegal b.config then 1
  else if b.weight = 0 || b.power = 3 then 2
  else if (List.range 8).all fun i => w (4 + i) = 0#32 then 3
  else if (w 0).bit 30 || (w 0).bits 21 12 ≠ 0 || (w 1).bits 15 12 ≠ 0 || (w 1).bits 7 6 ≠ 0 || (w 1).bits 3 2 ≠ 0
      || (w 2).bits 31 2 ≠ 0 || w 3 ≠ 0#32 || (List.range 4).any (fun i => w (12 + i) ≠ 0#32) then 4
  else if s.binds.any fun e => e.1 != slot && e.2.valid && e.2.fn == b.fn && e.2.queue == b.queue then 5
  else 0

/-- BIND_RECORD_WRITE (05 R95): SLOTSTAT tells the outcome; a slot starts anew in the dispatchers' rounds. -/
def execBindRecordWrite (slot : Nat) (ws : List Word) (s : State) : Host.Outcome State Fault Refusal :=
  s.happens (fun s => s.hostUp && slot < 1024) fun s =>
    let b : Bind := { valid := (ws.getD 0 0#32).bit 31, words := (List.range 16).map fun i => ws.getD i 0#32 }
    let reason := if b.valid then s.bindReason slot b else 0
    let stat := w32 ((if reason = 0 then 0 else 2 ^ 31) + slot * 2 ^ 16 + reason)
    { s with
      binds := Tab.set Bind.empty s.binds slot (if reason = 0 then b else Bind.empty),
      pack := { s.pack with slotstat := stat },
      dispatchers := s.dispatchers.map fun d => (d.1, { d.2 with standings := Tab.erase d.2.standings slot }) }

/-! ## The head of a queue (05 R96) -/

/-- A launch has blocks to place. -/
def Launch.unplaced (l : Launch) : Bool := l.status.isNone && (l.placed < l.grid || !l.again.isEmpty)

/-- The head of a queue: the oldest launch with blocks to place; an ordered one only once every earlier one has completed. -/
def State.head (s : State) (fn q : Nat) : Option Nat :=
  let ls := s.queueLaunches fn q
  match ls.find? fun l => (s.launch l).unplaced with
  | none => none
  | some l =>
    if (s.launch l).ordered && (ls.any fun e => e < l && (s.launch e).status.isNone) then none else some l

/-- A launch may begin or go on with placement; its saved blocks return first (05 R111). -/
def State.placeable (s : State) (lid : Nat) : Bool :=
  let l := s.launch lid
  l.waits.all (·.done) && !l.frozen && !(s.fn l.fn).fenced && s.saved.all fun v => !(v.present && v.block.lid == lid)

/-! ## Cores (05 R98 to R101) -/

/-- A die takes part in placement. -/
def State.dieServes (s : State) (d : Nat) : Bool := s.pack.dies.getLsbD d && !(s.die d).lost && !(s.die d).offline

/-- The blocks of a core. -/
def State.coreBlocks (s : State) (core : Nat) : List Block := ([0, 1].map (s.block core)).filter (·.resident)

/-- The context that a core gives to its next block. -/
def State.freeCtx (s : State) (core : Nat) : Nat := if (s.block core 0).resident then 1 else 0

/-- The base of a region in a core's scratchpad share, where it fits (02 R29): context 0's region lies at the foot of the share and
context 1's at its head, so that two regions fit whenever their sizes together do (DESIGN CHOICE; log 49). -/
def State.regionBase (s : State) (core size limit : Nat) : Option Nat :=
  let used := (s.coreBlocks core).foldl (fun a b => a + b.scratchSize) 0
  if used + size ≤ limit then some (if s.freeCtx core = 0 then 0 else limit - size) else none

/-- The launch for which a core drains, as long as that launch waits (05 R99). A drained core stays that launch's until all its blocks are
placed: the rule does not say how long it is held, and this is the model's choice (DESIGN CHOICE; log 49). -/
def State.drainsFor (s : State) (core : Nat) : Option Nat :=
  (s.core core).draining.filter fun l => (s.launch l).unplaced

/-- The other core of a pair that shares a Cascade in paired mode (10 R193). -/
def State.pairMate (s : State) (c : Nat) : Option Nat :=
  let m := (s.core c).mxmode
  if !m.bit 0 then none
  else if c % 4 = m.bits 5 4 then some (c / 4 * 4 + m.bits 3 2)
  else if c % 4 = m.bits 3 2 then some (c / 4 * 4 + m.bits 5 4)
  else none

/-- An access to a core's scratchpad that another function has made is still on its way there. -/
def State.aimedAt (s : State) (fn c : Nat) : Bool :=
  let here (a : Nat) : Bool := a / 2 ^ 20 == c
  (s.core c).lastFn ≠ some fn
    && (!(s.core c).objq.isEmpty
      || s.cores.any (fun e => e.2.stores.any (fun x => !x.global && x.lanes.any fun l => here l.addr)
          || e.2.atoms.any fun x => x.kind == 0 && x.lanes.any fun l => here l.addr)
      || s.residents.any fun p => (s.blockThreads p.1 p.2).any fun t =>
          ((s.thread t).loads .ls).entries.any fun x => x.lanes.any fun l => !l.arrived && here l.addr)

/-- No other function is at work on a core (15 R286): in its blocks, in those of its mate in paired mode, in commands that outlive their blocks,
in accesses to its scratchpad. That the last of these hold a block of another function back is the model's choice (DESIGN CHOICE; log 49). -/
def State.oneFunction (s : State) (fn c : Nat) : Bool :=
  (s.coreBlocks c).all (fun x => x.fn == fn)
    && (match s.pairMate c with
        | some m => (s.coreBlocks m).all fun x => x.fn == fn
        | none => true)
    && s.cmds.all (fun d => (d.core ≠ c && s.pairMate c ≠ some d.core) || d.orphan.isNone || d.fn == fn)
    && !s.aimedAt fn c

/-- A core could take a block of a launch were its configuration right. -/
def State.coreRoom (s : State) (lid : Nat) (b : Bind) (c : Nat) : Bool :=
  let l := s.launch lid
  let bs := s.coreBlocks c
  b.hasCore c && s.dieServes (dieOf c) && bs.length < 2 && s.oneFunction l.fn c
    && (match s.drainsFor c with
      | none => true
      | some k => k == lid && bs.isEmpty)

/-- The launches of a die leave room for a launch (05 R101): a WSTAGE launch is there alone, and its commands that outlive their blocks have
written what they write (11 R224). -/
def State.stageOk (s : State) (lid die : Nat) : Bool :=
  s.residents.all (fun p => dieOf p.1 != die || (s.block p.1 p.2).lid == lid
    || !((s.launch lid).wstage || (s.launch (s.block p.1 p.2).lid).wstage))
    && s.cmds.all fun c => c.orphan.isNone || dieOf c.core ≠ die || c.lid = lid || !(s.launch c.lid).wstage

/-- The warps and the region of a block of a launch fit beside the blocks of a core in a record's configuration (02 R28, R29). -/
def State.coreHolds (s : State) (lid : Nat) (b : Bind) (c : Nat) : Bool :=
  let l := s.launch lid
  (s.coreBlocks c).foldl (fun a x => a + x.warps) 0 + l.warps ≤ configWarps b.config
    && (s.regionBase c (l.scratchUnits * 4096) (configScratch b.config)).isSome

/-- A core runs in a record's configuration, or may change to it. -/
def State.coreConfig (s : State) (b : Bind) (c : Nat) : Bool :=
  (s.coreBlocks c).isEmpty || ((s.core c).split &&& 0xFFF#32) = b.config

/-- A core can take a block of a launch now (05 R98). -/
def State.coreTakes (s : State) (lid : Nat) (b : Bind) (c : Nat) : Bool :=
  s.coreRoom lid b c && s.coreConfig b c && s.coreHolds lid b c

/-- The first `n` of the cores of a die that can take a block: fewer residents first, then the lower index. -/
def State.bestCores (s : State) (lid : Nat) (b : Bind) (die n : Nat) : List Nat :=
  let cs := ((List.range 64).map (die * 64 + ·)).filter (s.coreTakes lid b)
  let ranked := (cs.filter fun c => (s.coreBlocks c).isEmpty) ++ cs.filter fun c => !(s.coreBlocks c).isEmpty
  let got := ranked.take n
  cs.filter got.contains

/-- The cores on which a die's dispatcher would place the launch's next block or group, in %gslot order; a twin group's by the
even die. -/
def State.fits (s : State) (lid : Nat) (b : Bind) (die : Nat) : Option (List Nat) :=
  let l := s.launch lid
  let n := l.perDie
  let here := s.bestCores lid b die n
  let dieOk (d : Nat) : Bool := s.stageOk lid d && l.upto.getD d 0 ≤ (s.die d).applied
  if !dieOk die || here.length < n then none
  else if !l.twin then some here
  else if die % 2 = 1 || !dieOk (die + 1) then none
  else
    let there := s.bestCores lid b (die + 1) n
    if there.length < n then none else some (here ++ there)

/-- The number of cores of a record's set on a die. -/
def Bind.coresOn (b : Bind) (die : Nat) : Nat := ((List.range 64).filter fun i => b.hasCore (die * 64 + i)).length

/-- The status of a launch whose bind record can never meet its needs (05 R98, R100). -/
def bindStatus (l : Launch) (b : Bind) : Option Nat :=
  let big (n : Nat) : Bool := if l.twin then [0, 2].any fun d => n ≤ b.coresOn d && n ≤ b.coresOn (d + 1)
    else (List.range 4).any fun d => n ≤ b.coresOn d
  if configRpt b.config < l.rpt || configScratch b.config < l.scratchUnits * 4096 || configWarps b.config < l.warps then some 3
  else if l.twin && !big 1 then some 5
  else if !big l.perDie then some 3
  else none

/-! ## The decision (05 R97) -/

/-- A queue that has a head to place: its slot, its launch, its record. -/
def State.heads (s : State) : List (Nat × Nat × Bind) :=
  s.binds.filterMap fun e => if !e.2.valid then none
    else match s.head e.2.fn e.2.queue with
      | some l => if s.placeable l then some (e.1, l, e.2) else none
      | none => none

/-- The queues eligible on a die, with the cores. -/
def State.eligible (s : State) (die : Nat) : List (Nat × Nat × Bind × List Nat) :=
  s.heads.filterMap fun h => (s.fits h.2.1 h.2.2 die).map fun cs => (h.1, h.2.1, h.2.2, cs)

/-- The standing of a slot at a die. -/
def State.standing (s : State) (die slot : Nat) : Standing :=
  Tab.get Standing.reset (Tab.get Dispatcher.reset s.dispatchers die).standings slot

/-- The effective level of a slot at a die. -/
def State.effLevel (s : State) (die slot : Nat) (b : Bind) : Nat := b.level - (s.standing die slot).promoted

/-- The choice among queues (05 R97): lowest effective level, then weighted round-robin. The rule names no order of the queues in which the
choice rotates: it is that of the slot numbers (DESIGN CHOICE; log 49). -/
def State.chooseAmong (s : State) (die : Nat) (es : List (Nat × Nat × Bind × List Nat)) : Option (Nat × Nat × Bind × List Nat) :=
  let lv := es.foldl (fun m e => min m (s.effLevel die e.1 e.2.2.1)) 3
  let here := es.filter fun e => s.effLevel die e.1 e.2.2.1 == lv
  let credit (slot : Nat) : Nat := (s.standing die slot).credit
  let fresh := here.all fun e => credit e.1 == 0
  let last := Tab.get 1023 (Tab.get Dispatcher.reset s.dispatchers die).last lv
  let can := here.filter fun e => fresh || credit e.1 ≠ 0
  match can.find? fun e => last < e.1 with
  | some e => some e
  | none => can.head?

/-- The eligible queue that a dispatcher chooses. -/
def State.chooseQueue (s : State) (die : Nat) : Option (Nat × Nat × Bind × List Nat) := s.chooseAmong die (s.eligible die)

/-- The dispatcher's standing after it has chosen a slot. -/
def State.standAfter (s : State) (die slot : Nat) : State :=
  let es := s.eligible die
  let d := Tab.get Dispatcher.reset s.dispatchers die
  let lv := match es.find? fun e => e.1 == slot with
    | some e => s.effLevel die slot e.2.2.1
    | none => 0
  let fresh := es.all fun e => s.effLevel die e.1 e.2.2.1 != lv || (s.standing die e.1).credit == 0
  let one (slot' : Nat) (b : Bind) : Standing :=
    let x := Tab.get Standing.reset d.standings slot'
    let c := if fresh && s.effLevel die slot' b = lv then b.weight else x.credit
    if slot' = slot then { credit := c - 1, passed := 0, promoted := 0 }
    else { credit := c, passed := if es.any (fun e => e.1 == slot') then x.passed + 1 else 0, promoted := x.promoted }
  let st := s.binds.foldl (fun t e => if e.2.valid then Tab.set Standing.reset t e.1 (one e.1 e.2) else t) d.standings
  let d : Dispatcher := { standings := st, last := Tab.set 1023 d.last lv slot, placedAt := s.clk + 1 }
  { s with dispatchers := Tab.set Dispatcher.reset s.dispatchers die d }

/-! ## Placing (02 R13, R15, R20, R24, R29; 05 R102, R109; 10 R191; 15 R286) -/

/-- A core passes to a function: what the last function's block left is cleared (15 R286). -/
def Core.passTo (c : Core) (fn : Nat) : Core :=
  if c.lastFn = some fn then c
  else { c with lastFn := some fn, sems := List.replicate 32 0#16, evq := [], held := [], heldE := [],
                tilest := List.replicate 16 0#32, tileLate := [], ashape := 0#32, l1 := [], icode := [], prefetch := [], scratch := [], scratchPoison := [] }

/-- A core without a resident block takes one of a bind record. -/
def Core.takeFirst (c : Core) (fn : Nat) (b : Bind) : Core :=
  { c.passTo fn with sems := List.replicate 32 0#16, ashape := 0#32, level := w32 b.power, split := splitWord b.config,
                     draining := none }

/-- The work items of a launch divided among the dies of its core set (05 R102). -/
def State.divideItems (s : State) (l : Launch) (b : Bind) : List Rill :=
  let dies := (List.range 4).filter fun d => s.dieServes d && 0 < b.coresOn d
  let n := dies.length
  let start (i : Nat) : Nat := i * (l.items / n) + min i (l.items % n)
  (List.range n).map fun i => { die := dies.getD i 0, ranges := [(start i, start (i + 1))], served := (0, 0) }

/-- The block that a launch places. -/
def State.newBlock (s : State) (lid core block gslot : Nat) (b : Bind) (runs : List (Nat × Nat)) : Block :=
  let l := s.launch lid
  { Block.empty with
    resident := true, lid := lid, fn := l.fn, block := block, nblk := l.grid, gslot := gslot, grouped := l.grouped, twin := l.twin,
    warps := l.warps, nregs := regsOf (configRpt b.config), codeBase := l.codeBase, entry := l.w 4,
    k := (List.range 16).map (fun i => l.args.getD i 0#32) ++ List.replicate 16 0#32, swtab := l.w 12,
    bandMask := (s.quad (quadOf core)).powered, tasks := l.tasks, armed := l.tasks.map (·.armed), mayPick := s.clk,
    scratchBase := (s.regionBase core (l.scratchUnits * 4096) (configScratch b.config)).getD 0,
    scratchSize := l.scratchUnits * 4096, wstage := l.wstage, placedAt := s.clk, inherit := runs }

/-- Places a block on a core: its warps start and the Sluice context is ready. -/
def State.placeBlock (s : State) (lid core block gslot : Nat) (b : Bind) (runs : List (Nat × Nat)) : State :=
  let l := s.launch lid
  let first := (s.coreBlocks core).isEmpty
  let ctx := s.freeCtx core
  let x := s.newBlock lid core block gslot b runs
  let s := if first then s.modCore core fun c => c.takeFirst l.fn b else s
  let s := s.setBlock core ctx x
  let s := if l.tasks.isEmpty then s
    else s.modThread (sluiceOf core ctx) fun th => { th.restart s.clk with live := true, occupied := 1#32 }
  let s := (List.range l.warps).foldl (fun s w => s.startWarp { core := core, ctx := ctx, slot := w }) s
  let s := if l.nwaits = 0 then s else (s.blockThreads core ctx).foldl (fun s t => s.acquire t 9) s
  s.checkBlock core ctx

/-- Places the next block or group of a launch on cores: one to be placed again goes ahead of the unplaced ones. -/
def State.placeNext (s : State) (lid : Nat) (b : Bind) (cores : List Nat) : State :=
  let l := s.launch lid
  let l := if l.started then l else { l with started := true, rills := s.divideItems l b }
  let first := match l.again with
    | a :: _ => a.block
    | [] => l.placed
  let runs (blk : Nat) : List (Nat × Nat) := match l.again with
    | a :: _ => ((a.runs.find? fun r => r.1 == blk).map (·.2)).getD []
    | [] => []
  let l := match l.again with
    | _ :: rest => { l with again := rest }
    | [] => { l with placed := l.placed + cores.length }
  let s := s.setLaunch lid l
  (List.range cores.length).foldl (fun s i =>
    let gslot := if !l.grouped then 0 else if l.twin && l.perDie ≤ i then 16 + (i - l.perDie) else i
    s.placeBlock lid (cores.getD i 0) (first + i) gslot b (runs (first + i))) s

/-- The cores of a die that would take a block of a launch but for the configuration of their resident blocks (05 R99). -/
def State.misfits (s : State) (lid : Nat) (b : Bind) (die : Nat) : List Nat :=
  ((List.range 64).map (die * 64 + ·)).filter fun c =>
    s.coreRoom lid b c && !s.coreConfig b c && s.coreHolds lid b c && (s.drainsFor c).isNone

/-- A launch waits for cores of a die to drain (05 R99): the block or group fits nowhere in its set, would fit there but for
configurations, and no core of the die is draining for it yet. -/
def State.wantsDrain (s : State) (lid : Nat) (b : Bind) (die : Nat) : Bool :=
  let cs := (List.range 64).map (die * 64 + ·)
  let half (d : Nat) : Bool := (s.launch lid).perDie ≤ (s.bestCores lid b d 64).length + (s.misfits lid b d).length
  (List.range 4).all (fun d => (s.fits lid b d).isNone) && s.stageOk lid die && !(s.misfits lid b die).isEmpty
    && cs.all (fun c => s.drainsFor c != some lid || (s.coreBlocks c).isEmpty)
    && half die && (!(s.launch lid).twin || half (die / 2 * 2 + 1 - die % 2))

/-- The core of a die that is to be drained for a waiting launch (05 R99): the launch is the one that R97 chooses among the eligible
and those that wait for a core to drain; the core is the one with the fewest resident warps. -/
def State.toDrain (s : State) (die : Nat) : Option (Nat × Nat) :=
  let all := s.heads.filterMap fun h =>
    if s.wantsDrain h.2.1 h.2.2 die then some (h.1, h.2.1, h.2.2, ([] : List Nat))
    else (s.fits h.2.1 h.2.2 die).map fun cs => (h.1, h.2.1, h.2.2, cs)
  let warps (c : Nat) : Nat := (s.coreBlocks c).foldl (fun a x => a + x.warps) 0
  match s.chooseAmong die all with
  | some (_, lid, b, []) => match s.misfits lid b die with
    | [] => none
    | c :: rest => some (lid, rest.foldl (fun m x => if warps x < warps m then x else m) c)
  | _ => none

/-- A head whose bind record can never meet its needs; a launch that has begun placement only waits (05 R104). 05 R98 completes such a launch
at once and names no instant: that it is judged when it is its queue's head and its waits are satisfied is the model's choice (DESIGN CHOICE;
log 49). -/
def State.hopeless (s : State) : Option (Nat × Nat) :=
  s.heads.findSome? fun h =>
    if (s.launch h.2.1).started then none else (bindStatus (s.launch h.2.1) h.2.2).map fun st => (h.2.1, st)

/-- A die's dispatcher has a decision to take, and has taken none in this cycle. -/
def State.decisionMay (s : State) (die : Nat) : Bool :=
  s.dieServes die && (Tab.get Dispatcher.reset s.dispatchers die).placedAt ≤ s.clk
    && (s.hopeless.isSome || (s.chooseQueue die).isSome || (s.toDrain die).isSome)

/-- PLACEMENT_DECISION (05 R96 to R102): a head that can never be placed gets its status; else, where the chosen head waits for a core to
drain, that core is marked; else the chosen queue's next block or group is placed. -/
def execPlacementDecision (die : Nat) (s : State) : Host.Outcome State Fault Refusal :=
  s.happens (fun s => s.decisionMay die) fun s =>
    match s.hopeless with
    | some (lid, st) => s.failLaunch lid st 0
    | none =>
      match s.toDrain die with
      | some (lid, c) => s.modCore c fun x => { x with draining := some lid }
      | none =>
        match s.chooseQueue die with
        | some (slot, lid, b, cores) => (s.standAfter die slot).placeNext lid b cores
        | none => s

/-- AGING_PROMOTION (05 R97): a queue passed over at 64 consecutive decisions rises by one level. -/
def execAgingPromotion (die slot : Nat) (s : State) : Host.Outcome State Fault Refusal :=
  s.happens (fun s => 64 ≤ (s.standing die slot).passed) fun s =>
    let d := Tab.get Dispatcher.reset s.dispatchers die
    let x := Tab.get Standing.reset d.standings slot
    let d := { d with standings := Tab.set Standing.reset d.standings slot { x with passed := 0, promoted := x.promoted + 1 } }
    { s with dispatchers := Tab.set Dispatcher.reset s.dispatchers die d }

/-! ## Completion records (04 R90, 05 R104, R105) -/

/-- Nothing that a function has written is still on its way to system scope. -/
def State.allVisible (s : State) (fn : Nat) : Bool :=
  s.cores.all (fun e => e.2.stores.all (fun x => !(x.global && x.fn == fn)) && e.2.atoms.all fun x => !(x.fn == fn && x.kind == 2))
    && s.quads.all fun e => e.2.lines.all fun x => x.2.fn != fn || x.2.lmask = 0#128

/-- A record may be posted: what the launch's stores, atomics and commands write, those of a command that outlives its block among them, is visible
at system scope (04 R90, 05 R105). -/
def State.postMay (s : State) (lid : Nat) : Bool :=
  let l := s.launch lid
  l.status.isSome && !l.posted && !l.frozen && s.allVisible l.fn && s.cmds.all (fun c => c.lid != lid) && (l.packet.isEmpty || s.mayAsk l.fn l.recAddr 0)

/-- COMPLETION_RECORD_POST (05 R105): the record is written, word 0 last; every unsatisfied wait is then owed a re-read (R93). -/
def execCompletionRecordPost (lid : Nat) (s : State) : Host.Outcome State Fault Refusal :=
  s.happens (fun s => s.postMay lid) fun s =>
    let l := s.launch lid
    match if l.packet.isEmpty then (s, .fails 7) else s.ask l.fn l.recAddr 1 s.dispatchWho with
    | (s, .waits) => s
    | (s, _) => s.writeRecord lid (l.status.getD 0)

/-! ## Bands (05 R110) -/

/-- A command of a quad uses a band. -/
def State.bandUsed (s : State) (quad band : Nat) : Bool :=
  s.cmds.any fun c => quadOf c.core == quad && c.engine == 0 && c.stage < 3 && c.mask.getLsbD band

/-- A band that is not powered is outside every band mask: those of the quad's blocks, and of their commands that stand parked
or faulted. -/
def State.dropBand (s : State) (quad : Nat) (bit : BitVec 4) : State :=
  let s : State := { s with cmds := s.cmds.map fun c => if quadOf c.core = quad then { c with mask := c.mask &&& ~~~bit } else c }
  (s.residents.filter fun p => quadOf p.1 == quad).foldl (fun s p =>
    s.modBlock p.1 p.2 fun b => { b with bandMask := b.bandMask &&& ~~~bit }) s

/-- BAND_POWER_SWITCH (05 R110): a band powered up ramps for at most 2,600 cycles; one is powered down only when no command that
uses it is queued or running. -/
def execBandPowerSwitch (quad band : Nat) (on : Bool) (s : State) : Host.Outcome State Fault Refusal :=
  s.happens (fun s => if on then !(s.quad quad).powered.getLsbD band else !s.bandUsed quad band) fun s =>
    let bit := BitVec.ofNat 4 (2 ^ band)
    let s := if on then s else s.dropBand quad bit
    s.modQuad quad fun q =>
      if on then { q with powered := q.powered ||| bit, ramping := q.ramping ++ [(band, s.clk + 2600)] }
      else { q with powered := q.powered &&& ~~~bit, ramping := q.ramping.filter fun r => r.1 != band }

/-- BAND_RAMP_DONE (05 R110). -/
def execBandRampDone (quad band : Nat) (s : State) : Host.Outcome State Fault Refusal :=
  s.happens (fun s => (s.quad quad).ramping.any fun r => r.1 == band) fun s =>
    s.modQuad quad fun q => { q with ramping := q.ramping.filter fun r => r.1 != band }

/-! ## Thermal emergencies (05 R111) -/

/-- The unhanded ranges of a die's Rills pass to the lowest serving die of each launch's core set. -/
def State.passRills (s : State) (die : Nat) : State :=
  { s with launches := s.launches.map fun e =>
      let b := match s.boundSlot e.2.fn e.2.queue with
        | some slot => Tab.get Bind.empty s.binds slot
        | none => Bind.empty
      match (List.range 4).find? fun d => d != die && s.dieServes d && 0 < b.coresOn d, e.2.rills.find? fun r => r.die == die with
      | some d, some r =>
        let others := e.2.rills.filter fun x => x.die != die
        let rills := if others.any fun x => x.die == d then
            others.map fun x => if x.die = d then { x with ranges := x.ranges ++ r.ranges } else x
          else others ++ [{ r with die := d }]
        (e.1, { e.2 with rills := rills })
      | _, _ => e }

/-- DIE_ONLINE (05 R111). -/
def execDieOnline (die : Nat) (s : State) : Host.Outcome State Fault Refusal :=
  s.happens (fun s => (s.die die).offline) fun s => s.modDie die fun d => { d with offline := false }

end Sys2Proof.Machine
end

