-- ==== Sys2Proof/Machine/Move.lean ====
section
/-! DEFINITION. A move to a destination that is not a trigger port (03 R45, R46, R48, R52; 11 R229). -/

namespace Sys2Proof.Machine

/-- The value and tag that a move delivers in a lane, after its modifiers. -/
def State.delivered (s : State) (x : Src) (m : Mods) (l : Nat) : Word × Bool :=
  let v := s.srcRead x m.try_ l
  (Mods.apply m v.1, v.2)

/-- Writes a k register of a block; bundles see it from the next cycle (02 R25). -/
def State.writeK (s : State) (t : Tid) (n : Nat) (v : Word) : State :=
  s.modBlock t.core t.ctx fun b => { b with late := b.late ++ [{ reg := n, val := v, sluice := t.isSluice }] }

/-- Writes a register with its tags in the lanes of a mask. -/
def Thread.deliver (th : Thread) (r : Reg) (m : Mask) (v : Nat → Word × Bool) : Thread :=
  (th.wrMask r m fun l => (v l).1).setTags r m (maskWhere fun l => (v l).2)

/-- Writes a destination in the lanes of a mask (03 R52 items 2 and 5). -/
def State.writeDst (s : State) (d : Dst) (m : Mask) (v : Nat → Word × Bool) : State :=
  let t := s.cur.tid
  match lowest m with
  | none => s
  | some l0 =>
    match d with
    | .g n => s.modThread t fun th => th.deliver (.g ((s.cur.image.split s.cur.split).rename n.val)) m v
    | .port p =>
      if OpPort.perWarp p then s.modThread t fun th => th.deliver (.op p) 1#32 fun _ => v l0
      else s.modThread t fun th => th.deliver (.op p) m v
    | .k n => s.writeK t n.val (v l0).1
    | .cc n => s.modThread t fun th => th.wrMask (.cc n.val) m fun l => (v l).1 &&& 15#32

/-- A tagged value may not go to a k register or a cc register (11 R229). -/
def State.moveTagged (s : State) (x : Src) (d : Dst) (m : Mods) (g : Mask) : Bool :=
  match d with
  | .k _ => match lowest g with
    | some l => (s.delivered x m l).2
    | none => false
  | .cc _ => (lanesOf g).any fun l => (s.delivered x m l).2
  | _ => false

/-- Every guarded lane of a source is ready, so that `.try.pop` pops (03 R46). -/
def State.allReady (s : State) (x : Src) (g : Mask) : Bool := !s.srcWaits x false g

/-- The parts of MOVE. -/
def moveAction (h : Head) (d : Dst) (m : Mods) : Action :=
  { Action.idle with
    waits := fun s => s.srcWaits h.src m.try_ (s.guard h.guard)
    missed := fun s => s.srcMissed h.src (s.guard h.guard)
    poison := fun s => if s.moveTagged h.src d m (s.guard h.guard) then some (s.trapWord 0x06) else none
    own := fun s => s.faultTrap h.src (s.guard h.guard)
    effect := fun s => s.writeDst d (s.guard h.guard) (s.delivered h.src m)
    finish := fun s =>
      let s' := s.capture h (s.guard h.guard) (s.delivered h.src m)
      if m.pop && (!m.try_ || s.allReady h.src (s.guard h.guard)) then s'.notePop h.src (s.guard h.guard) else s' }

/-- MOVE (03 R52). -/
def execMove (h : Head) (d : Dst) (m : Mods) (s : State) : Host.Outcome State Fault Refusal :=
  (moveAction h d m).outcome s

end Sys2Proof.Machine
end

