-- ==== Sys2Proof/Machine/Weir.lean ====
section
/-! DEFINITION. SYNC above the core (06 R122 to R125): Weir lines, the restart on one cycle, the two-phase release, arrivals of
other packages. -/

namespace Sys2Proof.Machine

/-- The restart delay W (06 R112). -/
def restartDelay (scope : Nat) : Nat :=
  match scope with
  | 3 => 2
  | 4 => 6
  | 5 => 14
  | 6 => 40
  | _ => 72

/-- WEIR_LINE_GRANT (06 R123 step 3): a generation that found every line held, or that was saved, gets one. -/
def execWeirLineGrant (gen : Nat) (s : State) : Host.Outcome State Fault Refusal :=
  s.happens (fun s => s.lineMay gen) fun s => s.modWeir gen fun w => { w with line := true }

/-- A block's core has asserted its input: the block is on a core and has arrived, the releases of its SYNCs are complete, and from package scope on its die
has applied the entries of its log that were there when the block arrived, so that the acquire which precedes the restart finds them applied. -/
def State.inputIn (s : State) (w : Weir) (p : Nat × Nat) : Bool :=
  !isSaved p && w.arrived.contains p && (s.sync p.1 p.2 w.scope).seqs.all (fun e => s.releasedOne { core := p.1, ctx := p.2, slot := e.1 } (e.2 - 1))
    && (w.scope < 7 || w.logs.all fun x => x.1 ≠ p || x.2 ≤ (s.die (dieOf p.1)).applied)

/-- Every input of a generation is asserted; from package scope on every block of the launch has been placed. -/
def State.inputsIn (s : State) (w : Weir) : Bool :=
  !w.arrived.isEmpty && (s.weirBlocks w).all (s.inputIn w)
    && (w.scope < 7 || ((s.launch w.lid).placed = (s.launch w.lid).grid && (s.launch w.lid).again.isEmpty))

/-- At the end of a cycle: a generation that holds its line and whose inputs are all asserted has had its last arrival. -/
def State.settleWeirs (s : State) : State :=
  { s with weirs := s.weirs.filterMap fun e =>
      if e.2.arrived.isEmpty && e.2.lastCycle.isNone then none
      else if e.2.line && e.2.lastCycle.isNone && s.inputsIn e.2 then
        let at_ := if e.2.scope ≤ 5 then some (s.clk + restartDelay e.2.scope) else none
        some (e.1, { e.2 with lastCycle := some s.clk, restart := at_ })
      else some e }

/-! ## The two-phase release (06 R124) -/

/-- The mesh links are at full width with nothing to replay. -/
def State.meshFull (s : State) : Bool := (s.pack.links.take 4).all fun l => l.up && l.width = 4 && l.unacked.isEmpty

/-- The dies of a generation's domain. -/
def State.weirDies (s : State) (w : Weir) : List Nat :=
  (List.range 4).filter fun d => (s.weirBlocks w).any fun p => dieOf p.1 == d

/-- The die that arbitrates: the even die of a pair, else die 0. -/
def State.arbiter (s : State) (w : Weir) : Nat :=
  if w.scope = 6 then (s.weirDies w).headD 0 / 2 * 2 else 0

/-- A die's result may go to the arbiter. -/
def State.gatherMay (s : State) (gen die : Nat) : Bool :=
  let w := s.weir gen
  6 ≤ w.scope && w.line && !w.gathered.contains die && (s.weirDies w).contains die
    && ((s.weirBlocks w).filter fun p => dieOf p.1 == die).all (s.inputIn w)

/-- WEIR_GATHER (06 R124 step 1). -/
def execWeirGather (gen die : Nat) (s : State) : Host.Outcome State Fault Refusal :=
  s.happens (fun s => s.gatherMay gen die) fun s => s.modWeir gen fun w => { w with gathered := w.gathered ++ [die] }

/-- The dies that the arbiter tells the restart cycle. -/
def State.otherDies (s : State) (w : Weir) : List Nat := (s.weirDies w).filter (· != s.arbiter w)

/-- Every die's result is in. -/
def State.gatheredAll (s : State) (w : Weir) : Bool := w.lastCycle.isSome && (s.weirDies w).all w.gathered.contains

/-- The restart cycle that the arbiter chooses: the last arrival's plus W, or, once that is too near, W from now. -/
def State.chosenCycle (s : State) (w : Weir) : Nat :=
  let a := w.lastCycle.getD s.clk
  if s.clk ≤ a + 1 then a + restartDelay w.scope else s.clk + restartDelay w.scope

/-- The arbiter may send the restart cycle to a die. -/
def State.proposeMay (s : State) (gen die : Nat) : Bool :=
  let w := s.weir gen
  6 ≤ w.scope && !w.confirmed && s.gatheredAll w && (s.otherDies w).contains die && !w.proposed.contains die

/-- RESTART_PROPOSAL (06 R124 step 2). -/
def execRestartProposal (gen die : Nat) (s : State) : Host.Outcome State Fault Refusal :=
  s.happens (fun s => s.proposeMay gen die) fun s => s.modWeir gen fun w =>
    { w with restart := some (w.restart.getD (s.chosenCycle w)), proposed := w.proposed ++ [die] }

/-- An acknowledgement arrives in time: before cycle T - 8. -/
def State.ackMay (s : State) (gen die : Nat) : Bool :=
  let w := s.weir gen
  w.proposed.contains die && !w.acks.contains die && w.restart.any fun r => s.clk + 8 < r

/-- RESTART_ACK (06 R124 step 2). -/
def execRestartAck (gen die : Nat) (s : State) : Host.Outcome State Fault Refusal :=
  s.happens (fun s => s.ackMay gen die) fun s => s.modWeir gen fun w => { w with acks := w.acks ++ [die] }

/-- Every acknowledgement is in, and the restart cycle lies ahead. -/
def State.confirmable (s : State) (w : Weir) : Bool :=
  s.gatheredAll w && (s.otherDies w).all w.acks.contains && s.clk < w.restart.getD (s.chosenCycle w)

/-- The arbiter confirms, or finds that it is too late and starts again. -/
def State.confirmMay (s : State) (gen : Nat) : Bool :=
  let w := s.weir gen
  6 ≤ w.scope && !w.confirmed && (s.confirmable w || w.restart.any fun r => r ≤ s.clk + 8)

/-- RESTART_CONFIRM (06 R124 step 2). -/
def execRestartConfirm (gen : Nat) (s : State) : Host.Outcome State Fault Refusal :=
  s.happens (fun s => s.confirmMay gen) fun s =>
    let ok := s.confirmable (s.weir gen)
    s.modWeir gen fun w =>
      if ok then { w with confirmed := true, restart := some (w.restart.getD (s.chosenCycle w)) }
      else { w with restart := none, proposed := [], acks := [] }

/-! ## Pods (06 R125) -/

/-- The generation at pod scope of a launch of which this package has arrived and the others have not been told. -/
def State.podWeir (s : State) (lid : Nat) : Option Nat :=
  (s.weirs.find? fun e => e.2.lid == lid && e.2.scope == 8 && e.2.lastCycle.isSome && !e.2.sent).map (·.1)

/-- POD_SYNC_ARRIVAL (06 R125): the arrival of a package at a launch's next pod SYNC reaches the others: this package's own goes out on the
links, and that of another with which firmware has joined the launch comes in, be it before the first arrival here. -/
def execPodSyncArrival (lid pkg : Nat) (s : State) : Host.Outcome State Fault Refusal :=
  s.happens (fun s => if pkg = s.pack.pkg then (s.podWeir lid).isSome else (s.launch lid).joined.contains pkg) fun s =>
    if pkg = s.pack.pkg then
      match s.podWeir lid with
      | some g => (s.modWeir g fun w => { w with sent := true }).emit (.podArrival lid pkg)
      | none => s
    else s.modLaunch lid fun l => { l with pods := l.pods ++ [pkg] }

/-- The arrivals of every other package of the pod domain are in. -/
def State.podsIn (s : State) (w : Weir) : Bool := w.scope ≠ 8 || (s.launch w.lid).joined.all (s.launch w.lid).pods.contains

/-- A pod domain's restart takes one arrival of each other package. -/
def State.takePods (s : State) (w : Weir) : State :=
  if w.scope ≠ 8 then s else s.modLaunch w.lid fun l => { l with pods := l.joined.foldl (fun ps p => ps.erase p) l.pods }

/-! ## The restart (06 R123 steps 4 to 6) -/

/-- A generation restarts in this cycle; not while a block of it is saved (06 R131) or frozen. -/
def State.restartDue (s : State) (gen : Nat) : Bool :=
  let w := s.weir gen
  (w.scope ≤ 5 || w.confirmed) && w.restart.any (· ≤ s.clk) && s.podsIn w
    && (s.weirBlocks w).all fun p => !isSaved p && (s.block p.1 p.2).frozen.isNone

/-- A split waits at the generation of its block's SYNC that restarts. -/
def Split.syncs (sp : Split) (scope gen : Nat) : Bool :=
  sp.live && sp.wait.kind = 3 && sp.wait.w0.bits 3 0 = scope && sp.wait.w0.bits 19 4 = gen % 65536

/-- Restarts a block: its waiting splits acquire and go on in the restart set, and its next generation begins. -/
def State.restartBlock (s : State) (scope : Nat) (p : Nat × Nat) : State :=
  let x := s.sync p.1 p.2 scope
  let s := (s.blockThreads p.1 p.2).foldl (fun s t =>
    if (s.thread t).splits.any (fun sp => sp.syncs scope x.gen) then
      let go (sp : Split) : Split :=
        if sp.syncs scope x.gen && sp.place ≠ .away then { sp with wait := WaitRec.none_ } else sp
      (s.acquire t scope).modThread t fun th => { th with splits := th.splits.map go }
    else s) s
  s.setSync p.1 p.2 scope { SyncState.empty with gen := (x.gen + 1) % 65536 }

/-- WEIR_RESTART (06 R123): every core of the domain acquires and restarts its waiting splits; the line is free again. -/
def execWeirRestart (gen : Nat) (s : State) : Host.Outcome State Fault Refusal :=
  s.happens (fun s => s.restartDue gen) fun s =>
    let w := s.weir gen
    let s := (s.weirBlocks w).foldl (fun s p => s.restartBlock w.scope p) s
    ({ s with weirs := Tab.erase s.weirs gen } : State).takePods w

end Sys2Proof.Machine
end

