-- ==== Sys2Proof/Machine/Preempt.lean ====
section
/-! DEFINITION. Pre-emption (07 R133 to R148, R365; 16 R328): requests to yield, safe points, the save and its layout, the
resume, the freeze wire and the scan path. -/

namespace Sys2Proof.Machine

/-! ## Safe points (07 R133 to R135, 06 R131) -/

/-- A split has no fixed-latency result in flight. -/
def Thread.quiet (th : Thread) (i : Nat) : Bool := th.flights.all fun f => f.split != i

/-- A split of a warp, or of a Sluice context that runs a task, stands at a safe point. A thread in a trap handler never does
(log 15). -/
def State.safePoint (s : State) (t : Tid) (i : Nat) : Bool :=
  let th := s.thread t
  let sp := th.split i
  let next := match s.codeLine t sp.pc with
    | some line => startsBundle line sp.pc && (headerAt line sp.pc).safe
    | none => false
  th.live && sp.live && !th.level && !sp.rill && sp.switch_.isNone && th.quiet i
    && (if sp.lease || (1 ≤ sp.wait.kind && sp.wait.kind ≤ 4) then sp.safeWait else next)

/-- A split of a block that is asked to yield stops now. -/
def State.stopDue (s : State) (t : Tid) (i : Nat) : Bool :=
  let b := s.block t.core t.ctx
  b.yield.isSome && b.yieldFrom ≤ s.clk && b.frozen.isNone && !((s.thread t).split i).stopped && s.safePoint t i

/-- SAFE_POINT_STOP (07 R135): the split issues nothing more, and gives up its place. -/
def execSafePointStop (t : Tid) (i : Nat) (s : State) : Host.Outcome State Fault Refusal :=
  s.happens (fun s => s.stopDue t i) fun s =>
    s.modThread t fun th => th.modSplit i fun sp => { sp with stopped := true, place := .away }

/-- Every split and the Sluice context of a block have stopped. -/
def State.blockStopped (s : State) (core ctx : Nat) : Bool :=
  let b := s.block core ctx
  b.yield.isSome && b.yieldFrom ≤ s.clk && b.frozen.isNone && (s.blockThreads core ctx).all fun t =>
    let th := s.thread t
    !th.level && th.flights.isEmpty && th.splits.all fun sp => !sp.live || sp.stopped

/-- The resident blocks that are asked to yield together (07 R135, 06 R131): the work-group, and SYNC domains above the core. -/
def State.yieldMates (s : State) (core ctx : Nat) : List (Nat × Nat) :=
  let weirs := s.weirs.filter fun e => 4 ≤ e.2.scope && (s.weirBlocks e.2).contains (core, ctx)
  ((s.workGroup core ctx ++ weirs.flatMap fun e => s.weirBlocks e.2).eraseDups).filter fun p => (s.block p.1 p.2).resident

/-- What stands for the save area of a block that is asked to yield and for which firmware has named none yet: it is not 4 KiB
aligned, so that nothing is saved there. -/
def noArea : Nat := 1

/-- Blocks are asked to yield: from the next cycle on their splits stop. -/
def State.askToYield (s : State) (ps : List (Nat × Nat)) : State :=
  ps.foldl (fun s p => s.modBlock p.1 p.2 fun b =>
    { b with yield := some (b.yield.getD noArea), yieldFrom := if b.yield.isSome then b.yieldFrom else s.clk + 1 }) s

/-- YIELD_REQUEST (07 R135, R141): the block is asked with its mates, and firmware names its save area; an area that is not 4 KiB
aligned is refused. -/
def execYieldRequest (core ctx area : Nat) (s : State) : Host.Outcome State Fault Refusal :=
  s.happens (fun s => (s.block core ctx).resident) fun s =>
    if area % 4096 ≠ 0 then s.emit (.saveRefused core ctx)
    else (s.askToYield (s.yieldMates core ctx)).modBlock core ctx fun b => { b with yield := some area }

/-- THERMAL_EMERGENCY (05 R111): the management cores are signalled and the die goes offline; each of its blocks is asked to yield
with its mates (06 R131); its Rills' ranges pass on. -/
def execThermalEmergency (die : Nat) (s : State) : Host.Outcome State Fault Refusal :=
  s.happens (fun s => !(s.die die).offline) fun s =>
    let s := (s.modDie die fun d => { d with offline := true }).emit (.emergency die)
    let here := s.residents.filter fun p => dieOf p.1 == die
    (s.askToYield (here.flatMap fun p => s.yieldMates p.1 p.2).eraseDups).passRills die

/-! ## Parking (07 R141 step 1, R147) -/

/-- The boundary at which the parties of a collective are to park: the furthest that any has reached. -/
def State.boundary (s : State) (c : Cmd) : Nat × Nat :=
  (s.mates c).foldl (fun m d =>
    let p := s.progressOf d
    if comesFirst m (p.pass, p.next) then (p.pass, p.next) else m) ((s.progressOf c).pass, (s.progressOf c).next)

/-- No party of a collective has done its last element. -/
def State.noneEnded (s : State) (c : Cmd) : Bool := !c.ended && c.stage ≠ 2 && (s.mates c).all fun d => d.stage != 2

/-- A parking party signals the others now. -/
def State.signalMay (s : State) (c : Cmd) : Bool :=
  c.collective && c.stage ≤ 1 && c.orphan.isNone && s.blockStopped c.core c.ctx && s.noneEnded c && (s.parkTarget c).isNone

/-- COLLECTIVE_PARK_SIGNAL (07 R147): every party is told the boundary at which all of them park. -/
def execCollectiveParkSignal (core ctx tag : Nat) (s : State) : Host.Outcome State Fault Refusal :=
  s.happens (fun s => (s.cmdOf core ctx tag).any s.signalMay) fun s =>
    match s.cmdOf core ctx tag with
    | none => s
    | some c =>
      let at_ := s.boundary c
      (c :: s.mates c).foldl (fun s d => s.modCmd d fun x => { x with parkAt := some at_ }) s

/-- A command parks now: its block has stopped; or it is a party of a collective that stands at the boundary. -/
def State.parkMay (s : State) (c : Cmd) : Bool :=
  s.cmdRuns c && c.stage ≤ 1 && (if c.collective then
      match s.parkTarget c with
      | some p => !comesFirst (s.position c) p && (c.stage = 1 || p = (0, 0))
      | none => false
    else c.orphan.isNone && s.blockStopped c.core c.ctx)

/-- ENGINE_PARK (07 R141 step 1): the command parks at its element boundary. -/
def execEnginePark (core ctx tag : Nat) (s : State) : Host.Outcome State Fault Refusal :=
  s.happens (fun s => (s.cmdOf core ctx tag).any s.parkMay) fun s =>
    match s.cmdOf core ctx tag with
    | none => s
    | some c =>
      let p := (s.parkTarget c).getD (0, 0)
      let s := if c.engine = 0 then s.enterArray c (s.expectedTag c) else s
      let s := s.modCmd c fun d =>
        { d with stage := 3, sent := none, inbox := [], parkAt := if d.collective then some p else none }
      s.modProgress c fun r => if c.collective then { r with state := 3, pass := p.1, next := p.2 } else { r with state := 3 }

/-! ## The save area (07 R142 to R144) -/

/-- Bytes padded with zeros. -/
def padTo (n : Nat) (bs : List Byte) : List Byte := bs.take n ++ List.replicate (n - bs.length) 0#8

/-- Words as bytes. -/
def bytesOfWords (ws : List Word) : List Byte := ws.flatMap bytesOf

/-- A count rounded up to 4 KiB. -/
def page4 (n : Nat) : Nat := (n + 4095) / 4096 * 4096

/-- The cycle that an image of a block shows: the present one, or that in which the freeze wire stopped its clocks (16 R328). -/
def State.imageClk (s : State) (core ctx : Nat) : Nat := (s.block core ctx).frozen.getD s.clk

/-- The cycles that the running task has used (04 R85). -/
def State.elapsed (s : State) (core ctx : Nat) : Nat :=
  let b := s.block core ctx
  match b.running, b.firstIssue with
  | some _, some f => b.pauseFrom.getD (s.imageClk core ctx) - (f + b.paused)
  | _, _ => 0

/-- The pending request of a context for the lease. -/
def State.leasePending (s : State) (core ctx : Nat) : Option LeaseReq :=
  (s.quad (quadOf core)).leaseReqs.find? fun r => r.core == core && r.ctx == ctx

/-- The save-area header (07 R143). -/
def State.saveHeader (s : State) (core ctx : Nat) : List Word :=
  let b := s.block core ctx
  let l := s.launch b.lid
  let q := s.quad (quadOf core)
  let held := q.leaseHolder == some (core, ctx)
  let count := if held then q.leaseLeft else ((s.leasePending core ctx).map (·.count)).getD 0
  [1#32, l.w 13, l.w 14, l.w 15, w32 b.block, w32 (b.twin.toNat * 32 + b.gslot), (s.core core).split,
   maskWhere fun w => (s.blockWarps core ctx).any fun t => t.slot == w,
   w32 b.scratchSize, w32 (b.claim.1 * 2 ^ 16 + b.claim.2),
   w32 (held.toNat * 2 ^ 31 + (s.leasePending core ctx).isSome.toNat * 2 ^ 30 + count), w32 (s.elapsed core ctx % 2 ^ 24),
   w32 (s.imageClk core ctx), w32 (s.imageClk core ctx / 2 ^ 32), w32 b.engCount]

/-- The decision queue (07 R142): entries by their place in the ring, then pop counts, head and count. -/
def State.saveDecisions (s : State) (core ctx : Nat) : List Byte :=
  let b := s.block core ctx
  let first := b.dqPushed - b.dq.length
  let entry (i : Nat) : Word := ((List.range b.dq.length).find? fun j => (first + j) % 16 == i).elim 0#32 fun j => b.dq.getD j 0#32
  bytesOfWords ((List.range 16).map entry)
    ++ (List.range 32).map (fun w => BitVec.ofNat 8 (s.thread { core := core, ctx := ctx, slot := w }).dqPos)
    ++ [BitVec.ofNat 8 (first % 16), BitVec.ofNat 8 b.dq.length]

/-- A progress register as its two words. -/
def Progress.words (p : Progress) : List Word := [Progress.low p, w32 (p.tag * 2 ^ 8 + p.cause)]

/-- The command descriptor of a progress register (07 R143): of the command that it follows, or of the one that it has followed to its
end. -/
def State.saveDescriptor (s : State) (core ctx i : Nat) : List Word :=
  match s.cmds.find? fun c => c.of core ctx && c.pr == i with
  | some c => c.descriptor (if c.array.isNone then s.expectedTag c else c.wtag)
  | none => (s.block core ctx).descs.getD i (List.replicate 8 0#32)

/-- The records of a context: in the event queue, then held back. -/
def State.recordsOf (s : State) (core ctx : Nat) : List Word :=
  let c := s.core core
  (c.evq ++ c.held ++ c.heldE.map (·.word)).filter fun w => w.bits 29 29 = ctx

/-- A barrier's entry, in the model's own layout. -/
def Barrier.words (b : Barrier) : List Word :=
  [w32 b.gen, w32 (b.count * 2 + b.s.toNat), b.warps, (b.lanes.head?.map (·.2)).getD 0#32]

/-- SYNC's state, in the model's own layout: for each scope its generation, and whether the block has arrived. -/
def Block.syncWords (b : Block) : List Word :=
  (List.range 9).map fun i => let x := b.syncs.getD i SyncState.empty
    w32 (x.gen * 2 + x.arrived.toNat)

/-- The ports of a Sluice context that the model's section of it holds. -/
def sluicePorts : List Reg :=
  framePorts ++ frameWarpPorts ++ frameFlags.map Reg.res ++ [.op .ssm, .op .sgm, .op .sma, .res .smq]
    ++ [ResPort.ls 0, .ls 1, .ls 2, .ls 3, .lg 0, .lg 1, .lg 2, .lg 3, .lw 0, .lw 1, .lw 2, .lw 3].map Reg.res

/-- The load queue of a Sluice context, six words for each of 8 slots: its data or, until it has come, its descriptor. -/
def sluiceQueue (q : LoadQ) : List Word :=
  let slots := q.entries.flatMap fun e => (List.range (widthWords e.width)).map fun j => (e, j)
  let words (x : LoadEntry × Nat) : List Word := match x.1.lane 0 with
    | some y => [w32 (2 ^ 31 + y.arrived.toNat * 2 ^ 30 + y.poison.toNat * 2 ^ 29 + y.cause), w32 x.1.seq, w32 x.2, y.vals.getD x.2 0#32,
                 w32 y.addr, w32 (y.addr / 2 ^ 32)]
    | none => [w32 (2 ^ 31), w32 x.1.seq, w32 x.2, 0#32, 0#32, 0#32]
  (List.range 8).flatMap fun i => match slots[i]? with
    | some x => words x
    | none => List.replicate 6 0#32

/-- The Sluice context's section, in the model's own layout. -/
def State.saveSluice (s : State) (core ctx : Nat) : List Word :=
  let b := s.block core ctx
  let th := s.thread (sluiceOf core ctx)
  let sp := th.split 0
  (List.range 64).map (fun n => th.rd (.g n) 0) ++ (List.range 4).map (fun j => th.rd (.cc j) 0)
    ++ (List.range 3).map (fun j => th.rd (.lat j) 0) ++ (List.range 3).map (fun j => th.rd (.age j) 0)
    ++ splitWords (s.imageClk core ctx) sp ++ sluicePorts.map (fun r => th.rd r 0)
    ++ (List.range 2).map (fun k => maskWhere fun i => b.armed.getD (32 * k + i) false) ++ [w32 (b.running.getD 255)]
    ++ sluiceQueue th.ls ++ sluiceQueue th.lg ++ sluiceQueue th.lw

/-- The accumulator section: the model's header, and the rows of the claim. -/
def State.saveRows (s : State) (core ctx : Nat) : List Byte :=
  let c := (s.block core ctx).claim
  bytesOfWords [w32 c.1, w32 c.2, 0#32, 0#32]
    ++ (List.range (c.2 * 128)).flatMap fun i => leBytes 6 (Tab.get 0#48 (s.quad (quadOf core)).acc (c.1 * 128 + i)).toNat

/-- The words of a load queue, a lane's at 4 x lane, and a descriptor for each of 8 entries, in the model's own layout. -/
def queueBytes (q : LoadQ) : List Byte :=
  let slots := q.entries.flatMap fun e => (List.range (widthWords e.width)).map fun j => (e, j)
  let data (x : LoadEntry × Nat) : List Word := lanes32 fun l => match x.1.lane l with
    | some y => y.vals.getD x.2 0#32
    | none => 0#32
  let desc (x : LoadEntry × Nat) : List Word :=
    let late := x.1.lanes.filter fun y => !y.arrived
    [w32 (x.1.seq % 2 ^ 32), w32 x.2, x.1.mask, maskWhere fun l => late.any fun y => y.lane == l,
     w32 ((late.head?.map (·.addr)).getD 0), w32 ((late.head?.map (·.addr)).getD 0 / 2 ^ 32), 0#32, 0#32]
  padTo 1024 (bytesOfWords (slots.flatMap data)) ++ padTo 256 (bytesOfWords (slots.flatMap desc))

/-- A warp record (07 R144); in a scan record the frame carries what is in flight and the level (16 R328). -/
def State.warpRecord (s : State) (t : Tid) (scan : Bool) : List Byte :=
  let th := s.thread t
  let n := (s.block t.core t.ctx).nregs
  let size := page4 (12800 + 128 * n)
  if !th.live then List.replicate size 0#8
  else
    let sp := th.split th.firstSplit
    let head : FrameHead := { tepc := sp.pc, tmask := sp.mask, cause := 0, split := th.firstSplit, tval := 0#32, telem := 0 }
    let ws := frameWords (s.imageClk t.core t.ctx) false th head (if scan then flightsSorted th.flights else [])
    let ws := if scan && th.level then
        (List.range 4).foldl (fun ws i => ws.set (16 + 28 * i + 2) (ws.getD (16 + 28 * i + 2) 0#32 ||| 0x20000000#32)) ws
      else ws
    let regs := (List.range n).flatMap fun g => (List.range 32).flatMap fun l => bytesOf (th.rd (.g g) l)
    padTo size (padTo 8192 (bytesOfWords ws) ++ padTo 4096 (queueBytes th.ls ++ queueBytes th.lg ++ queueBytes th.lw)
      ++ padTo 512 (bytesOfWords ((List.range n).map fun g => th.tags (.g g))) ++ regs)

/-- A block's image in the layout of the save area (07 R142). -/
def State.blockImage (s : State) (core ctx : Nat) (scan : Bool) : List Byte :=
  let b := s.block core ctx
  let recs := s.recordsOf core ctx
  padTo 256 (bytesOfWords (s.saveHeader core ctx)) ++ padTo 128 (bytesOfWords b.k) ++ padTo 128 (s.saveDecisions core ctx)
    ++ bytesOfWords ((List.range 8).flatMap fun i => Progress.words (b.progress.getD i Progress.free))
    ++ bytesOfWords ((List.range 8).flatMap (s.saveDescriptor core ctx))
    ++ padTo 64 ((s.core core).sems.flatMap fun v => leBytes 2 v.toNat) ++ List.replicate 128 0#8
    ++ padTo 256 (bytesOfWords (b.barriers.flatMap Barrier.words)) ++ padTo 64 (bytesOfWords b.syncWords)
    ++ padTo 256 (bytesOfWords recs) ++ bytesOf (w32 (min 64 recs.length)) ++ List.replicate 444 0#8
    ++ padTo 2048 (bytesOfWords b.shapes.flatten) ++ padTo 4096 (bytesOfWords (s.saveSluice core ctx))
    ++ s.scratchBytes core b.scratchBase b.scratchSize ++ padTo (page4 (16 + 768 * b.claim.2)) (s.saveRows core ctx)
    ++ (List.range b.warps).flatMap fun w => s.warpRecord { core := core, ctx := ctx, slot := w } scan

/-! ## SAVE (07 R141) -/

/-- Nothing that a block has issued is still on its way: engine commands stand parked or faulted, stores, atomics and object
operations are performed, results have come, scratch loads have been read. -/
def State.blockQuiet (s : State) (core ctx : Nat) : Bool :=
  let mine (t : Tid) : Bool := t.core == core && t.ctx == ctx
  let c := s.core core
  s.blockStopped core ctx && (s.cmds.all fun d => !d.of core ctx || d.stage = 3 || d.stage = 4)
    && c.stores.all (fun x => !mine x.tid) && c.atoms.all (fun x => !mine x.tid)
    && s.cores.all (fun e => e.2.objq.all fun o => !mine o.tid)
    && (s.blockThreads core ctx).all fun t =>
      let th := s.thread t
      th.fills.isEmpty && th.ls.entries.all fun e => e.lanes.all (·.arrived)

/-- The lines that the save's fence has to publish. -/
def State.saveLines (s : State) (core ctx : Nat) : List Nat :=
  ((s.blockThreads core ctx).flatMap s.observedLines).eraseDups

/-- A block that has stopped is saved now. -/
def State.saveMay (s : State) (core ctx : Nat) : Bool :=
  let b := s.block core ctx
  let quad := quadOf core
  b.resident && b.yield.any (fun a => a % 4096 == 0)
    && (s.yieldMates core ctx).all (fun p => s.blockQuiet p.1 p.2) && (s.die (dieOf core)).nextLog.isNone
    && (s.saveLines core ctx).all fun k =>
      let x := s.qline quad k
      !(s.qline quad (s.dirKey x.fn k)).locked && s.answered quad (s.dirKey x.fn k)

/-- The pages of a save area translate for writing. -/
def State.areaOk (s : State) (fn area n : Nat) : Bool :=
  (pagesOf area n).all fun p => match s.translate fn p 1 with
    | .ok _ => true
    | _ => false

/-- A generation of which a block moves: the block's place changes; its line is given up and what its release had come to is void, for it
continues on a newly allocated line once its blocks are back (06 R131). -/
def Weir.move (w : Weir) (p q : Nat × Nat) : Weir :=
  let swap (x : Nat × Nat) : Nat × Nat := if x = p then q else x
  { w with
    blocks := w.blocks.map swap, arrived := w.arrived.map swap, logs := w.logs.filter fun x => x.1 != p, line := false, lastCycle := none,
    gathered := [], restart := none, acks := [], proposed := [], confirmed := false }

/-- A block of a launch moves: so do the SYNC generations under way in which it takes part (06 R131). -/
def State.moveWeirs (s : State) (lid : Nat) (p q : Nat × Nat) : State :=
  { s with weirs := s.weirs.map fun e =>
      if e.2.blocks.contains p || (7 ≤ e.2.scope && e.2.lid = lid) then (e.1, e.2.move p q) else e }

/-- The generations of a launch take free lines. -/
def State.takeLines (s : State) (lid : Nat) : State :=
  s.weirs.foldl (fun s e => if e.2.lid = lid then s.takeLine e.1 else s) s

/-- What the save keeps of a block (log 15). -/
def State.savedOf (s : State) (core ctx area : Nat) (image : List Byte) : Saved :=
  let q := s.quad (quadOf core)
  let b := s.block core ctx
  let req := s.leasePending core ctx
  let lo := (core * 2 + ctx) * 64
  { present := true, area := area, block := b,
    threads := (Tab.within s.threads lo (lo + 64)).filterMap fun e => if e.2.live then some (e.1 - lo, e.2) else none,
    sems := (s.core core).sems, evs := s.recordsOf core ctx, leaseHeld := q.leaseHolder == some (core, ctx),
    leasePending := req.isSome,
    leaseCount := if q.leaseHolder == some (core, ctx) then q.leaseLeft else (req.map (·.count)).getD 0,
    cmds := s.cmds.filter fun c => c.of core ctx,
    acc := Tab.within q.acc (b.claim.1 * 128) ((b.claim.1 + b.claim.2) * 128),
    scratch := cellsAt 0 (s.scratchBytes core b.scratchBase b.scratchSize), split := (s.core core).split,
    quad := quadOf core, core := core, clk := s.clk, elapsed := s.elapsed core ctx, image := image }

/-- SAVE (07 R141 steps 4 to 6): the fence, the save area, the model's own copy; then the core is free of the block. A save write
that faults fences the function. -/
def execSave (core ctx : Nat) (s : State) : Host.Outcome State Fault Refusal :=
  s.happens (fun s => s.saveMay core ctx) fun s =>
    let s := (s.saveLines core ctx).foldl (fun s k => s.publishNow (quadOf core) k) s
    let b := s.block core ctx
    let area := b.yield.getD 0
    let image := s.blockImage core ctx false
    if !s.areaOk b.fn area image.length then s.fence b.fn
    else
      let s := (pagesOf area image.length).foldl (fun s p => match s.translate b.fn p 1 with
        | .ok leaf => s.recordUse b.fn p leaf
        | _ => s) s
      let v := s.savedOf core ctx area image
      let s := (s.sysWrite b.fn area image).moveWeirs b.lid (core, ctx) (savedPlace s.saved.length)
      let s : State := { s with saved := s.saved ++ [v], cmds := s.cmds.filter fun c => !c.of core ctx }
      s.vacate core ctx

/-! ## RESUME (07 R145, R146, R365) -/

/-- The bytes of a save area that may be changed before the resume (07 R365). -/
def Saved.mayChange (v : Saved) (i : Nat) : Bool :=
  let b := v.block
  let warps := 0x2000 + b.scratchSize + page4 (16 + 768 * b.claim.2)
  let z := page4 (12800 + 128 * b.nregs)
  let o := (i - warps) % z
  (0x100 ≤ i && i < 0x180) || (0x2000 ≤ i && i < 0x2000 + b.scratchSize)
    || (warps ≤ i && 0x3000 ≤ o && o < 0x3200 + 128 * b.nregs)

/-- A byte that must stay has been changed. -/
def State.areaSpoilt (s : State) (v : Saved) : Bool :=
  let now := s.sysBytes v.block.fn v.area v.image.length
  (List.range v.image.length).any fun i => !v.mayChange i && now.getD i 0#8 != v.image.getD i 0#8

/-- A word of a save area as it stands. -/
def State.areaWord (s : State) (v : Saved) (off : Nat) : Word := s.sysWord v.block.fn (v.area + off)

/-- A split of a resumed thread: counts go on from their saved values. A wait at an acquire or a fence is over: the save's fence and the resume's
acquire have completed it (06 R115). -/
def Split.back (sp : Split) (was clk : Nat) : Split :=
  if !sp.live then sp
  else { sp with
    ready := if sp.ready = 0 then 0 else clk + (sp.ready - was), lastIssue := clk, stopped := false, want := none, fetch := none,
    parked := [], owes := [], page := none, arrive := .restored,
    wait := if sp.wait.kind = 5 then WaitRec.none_ else sp.wait,
    place := if sp.wait.kind = 0 || sp.wait.kind = 5 then .entry clk else .away }

/-- A thread of a resumed block, its general registers and poison tags as the save area now holds them. -/
def State.threadBack (s : State) (v : Saved) (slot : Nat) (th : Thread) : Thread :=
  let reissued (q : LoadQ) : LoadQ :=
    { q with entries := q.entries.map fun e => { e with lanes := e.lanes.map fun l => { l with missed := false, served := false, part := none } } }
  let th := { th with
    splits := th.splits.map fun sp => sp.back v.clk s.clk, acqs := [], seen := [],
    ls := reissued th.ls, lg := reissued th.lg, lw := reissued th.lw }
  if slot = 32 then th
  else
    let at_ := 0x2000 + v.block.scratchSize + page4 (16 + 768 * v.block.claim.2) + slot * page4 (12800 + 128 * v.block.nregs)
    let th := (List.range v.block.nregs).foldl (fun th g =>
      (th.wrMask (.g g) (BitVec.allOnes 32) fun l => s.areaWord v (at_ + 0x3200 + (32 * g + l) * 4)).setTags (.g g)
        (BitVec.allOnes 32) (s.areaWord v (at_ + 0x3000 + 4 * g))) th
    th

/-- The records of a command, read again from the block's shape table (10 R198). -/
def Cmd.reread (c : Cmd) (b : Block) : Cmd :=
  let slots : List Nat := match c.engine, c.opcode with
    | 0, 0 | 0, 3 => [c.a.bits 5 0]
    | 0, 2 => [c.a.bits 5 0, c.a.bits 5 0 + 1]
    | 0, _ => []
    | _, 0 => [copySrc c.t, copyDst c.t]
    | _, 1 => [copySrc c.t, copyDst c.t, copySrc c.t + 1]
    | _, 2 => [copySrc c.t, copyDst c.t, copyDst c.t + 1]
    | _, 7 => [copyDst c.t]
    | _, _ => []
  { c with recs := slots.map b.shape }

/-- A command on the block's new core: a parked copy command starts, a collective waits for its parties. -/
def Cmd.back_ (c : Cmd) (core ctx : Nat) (b : Block) (powered : BitVec 4) : Cmd :=
  { c.reread b with
    core := core, ctx := ctx, sbase := b.scratchBase, tseq := 0, mask := c.mask &&& powered,
    stage := if c.engine ≠ 0 && c.stage = 3 && !c.collective then 0 else c.stage }

/-- The launch's bind record. -/
def State.bindOf (s : State) (fn q : Nat) : Bind :=
  match s.boundSlot fn q with
  | some slot => Tab.get Bind.empty s.binds slot
  | none => Bind.empty

/-- A core can take a saved block, its group apart (07 R145, 05 R98, R101). One that held a lease comes back on no core of a quad in paired mode,
which has no lease to give: the rules do not say what becomes of it there (DESIGN CHOICE; log 75). -/
def State.resumeCore (s : State) (v : Saved) (core : Nat) : Bool :=
  let b := v.block
  s.coreTakes b.lid (s.bindOf b.fn (s.launch b.lid).queue) core && !s.claimMeets core (s.freeCtx core) b.claim
    && s.stageOk b.lid (dieOf core) && (s.die (dieOf core)).nextLog.isNone && !(v.leaseHeld && (s.core core).mxmode.bit 0)

/-- The core lies on the half of a pair of dies on which a twin group's block belongs. -/
def Block.halfFits (b : Block) (core : Nat) : Bool := !b.twin || dieOf core % 2 == b.gslot / 16

/-- Saved blocks can be given cores of their own among some. -/
def State.canSeat (s : State) : List Saved → List Nat → Bool
  | [], _ => true
  | v :: rest, cores =>
    rest.length < cores.length && cores.any fun c => v.block.halfFits c && s.resumeCore v c && s.canSeat rest (cores.filter (· != c))

/-- The places of a saved block's group that is resident. -/
def State.groupHere (s : State) (b : Block) : List (Nat × Nat) :=
  let size := (s.launch b.lid).groupSize
  s.residents.filter fun p =>
    let o := s.block p.1 p.2
    b.grouped && o.lid == b.lid && o.block / size == b.block / size

/-- The core is one where a group's block may go: beside its resident mates on their die, or their pair of dies, on a core of its own; the
first comes back only where the whole group finds cores on one die, or one pair (05 R111). -/
def State.groupFits (s : State) (i : Nat) (b : Block) (core : Nat) : Bool :=
  let size := (s.launch b.lid).groupSize
  let pair (c : Nat) : Bool := if b.twin then dieOf c / 2 == dieOf core / 2 else dieOf c == dieOf core
  let here := s.groupHere b
  let away := s.saved.zipIdx.filter fun v =>
    v.2 != i && v.1.present && b.grouped && v.1.block.lid == b.lid && v.1.block.block / size == b.block / size
  b.halfFits core && here.all (fun p => pair p.1 && p.1 != core)
    && (!here.isEmpty || s.canSeat (away.map (·.1)) ((List.range 256).filter fun c => pair c && c != core))

/-- A saved block can be resumed on a core (07 R145). -/
def State.resumeMay (s : State) (i core : Nat) : Bool :=
  match s.saved[i]? with
  | none => false
  | some v =>
    let b := v.block
    let l := s.launch b.lid
    v.present && !l.frozen && !(s.fn b.fn).fenced && (s.boundSlot b.fn l.queue).isSome && s.resumeCore v core && s.groupFits i b core

/-- Posts the saved records ahead of what the resumed block will post (07 R145 step 1). -/
def State.repost (s : State) (core ctx : Nat) (ws : List Word) : State :=
  let mine (w : Word) : Word := (w &&& ~~~0x20000000#32) ||| (if ctx = 1 then 0x20000000#32 else 0#32)
  ws.foldl (fun s w => s.postRecord core (mine w)) s

/-- A split whose clocks stood still for `d` cycles. -/
def Split.later (sp : Split) (d : Nat) : Split :=
  { sp with
    ready := if sp.ready = 0 then 0 else sp.ready + d, lastIssue := sp.lastIssue + d,
    wait := if (sp.wait.kind = 1 || sp.wait.kind = 2) && sp.wait.due ≠ 0 then { sp.wait with due := sp.wait.due + d } else sp.wait }

/-- A thread whose clocks stood still for `d` cycles. A waiting half's delay is a number of cycles from its JOIN, which itself moves. -/
def Thread.later (th : Thread) (d : Nat) : Thread :=
  let fill (f : Fill) : Fill := { f with due := f.due + d }
  { th with
    flights := th.flights.map fun f => { f with due := f.due + d }, fills := th.fills.map fill,
    aside := th.aside.map fun a => { a with fills := a.fills.map fill }, splits := th.splits.map fun sp => sp.later d,
    joins := th.joins.map fun e => if e.used then { e with since := e.since + d, first := e.first + d } else e }

/-- A block waits for its lease no more: its counts and its task's cycles go on from where they stood (07 R145 step 7). -/
def State.leaseOver (s : State) (core ctx : Nat) : State :=
  match (s.block core ctx).leaseWait with
  | none => s
  | some c =>
    let d := s.clk - c
    let s := (s.blockThreads core ctx).foldl (fun s t => s.modThread t fun th => th.later d) s
    s.modBlock core ctx fun b => { b with leaseWait := none, paused := b.paused + d, pauseFrom := none, mayPick := b.mayPick + d }

/-- The end of a restoration (07 R145 step 6, R146): parked matrix commands go on up to the first whose weights are not
latched; where one stays parked trap 0x18 strikes before the first bundle. -/
def State.finishResume (s : State) (core ctx : Nat) : State :=
  let parked := s.cmds.filter fun c => c.of core ctx && c.engine == 0 && c.stage == 3
  let match_ (c : Cmd) : Bool := c.opcode ≠ 2 || s.latchedTag core = some c.wtag
  let go := parked.takeWhile match_
  let s : State := go.foldl (fun s c => (s.modCmd c fun d => { d with stage := 0 }).modProgress c fun r => { r with state := 1 }) s
  let s := s.leaseOver core ctx
  match parked.dropWhile match_ with
  | [] => s
  | c :: _ =>
    let b := s.block core ctx
    let t : Tid := if !b.tasks.isEmpty then sluiceOf core ctx
      else if (s.thread c.issuer).live then c.issuer
      else (s.blockWarps core ctx).headD c.issuer
    let th := s.thread t
    s.takeTrap t th.firstSplit
      { cause := 0x18, tval := w32 c.tag, telem := (s.progressOf c).next, tepc := (th.split th.firstSplit).pc }

/-- Restores a saved block on a core (07 R145 steps 1 to 5 and 7). -/
def State.restoreBlock (s : State) (i core : Nat) (v : Saved) : State :=
  let l := s.launch v.block.lid
  let bind := s.bindOf v.block.fn l.queue
  let first := (s.coreBlocks core).isEmpty
  let ctx := s.freeCtx core
  let base := (s.regionBase core v.block.scratchSize (configScratch bind.config)).getD 0
  let powered := (s.quad (quadOf core)).powered
  let b := { v.block with
    scratchBase := base, yield := none, yieldFrom := 0, leaseWait := if v.leaseHeld then some s.clk else none, frozen := none,
    late := [], mayPick := s.clk, bandMask := v.block.bandMask &&& powered,
    k := (List.range 32).map fun j => s.areaWord v (0x100 + 4 * j),
    firstIssue := v.block.firstIssue.map fun _ => s.clk - v.elapsed, paused := 0,
    pauseFrom := if v.leaseHeld then some s.clk else none,
    progress := v.block.progress.zipIdx.map fun p =>
      if v.cmds.any (fun c => c.pr == p.2 && c.engine != 0 && c.stage == 3 && !c.collective) then { p.1 with state := 1 } else p.1 }
  let s := if first then s.modCore core fun c => { c.takeFirst v.block.fn bind with sems := v.sems }
    else (List.range 32).foldl (fun s j => s.semAdd core j (v.sems.getD j 0#16).toNat) s
  let s := s.setBlock core ctx b
  let s := s.scratchWrite core (cellsAt base (s.sysBytes b.fn (v.area + 0x2000) b.scratchSize))
  let s := s.modQuad (quadOf core) fun q => { q with acc := v.acc.foldl (fun m e => Tab.set 0#48 m e.1 e.2) q.acc }
  let s := v.threads.foldl (fun s e => s.setThread { core := core, ctx := ctx, slot := e.1 } (let old := s.thread { core := core, ctx := ctx, slot := e.1 }
    { s.threadBack v e.1 e.2 with seq := max e.2.seq old.seq, releases := old.releases })) s
  let s := s.repost core ctx v.evs
  let s := (s.blockThreads core ctx).foldl (fun s t => (s.acquire t 9).syncPlaces t) s
  let s : State := { s with
    saved := s.saved.set i { v with present := false },
    cmds := s.cmds ++ v.cmds.map fun c => c.back_ core ctx b powered }
  let s := (s.moveWeirs v.block.lid (savedPlace i) (core, ctx)).takeLines v.block.lid
  if v.leaseHeld || v.leasePending then
    s.modQuad (quadOf core) fun q => { q with leaseReqs := q.leaseReqs ++ [{ core := core, ctx := ctx, count := v.leaseCount }] }
  else s

/-- RESUME (07 R145): the block is restored from its area. Where a byte that must stay has been changed, what it does is not
defined within bounds: it goes on as it was saved, or its work-group ends (log 15). -/
def execResume (i core : Nat) (s : State) : Host.Outcome State Fault Refusal :=
  s.happens (fun s => s.resumeMay i core) fun s =>
    match s.saved[i]? with
    | none => s
    | some v =>
      let ctx := s.freeCtx core
      let spoilt := s.areaSpoilt v
      let ends := spoilt && Config.choice s.draws % 2 = 1
      let s := s.restoreBlock i core v
      let s := if v.leaseHeld then s else s.finishResume core ctx
      if spoilt then (if ends then s.endWorkGroup core ctx else s).drawn else s

/-- LEASE_GRANT (10 R194): in the order of the requests; a resumed block that has waited for its lease goes on. -/
def execLeaseGrant (quad : Nat) (s : State) : Host.Outcome State Fault Refusal :=
  s.happens (fun s => s.leaseDue quad) fun s =>
    match (s.quad quad).leaseReqs with
    | [] => s
    | r :: rest =>
      let b := s.block r.core r.ctx
      let s := s.modQuad quad fun q =>
        ({ q with leaseReqs := rest, leaseHolder := some (r.core, r.ctx), leaseLeft := r.count }).passTo b.fn
      if b.leaseWait.isSome then s.finishResume r.core r.ctx
      else s.modThread (sluiceOf r.core r.ctx) fun th =>
        { th with splits := th.splits.map fun (sp : Split) => { sp with lease := false } }

/-! ## The freeze wire (07 R148) -/

/-- The resident blocks of jobs. -/
def State.jobBlocks (s : State) (lids : List Nat) : List (Nat × Nat) :=
  s.residents.filter fun p => lids.contains (s.block p.1 p.2).lid

/-- FREEZE_WIRE (07 R148): the clocks of every unit that serves the jobs stop. -/
def execFreezeWire (lids : List Nat) (s : State) : Host.Outcome State Fault Refusal :=
  s.happens (fun _ => true) fun s =>
    let s := (s.jobBlocks lids).foldl (fun s p => s.modBlock p.1 p.2 fun b => { b with frozen := some (b.frozen.getD s.clk) }) s
    lids.foldl (fun s l => if (Tab.get Launch.empty s.launches l) = Launch.empty then s
      else s.modLaunch l fun x => { x with frozen := true }) s

/-- A block's clocks run again (07 R148): what counts goes on as if only time had passed. -/
def State.thawBlock (s : State) (core ctx : Nat) : State :=
  match (s.block core ctx).frozen with
  | none => s
  | some c =>
    let d := s.clk - c
    let after (x : Nat) : Nat := if c < x then x + d else x
    let s := (s.blockThreads core ctx).foldl (fun s t => s.modThread t fun th => th.later d) s
    let s := s.modCore core fun k =>
      { k with
        tileLate := k.tileLate.map fun x => if x.1 = ctx then (x.1, x.2.1 + d, x.2.2) else x,
        sluiceDiv := k.sluiceDiv.set ctx (after (k.sluiceDiv.getD ctx 0)) }
    s.modBlock core ctx fun b =>
      { b with frozen := none, paused := b.paused + d, pauseFrom := b.pauseFrom.map (· + d), mayPick := b.mayPick + d,
               leaseWait := b.leaseWait.map (· + d) }

/-- The pipelines that the warps of a core share stood still with them, where no block of the core ran on (07 R148). -/
def State.thawLanes (s : State) (core c : Nat) : State :=
  if (s.coreBlocks core).all fun b => b.frozen.isSome then
    let after (x : Nat) : Nat := if c < x then x + (s.clk - c) else x
    s.modCore core fun k => { k with divFree := k.divFree.map after, sFree := after k.sFree }
  else s

/-- THAW (07 R148): restarts on one cycle that lies ahead stay as far ahead. -/
def execThaw (lids : List Nat) (s : State) : Host.Outcome State Fault Refusal :=
  s.happens (fun _ => true) fun s =>
    let since := (s.jobBlocks lids).filterMap fun p => (s.block p.1 p.2).frozen
    let d := s.clk - since.foldl min s.clk
    let s : State := { s with weirs := s.weirs.map fun e => if lids.contains e.2.lid then
        (e.1, { e.2 with restart := e.2.restart.map (· + d), lastCycle := e.2.lastCycle.map (· + d) }) else e }
    let s := (((s.jobBlocks lids).map (·.1)).eraseDups).foldl (fun s core => s.thawLanes core (s.clk - d)) s
    let s := (s.jobBlocks lids).foldl (fun s p => s.thawBlock p.1 p.2) s
    lids.foldl (fun s l => if (Tab.get Launch.empty s.launches l) = Launch.empty then s
      else s.modLaunch l fun x => { x with frozen := false }) s

/-- ABANDON (07 R148): the block is treated as struck by an unrecoverable fault; once no frozen block of its job is left, the job is frozen no
longer (DESIGN CHOICE; log 48). -/
def execAbandon (core ctx : Nat) (s : State) : Host.Outcome State Fault Refusal :=
  s.happens (fun s => (s.block core ctx).frozen.isSome) fun s =>
    let lid := (s.block core ctx).lid
    let s := s.endWorkGroup core ctx
    if (s.jobBlocks [lid]).any fun p => (s.block p.1 p.2).frozen.isSome then s
    else s.modLaunch lid fun x => { x with frozen := false }

/-! ## The scan path (16 R328) -/

/-- A core that the scan path can read: it holds a frozen block, or stands in debug mode. -/
def State.scannable (s : State) (core : Nat) : Bool :=
  (s.core core).stopped || (s.coreThreads core).any (fun t => (s.thread t).dbgStop)
    || [0, 1].any fun x => (s.block core x).frozen.isSome

/-- The contexts of a core that a scan record of a job shows: frozen ones; where there are none, all. -/
def State.scanBlocks (s : State) (core : Nat) : List Nat :=
  let all := [0, 1].filter fun x => (s.block core x).resident
  let frozen := all.filter fun x => (s.block core x).frozen.isSome
  if frozen.isEmpty then all else frozen

/-- A core section (16 R328). -/
def State.coreSection (s : State) (core : Nat) : List Byte :=
  let c := s.core core
  let xs := s.scanBlocks core
  let swtab := (xs.head?.map fun x => (s.block core x).swtab).getD 0#32
  let head := padTo 0x40 (bytesOfWords [w32 (dieOf core * 256 + core % 64), w32 xs.length])
    ++ padTo 0x40 (c.sems.flatMap fun v => leBytes 2 v.toNat) ++ padTo 256 (bytesOfWords c.evq)
    ++ padTo 16 (bytesOf (w32 (c.evq.length * 2 ^ 16))) ++ padTo 64 (bytesOfWords c.tilest)
    ++ bytesOfWords [c.ashape, c.split, c.level, swtab, c.dbgctl, c.mxmode, c.mxwin]
  padTo 0x400 head ++ xs.flatMap fun x => s.blockImage core x true

/-- A scan record of cores. -/
def State.scanRecord (s : State) (cores : List Nat) : List Byte :=
  let cs := (List.range 256).filter fun c => cores.contains c && s.scannable c
  let body := cs.flatMap s.coreSection
  let fn := (cs.flatMap fun c => (s.scanBlocks c).map fun x => (s.block c x).fn).headD 0
  let at_ := ((cs.flatMap fun c => (s.scanBlocks c).filterMap fun x => (s.block c x).frozen).head?).getD s.clk
  padTo 64 (bytesOfWords [2#32, w32 fn, w32 at_, w32 (at_ / 2 ^ 32), w32 cs.length, w32 (64 + body.length)]) ++ body

/-- SCAN_READ (16 R328). -/
def execScanRead (cores : List Nat) (s : State) : Host.Outcome State Fault Refusal :=
  s.happens (fun s => cores.any s.scannable) fun s => s.emit (.scanRecord (s.scanRecord cores))

/-- SCAN_WRITE_BACK (16 R328): a general register below 128; under 128 a word of the block's scratchpad region, under 129 a word of
the function's memory, at the offset or address that stands in the lane's place. -/
def execScanWriteBack (t : Tid) (reg l : Nat) (w : Word) (s : State) : Host.Outcome State Fault Refusal :=
  let b := s.block t.core t.ctx
  s.happens (fun s => s.scannable t.core && b.resident) fun s =>
    if reg < b.nregs then (if l < 32 then s.modThread t fun th => th.wr (.g reg) l w else s)
    else if reg = 128 then
      (if l % 4 = 0 && l + 4 ≤ b.scratchSize then s.scratchWrite t.core (cellsAt (b.scratchBase + l) (bytesOf w)) else s)
    else if reg = 129 && l % 4 = 0 then
      match s.translate b.fn l 1 with
      | .ok _ => s.sysWrite b.fn l (bytesOf w)
      | _ => s
    else s

end Sys2Proof.Machine
end

