-- ==== Sys2Proof/Machine/Recovery.lean ====
section
/-! DEFINITION. Soft errors, lost dies, agents that rejoin, and links (16 R331 to R334). -/

namespace Sys2Proof.Machine

/-! ## Soft errors (16 R331) -/

/-- The die, and the number of the store in the table of R331, that an error is counted for. -/
def errorPlace : ErrorSite → Nat × Nat
  | .dram d _ => (d, 0)
  | .homeCache d _ => (d, 1)
  | .quadCache q _ => (dieOfQuad q, 1)
  | .l1 c _ => (dieOf c, 2)
  | .weightStore d _ => (d, 3)
  | .general t _ _ => (dieOf t.core, 4)
  | .scratch c _ => (dieOf c, 4)
  | .accumulator q _ => (dieOfQuad q, 5)
  | .plane q => (dieOfQuad q, 5)

/-- A saturating 32-bit count. -/
def countUp (w : Word) : Word := if w = BitVec.allOnes 32 then w else w + 1#32

/-- Counts an error (24 R358). -/
def State.countError (s : State) (site : ErrorSite) (hard : Bool) : State :=
  let (die, i) := errorPlace site
  s.modDie die fun d =>
    if hard then { d with uncorr := d.uncorr.set i (countUp (d.uncorr.getD i 0#32)) }
    else { d with corr := d.corr.set i (countUp (d.corr.getD i 0#32)) }

/-- An uncorrectable error in a quad-cache line: a sector with local bytes, or of an owned line, is poisoned at the home; clean
data is fetched again, unseen. -/
def State.strikeLine (s : State) (quad key sector : Nat) : State :=
  let x := s.qline quad key
  let hit (i : Nat) : Bool := i / 32 == sector
  let locals := (List.range 128).any fun i => hit i && x.lmask.getLsbD i
  if !locals && x.state ≠ 2 then s
  else
    let m : BitVec 4 := BitVec.ofNat 4 (2 ^ sector)
    let s := s.poisonHome x.fn key m
    let left := (List.range 128).foldl (fun (b : BitVec 128) i => if hit i then b &&& ~~~BitVec.ofNat 128 (2 ^ i) else b) x.lmask
    let s := s.modQLine quad key fun y => { y with lmask := left, heal := y.heal &&& ~~~m, poison := if y.state ≠ 0 then y.poison ||| m else y.poison }
    if locals && left = 0#128 then s.linePublished quad key else s

/-- What an uncorrectable error does to a store. Whether a line of a home cache is clean, and is fetched again, or differs from DRAM, so that
its sector is poisoned, is free: no rule says when a home cache writes a line to DRAM (DESIGN CHOICE; log 52). -/
def State.strike (s : State) : ErrorSite → State
  | .dram d a => { s with poison := Tab.set false s.poison ((d * 2 ^ 37 + a % 2 ^ 37) / 32) true }
  | .homeCache d a => if Config.choice s.draws % 2 = 0 then s.drawn
    else { s with poison := Tab.set false s.poison ((d * 2 ^ 37 + a % 2 ^ 37) / 32) true }.drawn
  | .quadCache q key => (s.strikeLine q key (Config.choice s.draws % 4)).drawn
  | .l1 c key => s.modCore c fun x => { x with l1 := x.l1.filter fun l => l.key != key, icode := Tab.erase x.icode key }
  | .weightStore d off => s.modDie d fun x => { x with wsPoison := Tab.set false x.wsPoison (off % 2 ^ 28 / 32) true }
  | .general t reg l =>
    if 1024 ≤ reg then s.modBlock t.core t.ctx fun b => if b.resident then { b with kBad := b.kBad ++ [reg - 1024] } else b
    else s.modThread t fun th => if th.live then { th with bad := Tab.set false th.bad (reg * 32 + l % 32) true } else th
  | .scratch c a => s.modCore c fun x => { x with scratchPoison := Tab.set false x.scratchPoison (a / 4) true }
  | .accumulator q row => s.modQuad q fun x => { x with accBad := Tab.set false x.accBad (row % 512) true }
  | .plane q => s.modQuad q fun x => { x with planeBad := x.planeBad || x.latched || x.latchA.filled || x.latchB.filled }

/-- SOFT_ERROR (16 R331): a corrected error changes no result; both kinds are counted. -/
def execSoftError (site : ErrorSite) (hard : Bool) (s : State) : Host.Outcome State Fault Refusal :=
  s.happens (fun _ => true) fun s =>
    let s := s.countError site hard
    if hard then s.strike site else s

/-! ## Lost dies (16 R332) -/

/-- A range entry can home memory on a die, by interleave or by pinning (16 R332 step 2). -/
def Range.homesOn (r : Range) (die : Nat) : Bool :=
  r.valid && (match r.policy with
    | 0 => true
    | 1 | 2 => r.die == die
    | _ => false)

/-- The functions with a range that can home memory on a die. -/
def State.homedOn (s : State) (die : Nat) : List Nat :=
  s.fns.filterMap fun e => if e.2.ranges.any fun r => Range.homesOn r die then some e.1 else none

/-- A quad cache is lost with its die (14 R284). -/
def State.dropQuadCache (s : State) (quad : Nat) : State :=
  if (s.quad quad).lines.isEmpty then s.modQuad quad fun q => { q with lost := true }
  else
    let s := s.spliceOut quad
    ({ s with grants := s.grants.filter fun g => g.quad != quad } : State).modQuad quad fun q =>
      { q with lines := [], grants := [], grantWant := [], asleep := false, lost := true }

/-- A die is lost (16 R332 steps 1 to 5). -/
def State.loseDie (s : State) (die : Nat) : State :=
  let s := s.modDie die fun d => { d with lost := true }
  let s := (s.homedOn die).foldl (fun s f => s.fence f) s
  let s := (s.residents.filter fun p => dieOf p.1 == die).foldl (fun s p =>
    if !(s.block p.1 p.2).resident then s
    else if (s.launch (s.block p.1 p.2).lid).idempotent then s.endWorkGroup p.1 p.2
    else s.fence (s.block p.1 p.2).fn) s
  let s := (List.range 16).foldl (fun s i => s.dropQuadCache (die * 16 + i)) s
  let s := (List.range 64).foldl (fun s i =>
    if Tab.get Core.reset s.cores (die * 64 + i) = Core.reset then s
    else s.modCore (die * 64 + i) fun c => { c with stores := [], atoms := [], objq := [], l1 := [], icode := [] }) s
  let s := s.modDie die fun d => { d with dir := [], objs := Die.reset.objs, leaves := [], faults := [], verdicts := [], buffer := [] }
  s.passRills die

/-- DIE_LOSS (16 R332). -/
def execDieLoss (die : Nat) (s : State) : Host.Outcome State Fault Refusal :=
  s.happens (fun s => die < 4 && !(s.die die).lost) fun s => s.loseDie die

/-! ## Agents that rejoin (16 R333) -/

/-- A quad cache rejoins: spliced out, every line invalid, its incarnation number risen and recorded by every home. What its former incarnation
has under way to it or from it carries an older number, and is dropped where it arrives. -/
def State.rejoinQuad (s : State) (quad : Nat) : State :=
  let s := (s.spliceOut quad).modQuad quad fun q =>
    { q with lines := [], grants := [], grantWant := [], asleep := false, lost := false, incarnation := q.incarnation + 1#16 }
  s.recordInc quad (s.quad quad).incarnation

/-- A die rejoins: its cores, quads and home agent as after reset, its incarnation numbers and those of its quad caches risen and recorded by
every die; it goes on recording those of the others. -/
def State.rejoinDie (s : State) (die : Nat) : State :=
  let s := (List.range 16).foldl (fun s i =>
    let q := die * 16 + i
    s.setQuad q { Quad.reset with incarnation := (s.quad q).incarnation + 1#16 }) s
  let s := (List.range 64).foldl (fun s i => s.setCore (die * 64 + i) Core.reset) s
  let s : State := { s with dispatchers := Tab.erase s.dispatchers die }
  let s := s.modDie die fun d => { Die.reset with
    incarnation := d.incarnation + 1#16, known := d.known, applied := s.pack.invSeq, corr := d.corr, uncorr := d.uncorr, offline := d.offline }
  let s := s.recordInc (64 + die) (s.die die).incarnation
  (List.range 16).foldl (fun s i => s.recordInc (die * 16 + i) (s.quad (die * 16 + i)).incarnation) s

/-- AGENT_REJOIN (16 R333). -/
def execAgentRejoin (agent : Agent) (s : State) : Host.Outcome State Fault Refusal :=
  match agent with
  | .quadCache q => s.happens (fun s => (s.quad q).lost && !(s.die (dieOfQuad q)).lost) fun s => s.rejoinQuad q
  | .die d => s.happens (fun s => (s.die d).lost) fun s => s.rejoinDie d

/-! ## Links (16 R334) -/

/-- Changes a link. -/
def State.modLink (s : State) (i : Nat) (f : Link → Link) : State :=
  { s with pack := { s.pack with links := s.pack.links.set i (f (s.pack.links.getD i Link.reset)) } }

/-- A link that is up. -/
def State.linkUp (s : State) (i : Nat) : Bool := i < 20 && (s.pack.links.getD i Link.reset).up

/-- The flit on the link is to be replayed, behind those that wait for their acknowledgement. -/
def Link.replay (l : Link) : Link := { l with unacked := l.unacked ++ [l.flit], flit := l.flit + 1 }

/-- LINK_CRC_ERROR (16 R334): the flits that are not acknowledged are replayed in order; the receiver drops duplicates, so that
nothing else changes. -/
def execLinkCrcError (i : Nat) (s : State) : Host.Outcome State Fault Refusal :=
  s.happens (fun s => s.linkUp i) fun s => s.modLink i Link.replay

/-- LINK_WIDTH_CHANGE (16 R334): full, half or quarter width, at a flit boundary, with a replay. -/
def execLinkWidthChange (i width : Nat) (s : State) : Host.Outcome State Fault Refusal :=
  s.happens (fun s => s.linkUp i && (width = 4 || width = 2 || width = 1)) fun s =>
    s.modLink i fun l => { l.replay with width := width }

/-- LINK_DOWN (16 R334): a mesh link goes down, and its traffic goes the other way round, where what is not acknowledged is replayed before new
traffic of that path; a die without a link is lost (R332). -/
def execLinkDown (i : Nat) (s : State) : Host.Outcome State Fault Refusal :=
  s.happens (fun s => i < 4 && s.linkUp i) fun s =>
    let s := s.modLink i fun l => { l.replay with up := false }
    (List.range 4).foldl (fun s d =>
      if !(s.die d).lost && !s.linkUp d && !s.linkUp ((d + 3) % 4) then s.loseDie d else s) s

/-- A function has a range homed on another package (14 R264 policy 3). -/
def State.homedAway (s : State) (pkg : Nat) : List Nat :=
  s.fns.filterMap fun e => if e.2.ranges.any fun r => r.valid && Range.policy r == 3 && Range.remote r == pkg then some e.1 else none

/-- POD_ROUTE_LOST (16 R334): every function with a range homed on the package is fenced. -/
def execPodRouteLost (pkg : Nat) (s : State) : Host.Outcome State Fault Refusal :=
  s.happens (fun s => !s.pack.lostPods.contains pkg) fun s =>
    let s : State := { s with pack := { s.pack with lostPods := s.pack.lostPods ++ [pkg] } }
    (s.homedAway pkg).foldl (fun s f => s.fence f) s

end Sys2Proof.Machine
end

