-- ==== Sys2Proof/Machine/Sluice.lean ====
section
/-! DEFINITION. The Sluice-only instructions: decisions, semaphores, the lease, tasks and the counter tree (04 R87 to R89,
02 R18, 10 R194, R195). -/

namespace Sys2Proof.Machine

/-- A trigger of Sluice code. -/
def sluiceAction (h : Head) (ops : List OpPort) (readsT : Bool) (waits : State → Bool) (own : State → Option TrapRec)
    (effect : State → State) : Action :=
  Action.trigger h { ops := ops, t := readsT, wide := true } { Action.idle with waits := waits, own := own, effect := effect }

/-- Sixteen decisions are held (02 R18). -/
def State.decisionsFull (s : State) : Bool := 16 ≤ s.selfBlock.dq.length

/-- DQP (04 R87): pushes a decision; one that no warp will pop is freed at once (02 R18). -/
def execDqp (h : Head) (s : State) : Host.Outcome State Fault Refusal :=
  (sluiceAction h [] true (fun s => s.decisionsFull) (fun _ => none) fun s =>
    (s.modBlock s.cur.tid.core s.cur.tid.ctx fun b =>
      { b with dq := b.dq ++ [s.lead h], dqPushed := b.dqPushed + 1 }).freeDecisions s.cur.tid.core s.cur.tid.ctx).outcome s

/-- The checks of the SM triggers (04 R87). -/
def semCheck (h : Head) (s : State) : Option TrapRec :=
  let a := s.leadOper h .sma
  let v := s.lead h
  if a.bits 31 5 ≠ 0 then some (s.before 0x02 a) else if 65535 < v.toNat then some (s.before 0x02 v) else none

/-- An SM trigger: SM.q receives the value before, at the start of the next cycle. -/
def semAction (h : Head) (op : Nat → Nat → Nat) : Action :=
  sluiceAction h [.sma] true (fun _ => false) (semCheck h) fun s =>
    let i := (s.leadOper h .sma).bits 4 0
    let old := (s.selfCore.sems.getD i 0#16).toNat
    let m := s.active
    (s.modCore s.cur.tid.core fun c => { c with sems := c.sems.set i (BitVec.ofNat 16 (op old (s.lead h).toNat)) }).modThread
      s.cur.tid fun th =>
        { th with fills := th.fills ++ [{ port := .smq, mask := m, vals := lanes32 fun _ => w32 old, due := s.clk + 1, late := false }] }

/-- SINC (04 R87). -/
def execSinc (h : Head) (s : State) : Host.Outcome State Fault Refusal :=
  (semAction h fun sem v => min (sem + v) 65535).outcome s

/-- SDEC (04 R87). -/
def execSdec (h : Head) (s : State) : Host.Outcome State Fault Refusal := (semAction h fun sem v => sem - v).outcome s

/-- SSET (04 R87). -/
def execSset (h : Head) (s : State) : Host.Outcome State Fault Refusal := (semAction h fun _ v => v).outcome s

/-! ## The lease (10 R194, R195) -/

/-- The quad is in paired mode. -/
def State.paired (s : State) (core : Nat) : Bool := (s.core core).mxmode.bit 0

/-- A context has a request for the lease pending. -/
def Quad.requests (q : Quad) (core ctx : Nat) : Bool := q.leaseReqs.any fun r => r.core == core && r.ctx == ctx

/-- LACQ's checks. -/
def lacqCheck (h : Head) (s : State) : Option TrapRec :=
  let v := s.lead h
  let t := s.cur.tid
  let q := s.quad (quadOf t.core)
  if s.paired t.core then none
  else if v.toNat = 0 || 64 < v.toNat || q.leaseHolder = some (t.core, t.ctx) || q.requests t.core t.ctx then
    some (s.before 0x02 v)
  else none

/-- LACQ (10 R194): requests the lease; the next bundle waits for the grant. In paired mode it has no effect. -/
def execLacq (h : Head) (s : State) : Host.Outcome State Fault Refusal :=
  (sluiceAction h [] true (fun _ => false) (lacqCheck h) fun s =>
    let t := s.cur.tid
    if s.paired t.core then s
    else
      (s.modQuad (quadOf t.core) fun q =>
        { q with leaseReqs := q.leaseReqs ++ [{ core := t.core, ctx := t.ctx, count := (s.lead h).toNat }] }).modSelfSplit
        fun sp => { sp with lease := true }).outcome s

/-- LREL (10 R194): ends the lease that the context holds. -/
def execLrel (h : Head) (s : State) : Host.Outcome State Fault Refusal :=
  (sluiceAction h [] false (fun _ => false) (fun _ => none) fun s =>
    let t := s.cur.tid
    if s.paired t.core then s
    else s.modQuad (quadOf t.core) fun q =>
      if q.leaseHolder = some (t.core, t.ctx) then { q with leaseHolder := none, leaseLeft := 0, leaseFree := s.clk + 1 }
      else q).outcome s

/-! ## Tasks (04 R87) -/

/-- A task index at or beyond the table's length is refused. -/
def taskCheck (h : Head) (s : State) : Option TrapRec :=
  if s.selfBlock.tasks.length ≤ (s.lead h).toNat then some (s.before 0x02 (s.lead h)) else none

/-- Arms or disarms a task. -/
def State.setArmed (s : State) (t : Tid) (i : Nat) (on : Bool) : State :=
  s.modBlock t.core t.ctx fun b => { b with armed := b.armed.set i on }

/-- Disarms a task. The handler of an idle context that disarms the last armed task may end the block (04 R86), and with it its own
thread. -/
def State.disarm (s : State) (t : Tid) (i : Nat) : State :=
  let s := (s.setArmed t i false).checkBlock t.core t.ctx
  if (s.block t.core t.ctx).resident then s else { s with cur := { s.cur with dead := true } }

/-- TARM (04 R87). -/
def execTarm (h : Head) (s : State) : Host.Outcome State Fault Refusal :=
  (sluiceAction h [] true (fun _ => false) (taskCheck h) fun s => s.setArmed s.cur.tid (s.lead h).toNat true).outcome s

/-- TDIS (04 R87): a running task is not stopped. -/
def execTdis (h : Head) (s : State) : Host.Outcome State Fault Refusal :=
  (sluiceAction h [] true (fun _ => false) (taskCheck h) fun s => s.disarm s.cur.tid (s.lead h).toNat).outcome s

/-! ## The counter tree (04 R88, R89) -/

/-- The extra count of the issuing core for the block's launch. -/
def State.extra (s : State) : Nat := Tab.get 0 (s.launch s.selfBlock.lid).extra s.cur.tid.core

/-- The checks of the CT triggers: the value, what CTD would take below zero, and what would pass 2^32 - 1. -/
def counterCheck (h : Head) (op : Nat → Nat → Nat) (below : Bool) (s : State) : Option TrapRec :=
  let v := (s.lead h).toNat
  if 65535 < v || (below && s.extra < v) || 2 ^ 32 ≤ op s.extra v then some (s.before 0x02 (s.lead h)) else none

/-- A CT trigger: the extra count changes, and with it the block's net change (16 R330). -/
def counterAction (h : Head) (op : Nat → Nat → Nat) (below : Bool) : Action :=
  sluiceAction h [] true (fun _ => false) (counterCheck h op below) fun s =>
    let t := s.cur.tid
    let old := s.extra
    let new_ := op old (s.lead h).toNat
    (s.modLaunch s.selfBlock.lid fun l => { l with extra := Tab.set 0 l.extra t.core new_ }).modBlock t.core t.ctx fun b =>
      { b with netExtra := b.netExtra + ((new_ : Int) - old) }

/-- CTI (04 R89). -/
def execCti (h : Head) (s : State) : Host.Outcome State Fault Refusal := (counterAction h (fun e v => e + v) false).outcome s

/-- CTD (04 R89). -/
def execCtd (h : Head) (s : State) : Host.Outcome State Fault Refusal := (counterAction h (fun e v => e - v) true).outcome s

/-- CTS (04 R89). -/
def execCts (h : Head) (s : State) : Host.Outcome State Fault Refusal := (counterAction h (fun _ v => v) false).outcome s

end Sys2Proof.Machine
end

