-- ==== Sys2Proof/Machine/Trust.lean ====
section
/-! DEFINITION. The trust die (15 R305, R306) and bring-up (24 R361). An SPDM answer is its header, what the spec states of its
contents, and free bytes for the rest (log 13). -/

namespace Sys2Proof.Machine

/-- The measurement that the trust die takes of an image that the state does not hold: free bytes. -/
def State.freeMeasure (s : State) (i : Nat) : List Byte := (List.range 32).map fun j => Config.freeByte (s.draws * 4096 + i * 32 + j)

/-- POWER_ON (24 R361): the trust die measures each die and releases those that pass; firmware writes the capability list, sets
the records' areas aside (15 R295) and clears range tables, slots and queues; the CRC of every link is checked (16 R334); die 0, where it is released,
ends Configuration Request Retry Status. -/
def execPowerOn (pass : List Bool) (s : State) : Host.Outcome State Fault Refusal :=
  s.happens (fun s => s.pack.booted = 0) fun s =>
    let dies := (List.range 4).foldl (fun m d => if pass.getD d false then m ||| BitVec.ofNat 4 (2 ^ d) else m) 0#4
    let measures := (List.range 10).map fun i => if i < 7 then s.freeMeasure i else List.replicate 32 0#8
    let s : State := { s with
      fns := [], binds := [],
      pack := { s.pack with
        booted := 6, dies := dies, retry := !pass.getD 0 false, measures := measures, protos := [none, none, none],
        slotstat := 0#32, links := s.pack.links.map fun l => { l with checked := true }, records := (List.range 4).map Config.recordArea } }
    let s : State := { s with pack := { s.pack with capList := capWords 0x800 s.pack.units } }
    (s.enableFunction 0).drawn

/-- Free bytes of an answer. -/
def spdmFree (code first n : Nat) : List Byte := (List.range n).map fun i => Config.spdmByte code (first + i)

/-- An answer's header (log 13): version, response code, two parameters. -/
def spdmHead (code a b : Nat) : List Byte := [0x13#8, BitVec.ofNat 8 code, BitVec.ofNat 8 a, BitVec.ofNat 8 b]

/-- The trust die answers the host, once it has booted. -/
def State.spdmAnswer (s : State) (phase : Nat) (bytes : List Byte) : Host.Outcome State Fault Refusal :=
  s.happens (fun s => s.hostLink && decide (s.pack.booted ≠ 0)) fun s =>
    ({ s with pack := { s.pack with spdm := max phase s.pack.spdm } }.emit (.spdm bytes))

/-- GET_VERSION (15 R306): version 1.3. -/
def execGetVersion (s : State) : Host.Outcome State Fault Refusal :=
  s.spdmAnswer 1 ([0x10#8, 0x04#8, 0#8, 0#8, 0#8, 1#8, 0x00#8, 0x13#8])

/-- GET_CAPABILITIES (15 R306): certificates, challenge, signed measurements; no secure session. -/
def execGetCapabilities (s : State) : Host.Outcome State Fault Refusal :=
  s.spdmAnswer 2 (spdmHead 0x61 0 0 ++ [0#8] ++ spdmFree 0x61 0 3 ++ [0x16#8, 0#8, 0#8, 0#8])

/-- NEGOTIATE_ALGORITHMS (15 R306): SM2 over its P-256 curve, SM3-256 for the base and for measurements, as the protocol's ALGORITHMS answer names
them (log 13): its length 36, the measurement specification, SM3-256 as measurement hash, SM2 as signature, SM3-256 as base hash. -/
def execNegotiateAlgorithms (s : State) : Host.Outcome State Fault Refusal :=
  s.spdmAnswer 3 (spdmHead 0x63 0 0 ++ leBytes 2 36 ++ [1#8, 0#8] ++ leBytes 4 0x80 ++ leBytes 4 0x200 ++ leBytes 4 0x40
    ++ List.replicate 16 0#8)

/-- GET_DIGESTS (15 R306): the digest of the certificate chain in slot 0. -/
def execGetDigests (s : State) : Host.Outcome State Fault Refusal :=
  s.spdmAnswer 0 (spdmHead 0x01 0 1 ++ spdmFree 0x01 0 32)

/-- GET_CERTIFICATE (15 R306): a portion of the certificate chain. -/
def execGetCertificate (slot off len : Nat) (s : State) : Host.Outcome State Fault Refusal :=
  s.spdmAnswer 0 (spdmHead 0x02 slot 0 ++ leBytes 2 len ++ leBytes 2 0 ++ spdmFree 0x02 off len)

/-- CHALLENGE (15 R306): the digest, a nonce, and an SM2 signature. -/
def execChallenge (nonce : List Byte) (s : State) : Host.Outcome State Fault Refusal :=
  s.spdmAnswer 0 (spdmHead 0x03 0 1 ++ spdmFree 0x03 0 64 ++ nonce ++ spdmFree 0x03 64 64)

/-- The measurement blocks that an index asks for: none but their number for 0, all for 0xFF, else one. -/
def measureBlocks (ms : List (List Byte)) (index : Nat) : List Byte :=
  let block (i : Nat) : List Byte := BitVec.ofNat 8 (i + 1) :: ms.getD i []
  if index = 0 then []
  else if index = 255 then (List.range ms.length).flatMap block
  else if index ≤ ms.length then block (index - 1) else []

/-- GET_MEASUREMENTS (15 R306): the blocks, the nonce and a signature. -/
def execGetMeasurements (index : Nat) (nonce : List Byte) (s : State) : Host.Outcome State Fault Refusal :=
  s.spdmAnswer 0 (spdmHead 0x60 (if index = 0 then s.pack.measures.length else 0) 0 ++ measureBlocks s.pack.measures index ++ nonce
    ++ spdmFree 0x60 0 64)

/-- SPDM_UNSUPPORTED (15 R306): ERROR of code UnsupportedRequest. -/
def execSpdmUnsupported (code : Nat) (s : State) : Host.Outcome State Fault Refusal :=
  s.spdmAnswer 0 (spdmHead 0x7F 0x07 code)

end Sys2Proof.Machine
end

