-- ==== Sys2Proof/Machine/Dispatch.lean ====
section
/-! DEFINITION. One arm for each instruction: a call of its meaning. -/

namespace Sys2Proof.Machine

/-- What each instruction does. -/
def exec (i : Instr) (s : State) : Host.Outcome State Fault Refusal :=
  match i with
  | .move h d m => Sys2Proof.Machine.execMove h d m s
  | .add h u => Sys2Proof.Machine.execAdd h u s
  | .adc h u => Sys2Proof.Machine.execAdc h u s
  | .sub h u => Sys2Proof.Machine.execSub h u s
  | .sbc h u => Sys2Proof.Machine.execSbc h u s
  | .rsb h u => Sys2Proof.Machine.execRsb h u s
  | .and h u => Sys2Proof.Machine.execAnd h u s
  | .or h u => Sys2Proof.Machine.execOr h u s
  | .xor h u => Sys2Proof.Machine.execXor h u s
  | .andn h u => Sys2Proof.Machine.execAndn h u s
  | .orn h u => Sys2Proof.Machine.execOrn h u s
  | .shl h u => Sys2Proof.Machine.execShl h u s
  | .shr h u => Sys2Proof.Machine.execShr h u s
  | .sar h u => Sys2Proof.Machine.execSar h u s
  | .rol h u => Sys2Proof.Machine.execRol h u s
  | .ror h u => Sys2Proof.Machine.execRor h u s
  | .min h u => Sys2Proof.Machine.execMin h u s
  | .max h u => Sys2Proof.Machine.execMax h u s
  | .minn h u => Sys2Proof.Machine.execMinn h u s
  | .maxn h u => Sys2Proof.Machine.execMaxn h u s
  | .abs h u => Sys2Proof.Machine.execAbs h u s
  | .addv h u => Sys2Proof.Machine.execAddv h u s
  | .subv h u => Sys2Proof.Machine.execSubv h u s
  | .mul h u => Sys2Proof.Machine.execMul h u s
  | .mulh h u => Sys2Proof.Machine.execMulh h u s
  | .mulhn h u => Sys2Proof.Machine.execMulhn h u s
  | .div h u => Sys2Proof.Machine.execDiv h u s
  | .rem h u => Sys2Proof.Machine.execRem h u s
  | .divn h u => Sys2Proof.Machine.execDivn h u s
  | .remn h u => Sys2Proof.Machine.execRemn h u s
  | .ads1 h u => Sys2Proof.Machine.execAds1 h u s
  | .ads2 h u => Sys2Proof.Machine.execAds2 h u s
  | .ads3 h u => Sys2Proof.Machine.execAds3 h u s
  | .ads4 h u => Sys2Proof.Machine.execAds4 h u s
  | .bfe h u => Sys2Proof.Machine.execBfe h u s
  | .bfen h u => Sys2Proof.Machine.execBfen h u s
  | .popc h u => Sys2Proof.Machine.execPopc h u s
  | .clz h u => Sys2Proof.Machine.execClz h u s
  | .ctz h u => Sys2Proof.Machine.execCtz h u s
  | .brev h u => Sys2Proof.Machine.execBrev h u s
  | .bswp h u => Sys2Proof.Machine.execBswp h u s
  | .sxb h u => Sys2Proof.Machine.execSxb h u s
  | .sxh h u => Sys2Proof.Machine.execSxh h u s
  | .zxb h u => Sys2Proof.Machine.execZxb h u s
  | .zxh h u => Sys2Proof.Machine.execZxh h u s
  | .mova h u => Sys2Proof.Machine.execMova h u s
  | .fma h u rm => Sys2Proof.Machine.execFma h u rm s
  | .fms h u rm => Sys2Proof.Machine.execFms h u rm s
  | .fnma h u rm => Sys2Proof.Machine.execFnma h u rm s
  | .fnms h u rm => Sys2Proof.Machine.execFnms h u rm s
  | .fadd h u rm => Sys2Proof.Machine.execFadd h u rm s
  | .fsub h u rm => Sys2Proof.Machine.execFsub h u rm s
  | .fmul h u rm => Sys2Proof.Machine.execFmul h u rm s
  | .fmin h u => Sys2Proof.Machine.execFmin h u s
  | .fmax h u => Sys2Proof.Machine.execFmax h u s
  | .fcmp h u => Sys2Proof.Machine.execFcmp h u s
  | .frnd h u rm => Sys2Proof.Machine.execFrnd h u rm s
  | .fscl h u rm => Sys2Proof.Machine.execFscl h u rm s
  | .hfma2 h u rm => Sys2Proof.Machine.execHfma2 h u rm s
  | .hadd2 h u rm => Sys2Proof.Machine.execHadd2 h u rm s
  | .hmul2 h u rm => Sys2Proof.Machine.execHmul2 h u rm s
  | .bfma2 h u rm => Sys2Proof.Machine.execBfma2 h u rm s
  | .badd2 h u rm => Sys2Proof.Machine.execBadd2 h u rm s
  | .bmul2 h u rm => Sys2Proof.Machine.execBmul2 h u rm s
  | .fdot2h h u rm => Sys2Proof.Machine.execFdot2h h u rm s
  | .fdot2b h u rm => Sys2Proof.Machine.execFdot2b h u rm s
  | .rcp h => Sys2Proof.Machine.execRcp h s
  | .rsq h => Sys2Proof.Machine.execRsq h s
  | .sqrt h => Sys2Proof.Machine.execSqrt h s
  | .ex2 h => Sys2Proof.Machine.execEx2 h s
  | .lg2 h => Sys2Proof.Machine.execLg2 h s
  | .sinr h => Sys2Proof.Machine.execSinr h s
  | .cosr h => Sys2Proof.Machine.execCosr h s
  | .tanh h => Sys2Proof.Machine.execTanh h s
  | .cvt h => Sys2Proof.Machine.execCvt h s
  | .qntS8 h => Sys2Proof.Machine.execQntS8 h s
  | .qntN8 h => Sys2Proof.Machine.execQntN8 h s
  | .qntS4 h => Sys2Proof.Machine.execQntS4 h s
  | .qntN4 h => Sys2Proof.Machine.execQntN4 h s
  | .qntS16 h => Sys2Proof.Machine.execQntS16 h s
  | .dqn h => Sys2Proof.Machine.execDqn h s
  | .pkh h => Sys2Proof.Machine.execPkh h s
  | .pkb h => Sys2Proof.Machine.execPkb h s
  | .shfl h => Sys2Proof.Machine.execShfl h s
  | .shup h => Sys2Proof.Machine.execShup h s
  | .shdn h => Sys2Proof.Machine.execShdn h s
  | .shxr h => Sys2Proof.Machine.execShxr h s
  | .bcst h => Sys2Proof.Machine.execBcst h s
  | .ball h => Sys2Proof.Machine.execBall h s
  | .vany h => Sys2Proof.Machine.execVany h s
  | .vall h => Sys2Proof.Machine.execVall h s
  | .matchPeers h => Sys2Proof.Machine.execMatchPeers h s
  | .mtcha h => Sys2Proof.Machine.execMtcha h s
  | .wadd h => Sys2Proof.Machine.execWadd h s
  | .wmin h => Sys2Proof.Machine.execWmin h s
  | .wmax h => Sys2Proof.Machine.execWmax h s
  | .wminn h => Sys2Proof.Machine.execWminn h s
  | .wmaxn h => Sys2Proof.Machine.execWmaxn h s
  | .wand h => Sys2Proof.Machine.execWand h s
  | .wor h => Sys2Proof.Machine.execWor h s
  | .wxor h => Sys2Proof.Machine.execWxor h s
  | .wfadd h => Sys2Proof.Machine.execWfadd h s
  | .scan h => Sys2Proof.Machine.execScan h s
  | .scanx h => Sys2Proof.Machine.execScanx h s
  | .pln h => Sys2Proof.Machine.execPln h s
  | .plg h => Sys2Proof.Machine.execPlg h s
  | .bra h => Sys2Proof.Machine.execBra h s
  | .brc h => Sys2Proof.Machine.execBrc h s
  | .join x k => Sys2Proof.Machine.execJoin x k s
  | .call h => Sys2Proof.Machine.execCall h s
  | .ret h => Sys2Proof.Machine.execRet h s
  | .loop x k => Sys2Proof.Machine.execLoop x k s
  | .lback x k => Sys2Proof.Machine.execLback x k s
  | .lext h => Sys2Proof.Machine.execLext h s
  | .exit h => Sys2Proof.Machine.execExit h s
  | .endTask h => Sys2Proof.Machine.execEndTask h s
  | .rfl x k => Sys2Proof.Machine.execRfl x k s
  | .psw h => Sys2Proof.Machine.execPsw h s
  | .brk h => Sys2Proof.Machine.execBrk h s
  | .wait h => Sys2Proof.Machine.execWait h s
  | .bar h => Sys2Proof.Machine.execBar h s
  | .bara h => Sys2Proof.Machine.execBara h s
  | .barw h => Sys2Proof.Machine.execBarw h s
  | .sync h => Sys2Proof.Machine.execSync h s
  | .boi h => Sys2Proof.Machine.execBoi h s
  | .box h => Sys2Proof.Machine.execBox h s
  | .boa h => Sys2Proof.Machine.execBoa h s
  | .bow h => Sys2Proof.Machine.execBow h s
  | .bot h => Sys2Proof.Machine.execBot h s
  | .rel h e => Sys2Proof.Machine.execRel h e s
  | .acq h e => Sys2Proof.Machine.execAcq h e s
  | .fen h e => Sys2Proof.Machine.execFen h e s
  | .csrr h => Sys2Proof.Machine.execCsrr h s
  | .csrw h => Sys2Proof.Machine.execCsrw h s
  | .trap h => Sys2Proof.Machine.execTrap h s
  | .rte h => Sys2Proof.Machine.execRte h s
  | .chk h => Sys2Proof.Machine.execChk h s
  | .shp h => Sys2Proof.Machine.execShp h s
  | .obj h => Sys2Proof.Machine.execObj h s
  | .evt h => Sys2Proof.Machine.execEvt h s
  | .mxw h => Sys2Proof.Machine.execMxw h s
  | .mxs h => Sys2Proof.Machine.execMxs h s
  | .mxg h => Sys2Proof.Machine.execMxg h s
  | .mxd h => Sys2Proof.Machine.execMxd h s
  | .mxz h => Sys2Proof.Machine.execMxz h s
  | .mxr h => Sys2Proof.Machine.execMxr h s
  | .mxq h => Sys2Proof.Machine.execMxq h s
  | .mxa h => Sys2Proof.Machine.execMxa h s
  | .cpy h u => Sys2Proof.Machine.execCpy h u s
  | .gth h u => Sys2Proof.Machine.execGth h u s
  | .sct h u => Sys2Proof.Machine.execSct h u s
  | .ard h u => Sys2Proof.Machine.execArd h u s
  | .bcs h u => Sys2Proof.Machine.execBcs h u s
  | .cpr h u => Sys2Proof.Machine.execCpr h u s
  | .cpq h u => Sys2Proof.Machine.execCpq h u s
  | .cpf h u => Sys2Proof.Machine.execCpf h u s
  | .dqp h => Sys2Proof.Machine.execDqp h s
  | .sinc h => Sys2Proof.Machine.execSinc h s
  | .sdec h => Sys2Proof.Machine.execSdec h s
  | .sset h => Sys2Proof.Machine.execSset h s
  | .lacq h => Sys2Proof.Machine.execLacq h s
  | .lrel h => Sys2Proof.Machine.execLrel h s
  | .tarm h => Sys2Proof.Machine.execTarm h s
  | .tdis h => Sys2Proof.Machine.execTdis h s
  | .cti h => Sys2Proof.Machine.execCti h s
  | .ctd h => Sys2Proof.Machine.execCtd h s
  | .cts h => Sys2Proof.Machine.execCts h s
  | .lds h wd => Sys2Proof.Machine.execLds h wd s
  | .ldg h wd n => Sys2Proof.Machine.execLdg h wd n s
  | .ldgs h wd n => Sys2Proof.Machine.execLdgs h wd n s
  | .pfg h wd n => Sys2Proof.Machine.execPfg h wd n s
  | .ldw h wd => Sys2Proof.Machine.execLdw h wd s
  | .sts h wd => Sys2Proof.Machine.execSts h wd s
  | .stg h wd n => Sys2Proof.Machine.execStg h wd n s
  | .atsAdd h => Sys2Proof.Machine.execAtsAdd h s
  | .atsMin h => Sys2Proof.Machine.execAtsMin h s
  | .atsMax h => Sys2Proof.Machine.execAtsMax h s
  | .atsMinn h => Sys2Proof.Machine.execAtsMinn h s
  | .atsMaxn h => Sys2Proof.Machine.execAtsMaxn h s
  | .atsAnd h => Sys2Proof.Machine.execAtsAnd h s
  | .atsOr h => Sys2Proof.Machine.execAtsOr h s
  | .atsXor h => Sys2Proof.Machine.execAtsXor h s
  | .atsXchg h => Sys2Proof.Machine.execAtsXchg h s
  | .atsCas h => Sys2Proof.Machine.execAtsCas h s
  | .atsInc h => Sys2Proof.Machine.execAtsInc h s
  | .atsDec h => Sys2Proof.Machine.execAtsDec h s
  | .atsFadd h => Sys2Proof.Machine.execAtsFadd h s
  | .atgAdd h c => Sys2Proof.Machine.execAtgAdd h c s
  | .atgMin h c => Sys2Proof.Machine.execAtgMin h c s
  | .atgMax h c => Sys2Proof.Machine.execAtgMax h c s
  | .atgMinn h c => Sys2Proof.Machine.execAtgMinn h c s
  | .atgMaxn h c => Sys2Proof.Machine.execAtgMaxn h c s
  | .atgAnd h c => Sys2Proof.Machine.execAtgAnd h c s
  | .atgOr h c => Sys2Proof.Machine.execAtgOr h c s
  | .atgXor h c => Sys2Proof.Machine.execAtgXor h c s
  | .atgXchg h c => Sys2Proof.Machine.execAtgXchg h c s
  | .atgCas h c => Sys2Proof.Machine.execAtgCas h c s
  | .atgInc h c => Sys2Proof.Machine.execAtgInc h c s
  | .atgDec h c => Sys2Proof.Machine.execAtgDec h c s
  | .atgFadd h c => Sys2Proof.Machine.execAtgFadd h c s
  | .redAdd h c => Sys2Proof.Machine.execRedAdd h c s
  | .redMin h c => Sys2Proof.Machine.execRedMin h c s
  | .redMax h c => Sys2Proof.Machine.execRedMax h c s
  | .redMinn h c => Sys2Proof.Machine.execRedMinn h c s
  | .redMaxn h c => Sys2Proof.Machine.execRedMaxn h c s
  | .redAnd h c => Sys2Proof.Machine.execRedAnd h c s
  | .redOr h c => Sys2Proof.Machine.execRedOr h c s
  | .redXor h c => Sys2Proof.Machine.execRedXor h c s
  | .redInc h c => Sys2Proof.Machine.execRedInc h c s
  | .redDec h c => Sys2Proof.Machine.execRedDec h c s
  | .redFadd h c => Sys2Proof.Machine.execRedFadd h c s
  | .resultLanding t => Sys2Proof.Machine.execResultLanding t s
  | .delayExpiry t sp => Sys2Proof.Machine.execDelayExpiry t sp s
  | .waitExpiry t sp => Sys2Proof.Machine.execWaitExpiry t sp s
  | .loadDataArrival t p n l => Sys2Proof.Machine.execLoadDataArrival t p n l s
  | .windowEntry core => Sys2Proof.Machine.execWindowEntry core s
  | .atomicResponse core seq addr => Sys2Proof.Machine.execAtomicResponse core seq addr s
  | .atomicRetry core seq addr => Sys2Proof.Machine.execAtomicRetry core seq addr s
  | .storeDrain core seq => Sys2Proof.Machine.execStoreDrain core seq s
  | .codeFetch core fn line => Sys2Proof.Machine.execCodeFetch core fn line s
  | .rillGrant t => Sys2Proof.Machine.execRillGrant t s
  | .sequencerPick core ctx => Sys2Proof.Machine.execSequencerPick core ctx s
  | .taskOverrun core ctx => Sys2Proof.Machine.execTaskOverrun core ctx s
  | .heldRecordEntry core => Sys2Proof.Machine.execHeldRecordEntry core s
  | .doorbell fn q v => Sys2Proof.Machine.execDoorbell fn q v s
  | .launchArrival fn q => Sys2Proof.Machine.execLaunchArrival fn q s
  | .waitReread lid n => Sys2Proof.Machine.execWaitReread lid n s
  | .bindRecordWrite slot ws => Sys2Proof.Machine.execBindRecordWrite slot ws s
  | .placementDecision die => Sys2Proof.Machine.execPlacementDecision die s
  | .agingPromotion die slot => Sys2Proof.Machine.execAgingPromotion die slot s
  | .completionRecordPost lid => Sys2Proof.Machine.execCompletionRecordPost lid s
  | .grantedLevelWrite cores level => Sys2Proof.Machine.execGrantedLevelWrite cores level s
  | .bandPowerSwitch quad band on => Sys2Proof.Machine.execBandPowerSwitch quad band on s
  | .bandRampDone quad band => Sys2Proof.Machine.execBandRampDone quad band s
  | .thermalEmergency die => Sys2Proof.Machine.execThermalEmergency die s
  | .dieOnline die => Sys2Proof.Machine.execDieOnline die s
  | .barrierRestart t sp => Sys2Proof.Machine.execBarrierRestart t sp s
  | .weirLineGrant gen => Sys2Proof.Machine.execWeirLineGrant gen s
  | .weirRestart gen => Sys2Proof.Machine.execWeirRestart gen s
  | .weirGather gen die => Sys2Proof.Machine.execWeirGather gen die s
  | .restartProposal gen die => Sys2Proof.Machine.execRestartProposal gen die s
  | .restartAck gen die => Sys2Proof.Machine.execRestartAck gen die s
  | .restartConfirm gen => Sys2Proof.Machine.execRestartConfirm gen s
  | .podSyncArrival lid pkg => Sys2Proof.Machine.execPodSyncArrival lid pkg s
  | .barrierObjectRmw core => Sys2Proof.Machine.execBarrierObjectRmw core s
  | .fenceDone t sp => Sys2Proof.Machine.execFenceDone t sp s
  | .watchdogExpiry t sp => Sys2Proof.Machine.execWatchdogExpiry t sp s
  | .yieldRequest core ctx area => Sys2Proof.Machine.execYieldRequest core ctx area s
  | .safePointStop t sp => Sys2Proof.Machine.execSafePointStop t sp s
  | .save core ctx => Sys2Proof.Machine.execSave core ctx s
  | .enginePark core ctx tag => Sys2Proof.Machine.execEnginePark core ctx tag s
  | .resume save core => Sys2Proof.Machine.execResume save core s
  | .engineCommandStart core ctx tag => Sys2Proof.Machine.execEngineCommandStart core ctx tag s
  | .engineElementCommit core ctx tag => Sys2Proof.Machine.execEngineElementCommit core ctx tag s
  | .engineElementFault core ctx tag cause => Sys2Proof.Machine.execEngineElementFault core ctx tag cause s
  | .engineCommandComplete core ctx tag => Sys2Proof.Machine.execEngineCommandComplete core ctx tag s
  | .collectiveParkSignal core ctx tag => Sys2Proof.Machine.execCollectiveParkSignal core ctx tag s
  | .collectiveSegmentHandoff core ctx tag => Sys2Proof.Machine.execCollectiveSegmentHandoff core ctx tag s
  | .freezeWire lids => Sys2Proof.Machine.execFreezeWire lids s
  | .thaw lids => Sys2Proof.Machine.execThaw lids s
  | .abandon core ctx => Sys2Proof.Machine.execAbandon core ctx s
  | .scanRead cores => Sys2Proof.Machine.execScanRead cores s
  | .leaseGrant quad => Sys2Proof.Machine.execLeaseGrant quad s
  | .mxWindowSwitch quad => Sys2Proof.Machine.execMxWindowSwitch quad s
  | .tilestUpdate core => Sys2Proof.Machine.execTilestUpdate core s
  | .wsBankServe t n l => Sys2Proof.Machine.execWsBankServe t n l s
  | .publication quad key => Sys2Proof.Machine.execPublication quad key s
  | .gets quad key => Sys2Proof.Machine.execGets quad key s
  | .getm quad key => Sys2Proof.Machine.execGetm quad key s
  | .upg quad key => Sys2Proof.Machine.execUpg quad key s
  | .puts quad key => Sys2Proof.Machine.execPuts quad key s
  | .putm quad key => Sys2Proof.Machine.execPutm quad key s
  | .pub quad key => Sys2Proof.Machine.execPub quad key s
  | .wack key => Sys2Proof.Machine.execWack key s
  | .dataAnswer key => Sys2Proof.Machine.execDataAnswer key s
  | .atom core seq addr => Sys2Proof.Machine.execAtom core seq addr s
  | .homeRed core seq addr => Sys2Proof.Machine.execHomeRed core seq addr s
  | .treq quad rid => Sys2Proof.Machine.execTreq quad rid s
  | .tdone quad rid => Sys2Proof.Machine.execTdone quad rid s
  | .invalidationWalk key => Sys2Proof.Machine.execInvalidationWalk key s
  | .updateWalk key => Sys2Proof.Machine.execUpdateWalk key s
  | .recall key => Sys2Proof.Machine.execRecall key s
  | .downgrade key => Sys2Proof.Machine.execDowngrade key s
  | .tokenDrainRequest rid => Sys2Proof.Machine.execTokenDrainRequest rid s
  | .unlinkAck quad key => Sys2Proof.Machine.execUnlinkAck quad key s
  | .lineGrant quad key => Sys2Proof.Machine.execLineGrant quad key s
  | .hostRead fn addr n => Sys2Proof.Machine.execHostRead fn addr n s
  | .hostWrite fn addr bytes => Sys2Proof.Machine.execHostWrite fn addr bytes s
  | .protocolLoad w => Sys2Proof.Machine.execProtocolLoad w s
  | .protocolVerifyDone => Sys2Proof.Machine.execProtocolVerifyDone s
  | .wayGate quad keys => Sys2Proof.Machine.execWayGate quad keys s
  | .quadCacheSleep quad => Sys2Proof.Machine.execQuadCacheSleep quad s
  | .quadCacheLoss quad => Sys2Proof.Machine.execQuadCacheLoss quad s
  | .rangeEntryWrite fn n ws => Sys2Proof.Machine.execRangeEntryWrite fn n ws s
  | .functionEnable fn => Sys2Proof.Machine.execFunctionEnable fn s
  | .functionReset fn => Sys2Proof.Machine.execFunctionReset fn s
  | .frameWindowWrite fn die w => Sys2Proof.Machine.execFrameWindowWrite fn die w s
  | .pageWalk die fn page => Sys2Proof.Machine.execPageWalk die fn page s
  | .writeGrantRequest quad fn page => Sys2Proof.Machine.execWriteGrantRequest quad fn page s
  | .writeGrantAnswer quad fn page => Sys2Proof.Machine.execWriteGrantAnswer quad fn page s
  | .faultEntryWrite die fn => Sys2Proof.Machine.execFaultEntryWrite die fn s
  | .fqheadWrite fn w => Sys2Proof.Machine.execFqheadWrite fn w s
  | .fqctlWrite fn w => Sys2Proof.Machine.execFqctlWrite fn w s
  | .fqresResolved fn id => Sys2Proof.Machine.execFqresResolved fn id s
  | .fqresNoPage fn id => Sys2Proof.Machine.execFqresNoPage fn id s
  | .invalAppend fn w => Sys2Proof.Machine.execInvalAppend fn w s
  | .logApply die => Sys2Proof.Machine.execLogApply die s
  | .powerOn pass => Sys2Proof.Machine.execPowerOn pass s
  | .getVersion => Sys2Proof.Machine.execGetVersion s
  | .getCapabilities => Sys2Proof.Machine.execGetCapabilities s
  | .negotiateAlgorithms => Sys2Proof.Machine.execNegotiateAlgorithms s
  | .getDigests => Sys2Proof.Machine.execGetDigests s
  | .getCertificate slot off len => Sys2Proof.Machine.execGetCertificate slot off len s
  | .challenge nonce => Sys2Proof.Machine.execChallenge nonce s
  | .getMeasurements index nonce => Sys2Proof.Machine.execGetMeasurements index nonce s
  | .spdmUnsupported code => Sys2Proof.Machine.execSpdmUnsupported code s
  | .takeTrap t sp cause tval telem => Sys2Proof.Machine.execTakeTrap t sp cause tval telem s
  | .timerEvent cores => Sys2Proof.Machine.execTimerEvent cores s
  | .externalEvent target v => Sys2Proof.Machine.execExternalEvent target v s
  | .dbgctlWrite core w => Sys2Proof.Machine.execDbgctlWrite core w s
  | .softError site hard => Sys2Proof.Machine.execSoftError site hard s
  | .dieLoss die => Sys2Proof.Machine.execDieLoss die s
  | .agentRejoin agent => Sys2Proof.Machine.execAgentRejoin agent s
  | .linkCrcError link => Sys2Proof.Machine.execLinkCrcError link s
  | .linkWidthChange link width => Sys2Proof.Machine.execLinkWidthChange link width s
  | .linkDown link => Sys2Proof.Machine.execLinkDown link s
  | .configRequest fn => Sys2Proof.Machine.execConfigRequest fn s
  | .fstatusErrorClear fn => Sys2Proof.Machine.execFstatusErrorClear fn s
  | .qbaseWrite fn hi w => Sys2Proof.Machine.execQbaseWrite fn hi w s
  | .queueEnable fn w => Sys2Proof.Machine.execQueueEnable fn w s
  | .queueDisable fn w => Sys2Proof.Machine.execQueueDisable fn w s
  | .registerWrite fn off w => Sys2Proof.Machine.execRegisterWrite fn off w s
  | .mxmodeWrite quad mode win => Sys2Proof.Machine.execMxmodeWrite quad mode win s
  | .variablePortFill t => Sys2Proof.Machine.execVariablePortFill t s
  | .podRouteLost pkg => Sys2Proof.Machine.execPodRouteLost pkg s
  | .scanWriteBack t reg l w => Sys2Proof.Machine.execScanWriteBack t reg l w s
  | .debugResume core => Sys2Proof.Machine.execDebugResume core s

end Sys2Proof.Machine
end

