-- ==== Sys2Proof/Machine/Issue.lean ====
section
/-! DEFINITION. Issuing a bundle (03 R52, R62; 05 R106 to R108; log 7): which split issues on a core, whether its bundle
waits or traps, and how its moves take effect. -/

namespace Sys2Proof.Machine

/-! ## One bundle -/

/-- The slot's move is a trigger (03 R50). -/
def Slot.isTrigger (x : Slot) : Bool := triggerIds.contains (dstId x.word)

/-- Calls the meaning of a slot's move in one phase. -/
def State.runSlot (s : State) (ph : Phase) (x : Slot) : State :=
  match decodeMove x.word.toNat with
  | .instr i =>
    match exec i { s with cur := { s.cur with phase := ph, slot := x.num, word := x.word, imms := x.imms } } with
    | .next s' => s'
    | _ => s
  | .error _ => s

/-- Calls the meanings of slots in one phase, in slot order. -/
def State.runSlots (s : State) (ph : Phase) (xs : List Slot) : State := xs.foldl (fun s x => s.runSlot ph x) s

/-- The state in which a split's bundle is being issued: the image of its thread is taken (03 R52 item 1). -/
def State.openBundle (s : State) (t : Tid) (i : Nat) (line : List Word) : State :=
  let sp := (s.thread t).split i
  { s with cur := { Cur.idle with
      on := true, tid := t, split := i, pc := sp.pc, next := nextBundle line sp.pc, delay := (headerAt line sp.pc).delay,
      image := s.thread t, evq := (s.core t.core).evq,
      dq := (s.block t.core t.ctx).decisions (s.thread t) } }

/-- The checks of step 6 of R62: each kind over all slots before the next. -/
def State.runChecks (s : State) (xs : List Slot) : State :=
  [0, 1, 2, 3].foldl (fun s k => s.runSlots (.check k) xs) s

/-- The ports and lanes for which a bundle waits (05 R108). -/
def State.awaited (s : State) (xs : List Slot) : List (ResPort × Mask) :=
  xs.filterMap fun x =>
    match guardOf (fld x.word.toNat 30 2) (fld x.word.toNat 26 4), srcOf (srcId x.word) with
    | some g, some (.port p) =>
      let m := s.guard g
      if s.srcWaits (.port p) (!x.isTrigger && (modsOf (fld x.word.toNat 0 7)).try_) m then some (p, m) else none
    | _, _ => none

/-- One more bundle executed: latch windows close by one in the split's lanes (03 R45), the repeat state is updated
(R40), and the next bundle is the one in sequence after the delay (01 R8). -/
def State.advance (s : State) (line : List Word) : State :=
  s.modThread s.cur.tid fun th =>
    let m := (th.split s.cur.split).mask
    let th := [0, 1, 2].foldl (fun th j =>
      th.wrMask (.age j) m fun l => if th.rd (.age j) l = 0#32 then 0#32 else th.rd (.age j) l - 1#32) th
    th.modSplit s.cur.split fun sp =>
      { sp with rep := repAfter line sp, pc := s.cur.next, arrive := .fall, ready := s.clk + 1 + s.cur.delay,
                waited := false, bank := 0, lastIssue := s.clk, want := none, fetch := none, page := none, parked := [],
                pageFault := none, line := some (sp.pc.toNat / 128), safeWait := (headerAt line sp.pc).safe }

/-- Consumes the oldest load of a port: its lanes go on reading what it delivered, and one whose data has not arrived what it read before
(11 R222). -/
def Thread.popLoad (th : Thread) (p : LoadPort) : Thread :=
  match (th.loads p).entries with
  | [] => th
  | e :: rest =>
    let port (j : Nat) : ResPort := match p with
      | .ls => .ls (Fin.ofNat 4 j)
      | .lg => .lg (Fin.ofNat 4 j)
      | .lw => .lw (Fin.ofNat 4 j)
    let got (j l : Nat) : Word × Bool := match e.lane l with
      | some x => (x.vals.getD j 0#32, x.poison && decide (j < x.vals.length))
      | none => (0#32, false)
    let m := e.mask &&& maskWhere fun l => (e.lane l).any (·.arrived)
    let th := (List.range 4).foldl (fun th j =>
      (th.wrMask (.res (port j)) m fun l => (got j l).1).setTags (.res (port j)) m
        (maskWhere fun l => (got j l).2)) th
    th.setLoads p { th.loads p with entries := rest }

/-- Removes the oldest record of a context from a core's event queue (12 R246). -/
def popRecord (ctx : Nat) : List Word → List Word
  | [] => []
  | w :: r => if (if w.getLsbD 29 then 1 else 0) = ctx then r else w :: popRecord ctx r

/-- Pops one port at the end of the bundle (03 R46, 02 R18, 11 R222, R232). -/
def State.popPort (s : State) (p : ResPort) : State :=
  let t := s.cur.tid
  let m := Tab.get 0#32 s.cur.popMask p.code
  match p with
  | .ls _ | .lg _ | .lw _ => s
  | .dqq => (s.modThread t fun th => { th with dqPos := th.dqPos + 1 }).freeDecisions t.core t.ctx
  | .evq => s.modCore t.core fun c => { c with evq := popRecord t.ctx c.evq }
  | .mxq | .cp0q | .cp1q => s.modThread t fun th =>
    { th.setAwaiting p (BitVec.allOnes 32) with filled := Tab.erase th.filled p.code }
  | _ => s.modThread t fun th => th.setAwaiting p (th.awaiting p ||| m)

/-- Everything that the bundle pops; at most one load of each port (11 R222). -/
def State.popAll (s : State) : State :=
  let s := [LoadPort.ls, .lg, .lw].foldl (fun s p =>
    if s.cur.pops.any fun q => (loadPortOf q).any fun x => x.1 == p then s.modThread s.cur.tid fun th => th.popLoad p
    else s) s
  s.cur.pops.foldl (fun s p => s.popPort p) s

/-- The scope at which the pop of a record acquires: the block's for one that an EVT posted (16 R314), else the widest at which a command of
the block has completed. -/
def State.recordScope (s : State) : Option Word → Nat
  | none => 0
  | some w => if w.bits 31 30 = 3 then 2 else s.selfBlock.joinScope

/-- The bundle joins the engine commands whose result it reads or whose record it pops (12 R247, 10 R215), and what the poster of an EVT
record observed (16 R314). -/
def State.joinCommands (s : State) (xs : List Slot) : State :=
  let reads (x : Slot) : Bool :=
    match guardOf (fld x.word.toNat 30 2) (fld x.word.toNat 26 4), srcOf (srcId x.word) with
    | some g, some (.port p) =>
      (p == .mxq || p == .cp0q || p == .cp1q) && s.guard g &&& ~~~(s.cur.image.awaiting p) ≠ 0#32
    | _, _ => false
  let popped := if s.cur.pops.contains .evq then s.recordScope (oldestRecord s.cur.evq s.cur.tid.ctx) else 0
  let scope := max popped (if xs.any reads then s.selfBlock.joinScope else 0)
  if scope = 0 then s else s.joinAcquire s.cur.tid scope

/-- The triggers of a bundle that fire in the given rounds, in the order in which they fire. 03 R52 gives the triggers of one bundle no order among
themselves: that all others come first, in slot order, then the control unit's, then the sync unit's (so that a BAR or a REL also sees the
stores of higher slots), then RTE, is the model's choice (DESIGN CHOICE, log 7). -/
def triggerOrder (rounds : List Nat) (xs : List Slot) : List Slot :=
  let ts := xs.filter (·.isTrigger)
  let rank (x : Slot) : Nat :=
    if dstId x.word = 0x90 then 1 else if dstId x.word = 0xB4 then 2
    else if dstId x.word = 0xB6 && fld x.word.toNat 0 7 = 3 then 3 else 0
  rounds.flatMap fun k => ts.filter fun x => rank x == k

/-- Fires the triggers; a thread that has ended fires no more. -/
def State.fire (s : State) (xs : List Slot) : State :=
  xs.foldl (fun s x => if s.cur.dead then s else s.runSlot .effect x) s

/-- The split has issued: its bypass count returns to 0, and one of the restart set takes its place in the window
(05 R107, 06 R123 step 6). One that has just come to wait at SYNC holds no place there. -/
def State.placeIssued (s : State) (t : Tid) (i : Nat) : State :=
  if t.isSluice then s
  else
    let p : Option Place := match ((s.thread t).split i).place with
      | .window a _ => some (.window a 0)
      | .restart a => if ((s.thread t).split i).wait.kind = 3 then some (.restart a) else some (if s.windowCount t.core < 8 then .window (s.freshAge t false) 0 else .entry s.clk)
      | _ => none
    match p with
    | some p => s.modThread t fun th => th.modSplit i fun sp => { sp with place := p }
    | none => s

/-- The warp slot that firmware steps (16 R326, R327): of the lowest context in which it holds a warp. -/
def State.stepping (s : State) (core : Nat) : Option (Tid × Nat) :=
  let c := s.core core
  if c.dbgctl.bit 0 then
    let slot := c.dbgctl.bits 12 8
    ([0, 1].map fun x => ({ core := core, ctx := x, slot := slot } : Tid)).find? (fun t => (s.thread t).live)
      |>.map fun t => (t, c.dbgctl.bits 14 13)
  else none

/-- The end of a bundle: the traps that strike after it (16 R309, R327), at the boundary before the next cycle. -/
def State.closeBundle (s : State) : State :=
  let c := s.cur
  let t := c.tid
  let s := { s with cur := Cur.idle }
  if c.dead || !(s.thread t).live then s
  else
    let s := s.placeIssued t c.split
    let sp := (s.thread t).split c.split
    let pc := if sp.live then sp.pc else c.next
    let stepped := s.stepping t.core == some (t, c.split)
    let s := if stepped then s.modCore t.core fun x => { x with dbgctl := x.dbgctl &&& ~~~1#32 } else s
    match c.after with
    | some r =>
      let s := if stepped then s.modThread t fun th => th.pend { cause := 0x0C, tval := 0#32, telem := 0 } else s
      s.enterTrap (s.clk + 1) t c.split { r with tepc := pc }
    | none => if stepped then s.enterTrap (s.clk + 1) t c.split { cause := 0x0C, tval := 0#32, telem := 0, tepc := pc } else s

/-- The first issue of a launch's bundle starts its cycle count (05 R104), and that of a task its own (04 R85). -/
def State.noteIssue (s : State) (t : Tid) : State :=
  let b := s.block t.core t.ctx
  let l := s.launch b.lid
  let s := if l.firstCycle.isNone then s.setLaunch b.lid { l with firstCycle := some s.clk } else s
  if t.isSluice && b.running.isSome && b.firstIssue.isNone && !(s.thread t).level then
    s.setBlock t.core t.ctx { b with firstIssue := some s.clk, paused := 0 }
  else s

/-- What becomes of a split's bundle. -/
inductive Attempt where
  | blocked (missed : Bool) (want : Option Word) (page : Option (Nat × Nat)) (parked : List (ResPort × Mask))
  | trap (r : TrapRec)
  | go (s : State)
deriving DecidableEq, Repr

/-- Issues the bundle of a split at a held line, if it does not wait and no check fails. What the bundle pops goes at its end, after its triggers
(03 R52 item 4): before those that move the thread elsewhere or end it. -/
def State.tryBundle (s : State) (t : Tid) (i : Nat) (line : List Word) : Attempt :=
  let th := s.thread t
  match codeTrap th t.isSluice (s.block t.core t.ctx).nregs line (th.split i) with
  | some r => .trap r
  | none =>
    let xs := slotsOf line (th.split i)
    let written := ((s.noteIssue t).openBundle t i line).runSlots .effect (xs.filter fun x => !x.isTrigger)
    let w := written.runSlots .waits xs
    if w.cur.wait then .blocked w.cur.basin w.cur.want w.cur.page (written.awaited xs)
    else match (written.runChecks xs).cur.trap with
      | some r => .trap r
      | none =>
        let moved := ((written.advance line).runSlots .finish xs).joinCommands xs
        let popped := (moved.fire (triggerOrder [0] xs)).popAll
        .go (popped.fire (triggerOrder [1, 2, 3] xs)).closeBundle

/-- The bundle of a split: its line must be held, and a fetch that ended in a fault traps, at the bundle where the split has had the line's header
and else at the header (15 R364). -/
def State.attempt (s : State) (t : Tid) (i : Nat) : Attempt :=
  let sp := (s.thread t).split i
  match s.codeLine t sp.pc with
  | some line => s.tryBundle t i line
  | none =>
    match sp.fetch with
    | some (a, cause) =>
      if a.toNat / 128 = sp.pc.toNat / 128 then
        let h := if sp.line = some (sp.pc.toNat / 128) then sp.pc else w32 (sp.pc.toNat / 128 * 128)
        .trap { cause := cause, tval := h, telem := 0, tepc := h }
      else .blocked false (some sp.pc) none []
    | none => .blocked false (some sp.pc) none []

/-! ## Choosing a split -/

/-- The switch of a split is made: its schedule and its next bundle (04 R81). -/
def State.makeSwitch (s : State) (t : Tid) (i g : Nat) (target : Word) : State :=
  s.modThread t fun th => th.modSplit i fun sp =>
    { sp with switch_ := none, sched := g, pc := target, arrive := .jump, want := none }

/-- A switch whose table word is read: the target is checked before the schedule changes (04 R81), and its line is fetched for that. A target
whose line cannot be fetched is left to the bundle there (15 R364). -/
def State.switchTo (s : State) (t : Tid) (i g : Nat) (target : Word) : State :=
  match s.codeLine t target with
  | some line => match targetTrap line target with
    | some r => (s.modThread t fun th => th.modSplit i fun sp => { sp with switch_ := none, fetch := none, want := none }).takeTrap t i r
    | none => s.makeSwitch t i g target
  | none =>
    if (((s.thread t).split i).fetchFault target).isSome then s.makeSwitch t i g target
    else s.modThread t fun th => th.modSplit i fun sp => { sp with want := some target }

/-- The switch that PSW has begun is made once the table word's line is held (04 R81); a fetch of it that ended in a
fault traps before the next bundle (15 R364). -/
def State.settleSwitch (s : State) (t : Tid) (i : Nat) : State :=
  let sp := (s.thread t).split i
  match sp.switch_ with
  | none => s
  | some (a, g) =>
    match s.codeLine t a with
    | some line => s.switchTo t i g (line.getD (lineWord a) 0#32)
    | none => match sp.fetch with
      | some (f, cause) =>
        if f.toNat / 128 = a.toNat / 128 then
          (s.modThread t fun th => th.modSplit i fun sp => { sp with switch_ := none, fetch := none }).takeTrap t i
            { cause := cause, tval := a, telem := 0, tepc := sp.pc }
        else s.modThread t fun th => th.modSplit i fun sp => { sp with want := some a }
      | none => s.modThread t fun th => th.modSplit i fun sp => { sp with want := some a }

/-- Nothing but the bundle itself holds the split back (05 R107; 16 R327, R328; 07 R133, R148). -/
def State.mayTry (s : State) (t : Tid) (i : Nat) : Bool :=
  let th := s.thread t
  let sp := th.split i
  th.live && sp.live && sp.ready = 0 && sp.wait.kind = 0 && !sp.rill && !sp.lease && !sp.stopped && sp.switch_.isNone
    && !th.dbgStop && !(s.core t.core).stopped && (s.block t.core t.ctx).frozen.isNone && !s.resuming t.core t.ctx
    && (match s.stepping t.core with
        | some (t', i') => t' ≠ t || i' = i
        | none => true)

/-- A refill or a switch of one of a thread's splits is between its bundle and its end: no trap strikes the thread now (04 R77,
R81; log 24). -/
def State.defers (s : State) (t : Tid) : Bool :=
  (s.thread t).splits.any fun sp => sp.live && (sp.rill || sp.switch_.isSome)

/-- Looks at a split: whether it is ready this cycle; if not, what it waits for is noted. -/
def State.look (s : State) (t : Tid) (i : Nat) : State × Bool :=
  let s := s.settleSwitch t i
  if !s.mayTry t i then (s, false)
  else match s.attempt t i with
    | .blocked missed want page parked =>
      (s.modThread t fun th => th.modSplit i fun sp =>
        { sp with want := want, page := page, place := if missed && !t.isSluice then .basin else sp.place,
                  parked := if missed then parked else [] }, false)
    | .trap _ => (s, !s.defers t)
    | .go after =>
      let sp := (s.thread t).split i
      let stall := if t.isSluice then 0 else match s.codeLine t sp.pc with
        | some line => bankStall (slotsOf line sp) sp
        | none => 0
      if s.defers t && (after.thread t).level && !(s.thread t).level then (s, false)
      else if sp.bank < stall then (s.modThread t fun th => th.modSplit i fun sp => { sp with bank := sp.bank + 1 }, false)
      else (s, true)

/-- Issues the bundle of a split that is ready. -/
def State.issueBundle (s : State) (t : Tid) (i : Nat) : State :=
  match s.attempt t i with
  | .blocked _ _ _ _ => s
  | .trap r => s.takeTrap t i r
  | .go s' => s'

/-- The split's age in the window or the restart set, and its bypass count. -/
def Split.standing (sp : Split) : Option (Bool × Nat × Nat) :=
  match sp.place with
  | .window a n => some (false, a, n)
  | .restart a => some (true, a, 0)
  | _ => none

/-- The first of two candidates to issue (05 R107, 06 R123 step 4): the restart set, oldest first; then the urgent, the
most bypassed first; then the oldest. -/
def before_ (a b : Bool × Nat × Nat) : Bool :=
  if a.1 ≠ b.1 then a.1
  else if a.1 then a.2.1 < b.2.1
  else if 57 ≤ a.2.2 || 57 ≤ b.2.2 then b.2.2 < a.2.2 || (a.2.2 == b.2.2 && a.2.1 < b.2.1)
  else a.2.1 < b.2.1

/-- The ready split that issues. -/
def State.pickReady (s : State) (ready : List (Tid × Nat)) : Option (Tid × Nat) :=
  ready.foldl (fun best p =>
    match ((s.thread p.1).split p.2).standing with
    | none => best
    | some x => match best with
      | none => some p
      | some q => match ((s.thread q.1).split q.2).standing with
        | some y => if before_ x y then some p else some q
        | none => some p) none

/-- The warp bundle of a core in this cycle. -/
def State.issueWarp (s : State) (core : Nat) : State :=
  let s := s.modCore core fun c => { c with warpIssued := true }
  let cands := (s.coreSplits core).filter fun p => ((s.thread p.1).split p.2).standing.isSome
  let (s, ready) := cands.foldl (fun acc p =>
    let (s', ok) := acc.1.look p.1 p.2
    (s', if ok then acc.2 ++ [p] else acc.2)) (s, [])
  match s.pickReady ready with
  | none => s
  | some (t, i) =>
    let s := ready.foldl (fun s p =>
      if p = (t, i) then s
      else s.modThread p.1 fun th => th.modSplit p.2 fun sp => match sp.place with
        | .window a n => { sp with place := .window a (n + 1) }
        | _ => sp) s
    s.issueBundle t i

/-- The Sluice bundle of a core in this cycle: the context that did not issue last goes first (05 R106). -/
def State.issueSluice (s : State) (core : Nat) : State :=
  let s := s.modCore core fun c => { c with sluiceIssued := [true, true] }
  let first := 1 - (s.core core).lastSluice % 2
  let one (s : State) (ctx : Nat) : State × Bool :=
    let t := sluiceOf core ctx
    if !(s.thread t).live then (s, false)
    else
      let (s, ok) := (s.thread t).liveSplits.foldl (fun acc i =>
        if acc.2.isSome then acc
        else
          let (s', ok) := acc.1.look t i
          (s', if ok then some i else none)) (s, (none : Option Nat))
      match ok with
      | some i => ((s.modCore core fun c => { c with lastSluice := ctx }).issueBundle t i, true)
      | none => (s, false)
  let (s, done) := one s first
  if done then s else (one s (1 - first)).1

end Sys2Proof.Machine
end

