-- ==== Sys2Proof/Machine/Schedule.lean ====
section
/-! DEFINITION. The order of events (log 5): what is due in the present cycle, which internal events may happen now, which
core issues next, and the end of a cycle. -/

namespace Sys2Proof.Machine

/-! ## Places to look -/

/-- The cores that hold a block. -/
def State.busyCores (s : State) : List Nat := (s.residents.map (·.1)).eraseDups

/-- The quads of which something is kept, and those of busy cores. -/
def State.busyQuads (s : State) : List Nat := (s.quads.map (·.1) ++ s.busyCores.map quadOf).eraseDups

/-- The threads and the entries of their split tables. -/
def State.allSplits (s : State) : List (Tid × Nat) := s.liveThreads.flatMap fun t => (List.range 4).map fun i => (t, i)

/-- An event with its arguments: the meaning of one of the internal events. The lists below hold the meanings themselves. -/
abbrev Deed := State → Host.Outcome State Fault Refusal

/-- An event, where it may happen. -/
def only (ok : Bool) (d : Deed) : List Deed := if ok then [d] else []

/-! ## Deliveries with a cycle of their own -/

/-- What is due in a thread, results first (01 R7, R8; 04 R80; 16 R310). -/
def State.dueIn (s : State) (t : Tid) : List Deed :=
  only (s.landingDue t) (execResultLanding t) ++ only (s.fillDue t) (execVariablePortFill t)
    ++ (List.range 4).flatMap fun i =>
      only (s.countOver t i false) (execDelayExpiry t i) ++ only (s.countOver t i true) (execWaitExpiry t i)
        ++ only (((s.thread t).split i).wait.kind ≤ 3 && s.waitOver t i) (execBarrierRestart t i)
        ++ only (s.watchdogOver t i) (execWatchdogExpiry t i)

/-- What is due in a core, or in one of its contexts. -/
def State.dueAt (s : State) (core : Nat) : List Deed :=
  only (s.tileDue core) (execTilestUpdate core) ++ only (s.heldMay core) (execHeldRecordEntry core)
    ++ [0, 1].flatMap fun x => only (s.overrun core x) (execTaskOverrun core x)

/-- What is due in a quad: the lease, and bands that have ramped for their 2,600 cycles (05 R110). -/
def State.dueInQuad (s : State) (quad : Nat) : List Deed :=
  only (s.leaseDue quad) (execLeaseGrant quad)
    ++ ((s.quad quad).ramping.filter fun r => r.2 ≤ s.clk).map fun r => execBandRampDone quad r.1

/-- The steps of a two-phase release (06 R124). -/
def State.weirSteps (s : State) (gen : Nat) : List Deed :=
  ((List.range 4).flatMap fun d =>
    only (s.gatherMay gen d) (execWeirGather gen d) ++ only (s.proposeMay gen d) (execRestartProposal gen d)
      ++ only (s.ackMay gen d) (execRestartAck gen d)) ++ only (s.confirmMay gen) (execRestartConfirm gen)

/-- What is due at a generation of SYNC: its steps take no time of their own while the mesh is whole. -/
def State.dueAtWeir (s : State) (gen : Nat) : List Deed :=
  only (s.lineMay gen) (execWeirLineGrant gen) ++ (if s.meshFull then s.weirSteps gen else [])
    ++ only (s.restartDue gen) (execWeirRestart gen)

/-- What is due of an engine command whose block is asked to yield (07 R141, R147). -/
def State.dueOfCmd (s : State) (c : Cmd) : List Deed :=
  only (s.signalMay c) (execCollectiveParkSignal c.core c.ctx c.tag) ++ only (s.parkMay c) (execEnginePark c.core c.ctx c.tag)

/-- What strikes a thread at its boundary: the trap of the trapping split's own bundle goes first (16 R324). -/
def State.boundaryDue (s : State) (t : Tid) : List Deed :=
  match s.boundaryTrap t with
  | none => []
  | some p =>
    let i := (s.thread t).firstSplit
    let own := s.mayTry t i && (t.isSluice || ((s.thread t).split i).standing.isSome) && match s.attempt t i with
      | .trap _ => true
      | _ => false
    only (!own) (execTakeTrap t i p.cause p.tval p.telem)

/-! ## Waiters whose page has a verdict (15 R303) -/

/-- The pages of an access on one of which a verdict stands. -/
def State.judged (s : State) (fn a n : Nat) : Bool := (pageStarts a n).any fun x => (s.verdict fn x).isSome

/-- The lanes of loads of a port that may receive their data now. -/
def State.arrivals (s : State) (t : Tid) (p : LoadPort) (which : LoadEntry → LoadLane → Bool) : List Deed :=
  ((s.thread t).queuesOf p).flatMap fun q => q.entries.flatMap fun e =>
    (e.lanes.filter fun x => which e x && s.arrivalMay t p e.seq x.lane).map fun x => execLoadDataArrival t p e.seq x.lane

/-- The requests that walkers may serve. -/
def State.walks (s : State) (which : Want → Bool) : List Deed :=
  ((s.wants.filter which).map fun w => (s.faultDie w.fn w.addr w.who.die, w.fn, w.addr / 4096)).eraseDups.filterMap fun x =>
    if (s.walkWants x.1 x.2.1 x.2.2).isEmpty then none else some (execPageWalk x.1 x.2.1 x.2.2)

/-- The code lines that splits of a core wait for and that may be fetched: function and line. -/
def State.linesWanted (s : State) (core : Nat) : List (Nat × Nat) :=
  ((s.coreThreads core).flatMap fun t =>
    let fn := (s.block t.core t.ctx).fn
    (s.thread t).splits.filterMap fun sp =>
      if sp.live then sp.want.map fun a => (fn, s.codeAddr t a / 128) else none).eraseDups.filter fun x => s.fetchMay core x.1 x.2

/-- The code fetches of a core. -/
def State.codeFetches (s : State) (core : Nat) (which : Nat × Nat → Bool) : List Deed :=
  ((s.linesWanted core).filter which).map fun x => execCodeFetch core x.1 x.2

/-- The requests for write grants that a quad may make. -/
def State.grantAsks (s : State) (quad : Nat) (which : Nat × Nat → Bool) : List Deed :=
  (((s.grantNeeds quad).map fun n => (n.1.fn, n.1.key)).eraseDups.filter fun x =>
    which x && (s.grantRequest quad x.1 x.2).isSome).map fun x => execWriteGrantRequest quad x.1 x.2

/-- What may happen to an atomic of a core. -/
def State.atomSteps (s : State) (core : Nat) : List Deed :=
  (s.core core).atoms.flatMap fun e => (e.lanes.map (·.addr)).eraseDups.flatMap fun a =>
    only (s.homeAtomMay core e.seq a 1) (execAtom core e.seq a) ++ only (s.homeAtomMay core e.seq a 2) (execHomeRed core e.seq a)
      ++ only (s.responseMay core e.seq a) (execAtomicResponse core e.seq a)

/-- Stores of a core that may be written. -/
def State.drains (s : State) (core : Nat) : List Deed :=
  (s.core core).stores.filterMap fun e => if s.drainMay core e.seq then some (execStoreDrain core e.seq) else none

/-- Waits of launches that the part owes a re-read (05 R93). -/
def State.owedReads (s : State) : List Deed :=
  s.launches.flatMap fun e => ((List.range e.2.waits.length).filter (s.rereadDue e.1)).map fun i => execWaitReread e.1 i

/-- Waits of launches whose word may be read again to some purpose. -/
def State.rereads (s : State) (which : Launch → LaunchWait → Bool) : List Deed :=
  s.launches.flatMap fun e => ((List.range e.2.waits.length).filter fun i =>
    (e.2.waits[i]?).any (which e.2) && s.rereadMay e.1 i).map fun i => execWaitReread e.1 i

/-- Queues whose next packet may be fetched. -/
def State.fetches (s : State) (which : Nat → Nat → Bool) : List Deed :=
  s.fns.flatMap fun f => (f.2.queues.filter fun q => which f.1 q.1 && s.arriveMay f.1 q.1).map fun q => execLaunchArrival f.1 q.1

/-- Records that may be posted. -/
def State.posts (s : State) (which : Launch → Bool) : List Deed :=
  (s.launches.filter fun e => which e.2 && s.postMay e.1).map fun e => execCompletionRecordPost e.1

/-- Requests of the host's that may be served at their home (14 R363). -/
def State.hostServes (s : State) (which : HostReq → Bool) : List Deed :=
  (s.pack.hostQ.map (·.fn)).eraseDups.flatMap fun f =>
    only ((s.hostNext f).any which && s.hostServeMay f) (execHostServe f)

/-- Engine commands whose element ends in a fault. -/
def State.elemFaults (s : State) : List Deed :=
  s.cmds.filterMap fun c => (s.elemFault c).map fun r => execEngineElementFault c.core c.ctx c.tag r.2

/-- Whoever waits for a page on which a verdict stands ends in its fault within the cycle (15 R303). -/
def State.dueByVerdict (s : State) : List Deed :=
  if s.dies.all fun e => e.2.verdicts.isEmpty then []
  else
    s.liveThreads.flatMap (fun t =>
      s.arrivals t .lg fun e x => s.judged (s.block t.core t.ctx).fn x.addr (widthBytes e.width))
    ++ s.walks (fun w => w.access == 4 && s.judged w.fn w.addr 1)
    ++ s.busyCores.flatMap (fun c => s.codeFetches c fun x => s.judged x.1 (x.2 * 128) 1)
    ++ s.busyQuads.flatMap (fun q => s.grantAsks q fun x => s.judged x.1 (x.2 * 4096) 1)
    ++ s.cores.flatMap (fun k =>
        (k.2.stores.filter fun e => e.global && (e.lanes.head?.any fun l => s.judged e.fn l.span.1 (max 1 l.span.2))
            && s.drainMay k.1 e.seq).map (fun e => execStoreDrain k.1 e.seq)
          ++ (k.2.atoms.flatMap fun e => (e.lanes.filter fun l => s.judged e.fn l.addr 4).flatMap fun l =>
              only (s.homeAtomMay k.1 e.seq l.addr 1) (execAtom k.1 e.seq l.addr)
                ++ only (s.homeAtomMay k.1 e.seq l.addr 2) (execHomeRed k.1 e.seq l.addr)
                ++ only (s.nearAtomFails e l.addr && s.responseMay k.1 e.seq l.addr) (execAtomicResponse k.1 e.seq l.addr)))
    ++ s.elemFaults
    ++ s.rereads (fun l w => s.judged l.fn w.addr 1)
    ++ s.fetches (fun fn q => (s.fetchNext fn q).any fun a => s.judged fn a.1 1)
    ++ s.posts (fun l => s.judged l.fn l.recAddr 1)
    ++ s.hostServes fun q => s.judged q.fn q.addr (max 1 q.length)

/-- The event that is due now: the first, in this order, of what has its own cycle. -/
def State.due (s : State) : Option Deed :=
  let ts := s.liveThreads
  (ts.flatMap s.dueIn ++ (s.cores.map (·.1)).flatMap s.dueAt ++ s.busyQuads.flatMap s.dueInQuad
    ++ s.dispatchers.flatMap (fun d => (d.2.standings.filter fun x => 64 ≤ x.2.passed).map fun x => execAgingPromotion d.1 x.1)
    ++ (s.weirs.map (·.1)).flatMap s.dueAtWeir ++ s.cmds.flatMap s.dueOfCmd ++ s.owedReads ++ s.dueByVerdict
    ++ s.busyCores.flatMap (fun c => only (s.entryDue c) (execWindowEntry c))
    ++ s.allSplits.flatMap (fun p => only (s.stopDue p.1 p.2) (execSafePointStop p.1 p.2))
    ++ ts.flatMap s.boundaryDue).head?

/-! ## Deliveries without a cycle of their own -/

/-- What may happen in a thread. -/
def State.mayIn (s : State) (t : Tid) : List Deed :=
  s.arrivals t .ls (fun _ _ => true) ++ s.arrivals t .lg (fun _ _ => true) ++ s.arrivals t .lw (fun _ _ => true)
    ++ (((s.thread t).queuesOf .lw).flatMap fun q => q.entries.flatMap fun e =>
        (e.lanes.filter fun x => s.serveMay t e.seq x.lane).map fun x => execWsBankServe t e.seq x.lane)
    ++ only (s.fillMay t) (execVariablePortFill t)
    ++ only (s.rillMay t) (execRillGrant t)
    ++ (List.range 4).flatMap fun i =>
      only (s.fenceOver t i) (execFenceDone t i) ++ only (((s.thread t).split i).wait.kind = 4 && s.waitOver t i) (execBarrierRestart t i)

/-- What may happen in a core. -/
def State.mayAt (s : State) (core : Nat) : List Deed :=
  s.drains core ++ s.atomSteps core ++ only (s.nextObject core).isSome (execBarrierObjectRmw core) ++ s.codeFetches core fun _ => true

/-- What may happen at a line of a quad cache. -/
def State.lineSteps (s : State) (quad key : Nat) : List Deed :=
  only (s.getsNeed quad key).isSome (execGets quad key) ++ only (s.ownNeed quad key false).isSome (execGetm quad key)
    ++ only (s.ownNeed quad key true).isSome (execUpg quad key) ++ only (s.mayEvict quad key 1) (execPuts quad key)
    ++ only (s.mayEvict quad key 2) (execPutm quad key) ++ only (s.mayPublish quad key) (execPublication quad key)
    ++ only (s.pubMay quad key) (execPub quad key) ++ only (s.grantFor quad key (· ≠ 5)).isSome (execLineGrant quad key)
    ++ only (s.grantFor quad key (· = 5)).isSome (execUnlinkAck quad key)

/-- The ranges with a write token. -/
def State.tokenRanges (s : State) : List Nat :=
  s.fns.flatMap fun f => ((List.range 64).filter fun i =>
    let r := s.range f.1 i
    r.valid && s.writePath r.slot = 2).map fun i => f.1 * 64 + i

/-- What may happen in a quad. -/
def State.mayInQuad (s : State) (quad : Nat) : List Deed :=
  let keys := ((s.loadNeeds quad ++ s.atomNeeds quad).map (·.key) ++ (s.quad quad).lines.map (·.1)
    ++ (s.grants.filter fun g => g.quad == quad).map (·.key)).eraseDups
  keys.flatMap (s.lineSteps quad) ++ s.grantAsks quad (fun _ => true)
    ++ ((s.quad quad).grantWant.map fun x => execWriteGrantAnswer quad x.1 x.2)
    ++ ((s.quad quad).ramping.map fun r => execBandRampDone quad r.1)
    ++ s.tokenRanges.flatMap fun r =>
      only (s.wantsToken quad r) (execTreq quad r) ++ only (s.drained quad r) (execTdone quad r)

/-- What may happen at the directory entry of a line. -/
def State.homeSteps (s : State) (key : Nat) : List Deed :=
  only (s.walkAt key 0).isSome (execInvalidationWalk key) ++ only (s.walkAt key 1).isSome (execUpdateWalk key)
    ++ only (s.wackMay key) (execWack key) ++ only (s.recallAt key 1).isSome (execRecall key)
    ++ only (s.recallAt key 2).isSome (execDowngrade key) ++ only (s.dataMay key) (execDataAnswer key)

/-- What may happen at a die. -/
def State.mayAtDie (s : State) (die : Nat) (d : Die) : List Deed :=
  (d.dir.map (·.1)).flatMap (fun k => s.homeSteps k ++ only (s.queueMay die k) (execQueuedRequests die k))
    ++ ((d.buffer.map (·.fn)).eraseDups.filterMap fun f =>
        if s.hostLink && (s.nextEntry die f).isSome && (s.fn f).ringRoom && !(s.fn f).fenced then some (execFaultEntryWrite die f) else none)
    ++ only (s.logMay die) (execLogApply die)

/-- What an engine command may do. -/
def State.cmdSteps (s : State) (c : Cmd) : List Deed :=
  only (s.startMay c) (execEngineCommandStart c.core c.ctx c.tag)
    ++ only (s.commitMay c) (execEngineElementCommit c.core c.ctx c.tag)
    ++ only (s.takeMay c) (execCollectiveSegmentHandoff c.core c.ctx c.tag)
    ++ only (s.completeMay c) (execEngineCommandComplete c.core c.ctx c.tag)

/-- The internal events that may happen now, in any order (log 5). -/
def State.candidates (s : State) : List Deed :=
  s.liveThreads.flatMap s.mayIn ++ (s.cores.map (·.1)).flatMap s.mayAt ++ s.busyQuads.flatMap s.mayInQuad
    ++ s.dies.flatMap (fun e => s.mayAtDie e.1 e.2) ++ s.walks (fun _ => true)
    ++ s.tokenRanges.flatMap (fun r =>
        let t := s.tokenOf r
        only (t.1 = 10 && (s.localInRange t.2 r).any (s.mayPublish t.2)) (execTokenDrainRequest r))
    ++ s.cmds.flatMap s.cmdSteps ++ s.elemFaults ++ s.rereads (fun _ _ => true) ++ s.fetches (fun _ _ => true) ++ s.posts (fun _ => true)
    ++ s.hostServes (fun _ => true)
    ++ (List.range 4).flatMap (fun d => only (s.decisionMay d) (execPlacementDecision d))
    ++ (s.weirs.map (·.1)).flatMap s.weirSteps
    ++ s.weirs.flatMap (fun w => only (s.podWeir w.2.lid = some w.1) (execPodSyncArrival w.2.lid s.pack.pkg))
    ++ s.residents.flatMap (fun p => only (s.saveMay p.1 p.2) (execSave p.1 p.2))
    ++ (List.range s.saved.length).flatMap (fun i => ((List.range 256).filter (s.resumeMay i)).map fun c => execResume i c)
    ++ only s.pack.plbusy execProtocolVerifyDone

/-- The choice among the internal events and the end of the deliveries (log 5). -/
def State.chosen (s : State) : Option Deed :=
  let cs := s.candidates
  if cs.isEmpty then none
  else
    let n := Config.choice s.draws % (cs.length + 1)
    if n = 0 then none else cs[n - 1]?

/-! ## The end of a cycle -/

/-- A core at the end of a cycle. The pointer over warp slots moves by one slot in every cycle: 05 R106 says that it rotates, and not how
(DESIGN CHOICE; log 23). -/
def Core.endCycle (c : Core) : Core :=
  { c with
    ashape := (lateOrder c.late).foldl (fun v w => if w.reg = 0x140 then w.val else v) c.ashape, late := [],
    warpIssued := false, sluiceIssued := [false, false], picked := [false, false], rr := (c.rr + 1) % 64 }

/-- A table all of whose values change. -/
def Tab.mapAll {α : Type} [DecidableEq α] (d : α) (m : Tab α) (f : α → α) : Tab α :=
  m.filterMap fun e => if f e.2 = d then none else some (e.1, f e.2)

/-- Retry buffers of links clear at an instant that the spec leaves open (log 35). -/
def State.clearLinks (s : State) : State :=
  if s.pack.links.all (·.unacked.isEmpty) then s
  else if Config.choice s.draws % 2 = 0 then s.drawn
  else { s.drawn with pack := { s.pack with links := s.pack.links.map fun l => { l with unacked := [] } } }

/-- The end of a cycle: barriers and SYNC take the arrivals of the cycle, releases that are over are dropped, a cache may give something up, late
writes become visible, and the deliveries of the next cycle begin. -/
def State.tick (s : State) : State :=
  let s := s.residents.foldl (fun s p => s.settleBlock p.1 p.2) s
  let s := s.liveThreads.foldl (fun s t => (s.settleAcquires t).pruneReleases t) s.settleWeirs
  let s := s.clearLinks.evictSome
  { s with
    clk := s.clk + 1, settled := false,
    blocks := Tab.mapAll Block.empty s.blocks Block.endCycle,
    cores := Tab.mapAll Core.reset s.cores Core.endCycle,
    dies := Tab.mapAll Die.reset s.dies fun d => { d with verdicts := [], turns := [] } }

/-! ## Issue -/

/-- A core whose Sluice contexts, or else whose warps, have not had their turn in this cycle. The Sluice bundle goes first, so that a DQP is
visible to the warp bundle of its own cycle: 02 R18 does not say from when a pushed entry is (DESIGN CHOICE; log 64). -/
def State.nextIssuer (s : State) : Option (Nat × Bool) :=
  s.busyCores.findSome? fun c =>
    let k := s.core c
    let sluice := [0, 1].any fun x => (s.thread (sluiceOf c x)).live
    if sluice && !k.sluiceIssued.headD true then some (c, true)
    else if !k.warpIssued && !(s.coreWarps c).isEmpty then some (c, false)
    else none

/-- A context whose sequencer picks a task in this cycle. -/
def State.nextPicker (s : State) : Option (Nat × Nat) :=
  s.residents.find? fun p => !(s.core p.1).picked.getD p.2 true && s.mayPick p.1 p.2

/-- One step of the second part of a cycle: a bundle of a core, a pick of a sequencer, or the end of the cycle. -/
def State.issueNext (s : State) : Host.Outcome State Fault Refusal :=
  match s.nextIssuer with
  | some (c, true) => .next (s.issueSluice c)
  | some (c, false) => .next (s.issueWarp c)
  | none =>
    match s.nextPicker with
    | some (c, x) => execSequencerPick c x (s.modCore c fun k => { k with picked := k.picked.set x true })
    | none => .next s.tick

end Sys2Proof.Machine
end

