-- ==== Sys2Proof/Machine/Step.lean ====
section
/-! DEFINITION. One step of the machine (log 5), and the placing of an instruction for the next step (log 4). -/

namespace Sys2Proof.Machine

/-- One step: while the deliveries of the cycle go on, an outside input, a due event, or a free choice among the internal
events and the end of the deliveries; then the bundles of the cores, and the end of the cycle. -/
def step (s : State) : Host.Outcome State Fault Refusal :=
  if s.settled then s.issueNext
  else match s.agenda with
    | i :: rest => exec i { s with agenda := rest }
    | [] => match s.due with
      | some d => d s
      | none => match s.chosen with
        | some d => d s.drawn
        | none => .next { s.drawn with settled := true }

/-! ## Placing an instruction (log 4) -/

/-- The code line with one bundle of one move, present in slot 0, with as many immediate words, of zeros, as its source
names (03 R33, R37). -/
def fetchLine (word : Word) : List Word :=
  let nimm := if isImmWord word then srcId word - 0x0E2 else 0
  [1#32, 0#32, w32 (nimm * 2 ^ 18 + 1), word] ++ List.replicate 28 0#32

/-- The block that holds the placed instruction's thread. -/
def fetchBlock (lid : Nat) (sluice : Bool) : Block :=
  { Block.empty with
    resident := true, lid := lid, nblk := 1, scratchSize := 65536, warps := if sluice then 0 else 1, nregs := 128, entry := 8#32,
    tasks := if sluice then [{ entry := 8#32, armed := false, waits := [], cycles := 2 ^ 20 }] else [],
    running := if sluice then some 0 else none, armed := if sluice then [false] else [] }

/-- The thread that issues the placed instruction: lane 0, about to issue its first bundle. -/
def fetchThread (clk : Nat) : Thread :=
  { Thread.empty with
    live := true, occupied := 1#32,
    splits := { startSplit 8#32 1#32 clk with arrive := .fall, place := .window 0 0 } :: List.replicate 3 Split.empty }

/-- A core that has nothing to issue in the present cycle. -/
def Core.issued (c : Core) : Core := { c with warpIssued := true, sluiceIssued := [true, true], picked := [true, true] }

/-- The state in which the next step issues a bundle of one move: a block is resident in context 0 of core 0, its only thread
(a warp, or the Sluice context for a move that only Sluice code may hold) is about to issue it, and no other core has a
bundle to issue before it in this cycle (log 4). -/
def State.withFetchWord (s : State) (nbits w : Nat) : State :=
  let word := w32 (w % 2 ^ nbits)
  let sluice := portIllegal false word
  let t : Tid := if sluice then sluiceOf 0 0 else { core := 0, ctx := 0, slot := 0 }
  let s := { s with
    settled := true, cur := Cur.idle, cores := s.cores.map fun (e : Nat × Core) => (e.1, e.2.issued),
    threads := s.threads.filter fun (e : Nat × Thread) => 128 ≤ e.1, blocks := s.blocks.filter fun (e : Nat × Block) => 2 ≤ e.1,
    weirs := s.weirs.filter fun (e : Nat × Weir) => !e.2.blocks.contains (0, 0) }
  let s := (s.setBlock 0 0 (fetchBlock s.nextLid sluice)).setThread t (fetchThread s.clk)
  s.modCore 0 fun c => { c with
    warpIssued := false, sluiceIssued := [false, false], stopped := false, dbgctl := 0#32,
    icode := Tab.set [] c.icode (s.codeKey t 8#32) (fetchLine word) }

end Sys2Proof.Machine
end

