-- ==== Sys2Proof/Safety.lean ====
section
/-! DEFINITION. What counts as a safe run, in the terms that statements use: memories in canonical form, steps that go on, and
the conditions under which a move, issued as a bundle of its own, takes its effect. -/

namespace Sys2Proof.Machine

/-- The memories of the part and of the host are in canonical form. -/
def State.memoryWf (s : State) : Prop := Memory.wf s.mem = true ∧ Memory.wf s.hostMem = true

/-- An outcome goes on: it is a next state. -/
def goesOn (o : Host.Outcome State Fault Refusal) : Prop := ∃ t, o = .next t

/-- A move is being issued as a bundle of its own (log 7), by a split of the issuing thread. -/
def State.alone (s : State) : Bool :=
  s.cur.on && decide (s.cur.phase = .whole) && decide (s.cur.split < s.self.splits.length) && decide (s.cur.takes = Takes.none_)

/-- A move's guard is true in some lane of its split, its source is ready there, and no fault waits in what it reads (01 R9,
03 R44, 11 R228). -/
def State.sourced (s : State) (h : Head) : Bool :=
  s.guard h.guard ≠ 0#32 && !s.srcWaits h.src false (s.guard h.guard) && (s.srcFault h.src (s.guard h.guard)).isNone

/-- A trigger may go ahead as far as its source and its operands are concerned: nothing that it reads carries a poison tag
(11 R229) or has been struck by a soft error (16 R331). -/
def State.primed (s : State) (h : Head) (r : Reads) : Bool :=
  s.alone && s.sourced h && !r.tagged s h (s.guard h.guard) && !r.struck s (s.guard h.guard)

/-- The latch that a move's hold code names, and its age (03 R45). -/
def latchOf (h : Head) : Reg := .lat (h.hold.val - 1)
def latchAgeOf (h : Head) : Reg := .age (h.hold.val - 1)

/-- What the end of a move's bundle does to the state `s` that its effect left: in the lanes of `m` the latch that its hold
code names takes the value `v` that the move delivered, readable by the next two bundles (03 R45); where the move pops, the pop of a
variable-latency port in those lanes is noted for the end of the bundle (03 R47); all else stands. -/
structure Latched (h : Head) (m : Mask) (v : Nat → Word) (pop : Bool) (s t : State) : Prop where
  state : t = { s with threads := t.threads, cur := t.cur }
  cur : t.cur = { s.cur with pops := t.cur.pops, popMask := t.cur.popMask }
  pops : pop = false ∨ (∀ p, h.src = .port p → p.variable = false) ∨ m = 0#32 → t.cur = s.cur
  popped : pop = true → ∀ p, h.src = .port p → p.variable = true → m ≠ 0#32 →
    p ∈ t.cur.pops ∧ Tab.get 0#32 t.cur.popMask p.code = Tab.get 0#32 s.cur.popMask p.code ||| m
  others : ∀ k : Tid, k.key ≠ s.cur.tid.key → t.thread k = s.thread k
  thread : ∃ x y z, t.self = { s.self with regs := x, bad := y, poison := z }
  regs : ∀ (r : Reg) (l : Nat), h.hold = 0 ∨ (r.id ≠ (latchOf h).id ∧ r.id ≠ (latchAgeOf h).id) → t.self.rd r l = s.self.rd r l
  tags : ∀ r : Reg, h.hold = 0 ∨ r.id ≠ (latchOf h).id → t.self.tags r = s.self.tags r
  struck : ∀ (r : Reg) (l : Nat), h.hold = 0 ∨ (r.id ≠ (latchOf h).id ∧ r.id ≠ (latchAgeOf h).id) →
    Tab.get false t.self.bad (r.key l) = Tab.get false s.self.bad (r.key l)
  latch : h.hold ≠ 0 → ∀ l, l < 32 → m.getLsbD l = true → t.self.rd (latchOf h) l = v l ∧ t.self.rd (latchAgeOf h) l = 2#32
  kept : h.hold ≠ 0 → ∀ l, l < 32 → m.getLsbD l = false →
    t.self.rd (latchOf h) l = s.self.rd (latchOf h) l ∧ t.self.rd (latchAgeOf h) l = s.self.rd (latchAgeOf h) l

end Sys2Proof.Machine
end

