-- ==== Sys2Proof/Certificates/Slice0/Obligations.lean ====
section
/-! DEFINITION. The statements for the provers, in the order of OBLIGATIONS.json. Statements about a move are about its bundle
when it is issued by itself (`State.primed`, log 7); what the end of such a bundle leaves is `Latched`. -/

set_option linter.unusedVariables false

namespace Sys2Proof.Claim

open Sys2Proof.Machine

/-! ## What statements about moves share -/

/-- A trigger that reads `r`, wherever its source is ready, its operands carry no poison tag and `ok` holds, answers a next state:
the one that `after` gives, at the end of its bundle. -/
def does (i : Instr) (h : Head) (r : Reads) (ok : State → Prop) (after : State → State) : Prop :=
  ∀ s : State, s.primed h r = true → ok s →
    ∃ t, exec i s = .next t ∧ Latched h (s.guard h.guard) (s.trig h) true (after s) t

/-- A result on its way to its port (01 R7): in the lanes of `m`, at the issue cycle plus the latency. -/
def flightTo (s : State) (unit : Nat) (m : Mask) (q : Nat → Word) (f : Nat → BitVec 4) (raised : BitVec 5) (latency : Nat) : Flight :=
  { unit := unit, mask := m, vals := lanes32 fun l => if m.getLsbD l then q l else 0#32,
    flags := (List.range 32).map fun l => if m.getLsbD l then f l else 0#4, raised := raised, due := s.clk + latency,
    split := s.cur.split }

/-- The state in which the issuing thread has more results on their way. -/
def inFlight (s : State) (fs : List Flight) : State := s.modThread s.cur.tid fun th => { th with flights := th.flights ++ fs }

/-- The thread has room for `n` more in-flight records of its four (16 R316). -/
def room (n : Nat) (s : State) : Prop := s.self.flights.length + n ≤ 4

/-- The participants' lanes, lowest first (08 R159). -/
def lanesIn (p : Mask) : List Nat := (List.range 32).filter fun l => p.getLsbD l

/-! ## Encodings (03 R43 to R60) -/

/-- The field [hi:lo] of a word. -/
def field (w hi lo : Nat) : Nat := w / 2 ^ lo % 2 ^ (hi - lo + 1)

/-- Source ids that 03 R49 reserves. -/
def reservedSource (n : Nat) : Bool := (0xA5 ≤ n && n ≤ 0xBF) || (0xF7 ≤ n && n ≤ 0xFF)

/-- Destination ids that 03 R50 reserves. -/
def reservedDestination (n : Nat) : Bool := n == 0xB8 || n == 0xBE || n == 0xBF || (0xE0 ≤ n && n ≤ 0xFB)

/-- Opcodes that 03 R55 to R60 reserve at a trigger port. -/
def reservedOpcode (dst op : Nat) : Bool :=
  match dst with
  | 0x81 | 0x83 => 0x2D ≤ op
  | 0x86 | 0x89 => 0x50 ≤ op || (0x1C ≤ op && op ≤ 0x27 && op % 4 != 0)
  | 0x8A | 0xAC | 0xAF | 0xB2 | 0xB6 => 0x08 ≤ op
  | 0x8C => op == 0x06 || op == 0x07 || 0x0B ≤ op
  | 0x8E => 0x17 ≤ op
  | 0x90 => 0x0E ≤ op
  | 0x91 => 0x07 ≤ op
  | 0x93 => op % 8 == 7 || field op 6 5 == 3 || field op 4 3 == 3
  | 0x94 => op < 4 || 7 ≤ op
  | 0x9A => 8 ≤ op || op == 1 || op == 3
  | 0xA1 => op % 8 == 1 || op % 8 == 3 || field op 6 5 == 3 || field op 4 3 != 0
  | 0xA4 => 13 ≤ op
  | 0xA8 => 13 ≤ op % 16 || field op 6 4 == 7
  | 0xA9 => op % 16 == 8 || op % 16 == 9 || 13 ≤ op % 16 || field op 6 4 == 7
  | 0xB4 => (0x09 ≤ op && op ≤ 0x0F) || (0x1A ≤ op && op ≤ 0x1F) || (0x2A ≤ op && op ≤ 0x2F) || 0x3A ≤ op
  | 0xB7 => 1 ≤ op
  | 0xBA | 0xBD => 3 ≤ op
  | 0xBB | 0xBC => 2 ≤ op
  | _ => false

/-- Rows of the opcode table that are moves: those that have an encoding. -/
def isMove (i : Instr) : Bool := i.parts.isSome

end Sys2Proof.Claim

open Sys2Proof Sys2Proof.Machine Sys2Proof.Claim

/-- 03 R43 to R60: every well-formed move has a word, every word of a well-formed move decodes to that move with all its fields,
and the table's numbering of the word's bits gives the same. -/
def Obligations.EncodedMovesDecode : Prop :=
  (∀ i : Instr, ∀ w : Nat, i.wellFormed = true → encode i = some w →
    w < 2 ^ 32 ∧ decodeMove w = .instr i ∧ decodeTableWord 32 w = some i)
  ∧ ∀ (h : Head) (d : Dst) (m : Mods), (Instr.move h d m).wellFormed = true → ∃ w, encode (.move h d m) = some w

/-- 03 R43 to R60: a word that decodes is the word of the instruction that it decodes to, which is well formed: no two words are
one instruction, and no bit of a word is dropped. -/
def Obligations.DecodedWordsEncode : Prop :=
  ∀ (w : Nat) (i : Instr), w < 2 ^ 32 → decodeMove w = .instr i → i.wellFormed = true ∧ encode i = some w

/-- 03 R44, R49, R50, R55 to R61: reserved guards, sources and destinations are illegal moves, and a reserved opcode at a trigger
port is an illegal opcode. -/
def Obligations.ReservedWordsRefused : Prop :=
  ∀ w : Nat, w < 2 ^ 32 →
    (field w 29 26 = 15 → field w 31 30 = 3 → decodeMove w = .error .illegalMove)
    ∧ (reservedSource (field w 17 9) = true → decodeMove w = .error .illegalMove)
    ∧ (reservedDestination (field w 25 18) = true → decodeMove w = .error .illegalMove)
    ∧ (¬(field w 29 26 = 15 ∧ field w 31 30 = 3) → reservedSource (field w 17 9) = false →
        reservedOpcode (field w 25 18) (field w 6 0) = true → decodeMove w = .error .illegalOpcode)

/-- 08 R158, 11 R219, 10, 04: words that the spec writes out stand for the moves that it gives beside them. -/
def Obligations.WrittenWordsDecode : Prop :=
  let plain (x : Src) : Head := { guard := .always, src := x, hold := 0 }
  decodeMove 0x3E38060A = .instr (.wadd (plain (.g 3)))
  ∧ decodeMove 0x3E380415 = .instr (.pln (plain (.g 2)))
  ∧ decodeMove 0x3E360200 = .instr (.move (plain (.short 1#8)) (.port .xa) { try_ := false, pop := false, half := .word, sign := .keep })
  ∧ decodeMove 0x3E35D200 = .instr (.move (plain (.ident .lane)) (.port .xa) { try_ := false, pop := false, half := .word, sign := .keep })
  ∧ decodeMove 0x3E4C0204 = .instr (.ldg (plain (.g 1)) .w .normal)
  ∧ decodeMove 0x3E4C020C = .instr (.ldgs (plain (.g 1)) .w .normal)
  ∧ decodeMove 0x3E4C0214 = .instr (.pfg (plain (.g 1)) .w .normal)
  ∧ decodeMove 0x3E4C0446 = .instr (.ldg (plain (.g 2)) .q .keep)
  ∧ decodeMove 0x3E500606 = .instr (.ldw (plain (.g 3)) .q)
  ∧ decodeMove 0x3E680807 = .instr (.sts (plain (.g 4)) .m)
  ∧ decodeMove 0x3E840A25 = .instr (.stg (plain (.g 5)) .d .stream)
  ∧ decodeMove 0x3E900C00 = .instr (.atsAdd (plain (.g 6)))
  ∧ decodeMove 0x3EA00E29 = .instr (.atgCas (plain (.g 7)) .di)
  ∧ decodeMove 0x3EA41040 = .instr (.redAdd (plain (.g 8)) .pk)
  ∧ decodeMove 0x3C112410 = .instr (.move (plain (.port (.lg 0))) (.g 4) { try_ := false, pop := true, half := .word, sign := .keep })
  ∧ decodeMove 0x3C152610 = .instr (.move (plain (.port (.lg 1))) (.g 5) { try_ := false, pop := true, half := .word, sign := .keep })

namespace Sys2Proof.Claim

/-! ## The ALU (08 R152 to R156) -/

/-- The flags word of an ALU result (08 R153): S is bit 31 of q, Z is 1 exactly when q is 0. -/
def flagsOf (q : Word) (c v : Bool) : BitVec 4 :=
  BitVec.ofNat 4 ((q.getLsbD 31).toNat * 8 + (decide (q = 0#32)).toNat * 4 + c.toNat * 2 + v.toNat)

/-- The carry-in of ADC and SBC (08 R152): the C flag of the unit's own .f port in the lane. -/
def carryIn (s : State) (u : Fin 2) (l : Nat) : Bool := (s.self.rd (.res (if u = 0 then .a0f else .a1f)) l).getLsbD 1

/-- What an ALU operation gives in a lane: q, C and V from a, t and the carry-in. -/
structure AluRow where
  make : Head → Fin 2 → Instr
  readsA : Bool
  readsT : Bool
  latency : Nat
  q : Word → Word → Bool → Word
  c : Word → Word → Bool → Bool
  v : Word → Word → Bool → Bool
  carries : Bool := false

/-- No soft error has struck the flags port of the unit, where the row reads its carry there (16 R331). -/
def carryClean (e : AluRow) (h : Head) (u : Fin 2) (s : State) : Prop :=
  e.carries = true → s.self.struck (.res (if u = 0 then .a0f else .a1f)) (s.guard h.guard) = false

/-- The result of an ALU row on its way. -/
def aluFlight (e : AluRow) (h : Head) (u : Fin 2) (s : State) : Flight :=
  let a (l : Nat) := s.self.rd (.op (if u = 0 then .a0a else .a1a)) l
  let q (l : Nat) := e.q (a l) (s.trig h l) (carryIn s u l)
  flightTo s u.val (s.guard h.guard) q
    (fun l => flagsOf (q l) (e.c (a l) (s.trig h l) (carryIn s u l)) (e.v (a l) (s.trig h l) (carryIn s u l))) 0#5 e.latency

/-- What an ALU row reads. -/
def aluReads (e : AluRow) (u : Fin 2) : Reads :=
  { ops := if e.readsA then [if u = 0 then .a0a else .a1a] else [], t := e.readsT, wide := false }

/-- An exact signed value outside 32 bits. -/
def outside (x : Int) : Bool := x < -2147483648 || 2147483647 < x

/-- The nearest value to `x` in 32 signed bits. -/
def clamped (x : Int) : Word := BitVec.ofInt 32 (if x < -2147483648 then -2147483648 else if 2147483647 < x then 2147483647 else x)

/-- C and V of the rows that clear both. -/
def never (a t : Word) (cin : Bool) : Bool := false

/-- A row that reads a and t, with latency 1 and C and V 0. -/
def plainRow (make : Head → Fin 2 → Instr) (q : Word → Word → Word) : AluRow :=
  { make := make, readsA := true, readsT := true, latency := 1, q := fun a t _ => q a t, c := never, v := never }

/-- A row that reads t only. -/
def unaryRow (make : Head → Fin 2 → Instr) (q : Word → Word) : AluRow :=
  { make := make, readsA := false, readsT := true, latency := 1, q := fun _ t _ => q t, c := never, v := never }

/-- A sum of a and a term of t, with a carry-in. -/
def sumRow (make : Head → Fin 2 → Instr) (term : Word → Word) (cin : Bool → Bool) : AluRow :=
  { make := make, readsA := true, readsT := true, latency := 1,
    q := fun a t c => a + term t + (if cin c then 1#32 else 0#32),
    c := fun a t c => 2 ^ 32 ≤ a.toNat + (term t).toNat + (cin c).toNat,
    v := fun a t c => outside (a.toInt + (term t).toInt + (cin c).toNat) }

/-- The sums and differences of 08 R153. -/
def aluSums : List AluRow :=
  [sumRow .add id fun _ => false, { sumRow .adc id id with carries := true }, sumRow .ads1 (· <<< 1) fun _ => false, sumRow .ads2 (· <<< 2) fun _ => false,
   sumRow .ads3 (· <<< 3) fun _ => false, sumRow .ads4 (· <<< 4) fun _ => false,
   { make := .sub, readsA := true, readsT := true, latency := 1, q := fun a t _ => a - t,
     c := fun a t _ => t.toNat ≤ a.toNat, v := fun a t _ => outside (a.toInt - t.toInt) },
   { make := .sbc, readsA := true, readsT := true, latency := 1, q := fun a t c => a - t - (if c then 0#32 else 1#32),
     c := fun a t c => t.toNat + 1 - c.toNat ≤ a.toNat, v := fun a t c => outside (a.toInt - t.toInt - (1 - c.toNat)),
     carries := true },
   { make := .rsb, readsA := true, readsT := true, latency := 1, q := fun a t _ => t - a,
     c := fun a t _ => a.toNat ≤ t.toNat, v := fun a t _ => outside (t.toInt - a.toInt) },
   { make := .addv, readsA := true, readsT := true, latency := 1, q := fun a t _ => clamped (a.toInt + t.toInt),
     c := fun a t _ => 2 ^ 32 ≤ a.toNat + t.toNat, v := fun a t _ => outside (a.toInt + t.toInt) },
   { make := .subv, readsA := true, readsT := true, latency := 1, q := fun a t _ => clamped (a.toInt - t.toInt),
     c := fun a t _ => t.toNat ≤ a.toNat, v := fun a t _ => outside (a.toInt - t.toInt) }]

/-- The products of 08 R153, of latency 3. -/
def aluProducts : List AluRow :=
  [{ plainRow .mul fun a t => a * t with latency := 3 },
   { plainRow .mulh fun a t => BitVec.ofInt 32 (a.toInt * t.toInt / 2 ^ 32) with latency := 3 },
   { plainRow .mulhn fun a t => BitVec.ofNat 32 (a.toNat * t.toNat / 2 ^ 32) with latency := 3 }]

/-- How many of a word's bits are set. -/
def ones (t : Word) : Nat := ((List.range 32).filter fun i => t.getLsbD i).length

/-- The logic, order and bit rows of 08 R153. -/
def aluBits : List AluRow :=
  [plainRow .and (· &&& ·), plainRow .or (· ||| ·), plainRow .xor (· ^^^ ·), plainRow .andn fun a t => a &&& ~~~t,
   plainRow .orn fun a t => a ||| ~~~t,
   plainRow .min fun a t => if a.toInt < t.toInt then a else t, plainRow .max fun a t => if a.toInt < t.toInt then t else a,
   plainRow .minn fun a t => if a.toNat < t.toNat then a else t, plainRow .maxn fun a t => if a.toNat < t.toNat then t else a,
   unaryRow .abs fun t => if t.toInt < 0 then 0#32 - t else t,
   unaryRow .popc fun t => BitVec.ofNat 32 (ones t),
   unaryRow .clz fun t => BitVec.ofNat 32 (if t = 0#32 then 32 else 31 - t.toNat.log2),
   unaryRow .brev fun t => maskWhere fun j => t.getLsbD (31 - j),
   unaryRow .bswp fun t => maskWhere fun j => t.getLsbD (8 * (3 - j / 8) + j % 8),
   unaryRow .sxb fun t => (t.truncate 8).signExtend 32, unaryRow .sxh fun t => (t.truncate 16).signExtend 32,
   unaryRow .zxb fun t => (t.truncate 8).zeroExtend 32, unaryRow .zxh fun t => (t.truncate 16).zeroExtend 32,
   { plainRow .mova fun a _ => a with readsT := false }]

/-- CTZ (08 R153): a count below which every bit of t is clear, at which it is set, or 32. -/
def zerosBelow (t q : Word) : Prop :=
  q.toNat ≤ 32 ∧ (∀ i, i < q.toNat → t.getLsbD i = false) ∧ (q.toNat < 32 → t.getLsbD q.toNat = true)

/-- The shifts and rotations of 08 R154. -/
def aluShifts : List AluRow :=
  [{ plainRow .shl fun a t => if 32 ≤ t.toNat then 0#32 else a <<< t.toNat with
     c := fun a t _ => decide (1 ≤ t.toNat) && decide (t.toNat ≤ 32) && a.getLsbD (32 - t.toNat) },
   { plainRow .shr fun a t => if 32 ≤ t.toNat then 0#32 else a >>> t.toNat with
     c := fun a t _ => decide (1 ≤ t.toNat) && decide (t.toNat ≤ 32) && a.getLsbD (t.toNat - 1) },
   { plainRow .sar fun a t => maskWhere fun j => a.getLsbD (if t.toNat + j < 32 then t.toNat + j else 31) with
     c := fun a t _ => if t.toNat = 0 then false else if t.toNat ≤ 32 then a.getLsbD (t.toNat - 1) else a.getLsbD 31 },
   { plainRow .rol fun a t => maskWhere fun j => a.getLsbD ((j + 32 - t.toNat % 32) % 32) with
     c := fun a t _ => decide (t.toNat % 32 ≠ 0) && a.getLsbD (32 - t.toNat % 32) },
   { plainRow .ror fun a t => maskWhere fun j => a.getLsbD ((j + t.toNat % 32) % 32) with
     c := fun a t _ => decide (t.toNat % 32 ≠ 0) && a.getLsbD (t.toNat % 32 - 1) }]

/-- The bit fields of 08 R156. -/
def fieldBits (t : Word) : Nat := min (min (t.toNat / 256 % 64) 32) (32 - t.toNat % 32)

def aluFields : List AluRow :=
  [plainRow .bfe fun a t => if fieldBits t = 0 then 0#32
      else maskWhere fun j => a.getLsbD (t.toNat % 32 + if j < fieldBits t then j else fieldBits t - 1),
   plainRow .bfen fun a t => maskWhere fun j => decide (j < fieldBits t) && a.getLsbD (t.toNat % 32 + j)]

/-- A quotient truncated toward zero. -/
def quotient (a t : Int) : Int := if (a < 0) = (t < 0) then (a.natAbs / t.natAbs : Nat) else -((a.natAbs / t.natAbs : Nat) : Int)

/-- The divides of 08 R155. -/
def aluDivides : List AluRow :=
  [{ plainRow .div fun a t => if t = 0#32 then 0xFFFFFFFF#32 else BitVec.ofInt 32 (quotient a.toInt t.toInt) with latency := 16 },
   { plainRow .rem fun a t => if t = 0#32 then a else a - t * BitVec.ofInt 32 (quotient a.toInt t.toInt) with latency := 16 },
   { plainRow .divn fun a t => if t = 0#32 then 0xFFFFFFFF#32 else a / t with latency := 16 },
   { plainRow .remn fun a t => if t = 0#32 then a else a % t with latency := 16 }]

/-- The dividers that a divide takes: those of its lanes, or the Sluice context's own (02 R22). -/
def dividersFree (h : Head) (s : State) : Prop :=
  if s.cur.tid.isSluice then s.selfCore.sluiceDiv.getD s.cur.tid.ctx 0 ≤ s.clk
  else ∀ l ∈ lanesIn (s.guard h.guard), s.selfCore.divFree.getD l 0 ≤ s.clk

/-- The state in which the dividers of a divide's lanes are held for 16 cycles. -/
def dividersHeld (h : Head) (s : State) : State :=
  s.modCore s.cur.tid.core fun c =>
    if s.cur.tid.isSluice then { c with sluiceDiv := c.sluiceDiv.set s.cur.tid.ctx (s.clk + 16) }
    else { c with divFree := (lanesIn (s.guard h.guard)).foldl (fun d l => d.set l (s.clk + 16)) c.divFree }

end Sys2Proof.Claim

/-- 08 R152, R153: every instruction of the ALU but shifts, divides and bit fields gives q, C and V as the tables have them, in the lanes
whose guard is true, at the next cycle (MUL, MULH and MULHN three cycles later); nothing else changes but the latch that the move
names. CTZ's count is that of the zeros below the lowest set bit. ADC and SBC whose flags port a soft error has struck take trap 0x13 (16
R331). -/
def Obligations.AluResultsLand : Prop :=
  (∀ e ∈ aluSums ++ aluProducts ++ aluBits, ∀ (h : Head) (u : Fin 2),
    does (e.make h u) h (aluReads e u) (fun s => room 1 s ∧ carryClean e h u s) fun s => inFlight s [aluFlight e h u s])
  ∧ (∀ e ∈ aluSums, ∀ (h : Head) (u : Fin 2) (s : State), s.primed h (aluReads e u) = true → room 1 s → ¬carryClean e h u s →
      exec (e.make h u) s = .next (s.takeTrap s.cur.tid s.cur.split { cause := 0x13, tval := 0#32, telem := 0, tepc := s.cur.pc }))
  ∧ ∃ q : Word → Word, (∀ t, zerosBelow t (q t)) ∧ ∀ (h : Head) (u : Fin 2),
      does (.ctz h u) h (aluReads (unaryRow .ctz q) u) (room 1) fun s => inFlight s [aluFlight (unaryRow .ctz q) h u s]

/-- 08 R154. -/
def Obligations.AluShiftsLand : Prop :=
  ∀ e ∈ aluShifts, ∀ (h : Head) (u : Fin 2),
    does (e.make h u) h (aluReads e u) (room 1) fun s => inFlight s [aluFlight e h u s]

/-- 08 R155: the divides complete on every operand, and each holds its lanes' dividers for 16 cycles. -/
def Obligations.AluDividesLand : Prop :=
  ∀ e ∈ aluDivides, ∀ (h : Head) (u : Fin 2),
    does (e.make h u) h (aluReads e u) (fun s => room 1 s ∧ dividersFree h s) fun s =>
      dividersHeld h (inFlight s [aluFlight e h u s])

/-- 08 R156. -/
def Obligations.AluFieldsLand : Prop :=
  ∀ e ∈ aluFields, ∀ (h : Head) (u : Fin 2),
    does (e.make h u) h (aluReads e u) (room 1) fun s => inFlight s [aluFlight e h u s]

namespace Sys2Proof.Claim

/-! ## The X unit (08 R158 to R164) -/

/-- What a cross-lane instruction gives lane `l`: X.q and X.m, from the participants, d and a. -/
structure CrossRow where
  make : Head → Instr
  readsA : Bool
  q : Mask → (Nat → Word) → (Nat → Word) → Nat → Word
  m : Mask → (Nat → Word) → Mask

/-- A cross-lane result: X.q and X.m six cycles later, in two records (08 R158, 16 R316). -/
def crossFlights (e : CrossRow) (h : Head) (s : State) (raised : BitVec 5) : List Flight :=
  let p := s.guard h.guard
  [flightTo s 6 p (e.q p (s.trig h) (s.self.rd (.op .xa))) (fun _ => 0#4) raised 6,
   flightTo s 7 p (fun _ => e.m p (s.trig h)) (fun _ => 0#4) 0#5 6]

/-- What a cross-lane row reads. -/
def crossReads (e : CrossRow) : Reads := { ops := if e.readsA then [.xa] else [], t := true, wide := false }

/-- The lane number in bits [4:0] of a. -/
def laneOf (a : Nat → Word) (l : Nat) : Nat := (a l).toNat % 32

/-- d of lane `k` where it takes part, else lane `l`'s own. -/
def orOwn (p : Mask) (d : Nat → Word) (l k : Nat) : Word := if k < 32 ∧ p.getLsbD k = true then d k else d l

/-- The lowest participant. -/
def lowestIn (p : Mask) : Nat := ((List.range 32).find? fun l => p.getLsbD l).getD 0

/-- 08 R160. -/
def movements : List CrossRow :=
  [{ make := .shfl, readsA := true, q := fun p d a l => orOwn p d l (laneOf a l), m := fun p _ => p },
   { make := .shup, readsA := true, q := fun p d a l => if laneOf a l ≤ l then orOwn p d l (l - laneOf a l) else d l, m := fun p _ => p },
   { make := .shdn, readsA := true, q := fun p d a l => orOwn p d l (l + laneOf a l), m := fun p _ => p },
   { make := .shxr, readsA := true, q := fun p d a l => orOwn p d l (l ^^^ laneOf a l), m := fun p _ => p }]

/-- BCST (08 R160): the lane number comes from the lowest participant alone. -/
def broadcast : CrossRow :=
  { make := .bcst, readsA := false, q := fun p d a l => orOwn p d l (laneOf a (lowestIn p)), m := fun p _ => p }

/-- 08 R161. -/
def votes : List CrossRow :=
  [{ make := .ball, readsA := false, q := fun p d _ _ => maskWhere fun k => p.getLsbD k && decide (d k ≠ 0#32), m := fun p _ => p },
   { make := .vany, readsA := false, q := fun p d _ _ => if ∃ k ∈ lanesIn p, d k ≠ 0#32 then 1#32 else 0#32, m := fun p _ => p },
   { make := .vall, readsA := false, q := fun p d _ _ => if ∀ k ∈ lanesIn p, d k ≠ 0#32 then 1#32 else 0#32, m := fun p _ => p },
   { make := .matchPeers, readsA := false, q := fun p d _ l => maskWhere fun k => p.getLsbD k && decide (d k = d l),
     m := fun p d => maskWhere fun k => p.getLsbD k && decide (∀ n ∈ lanesIn p, n < k → d n ≠ d k) },
   { make := .mtcha, readsA := false, q := fun p d _ _ => if ∀ k ∈ lanesIn p, ∀ n ∈ lanesIn p, d k = d n then p else 0#32,
     m := fun p _ => p }]

/-- The sum modulo 2^32 of d over some lanes. -/
def sumOver (ls : List Nat) (d : Nat → Word) : Word := BitVec.ofNat 32 ((ls.map fun k => (d k).toNat).sum)

/-- `q` is the least of d over P in an order. -/
def bestOver (le : Word → Word → Bool) (p : Mask) (d : Nat → Word) (q : Word) : Prop :=
  (∃ k ∈ lanesIn p, q = d k) ∧ ∀ k ∈ lanesIn p, le q (d k) = true

/-- The sums, scans and bit reductions of 08 R162. -/
def reductions : List CrossRow :=
  [{ make := .wadd, readsA := false, q := fun p d _ _ => sumOver (lanesIn p) d, m := fun p _ => p },
   { make := .scan, readsA := false, q := fun p d _ l => sumOver ((lanesIn p).filter (· ≤ l)) d, m := fun p _ => p },
   { make := .scanx, readsA := false, q := fun p d _ l => sumOver ((lanesIn p).filter (· < l)) d, m := fun p _ => p },
   { make := .wand, readsA := false, q := fun p d _ _ => maskWhere fun i => (lanesIn p).all fun k => (d k).getLsbD i, m := fun p _ => p },
   { make := .wor, readsA := false, q := fun p d _ _ => maskWhere fun i => (lanesIn p).any fun k => (d k).getLsbD i, m := fun p _ => p },
   { make := .wxor, readsA := false,
     q := fun p d _ _ => maskWhere fun i => decide (((lanesIn p).filter fun k => (d k).getLsbD i).length % 2 = 1), m := fun p _ => p }]

/-- WMIN, WMAX, WMINN and WMAXN with their orders (08 R162). -/
def extremes : List ((Head → Instr) × (Word → Word → Bool)) :=
  [(.wmin, fun x y => decide (x.toInt ≤ y.toInt)), (.wmax, fun x y => decide (y.toInt ≤ x.toInt)),
   (.wminn, fun x y => decide (x.toNat ≤ y.toNat)), (.wmaxn, fun x y => decide (y.toNat ≤ x.toNat))]

/-- The plane instructions of 08 R164. -/
def planes : List CrossRow :=
  [{ make := .pln, readsA := true, q := fun p d a l => maskWhere fun k => p.getLsbD k && (d k).getLsbD (laneOf a l), m := fun p _ => p },
   { make := .plg, readsA := true,
     q := fun p d a l => maskWhere fun i => (lanesIn p).any fun k => decide (laneOf a k = i) && (d k).getLsbD l, m := fun p _ => p }]

/-- A cross-lane row gives its results in two records; `ok` is what else must hold. -/
def crosses (e : CrossRow) (ok : Head → State → Prop) : Prop :=
  ∀ h : Head, does (e.make h) h (crossReads e) (fun s => room 2 s ∧ ok h s) fun s => inFlight s (crossFlights e h s 0#5)

/-- The level of WFADD's tree above some values (08 R163). -/
def level : List Nat → List Nat
  | x :: y :: r => (fp32.add .rn x y false).bits :: level r
  | r => r

/-- The five levels of WFADD's tree over the 32 leaves (08 R163). -/
def treeSum (p : Mask) (d : Nat → Word) : Nat :=
  (level (level (level (level (level ((List.range 32).map fun k => if p.getLsbD k then (d k).toNat else 0x80000000)))))).headD 0

end Sys2Proof.Claim

/-- 08 R160: each participant receives d from the lane that a names, or its own. BCST reads a in the lowest participant only. -/
def Obligations.CrossMovementsLand : Prop :=
  (∀ e ∈ movements, crosses e fun _ _ => True)
  ∧ crosses broadcast fun h s => s.operBad .xa (laneMask (lowestIn (s.guard h.guard))) = none

/-- 08 R161. -/
def Obligations.CrossVotesLand : Prop := ∀ e ∈ votes, crosses e fun _ _ => True

/-- 08 R162: sums, scans, AND, OR and XOR over the participants, and their signed and unsigned extremes. -/
def Obligations.CrossReductionsLand : Prop :=
  (∀ e ∈ reductions, crosses e fun _ _ => True)
  ∧ ∀ e ∈ extremes, ∃ best : Mask → (Nat → Word) → Word,
      (∀ p d, p ≠ 0#32 → bestOver e.2 p d (best p d))
      ∧ crosses { make := e.1, readsA := false, q := fun p d _ _ => best p d, m := fun p _ => p } fun _ _ => True

/-- 08 R164: PLN and PLG, bit by bit; a PLG after a PLN with the same b and the same P gives each participant the bits b[M], M in P,
of its original word, and zeros elsewhere; with b[L] = L in all lanes it restores the words. -/
def Obligations.CrossPlanesLand : Prop :=
  (∀ e ∈ planes, crosses e fun _ _ => True)
  ∧ (∀ (p : Mask) (d a : Nat → Word) (l : Nat), p.getLsbD l = true →
    opPlg p (opPln p d a) a l = maskWhere fun i => (lanesIn p).any (fun k => decide (laneOf a k = i)) && (d l).getLsbD i)
  ∧ ∀ (d : Nat → Word) (l : Nat), l < 32 →
      opPlg (BitVec.allOnes 32) (opPln (BitVec.allOnes 32) d (BitVec.ofNat 32)) (BitVec.ofNat 32) l = d l

/-- 08 R163: WFADD gives every participant the root of a fixed tree of 31 additions over the physical lanes, whatever the
participants. -/
def Obligations.CrossFloatSumLands : Prop :=
  ∃ raised : Mask → (Nat → Word) → BitVec 5, ∀ h : Head,
    does (.wfadd h) h { ops := [], t := true, wide := false } (room 2) fun s =>
      inFlight s (crossFlights
        { make := .wfadd, readsA := false, q := fun p d _ _ => BitVec.ofNat 32 (treeSum p d), m := fun p _ => p } h s
        (raised (s.guard h.guard) (s.trig h)))

namespace Sys2Proof.Claim

/-! ## MOVE (03 R46, R48, R52; 02 R23, R25) -/

/-- Halves, then bit 31 (03 R46 items 2 and 3). -/
def halved (m : Mods) (w : Word) : Word :=
  match m.half with
  | .word => w
  | .lo => (w.extractLsb' 0 16) ++ (w.extractLsb' 0 16)
  | .hi => (w.extractLsb' 16 16) ++ (w.extractLsb' 16 16)
  | .swp => (w.extractLsb' 0 16) ++ (w.extractLsb' 16 16)

def modified (m : Mods) (w : Word) : Word :=
  match m.sign with
  | .keep => halved m w
  | .neg => maskWhere fun i => (halved m w).getLsbD i != (i == 31)
  | .abs => maskWhere fun i => (halved m w).getLsbD i && i != 31
  | .nabs => maskWhere fun i => (halved m w).getLsbD i || i == 31

/-- The value and the tag that a move delivers in a lane. -/
def delivers (s : State) (h : Head) (m : Mods) (l : Nat) : Word × Bool :=
  (modified m (s.srcRead h.src m.try_ l).1, (s.srcRead h.src m.try_ l).2)

/-- The registers that a destination names: a general register as the rings of the open loops rename it (04 R74); none for a k
register, which is the block's. -/
def landsIn (s : State) (d : Dst) : Option Reg :=
  match d with
  | .g n => some (.g ((s.cur.image.split s.cur.split).rename n.val))
  | .port p => some (.op p)
  | .cc n => some (.cc n.val)
  | .k _ => none

/-- A value, with its tag, comes to a destination in the lanes of `m`: in each lane of a register or port; from the lowest lane alone
to a port that holds one value for the warp, and to a k register, which the block's bundles see from the next cycle on (02 R25);
flags, bits [3:0], to a cc register. Nothing else changes. -/
structure Written (s : State) (d : Dst) (m : Mask) (v : Nat → Word × Bool) (u : State) : Prop where
  state : u = { s with threads := u.threads, blocks := u.blocks }
  threads : ∀ k : Tid, k.key ≠ s.cur.tid.key → u.thread k = s.thread k
  thread : ∃ x y z, u.self = { s.self with regs := x, bad := y, poison := z }
  tags : ∀ r : Reg, (∀ r', landsIn s d = some r' → r.id ≠ r'.id) → u.self.tags r = s.self.tags r
  struck : ∀ (r : Reg) (l : Nat), (∀ r', landsIn s d = some r' → r.id ≠ r'.id) →
    Tab.get false u.self.bad (r.key l) = Tab.get false s.self.bad (r.key l)
  others : ∀ (r : Reg) (l : Nat), (∀ r', landsIn s d = some r' → r.id ≠ r'.id) → u.self.rd r l = s.self.rd r l
  lanes : ∀ n, d = .g n ∨ (∃ p, d = .port p ∧ OpPort.perWarp p = false) → ∀ r, landsIn s d = some r → ∀ l, l < 32 →
    u.self.rd r l = (if m.getLsbD l then (v l).1 else s.self.rd r l)
      ∧ (u.self.tags r).getLsbD l = if m.getLsbD l then (v l).2 else (s.self.tags r).getLsbD l
  flags : ∀ n, d = .cc n → ∀ l, l < 32 →
    u.self.rd (.cc n.val) l = if m.getLsbD l then BitVec.ofNat 32 ((v l).1.toNat % 16) else s.self.rd (.cc n.val) l
  shared : ∀ p, d = .port p → OpPort.perWarp p = true → m ≠ 0#32 →
    u.self.rd (.op p) 0 = (v (lowestIn m)).1 ∧ (u.self.tags (.op p)).getLsbD 0 = (v (lowestIn m)).2
  block : u.selfBlock = match d with
    | .k n => if m = 0#32 then s.selfBlock
      else { s.selfBlock with late := s.selfBlock.late ++
        [{ reg := n.val, val := (v (lowestIn m)).1, sluice := s.cur.tid.isSluice }] }
    | _ => s.selfBlock
  blocks : ∀ c x, c * 2 + x ≠ s.cur.tid.core * 2 + s.cur.tid.ctx → u.block c x = s.block c x

/-- Nothing holds a move back, and no value that it may not carry is tagged (01 R9, 11 R229). -/
def movable (s : State) (h : Head) (d : Dst) (m : Mods) : Prop :=
  s.alone = true ∧ s.srcWaits h.src m.try_ (s.guard h.guard) = false ∧ s.srcFault h.src (s.guard h.guard) = none
    ∧ ((∃ n, d = .k n) → ∀ l ∈ lanesIn (s.guard h.guard), (s.srcRead h.src m.try_ l).2 = false)
    ∧ ((∃ n, d = .cc n) → ∀ l ∈ lanesIn (s.guard h.guard), (s.srcRead h.src m.try_ l).2 = false)

/-- MOVE pops its source (03 R46): with `.pop`, and with `.try.pop` where every guarded lane is ready. -/
def movePops (s : State) (h : Head) (m : Mods) : Bool := m.pop && (!m.try_ || !s.srcWaits h.src false (s.guard h.guard))

end Sys2Proof.Claim

/-- 03 R44, R46, R48, R52: MOVE, with a source that is ready and untroubled, answers a next state, in which its source, after its
modifiers, has come to its destination in every lane whose guard is true, and to no other lane, register, port or memory; where its
guard is true in no lane, the next state is the state as it was. -/
def Obligations.MoveDelivers : Prop :=
  ∀ (h : Head) (d : Dst) (m : Mods) (s : State),
    (movable s h d m → s.guard h.guard ≠ 0#32 →
      ∃ u t, exec (.move h d m) s = .next t ∧ Written s d (s.guard h.guard) (delivers s h m) u
        ∧ Latched h (s.guard h.guard) (fun l => (delivers s h m l).1) (movePops s h m) u t)
    ∧ (s.alone = true → s.guard h.guard = 0#32 → exec (.move h d m) s = .next s)

namespace Sys2Proof.Claim

/-! ## F, S and V (09 R165 to R186) -/

/-- What an F, S or V instruction gives in a lane: result, flags port, raised flags. -/
structure FloatRow where
  make : Head → Instr
  unit : Nat
  latency : Nat
  ops : List OpPort
  /-- The value in a lane from the operand ports, in their order, and t. -/
  gives : (OpPort → Word) → Word → UnitOut

/-- Its result on its way; the flags that its lanes raise go to FSTAT with it (09 R170). -/
def floatFlight (e : FloatRow) (h : Head) (s : State) : Flight :=
  let out (l : Nat) := e.gives (fun p => s.self.rd (.op p) l) (s.trig h l)
  flightTo s e.unit (s.guard h.guard) (fun l => (out l).q) (fun l => (out l).fl)
    ((lanesIn (s.guard h.guard)).foldl (fun r l => r ||| (out l).raised) 0#5) e.latency

def floatReads (e : FloatRow) : Reads := { ops := e.ops, t := true, wide := false }

/-- A row of an F unit, with the value that one rounding gives. -/
def fpRow (u : Fin 2) (make : Head → Instr) (two : Bool) (f : Word → Word → Word → Rounded) : FloatRow :=
  let a : OpPort := if u = 0 then .f0a else .f1a
  let b : OpPort := if u = 0 then .f0b else .f1b
  { make := make, unit := 2 + u.val, latency := 4, ops := if two then [a, b] else [a],
    gives := fun p t => scalarOut (f (p a) (p b) t) }

/-- The fused and plain arithmetic of 09 R174 under a rounding mode, FMIN, FMAX (R175), and the dot products of R177. -/
def fpRows (u : Fin 2) (rm : Rm) : List FloatRow :=
  [fpRow u (.fma · u rm) true fun a b t => fp32.fma rm a.toNat b.toNat t.toNat false false,
   fpRow u (.fms · u rm) true fun a b t => fp32.fma rm a.toNat b.toNat t.toNat false true,
   fpRow u (.fnma · u rm) true fun a b t => fp32.fma rm a.toNat b.toNat t.toNat true false,
   fpRow u (.fnms · u rm) true fun a b t => fp32.fma rm a.toNat b.toNat t.toNat true true,
   fpRow u (.fadd · u rm) false fun a _ t => fp32.add rm a.toNat t.toNat false,
   fpRow u (.fsub · u rm) false fun a _ t => fp32.add rm a.toNat t.toNat true,
   fpRow u (.fmul · u rm) false fun a _ t => fp32.mul rm a.toNat t.toNat,
   fpRow u (.fmin · u) false fun a _ t => fp32.minmax false a.toNat t.toNat,
   fpRow u (.fmax · u) false fun a _ t => fp32.minmax true a.toNat t.toNat,
   fpRow u (.fscl · u rm) false fun a _ t => fp32.scl rm a.toNat t.toInt,
   fpRow u (.fdot2h · u rm) true fun a b t => dot2 fp16 rm a b t,
   fpRow u (.fdot2b · u rm) true fun a b t => dot2 bf16 rm a b t,
   { fpRow u (.frnd · u rm) false fun _ _ t => fp32.rnd rm t.toNat with ops := [] }]

/-- The packed arithmetic of 09 R176: two halves, each by itself. -/
def packedRows (u : Fin 2) (rm : Rm) : List FloatRow :=
  let a : OpPort := if u = 0 then .f0a else .f1a
  let b : OpPort := if u = 0 then .f0b else .f1b
  let row (make : Head → Instr) (two : Bool) (f : Fmt) (op : Nat → Nat → Nat → Rounded) : FloatRow :=
    { make := make, unit := 2 + u.val, latency := 4, ops := if two then [a, b] else [a],
      gives := fun p t => packed f op (p a) (p b) t }
  [row (.hfma2 · u rm) true fp16 fun x y z => fp16.fma rm x y z false false, row (.hadd2 · u rm) false fp16 fun x _ z => fp16.add rm x z false,
   row (.hmul2 · u rm) false fp16 fun x _ z => fp16.mul rm x z, row (.bfma2 · u rm) true bf16 fun x y z => bf16.fma rm x y z false false,
   row (.badd2 · u rm) false bf16 fun x _ z => bf16.add rm x z false, row (.bmul2 · u rm) false bf16 fun x _ z => bf16.mul rm x z]

/-- FCMP (09 R175): a itself, with the flags of how it stands to t; a signalling NaN raises IV. -/
def compareRow (u : Fin 2) : FloatRow :=
  let a : OpPort := if u = 0 then .f0a else .f1a
  { make := (.fcmp · u), unit := 2 + u.val, latency := 4, ops := [a],
    gives := fun p t =>
      { q := p a,
        fl := match fp32.relation (p a).toNat t.toNat with
          | .less => 0b1000#4
          | .equal => 0b0110#4
          | .greater => 0b0010#4
          | .unordered => 0b0011#4,
        raised := if (fp32.unpack (p a).toNat).snan || (fp32.unpack t.toNat).snan then 0b10000#5 else 0#5 } }

/-- The S unit (09 R178, R179): latency 12. -/
def specialRows : List FloatRow :=
  let row (make : Head → Instr) (f : Nat → Rounded) : FloatRow :=
    { make := make, unit := 4, latency := 12, ops := [], gives := fun _ t =>
        { q := BitVec.ofNat 32 (f t.toNat).bits, fl := 0#4, raised := (f t.toNat).raised } }
  [row .rcp sRcp, row .rsq sRsq, row .sqrt sSqrt, row .ex2 sEx2, row .lg2 sLg2, row .sinr (sTurn false), row .cosr (sTurn true),
   row .tanh sTanh]

/-- The S unit takes a trigger of a warp every 4 cycles (02 R22, 09 R178). -/
def specialFree (s : State) : Prop := s.selfCore.sFree ≤ s.clk

def specialHeld (s : State) : State :=
  if s.cur.tid.isSluice then s else s.modCore s.cur.tid.core fun c => { c with sFree := s.clk + 4 }

/-- A conversion of V (09 R182 to R186), from V.a and t: latency 4. -/
def convRows : List FloatRow :=
  let row (make : Head → Instr) (f : Word → Word → UnitOut) : FloatRow :=
    { make := make, unit := 5, latency := 4, ops := [.va], gives := fun p t => f (p .va) t }
  [row .qntS8 fun a t => opQnt true 8 a 0#32 t, row .qntN8 fun a t => opQnt false 8 a 0#32 t,
   row .qntS4 fun a t => opQnt true 4 a 0#32 t, row .qntN4 fun a t => opQnt false 4 a 0#32 t,
   row .qntS16 fun a t => opQnt true 16 a 0#32 t, row .dqn fun a t => opDqn a 0#32 t,
   row .pkh fun a t => opPack fp16 a 0#32 t, row .pkb fun a t => opPack bf16 a 0#32 t]

/-- A control word that CVT takes (09 R182): reserved bits zero, and formats 0x0 to 0xA. -/
def cvtLegal (a : Word) : Bool := a.toNat < 2048 && a.toNat / 16 % 16 ≤ 10 && a.toNat % 16 ≤ 10

/-- CVT (09 R183). -/
def cvtRow : FloatRow :=
  { make := .cvt, unit := 5, latency := 4, ops := [.va], gives := fun p t => opCvt (p .va) 0#32 t }

end Sys2Proof.Claim

/-- 09 R172 to R177: the F unit's instructions land four cycles later, each with one rounding, on every operand. -/
def Obligations.FloatResultsLand : Prop :=
  ∀ (u : Fin 2) (rm : Rm), ∀ e ∈ fpRows u rm ++ packedRows u rm ++ [compareRow u], ∀ h : Head,
    does (e.make h) h (floatReads e) (room 1) fun s => inFlight s [floatFlight e h s]

/-- 09 R178, R179: the S unit's functions land twelve cycles later, each correctly rounded, on every operand; a warp's
keeps the core's next one waiting for 4 cycles. -/
def Obligations.SpecialResultsLand : Prop :=
  ∀ e ∈ specialRows, ∀ h : Head,
    does (e.make h) h (floatReads e) (fun s => room 1 s ∧ specialFree s) fun s => specialHeld (inFlight s [floatFlight e h s])

/-- 09 R180 to R186: the V unit's conversions land four cycles later; CVT does where every lane's control word is legal, and else it
takes trap 0x02 with the control word of the lowest lane that breaks R182. -/
def Obligations.ConversionsLand : Prop :=
  (∀ e ∈ convRows, ∀ h : Head, does (e.make h) h (floatReads e) (room 1) fun s => inFlight s [floatFlight e h s])
  ∧ (∀ h : Head, does (.cvt h) h (floatReads cvtRow)
      (fun s => room 1 s ∧ ∀ l ∈ lanesIn (s.guard h.guard), cvtLegal (s.self.rd (.op .va) l) = true)
      fun s => inFlight s [floatFlight cvtRow h s])
  ∧ ∀ (h : Head) (s : State) (l : Nat), s.primed h (floatReads cvtRow) = true → room 1 s →
      (lanesIn (s.guard h.guard)).find? (fun k => !cvtLegal (s.self.rd (.op .va) k)) = some l →
      exec (.cvt h) s = .next (s.takeTrap s.cur.tid s.cur.split
        { cause := 0x02, tval := s.self.rd (.op .va) l, telem := 0, tepc := s.cur.pc })

/-- 09 R166: every NaN that the F unit's scalar arithmetic produces is 0x7FC0_0000, whatever NaNs went in. -/
def Obligations.NansAreCanonical : Prop :=
  ∀ (u : Fin 2) (rm : Rm), ∀ e ∈ fpRows u rm, ∀ (p : OpPort → Word) (t : Word),
    (e.gives p t).q.toNat % 2 ^ 31 > 0x7F800000 → (e.gives p t).q = 0x7FC00000#32

namespace Sys2Proof.Claim

/-! ## Control (04 R63 to R82) -/

/-- What a split-wide trigger reads. -/
def wideReads (ops : List OpPort) (t : Bool) : Reads := { ops := ops, t := t, wide := true }

/-- The value of a split-wide trigger: of the lowest lane whose guard is true (04 R64). -/
def leadT (h : Head) (s : State) : Word := s.trig h (lowestIn (s.guard h.guard))

/-- An operand of a split-wide trigger; the ports of the engines hold one value. -/
def leadOp (p : OpPort) (h : Head) (s : State) : Word := s.self.rd (.op p) (if OpPort.perWarp p then 0 else lowestIn (s.guard h.guard))

/-- The issuing split as its bundle found it, and the lanes in it. -/
def issuing (s : State) : Split := s.cur.image.split s.cur.split
def activeLanes (s : State) : Mask := (issuing s).mask

/-- Changes the issuing split. -/
def setSelf (s : State) (f : Split → Split) : State := s.modThread s.cur.tid fun th => th.modSplit s.cur.split f

/-- Changes the issuing thread. -/
def setThread (s : State) (f : Thread → Thread) : State := s.modThread s.cur.tid f

/-- The split's next bundle is at an address (04 R67). -/
def jumps (s : State) (a : Word) : State := setSelf s fun sp => { sp with pc := a, arrive := .jump }

/-- A target stays inside the innermost body, where a loop is open (04 R75). -/
def staysInside (s : State) (a : Word) : Prop := ∀ l, (issuing s).loops.getLast? = some l → insideBody l a = true

/-- A trap before the bundle takes effect (16 R309): TEPC holds the bundle. -/
def trapsWith (s : State) (cause : Nat) (tval : Word) : Host.Outcome State Fault Refusal :=
  .next (s.takeTrap s.cur.tid s.cur.split { cause := cause, tval := tval, telem := 0, tepc := s.cur.pc })

/-- BRC with lanes on both sides and a free entry in both tables (04 R69): the taken half goes on in entry `k`, the rest in its own,
under join-stack entry `e`. -/
def divided (s : State) (taken : Mask) (target join : Word) (e k : Nat) : State :=
  setThread s fun th =>
    let p := th.split s.cur.split
    ((th.setJoin e { JoinEntry.empty with used := true, join := join, expect := p.mask, parent := p.entry }).setSplit s.cur.split
      { p with mask := p.mask &&& ~~~taken, pc := s.cur.next, arrive := .fall, entry := some e }).setSplit k
      { p with mask := taken, pc := target, arrive := .jump, entry := some e, place := s.newPlace s.cur.tid }

/-- BRC with a full split table (04 R69): the taken half goes on, and the entry holds the others until it has arrived. -/
def serialised (s : State) (taken : Mask) (target join : Word) (e : Nat) : State :=
  setThread s fun th =>
    let p := th.split s.cur.split
    (th.setJoin e { JoinEntry.empty with
      used := true, join := join, expect := p.mask, parent := p.entry, serial := true, held := p.mask &&& ~~~taken,
      resume := s.cur.next, saved := p, delay := s.cur.delay }).setSplit s.cur.split
      { p with mask := taken, pc := target, arrive := .jump, entry := some e }

/-- The join address that a dividing BRC names (04 R69). -/
def joinAddress (s : State) : Word := s.cur.pc + s.self.rd (.op .ca) (lowestIn (activeLanes s))

/-- The core holds an address's line, whose header is legal, and the address is a marked target there (03 R34 to R36). -/
def markedAt (s : State) (a : Word) : Prop := ∃ line, s.codeLine s.cur.tid a = some line ∧ targetTrap line a = none

/-- BRC divides (04 R69): its guard is true in some lanes and not in others, C.a can be read, its target and its join address are marked, the target stays
inside an open loop's body, an entry of the join stack is free, and no yield waits that would forbid a new split (07 R135). -/
def divides (h : Head) (s : State) (e : Nat) : Prop :=
  s.guard h.guard ≠ activeLanes s ∧ s.operBad .ca (laneMask (lowestIn (activeLanes s))) = none
    ∧ markedAt s (s.cur.pc + leadT h s) ∧ markedAt s (joinAddress s) ∧ staysInside s (s.cur.pc + leadT h s)
    ∧ s.self.freeJoin = some e ∧ (s.selfBlock.yield = none ∨ s.self.freeSplit = none)

/-- The thread after the issuing split has arrived at its entry's JOIN (04 R70): its lanes wait in the entry, and it has left the split
table. -/
def arrivedAt (s : State) (e : Nat) : Thread :=
  let sp := s.self.split s.cur.split
  let j := s.self.join e
  (s.self.setJoin e { j with
    arrived := j.arrived ||| sp.mask, loops := sp.loops, sched := sp.sched, rep := sp.rep, late := max j.late s.cur.delay,
    since := s.clk, first := if j.arrived = 0#32 then s.clk else j.first, after := s.cur.next }).setSplit s.cur.split Split.empty

/-- The split that the last arrival makes (04 R70): the entry's lanes go on after the JOIN bundle, a cycle and the greatest delay later,
with the loop state and the schedule of the last arrival, under the entry's parent. -/
def mergedSplit (s : State) (e : Nat) : Split :=
  let sp := s.self.split s.cur.split
  let j := s.self.join e
  { Split.empty with
    live := true, pc := s.cur.next, mask := j.arrived ||| sp.mask, entry := j.parent, loops := sp.loops, sched := sp.sched, rep := sp.rep,
    ready := max (s.clk + 1) (s.clk + 1 + max j.late s.cur.delay), place := .entry s.clk, lastIssue := s.clk }

/-- The split that holds the lanes which a serial entry held (04 R70): they start under the state that BRC left. -/
def heldSplit (s : State) (e : Nat) : Split :=
  let j := s.self.join e
  { j.saved with
    live := true, pc := j.resume, mask := j.held, entry := some e, ready := s.clk + 1 + j.delay, arrive := .fall, bank := 0,
    lastIssue := s.clk, stopped := false, want := none, fetch := none, place := if j.saved.wait.kind = 0 then .entry s.clk else .away }

/-- JOIN at the entry that the issuing split names (04 R70), with the loop state of the lanes that have arrived. -/
def joinsAt (s : State) (e : Nat) : Prop :=
  (s.self.split s.cur.split).entry = some e ∧ e < s.self.joins.length ∧ (s.self.join e).used = true
    ∧ (s.self.join e).join = s.cur.pc
    ∧ ((s.self.join e).arrived = 0#32 ∨ sameLoops (issuing s).loops (s.self.join e).loops = true)

/-- Every lane that an entry expects has arrived once the issuing split has. -/
def lastAt (s : State) (e : Nat) : Prop :=
  (s.self.join e).expect &&& ~~~((s.self.join e).arrived ||| (s.self.split s.cur.split).mask) = 0#32

/-- Lanes of the issuing warp have become vacant, and some lane is left (04 R76). -/
structure Vacated (s : State) (m : Mask) (u : State) : Prop where
  state : u = { s with threads := u.threads, blocks := u.blocks }
  others : ∀ k : Tid, k.key ≠ s.cur.tid.key → u.thread k = s.thread k
  occupied : u.self.occupied = s.self.occupied &&& ~~~m
  live : u.self.live = s.self.live
  registers : u.self.regs = s.self.regs ∧ u.self.poison = s.self.poison ∧ u.self.bad = s.self.bad
  expects : ∀ e, (u.self.join e).used = true → (u.self.join e).expect = (s.self.join e).expect &&& ~~~m
  splits : (∀ e, (s.self.join e).used = false) → ∀ k, k < s.self.splits.length → u.self.split k =
    if (s.self.split k).live then
      (if (s.self.split k).mask &&& ~~~m = 0#32 then Split.empty else { s.self.split k with mask := (s.self.split k).mask &&& ~~~m })
    else s.self.split k

/-- The end of an instruction that may end its thread: the trigger's effect, then the end of its bundle. -/
def ends (i : Instr) (h : Head) (r : Reads) (ok : State → Prop) (after : State → State) : Prop :=
  ∀ s : State, s.primed h r = true → ok s →
    ∃ t, exec i s = .next t
      ∧ Latched h ((after s).guard h.guard) (fun l => ((after s).srcRead h.src false l).1) true (after s) t

end Sys2Proof.Claim

/-- 04 R63, R67, R75: BRA, CALL, RET and LEXT: the split's next bundle is at the target, CALL links in C.q of every active lane, LEXT
leaves the innermost loop; a BRA out of the innermost body takes trap 0x02 with its target. -/
def Obligations.BranchesTransfer : Prop :=
  ∀ h : Head,
    does (.bra h) h (wideReads [] true) (fun s => staysInside s (s.cur.pc + leadT h s)) (fun s => jumps s (s.cur.pc + leadT h s))
    ∧ does (.call h) h (wideReads [] true) (fun s => (s.cur.pc + leadT h s).toNat % 128 = 8 ∧ (issuing s).loops = [])
        (fun s => jumps (setThread s fun th => th.wrMask (.res .cq) (activeLanes s) fun _ => s.cur.next) (s.cur.pc + leadT h s))
    ∧ does (.ret h) h (wideReads [] true) (fun s => (issuing s).loops = []) (fun s => jumps s (leadT h s))
    ∧ does (.lext h) h (wideReads [] true)
        (fun s => ∃ l, (issuing s).loops.getLast? = some l ∧ insideBody l (s.cur.pc + leadT h s) = false)
        (fun s => jumps (setSelf s fun sp => { sp with loops := sp.loops.dropLast }) (s.cur.pc + leadT h s))
    ∧ ∀ s : State, s.primed h (wideReads [] true) = true →
        (∃ l, (issuing s).loops.getLast? = some l ∧ insideBody l (s.cur.pc + leadT h s) = false) →
        exec (.bra h) s = trapsWith s 0x02 (s.cur.pc + leadT h s)

/-- 04 R69, R70: BRC branches whole where its guard is true in every active lane, else it divides the split, as peers or, where the split
table is full, serially. JOIN has no control effect where its entry does not name this bundle; else the split leaves the table and its
lanes wait in the entry: the last to arrive are merged into one split, and where lanes are held by a serial entry they start; lanes that
arrive with another loop state take trap 0x02. -/
def Obligations.SplitsDivideAndJoin : Prop :=
  (∀ h : Head,
    does (.brc h) h (wideReads [] true) (fun s => s.guard h.guard = activeLanes s ∧ staysInside s (s.cur.pc + leadT h s))
      (fun s => jumps s (s.cur.pc + leadT h s))
    ∧ (∀ e k, does (.brc h) h (wideReads [] true) (fun s => divides h s e ∧ s.self.freeSplit = some k) fun s =>
        divided s (s.guard h.guard) (s.cur.pc + leadT h s) (joinAddress s) e k)
    ∧ ∀ e, does (.brc h) h (wideReads [] true) (fun s => divides h s e ∧ s.self.freeSplit = none) fun s =>
        serialised s (s.guard h.guard) (s.cur.pc + leadT h s) (joinAddress s) e)
  ∧ ∀ (x : Src) (k : Fin 4),
    let h : Head := { guard := .always, src := x, hold := k }
    does (.join x k) h (wideReads [] false)
      (fun s => ∀ e, (s.self.split s.cur.split).entry = some e → (s.self.join e).join ≠ s.cur.pc) id
    ∧ (∀ e, does (.join x k) h (wideReads [] false) (fun s => joinsAt s e ∧ (s.self.join e).held = 0#32 ∧ ¬lastAt s e)
        fun s => setThread s fun _ => arrivedAt s e)
    ∧ (∀ e i, does (.join x k) h (wideReads [] false)
        (fun s => joinsAt s e ∧ (s.self.join e).held = 0#32 ∧ lastAt s e
          ∧ (s.self.join e).arrived ||| (s.self.split s.cur.split).mask ≠ 0#32 ∧ (arrivedAt s e).freeSplit = some i)
        fun s => setThread s fun _ => ((arrivedAt s e).setSplit i (mergedSplit s e)).setJoin e JoinEntry.empty)
    ∧ (∀ e i, does (.join x k) h (wideReads [] false)
        (fun s => joinsAt s e ∧ (s.self.join e).serial = true ∧ (s.self.join e).held ≠ 0#32 ∧ ¬lastAt s e
          ∧ (arrivedAt s e).freeSplit = some i)
        fun s => setThread s fun _ => ((arrivedAt s e).setSplit i (heldSplit s e)).setJoin e
          { (arrivedAt s e).join e with held := 0#32, resume := 0#32 })
    ∧ ∀ (e : Nat) (s : State), s.primed h (wideReads [] false) = true → (s.self.split s.cur.split).entry = some e →
        (s.self.join e).join = s.cur.pc → (s.self.join e).arrived ≠ 0#32 → sameLoops (issuing s).loops (s.self.join e).loops = false →
        exec (.join x k) s = trapsWith s 0x02 s.cur.pc

/-- 04 R71 to R73: LOOP opens a level with its trip count and rings, or passes over its body where there is no iteration; LBACK goes
back for the next iteration, or closes the level. -/
def Obligations.LoopsTurn : Prop :=
  ∀ (x : Src) (k : Fin 4),
    let h : Head := { guard := .always, src := x, hold := k }
    let n (s : State) := s.trig h (lowestIn (activeLanes s))
    let ring (s : State) := s.self.rd (.op .ca) (lowestIn (activeLanes s))
    let stages (s : State) := (ring s).toNat / 2 ^ 30 + 1
    let opens (s : State) (lback : Word) : Prop :=
      (issuing s).loops.length < 2 ∧ s.loopBody = .found lback ∧ ringBad s.regLimit (ring s) (issuing s).loops = false
    (∀ lback, does (.loop x k) h (wideReads [.ca] true) (fun s => opens s lback ∧ (n s).toNat + stages s - 1 ≠ 0) fun s =>
      setSelf s fun sp =>
        { sp with loops := sp.loops ++ [{ n := (n s).toNat, i := 0, ring := ring s, body := s.cur.next, lback := lback }] })
    ∧ (∀ lback, does (.loop x k) h (wideReads [.ca] true) (fun s => opens s lback ∧ (n s).toNat + stages s - 1 = 0) fun s =>
        setSelf s fun sp => { sp with pc := nextBundle ((s.codeLine s.cur.tid lback).getD []) lback, arrive := .back })
    ∧ (∀ l, does (.lback x k) h (wideReads [] false)
        (fun s => (issuing s).loops.getLast? = some l ∧ (s.self.split s.cur.split).loops.getLast? = some l ∧ l.lback = s.cur.pc
          ∧ l.i + 2 < l.n + l.stages)
        fun s => setSelf s fun sp =>
          { sp with loops := sp.loops.dropLast ++ [{ l with i := l.i + 1 }], pc := l.body, arrive := .back })
    ∧ ∀ l, does (.lback x k) h (wideReads [] false)
        (fun s => (issuing s).loops.getLast? = some l ∧ (s.self.split s.cur.split).loops.getLast? = some l ∧ l.lback = s.cur.pc
          ∧ l.n + l.stages ≤ l.i + 2)
        fun s => setSelf s fun sp => { sp with loops := sp.loops.dropLast }

/-- 04 R76, R77, R79, R85: EXIT answers the next state in which the lanes whose guard is true are vacant: they are in no split and in no
entry's expect set, and splits without lanes are gone; where no lane is left, and no index in the Rill, the warp has ended. END answers the next state in which the warp has ended, or the Sluice context's task. RFL asks for a refill where the split holds
every lane of the warp, else it reads its mask in C.q. -/
def Obligations.LanesLeaveAndFill : Prop :=
  (∀ (h : Head) (s : State),
    (s.primed h { ops := [], t := false, wide := false } = true →
      (s.self.occupied &&& ~~~s.guard h.guard ≠ 0#32 →
        ∃ u t, exec (.exit h) s = .next t ∧ Vacated s (s.guard h.guard) u ∧ Latched h (s.guard h.guard) (s.trig h) true u t)
      ∧ (s.self.occupied &&& ~~~s.guard h.guard = 0#32 →
          ∃ t, exec (.exit h) s = .next t ∧ t.cur.dead = true
            ∧ (s.rillLeft s.cur.tid.core s.cur.tid.ctx = false →
                (t.thread s.cur.tid).live = false ∧ (t.thread s.cur.tid).occupied = 0#32)))
    ∧ (s.primed h (wideReads [] false) = true →
        (s.cur.tid.isSluice = false →
          ∃ t, exec (.endTask h) s = .next t ∧ t.cur.dead = true ∧ (t.thread s.cur.tid).live = false
            ∧ (t.thread s.cur.tid).occupied = 0#32)
        ∧ (s.cur.tid.isSluice = true →
          ∃ t, exec (.endTask h) s = .next t ∧ (t.block s.cur.tid.core s.cur.tid.ctx).running = none
            ∧ (t.thread s.cur.tid).liveSplits = [])))
  ∧ ∀ (x : Src) (k : Fin 4),
    let h : Head := { guard := .always, src := x, hold := k }
    does (.rfl x k) h (wideReads [] false) (fun s => (s.self.split s.cur.split).mask = s.self.occupied)
      (fun s => setSelf s fun sp => { sp with rill := true })
    ∧ does (.rfl x k) h (wideReads [] false) (fun s => (s.self.split s.cur.split).mask ≠ s.self.occupied) fun s =>
        setThread s fun th => th.wrMask (.res .cq) (s.self.split s.cur.split).mask fun _ => (s.self.split s.cur.split).mask

/-- 04 R80 to R82, 16 R313: WAIT holds the split's next bundle v cycles longer; PSW has no effect at the granted level, and else reads
the switch table of three words an entry; BRK and TRAP note trap 0x0B and 0x17, with their value, for after the bundle. -/
def Obligations.BundlesWaitSwitchAndTrap : Prop :=
  ∀ h : Head,
    does (.wait h) h (wideReads [] true) (fun _ => True)
      (fun s => setSelf s fun sp => { sp with ready := sp.ready + (leadT h s).toNat, waited := true })
    ∧ does (.psw h) h (wideReads [] true) (fun s => s.selfCore.level.toNat % 4 = (s.self.split s.cur.split).sched) id
    ∧ does (.psw h) h (wideReads [] true)
        (fun s => s.selfCore.level.toNat % 4 ≠ (s.self.split s.cur.split).sched ∧ (leadT h s).toNat < s.selfBlock.swtab.toNat % 256)
        (fun s => setSelf s fun sp =>
          { sp with switch_ := some (BitVec.ofNat 32 (s.selfBlock.swtab.toNat / 256 * 256
              + ((leadT h s).toNat * 3 + s.selfCore.level.toNat % 4) * 4), s.selfCore.level.toNat % 4) })
    ∧ does (.brk h) h (wideReads [] true) (fun s => s.cur.after = none)
        (fun s => { s with cur := { s.cur with after := some { cause := 0x0B, tval := leadT h s, telem := 0, tepc := s.cur.next } } })
    ∧ does (.trap h) h (wideReads [] true) (fun s => s.cur.after = none ∧ ∀ f ∈ s.self.fills, f.port ≠ .kq)
        (fun s => { s with cur := { s.cur with after := some { cause := 0x17, tval := leadT h s, telem := 0, tepc := s.cur.next } } })

namespace Sys2Proof.Claim

/-! ## Barriers, objects, releases and acquires (06 R113 to R131) -/

/-- A barrier value that BAR and BARA take (06 R114, R117): id [3:0], count [9:4] of at most 33, S [10]; a count and S exclude each
other, a Sluice context gives one of the two, and both are those of the generation's first arrival. -/
def barLegal (h : Head) (s : State) : Prop :=
  let v := (leadT h s).toNat
  let count := v / 16 % 64
  let b := s.barrier s.cur.tid.core s.cur.tid.ctx (v % 16)
  s.self.level = false ∧ v < 2048 ∧ count ≤ 33 ∧ (1024 ≤ v → count = 0)
    ∧ (s.cur.tid.isSluice = true → count ≠ 0 ∨ 1024 ≤ v) ∧ (b.fixed = true → b.count = count ∧ b.s = decide (1024 ≤ v))

/-- No result is on its way to Y.q (06 R113). -/
def yFree (s : State) : Prop := s.yPending = false

/-- The arrival that BAR and BARA make (06 R117, R119): after a release at block scope, of the split's lanes that are not vacant. -/
def arrival (h : Head) (s : State) : State × Nat :=
  let v := (leadT h s).toNat
  (s.release s.cur.tid 2).barArrive s.cur.tid (v % 16) (v / 16 % 64) (decide (1024 ≤ v)) (activeLanes s &&& s.self.occupied)

/-- The token of an arrival (06 R118): the generation in [19:4], the id in [3:0]. -/
def tokenOf (h : Head) (s : State) : Word := BitVec.ofNat 32 ((arrival h s).2 * 16 + (leadT h s).toNat % 16)

/-- The split waits (06 R115) with a wait kind and record. -/
def waiting (s : State) (kind : Nat) (w0 w1 : Word) : State := s.waitSelf kind w0 w1

/-- The value of Y.q in the active lanes, in the next cycle or later (06 R113). -/
def answersY (s : State) (m : Mask) (v : Word) : State := s.sendFill .yq m (fun _ => v) 1

/-- The waiting split of a serial entry swaps places with the lanes that the entry holds (06 R120): they start, and the entry holds the
split's lanes with their wait. -/
def swapped (s : State) (e : Nat) (th : Thread) : Thread :=
  let p := th.split s.cur.split
  (th.setSplit s.cur.split (heldSplit s e)).setJoin e
    { th.join e with held := p.mask, resume := p.pc, saved := p, delay := p.ready - (s.clk + 1) }

/-- Y.q awaits a result in the active lanes. -/
def awaitsY (s : State) (m : Mask) : State := setThread s fun th => th.setAwaiting .yq (th.awaiting .yq ||| m)

/-- Nothing holds an acquire (06 R129, 13 R258): no earlier one is pending, the thread's reads are fixed, its writes are out, and the die has
applied its invalidation log from package scope on. -/
def acquiresNow (s : State) (c : Nat) : Prop :=
  s.self.acqs = [] ∧ s.acquireReady s.cur.tid s.self.seq c (s.die (dieOf s.cur.tid.core)).logEnd = true

/-- The acquire is pending: the thread's later reads wait for it (13 R258). -/
def acquirePends (s : State) (c : Nat) : State :=
  setThread s fun th => { th with
    acqs := th.acqs ++ [{ seq := th.seq, scope := c, upto := (s.die (dieOf s.cur.tid.core)).logEnd, fence := false,
                          stalls := decide (3 ≤ c) }],
    seq := th.seq + 1 }

/-- What an object instruction asks for (06 R114, R128): an offset that is a multiple of 16 within the block's own region or the
group's. -/
def objectNamed (h : Head) (s : State) : Prop :=
  (leadOp .ya h s).toNat % 16 = 0 ∧ (s.object s.cur.tid (leadOp .ya h s)).isSome = true

/-- The issuer's operation comes to the core that holds the object (06 R128). -/
def objectSent (s : State) (kind : Nat) (a v : Word) : State := s.sendObject kind a v

end Sys2Proof.Claim

/-- 06 R113 to R120: BAR arrives with a release and waits for its generation, and where its serial entry
holds lanes that have not arrived in it the split gives way to them; BARA arrives and gives a token; BARW waits unless the
token's generation is over, and then its return acquires at block scope. At handler level each, and SYNC, is an illegal opcode. -/
def Obligations.BlockBarriersCount : Prop :=
  ∀ h : Head,
    does (.bar h) h (wideReads [] true) (fun s => barLegal h s ∧ (s.self.split s.cur.split).entry = none)
      (fun s => waiting (arrival h s).1 1 (tokenOf h s) 0#32)
    ∧ (∀ e, does (.bar h) h (wideReads [] true)
        (fun s => barLegal h s ∧ (s.self.split s.cur.split).entry = some e ∧ (arrival h s).1.heldBack e (tokenOf h s) = false)
        (fun s => waiting (arrival h s).1 1 (tokenOf h s) 0#32))
    ∧ (∀ e, does (.bar h) h (wideReads [] true)
        (fun s => barLegal h s ∧ (s.self.split s.cur.split).entry = some e ∧ (arrival h s).1.heldBack e (tokenOf h s) = true)
        (fun s => setThread (waiting (arrival h s).1 1 (tokenOf h s) 0#32) (swapped s e)))
    ∧ does (.bara h) h (wideReads [] true) (fun s => barLegal h s ∧ yFree s)
        (fun s => answersY (arrival h s).1 (activeLanes s) (tokenOf h s))
    ∧ does (.barw h) h (wideReads [] true)
        (fun s => s.self.level = false ∧ (leadT h s).toNat < 2 ^ 20 ∧ acquiresNow s 2
          ∧ genOver (s.barrier s.cur.tid.core s.cur.tid.ctx ((leadT h s).toNat % 16)).gen ((leadT h s).toNat / 16) = true)
        (fun s => s.acquire s.cur.tid 2)
    ∧ does (.barw h) h (wideReads [] true)
        (fun s => s.self.level = false ∧ (leadT h s).toNat < 2 ^ 20 ∧ ¬acquiresNow s 2
          ∧ genOver (s.barrier s.cur.tid.core s.cur.tid.ctx ((leadT h s).toNat % 16)).gen ((leadT h s).toNat / 16) = true)
        (fun s => acquirePends s 2)
    ∧ does (.barw h) h (wideReads [] true)
        (fun s => s.self.level = false ∧ (leadT h s).toNat < 2 ^ 20
          ∧ genOver (s.barrier s.cur.tid.core s.cur.tid.ctx ((leadT h s).toNat % 16)).gen ((leadT h s).toNat / 16) = false)
        (fun s => waiting s 2 (leadT h s) 0#32)
    ∧ ∀ i ∈ [Instr.bar h, .bara h, .barw h, .sync h], ∀ s : State, s.primed h (wideReads [] true) = true → yFree s →
        s.self.level = true → exec i s = trapsWith s 0x02 s.cur.word

/-- 06 R117, R118: the first arrival fixes the count and S, a warp whose every lane has arrived is recorded as a whole, and the
arrival is counted to the present generation; a generation that is whole gives way to the next, modulo 2^16, with nobody in it, and its
waiters go on two cycles later. -/
def Obligations.BarrierGenerationsTurn : Prop :=
  (∀ (s : State) (t : Tid) (id count : Nat) (sBit : Bool) (lanes : Mask),
    t.slot < 32 → id < (s.block t.core t.ctx).barriers.length → (s.barrier t.core t.ctx id).fixed = false →
    s.heldLanes t.core t.ctx t.slot &&& ~~~lanes = 0#32 →
    let r := s.barArrive t id count sBit lanes
    let b := r.1.barrier t.core t.ctx id
    r.2 = (s.barrier t.core t.ctx id).gen % 65536 ∧ b.gen = (s.barrier t.core t.ctx id).gen ∧ b.count = count ∧ b.s = sBit
      ∧ b.warps.getLsbD t.slot = true)
  ∧ ∀ (s : State) (core ctx id : Nat), id < (s.block core ctx).barriers.length →
    s.barrierWhole core ctx (s.barrier core ctx id) = true → (s.barrier core ctx id).carry = [] →
    let u := s.settleBarrier core ctx id 1
    u.barrier core ctx id
        = { Barrier.empty with
            gen := ((s.barrier core ctx id).gen + 1) % 65536, count := (s.barrier core ctx id).count, s := (s.barrier core ctx id).s }
      ∧ ∀ t ∈ s.blockThreads core ctx, u.thread t = (s.thread t).barrierDue id (((s.barrier core ctx id).gen + 1) % 65536) (s.clk + 2)

/-- 06 R114, R122, R123: SYNC releases at its scope, arrives for its block and waits; a scope other than core to pod takes trap
0x02. What a SYNC with S = 0 does in Sluice code (it counts no arrival and waits) R123 does not say: that form is log 50's DESIGN CHOICE. -/
def Obligations.SyncArrives : Prop :=
  ∀ h : Head,
    let scope (s : State) := (leadT h s).toNat % 16
    does (.sync h) h (wideReads [] true)
      (fun s => s.self.level = false ∧ (leadT h s).toNat < 32 ∧ 3 ≤ scope s ∧ scope s ≤ 8
        ∧ s.syncConflict s.cur.tid.core s.cur.tid.ctx (scope s) (leadT h s) = false ∧ (scope s = 8 → s.pack.variant.hasPods = true))
      (fun s => waiting ((s.release s.cur.tid (scope s)).syncArrive s.cur.tid (scope s) (leadT h s) (activeLanes s &&& s.self.occupied)) 3
        (BitVec.ofNat 32 ((s.sync s.cur.tid.core s.cur.tid.ctx (scope s)).gen % 65536 * 16 + scope s)) 0#32)
    ∧ ∀ s : State, s.primed h (wideReads [] true) = true → s.self.level = false →
        (32 ≤ (leadT h s).toNat ∨ scope s < 3 ∨ 8 < scope s) → exec (.sync h) s = trapsWith s 0x02 (leadT h s)

/-- 06 R126 to R128: BOI, BOX, BOA, BOW and BOT on an aligned object of the block's or the group's region, with values that R114
takes; BOW goes on where the phase has flipped, and else it waits. -/
def Obligations.BarrierObjectsAreAsked : Prop :=
  ∀ h : Head,
    let r := wideReads [.ya] true
    let a := leadOp .ya h
    let v := leadT h
    does (.boi h) h r (fun s => objectNamed h s ∧ 1 ≤ (v s).toNat ∧ (v s).toNat ≤ 65535) (fun s => objectSent s 0 (a s) (v s))
    ∧ does (.box h) h r (fun s => objectNamed h s ∧ (v s).toNat < 2 ^ 31) (fun s => objectSent s 1 (a s) (v s))
    ∧ does (.boa h) h r (fun s => objectNamed h s ∧ 1 ≤ (v s).toNat ∧ (v s).toNat ≤ 65535 ∧ yFree s)
        (fun s => awaitsY (objectSent (s.release s.cur.tid (s.scopeOfObject s.cur.tid (a s))) 2 (a s) (v s)) (activeLanes s))
    ∧ does (.bow h) h r (fun s => objectNamed h s ∧ (v s).toNat ≤ 1 ∧ s.bowOver s.cur.tid (a s ||| v s) = true)
        (fun s => s.startAcquire s.cur.tid s.cur.split (s.scopeOfObject s.cur.tid (a s)) false)
    ∧ does (.bow h) h r (fun s => objectNamed h s ∧ (v s).toNat ≤ 1 ∧ s.bowOver s.cur.tid (a s ||| v s) = false)
        (fun s => waiting s 4 0#32 (a s ||| v s))
    ∧ does (.bot h) h r (fun s => objectNamed h s ∧ (v s).toNat ≤ 1 ∧ yFree s)
        (fun s => awaitsY (objectSent s 4 (a s) (v s)) (activeLanes s))
    ∧ ∀ i ∈ [Instr.boi h, .box h, .boa h, .bow h, .bot h], ∀ s : State, s.primed h r = true → yFree s → 1 ≤ (v s).toNat →
        (v s).toNat ≤ 1 → (a s).toNat % 16 ≠ 0 → exec i s = trapsWith s 0x05 (a s)

/-- 06 R115, R129, 13 R257, R258: REL.s notes what it must see performed and never stalls; ACQ.s completes at once where nothing holds it,
and else it is pending, and from core scope on its split waits for it; FEN.s is REL.s then ACQ.s. At lane and warp scope REL and FEN
have no effect. -/
def Obligations.ReleasesAndAcquires : Prop :=
  ∀ (h : Head) (e : Scope),
    let c := Scope.code e
    does (.rel h e) h (wideReads [] false) (fun _ => c ≤ 1) id
    ∧ does (.rel h e) h (wideReads [] false) (fun _ => 2 ≤ c) (fun s => setThread s fun th =>
        { th with
          releases := th.releases ++ [{ seq := th.seq, scope := c, need := if 5 ≤ c then s.observedLines s.cur.tid else [] }],
          seq := th.seq + 1 })
    ∧ does (.acq h e) h (wideReads [] false) (fun s => acquiresNow s c) (fun s => s.acquire s.cur.tid c)
    ∧ does (.acq h e) h (wideReads [] false) (fun s => ¬acquiresNow s c ∧ c ≤ 2) (fun s => acquirePends s c)
    ∧ does (.acq h e) h (wideReads [] false) (fun s => ¬acquiresNow s c ∧ 3 ≤ c) (fun s => setSelf (acquirePends s c) fun sp =>
        { sp with wait := { kind := 5, w0 := BitVec.ofNat 32 c, w1 := 0#32, due := s.self.seq }, place := .away })
    ∧ does (.fen h e) h (wideReads [] false) (fun _ => c ≤ 1) id
    ∧ does (.fen h e) h (wideReads [] false) (fun _ => 2 ≤ c)
        (fun s => (s.release s.cur.tid c).startAcquire s.cur.tid s.cur.split c true)

namespace Sys2Proof.Claim

/-! ## The K unit (16 R310 to R321, 10 R198, 14 R279) -/

/-- No CSR result is on its way to K.q (16 R310). -/
def kFree (s : State) : Prop := ∀ f ∈ s.self.fills, f.port ≠ .kq

/-- The number of the CSR that a trigger names, and its value there. -/
def csrNumber (h : Head) (s : State) : Nat := (leadT h s).toNat % 4096
def csrNow (h : Head) (s : State) : Word := (s.csr s.cur.tid (csrNumber h s)).getD 0#32

/-- The CSR exists (16 R311, R312). -/
def csrNamed (h : Head) (s : State) : Prop := (leadT h s).toNat < 4096 ∧ (s.csr s.cur.tid (csrNumber h s)).isSome = true

/-- K.q receives a CSR's value in the active lanes (16 R310, R311). -/
def answersK (h : Head) (s : State) : State := s.sendFill .kq (activeLanes s) (fun _ => csrNow h s) 2

/-- The lines that OBJ's record covers, first and last byte, and their home die (14 R279). -/
def objectLines (h : Head) (s : State) : Nat × Nat :=
  let r := s.objRecord h
  (Rec.base r / 128 * 128, (Rec.base r + Rec.lastByte r) / 128 * 128 + 127)

def objectHome (h : Head) (s : State) : Nat := s.homeOf s.selfBlock.fn (objectLines h s).1

/-- Every line that OBJ's record covers has been gathered at its home. -/
def objectGathered (h : Head) (s : State) : State :=
  let sp := objectLines h s
  ((List.range ((sp.2 + 1 - sp.1) / 128)).map fun i => sp.1 + 128 * i).foldl (fun u a => u.gatherLine s.selfBlock.fn a) s

/-- What OBJ does, and its answer on K.q (14 R279): it enters or frees an object of the home die, once its lines are gathered there, and answers
with the object's number; or it answers 0x8000_0001 where no entry is free, 0x8000_0002 where a live object meets the lines, 0x8000_0003 where
there is none to release, and changes nothing. -/
def objectDone (h : Head) (s : State) : State × Word :=
  let objs := (s.die (objectHome h s)).objs
  let put (i : Nat) (o : ObjEntry) : State × Word :=
    ((objectGathered h s).modDie (objectHome h s) fun d => { d with objs := d.objs.set i o }, BitVec.ofNat 32 (objectHome h s * 256 + i))
  let free : ObjEntry := { live := false, lo := 0, hi := 0, fn := 0 }
  if (leadT h s).getLsbD 0 then
    match (List.range objs.length).find? fun i =>
      let o := objs.getD i free
      o.live && o.fn == s.selfBlock.fn && o.lo == (objectLines h s).1 && o.hi == (objectLines h s).2 with
    | none => (s, 0x80000003#32)
    | some i => put i free
  else
    match (List.range objs.length).find? fun i => !(objs.getD i { free with live := true }).live with
    | none => (s, 0x80000001#32)
    | some i =>
      if objs.any fun o => s.objMeets o (objectLines h s) s.selfBlock.fn then (s, 0x80000002#32)
      else put i { live := true, lo := (objectLines h s).1, hi := (objectLines h s).2, fn := s.selfBlock.fn }

/-- OBJ's answer fills K.q in the active lanes. That it does so three cycles after the trigger is the model's choice (DESIGN CHOICE, log 22): 14
R279 gives no cycle, and 16 R310 only says that it comes after a CSR's. -/
def objectAnswered (h : Head) (s : State) : State :=
  (objectDone h s).1.modThread s.cur.tid fun th =>
    { (th.setAwaiting .kq (th.awaiting .kq ||| activeLanes s)) with
      fills := th.fills ++ [{ port := .kq, mask := activeLanes s, vals := lanes32 fun _ => (objectDone h s).2, due := s.clk + 3, late := true }] }

/-- A write that becomes visible to the block's bundles with the next cycle. -/
def lateWrite (s : State) (reg : Nat) (v : Word) : LateWrite := { reg := reg, val := v, sluice := s.cur.tid.isSluice }

end Sys2Proof.Claim

/-- 16 R311, R312: CSRR gives a CSR's value to K.q, and a read of CLK latches the upper half of the counter in CLKH; a number outside
the map takes trap 0x02. -/
def Obligations.CsrsAreRead : Prop :=
  ∀ h : Head,
    does (.csrr h) h (wideReads [] true) (fun s => csrNamed h s ∧ kFree s ∧ csrNumber h s ≠ 0) (fun s => answersK h s)
    ∧ does (.csrr h) h (wideReads [] true) (fun s => csrNamed h s ∧ kFree s ∧ csrNumber h s = 0)
        (fun s => setThread (answersK h s) fun th => { th with clkh := BitVec.ofNat 32 (s.clk / 2 ^ 32) })
    ∧ (∀ s : State, s.primed h (wideReads [] true) = true → kFree s → ¬csrNamed h s →
        exec (.csrr h) s = trapsWith s 0x02 (leadT h s))
    ∧ ∀ (s : State) (t : Tid), t.isSluice = false →
        s.csr t 0x000 = some (BitVec.ofNat 32 s.clk) ∧ s.csr t 0x001 = some (s.thread t).clkh
        ∧ s.csr t 0x020 = some ((s.thread t).fstat &&& 31#32) ∧ s.csr t 0x030 = some (s.block t.core t.ctx).tvec
        ∧ s.csr t 0x031 = some (s.thread t).tcause ∧ s.csr t 0x032 = some (s.thread t).tval
        ∧ s.csr t 0x033 = some (s.thread t).telem ∧ s.csr t 0x034 = some (s.block t.core t.ctx).tframe
        ∧ s.csr t 0x035 = some (s.thread t).tepc ∧ s.csr t 0x036 = some (s.thread t).tmask

/-- 16 R311, R312, 09 R170: CSRW writes FSTAT, TVEC, ASHAPE, and TFRAME at task level, and gives K.q the value before; a Sluice context's
FSTAT holds nothing. Any other CSR, and TFRAME at handler level, takes trap 0x0F with the move word; a value that the CSR's rule refuses
takes trap 0x02 with the value. -/
def Obligations.CsrsAreWritten : Prop :=
  ∀ h : Head,
    let r := wideReads [.ka] true
    let v := leadOp .ka h
    let at_ (n : Nat) (s : State) : Prop := csrNamed h s ∧ kFree s ∧ csrNumber h s = n
    does (.csrw h) h r (fun s => at_ 0x020 s ∧ (v s).toNat < 32 ∧ s.cur.tid.isSluice = false)
      (fun s => setThread (answersK h s) fun th =>
        { th with fstat := v s ||| (if th.raisedAt = s.clk then th.raisedNow.zeroExtend 32 else 0#32) })
    ∧ does (.csrw h) h r (fun s => at_ 0x020 s ∧ (v s).toNat < 32 ∧ s.cur.tid.isSluice = true) (fun s => answersK h s)
    ∧ does (.csrw h) h r (fun s => at_ 0x030 s ∧ (v s = 0#32 ∨ (v s).toNat % 128 = 8))
        (fun s => (answersK h s).modBlock s.cur.tid.core s.cur.tid.ctx fun b => { b with late := b.late ++ [lateWrite s 0x130 (v s)] })
    ∧ does (.csrw h) h r (fun s => at_ 0x034 s ∧ s.self.level = false ∧ (v s).toNat % 8192 = 0 ∧ (v s).toNat < 0x80000)
        (fun s => (answersK h s).modBlock s.cur.tid.core s.cur.tid.ctx fun b => { b with late := b.late ++ [lateWrite s 0x134 (v s)] })
    ∧ does (.csrw h) h r (fun s => at_ 0x040 s ∧ (v s).toNat ≤ 2)
        (fun s => (answersK h s).modCore s.cur.tid.core fun c => { c with late := c.late ++ [lateWrite s 0x140 (v s)] })
    ∧ (∀ s : State, s.primed h r = true → csrNamed h s → kFree s → csrNumber h s ∉ [0x020, 0x030, 0x034, 0x040] →
        exec (.csrw h) s = trapsWith s 0x0F s.cur.word)
    ∧ (∀ s : State, s.primed h r = true → at_ 0x034 s → s.self.level = true → exec (.csrw h) s = trapsWith s 0x0F s.cur.word)
    ∧ (∀ s : State, s.primed h r = true → at_ 0x020 s → 32 ≤ (v s).toNat → exec (.csrw h) s = trapsWith s 0x02 (v s))
    ∧ (∀ s : State, s.primed h r = true → at_ 0x030 s → v s ≠ 0#32 → (v s).toNat % 128 ≠ 8 → exec (.csrw h) s = trapsWith s 0x02 (v s))
    ∧ (∀ s : State, s.primed h r = true → at_ 0x034 s → s.self.level = false → ((v s).toNat % 8192 ≠ 0 ∨ 0x80000 ≤ (v s).toNat) →
        exec (.csrw h) s = trapsWith s 0x02 (v s))
    ∧ ∀ s : State, s.primed h r = true → at_ 0x040 s → 3 ≤ (v s).toNat → exec (.csrw h) s = trapsWith s 0x02 (v s)

/-- 16 R308, R321: RTE at task level takes trap 0x0F; at handler level, once nothing that the handler started is under way, it returns:
the thread is at task level, and its splits, their addresses and masks, and FSTAT are those of the frame in scratch; where the frame is
malformed, does not lie in the block's region or holds a word that a soft error has struck (16 R331), the work-group ends. -/
def Obligations.TrapsReturn : Prop :=
  ∀ h : Head,
    ends (.rte h) h (wideReads [] false) (fun s => s.self.level = true ∧ kFree s ∧ s.handlerBusy = false)
      (fun s => (s.returnFromTrap s.cur.tid).renewWaits s.cur.tid)
    ∧ (∀ s : State, s.primed h (wideReads [] false) = true → kFree s → s.self.level = false →
        exec (.rte h) s = trapsWith s 0x0F s.cur.word)
    ∧ ∀ (s : State) (t : Tid),
        let b := s.block t.core t.ctx
        let ws := (List.range 2048).map fun i => wordOf (s.ownScratch t t.core (b.scratchBase + s.frameAddr t + 4 * i) 4)
        let holds := if t.isSluice = true ∧ b.running = none then 0#32 else (s.thread t).occupied
        let u := s.returnFromTrap t
        let whole : Prop := ∀ i, i < 2048 → s.ownPoisoned t t.core (b.scratchBase + s.frameAddr t + 4 * i) = false
        (s.frameAddr t + 8192 ≤ b.scratchSize → whole → frameOk ws holds t.isSluice = true →
          (u.thread t).level = false ∧ (u.thread t).fstat = ws.getD 5 0#32 &&& 31#32
            ∧ ∀ k, k < 4 → ((u.thread t).split k).live = (ws.getD (18 + 28 * k) 0#32).getLsbD 31
              ∧ (((u.thread t).split k).live = true →
                  ((u.thread t).split k).pc = ws.getD (16 + 28 * k) 0#32 ∧ ((u.thread t).split k).mask = ws.getD (17 + 28 * k) 0#32))
        ∧ (b.scratchSize < s.frameAddr t + 8192 ∨ ¬whole ∨ frameOk ws holds t.isSluice = false → u = s.endWorkGroup t.core t.ctx)

/-- 16 R313, R314, 10 R198, 14 R279: CHK passes a value without a tag and traps 0x06 with the mask of the tagged lanes; SHP writes the
record that its operand names, where it is legal, into the slot that its value names; OBJ gathers the record's lines at their home and
registers them as an object in a free entry of the home die, or releases that object, and answers on K.q with the object's number or with what
stood in its way (14 R279 gives no cycle: that the answer is due at clk + 3, a cycle of its own after the lines are gathered, is log 22's
DESIGN CHOICE); a line that is gathered stands in no quad cache, and nowhere in a directory; EVT
posts a record after a release at block scope. -/
def Obligations.SystemTriggers : Prop :=
  ∀ h : Head,
    does (.chk h) h { ops := [], t := false, wide := false } (fun s => kFree s ∧ s.taggedLanes h = 0#32) id
    ∧ (∀ s : State, s.primed h { ops := [], t := false, wide := false } = true → kFree s → s.taggedLanes h ≠ 0#32 →
        exec (.chk h) s = trapsWith s 0x06 (s.taggedLanes h))
    ∧ does (.shp h) h (wideReads [.ka] true)
        (fun s => kFree s ∧ (leadT h s).toNat < 64 ∧ (leadOp .ka h s).toNat % 32 = 0
          ∧ (leadOp .ka h s).toNat + 32 ≤ s.selfBlock.scratchSize
          ∧ s.shpWaits h = false ∧ s.shpPoisoned h = false ∧ Rec.bad (s.shpRecord h) = false)
        (fun s => s.modBlock s.cur.tid.core s.cur.tid.ctx fun b =>
          { b with shapes := b.shapes.set (leadT h s).toNat (s.shpRecord h) })
    ∧ ends (.obj h) h (wideReads [.ka] true) (fun s => kFree s ∧ objCheck h s = none) (objectAnswered h)
    ∧ (∀ (s : State) (fn a : Nat),
        (∀ q, (s.gatherLine fn a).qline q (s.keyOf fn a) = QLine.empty) ∧ ∀ d, (s.gatherLine fn a).dirOf d (s.keyOf fn a) = DirEntry.empty)
    ∧ does (.evt h) h (wideReads [] true)
        (fun s => kFree s ∧ (leadT h s).toNat < 2 ^ 24
          ∧ s.selfCore.evq.length + s.selfCore.held.length + s.selfCore.heldE.length < 64)
        (fun s => (s.release s.cur.tid 2).modCore s.cur.tid.core fun c =>
          { c with heldE := c.heldE ++
            [{ tid := s.cur.tid, seq := (s.release s.cur.tid 2).self.seq,
               word := recordWord 3 s.cur.tid.ctx (if s.cur.tid.isSluice then 0 else s.cur.tid.slot) (leadT h s).toNat }] })

namespace Sys2Proof.Claim

/-! ## Engine commands (07 R136; 10 R194 to R214; 12 R236 to R251) -/

/-- An instruction that issues a command: its engine and opcode, what it reads, its own checks, the page that it waits for. -/
structure CommandRow where
  make : Head → Instr
  engine : Nat
  opcode : Nat
  ops : List OpPort
  ready : Head → State → Prop

/-- The counted commands of the Cascade (10 R194). -/
def matrixRows : List CommandRow :=
  [{ make := .mxw, engine := 0, opcode := 0, ops := [.mxa, .mxb], ready := fun h s => mxwCheck h s = none },
   { make := .mxs, engine := 0, opcode := 1, ops := [], ready := fun h s => mxsCheck h s = none },
   { make := .mxg, engine := 0, opcode := 2, ops := [.mxa, .mxb], ready := fun h s => mxgCheck h s = none },
   { make := .mxd, engine := 0, opcode := 3, ops := [.mxa, .mxb], ready := fun h s => mxdCheck h s = none },
   { make := .mxz, engine := 0, opcode := 4, ops := [.mxb], ready := fun h s => mxzCheck h s = none }]

/-- CPn.b is read only where t[23] names a barrier object (12 R238); it may not then carry a tag. -/
def objectUntagged (h : Head) (u : Fin 2) (s : State) : Prop :=
  (leadT h s).getLsbD 23 = true → s.operBad (engineB (1 + u.val)) 1#32 = none

/-- The commands of a copy engine. -/
def copyRows (u : Fin 2) : List CommandRow :=
  [{ make := (.cpy · u), engine := 1 + u.val, opcode := 0, ops := [], ready := fun h s => cpyCheck h u s = none ∧ objectUntagged h u s },
   { make := (.gth · u), engine := 1 + u.val, opcode := 1, ops := [],
     ready := fun h s => gatherCheck h u false s = none ∧ objectUntagged h u s },
   { make := (.sct · u), engine := 1 + u.val, opcode := 2, ops := [],
     ready := fun h s => gatherCheck h u true s = none ∧ objectUntagged h u s },
   { make := (.cpf · u), engine := 1 + u.val, opcode := 7, ops := [engineA (1 + u.val)],
     ready := fun h s => cpfCheck h u s = none ∧ objectUntagged h u s },
   { make := (.ard · u), engine := 1 + u.val, opcode := 3, ops := [engineA (1 + u.val), engineB (1 + u.val)],
     ready := fun h s => collectiveCheck h u false s = none ∧ s.collectivePage h u false = none ∧ s.controlPending h u false = false },
   { make := (.bcs · u), engine := 1 + u.val, opcode := 4, ops := [engineA (1 + u.val), engineB (1 + u.val)],
     ready := fun h s => collectiveCheck h u true s = none ∧ s.collectivePage h u true = none ∧ s.controlPending h u true = false }]

/-- The block may trigger counted commands (10 R194, R195): it holds the quad's lease, or its core belongs to the pair. -/
def mayCount (s : State) : Prop :=
  if s.selfCore.mxmode.getLsbD 0 then
    s.cur.tid.core % 4 = s.selfCore.mxmode.toNat / 16 % 4 ∨ s.cur.tid.core % 4 = s.selfCore.mxmode.toNat / 4 % 4
  else (s.quad (quadOf s.cur.tid.core)).leaseHolder = some (s.cur.tid.core, s.cur.tid.ctx)

/-- A command has been issued (07 R136): it stands at the back of the queue under the block's next tag, it has a progress register in
state running, and the engine's result port awaits its result, and holds none of an earlier one (10 R202). Its fork is a release (13 R263). No
register, no other thread and no other block has changed. -/
structure Issued (s t : State) (c : Cmd) : Prop where
  cmds : t.cmds = s.cmds ++ [c]
  place : c.core = s.cur.tid.core ∧ c.ctx = s.cur.tid.ctx ∧ c.slot = s.cur.tid.slot ∧ c.stage = 0 ∧ c.fn = s.selfBlock.fn
  tag : c.tag = s.selfBlock.nextTag ∧ s.selfBlock.freeProgress = some c.pr
  block : t.block s.cur.tid.core s.cur.tid.ctx = { s.selfBlock with
    engCount := c.tag,
    progress := s.selfBlock.progress.set c.pr { tag := c.tag, cause := 0, state := 1, pass := 0, next := 0, doneAt := 0 } }
  made : c.mask = s.selfBlock.bandMask ∧ c.shape = s.selfCore.ashape.toNat % 4 ∧ c.since = s.clk
  awaits : ∀ p : ResPort, t.self.awaiting p = if p = enginePort c.engine then BitVec.allOnes 32 else s.self.awaiting p
  fills : t.self.fills = s.self.fills.filter fun f => f.port != enginePort c.engine
  thread : ∃ w o f r n, t.self = { s.self with awaits := w, owners := o, fills := t.self.fills, filled := f, releases := s.self.releases ++ r, seq := n }
  others : ∀ k : Tid, k.key ≠ s.cur.tid.key → t.thread k = s.thread k
  blocks : ∀ k x, k * 2 + x ≠ s.cur.tid.core * 2 + s.cur.tid.ctx → t.block k x = s.block k x
  quads : ∀ q, q ≠ quadOf s.cur.tid.core → t.quad q = s.quad q
  rest : t = { s with threads := t.threads, blocks := t.blocks, cmds := t.cmds, quads := t.quads, outputs := t.outputs }

/-- The value in the context's engine port in the next cycle (10 R205, R213). -/
def answersPort (s : State) (port : Nat) (v : Word) : State := s.answerNext port v

/-- Bits [31:0] of the progress register with a tag, or 0 (10 R213): state in [31:24], pass in [23:16], the next element in [15:0]. -/
def progressWord (b : Block) (tag : Nat) : Word :=
  match b.progressOf tag with
  | some i =>
    let p := b.progress.getD i Progress.free
    BitVec.ofNat 32 (p.state * 2 ^ 24 + p.pass % 256 * 2 ^ 16 + p.next % 2 ^ 16)
  | none => 0#32

end Sys2Proof.Claim

/-- 10 R194 to R211: MXW, MXS, MXG, MXD and MXZ, from a block that may trigger them and with values and records that R203 takes,
issue one command each; the lease counts them, and ends with its count. 10 R194, 03 R62: from a block that may not trigger them they
take trap 0x14 with the move word, before any check of their values. -/
def Obligations.MatrixCommandsIssue : Prop :=
  ∀ e ∈ matrixRows, ∀ (h : Head) (s : State), s.primed h (wideReads e.ops true) = true → s.commandWaits 0 = false →
    (mayCount s → e.ready h s →
      ∃ t u c, exec (e.make h) s = .next u ∧ Latched h (s.guard h.guard) (s.trig h) true t u ∧ Issued s t c
        ∧ c.engine = 0 ∧ c.opcode = e.opcode ∧ c.t = leadT h s ∧ t.outputs = s.outputs
        ∧ (s.selfCore.mxmode.getLsbD 0 = true → t.quads = s.quads)
        ∧ (OpPort.mxa ∈ e.ops → c.a = leadOp .mxa h s) ∧ (OpPort.mxb ∈ e.ops → c.b = leadOp .mxb h s)
        ∧ (s.selfCore.mxmode.getLsbD 0 = false → 1 < (s.quad (quadOf s.cur.tid.core)).leaseLeft →
            t.quad (quadOf s.cur.tid.core) = { s.quad (quadOf s.cur.tid.core) with leaseLeft := (s.quad (quadOf s.cur.tid.core)).leaseLeft - 1 })
        ∧ (s.selfCore.mxmode.getLsbD 0 = false → (s.quad (quadOf s.cur.tid.core)).leaseLeft ≤ 1 →
            t.quad (quadOf s.cur.tid.core)
              = { s.quad (quadOf s.cur.tid.core) with leaseHolder := none, leaseLeft := 0, leaseFree := s.clk + 1 }))
    ∧ (¬mayCount s → exec (e.make h) s = trapsWith s 0x14 s.cur.word)

/-- 12 R236 to R251: CPY, CPF, GTH, SCT, ARD and BCS, with values, records and control blocks that their rules take, issue one command
each; ARD and BCS bring the 16 words of their control block, and a control block or a party table in another package's memory or the host's is
read there (15 R288, R293; the form of such a request is log 11's choice). -/
def Obligations.CopyCommandsIssue : Prop :=
  ∀ u : Fin 2, ∀ e ∈ copyRows u, ∀ (h : Head) (s : State), s.primed h (wideReads e.ops true) = true →
    s.commandWaits (1 + u.val) = false → e.ready h s →
    ∃ t v c, exec (e.make h) s = .next v ∧ Latched h (s.guard h.guard) (s.trig h) true t v ∧ Issued s t c ∧ t.quads = s.quads
      ∧ c.engine = 1 + u.val ∧ c.opcode = e.opcode ∧ c.t = leadT h s
      ∧ c.a = leadOp (engineA (1 + u.val)) h s ∧ c.b = leadOp (engineB (1 + u.val)) h s
      ∧ (e.opcode < 3 ∨ 4 < e.opcode → t.outputs = s.outputs)
      ∧ (3 ≤ e.opcode → e.opcode ≤ 4 → c.ctl = (List.range 16).map (s.controlWord h u) ∧ t.outputs
          = ((s.farRead s.selfBlock.fn (s.controlAddr h u) 64).farRead s.selfBlock.fn (s.tableAddr h u) (16 * s.partyCount h u)).outputs)

/-- 10 R205, R213, R214, 12 R244, 07 R140: MXQ and CPQ answer bits [31:0] of a progress register in the next cycle; MXA sets the band
mask and the row claim and answers; MXR and CPR resume a parked or faulted command under its own tag. -/
def Obligations.CommandsAnswerAndResume : Prop :=
  ∀ h : Head,
    does (.mxq h) h (wideReads [] true) (fun s => (leadT h s).toNat < 2 ^ 24)
      (fun s => answersPort s 0 (progressWord s.selfBlock (leadT h s).toNat))
    ∧ (∀ u : Fin 2, does (.cpq h u) h (wideReads [] true) (fun s => (leadT h s).toNat < 2 ^ 24)
        (fun s => answersPort s (1 + u.val) (progressWord s.selfBlock (leadT h s).toNat)))
    ∧ (∀ (u : Fin 2) (c : Cmd), does (.cpr h u) h (wideReads [] true)
        (fun s => (leadT h s).toNat < 2 ^ 24 ∧ s.resumable s.cur.tid.core s.cur.tid.ctx (leadT h s).toNat (· != 0) = some c)
        (fun s => s.resumeCommand c (1 + u.val)))
    ∧ (∀ c : Cmd, does (.mxr h) h (wideReads [] true)
        (fun s => mayCount s ∧ (leadT h s).toNat < 2 ^ 24
          ∧ s.resumable s.cur.tid.core s.cur.tid.ctx (leadT h s).toNat (· == 0) = some c
          ∧ (c.opcode = 2 → s.latchedTag s.cur.tid.core = some c.wtag))
        (fun s => (s.resumeCommand c 0).countLease))
    ∧ ∀ s : State, s.primed h (wideReads [.mxa] true) = true → mxaWaits h s = false → mxaCheck h s = none →
        s.claimMeets s.cur.tid.core s.cur.tid.ctx (s.mxaClaim h) = false →
        let powered := (s.quad (quadOf s.cur.tid.core)).powered
        let mask := (leadT h s).truncate 4 &&& powered
        ∃ t, exec (.mxa h) s = .next t ∧ (t.block s.cur.tid.core s.cur.tid.ctx).bandMask = mask
          ∧ (t.block s.cur.tid.core s.cur.tid.ctx).claim = ((leadOp .mxa h s).toNat / 65536 % 1024, (leadOp .mxa h s).toNat % 1024)
          ∧ ∃ f ∈ (t.thread s.cur.tid).fills, f.port = .mxq ∧ f.due = s.clk + 1
              ∧ f.vals = lanes32 fun _ => BitVec.ofNat 32 (powered.toNat * 16 + mask.toNat)

namespace Sys2Proof.Claim

/-! ## Sluice code (04 R83 to R89; 02 R18; 10 R194) -/

/-- A semaphore trigger (04 R87): index and value legal. -/
def semLegal (h : Head) (s : State) : Prop := (leadOp .sma h s).toNat < 32 ∧ (leadT h s).toNat ≤ 65535

/-- The semaphore that a trigger names, as it stands. -/
def semNow (h : Head) (s : State) : Nat := (s.selfCore.sems.getD (leadOp .sma h s).toNat 0#16).toNat

/-- A semaphore takes a new value, and SM.q the old one in the next cycle. -/
def semBecomes (h : Head) (s : State) (v : Nat) : State :=
  let s' := s.modCore s.cur.tid.core fun c => { c with sems := c.sems.set (leadOp .sma h s).toNat (BitVec.ofNat 16 v) }
  setThread s' fun th =>
    { th with fills := th.fills ++ [{ port := .smq, mask := activeLanes s, vals := lanes32 fun _ => BitVec.ofNat 32 (semNow h s),
                                      due := s.clk + 1, late := false }] }

/-- The core counter's extra count of the block's launch takes a new value (04 R88, R89). -/
def extraBecomes (s : State) (v : Nat) : State :=
  (s.modLaunch s.selfBlock.lid fun l => { l with extra := Tab.set 0 l.extra s.cur.tid.core v }).modBlock s.cur.tid.core s.cur.tid.ctx
    fun b => { b with netExtra := b.netExtra + ((v : Int) - s.extra) }

/-- Something of the block is left once TDIS has disarmed its task (04 R86): a task that runs, another armed task, or a warp. -/
def blockGoesOn (h : Head) (s : State) : Prop :=
  s.selfBlock.resident = true ∧ (s.selfBlock.running ≠ none ∨ (∃ j, j ≠ (leadT h s).toNat ∧ s.selfBlock.armed.getD j false = true)
    ∨ s.blockWarps s.cur.tid.core s.cur.tid.ctx ≠ [])

/-- A task of the block's table is armed or disarmed. -/
def armedBecomes (h : Head) (s : State) (on : Bool) : State :=
  s.modBlock s.cur.tid.core s.cur.tid.ctx fun b => { b with armed := b.armed.set (leadT h s).toNat on }

end Sys2Proof.Claim

/-- 04 R87, R89, 02 R18: the Sluice's own instructions: SINC saturates at 65,535, SDEC stops at 0, SSET sets; DQP pushes a decision
where fewer than 16 are held; TARM and TDIS arm and disarm, and a TDIS after which nothing of the block is left ends the block; CTI, CTD and CTS change the core counter's extra count. -/
def Obligations.SluiceTriggers : Prop :=
  ∀ h : Head,
    let r := wideReads [] true
    let v (s : State) := (leadT h s).toNat
    does (.sinc h) h (wideReads [.sma] true) (semLegal h) (fun s => semBecomes h s (if semNow h s + v s < 65535 then semNow h s + v s else 65535))
    ∧ does (.sdec h) h (wideReads [.sma] true) (semLegal h) (fun s => semBecomes h s (semNow h s - v s))
    ∧ does (.sset h) h (wideReads [.sma] true) (semLegal h) (fun s => semBecomes h s (v s))
    ∧ does (.dqp h) h r (fun s => s.selfBlock.dq.length < 16)
        (fun s => (s.modBlock s.cur.tid.core s.cur.tid.ctx fun b =>
          { b with dq := b.dq ++ [leadT h s], dqPushed := b.dqPushed + 1 }).freeDecisions s.cur.tid.core s.cur.tid.ctx)
    ∧ does (.tarm h) h r (fun s => v s < s.selfBlock.tasks.length) (fun s => armedBecomes h s true)
    ∧ does (.tdis h) h r (fun s => v s < s.selfBlock.tasks.length ∧ blockGoesOn h s) (fun s => armedBecomes h s false)
    ∧ (∀ s : State, s.primed h r = true → v s < s.selfBlock.tasks.length → s.selfBlock.resident = true → ¬blockGoesOn h s →
        ∃ t, exec (.tdis h) s = .next t ∧ (t.block s.cur.tid.core s.cur.tid.ctx).resident = false)
    ∧ does (.cti h) h r (fun s => v s ≤ 65535 ∧ s.extra + v s < 2 ^ 32) (fun s => extraBecomes s (s.extra + v s))
    ∧ does (.ctd h) h r (fun s => v s ≤ 65535 ∧ v s ≤ s.extra ∧ s.extra < 2 ^ 32) (fun s => extraBecomes s (s.extra - v s))
    ∧ does (.cts h) h r (fun s => v s ≤ 65535) (fun s => extraBecomes s (v s))
    ∧ (∀ s : State, s.primed h r = true → v s ≤ 65535 → s.extra < v s → exec (.ctd h) s = trapsWith s 0x02 (leadT h s))
    ∧ ∀ i ∈ [Instr.tarm h, .tdis h], ∀ s : State, s.primed h r = true → s.selfBlock.tasks.length ≤ v s →
        exec i s = trapsWith s 0x02 (leadT h s)

/-- 10 R194, R195: LACQ asks for the quad's lease for 1 to 64 commands and its split waits for the grant; LREL gives back the lease that
the context holds; in paired mode neither has an effect. -/
def Obligations.LeasesAreAskedAndGivenBack : Prop :=
  ∀ h : Head,
    let quad (s : State) := s.quad (quadOf s.cur.tid.core)
    does (.lacq h) h (wideReads [] true)
      (fun s => s.selfCore.mxmode.getLsbD 0 = false ∧ 1 ≤ (leadT h s).toNat ∧ (leadT h s).toNat ≤ 64
        ∧ (quad s).leaseHolder ≠ some (s.cur.tid.core, s.cur.tid.ctx) ∧ (quad s).requests s.cur.tid.core s.cur.tid.ctx = false)
      (fun s => setSelf (s.modQuad (quadOf s.cur.tid.core) fun q =>
        { q with leaseReqs := q.leaseReqs ++ [{ core := s.cur.tid.core, ctx := s.cur.tid.ctx, count := (leadT h s).toNat }] })
        fun sp => { sp with lease := true })
    ∧ does (.lrel h) h (wideReads [] false)
        (fun s => s.selfCore.mxmode.getLsbD 0 = false ∧ (quad s).leaseHolder = some (s.cur.tid.core, s.cur.tid.ctx))
        (fun s => s.modQuad (quadOf s.cur.tid.core) fun q => { q with leaseHolder := none, leaseLeft := 0, leaseFree := s.clk + 1 })
    ∧ does (.lacq h) h (wideReads [] true) (fun s => s.selfCore.mxmode.getLsbD 0 = true) id
    ∧ does (.lrel h) h (wideReads [] false) (fun s => s.selfCore.mxmode.getLsbD 0 = true) id
    ∧ ∀ s : State, s.primed h (wideReads [] true) = true → s.selfCore.mxmode.getLsbD 0 = false →
        ((leadT h s).toNat = 0 ∨ 64 < (leadT h s).toNat) → exec (.lacq h) s = trapsWith s 0x02 (leadT h s)

namespace Sys2Proof.Claim

/-! ## Loads, stores and atomics at their trigger (11 R216 to R234) -/

/-- What a trigger of each lane reads. -/
def laneReads (ops : List OpPort) : Reads := { ops := ops, t := true, wide := false }

/-- Bytes of an access (11 R221, R226), and the slots that a load of it takes. -/
def bytesOfWidth : Width → Nat
  | .b | .bn => 1
  | .h | .hn => 2
  | .w => 4
  | .d => 8
  | .q | .m => 16

def slotsOfWidth : Width → Nat
  | .d => 2
  | .q => 4
  | _ => 1

/-- The slots that a load queue's loads take. -/
def slotsTaken (q : LoadQ) : Nat := (q.entries.map fun e => slotsOfWidth e.width).sum

/-- A queue of 8 slots has room for a load (11 R222). -/
def slotsFree (q : LoadQ) (wd : Width) : Prop := slotsTaken q + slotsOfWidth wd ≤ 8

/-- A load at the tail of its queue, a lane for each lane whose guard is true. -/
def loads (s : State) (p : LoadPort) (wd : Width) (n : Hint) (spec : Bool) (m : Mask) (lane : Nat → LoadLane) : State :=
  setThread s fun th =>
    ({ th with seq := th.seq + 1 } : Thread).setLoads p
      { th.loads p with
        entries := (th.loads p).entries ++ [{ seq := th.seq, width := wd, hint := n, spec := spec, mask := m,
                                              lanes := (lanesIn m).map lane }],
        ever := true }

/-- A lane's access that has not been answered. -/
def asked (l addr : Nat) (missed : Bool) : LoadLane :=
  { lane := l, addr := addr, arrived := false, missed := missed, served := false, poison := false, cause := 0, vals := [], part := none }

/-- The global address of a lane (11 R216): the h port over the trigger value. -/
def globalOf (p : OpPort) (h : Head) (s : State) (l : Nat) : Nat := (s.self.rd (.op p) l).toNat * 2 ^ 32 + (s.trig h l).toNat

/-- Every lane's global address is legal for `n` bytes (11 R218, 00 R3): within 2^57, and in no pod-remote range of a part without
pod links. -/
def globalLegal (p : OpPort) (h : Head) (n : Nat) (s : State) : Prop := globalCheck p h n s = none

/-- Every lane's scratch address names `n` bytes that exist (11 R217, R218). -/
def scratchLegal (h : Head) (n : Nat) (s : State) : Prop := ∀ l ∈ lanesIn (s.guard h.guard), (s.scratchTarget h n l).isSome = true

/-- A store trigger enters the core's store buffer (11 R219), with the hint of its opcode (R220). -/
def stores (s : State) (global : Bool) (n : Hint) (m : Mask) (lane : Nat → StoreLane) : State :=
  let e : StoreEntry :=
    { seq := s.selfCore.seqNo, tid := s.cur.tid, split := s.cur.split, fn := s.selfBlock.fn, global := global,
      lanes := (lanesIn m).map lane, tseq := s.self.seq,
      whole := if global then coveredSectors ((lanesIn m).flatMap fun l => (lane l).cells) else [], hint := n, frame := false }
  setThread (s.modCore s.cur.tid.core fun c => { c with stores := c.stores ++ [e], seqNo := c.seqNo + 1 }) fun th =>
    { th with seq := th.seq + 1 }

/-- The ports that a store of a width reads (11 R226). -/
def dataPorts (d : Fin 4 → OpPort) (m : OpPort) : Width → List OpPort
  | .d => [d 0, d 1]
  | .q => [d 0, d 1, d 2, d 3]
  | .m => [d 0, d 1, d 2, d 3, m]
  | _ => [d 0]

/-- Byte `i` of what the four data ports hold in a lane. -/
def dataByte (d : Fin 4 → OpPort) (s : State) (l i : Nat) : Byte :=
  ((s.self.rd (.op (d (Fin.ofNat 4 (i / 4)))) l).extractLsb' (8 * (i % 4)) 8)

/-- The bytes that a store writes (11 R226): its low data bytes from its address on; with `.m`, those of the aligned 16 bytes that the
mask port selects. -/
def bytesStored (wd : Width) (x : Nat) (byte : Nat → Byte) (mask : Word) : List Host.Cell :=
  match wd with
  | .m => ((List.range 16).filter fun i => mask.getLsbD i).map fun i => (x / 16 * 16 + i, byte i)
  | _ => (List.range (bytesOfWidth wd)).map fun i => (x + i, byte i)

/-- An atomic instruction: kind 0 ATS, 1 ATG, 2 RED; its operation and its scope class. -/
structure AtomRow where
  make : Head → Instr
  kind : Nat
  op : Nat
  scope : Nat

def atsRows : List AtomRow :=
  ([Instr.atsAdd, .atsMin, .atsMax, .atsMinn, .atsMaxn, .atsAnd, .atsOr, .atsXor, .atsXchg, .atsCas, .atsInc, .atsDec, .atsFadd].zip
    [0, 1, 2, 3, 4, 5, 6, 7, 8, 9, 10, 11, 12]).map fun x => { make := x.1, kind := 0, op := x.2, scope := 0 }

def atgRows (c : AtomScope) : List AtomRow :=
  ([(Instr.atgAdd · c), (.atgMin · c), (.atgMax · c), (.atgMinn · c), (.atgMaxn · c), (.atgAnd · c), (.atgOr · c), (.atgXor · c),
      (.atgXchg · c), (.atgCas · c), (.atgInc · c), (.atgDec · c), (.atgFadd · c)].zip
    [0, 1, 2, 3, 4, 5, 6, 7, 8, 9, 10, 11, 12]).map fun x => { make := x.1, kind := 1, op := x.2, scope := AtomScope.code c }

def redRows (c : AtomScope) : List AtomRow :=
  ([(Instr.redAdd · c), (.redMin · c), (.redMax · c), (.redMinn · c), (.redMaxn · c), (.redAnd · c), (.redOr · c), (.redXor · c),
      (.redInc · c), (.redDec · c), (.redFadd · c)].zip
    [0, 1, 2, 3, 4, 5, 6, 7, 10, 11, 12]).map fun x => { make := x.1, kind := 2, op := x.2, scope := AtomScope.code c }

/-- The ports that an atomic reads (11 R230): c only for CAS. -/
def atomReads (e : AtomRow) : Reads :=
  laneReads (if e.kind = 0 then (if e.op = 9 then [.asa, .asb] else [.asa]) else if e.op = 9 then [.agh, .aga, .agb] else [.agh, .aga])

/-- Room in the atomic request queue of 32 triggers, which a trigger leaves when every lane's request has left the core (11 R219). -/
def atomsFree (s : State) : Prop :=
  (s.selfCore.atoms.filter fun x => x.lanes.any fun l => l.stage == 0 && !s.atomSent s.cur.tid.core x.seq l.addr).length < 32

/-- The word that a lane's atomic names. -/
def atomAddress (e : AtomRow) (h : Head) (s : State) (l : Nat) : Nat :=
  if e.kind = 0 then (s.scratchTarget h 4 l).getD 0 else globalOf .agh h s l

/-- The addresses exist (11 R218), then every one is a multiple of 4 (R230). -/
def atomNamed (e : AtomRow) (h : Head) (s : State) : Prop := if e.kind = 0 then scratchLegal h 4 s else globalLegal .agh h 4 s

def atomAligned (h : Head) (s : State) : Prop := ∀ l ∈ lanesIn (s.guard h.guard), (s.trig h l).toNat % 4 = 0

/-- What an atomic waits for is not in its quad cache (05 R108): it is performed elsewhere, or its line is not found there. -/
def atomMisses (e : AtomRow) (s : State) (a : Nat) : Bool :=
  decide (e.kind ≠ 0) && !(s.atQuadCache s.selfBlock.fn e.kind e.scope a && s.inQuad (quadOf s.cur.tid.core) s.selfBlock.fn a)

/-- An atomic enters the atomic request queue. -/
def atomEntry (e : AtomRow) (h : Head) (s : State) : AtomEntry :=
  { seq := s.selfCore.seqNo, tid := s.cur.tid, split := s.cur.split, fn := s.selfBlock.fn, kind := e.kind, op := e.op, scope := e.scope,
    lanes := (lanesIn (s.guard h.guard)).map fun l =>
      { lane := l, addr := atomAddress e h s l, a := s.self.rd (.op (if e.kind = 0 then .asa else .aga)) l,
        c := s.self.rd (.op (if e.kind = 0 then .asb else .agb)) l, stage := 0, old := 0#32, cause := 0, tries := 0,
        missed := atomMisses e s (atomAddress e h s l) },
    tseq := s.self.seq }

/-- AS.q or AG.q is taken over in the atomic's lanes (11 R232): they await this result, and an error of an earlier one is gone. -/
def takenOver (e : AtomRow) (m : Mask) (th : Thread) : Thread :=
  let p : ResPort := if e.kind = 0 then .asq else .agq
  { th.setAwaiting p (th.awaiting p ||| m) with
    redo := if e.kind = 0 then th.redo else th.redo.filter fun x => !m.getLsbD x.lane,
    owners := (lanesIn m).foldl (fun o l => Tab.set 0 o (p.code * 32 + l) (th.seq + 1)) th.owners,
    faults := (lanesIn m).foldl (fun f l => Tab.erase f (p.code * 32 + l)) th.faults }

/-- An atomic has entered the queue. -/
def atomEntered (e : AtomRow) (h : Head) (s : State) : State :=
  setThread (s.modCore s.cur.tid.core fun c => { c with atoms := c.atoms ++ [atomEntry e h s], seqNo := c.seqNo + 1 }) fun th =>
    { (if e.kind = 2 then th else takenOver e (s.guard h.guard) th) with seq := th.seq + 1 }

end Sys2Proof.Claim

/-- 11 R216 to R225: LDS, LDG, LDGS and LDW answer the next state in which the load has taken its slots at the tail of its queue, with the
address of each lane; a lane of LDGS whose address does not exist has poison already. PFG takes no slot and writes no port: it changes the
core's L1, and what it has asked for, alone. LDW on a part without a weight store takes trap 0x15. -/
def Obligations.LoadsEnterTheirQueues : Prop :=
  ∀ (h : Head) (wd : Width) (n : Hint),
    does (.lds h wd) h (laneReads []) (fun s => slotsFree s.self.ls wd ∧ scratchLegal h (bytesOfWidth wd) s)
      (fun s => loads s .ls wd .normal false (s.guard h.guard) fun l => asked l ((s.scratchTarget h (bytesOfWidth wd) l).getD 0) false)
    ∧ does (.ldg h wd n) h (laneReads [.lgh]) (fun s => slotsFree s.self.lg wd ∧ globalLegal .lgh h (bytesOfWidth wd) s)
        (fun s => loads s .lg wd n false (s.guard h.guard) fun l =>
          asked l (globalOf .lgh h s l) (((asked l (globalOf .lgh h s l) false).todo (bytesOfWidth wd)).any fun x =>
            !s.hits s.cur.tid.core s.selfBlock.fn x.1 x.2))
    ∧ does (.ldw h wd) h (laneReads [])
        (fun s => s.pack.variant.hasStore = true ∧ slotsFree s.self.lw wd ∧ weightCheck h (bytesOfWidth wd) s = none)
        (fun s => loads s .lw wd .normal false (s.guard h.guard) fun l => asked l (s.trig h l).toNat true)
    ∧ does (.ldgs h wd n) h (laneReads [.lgh]) (fun s => slotsFree s.self.lg wd)
        (fun s => (loads s .lg wd n true (s.guard h.guard) fun l =>
          if globalOf .lgh h s l + bytesOfWidth wd ≤ 2 ^ 57 then asked l (globalOf .lgh h s l) false
          else { asked l (globalOf .lgh h s l) false with
            arrived := true, poison := true,
            vals := (List.range (slotsOfWidth wd)).map fun j => Config.freeWord (s.draws * 4096 + l * 4 + j) }).drawn)
    ∧ (∀ s : State, s.primed h (laneReads [.lgh]) = true →
        ∃ u t, exec (.pfg h wd n) s = .next t ∧ Latched h (s.guard h.guard) (s.trig h) true u t ∧ u = { s with cores := u.cores }
          ∧ ∀ c, u.core c = { s.core c with l1 := (u.core c).l1, prefetch := (u.core c).prefetch })
    ∧ ∀ s : State, s.primed h (laneReads []) = true → s.pack.variant.hasStore = false → slotsFree s.self.lw wd →
        exec (.ldw h wd) s = trapsWith s 0x15 s.cur.word

/-- 11 R219, R226: STS and STG enter the core's store buffer of 64 triggers with the bytes of every lane; they write no memory yet. -/
def Obligations.StoresEnterTheBuffer : Prop :=
  ∀ (h : Head) (wd : Width) (n : Hint), wd.store = true →
    does (.sts h wd) h (laneReads (dataPorts .ssd .ssm wd))
      (fun s => s.selfCore.stores.length < 64 ∧ ∀ l ∈ lanesIn (s.guard h.guard), (s.storeTarget h wd l).isSome = true)
      (fun s => stores s false .normal (s.guard h.guard) fun l =>
        { lane := l, addr := (s.storeTarget h wd l).getD 0,
          cells := bytesStored wd ((s.storeTarget h wd l).getD 0) (dataByte .ssd s l) (s.self.rd (.op .ssm) l) })
    ∧ does (.stg h wd n) h (laneReads (.sgh :: dataPorts .sgd .sgm wd))
        (fun s => s.selfCore.stores.length < 64 ∧ globalLegal .sgh h (if wd = .m then 1 else bytesOfWidth wd) s)
        (fun s => stores s true n (s.guard h.guard) fun l =>
          { lane := l, addr := if wd = .m then globalOf .sgh h s l / 16 * 16 else globalOf .sgh h s l,
            cells := bytesStored wd (globalOf .sgh h s l) (dataByte .sgd s l) (s.self.rd (.op .sgm) l) })

/-- 11 R219, R230, R232: every atomic enters the atomic request queue with the operands of each lane; ATS and ATG take AS.q and AG.q over
in those lanes, and nothing else changes; a word address that is not a multiple of 4 takes trap 0x05 with the address of the lowest such lane. -/
def Obligations.AtomicsEnterTheirQueue : Prop :=
  ∀ c : AtomScope, ∀ e ∈ atsRows ++ atgRows c ++ redRows c, ∀ h : Head,
    does (e.make h) h (atomReads e) (fun s => atomsFree s ∧ atomNamed e h s ∧ atomAligned h s) (atomEntered e h)
    ∧ ∀ (s : State) (l : Nat), s.primed h (atomReads e) = true → atomsFree s → atomNamed e h s →
        (lanesIn (s.guard h.guard)).find? (fun k => decide ((s.trig h k).toNat % 4 ≠ 0)) = some l →
        exec (e.make h) s = trapsWith s 0x05 (s.trig h l)

namespace Sys2Proof.Claim

/-! ## Taking a trap (16 R309, R315 to R318) -/

/-- A trap that is taken and not beyond recovery: the warp is at task level, TVEC is not 0, the frame lies in the block's region,
the cause is not 0x13, no word of the frame is struck by a soft error (16 R331), and debug mode does not stop the warp instead (16 R315
step 2, R327). -/
def recoverable (s : State) (t : Tid) (r : TrapRec) : Prop :=
  (s.thread t).level = false ∧ (s.block t.core t.ctx).tvec ≠ 0#32 ∧ s.frameAddr t + 8192 ≤ (s.block t.core t.ctx).scratchSize
    ∧ r.cause ≠ 0x13 ∧ (s.thread t).frameStruck = false ∧ ((r.cause = 0x0B ∨ r.cause = 0x0C) → (s.core t.core).dbgctl.getLsbD 2 = false)

/-- No result is due at the boundary. -/
def atRest (s : State) (t : Tid) : Prop := (∀ f ∈ (s.thread t).flights, s.clk < f.due) ∧ ∀ f ∈ (s.thread t).fills, f.port ≠ .smq

/-- Where the frame of a thread begins in its core's scratchpad (16 R315 step 5). -/
def frameBase (s : State) (t : Tid) : Nat :=
  (s.block t.core t.ctx).scratchBase + (s.block t.core t.ctx).tframe.toNat
    + (if t.isSluice then (s.block t.core t.ctx).warps else t.slot) * 8192

/-- Word `i` of a thread's frame as the thread's own loads find it (11 R235). -/
def frameWord (s : State) (t : Tid) (base i : Nat) : Word := wordOf (s.ownScratch t t.core (base + 4 * i) 4)

/-- The frame that a trap writes (16 R317, R318). -/
def frameOf (s : State) (t : Tid) (i : Nat) (r : TrapRec) : List Word :=
  let head : FrameHead := { tepc := r.tepc, tmask := ((s.thread t).split i).mask, cause := r.cause, split := i, tval := r.tval, telem := r.telem }
  frameWords s.clk t.isSluice (s.thread t) head (flightsSorted (s.thread t).flights)

/-- The store that carries a frame along the scratchpad store path (16 R315 step 5). -/
def frameEntry (s : State) (t : Tid) (i : Nat) (r : TrapRec) : StoreEntry :=
  { seq := (s.core t.core).seqNo, tid := t, split := 0, fn := (s.block t.core t.ctx).fn, global := false,
    lanes := frameLanes (t.core * 2 ^ 20 + frameBase s t) (frameOf s t i r), tseq := (s.thread t).seq, whole := [], hint := .normal,
    frame := true }

/-- A trap has been taken (16 R315): the frame of R317 has entered the scratchpad store path behind the core's earlier stores, the trap
CSRs are set, one split stands at the handler, the events that the frame holds are pending no more, and nothing outside the frame, and no
other thread, has changed. -/
structure TrapTaken (s : State) (t : Tid) (i : Nat) (r : TrapRec) (u : State) : Prop where
  state : u = { s with threads := u.threads, cores := u.cores, blocks := u.blocks }
  others : ∀ k : Tid, k.key ≠ t.key → u.thread k = s.thread k
  level : (u.thread t).level = true
  csrs : (u.thread t).tcause = BitVec.ofNat 32 r.cause ∧ (u.thread t).tval = r.tval ∧ (u.thread t).telem = BitVec.ofNat 32 r.telem
    ∧ (u.thread t).tepc = r.tepc ∧ (u.thread t).tmask = ((s.thread t).split i).mask
  handler : ((u.thread t).split 0).live = true ∧ ((u.thread t).split 0).pc = (s.block t.core t.ctx).tvec
    ∧ ((u.thread t).split 0).mask = (s.thread t).occupied ∧ ((u.thread t).split 0).loops = [] ∧ ((u.thread t).split 0).sched = 0
    ∧ (u.thread t).liveSplits = [0]
  general : ∀ n l, n < 128 → (u.thread t).rd (.g n) l = (s.thread t).rd (.g n) l ∧ (u.thread t).tags (.g n) = (s.thread t).tags (.g n)
  conditions : ∀ n l, n < 4 → (u.thread t).rd (.cc n) l = (s.thread t).rd (.cc n) l
  latches : ∀ n l, n < 3 → (u.thread t).rd (.age n) l = 0#32
  aside : (∀ p, (u.thread t).awaiting p = 0#32) ∧ (∀ p, (u.thread t).loads p = { entries := [], ever := false })
    ∧ (u.thread t).flights = [] ∧ ∃ a, (u.thread t).aside = some a ∧ a.ls = (s.thread t).ls ∧ a.lg = (s.thread t).lg
      ∧ a.lw = (s.thread t).lw ∧ a.fills = (s.thread t).fills
  blocks : u.block t.core t.ctx = { s.block t.core t.ctx with pauseFrom := if t.isSluice then some s.clk
    else (s.block t.core t.ctx).pauseFrom }
  pending : (u.thread t).pending = (s.thread t).pending.filter fun p => p.cause != 0x11 && p.cause != 0x0E && p.cause != 0x0D
  order : (u.thread t).seq = (s.thread t).seq + 1
  core : u.core t.core = { s.core t.core with stores := (s.core t.core).stores ++ [frameEntry s t i r], seqNo := (s.core t.core).seqNo + 1 }
  cores : ∀ c, c ≠ t.core → u.core c = s.core c
  frame : ∀ k, k < 2048 → frameWord u t (frameBase s t) k = (frameOf s t i r).getD k 0#32
  header : frameWord u t (frameBase s t) 0 = r.tepc ∧ frameWord u t (frameBase s t) 1 = ((s.thread t).split i).mask
    ∧ frameWord u t (frameBase s t) 3 = r.tval ∧ frameWord u t (frameBase s t) 4 = BitVec.ofNat 32 (r.telem % 65536)
    ∧ frameWord u t (frameBase s t) 8 = BitVec.ofNat 32 s.clk ∧ frameWord u t (frameBase s t) 9 = BitVec.ofNat 32 (s.clk / 2 ^ 32)
  saved : ∀ k, k < 4 → ((s.thread t).split k).live = true →
    frameWord u t (frameBase s t) (16 + 28 * k) = ((s.thread t).split k).pc
      ∧ frameWord u t (frameBase s t) (17 + 28 * k) = ((s.thread t).split k).mask
  outside : ∀ a n, a + n ≤ frameBase s t ∨ frameBase s t + 8192 ≤ a → u.ownScratch t t.core a n = s.ownScratch t t.core a n

/-! ## Address checks (11 R217, R218; 15 R287) -/

/-- A scratch or pooled address under which the issuing block has no `n` bytes. -/
def unplaced (s : State) (v : Word) (n : Nat) : Bool :=
  let b := s.selfBlock
  let bytes := v.toNat % 2 ^ 19 + n
  if b.grouped then
    let half := (v.getLsbD 31).toNat
    let slot := 16 * (if half = (b.twin && decide (16 ≤ b.gslot)).toNat then 0 else 1) + v.toNat / 2 ^ 27 % 16
    v.toNat / 2 ^ 19 % 256 ≠ 0 || (half == 1 && !b.twin) || (if slot = b.gslot then decide (b.scratchSize < bytes)
      else match s.groupMate b slot with
        | some p => decide ((s.block p.1 p.2).scratchSize < bytes)
        | none => true)
  else decide (2 ^ 19 ≤ v.toNat) || decide (b.scratchSize < bytes)

/-- The lowest lane whose guard is true that a check refuses. -/
def refusedLane (h : Head) (s : State) (bad : Nat → Bool) (l : Nat) : Prop := (lanesIn (s.guard h.guard)).find? bad = some l

/-- A lane's global address lies in a pod-remote range (15 R291). -/
def podRemote (p : OpPort) (h : Head) (s : State) (k : Nat) : Bool :=
  (s.rangeOf s.selfBlock.fn (globalOf p h s k)).valid && (s.rangeOf s.selfBlock.fn (globalOf p h s k)).policy == 3

/-- A trigger of `n` global bytes a lane under the address port `p`: on a part without pod links a pod-remote address takes trap 0x15 (00
R3); else bytes beyond 2^57 - 1 take trap 0x08. -/
def globalsChecked (i : Instr) (p : OpPort) (h : Head) (n : Nat) (s : State) : Prop :=
  (s.pack.variant.hasPods = false → (∃ k ∈ lanesIn (s.guard h.guard), podRemote p h s k = true) → exec i s = trapsWith s 0x15 s.cur.word)
  ∧ ∀ l, (s.pack.variant.hasPods = true ∨ ∀ k ∈ lanesIn (s.guard h.guard), podRemote p h s k = false) →
      refusedLane h s (fun k => decide (2 ^ 57 < globalOf p h s k + n)) l → exec i s = trapsWith s 0x08 (s.self.rd (.op p) l)

/-! ## What a step does with instructions (03 R52, R62; 05 R106; logs 5 and 7) -/

/-- The meaning of an instruction in one phase of the bundle that holds its move. -/
def inPhase (i : Instr) (ph : Phase) (x : Slot) (s : State) : State :=
  match exec i { s with cur := { s.cur with phase := ph, slot := x.num, word := x.word, imms := x.imms } } with
  | .next t => t
  | _ => s

/-- The checks of a bundle of one move, in the order of their kinds. -/
def inChecks (i : Instr) (x : Slot) (s : State) : State :=
  inPhase i (.check 3) x (inPhase i (.check 2) x (inPhase i (.check 1) x (inPhase i (.check 0) x s)))

/-- A warp bundle of one move stands ready: the cycle's deliveries are over, `core`'s warps have the next turn, its only candidate is
split `i` of `t`, the split is ready, its line is held, and no check of the code fails. -/
structure OneMove (s : State) (core : Nat) (t : Tid) (i : Nat) (line : List Word) (x : Slot) : Prop where
  settled : s.settled = true
  turn : s.nextIssuer = some (core, false)
  only : let u := s.modCore core fun c => { c with warpIssued := true }
    (u.coreSplits core).filter (fun p => ((u.thread p.1).split p.2).standing.isSome) = [(t, i)] ∧ u.look t i = (u, true)
      ∧ u.codeLine t ((u.thread t).split i).pc = some line
      ∧ codeTrap (u.thread t) t.isSluice (u.block t.core t.ctx).nregs line ((u.thread t).split i) = none
      ∧ slotsOf line ((u.thread t).split i) = [x]

/-- The triggers that take effect after the bundle's pop (log 7): the control unit's, the sync unit's, RTE. -/
def late (x : Slot) : Bool :=
  let d := field x.word.toNat 25 18
  d == 0x90 || d == 0xB4 || (d == 0xB6 && field x.word.toNat 6 0 == 3)

/-- The bundle opened. -/
def opened (s : State) (core : Nat) (t : Tid) (i : Nat) (line : List Word) : State :=
  ((s.modCore core fun c => { c with warpIssued := true }).noteIssue t).openBundle t i line

/-- DRAM and the host's memory are in canonical form. -/
def memoriesCanonical (s : State) : Prop := s.memoryWf

end Sys2Proof.Claim

/-- 16 R315 to R317: the machine's one trap entry. Where no result is due and the trap is recoverable, the frame of R317 enters the
scratchpad store path behind the core's earlier stores and reads so from then on (every word as the model's frame layout has it; the
address, masks, TVAL, TELEM, entry cycle and the live splits' addresses and masks written out); it sets the five trap CSRs, and starts one
split at TVEC at handler level over the warp's lanes; general registers, condition codes and the scratchpad outside the frame stay; the
watchdog, timer and external events that stood pending are the frame's (R318). At handler level a trap other than 0x0B and 0x0C ends the work-group. TAKE_TRAP takes by it the
pending trap that strikes at a boundary, but a timer or an external event that meets TVEC 0 is discarded (16 R325). -/
def Obligations.TrapsAreTaken : Prop :=
  (∀ (s : State) (t : Tid) (i : Nat) (r : TrapRec), t.slot < 64 → i < 4 → r.cause < 256 → recoverable s t r → atRest s t →
    TrapTaken s t i r (s.takeTrap t i r))
  ∧ (∀ (s : State) (t : Tid) (i : Nat) (r : TrapRec), (s.thread t).level = true → r.cause ≠ 0x0B → r.cause ≠ 0x0C →
      s.takeTrap t i r = s.endWorkGroup t.core t.ctx)
  ∧ ∀ (s : State) (t : Tid) (p : PendingTrap), s.boundaryTrap t = some p → s.stepsNothing t = false →
      let took := s.modThread t fun th => { th with pending := th.pending.erase p }
      let idle := (p.cause = 0x0D ∨ p.cause = 0x0E) ∧ (s.block t.core t.ctx).tvec = 0#32
      (idle → exec (.takeTrap t (s.thread t).firstSplit p.cause p.tval p.telem) s = .next took)
      ∧ (¬ idle → exec (.takeTrap t (s.thread t).firstSplit p.cause p.tval p.telem) s
        = .next (took.takeTrap t (s.thread t).firstSplit
            { cause := p.cause, tval := p.tval, telem := p.telem, tepc := ((s.thread t).split (s.thread t).firstSplit).pc }))

/-- 11 R229: a trigger of the A, F, S, V and X units, of a load, a prefetch, a store or an atomic that reads a tagged operand takes trap
0x06 with the move word; nothing of it takes effect. -/
def Obligations.PoisonedOperandsTrap : Prop :=
  ∀ (h : Head) (u : Fin 2) (rm : Rm) (c : AtomScope) (s : State), s.alone = true → s.sourced h = true →
    (∀ e ∈ aluSums ++ aluProducts ++ aluBits ++ aluShifts ++ aluFields ++ [unaryRow .ctz id],
      (aluReads e u).tagged s h (s.guard h.guard) = true → room 1 s → exec (e.make h u) s = trapsWith s 0x06 s.cur.word)
    ∧ (∀ e ∈ aluDivides, (aluReads e u).tagged s h (s.guard h.guard) = true → room 1 s → dividersFree h s →
        exec (e.make h u) s = trapsWith s 0x06 s.cur.word)
    ∧ (∀ e ∈ fpRows u rm ++ packedRows u rm ++ compareRow u :: cvtRow :: convRows,
        (floatReads e).tagged s h (s.guard h.guard) = true → room 1 s → exec (e.make h) s = trapsWith s 0x06 s.cur.word)
    ∧ (∀ e ∈ specialRows, (floatReads e).tagged s h (s.guard h.guard) = true → room 1 s → specialFree s →
        exec (e.make h) s = trapsWith s 0x06 s.cur.word)
    ∧ (room 2 s →
        (∀ e ∈ movements ++ votes ++ reductions ++ planes, (crossReads e).tagged s h (s.guard h.guard) = true →
          exec (e.make h) s = trapsWith s 0x06 s.cur.word)
        ∧ ((laneReads []).tagged s h (s.guard h.guard) = true → (∀ e ∈ extremes, exec (e.1 h) s = trapsWith s 0x06 s.cur.word)
          ∧ exec (.wfadd h) s = trapsWith s 0x06 s.cur.word)
        ∧ ((laneReads []).tagged s h (s.guard h.guard) = true ∨ (s.self.tags (.op .xa)).getLsbD (lowestIn (s.guard h.guard)) = true →
          exec (.bcst h) s = trapsWith s 0x06 s.cur.word))
    ∧ (∀ e ∈ atsRows ++ atgRows c ++ redRows c, (atomReads e).tagged s h (s.guard h.guard) = true → atomsFree s →
        exec (e.make h) s = trapsWith s 0x06 s.cur.word)
    ∧ (∀ wd, slotsFree s.self.ls wd → (laneReads []).tagged s h (s.guard h.guard) = true →
        exec (.lds h wd) s = trapsWith s 0x06 s.cur.word)
    ∧ (∀ wd, s.pack.variant.hasStore = true → slotsFree s.self.lw wd → (laneReads []).tagged s h (s.guard h.guard) = true →
        exec (.ldw h wd) s = trapsWith s 0x06 s.cur.word)
    ∧ (∀ wd n, (laneReads [.lgh]).tagged s h (s.guard h.guard) = true → exec (.pfg h wd n) s = trapsWith s 0x06 s.cur.word)
    ∧ (∀ wd n, slotsFree s.self.lg wd → (laneReads [.lgh]).tagged s h (s.guard h.guard) = true →
        exec (.ldg h wd n) s = trapsWith s 0x06 s.cur.word ∧ exec (.ldgs h wd n) s = trapsWith s 0x06 s.cur.word)
    ∧ ∀ wd n, wd.store = true → s.selfCore.stores.length < 64 →
        ((laneReads (dataPorts .ssd .ssm wd)).tagged s h (s.guard h.guard) = true → exec (.sts h wd) s = trapsWith s 0x06 s.cur.word)
        ∧ ((laneReads (.sgh :: dataPorts .sgd .sgm wd)).tagged s h (s.guard h.guard) = true →
            exec (.stg h wd n) s = trapsWith s 0x06 s.cur.word)

/-- 11 R217, R218: a scratch or pooled access whose bytes do not lie in a region that it may name (LDS, STS and the ATS row; `.m` asks for
the aligned 16 bytes) traps 0x08 with the address of the lowest such lane; a global access that passes 2^57 - 1 (LDG, STG and the ATG and
RED rows) traps 0x08 with that lane's h word (R218's 'h value' as log 39 reads it), after trap 0x15 for a pod-remote one on a part without
pod links (00 R3); a weight-store offset with bits [31:28] set, then one outside the function's window (15 R287), traps 0x08 with the
offset. `.m` of STG names the bytes of its address's own 16, so that one byte is checked (log 39). -/
def Obligations.AddressesAreChecked : Prop :=
  ∀ (h : Head) (wd : Width) (n : Hint) (c : AtomScope) (s : State) (l : Nat),
    (s.primed h (laneReads []) = true → slotsFree s.self.ls wd → refusedLane h s (fun k => unplaced s (s.trig h k) (bytesOfWidth wd)) l →
      exec (.lds h wd) s = trapsWith s 0x08 (s.trig h l))
    ∧ (s.primed h (laneReads (dataPorts .ssd .ssm wd)) = true → s.selfCore.stores.length < 64 →
        refusedLane h s (fun k => unplaced s (if wd = .m then s.trig h k &&& ~~~15#32 else s.trig h k) (bytesOfWidth wd)) l →
        exec (.sts h wd) s = trapsWith s 0x08 (s.trig h l))
    ∧ (∀ e ∈ atsRows, s.primed h (atomReads e) = true → atomsFree s → refusedLane h s (fun k => unplaced s (s.trig h k) 4) l →
        exec (e.make h) s = trapsWith s 0x08 (s.trig h l))
    ∧ (s.primed h (laneReads [.lgh]) = true → slotsFree s.self.lg wd → globalsChecked (.ldg h wd n) .lgh h (bytesOfWidth wd) s)
    ∧ (s.primed h (laneReads (.sgh :: dataPorts .sgd .sgm wd)) = true → s.selfCore.stores.length < 64 →
        globalsChecked (.stg h wd n) .sgh h (if wd = .m then 1 else bytesOfWidth wd) s)
    ∧ (∀ e ∈ atgRows c ++ redRows c, s.primed h (atomReads e) = true → atomsFree s → globalsChecked (e.make h) .agh h 4 s)
    ∧ (s.primed h (laneReads []) = true → s.pack.variant.hasStore = true → slotsFree s.self.lw wd →
        (refusedLane h s (fun k => decide (2 ^ 28 ≤ (s.trig h k).toNat)) l → exec (.ldw h wd) s = trapsWith s 0x08 (s.trig h l))
        ∧ ((∀ k ∈ lanesIn (s.guard h.guard), (s.trig h k).toNat < 2 ^ 28) →
            refusedLane h s (fun k => s.wsOutside s.selfBlock.fn (dieOf s.cur.tid.core) (s.trig h k).toNat (bytesOfWidth wd)) l →
            exec (.ldw h wd) s = trapsWith s 0x08 (s.trig h l)))

/-- A step runs instructions: while deliveries go on, the event at the head of the agenda; in the second part of a cycle, a bundle whose
only move decodes to `i` runs `exec i` in the phases of 03 R52 and R62: a trap of its checks is taken, else latches and the address
advance, the move's latch and its join of a command follow, a trigger takes effect, and the bundle pops at its end. That a cycle runs its
events first, one to a step, is log 5's DESIGN CHOICE; that the control and the sync unit's triggers and RTE take effect after the pop, and
the order of the phases beside what R52 gives, is log 7's. -/
def Obligations.StepsRunInstructions : Prop :=
  (∀ (s : State) (i : Instr) (rest : List Instr), s.settled = false → s.agenda = i :: rest →
    step s = exec i { s with agenda := rest })
  ∧ ∀ (s : State) (core : Nat) (t : Tid) (k : Nat) (line : List Word) (x : Slot) (i : Instr), OneMove s core t k line x →
    decodeMove x.word.toNat = .instr i →
    let o := opened s core t k line
    let written := if x.isTrigger then o else inPhase i .effect x o
    (inPhase i .waits x written).cur.wait = false →
    step s = .next (match (inChecks i x written).cur.trap with
      | some r => (s.modCore core fun c => { c with warpIssued := true }).takeTrap t k r
      | none =>
        let done := (inPhase i .finish x (written.advance line)).joinCommands [x]
        let fires (v : State) : State := if x.isTrigger ∧ v.cur.dead = false then inPhase i .effect x v else v
        (if late x then fires done.popAll else (fires done).popAll).closeBundle)

/-- 02 R20, 10 R191, R193, R207, R212, 14 R280: what reset leaves: semaphores, ASHAPE and TILEST 0, MXMODE lease mode, no latched weights,
every accumulator 0, rotating pointers 0. -/
def Obligations.ResetLeaves : Prop :=
  ∀ c q d : Nat,
    (∀ i, ((State.reset.core c).sems.getD i 0#16) = 0#16) ∧ (State.reset.core c).ashape = 0#32
    ∧ (∀ i, (State.reset.core c).tilest.getD i 0#32 = 0#32) ∧ (State.reset.core c).mxmode.getLsbD 0 = false
    ∧ (State.reset.quad q).latched = false ∧ (∀ k, Tab.get 0#48 (State.reset.quad q).acc k = 0#48)
    ∧ (∀ k, Tab.get 0 (State.reset.die d).pointers k = 0) ∧ State.reset.memoryWf

/-- Log 3: every step from a state whose DRAM and host memory are in canonical form leaves them so, whatever the step runs. -/
def Obligations.MemoriesStayCanonical : Prop :=
  ∀ s t : State, s.memoryWf → step s = .next t → t.memoryWf

/-- 02 R31, log 5: no instruction changes the cycle count or the part of the cycle, and a step ends the cycle or leaves both: CLK counts one
at a time. -/
def Obligations.ClockCountsCycles : Prop :=
  (∀ (i : Instr) (s t : State), exec i s = .next t → t.clk = s.clk ∧ t.settled = s.settled ∧ (t.agenda = s.agenda))
  ∧ ∀ s t : State, step s = .next t → t.clk = s.clk ∨ (t.clk = s.clk + 1 ∧ s.settled = true ∧ t.settled = false)

/-- No instruction stops the machine: a step from any state answers a next state. -/
def Obligations.EveryStepGoesOn : Prop := ∀ s : State, goesOn (step s)

namespace Sys2Proof.Claim

/-! ## Events: what every statement about one shares -/

/-- An event, from every state in which `ok` holds, answers the next state that `after` gives. -/
def occurs (e : Instr) (ok : State → Prop) (after : State → State) : Prop := ∀ s : State, ok s → exec e s = .next (after s)

/-- An event, from every state in which `ok` holds, answers a next state that is as `gives` says. -/
def brings (e : Instr) (ok : State → Prop) (gives : State → State → Prop) : Prop :=
  ∀ s : State, ok s → ∃ u, exec e s = .next u ∧ gives s u

/-- Only one thread has changed. -/
def onlyThread (t : Tid) (s u : State) : Prop := u = { s with threads := u.threads } ∧ ∀ k : Tid, k.key ≠ t.key → u.thread k = s.thread k

/-- Only one core has changed. -/
def onlyCore (c : Nat) (s u : State) : Prop := u = { s with cores := u.cores } ∧ ∀ d, d ≠ c → u.core d = s.core d

/-- Only one quad has changed. -/
def onlyQuad (q : Nat) (s u : State) : Prop := u = { s with quads := u.quads } ∧ ∀ d, d ≠ q → u.quad d = s.quad d

/-- The job of a thread is not frozen (07 R148). -/
def thawed (t : Tid) (s : State) : Prop := (s.block t.core t.ctx).frozen = none

/-! ## Results, loads and counts (01 R7 to R9; 11 R221 to R225; 16 R310) -/

/-- The ports that a unit's result comes to: its value, and its flags (02 R21). -/
def landsOn : Nat → ResPort × Option ResPort
  | 0 => (.a0q, some .a0f)
  | 1 => (.a1q, some .a1f)
  | 2 => (.f0q, some .f0f)
  | 3 => (.f1q, some .f1f)
  | 4 => (.sq, none)
  | 5 => (.vq, some .vf)
  | 6 => (.xq, none)
  | _ => (.xm, none)

/-- One result lands: its port holds its values in its lanes, its flags port its flags, and its raised flags join FSTAT. -/
structure Lands (t : Tid) (f : Flight) (s u : State) : Prop where
  only : onlyThread t s u
  flights : (u.thread t).flights = (s.thread t).flights.filter fun g => decide (s.clk < g.due)
  fstat : (u.thread t).fstat = (s.thread t).fstat ||| f.raised.zeroExtend 32
  value : ∀ l, l < 32 → (u.thread t).rd (.res (landsOn f.unit).1) l
    = if f.mask.getLsbD l then f.vals.getD l 0#32 else (s.thread t).rd (.res (landsOn f.unit).1) l
  flags : ∀ p, (landsOn f.unit).2 = some p → ∀ l, l < 32 → (u.thread t).rd (.res p) l
    = if f.mask.getLsbD l then (f.flags.getD l 0#4).zeroExtend 32 else (s.thread t).rd (.res p) l
  others : ∀ (r : Reg) (l : Nat), r.id ≠ Reg.id (.res (landsOn f.unit).1) → (∀ p, (landsOn f.unit).2 = some p → r.id ≠ Reg.id (.res p)) →
    (u.thread t).rd r l = (s.thread t).rd r l

/-- The words that a load delivers from its bytes (11 R221). -/
def loaded (b : Nat → Byte) : Width → List Word
  | .b => [(b 0).signExtend 32]
  | .bn => [(b 0).zeroExtend 32]
  | .h => [(b 1 ++ b 0).signExtend 32]
  | .hn => [(b 1 ++ b 0).zeroExtend 32]
  | .w => [b 3 ++ b 2 ++ b 1 ++ b 0]
  | .d => [b 3 ++ b 2 ++ b 1 ++ b 0, b 7 ++ b 6 ++ b 5 ++ b 4]
  | .q | .m => [b 3 ++ b 2 ++ b 1 ++ b 0, b 7 ++ b 6 ++ b 5 ++ b 4, b 11 ++ b 10 ++ b 9 ++ b 8, b 15 ++ b 14 ++ b 13 ++ b 12]

/-- A lane of a load has its data, and the load's entry is otherwise as it was. -/
def arrives (t : Tid) (p : LoadPort) (i l : Nat) (x : LoadLane) (vals : List Word) (u : State) : Prop :=
  ∃ e, (u.thread t).findLoad p i l = some (e, { x with arrived := true, poison := false, cause := 0, vals := vals })

/-- One of a lane's two accesses has brought its bytes: the one above the sector boundary, or the one below it (11 R227). -/
def keepsPart (t : Tid) (p : LoadPort) (i l : Nat) (x : LoadLane) (high : Bool) (bs : List Byte) (u : State) : Prop :=
  ∃ e, (u.thread t).findLoad p i l = some (e, { x with part := some (high, bs) })

/-- One access of a lane has been made (11 R221, R227), each byte read as `byte` gives: a lane within one sector of 32 bytes has its data; of
one that crosses a boundary, one access for each side is made, in either order, and the data arrives with the second. -/
def accessMade (t : Tid) (p : LoadPort) (i l : Nat) (x : LoadLane) (wd : Width) (byte : Nat → Byte) (u : State) : Prop :=
  let n := bytesOfWidth wd
  let k := 32 - x.addr % 32
  let low := (List.range k).map fun j => byte (x.addr + j)
  let high := (List.range (n - k)).map fun j => byte (x.addr + k + j)
  if n ≤ k then arrives t p i l x (loaded (fun j => byte (x.addr + j)) wd) u
  else match x.part with
    | none => keepsPart t p i l x false low u ∨ keepsPart t p i l x true high u
    | some (true, bs) => arrives t p i l x (loaded (fun j => (low ++ bs).getD j 0#8) wd) u
    | some (false, bs) => arrives t p i l x (loaded (fun j => (bs ++ high).getD j 0#8) wd) u

/-- The weight-store bank of a byte, and the bank that refreshes in a cycle (11 R225). -/
def bankOf (x : Nat) : Nat := x / 4096 % 64
def refreshed (clk : Nat) : Nat := clk % 65536 / 1024

end Sys2Proof.Claim

/-- 01 R7 to R9, 11 R221 to R227, 10 R212, 05 R106, 16 R310: a result that is due lands on its ports; a variable result fills its port; a
load's lane reads its sectors one by one and receives the words of its bytes, from a scratchpad, the weight store, or the L1 and the quad
cache; a weight-store access is served once its banks do not refresh; counts run out; a split enters the window; a TILEST entry changes. -/
def Obligations.ResultsArrive : Prop :=
  ∀ t : Tid,
    (∀ f : Flight, f.unit < 8 → brings (.resultLanding t)
      (fun s => thawed t s ∧ ((s.thread t).flights.filter fun g => decide (g.due ≤ s.clk)) = [f]) (Lands t f))
    ∧ (∀ f : Fill, f.mask ≠ 0#32 → brings (.variablePortFill t)
        (fun s => thawed t s ∧ f.due ≤ s.clk ∧ (s.thread t).fills = [f]) fun s u =>
          onlyThread t s u ∧ (u.thread t).fills = []
            ∧ (∀ l, l < 32 → f.mask.getLsbD l = true → f.port ≠ .mxq → f.port ≠ .cp0q → f.port ≠ .cp1q →
                (u.thread t).rd (.res f.port) l = f.vals.getD l 0#32)
            ∧ (f.port = .mxq ∨ f.port = .cp0q ∨ f.port = .cp1q → (u.thread t).rd (.res f.port) 0 = f.vals.getD 0 0#32)
            ∧ (f.port ≠ .smq → (u.thread t).awaiting f.port = (s.thread t).awaiting f.port &&& ~~~f.mask))
    ∧ (∀ k : Nat, occurs (.delayExpiry t k)
        (fun s => thawed t s ∧ (s.block t.core t.ctx).leaseWait = none ∧ ((s.thread t).split k).live = true
          ∧ ((s.thread t).split k).ready ≠ 0 ∧ ((s.thread t).split k).ready ≤ s.clk ∧ ((s.thread t).split k).waited = false)
        (fun s => s.modThread t fun th => th.modSplit k fun sp => { sp with ready := 0 }))
    ∧ (∀ k : Nat, occurs (.waitExpiry t k)
        (fun s => thawed t s ∧ (s.block t.core t.ctx).leaseWait = none ∧ ((s.thread t).split k).live = true
          ∧ ((s.thread t).split k).ready ≠ 0 ∧ ((s.thread t).split k).ready ≤ s.clk ∧ ((s.thread t).split k).waited = true)
        (fun s => s.modThread t fun th => th.modSplit k fun sp => { sp with ready := 0, waited := false }))
    ∧ (∀ (i l : Nat) (e : LoadEntry) (x : LoadLane), brings (.loadDataArrival t .ls i l)
        (fun s => s.arrivalMay t .ls i l = true ∧ (s.thread t).findLoad .ls i l = some (e, x)
          ∧ x.addr % 2 ^ 20 + bytesOfWidth e.width ≤ 2 ^ 20
          ∧ ∀ k, k < bytesOfWidth e.width → Tab.get false (s.core (x.addr / 2 ^ 20)).scratchPoison ((x.addr % 2 ^ 20 + k) / 4) = false)
        fun s u => u = { s with threads := u.threads, draws := u.draws }
          ∧ accessMade t .ls i l x e.width (fun a => s.scratchByte (a / 2 ^ 20) (a % 2 ^ 20)) u)
    ∧ (∀ (i l : Nat) (e : LoadEntry) (x : LoadLane), brings (.loadDataArrival t .lw i l)
        (fun s => s.arrivalMay t .lw i l = true ∧ (s.thread t).findLoad .lw i l = some (e, x) ∧ x.addr + bytesOfWidth e.width ≤ 2 ^ 28
          ∧ ∀ k, k < bytesOfWidth e.width → Tab.get false (s.die (dieOf t.core)).wsPoison ((x.addr + k) / 32) = false)
        fun s u => u = { s with threads := u.threads, draws := u.draws }
          ∧ accessMade t .lw i l x e.width (Tab.get 0#8 (s.die (dieOf t.core)).ws) u)
    ∧ (∀ (i l : Nat) (e : LoadEntry) (x : LoadLane), brings (.loadDataArrival t .lg i l)
        (fun s =>
          let fn := (s.block t.core t.ctx).fn
          s.arrivalMay t .lg i l = true ∧ (s.thread t).findLoad .lg i l = some (e, x)
            ∧ ∀ y ∈ x.todo (bytesOfWidth e.width), s.readsAtHome fn y.1 = false ∧ s.hits t.core fn y.1 y.2 = true
              ∧ ((pageStarts y.1 y.2).any fun a => s.rightRefused fn a 0) = false
              ∧ ∀ k useL1, k < y.2 → (s.hitByte t.core fn (y.1 + k) useL1).2 = false)
        fun s u => u = { s with threads := u.threads, cores := u.cores, draws := u.draws } ∧ (∀ c, c ≠ t.core → u.core c = s.core c)
          ∧ u.core t.core = { s.core t.core with l1 := (u.core t.core).l1 }
          ∧ ∃ useL1, accessMade t .lg i l x e.width (fun a => (s.hitByte t.core (s.block t.core t.ctx).fn a useL1).1) u)
    ∧ (∀ (i l : Nat) (e : LoadEntry) (x : LoadLane), brings (.wsBankServe t i l)
        (fun s => (s.thread t).findLoad .lw i l = some (e, x) ∧ x.arrived = false ∧ x.served = false
          ∧ bankOf x.addr ≠ refreshed s.clk ∧ bankOf (x.addr + bytesOfWidth e.width - 1) ≠ refreshed s.clk)
        fun s u => onlyThread t s u ∧ ∃ e', (u.thread t).findLoad .lw i l = some (e', { x with served := true }))
    ∧ (∀ (c k : Nat), brings (.windowEntry c)
        (fun s => s.windowCount c < 8 ∧ s.nextEntering c = some (t, k) ∧ k < (s.thread t).splits.length)
        fun s u => onlyThread t s u ∧ ∃ a, a / 256 = s.clk ∧ (u.thread t).split k = { (s.thread t).split k with place := .window a 0 })
    ∧ ∀ (c ctx j due : Nat) (w : Word),
        let now (s : State) (x : Nat × Nat × Nat × Word) : Bool := decide (x.2.1 ≤ s.clk) && (s.block c x.1).frozen.isNone
        brings (.tilestUpdate c) (fun s => (s.core c).tileLate.filter (now s) = [(ctx, due, j, w)])
          fun s u => onlyCore c s u ∧ (u.core c).tilest = (s.core c).tilest.set j w
            ∧ (u.core c).tileLate = (s.core c).tileLate.filter fun x => !now s x

namespace Sys2Proof.Claim

/-! ## The sequencer, the Rill, waits that end (04 R77, R84, R85; 06 R115 to R129; 07 R132; 10 R194) -/

/-- The sum of what a task's consuming waits take from a semaphore (04 R84). -/
def consumed (k : Task) (j : Nat) : Nat := ((k.waits.filter fun w => w.consume && w.sem == j).map (·.threshold)).sum

/-- A wait is over, and its split joins the entry queue (06 R115). -/
def goesOnFrom (s : State) (t : Tid) (i : Nat) (u : State) : Prop :=
  (u.thread t).split i = { (s.thread t).split i with wait := { kind := 0, w0 := 0#32, w1 := 0#32, due := 0 }, place := .entry s.clk }

/-- Only one thread, and the L1 of its core, have changed. -/
def onlyThreadAndL1 (t : Tid) (s u : State) : Prop :=
  u = { s with threads := u.threads, cores := u.cores } ∧ (∀ k : Tid, k.key ≠ t.key → u.thread k = s.thread k)
    ∧ (∀ d, d ≠ t.core → u.core d = s.core d) ∧ u.core t.core = { s.core t.core with l1 := (u.core t.core).l1 }

/-- An acquire of a thread at a scope is made (06 R129, 13 R258): from block scope on its floor takes in the lines that stand as local bytes in
its quad cache, and from quad scope on its core's L1 drops its lines. -/
def acquireMade (s : State) (t : Tid) (scope : Nat) (u : State) : Prop :=
  (2 ≤ scope → ∀ e ∈ (s.quad (quadOf t.core)).lines, e.2.lmask ≠ 0#128 → e.1 ∈ (u.thread t).seen)
    ∧ (u.core t.core).l1 = if 4 ≤ scope then [] else (s.core t.core).l1

/-- Nothing holds an acquire of a thread: no earlier one is pending, its reads are fixed, its writes are out, and the die has applied its
invalidation log from package scope on (06 R129). -/
def acquiresAtOnce (s : State) (t : Tid) (scope : Nat) : Prop :=
  (s.thread t).acqs = [] ∧ s.acquireReady t (s.thread t).seq scope (s.die (dieOf t.core)).logEnd = true

/-- The acquire is pending. -/
def acquireHeld (s : State) (t : Tid) (scope : Nat) (stalls : Bool) (u : State) : Prop :=
  let a : Acquire := { seq := (s.thread t).seq, scope := scope, upto := (s.die (dieOf t.core)).logEnd, fence := false, stalls := stalls }
  (u.thread t).acqs = (s.thread t).acqs ++ [a]

/-- A wait has ended with its instruction's acquire (06 R115, R130): the split goes on, unless the acquire is one from core scope on that cannot
complete yet, for which it waits. -/
def endsAcquiring (s : State) (t : Tid) (i scope : Nat) (u : State) : Prop :=
  (acquiresAtOnce s t scope → goesOnFrom s t i u ∧ acquireMade s t scope u ∧ (u.thread t).acqs = [])
    ∧ (¬acquiresAtOnce s t scope → acquireHeld s t scope (decide (3 ≤ scope)) u ∧ (scope ≤ 2 → goesOnFrom s t i u)
      ∧ (3 ≤ scope → (u.thread t).split i = { (s.thread t).split i with
          wait := { kind := 5, w0 := BitVec.ofNat 32 scope, w1 := 0#32, due := (s.thread t).seq }, place := .away }))

/-- A barrier object in a scratchpad (06 R126): phase in [31] and arrivals to come in [15:0] of word 0, bytes to come in word 1,
arrivals per phase in word 2, the generation in word 3. -/
def objectIs (u : State) (core a : Nat) (phase : Bool) (pend : Nat) (bytes : Int) (count gen : Nat) : Prop :=
  u.scratchBytes core a 16
    = ([BitVec.ofNat 32 (phase.toNat * 2 ^ 31 + pend), BitVec.ofInt 32 bytes, BitVec.ofNat 32 count, BitVec.ofNat 32 gen] : List Word).flatMap
      fun w => (List.range 4).map fun i => w.extractLsb' (8 * i) 8

/-- Only a core's scratchpad, and what waits at its objects, have changed, and the thread that asked; the operation waits no longer. -/
def onlyObject (core : Nat) (o : ObjOp) (s u : State) : Prop :=
  u = { s with cores := u.cores, threads := u.threads } ∧ (∀ d, d ≠ core → u.core d = s.core d)
    ∧ (u.core core).objq = (s.core core).objq.erase o ∧ ∀ k : Tid, k.key ≠ o.tid.key → u.thread k = s.thread k

/-- The thread that asked is told on Y.q, with the next cycle or later (06 R113, R127). -/
def answered (s : State) (o : ObjOp) (v : Word) (u : State) : Prop :=
  (s.thread o.tid).live = true → (s.thread o.tid).aside = none →
    (u.thread o.tid).fills = (s.thread o.tid).fills ++ [{ port := .yq, mask := o.mask, vals := lanes32 fun _ => v, due := s.clk + 1, late := true }]

/-- The operation is refused: trap 0x02 with its value is pending at the thread that asked (06 R127). -/
def refusedAt (s : State) (o : ObjOp) (u : State) : Prop :=
  (s.thread o.tid).live = true → (u.thread o.tid).pending = (s.thread o.tid).pending ++ [{ cause := 0x02, tval := o.v, telem := 0 }]

end Sys2Proof.Claim

/-- 04 R77, R84, R85, 02 R19, 10 R194, 15 R286: a picked task is disarmed, its consuming waits are taken and it begins at its entry; a task
that uses up its cycles pends trap 0x16, once; the oldest held record enters the queue and its command's result fills the port that awaits it;
an EVT's record is posted once its release has taken effect (16 R314; where it stands among held records is log 32's reading, DEDUCED); the
Rill fills vacant lanes, lowest first, from the front of its range; the lease
is granted to the first request, and planes of another function's weights are cleared (15 R286). -/
def Obligations.SluiceWorkGoesOn : Prop :=
  ∀ (c x : Nat),
    (∀ (i : Nat) (k : Task), brings (.sequencerPick c x)
      (fun s => s.mayPick c x = true ∧ s.pick c x = some i ∧ (s.block c x).tasks[i]? = some k ∧ (s.core c).sems.length = 32
        ∧ ∀ w ∈ k.waits, w.sem < 32)
      fun s u => u = { s with cores := u.cores, blocks := u.blocks, threads := u.threads }
        ∧ (∀ d, d ≠ c → u.core d = s.core d) ∧ u.core c = { s.core c with sems := (u.core c).sems, l1 := (u.core c).l1 }
        ∧ (∀ j, j < 32 → ((u.core c).sems.getD j 0#16).toNat = ((s.core c).sems.getD j 0#16).toNat - consumed k j)
        ∧ (let b := s.block c x
           u.block c x = { b with armed := b.armed.set i false, running := some i, firstIssue := none, paused := 0, pauseFrom := none,
                                  overran := false })
        ∧ ((u.thread (sluiceOf c x)).split 0).pc = k.entry ∧ ((u.thread (sluiceOf c x)).split 0).mask = 1#32
        ∧ ((u.thread (sluiceOf c x)).split 0).ready = s.clk + 1 ∧ (u.thread (sluiceOf c x)).liveSplits = [0])
    ∧ (∀ (i f : Nat) (k : Task), brings (.taskOverrun c x)
        (fun s => (s.block c x).resident = true ∧ (s.block c x).frozen = none ∧ (s.block c x).pauseFrom = none
          ∧ (s.block c x).running = some i ∧ (s.block c x).firstIssue = some f ∧ (s.block c x).tasks[i]? = some k
          ∧ (s.block c x).overran = false ∧ f + (s.block c x).paused + k.cycles ≤ s.clk)
        fun s u => u = { s with threads := u.threads, blocks := u.blocks }
          ∧ (∀ t : Tid, t.key ≠ (sluiceOf c x).key → u.thread t = s.thread t)
          ∧ u.block c x = { s.block c x with overran := true }
          ∧ (u.thread (sluiceOf c x)).pending
            = (s.thread (sluiceOf c x)).pending ++ [{ cause := 0x16, tval := BitVec.ofNat 32 i, telem := 0 }])
    ∧ (∀ (w : Word) (r : List Word), brings (.heldRecordEntry c)
        (fun s => (s.core c).evq.length < 64 ∧ (s.core c).held = w :: r)
        fun s u => u = { s with cores := u.cores, threads := u.threads } ∧ (∀ d, d ≠ c → u.core d = s.core d)
          ∧ u.core c = { s.core c with evq := (s.core c).evq ++ [w], held := r }
          ∧ ∀ (slot : Nat) (p : ResPort),
              let t : Tid := { core := c, ctx := if w.getLsbD 29 then 1 else 0, slot := slot }
              w.toNat / 2 ^ 30 ≠ 3 → slot < 33 → (s.thread t).live = true → p ∈ [ResPort.mxq, .cp0q, .cp1q] → w.toNat % 2 ^ 24 ≠ 0 →
              Tab.get 0 (s.thread t).owners (p.code * 32) = w.toNat % 2 ^ 24 →
                (u.thread t).rd (.res p) 0 = BitVec.ofNat 32 (2 * 2 ^ 24 + w.toNat % 2 ^ 24) ∧ (u.thread t).awaiting p = 0#32)
    ∧ (∀ e : EvtPost, brings (.heldRecordEntry c)
        (fun s => ((s.core c).held = [] ∨ 64 ≤ (s.core c).evq.length) ∧ e.word.toNat / 2 ^ 30 = 3
          ∧ (s.core c).heldE.find? (fun e => s.releasedBefore e.tid e.seq) = some e)
        fun s u => onlyCore c s u ∧ u.core c = { s.core c with
          heldE := (s.core c).heldE.erase e, done := (s.clk, 4),
          evq := if (s.core c).evq.length < 64 then (s.core c).evq ++ [e.word] else (s.core c).evq,
          held := if (s.core c).evq.length < 64 then [] else (s.core c).held ++ [e.word] })
    ∧ (∀ (t : Tid) (i a b : Nat) (r : Rill), t.core = c → t.ctx = x → brings (.rillGrant t)
        (fun s => s.rillMay t = true ∧ i < (s.thread t).splits.length
          ∧ (List.range 4).find? (fun j => ((s.thread t).split j).live && ((s.thread t).split j).rill) = some i
          ∧ (s.block c x).inherit = [] ∧ a < b
          ∧ (s.launch (s.block c x).lid).rills.find? (fun r => r.die == dieOf c) = some { r with ranges := [(a, b)] })
        fun s u =>
          let vacant := lanesIn (~~~(s.thread t).occupied)
          let n := min vacant.length (b - a)
          let got := vacant.take n
          let m := maskWhere got.contains
          (∀ k : Tid, k.key ≠ t.key → u.thread k = s.thread k)
            ∧ (u.thread t).occupied = (s.thread t).occupied ||| m ∧ ((u.thread t).split i).mask = ((s.thread t).split i).mask ||| m
            ∧ ((u.thread t).split i).rill = false
            ∧ (∀ j l, got[j]? = some l → (u.thread t).rd (.res .rlq) l = BitVec.ofNat 32 (a + j))
            ∧ (∀ l, l < 32 → ((u.thread t).split i).mask.getLsbD l = true → (u.thread t).rd (.res .cq) l = ((u.thread t).split i).mask)
            ∧ (∀ l ∈ got, ∀ j, j < 4 → (u.thread t).rd (.cc j) l = 0#32)
            ∧ ((u.launch (s.block c x).lid).rills.find? fun r => r.die == dieOf c).map (·.ranges)
                = some (if a + n < b then [(a + n, b)] else []))
    ∧ ∀ (q : Nat) (r : LeaseReq) (rest : List LeaseReq), brings (.leaseGrant q)
        (fun s => (s.quad q).leaseHolder = none ∧ (s.quad q).leaseFree ≤ s.clk ∧ (s.quad q).leaseReqs = r :: rest
          ∧ (s.block r.core r.ctx).leaseWait = none)
        fun s u => u = { s with quads := u.quads, threads := u.threads } ∧ (∀ d, d ≠ q → u.quad d = s.quad d)
          ∧ (∀ t : Tid, t.key ≠ (sluiceOf r.core r.ctx).key → u.thread t = s.thread t)
          ∧ (u.quad q).leaseHolder = some (r.core, r.ctx) ∧ (u.quad q).leaseLeft = r.count ∧ (u.quad q).leaseReqs = rest
          ∧ (u.quad q).lastFn = some (s.block r.core r.ctx).fn
          ∧ ((s.quad q).lastFn ≠ some (s.block r.core r.ctx).fn → (u.quad q).latched = false
            ∧ ∀ p ∈ [(u.quad q).active, (u.quad q).shadow, (u.quad q).planeA, (u.quad q).planeB, (u.quad q).latchA, (u.quad q).latchB],
                p = Plane.empty)
          ∧ ∀ sp ∈ (u.thread (sluiceOf r.core r.ctx)).splits, sp.lease = false

/-- 06 R115 to R130, 07 R132: a wait whose barrier, SYNC or object is over ends with its instruction's acquire, and the split joins the entry
queue or waits for that acquire; a pending acquire or fence completes and its split goes on; the watchdog pends trap 0x11, and at handler
level ends the work-group (16 R329); the operations on a
barrier object, one at a time: the object's new words, the answer on Y.q, and the refusal of one that the object cannot take. -/
def Obligations.WaitsEnd : Prop :=
  (∀ (t : Tid) (i : Nat), brings (.barrierRestart t i)
    (fun s => i < (s.thread t).splits.length ∧ s.waitOver t i = true
      ∧ (((s.thread t).split i).wait.kind = 1 ∨ ((s.thread t).split i).wait.kind = 2))
    fun s u => onlyThreadAndL1 t s u ∧ endsAcquiring s t i 2 u)
  ∧ (∀ (t : Tid) (i : Nat), brings (.barrierRestart t i)
    (fun s => i < (s.thread t).splits.length ∧ s.waitOver t i = true ∧ ((s.thread t).split i).wait.kind = 3)
    fun s u => onlyThreadAndL1 t s u ∧ endsAcquiring s t i (((s.thread t).split i).wait.w0.toNat % 16) u)
  ∧ (∀ (t : Tid) (i : Nat), brings (.barrierRestart t i)
    (fun s => i < (s.thread t).splits.length ∧ s.waitOver t i = true ∧ ((s.thread t).split i).wait.kind = 4)
    fun s u => onlyThreadAndL1 t s u ∧ endsAcquiring s t i (s.scopeOfObject t (((s.thread t).split i).wait.w1 &&& ~~~15#32)) u)
  ∧ (∀ (t : Tid) (i : Nat) (a : Acquire), brings (.fenceDone t i)
    (fun s => i < (s.thread t).splits.length ∧ s.fenceOver t i = true
      ∧ (s.thread t).acqs.find? (fun a => a.stalls && a.seq == ((s.thread t).split i).wait.due) = some a)
    fun s u => onlyThreadAndL1 t s u ∧ goesOnFrom s t i u ∧ acquireMade s t a.scope u
      ∧ (u.thread t).acqs = (s.thread t).acqs.erase a)
  ∧ (∀ (t : Tid) (i : Nat), brings (.watchdogExpiry t i) (fun s => s.watchdogOver t i = true ∧ (s.thread t).level = false)
    fun s u => onlyThread t s u ∧ (u.thread t).pending = (s.thread t).pending ++ [{ cause := 0x11, tval := 0#32, telem := 0 }])
  ∧ (∀ (t : Tid) (i : Nat), occurs (.watchdogExpiry t i) (fun s => s.watchdogOver t i = true ∧ (s.thread t).level = true)
    fun s => s.endWorkGroup t.core t.ctx)
  ∧ ∀ (c : Nat) (o : ObjOp),
    let next (s : State) : Prop := s.nextObject c = some o
    let word (s : State) (i : Nat) : Nat := ((s.objectWords c o.addr).getD i 0#32).toNat
    let phase (s : State) : Bool := decide (2 ^ 31 ≤ word s 0)
    let pend (s : State) : Nat := word s 0 % 65536
    let bytes (s : State) : Int := ((s.objectWords c o.addr).getD 1 0#32).toInt
    let count (s : State) : Nat := word s 2 % 65536
    let turned (s u : State) (p : Nat) (b : Int) : Prop :=
      if p = 0 ∧ b = 0 then objectIs u c o.addr (!phase s) (count s) 0 (count s) (word s 3 + 1)
      else objectIs u c o.addr (phase s) p b (count s) (word s 3)
    brings (.barrierObjectRmw c) (fun s => next s ∧ o.kind = 0)
      (fun s u => onlyObject c o s u ∧ objectIs u c o.addr false o.v.toNat 0 o.v.toNat 0)
    ∧ brings (.barrierObjectRmw c) (fun s => next s ∧ o.kind = 1 ∧ bytes s + o.v.toNat ≤ 2 ^ 31 - 1)
      (fun s u => onlyObject c o s u ∧ turned s u (pend s) (bytes s + o.v.toNat))
    ∧ brings (.barrierObjectRmw c) (fun s => next s ∧ o.kind = 1 ∧ 2 ^ 31 - 1 < bytes s + o.v.toNat)
      (fun s u => onlyObject c o s u ∧ (∀ a, u.scratchByte c a = s.scratchByte c a) ∧ refusedAt s o u)
    ∧ brings (.barrierObjectRmw c) (fun s => next s ∧ o.kind = 2 ∧ o.v.toNat ≤ pend s)
      (fun s u => onlyObject c o s u ∧ turned s u (pend s - o.v.toNat) (bytes s) ∧ answered s o (BitVec.ofNat 32 (phase s).toNat) u)
    ∧ brings (.barrierObjectRmw c) (fun s => next s ∧ o.kind = 2 ∧ pend s < o.v.toNat)
      (fun s u => onlyObject c o s u ∧ (∀ a, u.scratchByte c a = s.scratchByte c a) ∧ refusedAt s o u
        ∧ answered s o (BitVec.ofNat 32 (2 ^ 31 + (phase s).toNat)) u)
    ∧ brings (.barrierObjectRmw c) (fun s => next s ∧ o.kind = 3)
      (fun s u => onlyObject c o s u ∧ turned s u (pend s) (bytes s - o.v.toNat))
    ∧ brings (.barrierObjectRmw c) (fun s => next s ∧ o.kind = 4 ∧ phase s = o.v.getLsbD 0)
      (fun s u => onlyObject c o s u ∧ (∀ a, u.scratchByte c a = s.scratchByte c a) ∧ answered s o 0#32 u)
    ∧ brings (.barrierObjectRmw c) (fun s => next s ∧ o.kind = 4 ∧ phase s ≠ o.v.getLsbD 0)
      (fun s u => u = { s with cores := u.cores, threads := u.threads } ∧ (∀ k : Tid, k.key ≠ o.tid.key → u.thread k = s.thread k)
        ∧ (∀ a, u.scratchByte c a = s.scratchByte c a) ∧ (u.core c).objq = (s.core c).objq.erase o ∧ answered s o 1#32 u
        ∧ (acquiresAtOnce s o.tid (s.scopeOfOp o c) → acquireMade s o.tid (s.scopeOfOp o c) u)
        ∧ (¬acquiresAtOnce s o.tid (s.scopeOfOp o c) → acquireHeld s o.tid (s.scopeOfOp o c) false u))


namespace Sys2Proof.Claim

/-! ## Stores and atomics after their trigger (11 R219, R226, R230 to R234) -/

/-- The new word of an atomic (11 R230): add, min, max (signed, then unsigned), and, or, xor, exchange, compare and swap, wrapping
increment and decrement, and the fp32 sum rounded to nearest. -/
def afterAtomic (op : Nat) (m a c : Word) : Word :=
  match op with
  | 0 => m + a
  | 1 => if m.toInt < a.toInt then m else a
  | 2 => if m.toInt < a.toInt then a else m
  | 3 => if m.toNat < a.toNat then m else a
  | 4 => if m.toNat < a.toNat then a else m
  | 5 => m &&& a
  | 6 => m ||| a
  | 7 => m ^^^ a
  | 8 => a
  | 9 => if m = c then a else m
  | 10 => if m.toNat < a.toNat then m + 1#32 else 0#32
  | 11 => if m = 0#32 then a else if a.toNat < m.toNat then a else m - 1#32
  | _ => BitVec.ofNat 32 (fp32.add .rn m.toNat a.toNat false).bits

/-- The lanes of an atomic that name a word, and the word after they have been performed in their order (11 R231). -/
def lanesAt (e : AtomEntry) (addr : Nat) : List AtomLane := e.lanes.filter fun x => x.addr == addr
def afterLanes (op : Nat) (xs : List AtomLane) (m : Word) : Word := xs.foldl (fun m x => afterAtomic op m x.a x.c) m

/-- An atomic at a word has not been performed in any of its lanes, and no two entries are one lane. -/
def unperformed (s : State) (core seq addr : Nat) (e : AtomEntry) : Prop :=
  s.atomOf core seq = some e ∧ ((s.core core).atoms.filter fun x => x.seq == seq) = [e] ∧ lanesAt e addr ≠ [] ∧ (∀ x ∈ lanesAt e addr, x.stage = 0 ∧ x.cause = 0 ∧ x.lane < 32)
    ∧ (e.lanes.map (·.lane)).Nodup

/-- The four bytes of a word as cells. -/
def wordCells (addr : Nat) (w : Word) : List Host.Cell := (List.range 4).map fun i => (addr + i, w.extractLsb' (8 * i) 8)

/-- The store with a number and its lowest lane, some bytes of which may be written now; every byte of the lane has an address of its own. -/
def drains (s : State) (core seq : Nat) (e : StoreEntry) (l : StoreLane) (rest : List StoreLane) : Prop :=
  s.drainMay core seq = true ∧ (s.core core).stores.find? (fun x => x.seq == seq) = some e ∧ e.lanes = l :: rest
    ∧ (l.cells.map (·.1)).Nodup ∧ l.cells ≠ [] ∧ ((s.core core).stores.filter fun x => x.seq == seq) = [e]

/-- The bytes of a lane that lie in one aligned sector of 32 bytes, and the others (11 R227). -/
def within (l : StoreLane) (b : Nat) : List Host.Cell := l.cells.filter fun c => c.1 / 32 == b
def without (l : StoreLane) (b : Nat) : List Host.Cell := l.cells.filter fun c => c.1 / 32 != b

/-- A sector of the lane is gone from the store buffer: the lane goes with its last sector, and the store with its last lane. -/
def sectorGone (u : State) (core seq : Nat) (l : StoreLane) (rest : List StoreLane) (b : Nat) : Prop :=
  let lanes := if without l b = [] then rest else { l with cells := without l b } :: rest
  ((u.core core).stores.filter fun x => x.seq == seq).map (·.lanes) = if lanes = [] then [] else [lanes]

/-- The word at an address as a quad's agents see it. -/
def quadWord (s : State) (quad fn addr : Nat) : Word := wordOf (s.quadBytes quad fn addr 4)

/-- The lanes of an atomic at a word hold, in their order, the values that they found; the answer is still to come. -/
def found (e : AtomEntry) (addr : Nat) (m : Word) (y : AtomEntry) : Prop :=
  (lanesAt y addr).length = (lanesAt e addr).length ∧ ∀ (j : Nat) (x : AtomLane), (lanesAt e addr)[j]? = some x →
    (lanesAt y addr)[j]? = some { x with stage := 1, old := afterLanes e.op ((lanesAt e addr).take j) m }

/-- An atomic performed at a word has its answer: the lanes that still await it have the value that each found, and the atomic has no lane
there any more (11 R231, R232). -/
def answersLanes (s : State) (core seq addr : Nat) (e : AtomEntry) (p : ResPort) (old : Nat → AtomLane → Word) (u : State) : Prop :=
  (∀ (j : Nat) (x : AtomLane), (lanesAt e addr)[j]? = some x →
    Tab.get 0 (s.thread e.tid).owners (p.code * 32 + x.lane) = e.tseq + 1 →
      (u.thread e.tid).rd (.res p) x.lane = old j x ∧ ((u.thread e.tid).awaiting p).getLsbD x.lane = false)
    ∧ ∀ y, u.atomOf core seq = some y → lanesAt y addr = []

end Sys2Proof.Claim

/-- 11 R219, R226, R227, R230 to R234: of the lowest lane of a store the bytes of one sector are written, to its scratchpad, as local bytes of
the quad cache, or at an uncached home, and nothing else is; an atomic at the scratch atomic unit, or at the quad cache, is performed in the
order of its lanes and answers the values that they found, at the quad cache at once where its class is no wider than the quad, else once
its write is published (13 R261); one at an uncached home is performed there, and an ATG's lanes hold the values
that they found, which its answer then brings; the first error of a response from another die or package has it asked for once more, the
second gives cause 0x12. That what goes to another package or to the host leaves the machine as an output, and that form of it, is log 11's
DESIGN CHOICE; the host's word is the model's own hostMem (log 3). -/
def Obligations.StoresAndAtomicsAreDone : Prop :=
  ∀ core seq : Nat,
    (∀ (e : StoreEntry) (l : StoreLane) (rest : List StoreLane), brings (.storeDrain core seq)
      (fun s => drains s core seq e l rest ∧ e.global = false)
      fun s u => u = { s with cores := u.cores, threads := u.threads, draws := u.draws } ∧ ∃ b, within l b ≠ [] ∧ sectorGone u core seq l rest b
        ∧ (∀ c ∈ within l b, u.scratchByte (c.1 / 2 ^ 20) (c.1 % 2 ^ 20) = c.2)
        ∧ ∀ d a, (∀ c ∈ within l b, d ≠ c.1 / 2 ^ 20 ∨ a ≠ c.1 % 2 ^ 20) → u.scratchByte d a = s.scratchByte d a)
    ∧ (∀ (e : StoreEntry) (l : StoreLane) (rest : List StoreLane), brings (.storeDrain core seq)
      (fun s => drains s core seq e l rest ∧ e.global = true ∧ s.uncachedPages e.fn l.span.1 l.span.2 = []
        ∧ ∀ c ∈ l.cells, c.1 < 2 ^ 57 ∧ s.isUncached e.fn (c.1 / 32 * 32) = false ∧ s.sealed e.fn (c.1 / 32 * 32) = false
          ∧ (s.qline (quadOf core) (s.keyOf e.fn c.1)).state ≠ 2)
      fun s u => u = { s with cores := u.cores, threads := u.threads, quads := u.quads, draws := u.draws }
        ∧ ∃ b, within l b ≠ [] ∧ sectorGone u core seq l rest b ∧ (∀ c ∈ within l b, u.quadByte (quadOf core) e.fn c.1 = c.2)
          ∧ ∀ a, a < 2 ^ 57 → (∀ c ∈ within l b, a ≠ c.1) → u.quadByte (quadOf core) e.fn a = s.quadByte (quadOf core) e.fn a)
    ∧ (∀ (e : StoreEntry) (l : StoreLane) (rest : List StoreLane) (v : State), brings (.storeDrain core seq)
      (fun s => drains s core seq e l rest ∧ e.global = true ∧ (∀ c ∈ l.cells, v.isUncached e.fn (c.1 / 32 * 32) = true)
        ∧ ∀ w : State, (w = s ∨ w = s.drawn) →
          w.askAll e.fn 1 (w.requester e.tid) (w.uncachedPages e.fn l.span.1 l.span.2) = ({ v with draws := w.draws }, none))
      fun _ u => ∃ b, within l b ≠ [] ∧ sectorGone u core seq l rest b
        ∧ u.mem = (v.homeStore e.fn (within l b)).mem ∧ u.hostMem = (v.homeStore e.fn (within l b)).hostMem
        ∧ u.outputs = (v.homeStore e.fn (within l b)).outputs)
    ∧ (∀ (e : AtomEntry) (addr : Nat), brings (.atomicResponse core seq addr)
      (fun s => unperformed s core seq addr e ∧ e.kind = 0 ∧ s.atomReady e addr = true
        ∧ Tab.get false (s.core (addr / 2 ^ 20)).scratchPoison (addr % 2 ^ 20 / 4) = false)
      fun s u =>
        let m := wordOf (s.scratchBytes (addr / 2 ^ 20) (addr % 2 ^ 20) 4)
        wordOf (u.scratchBytes (addr / 2 ^ 20) (addr % 2 ^ 20) 4) = afterLanes e.op (lanesAt e addr) m
          ∧ (∀ d a, d ≠ addr / 2 ^ 20 ∨ a < addr % 2 ^ 20 ∨ addr % 2 ^ 20 + 4 ≤ a → u.scratchByte d a = s.scratchByte d a)
          ∧ answersLanes s core seq addr e .asq (fun j _ => afterLanes e.op ((lanesAt e addr).take j) m) u)
    ∧ (∀ (e : AtomEntry) (addr : Nat), brings (.atomicResponse core seq addr)
      (fun s => unperformed s core seq addr e ∧ e.kind = 1 ∧ s.nearAtomMay core e addr = true ∧ addr % 4 = 0 ∧ addr < 2 ^ 57
        ∧ ∀ k, k < 4 → s.quadPoison (quadOf core) e.fn (addr + k) = false
          ∧ (s.qline (quadOf core) (s.keyOf e.fn (addr + k))).bytes.length = 128)
      fun s u =>
        let m := quadWord s (quadOf core) e.fn addr
        quadWord u (quadOf core) e.fn addr = afterLanes e.op (lanesAt e addr) m
          ∧ (e.scope < 2 → answersLanes s core seq addr e .agq (fun j _ => afterLanes e.op ((lanesAt e addr).take j) m) u)
          ∧ (2 ≤ e.scope → ∃ y, u.atomOf core seq = some y ∧ found e addr m y))
    ∧ (∀ (e : AtomEntry) (addr kind : Nat) (leaf : Leaf) (v : State), (kind = 1 ∨ kind = 2) →
        brings (if kind = 1 then .atom core seq addr else .homeRed core seq addr)
      (fun s => unperformed s core seq addr e ∧ e.kind = kind ∧ s.homeAtomMay core seq addr kind = true
        ∧ v.isUncached e.fn addr = true ∧ v.hostTakes e addr = true ∧ v.cores = s.cores ∧ s.ask e.fn addr 2 (s.requester e.tid) = (v, .go leaf))
      fun _ u =>
        let m := wordOf ((List.range 4).map fun i => v.homeByte e.fn (addr + i))
        let w := (wordCells addr (afterLanes e.op (lanesAt e addr) m)).foldl (fun (z : State) c => z.homePut e.fn c.1 c.2) v
        u.mem = w.mem ∧ u.hostMem = w.hostMem
          ∧ u.outputs = v.outputs ++ (if (v.rangeOf e.fn addr).policy = 3 then [.podAtomic e.fn addr e.op e.seq]
              else match v.hostPlace e.fn addr with
                | some a => [.hostAccess e.fn 2 a 4]
                | none => [])
          ∧ (kind = 1 → ∃ y, u.atomOf core seq = some y ∧ found e addr m y)
          ∧ (kind = 2 → ∀ y, u.atomOf core seq = some y → lanesAt y addr = []))
    ∧ (∀ (e : AtomEntry) (addr : Nat), brings (.atomicResponse core seq addr)
      (fun s => s.atomOf core seq = some e ∧ ((s.core core).atoms.filter fun x => x.seq == seq) = [e] ∧ e.kind = 1
        ∧ s.responseMay core seq addr = true ∧ lanesAt e addr ≠ []
        ∧ (e.lanes.map (·.lane)).Nodup ∧ ∀ x ∈ lanesAt e addr, x.stage = 1 ∧ x.cause = 0 ∧ x.lane < 32)
      fun s u => u = { s with cores := u.cores, threads := u.threads, draws := s.draws + 1 }
        ∧ answersLanes s core seq addr e .agq (fun _ x => x.old) u)
    ∧ ∀ (e : AtomEntry) (addr : Nat), brings (.atomicRetry core seq addr)
      (fun s => s.atomOf core seq = some e ∧ e.kind = 1 ∧ s.quadAtomic e addr = false
        ∧ (s.homeOf e.fn addr ≠ dieOf core ∨ (s.rangeOf e.fn addr).policy = 3) ∧ lanesAt e addr ≠ [] ∧ ∀ x ∈ lanesAt e addr, x.stage = 1)
      fun s u => onlyCore core s u ∧ ∃ y, u.atomOf core seq = some y
        ∧ y.lanes = e.lanes.map fun x => if x.addr = addr then
            (if x.tries = 0 then
              { x with tries := 1, old := (s.loggedOld (s.homeOf e.fn addr) core seq addr x.lane).getD x.old }
             else { x with cause := 0x12 }) else x

namespace Sys2Proof.Claim

/-! ## Code lines, pages, fault queues and the invalidation log (12 R237, R248; 15 R288 to R303) -/

/-- Only one function has changed. -/
def onlyFn (n : Nat) (s u : State) : Prop := u = { s with fns := u.fns } ∧ ∀ k, k ≠ n → u.fn k = s.fn k

/-- Only one die's home agent has changed. -/
def onlyDie (d : Nat) (s u : State) : Prop := u = { s with dies := u.dies } ∧ ∀ k, k ≠ d → u.die k = s.die k

/-- The host reaches the part: die 0, which has the link, is not lost (16 R332), and bring-up has ended Configuration Request Retry Status
(24 R361). -/
abbrev linked (s : State) : Prop := (s.die 0).lost = false ∧ s.pack.booted ≠ 0 ∧ s.pack.retry = false

/-- The driver's window of a function takes writes: the host reaches the part, and the function is not fenced (24 R357). -/
def openFn (n : Nat) (s : State) : Prop := linked s ∧ (s.fn n).fenced = false

/-- The eight words of a fault-queue entry (15 R301). -/
def entryWords (x : FaultRec) (die : Nat) (phase : Bool) : List Nat :=
  [phase.toNat * 2 ^ 31 + x.kind * 2 ^ 16 + (if x.kind = 1 then x.id else 0), x.access * 2 ^ 28 + x.level * 2 ^ 24 + die * 2 ^ 22,
   x.addr, x.addr / 2 ^ 32,
   x.who.pkg * 2 ^ 26 + x.who.die * 2 ^ 24 + x.who.core * 2 ^ 18 + x.who.slot * 2 ^ 13 + x.who.origin * 2 ^ 10, x.who.tag % 2 ^ 24, 0, 0]

/-- A request of the driver names what the log can hold (15 R296): reserved bits zero, purge or translation, a size of at most 45, and
a domain in the physical function's requests alone. -/
def logAllows (fn : Nat) (w0 w1 : Word) : Prop :=
  w0.extractLsb' 26 6 = 0#6 ∧ w0.extractLsb' 14 10 = 0#10 ∧ w1.extractLsb' 6 26 = 0#26 ∧ (w1.extractLsb' 0 6).toNat ≤ 45
    ∧ (w0.getLsbD 25 = true ∨ w0.getLsbD 24 = true) ∧ (fn = 0 ∨ w0.extractLsb' 0 8 = 0#8)

end Sys2Proof.Claim

/-- 12 R248, 15 R288 to R303: a code line arrives and every split that waited for it goes on; a page walk and a write grant are asked for and
answered; a fault's entry stands in the function's ring; the driver's head, control and resolution writes act; a request enters the
invalidation log of every die, and a die applies the next entry. -/
def Obligations.FaultsAndLogGoOn : Prop :=
  (∀ (c fn line : Nat) (t : Tid) (more : List Tid) (leaf : Leaf) (v : State), brings (.codeFetch c fn line)
    (fun s => s.fetchMay c fn line = true ∧ s.lineWanters c fn line = t :: more
      ∧ s.ask fn (line * 128) 3 (s.requester t) = (v, .go leaf))
    fun _ u => u = { v with cores := u.cores, threads := u.threads, draws := u.draws, outputs := (v.farRead fn (line * 128) 128).outputs }
      ∧ Tab.get [] (u.core c).icode (v.keyOf fn (line * 128)) = ((List.range 32).map fun i =>
          wordOf ((List.range 4).map fun j => v.quadByte (quadOf c) fn (line * 128 + 4 * i + j)))
      ∧ ∀ k ∈ t :: more, ∀ sp ∈ (u.thread k).splits, u.wantsLine k sp fn line = false)
  ∧ (∀ (d fn page : Nat) (w : Want) (more : List Want) (leaf : Leaf) (v : State),
      let asked (s : State) : Prop := s.walkWants d fn page = w :: more ∧ s.ask fn w.addr w.access w.who = (v, .go leaf)
      brings (.pageWalk d fn page) (fun s => asked s ∧ w.access = 4)
        (fun _ u => u = { v with threads := u.threads } ∧ ∀ k ∈ v.liveThreads, (v.block k.core k.ctx).fn = fn →
          ∀ sp ∈ (u.thread k).splits, sp.live = true → ∀ p, sp.page = some p → p.1 / 4096 ≠ page)
      ∧ occurs (.pageWalk d fn page) (fun s => asked s ∧ w.access ≠ 4) fun _ => v)
  ∧ (∀ (q fn page : Nat) (n : Need) (e : StoreEntry) (leaf : Leaf) (v : State), brings (.writeGrantRequest q fn page)
      (fun s => s.grantRequest q fn page = some (n, e) ∧ s.ask fn n.addr 1 n.who = (v, .go leaf))
      fun _ u => onlyQuad q v u ∧ u.quad q = { v.quad q with grantWant := (v.quad q).grantWant ++ [(fn, page)] })
  ∧ (∀ (q fn page : Nat), brings (.writeGrantAnswer q fn page) (fun s => (fn, page) ∈ (s.quad q).grantWant)
      fun s u => onlyQuad q s u ∧ u.quad q = { s.quad q with
        grantWant := (s.quad q).grantWant.erase (fn, page), grants := (s.quad q).grants ++ [(s.nameOf fn (page * 4096), fn)] })
  ∧ (∀ (d fn : Nat) (x : FaultRec),
      let size (s : State) : Nat := 2 ^ ((s.fn fn).fqctl.extractLsb' 0 5).toNat
      let at_ (s : State) : Nat := (s.fn fn).fqbase + (s.fn fn).fqtail.toNat % size s * 32
      brings (.faultEntryWrite d fn)
        (fun s => ((s.die d).buffer.take 256).find? (fun y => y.fn == fn) = some x ∧ (s.fn fn).fqset = 7
          ∧ ((s.fn fn).fqtail - (s.fn fn).fqhead).toNat < size s ∧ (s.die 0).lost = false ∧ (s.fn fn).fenced = false)
        fun s u => u = { s with hostMem := u.hostMem, dies := u.dies, fns := u.fns, outputs := u.outputs }
          ∧ (∀ i, i < 8 → ∀ j, j < 4 → memGet u.hostMem (at_ s + 4 * i + j)
              = (BitVec.ofNat 32 ((entryWords x d (!(s.fn fn).fqtail.getLsbD ((s.fn fn).fqctl.extractLsb' 0 5).toNat)).getD i 0)).extractLsb' (8 * j) 8)
          ∧ (∀ a, (a < at_ s ∨ at_ s + 32 ≤ a) → memGet u.hostMem a = memGet s.hostMem a)
          ∧ u.die d = { s.die d with buffer := (s.die d).buffer.erase x } ∧ (∀ k, k ≠ d → u.die k = s.die k)
          ∧ u.fn fn = { s.fn fn with fqtail := (s.fn fn).fqtail + 1#32 } ∧ (∀ k, k ≠ fn → u.fn k = s.fn k)
          ∧ u.outputs = s.outputs ++ [.msix fn ((s.fn fn).fqctl.extractLsb' 16 11).toNat])
  ∧ (∀ (fn : Nat) (w : Word), brings (.fqheadWrite fn w)
      (fun s => openFn fn s ∧ (w - (s.fn fn).fqhead).toNat ≤ ((s.fn fn).fqtail - (s.fn fn).fqhead).toNat)
      fun s u => onlyFn fn s u ∧ u.fn fn = { s.fn fn with fqhead := w })
  ∧ (∀ (fn : Nat) (w : Word), brings (.fqctlWrite fn w)
      (fun s => openFn fn s ∧ 6 ≤ (w.extractLsb' 0 5).toNat ∧ (w.extractLsb' 0 5).toNat ≤ 16)
      fun s u => onlyFn fn s u ∧ u.fn fn = { s.fn fn with
        fqctl := w &&& 0x07FF001F#32, fqhead := 0#32, fqtail := 0#32,
        fqset := if (s.fn fn).fqset % 8 < 4 then (s.fn fn).fqset + 4 else (s.fn fn).fqset })
  ∧ (∀ (fn id d : Nat) (x : PageFault),
      let held (s : State) : Prop := openFn fn s ∧ s.faultHolder fn id = some (d, x)
      brings (.fqresResolved fn id) held
        (fun s u => onlyDie d s u ∧ u.die d = { s.die d with faults := (s.die d).faults.erase x })
      ∧ brings (.fqresNoPage fn id) held fun s u => onlyDie d s u ∧ u.die d = { s.die d with
          faults := (s.die d).faults.erase x, verdicts := (s.die d).verdicts ++ [{ fn := fn, page := x.page, cause := 0x07 }] })
  ∧ (∀ (fn : Nat) (w w0 w1 w2 : Word),
      let size := (w1.extractLsb' 0 6).toNat
      brings (.invalAppend fn w)
        (fun s => openFn fn s ∧ (∀ i, i < 3 → (s.fn fn).inval.getD i 0#32 = [w0, w1, w2].getD i 0#32) ∧ logAllows fn w0 w1)
        fun s u => u = { s with fns := u.fns, dies := u.dies, pack := { s.pack with invSeq := s.pack.invSeq + 1 }, outputs := u.outputs }
          ∧ (∀ d, u.die d = if d < 4 then { s.die d with log := (s.die d).log ++ [{
                seq := s.pack.invSeq + 1, purge := w0.getLsbD 25, transl := w0.getLsbD 24,
                fn := if fn = 0 then (w0.extractLsb' 8 6).toNat else fn, domain := (w0.extractLsb' 0 8).toNat, size := size,
                base := (w2.toNat + w.toNat * 2 ^ 32) / 2 ^ (size + 12) * 2 ^ (size + 12) }] } else s.die d)
          ∧ u.fn fn = { s.fn fn with inval := (s.fn fn).inval.set 3 w, invseq := s.pack.invSeq + 1 } ∧ (∀ k, k ≠ fn → u.fn k = s.fn k)
          ∧ u.outputs = s.outputs ++ [.logSeq fn (s.pack.invSeq + 1)])
  ∧ ∀ (d : Nat) (e : LogEntry), brings (.logApply d) (fun s => s.logMay d = true ∧ (s.die d).nextLog = some e)
      fun _ u => (u.die d).applied = e.seq ∧ e ∉ (u.die d).log
        ∧ (e.purge = true → ∀ i, i < 64 → (∀ l ∈ (u.core (d * 64 + i)).l1, e.coversKey l.key = false)
            ∧ ∀ l ∈ (u.core (d * 64 + i)).icode, e.coversKey l.1 = false)
        ∧ (e.transl = true → (∀ n ∈ (u.die d).names, ∀ x ∈ n.2.names, e.covers (x / 2 ^ 45) (x % 2 ^ 45 * 4096) = false)
            ∧ ∀ i, i < 16 → ∀ g ∈ (u.quad (d * 16 + i)).grants, e.covers (g.1 / 2 ^ 45) (g.1 % 2 ^ 45 * 4096) = false)

namespace Sys2Proof.Claim

/-! ## Launches, and the Weir (05 R91 to R106, 24 R357; 06 R120 to R125) -/

/-- The doorbells of a function are taken: its driver reaches it, and it is enabled (24 R358). -/
def rung (fn : Nat) (s : State) : Prop := openFn fn s ∧ (s.fn fn).enabled = true

/-- A queue takes a new tail (24 R357): it is enabled and has not stopped. -/
def queueRuns (fn q : Nat) (s : State) : Prop := rung fn s ∧ (s.queue fn q).enabled = true ∧ (s.queue fn q).stopped = false

/-- Only one launch queue has changed, and becomes as given. -/
def queueBecomes (fn q : Nat) (s u : State) (x : Queue) : Prop :=
  onlyFn fn s u ∧ u.fn fn = { s.fn fn with queues := (u.fn fn).queues } ∧ u.queue fn q = x ∧ ∀ k, k ≠ q → u.queue fn k = s.queue fn k

/-- Only one launch has changed, and becomes as given. -/
def launchBecomes (lid : Nat) (s u : State) (x : Launch) : Prop :=
  u = { s with launches := u.launches } ∧ u.launch lid = x ∧ ∀ k, k ≠ lid → u.launch k = s.launch k

/-- Only one SYNC generation has changed, and becomes as given. -/
def weirBecomes (gen : Nat) (s u : State) (x : Weir) : Prop :=
  u = { s with weirs := u.weirs } ∧ u.weir gen = x ∧ ∀ k, k ≠ gen → u.weir k = s.weir k

end Sys2Proof.Claim

/-- 05 R91 to R106, 24 R357: a doorbell moves a queue's tail, or stops the queue with its reason, and the waits of the queue's launches are
read again in either case; a launch arrives with its waits; a wait whose word has reached its threshold is done, and one whose word has not
notes the cycle; a bind record is accepted or refused; a dispatcher gives up a hopeless launch, marks a core to drain, or places by the
chosen queue; a queue passed over rises; a completion record is written, and every unsatisfied wait is owed a read. That a wait notes how
far each die's invalidation log has come, that a bind record resets every dispatcher's standing of its slot, and the order of the hopeless,
the draining and the chosen head, are the model's reading (log 49); the read of a wait in another package's memory leaves as an output (log
11). -/
def Obligations.LaunchesGoOn : Prop :=
  (∀ (fn q : Nat) (v : Word),
    let ahead (s : State) : Nat := (v - (s.queue fn q).read).toNat
    let known (s : State) : Nat := ((s.queue fn q).doorbell - (s.queue fn q).read).toNat
    let rings (s : State) (x : Queue) : Prop :=
      ∃ w : State, exec (.doorbell fn q v) s = .next ((s.queueLaunches fn q).foldl (fun s l => s.rereadWaits l) w) ∧ queueBecomes fn q s w x
    ∀ s : State,
      (queueRuns fn q s → known s ≤ ahead s → ahead s ≤ 2 ^ (s.queue fn q).k → rings s { s.queue fn q with doorbell := v })
      ∧ (openFn fn s → (s.fn fn).enabled = false → rings s (s.queue fn q))
      ∧ (rung fn s → (s.queue fn q).enabled = false → rings s { s.queue fn q with stopped := true, reason := 3 })
      ∧ (rung fn s → (s.queue fn q).enabled = true → (s.queue fn q).stopped = true → rings s (s.queue fn q))
      ∧ (queueRuns fn q s → ahead s < known s → rings s { s.queue fn q with stopped := true, reason := 1 })
      ∧ (queueRuns fn q s → known s ≤ ahead s → 2 ^ (s.queue fn q).k < ahead s → rings s { s.queue fn q with stopped := true, reason := 2 }))
  ∧ (∀ (fn q : Nat) (ws args : List Word) (tasks : List Task) (status : Option (Nat × Nat)) (s v : State),
      s.mayFetch fn q = true → s.fetchLaunch fn q = (v, some (ws, args, tasks, status)) →
      ∃ w : State, exec (.launchArrival fn q) s = .next (w.rereadWaits v.nextLid)
        ∧ w = { v with launches := w.launches, fns := w.fns, nextLid := v.nextLid + 1 }
        ∧ w.queue fn q = { v.queue fn q with fetched := (v.queue fn q).fetched + 1#32 }
        ∧ w.launch v.nextLid = { Launch.empty with
            fn := fn, queue := q, index := (v.queue fn q).fetched, packet := ws, args := args, tasks := tasks, waits := waitsOf ws,
            status := status.map (·.1), detail := (status.map (·.2)).getD 0, posted := false,
            joined := v.joinedWith fn q }
        ∧ ∀ k, k ≠ v.nextLid → w.launch k = v.launch k)
  ∧ (∀ (lid i : Nat) (w : LaunchWait) (leaf : Leaf) (v : State),
      let asked (s : State) : Prop := (s.launch lid).waits[i]? = some w ∧ w.done = false ∧ (s.launch lid).status = none
        ∧ s.ask (s.launch lid).fn w.addr 6 s.dispatchWho = (v, .go leaf)
      let r (s : State) : State := v.farRead (s.launch lid).fn w.addr 4
      brings (.waitReread lid i) (fun s => asked s ∧ w.threshold.toNat ≤ (v.sysWord (s.launch lid).fn w.addr).toNat)
        (fun s u => launchBecomes lid (r s) u { v.launch lid with
          waits := (v.launch lid).waits.set i { w with done := true, readAt := v.clk, owed := false },
          upto := (List.range 4).map fun d => (v.die d).logEnd })
      ∧ brings (.waitReread lid i) (fun s => asked s ∧ (v.sysWord (s.launch lid).fn w.addr).toNat < w.threshold.toNat)
          fun s u => launchBecomes lid (r s) u { v.launch lid with
            waits := (v.launch lid).waits.set i { w with done := false, readAt := v.clk, owed := false } })
  ∧ (∀ (slot : Nat) (ws : List Word),
      let b : Bind := { valid := (ws.getD 0 0#32).getLsbD 31, words := (List.range 16).map fun i => ws.getD i 0#32 }
      let becomes (s u : State) (r : Bind) (stat : Nat) : Prop :=
        u = { s with binds := u.binds, dispatchers := u.dispatchers, pack := { s.pack with slotstat := BitVec.ofNat 32 stat } }
          ∧ Tab.get Bind.empty u.binds slot = r ∧ (∀ k, k ≠ slot → Tab.get Bind.empty u.binds k = Tab.get Bind.empty s.binds k)
          ∧ ∀ d, Tab.get Standing.reset (Tab.get Dispatcher.reset u.dispatchers d).standings slot = Standing.reset
      brings (.bindRecordWrite slot ws) (fun s => linked s ∧ slot < 1024 ∧ (b.valid = false ∨ s.bindReason slot b = 0))
        (fun s u => becomes s u b (slot * 2 ^ 16))
      ∧ brings (.bindRecordWrite slot ws) (fun s => linked s ∧ slot < 1024 ∧ b.valid = true ∧ s.bindReason slot b ≠ 0)
        fun s u => becomes s u Bind.empty (2 ^ 31 + slot * 2 ^ 16 + s.bindReason slot b))
  ∧ (∀ (d lid x : Nat), brings (.placementDecision d) (fun s => s.decisionMay d = true ∧ s.hopeless = some (lid, x))
      fun s u => launchBecomes lid s u { s.launch lid with status := some x, detail := 0, firstCycle := none, lastCycle := s.clk })
  ∧ (∀ (d slot lid : Nat) (b : Bind) (cores : List Nat), occurs (.placementDecision d)
      (fun s => s.decisionMay d = true ∧ s.hopeless = none ∧ s.toDrain d = none ∧ s.chooseQueue d = some (slot, lid, b, cores))
      fun s => (s.standAfter d slot).placeNext lid b cores)
  ∧ (∀ (d lid c : Nat), brings (.placementDecision d)
      (fun s => s.decisionMay d = true ∧ s.hopeless = none ∧ s.toDrain d = some (lid, c))
      fun s u => onlyCore c s u ∧ u.core c = { s.core c with draining := some lid })
  ∧ (∀ (d slot : Nat), brings (.agingPromotion d slot) (fun s => 64 ≤ (s.standing d slot).passed)
      fun s u => u = { s with dispatchers := u.dispatchers }
        ∧ u.standing d slot = { s.standing d slot with passed := 0, promoted := (s.standing d slot).promoted + 1 }
        ∧ ∀ e k, (e ≠ d ∨ k ≠ slot) → u.standing e k = s.standing e k)
  ∧ ∀ (lid x : Nat),
      let done (s : State) : Prop := s.postMay lid = true ∧ (s.launch lid).status = some x
      let posts (s : State) (w : State) : Prop :=
        exec (.completionRecordPost lid) s = .next w ∧ (w.launch lid).posted = true
          ∧ ∀ e ∈ w.launches, ∀ y ∈ e.2.waits, y.done = false → y.owed = true
      (∀ (leaf : Leaf) (s v : State), done s → (s.launch lid).packet ≠ [] →
        s.ask (s.launch lid).fn (s.launch lid).recAddr 1 s.dispatchWho = (v, .go leaf) → posts s (v.writeRecord lid x))
      ∧ ∀ s : State, done s → (s.launch lid).packet = [] → posts s (s.writeRecord lid x)

/-- 06 R122 to R125: a generation is given a line; it restarts, each block of its domain once, and is over; a die's result is gathered;
the restart cycle is proposed, acknowledged and confirmed, or the arbiter begins again; this package's arrival at a pod SYNC goes out, and that
of another with which the launch is joined comes in. The restart cycle that the arbiter chooses within R124, and that a pod arrival is kept
until a restart takes it, are the model's reading (log 50); with which packages a launch is joined stands in words that firmware writes (log
66, DESIGN CHOICE); the form of the output is log 11's DESIGN CHOICE. -/
def Obligations.SyncGenerationsGoOn : Prop :=
  ∀ gen : Nat,
    brings (.weirLineGrant gen) (fun s => s.lineMay gen = true) (fun s u => weirBecomes gen s u { s.weir gen with line := true })
    ∧ (∀ s : State, s.restartDue gen = true →
        ∃ w : State, exec (.weirRestart gen) s = .next (({ w with weirs := Tab.erase w.weirs gen } : State).takePods (s.weir gen))
          ∧ w = (s.weirBlocks (s.weir gen)).foldl (fun s p => s.restartBlock (s.weir gen).scope p) s)
    ∧ (∀ d : Nat, brings (.weirGather gen d) (fun s => s.gatherMay gen d = true)
        fun s u => weirBecomes gen s u { s.weir gen with gathered := (s.weir gen).gathered ++ [d] })
    ∧ (∀ d : Nat, brings (.restartProposal gen d) (fun s => s.proposeMay gen d = true)
        fun s u => weirBecomes gen s u { s.weir gen with
          restart := some ((s.weir gen).restart.getD (s.chosenCycle (s.weir gen))), proposed := (s.weir gen).proposed ++ [d] })
    ∧ (∀ d : Nat, brings (.restartAck gen d)
        (fun s => d ∈ (s.weir gen).proposed ∧ d ∉ (s.weir gen).acks ∧ ∃ r, (s.weir gen).restart = some r ∧ s.clk + 8 < r)
        fun s u => weirBecomes gen s u { s.weir gen with acks := (s.weir gen).acks ++ [d] })
    ∧ brings (.restartConfirm gen) (fun s => s.confirmMay gen = true ∧ s.confirmable (s.weir gen) = true)
        (fun s u => weirBecomes gen s u { s.weir gen with
          confirmed := true, restart := some ((s.weir gen).restart.getD (s.chosenCycle (s.weir gen))) })
    ∧ brings (.restartConfirm gen) (fun s => s.confirmMay gen = true ∧ s.confirmable (s.weir gen) = false)
        (fun s u => weirBecomes gen s u { s.weir gen with restart := none, proposed := [], acks := [] })
    ∧ ∀ lid p : Nat,
        brings (.podSyncArrival lid p) (fun s => p = s.pack.pkg ∧ s.podWeir lid = some gen)
          (fun s u => u = { s with weirs := u.weirs, outputs := s.outputs ++ [.podArrival lid p] }
            ∧ u.weir gen = { s.weir gen with sent := true } ∧ ∀ k, k ≠ gen → u.weir k = s.weir k)
        ∧ brings (.podSyncArrival lid p) (fun s => p ≠ s.pack.pkg ∧ p ∈ (s.launch lid).joined)
          fun s u => launchBecomes lid s u { s.launch lid with pods := (s.launch lid).pods ++ [p] }

namespace Sys2Proof.Claim

/-! ## Preemption, the scan path and the engines (07 R135 to R148; 10 R193 to R218) -/

/-- Two commands of one block and tag. -/
def sameCmd (c d : Cmd) : Prop := c.core = d.core ∧ c.ctx = d.ctx ∧ c.tag = d.tag

/-- A command of a block goes on as given, and its progress register says the state. -/
def cmdGoesOn (core ctx tag : Nat) (c : Cmd) (u : State) (stage state : Nat) : Prop :=
  ∃ d, u.cmdOf core ctx tag = some d ∧ d.stage = stage ∧ sameCmd c d
    ∧ (c.orphan = none → c.pr < (u.block core ctx).progress.length →
        ((u.block core ctx).progress.getD c.pr Progress.free).state = state)

end Sys2Proof.Claim

/-- 07 R135 to R148, 16 R328: a block is asked to yield, its splits stop, its commands park, it is saved and resumed; a job is frozen, thawed
or abandoned; the scan path reads and writes. That a save publishes and writes at one instant, that the scan path names scratchpad words by 128
and memory words by 129, and that the last abandoned block ends its job's freeze, is log 48's DESIGN CHOICE; that a resume takes the model's
own copy is log 15's, and the image's layout, where the spec leaves it to the part, log 14's. -/
def Obligations.PreemptionGoesOn : Prop :=
  ∀ (c x : Nat), x < 2 →
    (∀ area : Nat,
      brings (.yieldRequest c x area) (fun s => (s.block c x).resident = true ∧ area % 4096 = 0)
        (fun s u => u = { s with blocks := u.blocks } ∧ (u.block c x).yield = some area
          ∧ (u.block c x).yieldFrom = (if (s.block c x).yield.isSome then (s.block c x).yieldFrom else s.clk + 1)
          ∧ ∀ p ∈ s.yieldMates c x, (u.block p.1 p.2).yield.isSome = true)
      ∧ brings (.yieldRequest c x area) (fun s => (s.block c x).resident = true ∧ area % 4096 ≠ 0)
        fun s u => u = { s with outputs := s.outputs ++ [.saveRefused c x] })
    ∧ (∀ (t : Tid) (i : Nat), brings (.safePointStop t i) (fun s => s.stopDue t i = true ∧ i < (s.thread t).splits.length)
        fun s u => onlyThread t s u ∧ (u.thread t).split i = { (s.thread t).split i with stopped := true, place := .away })
    ∧ (∀ (area : Nat) (image : List Byte),
        let publishes (s : State) : State := (s.saveLines c x).foldl (fun s k => s.publishNow (quadOf c) k) s
        brings (.save c x)
          (fun s => s.saveMay c x = true ∧ ((publishes s).block c x).yield = some area ∧ (publishes s).blockImage c x false = image
            ∧ (publishes s).areaOk ((publishes s).block c x).fn area image.length = true)
          fun s u => (u.block c x).resident = false ∧ (∀ i, i < 64 → (u.thread { core := c, ctx := x, slot := i }).live = false)
            ∧ (∀ d ∈ u.cmds, ¬ (d.core = c ∧ d.ctx = x ∧ d.orphan = none))
            ∧ ∃ old v, u.saved = old ++ [v] ∧ v.present = true ∧ v.area = area ∧ v.image = image
              ∧ v.block = (publishes s).block c x ∧ v.core = c ∧ v.clk = (publishes s).clk)
    ∧ (∀ (tag : Nat) (k : Cmd), brings (.enginePark c x tag) (fun s => s.cmdOf c x tag = some k ∧ s.parkMay k = true)
        fun s u => cmdGoesOn c x tag k u 3 3 ∧ ∀ d, u.cmdOf c x tag = some d → d.sent = none ∧ d.inbox = []
          ∧ (k.engine = 0 ∧ k.array = none → d.wtag = s.expectedTag k))
    ∧ (∀ (tag : Nat) (k : Cmd), brings (.collectiveParkSignal c x tag) (fun s => s.cmdOf c x tag = some k ∧ s.signalMay k = true)
        fun s u => u = { s with cmds := s.cmds.map fun d =>
          if (k :: s.mates k).any fun e => e.core == d.core && e.ctx == d.ctx && e.tag == d.tag
          then { d with parkAt := some (s.boundary k) } else d })
    ∧ (∀ (i core : Nat) (v : Saved), occurs (.resume i core)
        (fun s => s.resumeMay i core = true ∧ s.saved[i]? = some v ∧ s.areaSpoilt v = false)
        fun s => if v.leaseHeld then s.restoreBlock i core v
          else (s.restoreBlock i core v).finishResume core (if (s.block core 0).resident then 1 else 0))
    ∧ (∀ lids : List Nat, brings (.freezeWire lids) (fun _ => True)
        fun s u => u = { s with blocks := u.blocks, launches := u.launches }
          ∧ (∀ p ∈ s.residents, (s.block p.1 p.2).lid ∈ lids →
              (u.block p.1 p.2).frozen = some ((s.block p.1 p.2).frozen.getD s.clk))
          ∧ ∀ l ∈ lids, s.launch l ≠ Launch.empty → (u.launch l).frozen = true)
    ∧ (∀ lids : List Nat, brings (.thaw lids) (fun _ => True)
        fun s u => u = { s with weirs := u.weirs, threads := u.threads, cores := u.cores, blocks := u.blocks, launches := u.launches }
          ∧ (∀ p ∈ s.residents, (s.block p.1 p.2).lid ∈ lids → (u.block p.1 p.2).frozen = none)
          ∧ ∀ l ∈ lids, s.launch l ≠ Launch.empty → (u.launch l).frozen = false)
    ∧ brings (.abandon c x) (fun s => (s.block c x).frozen ≠ none) (fun s u =>
        let e := s.endWorkGroup c x
        let lid := (s.block c x).lid
        let held := ∃ p ∈ e.residents, (e.block p.1 p.2).lid = lid ∧ (e.block p.1 p.2).frozen ≠ none
        (held → u = e) ∧ (¬ held → u = e.modLaunch lid fun l => { l with frozen := false }))
    ∧ (∀ cores : List Nat, brings (.scanRead cores) (fun s => ∃ k ∈ cores, s.scannable k = true)
        fun s u => u = { s with outputs := s.outputs ++ [.scanRecord (s.scanRecord cores)] })
    ∧ ∀ (t : Tid) (r l : Nat) (w : Word),
        let block (s : State) : Block := s.block t.core t.ctx
        let may (s : State) : Prop := s.scannable t.core = true ∧ (block s).resident = true ∧ (block s).nregs ≤ 128
        brings (.scanWriteBack t r l w) (fun s => may s ∧ r < (block s).nregs ∧ l < 32)
          (fun s u => onlyThread t s u ∧ (u.thread t).rd (.g r) l = w
            ∧ ∀ (k : Reg) (j : Nat), j < 32 → (k.id ≠ Reg.id (.g r) ∨ j ≠ l) → (u.thread t).rd k j = (s.thread t).rd k j)
        ∧ brings (.scanWriteBack t 128 l w) (fun s => may s ∧ l % 4 = 0 ∧ l + 4 ≤ (block s).scratchSize)
          (fun s u => onlyCore t.core s u
            ∧ (∀ i, i < 4 → u.scratchByte t.core ((block s).scratchBase + l + i) = w.extractLsb' (8 * i) 8)
            ∧ ∀ a, (a < (block s).scratchBase + l ∨ (block s).scratchBase + l + 4 ≤ a) →
                u.scratchByte t.core a = s.scratchByte t.core a)
        ∧ ∀ leaf : Leaf, occurs (.scanWriteBack t 129 l w) (fun s => may s ∧ l % 4 = 0 ∧ s.translate (block s).fn l 1 = .ok leaf)
            fun s => s.sysWrite (block s).fn l ((List.range 4).map fun i => w.extractLsb' (8 * i) 8)

/-- 10 R193 to R218, 12 R239 to R251, 07 R147: a command that may start is running, with its progress register in state 1, a matrix command
after what the model's start of it does, or faulted where its start finds something wrong; the element at its progress register's place, once
its bytes are reached, is performed by the model's one operation for it, or handed to the partner of a collective; an element's fault, or a
differing block of a partner in another package, makes the command faulted; a command that may complete is gone, with its register in state 2, its semaphore counted, and its record posted, held, or
its result in the port that awaits it; a party of a collective takes the segment that its partner has handed over, or exchanges one with a
partner of another package. That an element reads and writes at one instant is log 44's DESIGN CHOICE, and what comes from and goes to a
partner of another package, and when, is log 47's. -/
def Obligations.EnginesGoOn : Prop :=
  ∀ (c x tag : Nat) (k : Cmd),
    let stands (s : State) : Prop := s.cmdOf c x tag = some k
    let run (s : State) : State :=
      (s.modProgress k fun r => { r with state := 1 }).modCmd k fun d => { d with stage := 1, parkAt := none, since := s.clk }
    brings (.engineCommandStart c x tag) (fun s => stands s ∧ s.startMay k = true ∧ k.engine ≠ 0)
      (fun _ u => cmdGoesOn c x tag k u 1 1 ∧ ∀ d, u.cmdOf c x tag = some d → d.parkAt = none)
    ∧ occurs (.engineCommandStart c x tag)
      (fun s => stands s ∧ s.startMay k = true ∧ k.engine = 0 ∧ s.startFault k = none)
      (fun s => (run (s.startMx k)).enterArray k ((s.latchedTag c).getD 0))
    ∧ (∀ cause : Nat, occurs (.engineCommandStart c x tag)
        (fun s => stands s ∧ s.startMay k = true ∧ k.engine = 0 ∧ s.startFault k = some cause)
        fun s => ((run s).enterArray k ((s.latchedTag c).getD 0)).faultCommand k cause)
    ∧ (∀ (e : Elem) (v : State),
        let reached (s : State) : Prop :=
          stands s ∧ s.commitMay k = true ∧ s.nextElem k = some e ∧ s.reachElem k e = (v, none)
        let w := v.podReads k e.reads
        occurs (.engineElementCommit c x tag) (fun s => reached s ∧ k.collective = false) (fun _ => w.performElem k e)
        ∧ ∀ (d : Cmd) (src dst : List Ref), occurs (.engineElementCommit c x tag)
            (fun s => reached s ∧ k.collective = true ∧ w.handing k = some (d, src, dst)) fun _ => (w.handOver k d src dst).drawn)
    ∧ (∀ (cause : Nat) (v : State), brings (.engineElementFault c x tag cause)
        (fun s => stands s ∧ s.elemFault k = some (v, cause)) fun _ u => u = v.faultCommand k cause
          ∧ (k.orphan = none → v.cmdOf c x tag = some k → ∃ d, u.cmdOf c x tag = some d ∧ d.stage = 4 ∧ d.cause = cause))
    ∧ occurs (.engineElementFault c x tag 9) (fun s => stands s ∧ s.meetsFar k = true ∧ ∀ v, s.elemFault k ≠ some (v, 9))
        (fun s => s.faultCommand k 9)
    ∧ brings (.engineCommandComplete c x tag) (fun s => stands s ∧ s.completeMay k = true)
      (fun s u => (∀ d ∈ u.cmds, ¬ sameCmd k d) ∧ (u.core c).done = (s.clk, if k.engine = 0 then 3 else k.engine)
        ∧ (k.orphan = none → k.pr < (s.block c x).progress.length →
            (u.block c x).progress.getD k.pr Progress.free
              = { (s.block c x).progress.getD k.pr Progress.free with state := 2, doneAt := s.clk })
        ∧ (∀ i, i < (s.core c).sems.length → ((u.core c).sems.getD i 0#16).toNat
            = if k.t.getLsbD 30 = true ∧ i = (k.t.extractLsb' 24 5).toNat then min 65535 (((s.core c).sems.getD i 0#16).toNat + 1)
              else ((s.core c).sems.getD i 0#16).toNat)
        ∧ let origin := if k.engine = 0 then 2 else k.engine - 1
          let r : Word := BitVec.ofNat 32 (origin * 2 ^ 30 + x * 2 ^ 29 + tag % 2 ^ 24)
          let posts := k.t.getLsbD 31 = true ∧ k.orphan = none
          let enters := (s.core c).evq.length < 64 ∧ (s.core c).held = []
          (¬ posts → (u.core c).evq = (s.core c).evq ∧ (u.core c).held = (s.core c).held)
            ∧ (posts → enters → (u.core c).evq = (s.core c).evq ++ [r] ∧ (u.core c).held = [])
            ∧ (posts → ¬ enters → (u.core c).evq = (s.core c).evq ∧ (u.core c).held = (s.core c).held ++ [r])
            ∧ ∀ (slot : Nat) (p : ResPort),
                let t : Tid := { core := c, ctx := x, slot := slot }
                x < 2 → (posts → enters) → slot < 33 → (s.thread t).live = true → p ∈ [ResPort.mxq, .cp0q, .cp1q] →
                tag ≠ 0 → tag < 2 ^ 24 → Tab.get 0 (s.thread t).owners (p.code * 32) = tag →
                  (u.thread t).rd (.res p) 0 = BitVec.ofNat 32 (2 * 2 ^ 24 + tag) ∧ (u.thread t).awaiting p = 0#32)
    ∧ ∀ (got : List Byte) (v : State),
        occurs (.collectiveSegmentHandoff c x tag)
          (fun s => stands s ∧ s.takeMay k = true ∧ s.taking k = some got ∧ s.reachElem k (s.takeElem k got) = (v, none))
          (fun s => let x := s.takeElem k got
            let w := (v.writeRefs k x.writes).noteSeen k (x.reads ++ x.writes.map (·.1))
            ((w.modCmd k fun d => { d with inbox := d.inbox.filter fun y => y.1 != segKey (s.position k) }).commitAt k (s.position k)).drawn)
        ∧ occurs (.collectiveSegmentHandoff c x tag)
          (fun s => stands s ∧ s.takeMay k = false ∧ s.farMay k = true ∧ s.reachElem k (s.farElem k (s.farBytes k)) = (v, none))
          fun s => ((v.systemStore k.core k.fn ((s.farElem k (s.farBytes k)).writes.map fun w => (w.1.addr, w.2))).commitAt k
            (v.position k)).drawn

namespace Sys2Proof.Claim

/-! ## Coherence (14 R264 to R282) -/

/-- Only one line of a quad cache has changed, and becomes as given. -/
def lineBecomes (q key : Nat) (s u : State) (x : QLine) : Prop :=
  onlyQuad q s u ∧ u.qline q key = x ∧ ∀ k, k ≠ key → u.qline q k = s.qline q k

/-- The home's record of a range. -/
def rangeOfId (s : State) (rid : Nat) : Range := s.range (rid / 64) (rid % 64)

end Sys2Proof.Claim

/-- 14 R264 to R283: a quad cache publishes, misses, upgrades and evicts by requests to the home, which runs its table's entry; an answer
arrives; walks invalidate or update the copies one quad after another, and a sleeping quad's leaves the list; the end of a walk is reported to
the home; an owner gives its line up; a token is asked for, drained and handed on; an answer that an older incarnation of the home has sent
is dropped (16 R333, log 52). That what a WACK publishes is written when the walk has ended, that a sleeping cache leaves the list, what the
requester of an UPG does, and that a message's effect happens at the instant of its arrival, are the model's reading (log 43, DEDUCED and
DESIGN CHOICE). -/
def Obligations.CoherenceGoesOn : Prop :=
  ∀ (q key : Nat),
    (∀ s : State, s.mayPublish q key = true →
      let x := s.qline q key
      let d := s.dirKey x.fn key
      let path := s.writePath (s.slotOf x.fn (keyAddr key))
      (path = 0 → x.state = 2 → exec (.publication q key) s = .next (s.mergeOwned q key))
        ∧ (path = 0 → x.state ≠ 2 → ∃ u, exec (.publication q key) s = .next u
            ∧ lineBecomes q d s u { s.qline q d with fn := x.fn, want := if (s.qline q d).state = 1 then 3 else 2 })
        ∧ (path ≠ 0 → ∃ u, exec (.publication q key) s = .next u ∧ lineBecomes q key s u { x with want := 6 }))
    ∧ (∀ (n : Need) (leaf : Leaf) (v : State), occurs (.gets q key)
        (fun s => s.getsNeed q key = some n ∧ s.ask n.fn n.addr n.access n.who = (v, .go leaf))
        fun _ => (v.sendRequest q n.fn (v.dirKey n.fn key) (if v.slotOf n.fn n.addr = 2 then 1 else 0) []).modQLine q key
          fun x => { x with hint := n.hint })
    ∧ (∀ (shared : Bool) (n : Need) (leaf : Leaf) (v : State),
        let event : Instr := if shared then .upg q key else .getm q key
        let kind := if shared then 2 else 1
        occurs event (fun s => s.ownNeed q key shared = some n ∧ n.access = 7 ∧ s.translate n.fn n.addr 7 = .ok leaf)
          (fun s => s.sendRequest q n.fn (s.dirKey n.fn key) kind [])
        ∧ occurs event (fun s => s.ownNeed q key shared = some n ∧ n.access ≠ 7
            ∧ s.ask n.fn n.addr n.access n.who = (v, .go leaf))
          fun s => v.sendRequest q n.fn (s.dirKey n.fn key) kind [])
    ∧ occurs (.puts q key) (fun s => s.mayEvict q key 1 = true)
      (fun s => (s.dropCoherent q (s.qline q key).fn key).sendRequest q (s.qline q key).fn key 3 [])
    ∧ occurs (.putm q key) (fun s => s.mayEvict q key 2 = true)
      (fun s => (s.dropCoherent q (s.qline q key).fn key).sendRequest q (s.qline q key).fn key 4
        (s.heldBytes q (s.qline q key).fn key))
    ∧ (∀ (leaf : Leaf) (s : State), s.pubMay q key = true → s.translate (s.qline q key).fn (keyAddr key) 7 = .ok leaf →
        let x := s.qline q key
        ∃ w : State, lineBecomes q key s w { x with want := 6, locked := true }
          ∧ exec (.pub q key) s = .next (w.atHome (w.homeOf x.fn (keyAddr key)) (w.dirKey x.fn key)
              { w.quadReq 5 x.fn q (x.localCells key) with addr := keyAddr key, heal := x.heal }))
    ∧ (∀ (die : Nat) (d : DirEntry) (w : Walk),
        let finished (s : State) : Prop := s.dirAt key = some (die, d) ∧ d.walk = some w ∧ w.done = true
        let report (s : State) : State := s.atHome die key { w.req with kind := 6, who := 66 }
        occurs (.wack key) (fun s => finished s ∧ w.kind = 1)
          (fun s => report (((s.modDir die key fun e => { e with walk := none }).updatePassed (d.updates key)).endRed w.req))
        ∧ occurs (.wack key) (fun s => finished s ∧ w.kind = 0 ∧ w.req.kind = 5)
          (fun s => report ((s.modDir die key fun e => { e with walk := none, head := none }).writeArriving w.req))
        ∧ occurs (.wack key) (fun s => finished s ∧ w.kind = 0 ∧ w.req.kind ≠ 2 ∧ w.req.kind ≠ 5)
          (fun s => report (s.modDir die key fun e => { e with walk := none, head := none }))
        ∧ occurs (.wack key) (fun s => finished s ∧ w.kind = 0 ∧ w.req.kind = 2)
          fun s => report ((s.modDir die key fun e => { e with walk := none, head := some w.req.who }).modQLine w.req.who key
            fun x => { x with fwd := 64, bwd := 64 }))
    ∧ (∀ (die o : Nat) (d : DirEntry) (got : List (Nat × Byte)), occurs (.dataAnswer key)
        (fun s => s.dirAt key = some (die, d) ∧ d.owner = some o ∧ d.answer = some got)
        fun s => s.atHome die key (s.quadReq 7 (s.qline o key).fn o got))
    ∧ (∀ rid : Nat,
        let e (s : State) : Entry := s.entry (rangeOfId s rid).slot (s.tokenOf rid).1 10
        occurs (.treq q rid) (fun s => s.wantsToken q rid = true ∧ 15 ∈ (e s).acts) (fun s => s.setToken rid ((e s).next, q))
        ∧ (brings (.treq q rid) (fun s => s.wantsToken q rid = true ∧ 15 ∉ (e s).acts)
          fun s u => u = { s with dies := u.dies }
            ∧ (u.die (rangeOfId s rid).die).tokenQ = (s.die (rangeOfId s rid).die).tokenQ ++ [(rid, q)]
            ∧ u.tokenOf rid = if 16 ∈ (e s).acts then ((e s).next, (s.tokenOf rid).2) else s.tokenOf rid)
        ∧ brings (.tdone q rid) (fun s => s.drained q rid = true ∧ ∀ y ∈ (s.die (rangeOfId s rid).die).tokenQ, y.1 ≠ rid)
          (fun s u => u = { s with dies := u.dies } ∧ u.tokenOf rid = (8, 64)
            ∧ (u.die (rangeOfId s rid).die).tokenQ = (s.die (rangeOfId s rid).die).tokenQ)
        ∧ (∀ y : Nat × Nat, brings (.tdone q rid)
            (fun s => s.drained q rid = true ∧ (s.die (rangeOfId s rid).die).tokenQ.find? (fun z => z.1 == rid) = some y)
            fun s u => u = { s with dies := u.dies } ∧ (u.tokenOf rid).2 = y.2
              ∧ (u.die (rangeOfId s rid).die).tokenQ = (s.die (rangeOfId s rid).die).tokenQ.erase y)
        ∧ brings (.tokenDrainRequest rid) (fun s => (s.tokenOf rid).1 = 10)
          fun s u => u = { s with quads := u.quads } ∧ ∀ k ∈ s.localInRange (s.tokenOf rid).2 rid,
            s.mayPublish (s.tokenOf rid).2 k = true →
              s.dirKey (s.qline (s.tokenOf rid).2 k).fn k = k → (u.qline (s.tokenOf rid).2 k).want = 6)
    ∧ (∀ (die : Nat) (w : Walk),
        let next (s : State) : Nat := (s.qline w.at_ key).fwd
        occurs (.invalidationWalk key) (fun s => s.walkAt key 0 = some (die, w) ∧ w.req.kind = 2 ∧ w.req.who = w.at_)
          (fun s => s.passWalk die key (next s))
        ∧ occurs (.invalidationWalk key) (fun s => s.walkAt key 0 = some (die, w) ∧ ¬ (w.req.kind = 2 ∧ w.req.who = w.at_))
          (fun s => ((s.dropCoherent w.at_ w.req.fn key).modQLine w.at_ key fun x => { x with fwd := 64, bwd := 64 }).passWalk die key (next s))
        ∧ occurs (.updateWalk key) (fun s => s.walkAt key 1 = some (die, w) ∧ w.req.kind = 5 ∧ w.req.who = w.at_)
          (fun s => s.passWalk die key (next s))
        ∧ occurs (.updateWalk key)
          (fun s => s.walkAt key 1 = some (die, w) ∧ ¬ (w.req.kind = 5 ∧ w.req.who = w.at_) ∧ (s.quad w.at_).asleep = true)
          (fun s => (((s.dropCoherent w.at_ w.req.fn key).unlink die key w.at_).modQLine w.at_ key
            fun x => { x with fwd := 64, bwd := 64 }).passWalk die key (next s))
        ∧ occurs (.updateWalk key)
          (fun s => s.walkAt key 1 = some (die, w) ∧ ¬ (w.req.kind = 5 ∧ w.req.who = w.at_) ∧ (s.quad w.at_).asleep = false)
          fun s => ((s.group w.req.fn key).foldl (fun s k => s.modQLine w.at_ k fun x =>
            if x.state = 0 then x else { x with
              bytes := patch (keyAddr k) w.req.bytes x.bytes
              poison := if w.req.addr = keyAddr k then x.poison &&& ~~~w.req.heal else x.poison }) s).passWalk die key (next s))
    ∧ (∀ die o : Nat, occurs (.recall key) (fun s => s.recallAt key 1 = some (die, o)) (fun s => s.surrender key die o false)
        ∧ occurs (.downgrade key) (fun s => s.recallAt key 2 = some (die, o)) fun s => s.surrender key die o true)
    ∧ ∀ g : Grant,
        brings (.unlinkAck q key) (fun s => s.grantFor q key (· = 5) = some g ∧ s.staleGrant g = false)
          (fun s u => u = { s with grants := s.grants.erase g, quads := u.quads }
            ∧ u.qline q key = { s.qline q key with want := 0, locked := false, fwd := 64, bwd := 64 }
            ∧ ∀ p k, (p ≠ q ∨ k ≠ key) → u.qline p k = s.qline p k)
        ∧ occurs (.lineGrant q key) (fun s => s.grantFor q key (· ≠ 5) = some g ∧ s.staleGrant g = false) (fun s => s.takeGrant q key g)
        ∧ occurs (.unlinkAck q key) (fun s => s.grantFor q key (· = 5) = some g ∧ s.staleGrant g = true)
          (fun s => { s with grants := s.grants.erase g })
        ∧ occurs (.lineGrant q key) (fun s => s.grantFor q key (· ≠ 5) = some g ∧ s.staleGrant g = true)
          fun s => { s with grants := s.grants.erase g }

namespace Sys2Proof.Claim

/-- A request of the host's comes to stand behind those that wait (14 R280, R363). -/
def asked_ (q : HostReq) (s : State) : State := { s with pack := { s.pack with hostQ := s.pack.hostQ ++ [q] } }

/-- A request of the host's is over. -/
def served (q : HostReq) (s : State) : State := { s with pack := { s.pack with hostQ := s.pack.hostQ.erase q } }

/-- Serving the oldest request of a function of the host's, whose lines are settled and whose pages may be asked for: a read brings its lines and
answers with the bytes at system scope, a write puts its lines, each by the model's one operation; one whose page is absent stands on, and one
that is refused is over. -/
def hostServed (fn : Nat) (q : HostReq) (s v : State) : Prop :=
  let n := if q.bytes = none then q.n else (q.bytes.getD []).length
  let pages := s.askAll fn (if q.bytes = none then 0 else 1) (s.hostWho fn q.addr) (pageStarts q.addr n)
  (pages = (v, none) → q.bytes = none →
    let w := (hostLines q.addr n).foldl (fun s b => s.hostGets fn b) v
    let answer : List Byte := (List.range n).map fun i => w.sysByte fn (q.addr + i)
    execHostServe fn s = .next ({ served q w with outputs := w.outputs ++ [.hostData answer] } : State))
  ∧ (∀ bs, pages = (v, none) → q.bytes = some bs →
    execHostServe fn s = .next (served q ((hostLines q.addr n).foldl (fun s b => s.hostPut fn (cellsAt q.addr bs) b) v)))
  ∧ (pages = (v, some none) → execHostServe fn s = .next v)
  ∧ ∀ c, pages = (v, some (some c)) → execHostServe fn s = .next (served q v)

end Sys2Proof.Claim

/-- 14 R265, R276, R277, R363; 15 R285, R292, R304; 24 R357, R358, R361: the host's reads and writes of memory stand at their homes and are served
one after another for each function; the driver loads protocols, writes range entries, enables and resets functions, and writes their registers;
a write that a rule refuses sets the function's error bit; before bring-up has ended, or with the host link lost, none of it has an effect. That
REGISTER_WRITE numbers BAR2's words from 2^20 on and firmware's own from 2^21 on is the form of log 38, and that the packages of a pod domain
stand in firmware's words from 256 on is log 66's DESIGN CHOICE; the low bits that QBASE and FQBASE drop, and what a QCTL write does to a queue
that is enabled, are log 38's. -/
def Obligations.HostAndDriverAct : Prop :=
  (∀ (fn a n : Nat), occurs (.hostRead fn a n) (fun s => linked s ∧ 0 < n) (asked_ { fn := fn, addr := a, n := n, bytes := none }))
  ∧ (∀ (fn a : Nat) (bytes : List Byte), occurs (.hostWrite fn a bytes) (fun s => linked s ∧ bytes ≠ [])
      (asked_ { fn := fn, addr := a, n := bytes.length, bytes := some bytes }))
  ∧ (∀ (fn : Nat) (q : HostReq) (s v : State), s.pack.hostQ.find? (fun x => x.fn == fn) = some q → s.hostServeMay fn = true → hostServed fn q s v)
  ∧ (∀ w : Word, brings (.protocolLoad w) (fun s => linked s ∧ s.pack.plbusy = false)
      fun s u =>
        let at_ := (s.pack.plreq.getD 0 0#32).toNat + (s.pack.plreq.getD 1 0#32).toNat * 2 ^ 32
        let slot := (w.extractLsb' 0 3).toNat
        u = { s with pack := { s.pack with plreq := s.pack.plreq.set 2 w, plbusy := true, plslot := slot, pladdr := at_ } })
  ∧ (let code (s : State) : Nat := verifyCode s.loadImage (s.pack.plslot < 5 || s.slotInUse s.pack.plslot)
     brings .protocolVerifyDone (fun s => s.pack.plbusy = true ∧ code s ≠ 0)
       (fun s u => u = { s with pack := { s.pack with plbusy := false, plreason := code s } })
     ∧ brings .protocolVerifyDone (fun s => s.pack.plbusy = true ∧ code s = 0) fun s u =>
       let image : List Byte := s.loadImage.flatMap fun w => (List.range 4).map fun i => w.extractLsb' (8 * i) 8
       u = { s with pack := { s.pack with
         plbusy := false, plreason := 0, protos := s.pack.protos.set (s.pack.plslot - 5) (some s.loadImage),
         measures := s.pack.measures.set (s.pack.plslot + 2) (Config.sm3 image) } })
  ∧ (∀ (fn i : Nat) (ws : List Word),
      let r : Range := { valid := (ws.getD 0 0#32).getLsbD 31, words := (List.range 4).map fun j => ws.getD j 0#32 }
      let old (s : State) : Range := s.range fn i
      let put (x : Range) (s : State) : State := s.modFn fn fun f => { f with ranges := f.ranges.set i x }
      let kept (s : State) : State := s.modFn fn fun f => { f with
        stage := (List.range 3).foldl (fun m j => Tab.set 0#32 m (4 * i + 1 + j) (ws.getD (1 + j) 0#32)) f.stage }
      occurs (.rangeEntryWrite fn i ws) (fun s => linked s ∧ i < 64 ∧ r.valid = false ∧ (old s).valid = true)
        (fun s => (put r ((kept s).dropRange fn (old s).base (old s).size)).clearToken (fn * 64 + i))
      ∧ occurs (.rangeEntryWrite fn i ws) (fun s => linked s ∧ i < 64 ∧ r.valid = false ∧ (old s).valid = false)
        (fun s => (put r (kept s)).clearToken (fn * 64 + i))
      ∧ occurs (.rangeEntryWrite fn i ws) (fun s => linked s ∧ i < 64 ∧ r.valid = true ∧ (old s).valid = true) kept
      ∧ occurs (.rangeEntryWrite fn i ws)
        (fun s => linked s ∧ i < 64 ∧ r.valid = true ∧ (old s).valid = false ∧ (kept s).rangeRefused fn i r = true)
        (fun s => put Range.empty (kept s))
      ∧ occurs (.rangeEntryWrite fn i ws)
        (fun s => linked s ∧ i < 64 ∧ r.valid = true ∧ (old s).valid = false ∧ (kept s).rangeRefused fn i r = false)
        fun s => (put r (kept s)).clearToken (fn * 64 + i))
  ∧ (∀ fn : Nat,
      let rekeyed (s u : State) : Prop := u = { s with fns := u.fns, pack := { s.pack with keySeq := s.pack.keySeq + 1 } }
        ∧ ∀ k, k ≠ fn → u.fn k = s.fn k
      brings (.functionEnable fn) (fun s => linked s ∧ (s.fn fn).enabled = false)
        (fun s u => rekeyed s u ∧ u.fn fn = { s.fn fn with enabled := true, keyGen := s.pack.keySeq + 1 })
      ∧ brings (.functionReset fn) linked
        (fun s u => rekeyed (s.fence fn) u ∧ u.fn fn = { Function.reset with enabled := (s.fn fn).enabled, keyGen := (s.fence fn).pack.keySeq + 1 })
      ∧ (∀ (d : Nat) (w : Word), brings (.frameWindowWrite fn d w)
        (fun s => linked s ∧ ∀ e ∈ s.fns, e.1 = fn ∨ windowsMeet w (e.2.frames.getD d 0#32) = false)
        fun s u => onlyFn fn s u ∧ u.fn fn = { s.fn fn with frames := (s.fn fn).frames.set d (w &&& 0x007F007F#32) })
      ∧ brings (.configRequest fn) (fun s => (s.die 0).lost = false) (fun s u => u = { s with outputs := s.outputs ++ [.config fn s.pack.retry] })
      ∧ brings (.fstatusErrorClear fn) linked
        (fun s u => onlyFn fn s u ∧ u.fn fn = { s.fn fn with error := false }))
  ∧ (∀ (fn : Nat) (w : Word),
      let q (s : State) : Nat := (s.fn fn).qsel
      let x (s : State) : Queue := s.queue fn (q s)
      let k := (w.extractLsb' 0 5).toNat
      let refused (s u : State) : Prop := onlyFn fn s u ∧ u.fn fn = { s.fn fn with error := true }
      brings (.qbaseWrite fn false w) (fun s => openFn fn s ∧ (x s).enabled = false)
        (fun s u => queueBecomes fn (q s) s u { x s with base := (x s).base / 2 ^ 32 * 2 ^ 32 + (w &&& ~~~0x7F#32).toNat })
      ∧ brings (.qbaseWrite fn true w) (fun s => openFn fn s ∧ (x s).enabled = false)
        (fun s u => queueBecomes fn (q s) s u { x s with base := (x s).base % 2 ^ 32 + w.toNat * 2 ^ 32 })
      ∧ (∀ hi : Bool, brings (.qbaseWrite fn hi w) (fun s => openFn fn s ∧ (x s).enabled = true) refused)
      ∧ brings (.queueEnable fn w) (fun s => openFn fn s ∧ 4 ≤ k ∧ k ≤ 16 ∧ (x s).enabled = false)
        (fun s u => queueBecomes fn (q s) s u { x s with
          k := k, enabled := true, stopped := false, reason := 0, doorbell := 0#32, read := 0#32, fetched := 0#32, since := s.nextLid })
      ∧ brings (.queueEnable fn w) (fun s => openFn fn s ∧ (k < 4 ∨ 16 < k)) refused
      ∧ brings (.queueEnable fn w) (fun s => openFn fn s ∧ (x s).enabled = true ∧ k ≠ (x s).k) refused
      ∧ brings (.queueDisable fn w) (fun s => openFn fn s ∧ (x s).enabled = true ∧ k = (x s).k)
        (fun s u => queueBecomes fn (q s) s u { x s with enabled := false, stopped := true, reason := 0 })
      ∧ brings (.queueDisable fn w) (fun s => openFn fn s ∧ (x s).enabled = false)
        fun s u => queueBecomes fn (q s) s u { x s with k := k })
  ∧ ∀ (fn : Nat) (w : Word),
      let writes (off : Nat) (gives : Function → Function) : Prop :=
        brings (.registerWrite fn off w) (openFn fn) fun s u => onlyFn fn s u ∧ u.fn fn = gives (s.fn fn)
      let control (i : Nat) (gives : Function → Function) : Prop :=
        ∀ g, g < 64 → brings (.registerWrite 0 (2 ^ 20 + 0x10000 + 256 * g + 4 * i) w) linked
          fun s u => onlyFn g s u ∧ u.fn g = gives (s.fn g)
      writes 0x08 (fun f => { f with qsel := (w.extractLsb' 0 12).toNat })
        ∧ writes 0x20 (fun f => { f with
            fqbase := f.fqbase / 2 ^ 32 * 2 ^ 32 + (w &&& ~~~0x1F#32).toNat, fqset := f.fqset ||| 1 })
        ∧ writes 0x24 (fun f => { f with fqbase := f.fqbase % 2 ^ 32 + w.toNat * 2 ^ 32, fqset := f.fqset ||| 2 })
        ∧ (∀ i, i < 3 → writes (0x40 + 4 * i) fun f => { f with inval := f.inval.set i w })
        ∧ (w.getLsbD 30 = false → w.getLsbD 31 = false → control 0 fun f => { f with enabled := false })
        ∧ (∀ g i, g < 64 → i < 256 → i % 4 ≠ 0 → brings (.registerWrite 0 (2 ^ 20 + 0x400 * g + 4 * i) w) linked
            fun s u => onlyFn g s u ∧ u.fn g = { s.fn g with stage := Tab.set 0#32 (s.fn g).stage i w })
        ∧ (∀ (s : State) (g i : Nat), g < 64 → i < 64 → linked s → exec (.registerWrite 0 (2 ^ 20 + 0x400 * g + 16 * i) w) s
            = exec (.rangeEntryWrite g i (w :: (List.range 3).map fun j => Tab.get 0#32 (s.fn g).stage (4 * i + 1 + j))) s)
        ∧ (∀ s : State, exec (.registerWrite 0 (2 ^ 20 + 0x20008) w) s = exec (.protocolLoad w) s)
        ∧ control 2 (fun f => { f with ptroot := f.ptroot / 2 ^ 32 * 2 ^ 32 + (w &&& ~~~0xFFF#32).toNat })
        ∧ control 3 (fun f => { f with ptroot := f.ptroot % 2 ^ 32 + w.toNat * 2 ^ 32 })
        ∧ (∀ i, i < 4 → control (8 + i) fun f => { f with tables := f.tables.set i (w &&& 0x007F007F#32) })
        ∧ (∀ i, i < 4 → control (12 + i) fun f => { f with wsWin := f.wsWin.set i (w &&& 0x00003F3F#32) })
        ∧ (∀ i, i < 2 → brings (.registerWrite 0 (2 ^ 20 + 0x20000 + 4 * i) w) linked
            fun s u => u = { s with pack := { s.pack with plreq := s.pack.plreq.set i w } })
        ∧ (∀ d i, d < 4 → i < 6 → brings (.registerWrite 0 (2 ^ 20 + 0x21000 + 64 * d + 8 * i) 0#32) linked
            fun s u => onlyDie d s u ∧ u.die d = { s.die d with corr := (s.die d).corr.set i 0#32 })
        ∧ (∀ i, i < 2048 → brings (.registerWrite 0 (2 ^ 21 + 4 * (256 + i)) w) (fun _ => True)
            fun s u => u = { s with pack := { s.pack with joins := Tab.set 0#32 s.pack.joins i w } })
        ∧ (∀ i ∈ [Instr.registerWrite fn 0x08 w, .qbaseWrite fn false w, .queueEnable fn w, .queueDisable fn w, .doorbell fn 0 w, .fqctlWrite fn w,
            .fqheadWrite fn w, .functionEnable fn, .functionReset fn, .fstatusErrorClear fn, .protocolLoad w,
            .rangeEntryWrite fn 0 [w], .frameWindowWrite fn 0 w, .hostRead fn 0 4, .hostWrite fn 0 [0#8]],
          brings i (fun s => ¬ linked s) fun s u => u = s)
        ∧ ∀ i ∈ [Instr.configRequest fn, .getVersion], brings i (fun s => (s.die 0).lost = true) fun s u => u = s

namespace Sys2Proof.Claim

/-! ## Power, levels, trust and recovery (05 R109 to R111; 10 R193, R195; 14 R282 to R284; 15 R305, R306; 16 R324 to R334; 24 R361) -/

/-- The threads that an external event is sent to (16 R325). -/
def aimedAt (s : State) (t : Tid) : EventTarget → Prop
  | .warp c x w => t = { core := c, ctx := x, slot := w }
  | .sluice c x => t = sluiceOf c x
  | .allWarps c x => t ∈ s.blockWarps c x

/-- An event trap is pended at every live thread that is meant and has a handler: a pending one of its cause is replaced; at handler level it
becomes pending in header words 6 and 7 of the frame (16 R318, R324), along the scratchpad store path. -/
def pends (meant : Tid → Prop) (cause bit : Nat) (v : Word) (s u : State) : Prop :=
  let struck (t : Tid) : Prop := meant t ∧ (s.thread t).live = true ∧ (s.block t.core t.ctx).tvec ≠ 0#32
  u = { s with threads := u.threads, cores := u.cores }
    ∧ (∀ c, u.core c = { s.core c with stores := (u.core c).stores, seqNo := (u.core c).seqNo })
    ∧ ((∀ t, meant t → (s.thread t).level = false) → u.cores = s.cores)
    ∧ (∀ t, struck t → (s.thread t).level = false → (u.thread t).pending
        = ((s.thread t).pending.filter fun p => p.cause != cause) ++ [{ cause := cause, tval := v, telem := 0 }])
    ∧ (∀ t, struck t → (s.thread t).level = true →
        (u.thread t).pending = (s.thread t).pending ∧ (frameWord u t (frameBase s t) 6).getLsbD bit = true
          ∧ (∀ j, j ≠ bit → (frameWord u t (frameBase s t) 6).getLsbD j = (frameWord s t (frameBase s t) 6).getLsbD j)
          ∧ frameWord u t (frameBase s t) 7 = if cause = 0x0E then v else frameWord s t (frameBase s t) 7)
    ∧ ∀ k : Tid, (∀ t, meant t → t.key ≠ k.key) → u.thread k = s.thread k

/-- The trust die answers a request (15 R306): a phase is reached, and an answer of the given head goes out. -/
def answers (e : Instr) (phase : Nat) (head : State → List Byte) : Prop :=
  brings e (fun s => (s.die 0).lost = false ∧ s.pack.booted ≠ 0) fun s u => ∃ rest, u = { s with
    pack := { s.pack with spdm := max phase s.pack.spdm }, outputs := s.outputs ++ [.spdm (head s ++ rest)] }

/-- Only one link has changed, and becomes as given. -/
def linkBecomes (i : Nat) (s u : State) (x : Link) : Prop :=
  u = { s with pack := { s.pack with links := s.pack.links.set i x } }

/-- A die has none of its two mesh links (16 R334). -/
def cutOff (s : State) (d : Nat) : Prop := (s.die d).lost = false ∧ s.linkUp d = false ∧ s.linkUp ((d + 3) % 4) = false

end Sys2Proof.Claim

/-- 05 R109 to R111, 10 R193, R195, 14 R282 to R284, 15 R305, R306, 16 R324 to R334, 24 R361: granted levels, bands, heat and dies that come
back; quad caches lose ways, sleep and are lost; the matrix mode is written; bring-up and the trust die's answers; timer, external and debug
events; soft errors, lost dies, agents that rejoin, links, and packages out of reach. The model's own choices among them: the header bytes of the
trust die's answers and the fields of ALGORITHMS (log 13, PRESUMED); that WAY_GATE names its lines (log 57), that a window switch has no state
(log 60), that the watchdog period stands in a word of firmware's (log 67), which links a die has, when a retry buffer clears and what a
rejoined agent records (logs 35 and 52). -/
def Obligations.PowerTrustAndRecoveryAct : Prop :=
  (∀ (cores : List Nat) (level : Nat), brings (.grantedLevelWrite cores level) (fun _ => level < 3)
    fun s u => u = { s with cores := u.cores }
      ∧ ∀ c, u.core c = if c ∈ cores then { s.core c with level := BitVec.ofNat 32 level } else s.core c)
  ∧ (∀ (q b : Nat), brings (.bandPowerSwitch q b true) (fun s => (s.quad q).powered.getLsbD b = false)
      (fun s u => onlyQuad q s u ∧ u.quad q = { s.quad q with
        powered := (s.quad q).powered ||| BitVec.ofNat 4 (2 ^ b), ramping := (s.quad q).ramping ++ [(b, s.clk + 2600)] })
    ∧ brings (.bandPowerSwitch q b false) (fun s => s.bandUsed q b = false)
      (fun s u =>
        let off : BitVec 4 := ~~~BitVec.ofNat 4 (2 ^ b)
        u = { s with quads := u.quads, cmds := u.cmds, blocks := u.blocks } ∧ (∀ k, k ≠ q → u.quad k = s.quad k)
          ∧ u.quad q = { s.quad q with powered := (s.quad q).powered &&& off, ramping := (s.quad q).ramping.filter fun r => r.1 != b }
          ∧ u.cmds = (s.cmds.map fun k => if k.core / 4 = q then { k with mask := k.mask &&& off } else k)
          ∧ ∀ p ∈ s.residents, u.block p.1 p.2
              = if p.1 / 4 = q then { s.block p.1 p.2 with bandMask := (s.block p.1 p.2).bandMask &&& off } else s.block p.1 p.2)
    ∧ brings (.bandRampDone q b) (fun s => ∃ r ∈ (s.quad q).ramping, r.1 = b)
      fun s u => onlyQuad q s u ∧ u.quad q = { s.quad q with ramping := (s.quad q).ramping.filter fun r => r.1 != b })
  ∧ (∀ d : Nat,
      (∀ s : State, (s.die d).offline = false → ∃ w : State, exec (.thermalEmergency d) s = .next (w.passRills d)
        ∧ w = { s with dies := w.dies, blocks := w.blocks, outputs := s.outputs ++ [.emergency d] } ∧ w.die d = { s.die d with offline := true }
        ∧ ∀ p ∈ s.residents, p.1 / 64 = d → (w.block p.1 p.2).yield.isSome = true)
      ∧ brings (.dieOnline d) (fun s => (s.die d).offline = true)
        fun s u => onlyDie d s u ∧ u.die d = { s.die d with offline := false })
  ∧ (∀ q : Nat, occurs (.mxWindowSwitch q) (fun _ => True) (fun s => s)
      ∧ (∀ mode win : Word, brings (.mxmodeWrite q mode win) (fun _ => 64 ≤ (win.extractLsb' 0 11).toNat ∧ (win.extractLsb' 0 11).toNat ≤ 1024)
          fun s u => u = { s with cores := u.cores, quads := u.quads }
            ∧ (∀ c, u.core c = if c / 4 = q then { s.core c with mxmode := mode &&& 0x3D#32, mxwin := win &&& 0x7FF#32 } else s.core c)
            ∧ ∀ k, u.quad k = if k = q ∧ mode.getLsbD 0 = true then { s.quad k with
                planeA := Plane.empty, planeB := Plane.empty, latchA := Plane.empty, latchB := Plane.empty,
                active := Plane.empty, shadow := Plane.empty, latched := false } else s.quad k)
      ∧ (∀ keys : List Nat, brings (.wayGate q keys)
          (fun s => ∀ k ∈ keys, (s.qline q k).state = 0 ∧ (s.qline q k).lmask = 0#128)
          fun s u => onlyQuad q s u ∧ u.quad q = { s.quad q with gated := (s.quad q).gated + 1 })
      ∧ (∀ k : Nat, brings (.wayGate q [k])
          (fun s => ((s.qline q k).state ≠ 0 ∨ (s.qline q k).lmask ≠ 0#128) ∧ s.lineBusy q k = true)
          fun s u => u = { s with outputs := s.outputs ++ [.gateDenied q k] })
      ∧ (∀ k : Nat, occurs (.wayGate q [k])
          (fun s => ((s.qline q k).state ≠ 0 ∨ (s.qline q k).lmask ≠ 0#128) ∧ s.lineBusy q k = false)
          fun s => ((s.purgeLine q k).poisonHome (s.qline q k).fn k (s.qline q k).poison).modQuad q fun x => { x with gated := x.gated + 1 })
      ∧ brings (.quadCacheSleep q) (fun s => s.maySleep q = true) (fun _ u => (u.quad q).asleep = true)
      ∧ brings (.quadCacheLoss q) (fun s => (s.quad q).lost = false)
        (fun _ u => (∀ g ∈ u.grants, g.quad ≠ q) ∧ (u.quad q).lines = [] ∧ (u.quad q).grants = [] ∧ (u.quad q).grantWant = []
          ∧ (u.quad q).asleep = false ∧ (u.quad q).lost = true)
      ∧ brings (.agentRejoin (.quadCache q)) (fun s => (s.quad q).lost = true ∧ (s.die (q / 16)).lost = false)
        fun s u => (u.quad q).lines = [] ∧ (u.quad q).grants = [] ∧ (u.quad q).grantWant = []
          ∧ (u.quad q).asleep = false ∧ (u.quad q).lost = false
          ∧ (u.quad q).incarnation = ((s.spliceOut q).quad q).incarnation + 1#16
          ∧ ∀ d, d < 4 → Tab.get 0#16 (u.die d).known q = (u.quad q).incarnation)
  ∧ (∀ pass : List Bool, brings (.powerOn pass) (fun s => s.pack.booted = 0)
      fun s u => u.pack.booted = 6 ∧ (∀ d, d < 4 → u.pack.dies.getLsbD d = pass.getD d false) ∧ u.pack.retry = !pass.getD 0 false
        ∧ u.pack.protos = [none, none, none] ∧ u.pack.slotstat = 0#32 ∧ u.binds = [] ∧ u.pack.records = (List.range 4).map Config.recordArea
        ∧ u.pack.capList = capWords 0x800 u.pack.units ∧ u.pack.measures.length = 10
        ∧ (∀ i, 7 ≤ i → i < 10 → u.pack.measures.getD i [] = List.replicate 32 0#8)
        ∧ (∀ l ∈ u.pack.links, l.checked = true)
        ∧ ∀ k, u.fn k = if k = 0 then { Function.reset with enabled := true, keyGen := s.pack.keySeq + 1 } else Function.reset)
  ∧ (answers .getVersion 1 (fun _ => [0x10#8, 0x04#8, 0#8, 0#8, 0#8, 1#8, 0x00#8, 0x13#8])
    ∧ answers .getCapabilities 2 (fun _ => [0x13#8, 0x61#8, 0#8, 0#8]) ∧ answers .negotiateAlgorithms 3 (fun _ => [0x13#8, 0x63#8, 0#8, 0#8,
        36#8, 0#8, 1#8, 0#8, 0x80#8, 0#8, 0#8, 0#8, 0#8, 0x02#8, 0#8, 0#8, 0x40#8, 0#8, 0#8, 0#8])
    ∧ answers .getDigests 0 (fun _ => [0x13#8, 0x01#8, 0#8, 1#8])
    ∧ (∀ slot off len : Nat, answers (.getCertificate slot off len) 0 fun _ =>
        [0x13#8, 0x02#8, BitVec.ofNat 8 slot, 0#8, BitVec.ofNat 8 len, BitVec.ofNat 8 (len / 256), 0#8, 0#8])
    ∧ (∀ nonce : List Byte, answers (.challenge nonce) 0 fun _ => [0x13#8, 0x03#8, 0#8, 1#8])
    ∧ (∀ nonce : List Byte, answers (.getMeasurements 0 nonce) 0 fun s => [0x13#8, 0x60#8, BitVec.ofNat 8 s.pack.measures.length, 0#8] ++ nonce)
    ∧ (∀ (i : Nat) (nonce : List Byte), 1 ≤ i → i < 255 → answers (.getMeasurements i nonce) 0 fun s => [0x13#8, 0x60#8, 0#8, 0#8]
        ++ (if i ≤ s.pack.measures.length then BitVec.ofNat 8 i :: s.pack.measures.getD (i - 1) [] else []) ++ nonce)
    ∧ (∀ nonce : List Byte, answers (.getMeasurements 255 nonce) 0 fun s => [0x13#8, 0x60#8, 0#8, 0#8]
        ++ ((List.range s.pack.measures.length).flatMap fun i => BitVec.ofNat 8 (i + 1) :: s.pack.measures.getD i []) ++ nonce)
    ∧ ∀ code : Nat, answers (.spdmUnsupported code) 0 fun _ => [0x13#8, 0x7F#8, 0x07#8, BitVec.ofNat 8 code])
  ∧ (∀ cores : List Nat, brings (.timerEvent cores) (fun _ => True) fun s u => pends (fun t => ∃ c ∈ cores, t ∈ s.coreThreads c) 0x0D 0 0#32 s u)
  ∧ (∀ (target : EventTarget) (v : Word), brings (.externalEvent target v) (fun _ => True)
      fun s u => pends (fun t => aimedAt s t target) 0x0E 1 v s u)
  ∧ (∀ c : Nat, (∀ w : Word, brings (.dbgctlWrite c w) (fun _ => True)
          fun s u => onlyCore c s u ∧ u.core c = { s.core c with dbgctl := w &&& 0x7F07#32 })
      ∧ (∀ w : Word, c < 256 → brings (.registerWrite 0 (2 ^ 21 + 4 * c) w) (fun _ => True)
          fun s u => onlyCore c s u ∧ u.core c = { s.core c with watchdog := w.toNat })
      ∧ brings (.debugResume c) (fun _ => True) fun s u => u = { s with cores := u.cores, threads := u.threads }
        ∧ u.core c = { s.core c with stopped := false } ∧ ∀ t ∈ s.coreThreads c, (u.thread t).dbgStop = false)
  ∧ (∀ site : ErrorSite,
      let die := (errorPlace site).1
      let i := (errorPlace site).2
      let up (w : Word) : Word := if w = 0xFFFFFFFF#32 then w else w + 1#32
      brings (.softError site false) (fun _ => True)
        (fun s u => onlyDie die s u ∧ u.die die = { s.die die with corr := (s.die die).corr.set i (up ((s.die die).corr.getD i 0#32)) })
      ∧ ∀ s : State, ∃ w : State, exec (.softError site true) s = .next (w.strike site) ∧ onlyDie die s w
        ∧ w.die die = { s.die die with uncorr := (s.die die).uncorr.set i (up ((s.die die).uncorr.getD i 0#32)) })
  ∧ (∀ d : Nat, occurs (.dieLoss d) (fun s => d < 4 ∧ (s.die d).lost = false) (fun s => s.loseDie d)
      ∧ brings (.agentRejoin (.die d)) (fun s => (s.die d).lost = true)
        fun s u => u = { s with quads := u.quads, cores := u.cores, dispatchers := u.dispatchers, dies := u.dies }
          ∧ (∀ i, i < 16 → u.quad (d * 16 + i) = { Quad.reset with incarnation := (s.quad (d * 16 + i)).incarnation + 1#16 })
          ∧ (∀ i, i < 64 → u.core (d * 64 + i) = Core.reset) ∧ Tab.get Dispatcher.reset u.dispatchers d = Dispatcher.reset
          ∧ (d < 4 → ∀ e, e < 4 → Tab.get 0#16 (u.die e).known (64 + d) = (s.die d).incarnation + 1#16
              ∧ ∀ i, i < 16 → Tab.get 0#16 (u.die e).known (d * 16 + i) = (s.quad (d * 16 + i)).incarnation + 1#16)
          ∧ u.die d = { Die.reset with
              incarnation := (s.die d).incarnation + 1#16, known := (u.die d).known, applied := s.pack.invSeq, corr := (s.die d).corr, uncorr := (s.die d).uncorr,
              offline := (s.die d).offline })
  ∧ (∀ i : Nat,
      let link (s : State) : Link := s.pack.links.getD i Link.reset
      let replays (s : State) : Link := { link s with unacked := (link s).unacked ++ [(link s).flit], flit := (link s).flit + 1 }
      brings (.linkCrcError i) (fun s => s.linkUp i = true) (fun s u => linkBecomes i s u (replays s))
      ∧ (∀ width, width = 4 ∨ width = 2 ∨ width = 1 → brings (.linkWidthChange i width) (fun s => s.linkUp i = true)
          fun s u => linkBecomes i s u { replays s with width := width })
      ∧ ∀ s w : State, i < 4 → s.linkUp i = true → linkBecomes i s w { replays s with up := false } →
          ((∀ d, d < 4 → ¬ cutOff w d) → exec (.linkDown i) s = .next w)
          ∧ exec (.linkDown i) s = .next ((List.range 4).foldl (fun v d =>
              if !(v.die d).lost && !v.linkUp d && !v.linkUp ((d + 3) % 4) then v.loseDie d else v) w))
  ∧ ∀ p : Nat, occurs (.podRouteLost p) (fun s => p ∉ s.pack.lostPods)
      fun s => let w : State := { s with pack := { s.pack with lostPods := s.pack.lostPods ++ [p] } }
        (w.homedAway p).foldl (fun s f => s.fence f) w
end

