-- ==== Sys2Proof/Laws/Tab.lean ====
section
/-! SUPPORT. Sparse tables: reading after writing, and the canonical form kept by every operation (and so by memories). -/

namespace Sys2Proof.Machine

/-- Every listed key is at least `lo`. -/
def Tab.from_ {α : Type} (lo : Nat) (m : Tab α) : Prop := ∀ e ∈ m, lo ≤ e.1

@[simp] theorem Tab.get_nil {α : Type} (d : α) (k : Nat) : Tab.get d [] k = d := rfl

theorem Tab.get_insert_self {α : Type} (d : α) (m : Tab α) (k : Nat) (v : α) : Tab.get d (Tab.insert m k v) k = v := by
  induction m with
  | nil => simp [Tab.insert, Tab.get]
  | cons e r ih =>
    simp only [Tab.insert]
    split
    · simp [Tab.get]
    · split
      · simp [Tab.get]
      · rename_i h1 h2
        simp [Tab.get, Ne.symm h2, ih]

theorem Tab.get_insert_other {α : Type} (d : α) (m : Tab α) {k j : Nat} (v : α) (h : j ≠ k) :
    Tab.get d (Tab.insert m k v) j = Tab.get d m j := by
  induction m with
  | nil => simp [Tab.insert, Tab.get, Ne.symm h]
  | cons e r ih =>
    simp only [Tab.insert]
    split
    · simp [Tab.get, Ne.symm h]
    · split
      · rename_i _ h2
        subst h2
        simp [Tab.get, Ne.symm h]
      · simp [Tab.get, ih]

theorem Tab.get_erase_self {α : Type} (d : α) (m : Tab α) (k : Nat) : Tab.get d (Tab.erase m k) k = d := by
  induction m with
  | nil => rfl
  | cons e r ih =>
    by_cases he : e.1 = k
    · simpa [Tab.erase, he] using ih
    · simpa [Tab.erase, he, Tab.get] using ih

theorem Tab.get_erase_other {α : Type} (d : α) (m : Tab α) {k j : Nat} (h : j ≠ k) :
    Tab.get d (Tab.erase m k) j = Tab.get d m j := by
  induction m with
  | nil => rfl
  | cons e r ih =>
    by_cases he : e.1 = k
    · simpa [Tab.erase, he, Tab.get, Ne.symm h] using ih
    · have ih' : Tab.get d (List.filter (fun x => x.1 != k) r) j = Tab.get d r j := ih
      simp [Tab.erase, he, Tab.get, ih']

/-- A table reads back what was last written at a key. -/
@[simp] theorem Tab.get_set_self {α : Type} [DecidableEq α] (d : α) (m : Tab α) (k : Nat) (v : α) :
    Tab.get d (Tab.set d m k v) k = v := by
  unfold Tab.set
  split
  · rename_i h
    rw [Tab.get_erase_self, h]
  · exact Tab.get_insert_self d m k v

/-- A write at one key leaves every other key alone. -/
theorem Tab.get_set_other {α : Type} [DecidableEq α] (d : α) (m : Tab α) {k j : Nat} (v : α) (h : j ≠ k) :
    Tab.get d (Tab.set d m k v) j = Tab.get d m j := by
  unfold Tab.set
  split
  · exact Tab.get_erase_other d m h
  · exact Tab.get_insert_other d m v h

/-! ## The canonical form -/

theorem Tab.sorted_cons {α : Type} (e : Nat × α) (m : Tab α) :
    Tab.sorted (e :: m) = true ↔ Tab.from_ (e.1 + 1) m ∧ Tab.sorted m = true := by
  induction m generalizing e with
  | nil => simp [Tab.sorted, Tab.from_]
  | cons f r ih =>
    obtain ⟨j, v⟩ := e
    obtain ⟨k, u⟩ := f
    simp only [Tab.sorted, Bool.and_eq_true, decide_eq_true_eq]
    constructor
    · rintro ⟨h1, h2⟩
      refine ⟨?_, h2⟩
      intro x hx
      rcases List.mem_cons.1 hx with rfl | hx
      · exact h1
      · have := ((ih (k, u)).1 h2).1 x hx
        simp only at this ⊢
        omega
    · rintro ⟨h1, h2⟩
      exact ⟨h1 (k, u) (List.mem_cons_self ..), h2⟩

theorem Tab.from_erase {α : Type} {lo : Nat} {m : Tab α} (h : Tab.from_ lo m) (k : Nat) : Tab.from_ lo (Tab.erase m k) :=
  fun e he => h e ((List.mem_filter.1 he).1)

theorem Tab.from_insert {α : Type} {lo : Nat} {m : Tab α} (h : Tab.from_ lo m) {k : Nat} (hk : lo ≤ k) (v : α) :
    Tab.from_ lo (Tab.insert m k v) := by
  induction m with
  | nil => simpa [Tab.insert, Tab.from_] using hk
  | cons e r ih =>
    have hr : Tab.from_ lo r := fun x hx => h x (List.mem_cons_of_mem _ hx)
    have he : lo ≤ e.1 := h e (List.mem_cons_self ..)
    simp only [Tab.insert]
    intro x hx
    split at hx
    · rcases List.mem_cons.1 hx with rfl | hx
      · exact hk
      · exact h x hx
    · split at hx
      · rcases List.mem_cons.1 hx with rfl | hx
        · exact hk
        · exact hr x hx
      · rcases List.mem_cons.1 hx with rfl | hx
        · exact he
        · exact ih hr x hx

theorem Tab.sorted_erase {α : Type} {m : Tab α} (h : Tab.sorted m = true) (k : Nat) : Tab.sorted (Tab.erase m k) = true := by
  induction m with
  | nil => rfl
  | cons e r ih =>
    obtain ⟨h1, h2⟩ := (Tab.sorted_cons e r).1 h
    by_cases he : e.1 = k
    · simpa [Tab.erase, he] using ih h2
    · have : Tab.erase (e :: r) k = e :: Tab.erase r k := by simp [Tab.erase, he]
      rw [this, Tab.sorted_cons]
      exact ⟨Tab.from_erase h1 k, ih h2⟩

theorem Tab.sorted_insert {α : Type} {m : Tab α} (h : Tab.sorted m = true) (k : Nat) (v : α) :
    Tab.sorted (Tab.insert m k v) = true := by
  induction m with
  | nil => rfl
  | cons e r ih =>
    obtain ⟨h1, h2⟩ := (Tab.sorted_cons e r).1 h
    simp only [Tab.insert]
    split
    · rename_i hk
      rw [Tab.sorted_cons]
      refine ⟨?_, h⟩
      intro x hx
      rcases List.mem_cons.1 hx with rfl | hx
      · exact hk
      · have := h1 x hx
        simp only at this ⊢
        omega
    · split
      · rename_i hk
        subst hk
        rw [Tab.sorted_cons]
        exact ⟨h1, h2⟩
      · rename_i hk hne
        rw [Tab.sorted_cons]
        exact ⟨Tab.from_insert h1 (by omega) v, ih h2⟩

theorem Tab.all_insert {α : Type} {p : Nat × α → Bool} {m : Tab α} (h : m.all p = true) {k : Nat} {v : α} (hv : p (k, v) = true) :
    (Tab.insert m k v).all p = true := by
  induction m with
  | nil => simp [Tab.insert, hv]
  | cons e r ih =>
    simp only [List.all_cons, Bool.and_eq_true] at h
    simp only [Tab.insert]
    split
    · simp [hv, h.1, h.2]
    · split
      · simp [hv, h.2]
      · simp [h.1, ih h.2]

/-- Writing one key keeps the canonical form. -/
theorem Tab.wf_set {α : Type} [DecidableEq α] {d : α} {m : Tab α} (h : Tab.wf d m = true) (k : Nat) (v : α) :
    Tab.wf d (Tab.set d m k v) = true := by
  simp only [Tab.wf, Bool.and_eq_true] at h ⊢
  unfold Tab.set
  split
  · refine ⟨Tab.sorted_erase h.1 k, ?_⟩
    rw [List.all_eq_true] at h ⊢
    exact fun e he => h.2 e ((List.mem_filter.1 he).1)
  · rename_i hv
    exact ⟨Tab.sorted_insert h.1 k v, Tab.all_insert h.2 (by simpa using hv)⟩

/-- Unlisting a key keeps the canonical form. -/
theorem Tab.wf_erase {α : Type} [DecidableEq α] {d : α} {m : Tab α} (h : Tab.wf d m = true) (k : Nat) :
    Tab.wf d (Tab.erase m k) = true := by
  simp only [Tab.wf, Bool.and_eq_true] at h ⊢
  refine ⟨Tab.sorted_erase h.1 k, ?_⟩
  rw [List.all_eq_true] at h ⊢
  exact fun e he => h.2 e ((List.mem_filter.1 he).1)

/-! ## Memories -/

@[simp] theorem memGet_memSet_self (m : List Host.Cell) (a : Nat) (b : Byte) : memGet (memSet m a b) a = b :=
  Tab.get_set_self 0#8 m a b

theorem memGet_memSet_other (m : List Host.Cell) {a c : Nat} (b : Byte) (h : c ≠ a) : memGet (memSet m a b) c = memGet m c :=
  Tab.get_set_other 0#8 m b h

/-- Writing a byte keeps a memory in canonical form. -/
theorem Memory.wf_memSet {m : List Host.Cell} (h : Memory.wf m = true) (a : Nat) (b : Byte) : Memory.wf (memSet m a b) = true :=
  Tab.wf_set h a b

/-- Writing bytes keeps a memory in canonical form. -/
theorem Memory.wf_memWrite {m : List Host.Cell} (h : Memory.wf m = true) (cells : List Host.Cell) :
    Memory.wf (memWrite m cells) = true := by
  induction cells generalizing m with
  | nil => exact h
  | cons c r ih => exact ih (Memory.wf_memSet h c.1 c.2)

/-- A write of bytes leaves alone every address that it does not name. -/
theorem memGet_memWrite_other (m : List Host.Cell) (cells : List Host.Cell) {a : Nat} (h : ∀ c ∈ cells, c.1 ≠ a) :
    memGet (memWrite m cells) a = memGet m a := by
  induction cells generalizing m with
  | nil => rfl
  | cons c r ih =>
    have := ih (memSet m c.1 c.2) fun x hx => h x (List.mem_cons_of_mem _ hx)
    rw [show memWrite m (c :: r) = memWrite (memSet m c.1 c.2) r from rfl, this]
    exact memGet_memSet_other m c.2 (Ne.symm (h c (List.mem_cons_self ..)))

end Sys2Proof.Machine
end

