-- ==== Sys2Proof/Laws/State.lean ====
section
/-! SUPPORT. What each named update of the state leaves alone, field by field, and what it reads back. -/

namespace Sys2Proof.Machine

/-! ## Thread -/

@[simp] theorem State.setThread_pack (s : State) (t : Tid) (x_ : Thread) : (s.setThread t x_).pack = s.pack := rfl
@[simp] theorem State.modThread_pack (s : State) (t : Tid) (g_ : Thread → Thread) : (s.modThread t g_).pack = s.pack := rfl
@[simp] theorem State.setThread_clk (s : State) (t : Tid) (x_ : Thread) : (s.setThread t x_).clk = s.clk := rfl
@[simp] theorem State.modThread_clk (s : State) (t : Tid) (g_ : Thread → Thread) : (s.modThread t g_).clk = s.clk := rfl
@[simp] theorem State.setThread_fns (s : State) (t : Tid) (x_ : Thread) : (s.setThread t x_).fns = s.fns := rfl
@[simp] theorem State.modThread_fns (s : State) (t : Tid) (g_ : Thread → Thread) : (s.modThread t g_).fns = s.fns := rfl
@[simp] theorem State.setThread_binds (s : State) (t : Tid) (x_ : Thread) : (s.setThread t x_).binds = s.binds := rfl
@[simp] theorem State.modThread_binds (s : State) (t : Tid) (g_ : Thread → Thread) : (s.modThread t g_).binds = s.binds := rfl
@[simp] theorem State.setThread_launches (s : State) (t : Tid) (x_ : Thread) : (s.setThread t x_).launches = s.launches := rfl
@[simp] theorem State.modThread_launches (s : State) (t : Tid) (g_ : Thread → Thread) : (s.modThread t g_).launches = s.launches := rfl
@[simp] theorem State.setThread_nextLid (s : State) (t : Tid) (x_ : Thread) : (s.setThread t x_).nextLid = s.nextLid := rfl
@[simp] theorem State.modThread_nextLid (s : State) (t : Tid) (g_ : Thread → Thread) : (s.modThread t g_).nextLid = s.nextLid := rfl
@[simp] theorem State.setThread_dispatchers (s : State) (t : Tid) (x_ : Thread) : (s.setThread t x_).dispatchers = s.dispatchers := rfl
@[simp] theorem State.modThread_dispatchers (s : State) (t : Tid) (g_ : Thread → Thread) : (s.modThread t g_).dispatchers = s.dispatchers := rfl
@[simp] theorem State.setThread_cores (s : State) (t : Tid) (x_ : Thread) : (s.setThread t x_).cores = s.cores := rfl
@[simp] theorem State.modThread_cores (s : State) (t : Tid) (g_ : Thread → Thread) : (s.modThread t g_).cores = s.cores := rfl
@[simp] theorem State.setThread_quads (s : State) (t : Tid) (x_ : Thread) : (s.setThread t x_).quads = s.quads := rfl
@[simp] theorem State.modThread_quads (s : State) (t : Tid) (g_ : Thread → Thread) : (s.modThread t g_).quads = s.quads := rfl
@[simp] theorem State.setThread_dies (s : State) (t : Tid) (x_ : Thread) : (s.setThread t x_).dies = s.dies := rfl
@[simp] theorem State.modThread_dies (s : State) (t : Tid) (g_ : Thread → Thread) : (s.modThread t g_).dies = s.dies := rfl
@[simp] theorem State.setThread_blocks (s : State) (t : Tid) (x_ : Thread) : (s.setThread t x_).blocks = s.blocks := rfl
@[simp] theorem State.modThread_blocks (s : State) (t : Tid) (g_ : Thread → Thread) : (s.modThread t g_).blocks = s.blocks := rfl
@[simp] theorem State.setThread_cmds (s : State) (t : Tid) (x_ : Thread) : (s.setThread t x_).cmds = s.cmds := rfl
@[simp] theorem State.modThread_cmds (s : State) (t : Tid) (g_ : Thread → Thread) : (s.modThread t g_).cmds = s.cmds := rfl
@[simp] theorem State.setThread_grants (s : State) (t : Tid) (x_ : Thread) : (s.setThread t x_).grants = s.grants := rfl
@[simp] theorem State.modThread_grants (s : State) (t : Tid) (g_ : Thread → Thread) : (s.modThread t g_).grants = s.grants := rfl
@[simp] theorem State.setThread_weirs (s : State) (t : Tid) (x_ : Thread) : (s.setThread t x_).weirs = s.weirs := rfl
@[simp] theorem State.modThread_weirs (s : State) (t : Tid) (g_ : Thread → Thread) : (s.modThread t g_).weirs = s.weirs := rfl
@[simp] theorem State.setThread_nextGen (s : State) (t : Tid) (x_ : Thread) : (s.setThread t x_).nextGen = s.nextGen := rfl
@[simp] theorem State.modThread_nextGen (s : State) (t : Tid) (g_ : Thread → Thread) : (s.modThread t g_).nextGen = s.nextGen := rfl
@[simp] theorem State.setThread_saved (s : State) (t : Tid) (x_ : Thread) : (s.setThread t x_).saved = s.saved := rfl
@[simp] theorem State.modThread_saved (s : State) (t : Tid) (g_ : Thread → Thread) : (s.modThread t g_).saved = s.saved := rfl
@[simp] theorem State.setThread_mem (s : State) (t : Tid) (x_ : Thread) : (s.setThread t x_).mem = s.mem := rfl
@[simp] theorem State.modThread_mem (s : State) (t : Tid) (g_ : Thread → Thread) : (s.modThread t g_).mem = s.mem := rfl
@[simp] theorem State.setThread_sectors (s : State) (t : Tid) (x_ : Thread) : (s.setThread t x_).sectors = s.sectors := rfl
@[simp] theorem State.modThread_sectors (s : State) (t : Tid) (g_ : Thread → Thread) : (s.modThread t g_).sectors = s.sectors := rfl
@[simp] theorem State.setThread_poison (s : State) (t : Tid) (x_ : Thread) : (s.setThread t x_).poison = s.poison := rfl
@[simp] theorem State.modThread_poison (s : State) (t : Tid) (g_ : Thread → Thread) : (s.modThread t g_).poison = s.poison := rfl
@[simp] theorem State.setThread_hostMem (s : State) (t : Tid) (x_ : Thread) : (s.setThread t x_).hostMem = s.hostMem := rfl
@[simp] theorem State.modThread_hostMem (s : State) (t : Tid) (g_ : Thread → Thread) : (s.modThread t g_).hostMem = s.hostMem := rfl
@[simp] theorem State.setThread_outputs (s : State) (t : Tid) (x_ : Thread) : (s.setThread t x_).outputs = s.outputs := rfl
@[simp] theorem State.modThread_outputs (s : State) (t : Tid) (g_ : Thread → Thread) : (s.modThread t g_).outputs = s.outputs := rfl
@[simp] theorem State.setThread_agenda (s : State) (t : Tid) (x_ : Thread) : (s.setThread t x_).agenda = s.agenda := rfl
@[simp] theorem State.modThread_agenda (s : State) (t : Tid) (g_ : Thread → Thread) : (s.modThread t g_).agenda = s.agenda := rfl
@[simp] theorem State.setThread_draws (s : State) (t : Tid) (x_ : Thread) : (s.setThread t x_).draws = s.draws := rfl
@[simp] theorem State.modThread_draws (s : State) (t : Tid) (g_ : Thread → Thread) : (s.modThread t g_).draws = s.draws := rfl
@[simp] theorem State.setThread_settled (s : State) (t : Tid) (x_ : Thread) : (s.setThread t x_).settled = s.settled := rfl
@[simp] theorem State.modThread_settled (s : State) (t : Tid) (g_ : Thread → Thread) : (s.modThread t g_).settled = s.settled := rfl
@[simp] theorem State.setThread_cur (s : State) (t : Tid) (x_ : Thread) : (s.setThread t x_).cur = s.cur := rfl
@[simp] theorem State.modThread_cur (s : State) (t : Tid) (g_ : Thread → Thread) : (s.modThread t g_).cur = s.cur := rfl

/-! ## Block -/

@[simp] theorem State.setBlock_pack (s : State) (c x : Nat) (x_ : Block) : (s.setBlock c x x_).pack = s.pack := rfl
@[simp] theorem State.modBlock_pack (s : State) (c x : Nat) (g_ : Block → Block) : (s.modBlock c x g_).pack = s.pack := rfl
@[simp] theorem State.setBlock_clk (s : State) (c x : Nat) (x_ : Block) : (s.setBlock c x x_).clk = s.clk := rfl
@[simp] theorem State.modBlock_clk (s : State) (c x : Nat) (g_ : Block → Block) : (s.modBlock c x g_).clk = s.clk := rfl
@[simp] theorem State.setBlock_fns (s : State) (c x : Nat) (x_ : Block) : (s.setBlock c x x_).fns = s.fns := rfl
@[simp] theorem State.modBlock_fns (s : State) (c x : Nat) (g_ : Block → Block) : (s.modBlock c x g_).fns = s.fns := rfl
@[simp] theorem State.setBlock_binds (s : State) (c x : Nat) (x_ : Block) : (s.setBlock c x x_).binds = s.binds := rfl
@[simp] theorem State.modBlock_binds (s : State) (c x : Nat) (g_ : Block → Block) : (s.modBlock c x g_).binds = s.binds := rfl
@[simp] theorem State.setBlock_launches (s : State) (c x : Nat) (x_ : Block) : (s.setBlock c x x_).launches = s.launches := rfl
@[simp] theorem State.modBlock_launches (s : State) (c x : Nat) (g_ : Block → Block) : (s.modBlock c x g_).launches = s.launches := rfl
@[simp] theorem State.setBlock_nextLid (s : State) (c x : Nat) (x_ : Block) : (s.setBlock c x x_).nextLid = s.nextLid := rfl
@[simp] theorem State.modBlock_nextLid (s : State) (c x : Nat) (g_ : Block → Block) : (s.modBlock c x g_).nextLid = s.nextLid := rfl
@[simp] theorem State.setBlock_dispatchers (s : State) (c x : Nat) (x_ : Block) : (s.setBlock c x x_).dispatchers = s.dispatchers := rfl
@[simp] theorem State.modBlock_dispatchers (s : State) (c x : Nat) (g_ : Block → Block) : (s.modBlock c x g_).dispatchers = s.dispatchers := rfl
@[simp] theorem State.setBlock_cores (s : State) (c x : Nat) (x_ : Block) : (s.setBlock c x x_).cores = s.cores := rfl
@[simp] theorem State.modBlock_cores (s : State) (c x : Nat) (g_ : Block → Block) : (s.modBlock c x g_).cores = s.cores := rfl
@[simp] theorem State.setBlock_quads (s : State) (c x : Nat) (x_ : Block) : (s.setBlock c x x_).quads = s.quads := rfl
@[simp] theorem State.modBlock_quads (s : State) (c x : Nat) (g_ : Block → Block) : (s.modBlock c x g_).quads = s.quads := rfl
@[simp] theorem State.setBlock_dies (s : State) (c x : Nat) (x_ : Block) : (s.setBlock c x x_).dies = s.dies := rfl
@[simp] theorem State.modBlock_dies (s : State) (c x : Nat) (g_ : Block → Block) : (s.modBlock c x g_).dies = s.dies := rfl
@[simp] theorem State.setBlock_threads (s : State) (c x : Nat) (x_ : Block) : (s.setBlock c x x_).threads = s.threads := rfl
@[simp] theorem State.modBlock_threads (s : State) (c x : Nat) (g_ : Block → Block) : (s.modBlock c x g_).threads = s.threads := rfl
@[simp] theorem State.setBlock_cmds (s : State) (c x : Nat) (x_ : Block) : (s.setBlock c x x_).cmds = s.cmds := rfl
@[simp] theorem State.modBlock_cmds (s : State) (c x : Nat) (g_ : Block → Block) : (s.modBlock c x g_).cmds = s.cmds := rfl
@[simp] theorem State.setBlock_grants (s : State) (c x : Nat) (x_ : Block) : (s.setBlock c x x_).grants = s.grants := rfl
@[simp] theorem State.modBlock_grants (s : State) (c x : Nat) (g_ : Block → Block) : (s.modBlock c x g_).grants = s.grants := rfl
@[simp] theorem State.setBlock_weirs (s : State) (c x : Nat) (x_ : Block) : (s.setBlock c x x_).weirs = s.weirs := rfl
@[simp] theorem State.modBlock_weirs (s : State) (c x : Nat) (g_ : Block → Block) : (s.modBlock c x g_).weirs = s.weirs := rfl
@[simp] theorem State.setBlock_nextGen (s : State) (c x : Nat) (x_ : Block) : (s.setBlock c x x_).nextGen = s.nextGen := rfl
@[simp] theorem State.modBlock_nextGen (s : State) (c x : Nat) (g_ : Block → Block) : (s.modBlock c x g_).nextGen = s.nextGen := rfl
@[simp] theorem State.setBlock_saved (s : State) (c x : Nat) (x_ : Block) : (s.setBlock c x x_).saved = s.saved := rfl
@[simp] theorem State.modBlock_saved (s : State) (c x : Nat) (g_ : Block → Block) : (s.modBlock c x g_).saved = s.saved := rfl
@[simp] theorem State.setBlock_mem (s : State) (c x : Nat) (x_ : Block) : (s.setBlock c x x_).mem = s.mem := rfl
@[simp] theorem State.modBlock_mem (s : State) (c x : Nat) (g_ : Block → Block) : (s.modBlock c x g_).mem = s.mem := rfl
@[simp] theorem State.setBlock_sectors (s : State) (c x : Nat) (x_ : Block) : (s.setBlock c x x_).sectors = s.sectors := rfl
@[simp] theorem State.modBlock_sectors (s : State) (c x : Nat) (g_ : Block → Block) : (s.modBlock c x g_).sectors = s.sectors := rfl
@[simp] theorem State.setBlock_poison (s : State) (c x : Nat) (x_ : Block) : (s.setBlock c x x_).poison = s.poison := rfl
@[simp] theorem State.modBlock_poison (s : State) (c x : Nat) (g_ : Block → Block) : (s.modBlock c x g_).poison = s.poison := rfl
@[simp] theorem State.setBlock_hostMem (s : State) (c x : Nat) (x_ : Block) : (s.setBlock c x x_).hostMem = s.hostMem := rfl
@[simp] theorem State.modBlock_hostMem (s : State) (c x : Nat) (g_ : Block → Block) : (s.modBlock c x g_).hostMem = s.hostMem := rfl
@[simp] theorem State.setBlock_outputs (s : State) (c x : Nat) (x_ : Block) : (s.setBlock c x x_).outputs = s.outputs := rfl
@[simp] theorem State.modBlock_outputs (s : State) (c x : Nat) (g_ : Block → Block) : (s.modBlock c x g_).outputs = s.outputs := rfl
@[simp] theorem State.setBlock_agenda (s : State) (c x : Nat) (x_ : Block) : (s.setBlock c x x_).agenda = s.agenda := rfl
@[simp] theorem State.modBlock_agenda (s : State) (c x : Nat) (g_ : Block → Block) : (s.modBlock c x g_).agenda = s.agenda := rfl
@[simp] theorem State.setBlock_draws (s : State) (c x : Nat) (x_ : Block) : (s.setBlock c x x_).draws = s.draws := rfl
@[simp] theorem State.modBlock_draws (s : State) (c x : Nat) (g_ : Block → Block) : (s.modBlock c x g_).draws = s.draws := rfl
@[simp] theorem State.setBlock_settled (s : State) (c x : Nat) (x_ : Block) : (s.setBlock c x x_).settled = s.settled := rfl
@[simp] theorem State.modBlock_settled (s : State) (c x : Nat) (g_ : Block → Block) : (s.modBlock c x g_).settled = s.settled := rfl
@[simp] theorem State.setBlock_cur (s : State) (c x : Nat) (x_ : Block) : (s.setBlock c x x_).cur = s.cur := rfl
@[simp] theorem State.modBlock_cur (s : State) (c x : Nat) (g_ : Block → Block) : (s.modBlock c x g_).cur = s.cur := rfl

/-! ## Core -/

@[simp] theorem State.setCore_pack (s : State) (c : Nat) (x_ : Core) : (s.setCore c x_).pack = s.pack := rfl
@[simp] theorem State.modCore_pack (s : State) (c : Nat) (g_ : Core → Core) : (s.modCore c g_).pack = s.pack := rfl
@[simp] theorem State.setCore_clk (s : State) (c : Nat) (x_ : Core) : (s.setCore c x_).clk = s.clk := rfl
@[simp] theorem State.modCore_clk (s : State) (c : Nat) (g_ : Core → Core) : (s.modCore c g_).clk = s.clk := rfl
@[simp] theorem State.setCore_fns (s : State) (c : Nat) (x_ : Core) : (s.setCore c x_).fns = s.fns := rfl
@[simp] theorem State.modCore_fns (s : State) (c : Nat) (g_ : Core → Core) : (s.modCore c g_).fns = s.fns := rfl
@[simp] theorem State.setCore_binds (s : State) (c : Nat) (x_ : Core) : (s.setCore c x_).binds = s.binds := rfl
@[simp] theorem State.modCore_binds (s : State) (c : Nat) (g_ : Core → Core) : (s.modCore c g_).binds = s.binds := rfl
@[simp] theorem State.setCore_launches (s : State) (c : Nat) (x_ : Core) : (s.setCore c x_).launches = s.launches := rfl
@[simp] theorem State.modCore_launches (s : State) (c : Nat) (g_ : Core → Core) : (s.modCore c g_).launches = s.launches := rfl
@[simp] theorem State.setCore_nextLid (s : State) (c : Nat) (x_ : Core) : (s.setCore c x_).nextLid = s.nextLid := rfl
@[simp] theorem State.modCore_nextLid (s : State) (c : Nat) (g_ : Core → Core) : (s.modCore c g_).nextLid = s.nextLid := rfl
@[simp] theorem State.setCore_dispatchers (s : State) (c : Nat) (x_ : Core) : (s.setCore c x_).dispatchers = s.dispatchers := rfl
@[simp] theorem State.modCore_dispatchers (s : State) (c : Nat) (g_ : Core → Core) : (s.modCore c g_).dispatchers = s.dispatchers := rfl
@[simp] theorem State.setCore_quads (s : State) (c : Nat) (x_ : Core) : (s.setCore c x_).quads = s.quads := rfl
@[simp] theorem State.modCore_quads (s : State) (c : Nat) (g_ : Core → Core) : (s.modCore c g_).quads = s.quads := rfl
@[simp] theorem State.setCore_dies (s : State) (c : Nat) (x_ : Core) : (s.setCore c x_).dies = s.dies := rfl
@[simp] theorem State.modCore_dies (s : State) (c : Nat) (g_ : Core → Core) : (s.modCore c g_).dies = s.dies := rfl
@[simp] theorem State.setCore_blocks (s : State) (c : Nat) (x_ : Core) : (s.setCore c x_).blocks = s.blocks := rfl
@[simp] theorem State.modCore_blocks (s : State) (c : Nat) (g_ : Core → Core) : (s.modCore c g_).blocks = s.blocks := rfl
@[simp] theorem State.setCore_threads (s : State) (c : Nat) (x_ : Core) : (s.setCore c x_).threads = s.threads := rfl
@[simp] theorem State.modCore_threads (s : State) (c : Nat) (g_ : Core → Core) : (s.modCore c g_).threads = s.threads := rfl
@[simp] theorem State.setCore_cmds (s : State) (c : Nat) (x_ : Core) : (s.setCore c x_).cmds = s.cmds := rfl
@[simp] theorem State.modCore_cmds (s : State) (c : Nat) (g_ : Core → Core) : (s.modCore c g_).cmds = s.cmds := rfl
@[simp] theorem State.setCore_grants (s : State) (c : Nat) (x_ : Core) : (s.setCore c x_).grants = s.grants := rfl
@[simp] theorem State.modCore_grants (s : State) (c : Nat) (g_ : Core → Core) : (s.modCore c g_).grants = s.grants := rfl
@[simp] theorem State.setCore_weirs (s : State) (c : Nat) (x_ : Core) : (s.setCore c x_).weirs = s.weirs := rfl
@[simp] theorem State.modCore_weirs (s : State) (c : Nat) (g_ : Core → Core) : (s.modCore c g_).weirs = s.weirs := rfl
@[simp] theorem State.setCore_nextGen (s : State) (c : Nat) (x_ : Core) : (s.setCore c x_).nextGen = s.nextGen := rfl
@[simp] theorem State.modCore_nextGen (s : State) (c : Nat) (g_ : Core → Core) : (s.modCore c g_).nextGen = s.nextGen := rfl
@[simp] theorem State.setCore_saved (s : State) (c : Nat) (x_ : Core) : (s.setCore c x_).saved = s.saved := rfl
@[simp] theorem State.modCore_saved (s : State) (c : Nat) (g_ : Core → Core) : (s.modCore c g_).saved = s.saved := rfl
@[simp] theorem State.setCore_mem (s : State) (c : Nat) (x_ : Core) : (s.setCore c x_).mem = s.mem := rfl
@[simp] theorem State.modCore_mem (s : State) (c : Nat) (g_ : Core → Core) : (s.modCore c g_).mem = s.mem := rfl
@[simp] theorem State.setCore_sectors (s : State) (c : Nat) (x_ : Core) : (s.setCore c x_).sectors = s.sectors := rfl
@[simp] theorem State.modCore_sectors (s : State) (c : Nat) (g_ : Core → Core) : (s.modCore c g_).sectors = s.sectors := rfl
@[simp] theorem State.setCore_poison (s : State) (c : Nat) (x_ : Core) : (s.setCore c x_).poison = s.poison := rfl
@[simp] theorem State.modCore_poison (s : State) (c : Nat) (g_ : Core → Core) : (s.modCore c g_).poison = s.poison := rfl
@[simp] theorem State.setCore_hostMem (s : State) (c : Nat) (x_ : Core) : (s.setCore c x_).hostMem = s.hostMem := rfl
@[simp] theorem State.modCore_hostMem (s : State) (c : Nat) (g_ : Core → Core) : (s.modCore c g_).hostMem = s.hostMem := rfl
@[simp] theorem State.setCore_outputs (s : State) (c : Nat) (x_ : Core) : (s.setCore c x_).outputs = s.outputs := rfl
@[simp] theorem State.modCore_outputs (s : State) (c : Nat) (g_ : Core → Core) : (s.modCore c g_).outputs = s.outputs := rfl
@[simp] theorem State.setCore_agenda (s : State) (c : Nat) (x_ : Core) : (s.setCore c x_).agenda = s.agenda := rfl
@[simp] theorem State.modCore_agenda (s : State) (c : Nat) (g_ : Core → Core) : (s.modCore c g_).agenda = s.agenda := rfl
@[simp] theorem State.setCore_draws (s : State) (c : Nat) (x_ : Core) : (s.setCore c x_).draws = s.draws := rfl
@[simp] theorem State.modCore_draws (s : State) (c : Nat) (g_ : Core → Core) : (s.modCore c g_).draws = s.draws := rfl
@[simp] theorem State.setCore_settled (s : State) (c : Nat) (x_ : Core) : (s.setCore c x_).settled = s.settled := rfl
@[simp] theorem State.modCore_settled (s : State) (c : Nat) (g_ : Core → Core) : (s.modCore c g_).settled = s.settled := rfl
@[simp] theorem State.setCore_cur (s : State) (c : Nat) (x_ : Core) : (s.setCore c x_).cur = s.cur := rfl
@[simp] theorem State.modCore_cur (s : State) (c : Nat) (g_ : Core → Core) : (s.modCore c g_).cur = s.cur := rfl

/-! ## Quad -/

@[simp] theorem State.setQuad_pack (s : State) (q : Nat) (x_ : Quad) : (s.setQuad q x_).pack = s.pack := rfl
@[simp] theorem State.modQuad_pack (s : State) (q : Nat) (g_ : Quad → Quad) : (s.modQuad q g_).pack = s.pack := rfl
@[simp] theorem State.setQuad_clk (s : State) (q : Nat) (x_ : Quad) : (s.setQuad q x_).clk = s.clk := rfl
@[simp] theorem State.modQuad_clk (s : State) (q : Nat) (g_ : Quad → Quad) : (s.modQuad q g_).clk = s.clk := rfl
@[simp] theorem State.setQuad_fns (s : State) (q : Nat) (x_ : Quad) : (s.setQuad q x_).fns = s.fns := rfl
@[simp] theorem State.modQuad_fns (s : State) (q : Nat) (g_ : Quad → Quad) : (s.modQuad q g_).fns = s.fns := rfl
@[simp] theorem State.setQuad_binds (s : State) (q : Nat) (x_ : Quad) : (s.setQuad q x_).binds = s.binds := rfl
@[simp] theorem State.modQuad_binds (s : State) (q : Nat) (g_ : Quad → Quad) : (s.modQuad q g_).binds = s.binds := rfl
@[simp] theorem State.setQuad_launches (s : State) (q : Nat) (x_ : Quad) : (s.setQuad q x_).launches = s.launches := rfl
@[simp] theorem State.modQuad_launches (s : State) (q : Nat) (g_ : Quad → Quad) : (s.modQuad q g_).launches = s.launches := rfl
@[simp] theorem State.setQuad_nextLid (s : State) (q : Nat) (x_ : Quad) : (s.setQuad q x_).nextLid = s.nextLid := rfl
@[simp] theorem State.modQuad_nextLid (s : State) (q : Nat) (g_ : Quad → Quad) : (s.modQuad q g_).nextLid = s.nextLid := rfl
@[simp] theorem State.setQuad_dispatchers (s : State) (q : Nat) (x_ : Quad) : (s.setQuad q x_).dispatchers = s.dispatchers := rfl
@[simp] theorem State.modQuad_dispatchers (s : State) (q : Nat) (g_ : Quad → Quad) : (s.modQuad q g_).dispatchers = s.dispatchers := rfl
@[simp] theorem State.setQuad_cores (s : State) (q : Nat) (x_ : Quad) : (s.setQuad q x_).cores = s.cores := rfl
@[simp] theorem State.modQuad_cores (s : State) (q : Nat) (g_ : Quad → Quad) : (s.modQuad q g_).cores = s.cores := rfl
@[simp] theorem State.setQuad_dies (s : State) (q : Nat) (x_ : Quad) : (s.setQuad q x_).dies = s.dies := rfl
@[simp] theorem State.modQuad_dies (s : State) (q : Nat) (g_ : Quad → Quad) : (s.modQuad q g_).dies = s.dies := rfl
@[simp] theorem State.setQuad_blocks (s : State) (q : Nat) (x_ : Quad) : (s.setQuad q x_).blocks = s.blocks := rfl
@[simp] theorem State.modQuad_blocks (s : State) (q : Nat) (g_ : Quad → Quad) : (s.modQuad q g_).blocks = s.blocks := rfl
@[simp] theorem State.setQuad_threads (s : State) (q : Nat) (x_ : Quad) : (s.setQuad q x_).threads = s.threads := rfl
@[simp] theorem State.modQuad_threads (s : State) (q : Nat) (g_ : Quad → Quad) : (s.modQuad q g_).threads = s.threads := rfl
@[simp] theorem State.setQuad_cmds (s : State) (q : Nat) (x_ : Quad) : (s.setQuad q x_).cmds = s.cmds := rfl
@[simp] theorem State.modQuad_cmds (s : State) (q : Nat) (g_ : Quad → Quad) : (s.modQuad q g_).cmds = s.cmds := rfl
@[simp] theorem State.setQuad_grants (s : State) (q : Nat) (x_ : Quad) : (s.setQuad q x_).grants = s.grants := rfl
@[simp] theorem State.modQuad_grants (s : State) (q : Nat) (g_ : Quad → Quad) : (s.modQuad q g_).grants = s.grants := rfl
@[simp] theorem State.setQuad_weirs (s : State) (q : Nat) (x_ : Quad) : (s.setQuad q x_).weirs = s.weirs := rfl
@[simp] theorem State.modQuad_weirs (s : State) (q : Nat) (g_ : Quad → Quad) : (s.modQuad q g_).weirs = s.weirs := rfl
@[simp] theorem State.setQuad_nextGen (s : State) (q : Nat) (x_ : Quad) : (s.setQuad q x_).nextGen = s.nextGen := rfl
@[simp] theorem State.modQuad_nextGen (s : State) (q : Nat) (g_ : Quad → Quad) : (s.modQuad q g_).nextGen = s.nextGen := rfl
@[simp] theorem State.setQuad_saved (s : State) (q : Nat) (x_ : Quad) : (s.setQuad q x_).saved = s.saved := rfl
@[simp] theorem State.modQuad_saved (s : State) (q : Nat) (g_ : Quad → Quad) : (s.modQuad q g_).saved = s.saved := rfl
@[simp] theorem State.setQuad_mem (s : State) (q : Nat) (x_ : Quad) : (s.setQuad q x_).mem = s.mem := rfl
@[simp] theorem State.modQuad_mem (s : State) (q : Nat) (g_ : Quad → Quad) : (s.modQuad q g_).mem = s.mem := rfl
@[simp] theorem State.setQuad_sectors (s : State) (q : Nat) (x_ : Quad) : (s.setQuad q x_).sectors = s.sectors := rfl
@[simp] theorem State.modQuad_sectors (s : State) (q : Nat) (g_ : Quad → Quad) : (s.modQuad q g_).sectors = s.sectors := rfl
@[simp] theorem State.setQuad_poison (s : State) (q : Nat) (x_ : Quad) : (s.setQuad q x_).poison = s.poison := rfl
@[simp] theorem State.modQuad_poison (s : State) (q : Nat) (g_ : Quad → Quad) : (s.modQuad q g_).poison = s.poison := rfl
@[simp] theorem State.setQuad_hostMem (s : State) (q : Nat) (x_ : Quad) : (s.setQuad q x_).hostMem = s.hostMem := rfl
@[simp] theorem State.modQuad_hostMem (s : State) (q : Nat) (g_ : Quad → Quad) : (s.modQuad q g_).hostMem = s.hostMem := rfl
@[simp] theorem State.setQuad_outputs (s : State) (q : Nat) (x_ : Quad) : (s.setQuad q x_).outputs = s.outputs := rfl
@[simp] theorem State.modQuad_outputs (s : State) (q : Nat) (g_ : Quad → Quad) : (s.modQuad q g_).outputs = s.outputs := rfl
@[simp] theorem State.setQuad_agenda (s : State) (q : Nat) (x_ : Quad) : (s.setQuad q x_).agenda = s.agenda := rfl
@[simp] theorem State.modQuad_agenda (s : State) (q : Nat) (g_ : Quad → Quad) : (s.modQuad q g_).agenda = s.agenda := rfl
@[simp] theorem State.setQuad_draws (s : State) (q : Nat) (x_ : Quad) : (s.setQuad q x_).draws = s.draws := rfl
@[simp] theorem State.modQuad_draws (s : State) (q : Nat) (g_ : Quad → Quad) : (s.modQuad q g_).draws = s.draws := rfl
@[simp] theorem State.setQuad_settled (s : State) (q : Nat) (x_ : Quad) : (s.setQuad q x_).settled = s.settled := rfl
@[simp] theorem State.modQuad_settled (s : State) (q : Nat) (g_ : Quad → Quad) : (s.modQuad q g_).settled = s.settled := rfl
@[simp] theorem State.setQuad_cur (s : State) (q : Nat) (x_ : Quad) : (s.setQuad q x_).cur = s.cur := rfl
@[simp] theorem State.modQuad_cur (s : State) (q : Nat) (g_ : Quad → Quad) : (s.modQuad q g_).cur = s.cur := rfl

/-! ## Die -/

@[simp] theorem State.setDie_pack (s : State) (d : Nat) (x_ : Die) : (s.setDie d x_).pack = s.pack := rfl
@[simp] theorem State.modDie_pack (s : State) (d : Nat) (g_ : Die → Die) : (s.modDie d g_).pack = s.pack := rfl
@[simp] theorem State.setDie_clk (s : State) (d : Nat) (x_ : Die) : (s.setDie d x_).clk = s.clk := rfl
@[simp] theorem State.modDie_clk (s : State) (d : Nat) (g_ : Die → Die) : (s.modDie d g_).clk = s.clk := rfl
@[simp] theorem State.setDie_fns (s : State) (d : Nat) (x_ : Die) : (s.setDie d x_).fns = s.fns := rfl
@[simp] theorem State.modDie_fns (s : State) (d : Nat) (g_ : Die → Die) : (s.modDie d g_).fns = s.fns := rfl
@[simp] theorem State.setDie_binds (s : State) (d : Nat) (x_ : Die) : (s.setDie d x_).binds = s.binds := rfl
@[simp] theorem State.modDie_binds (s : State) (d : Nat) (g_ : Die → Die) : (s.modDie d g_).binds = s.binds := rfl
@[simp] theorem State.setDie_launches (s : State) (d : Nat) (x_ : Die) : (s.setDie d x_).launches = s.launches := rfl
@[simp] theorem State.modDie_launches (s : State) (d : Nat) (g_ : Die → Die) : (s.modDie d g_).launches = s.launches := rfl
@[simp] theorem State.setDie_nextLid (s : State) (d : Nat) (x_ : Die) : (s.setDie d x_).nextLid = s.nextLid := rfl
@[simp] theorem State.modDie_nextLid (s : State) (d : Nat) (g_ : Die → Die) : (s.modDie d g_).nextLid = s.nextLid := rfl
@[simp] theorem State.setDie_dispatchers (s : State) (d : Nat) (x_ : Die) : (s.setDie d x_).dispatchers = s.dispatchers := rfl
@[simp] theorem State.modDie_dispatchers (s : State) (d : Nat) (g_ : Die → Die) : (s.modDie d g_).dispatchers = s.dispatchers := rfl
@[simp] theorem State.setDie_cores (s : State) (d : Nat) (x_ : Die) : (s.setDie d x_).cores = s.cores := rfl
@[simp] theorem State.modDie_cores (s : State) (d : Nat) (g_ : Die → Die) : (s.modDie d g_).cores = s.cores := rfl
@[simp] theorem State.setDie_quads (s : State) (d : Nat) (x_ : Die) : (s.setDie d x_).quads = s.quads := rfl
@[simp] theorem State.modDie_quads (s : State) (d : Nat) (g_ : Die → Die) : (s.modDie d g_).quads = s.quads := rfl
@[simp] theorem State.setDie_blocks (s : State) (d : Nat) (x_ : Die) : (s.setDie d x_).blocks = s.blocks := rfl
@[simp] theorem State.modDie_blocks (s : State) (d : Nat) (g_ : Die → Die) : (s.modDie d g_).blocks = s.blocks := rfl
@[simp] theorem State.setDie_threads (s : State) (d : Nat) (x_ : Die) : (s.setDie d x_).threads = s.threads := rfl
@[simp] theorem State.modDie_threads (s : State) (d : Nat) (g_ : Die → Die) : (s.modDie d g_).threads = s.threads := rfl
@[simp] theorem State.setDie_cmds (s : State) (d : Nat) (x_ : Die) : (s.setDie d x_).cmds = s.cmds := rfl
@[simp] theorem State.modDie_cmds (s : State) (d : Nat) (g_ : Die → Die) : (s.modDie d g_).cmds = s.cmds := rfl
@[simp] theorem State.setDie_grants (s : State) (d : Nat) (x_ : Die) : (s.setDie d x_).grants = s.grants := rfl
@[simp] theorem State.modDie_grants (s : State) (d : Nat) (g_ : Die → Die) : (s.modDie d g_).grants = s.grants := rfl
@[simp] theorem State.setDie_weirs (s : State) (d : Nat) (x_ : Die) : (s.setDie d x_).weirs = s.weirs := rfl
@[simp] theorem State.modDie_weirs (s : State) (d : Nat) (g_ : Die → Die) : (s.modDie d g_).weirs = s.weirs := rfl
@[simp] theorem State.setDie_nextGen (s : State) (d : Nat) (x_ : Die) : (s.setDie d x_).nextGen = s.nextGen := rfl
@[simp] theorem State.modDie_nextGen (s : State) (d : Nat) (g_ : Die → Die) : (s.modDie d g_).nextGen = s.nextGen := rfl
@[simp] theorem State.setDie_saved (s : State) (d : Nat) (x_ : Die) : (s.setDie d x_).saved = s.saved := rfl
@[simp] theorem State.modDie_saved (s : State) (d : Nat) (g_ : Die → Die) : (s.modDie d g_).saved = s.saved := rfl
@[simp] theorem State.setDie_mem (s : State) (d : Nat) (x_ : Die) : (s.setDie d x_).mem = s.mem := rfl
@[simp] theorem State.modDie_mem (s : State) (d : Nat) (g_ : Die → Die) : (s.modDie d g_).mem = s.mem := rfl
@[simp] theorem State.setDie_sectors (s : State) (d : Nat) (x_ : Die) : (s.setDie d x_).sectors = s.sectors := rfl
@[simp] theorem State.modDie_sectors (s : State) (d : Nat) (g_ : Die → Die) : (s.modDie d g_).sectors = s.sectors := rfl
@[simp] theorem State.setDie_poison (s : State) (d : Nat) (x_ : Die) : (s.setDie d x_).poison = s.poison := rfl
@[simp] theorem State.modDie_poison (s : State) (d : Nat) (g_ : Die → Die) : (s.modDie d g_).poison = s.poison := rfl
@[simp] theorem State.setDie_hostMem (s : State) (d : Nat) (x_ : Die) : (s.setDie d x_).hostMem = s.hostMem := rfl
@[simp] theorem State.modDie_hostMem (s : State) (d : Nat) (g_ : Die → Die) : (s.modDie d g_).hostMem = s.hostMem := rfl
@[simp] theorem State.setDie_outputs (s : State) (d : Nat) (x_ : Die) : (s.setDie d x_).outputs = s.outputs := rfl
@[simp] theorem State.modDie_outputs (s : State) (d : Nat) (g_ : Die → Die) : (s.modDie d g_).outputs = s.outputs := rfl
@[simp] theorem State.setDie_agenda (s : State) (d : Nat) (x_ : Die) : (s.setDie d x_).agenda = s.agenda := rfl
@[simp] theorem State.modDie_agenda (s : State) (d : Nat) (g_ : Die → Die) : (s.modDie d g_).agenda = s.agenda := rfl
@[simp] theorem State.setDie_draws (s : State) (d : Nat) (x_ : Die) : (s.setDie d x_).draws = s.draws := rfl
@[simp] theorem State.modDie_draws (s : State) (d : Nat) (g_ : Die → Die) : (s.modDie d g_).draws = s.draws := rfl
@[simp] theorem State.setDie_settled (s : State) (d : Nat) (x_ : Die) : (s.setDie d x_).settled = s.settled := rfl
@[simp] theorem State.modDie_settled (s : State) (d : Nat) (g_ : Die → Die) : (s.modDie d g_).settled = s.settled := rfl
@[simp] theorem State.setDie_cur (s : State) (d : Nat) (x_ : Die) : (s.setDie d x_).cur = s.cur := rfl
@[simp] theorem State.modDie_cur (s : State) (d : Nat) (g_ : Die → Die) : (s.modDie d g_).cur = s.cur := rfl

/-! ## Fn -/

@[simp] theorem State.setFn_pack (s : State) (f : Nat) (x_ : Function) : (s.setFn f x_).pack = s.pack := rfl
@[simp] theorem State.modFn_pack (s : State) (f : Nat) (g_ : Function → Function) : (s.modFn f g_).pack = s.pack := rfl
@[simp] theorem State.setFn_clk (s : State) (f : Nat) (x_ : Function) : (s.setFn f x_).clk = s.clk := rfl
@[simp] theorem State.modFn_clk (s : State) (f : Nat) (g_ : Function → Function) : (s.modFn f g_).clk = s.clk := rfl
@[simp] theorem State.setFn_binds (s : State) (f : Nat) (x_ : Function) : (s.setFn f x_).binds = s.binds := rfl
@[simp] theorem State.modFn_binds (s : State) (f : Nat) (g_ : Function → Function) : (s.modFn f g_).binds = s.binds := rfl
@[simp] theorem State.setFn_launches (s : State) (f : Nat) (x_ : Function) : (s.setFn f x_).launches = s.launches := rfl
@[simp] theorem State.modFn_launches (s : State) (f : Nat) (g_ : Function → Function) : (s.modFn f g_).launches = s.launches := rfl
@[simp] theorem State.setFn_nextLid (s : State) (f : Nat) (x_ : Function) : (s.setFn f x_).nextLid = s.nextLid := rfl
@[simp] theorem State.modFn_nextLid (s : State) (f : Nat) (g_ : Function → Function) : (s.modFn f g_).nextLid = s.nextLid := rfl
@[simp] theorem State.setFn_dispatchers (s : State) (f : Nat) (x_ : Function) : (s.setFn f x_).dispatchers = s.dispatchers := rfl
@[simp] theorem State.modFn_dispatchers (s : State) (f : Nat) (g_ : Function → Function) : (s.modFn f g_).dispatchers = s.dispatchers := rfl
@[simp] theorem State.setFn_cores (s : State) (f : Nat) (x_ : Function) : (s.setFn f x_).cores = s.cores := rfl
@[simp] theorem State.modFn_cores (s : State) (f : Nat) (g_ : Function → Function) : (s.modFn f g_).cores = s.cores := rfl
@[simp] theorem State.setFn_quads (s : State) (f : Nat) (x_ : Function) : (s.setFn f x_).quads = s.quads := rfl
@[simp] theorem State.modFn_quads (s : State) (f : Nat) (g_ : Function → Function) : (s.modFn f g_).quads = s.quads := rfl
@[simp] theorem State.setFn_dies (s : State) (f : Nat) (x_ : Function) : (s.setFn f x_).dies = s.dies := rfl
@[simp] theorem State.modFn_dies (s : State) (f : Nat) (g_ : Function → Function) : (s.modFn f g_).dies = s.dies := rfl
@[simp] theorem State.setFn_blocks (s : State) (f : Nat) (x_ : Function) : (s.setFn f x_).blocks = s.blocks := rfl
@[simp] theorem State.modFn_blocks (s : State) (f : Nat) (g_ : Function → Function) : (s.modFn f g_).blocks = s.blocks := rfl
@[simp] theorem State.setFn_threads (s : State) (f : Nat) (x_ : Function) : (s.setFn f x_).threads = s.threads := rfl
@[simp] theorem State.modFn_threads (s : State) (f : Nat) (g_ : Function → Function) : (s.modFn f g_).threads = s.threads := rfl
@[simp] theorem State.setFn_cmds (s : State) (f : Nat) (x_ : Function) : (s.setFn f x_).cmds = s.cmds := rfl
@[simp] theorem State.modFn_cmds (s : State) (f : Nat) (g_ : Function → Function) : (s.modFn f g_).cmds = s.cmds := rfl
@[simp] theorem State.setFn_grants (s : State) (f : Nat) (x_ : Function) : (s.setFn f x_).grants = s.grants := rfl
@[simp] theorem State.modFn_grants (s : State) (f : Nat) (g_ : Function → Function) : (s.modFn f g_).grants = s.grants := rfl
@[simp] theorem State.setFn_weirs (s : State) (f : Nat) (x_ : Function) : (s.setFn f x_).weirs = s.weirs := rfl
@[simp] theorem State.modFn_weirs (s : State) (f : Nat) (g_ : Function → Function) : (s.modFn f g_).weirs = s.weirs := rfl
@[simp] theorem State.setFn_nextGen (s : State) (f : Nat) (x_ : Function) : (s.setFn f x_).nextGen = s.nextGen := rfl
@[simp] theorem State.modFn_nextGen (s : State) (f : Nat) (g_ : Function → Function) : (s.modFn f g_).nextGen = s.nextGen := rfl
@[simp] theorem State.setFn_saved (s : State) (f : Nat) (x_ : Function) : (s.setFn f x_).saved = s.saved := rfl
@[simp] theorem State.modFn_saved (s : State) (f : Nat) (g_ : Function → Function) : (s.modFn f g_).saved = s.saved := rfl
@[simp] theorem State.setFn_mem (s : State) (f : Nat) (x_ : Function) : (s.setFn f x_).mem = s.mem := rfl
@[simp] theorem State.modFn_mem (s : State) (f : Nat) (g_ : Function → Function) : (s.modFn f g_).mem = s.mem := rfl
@[simp] theorem State.setFn_sectors (s : State) (f : Nat) (x_ : Function) : (s.setFn f x_).sectors = s.sectors := rfl
@[simp] theorem State.modFn_sectors (s : State) (f : Nat) (g_ : Function → Function) : (s.modFn f g_).sectors = s.sectors := rfl
@[simp] theorem State.setFn_poison (s : State) (f : Nat) (x_ : Function) : (s.setFn f x_).poison = s.poison := rfl
@[simp] theorem State.modFn_poison (s : State) (f : Nat) (g_ : Function → Function) : (s.modFn f g_).poison = s.poison := rfl
@[simp] theorem State.setFn_hostMem (s : State) (f : Nat) (x_ : Function) : (s.setFn f x_).hostMem = s.hostMem := rfl
@[simp] theorem State.modFn_hostMem (s : State) (f : Nat) (g_ : Function → Function) : (s.modFn f g_).hostMem = s.hostMem := rfl
@[simp] theorem State.setFn_outputs (s : State) (f : Nat) (x_ : Function) : (s.setFn f x_).outputs = s.outputs := rfl
@[simp] theorem State.modFn_outputs (s : State) (f : Nat) (g_ : Function → Function) : (s.modFn f g_).outputs = s.outputs := rfl
@[simp] theorem State.setFn_agenda (s : State) (f : Nat) (x_ : Function) : (s.setFn f x_).agenda = s.agenda := rfl
@[simp] theorem State.modFn_agenda (s : State) (f : Nat) (g_ : Function → Function) : (s.modFn f g_).agenda = s.agenda := rfl
@[simp] theorem State.setFn_draws (s : State) (f : Nat) (x_ : Function) : (s.setFn f x_).draws = s.draws := rfl
@[simp] theorem State.modFn_draws (s : State) (f : Nat) (g_ : Function → Function) : (s.modFn f g_).draws = s.draws := rfl
@[simp] theorem State.setFn_settled (s : State) (f : Nat) (x_ : Function) : (s.setFn f x_).settled = s.settled := rfl
@[simp] theorem State.modFn_settled (s : State) (f : Nat) (g_ : Function → Function) : (s.modFn f g_).settled = s.settled := rfl
@[simp] theorem State.setFn_cur (s : State) (f : Nat) (x_ : Function) : (s.setFn f x_).cur = s.cur := rfl
@[simp] theorem State.modFn_cur (s : State) (f : Nat) (g_ : Function → Function) : (s.modFn f g_).cur = s.cur := rfl

/-! ## Launch -/

@[simp] theorem State.setLaunch_pack (s : State) (l : Nat) (x_ : Launch) : (s.setLaunch l x_).pack = s.pack := rfl
@[simp] theorem State.modLaunch_pack (s : State) (l : Nat) (g_ : Launch → Launch) : (s.modLaunch l g_).pack = s.pack := rfl
@[simp] theorem State.setLaunch_clk (s : State) (l : Nat) (x_ : Launch) : (s.setLaunch l x_).clk = s.clk := rfl
@[simp] theorem State.modLaunch_clk (s : State) (l : Nat) (g_ : Launch → Launch) : (s.modLaunch l g_).clk = s.clk := rfl
@[simp] theorem State.setLaunch_fns (s : State) (l : Nat) (x_ : Launch) : (s.setLaunch l x_).fns = s.fns := rfl
@[simp] theorem State.modLaunch_fns (s : State) (l : Nat) (g_ : Launch → Launch) : (s.modLaunch l g_).fns = s.fns := rfl
@[simp] theorem State.setLaunch_binds (s : State) (l : Nat) (x_ : Launch) : (s.setLaunch l x_).binds = s.binds := rfl
@[simp] theorem State.modLaunch_binds (s : State) (l : Nat) (g_ : Launch → Launch) : (s.modLaunch l g_).binds = s.binds := rfl
@[simp] theorem State.setLaunch_nextLid (s : State) (l : Nat) (x_ : Launch) : (s.setLaunch l x_).nextLid = s.nextLid := rfl
@[simp] theorem State.modLaunch_nextLid (s : State) (l : Nat) (g_ : Launch → Launch) : (s.modLaunch l g_).nextLid = s.nextLid := rfl
@[simp] theorem State.setLaunch_dispatchers (s : State) (l : Nat) (x_ : Launch) : (s.setLaunch l x_).dispatchers = s.dispatchers := rfl
@[simp] theorem State.modLaunch_dispatchers (s : State) (l : Nat) (g_ : Launch → Launch) : (s.modLaunch l g_).dispatchers = s.dispatchers := rfl
@[simp] theorem State.setLaunch_cores (s : State) (l : Nat) (x_ : Launch) : (s.setLaunch l x_).cores = s.cores := rfl
@[simp] theorem State.modLaunch_cores (s : State) (l : Nat) (g_ : Launch → Launch) : (s.modLaunch l g_).cores = s.cores := rfl
@[simp] theorem State.setLaunch_quads (s : State) (l : Nat) (x_ : Launch) : (s.setLaunch l x_).quads = s.quads := rfl
@[simp] theorem State.modLaunch_quads (s : State) (l : Nat) (g_ : Launch → Launch) : (s.modLaunch l g_).quads = s.quads := rfl
@[simp] theorem State.setLaunch_dies (s : State) (l : Nat) (x_ : Launch) : (s.setLaunch l x_).dies = s.dies := rfl
@[simp] theorem State.modLaunch_dies (s : State) (l : Nat) (g_ : Launch → Launch) : (s.modLaunch l g_).dies = s.dies := rfl
@[simp] theorem State.setLaunch_blocks (s : State) (l : Nat) (x_ : Launch) : (s.setLaunch l x_).blocks = s.blocks := rfl
@[simp] theorem State.modLaunch_blocks (s : State) (l : Nat) (g_ : Launch → Launch) : (s.modLaunch l g_).blocks = s.blocks := rfl
@[simp] theorem State.setLaunch_threads (s : State) (l : Nat) (x_ : Launch) : (s.setLaunch l x_).threads = s.threads := rfl
@[simp] theorem State.modLaunch_threads (s : State) (l : Nat) (g_ : Launch → Launch) : (s.modLaunch l g_).threads = s.threads := rfl
@[simp] theorem State.setLaunch_cmds (s : State) (l : Nat) (x_ : Launch) : (s.setLaunch l x_).cmds = s.cmds := rfl
@[simp] theorem State.modLaunch_cmds (s : State) (l : Nat) (g_ : Launch → Launch) : (s.modLaunch l g_).cmds = s.cmds := rfl
@[simp] theorem State.setLaunch_grants (s : State) (l : Nat) (x_ : Launch) : (s.setLaunch l x_).grants = s.grants := rfl
@[simp] theorem State.modLaunch_grants (s : State) (l : Nat) (g_ : Launch → Launch) : (s.modLaunch l g_).grants = s.grants := rfl
@[simp] theorem State.setLaunch_weirs (s : State) (l : Nat) (x_ : Launch) : (s.setLaunch l x_).weirs = s.weirs := rfl
@[simp] theorem State.modLaunch_weirs (s : State) (l : Nat) (g_ : Launch → Launch) : (s.modLaunch l g_).weirs = s.weirs := rfl
@[simp] theorem State.setLaunch_nextGen (s : State) (l : Nat) (x_ : Launch) : (s.setLaunch l x_).nextGen = s.nextGen := rfl
@[simp] theorem State.modLaunch_nextGen (s : State) (l : Nat) (g_ : Launch → Launch) : (s.modLaunch l g_).nextGen = s.nextGen := rfl
@[simp] theorem State.setLaunch_saved (s : State) (l : Nat) (x_ : Launch) : (s.setLaunch l x_).saved = s.saved := rfl
@[simp] theorem State.modLaunch_saved (s : State) (l : Nat) (g_ : Launch → Launch) : (s.modLaunch l g_).saved = s.saved := rfl
@[simp] theorem State.setLaunch_mem (s : State) (l : Nat) (x_ : Launch) : (s.setLaunch l x_).mem = s.mem := rfl
@[simp] theorem State.modLaunch_mem (s : State) (l : Nat) (g_ : Launch → Launch) : (s.modLaunch l g_).mem = s.mem := rfl
@[simp] theorem State.setLaunch_sectors (s : State) (l : Nat) (x_ : Launch) : (s.setLaunch l x_).sectors = s.sectors := rfl
@[simp] theorem State.modLaunch_sectors (s : State) (l : Nat) (g_ : Launch → Launch) : (s.modLaunch l g_).sectors = s.sectors := rfl
@[simp] theorem State.setLaunch_poison (s : State) (l : Nat) (x_ : Launch) : (s.setLaunch l x_).poison = s.poison := rfl
@[simp] theorem State.modLaunch_poison (s : State) (l : Nat) (g_ : Launch → Launch) : (s.modLaunch l g_).poison = s.poison := rfl
@[simp] theorem State.setLaunch_hostMem (s : State) (l : Nat) (x_ : Launch) : (s.setLaunch l x_).hostMem = s.hostMem := rfl
@[simp] theorem State.modLaunch_hostMem (s : State) (l : Nat) (g_ : Launch → Launch) : (s.modLaunch l g_).hostMem = s.hostMem := rfl
@[simp] theorem State.setLaunch_outputs (s : State) (l : Nat) (x_ : Launch) : (s.setLaunch l x_).outputs = s.outputs := rfl
@[simp] theorem State.modLaunch_outputs (s : State) (l : Nat) (g_ : Launch → Launch) : (s.modLaunch l g_).outputs = s.outputs := rfl
@[simp] theorem State.setLaunch_agenda (s : State) (l : Nat) (x_ : Launch) : (s.setLaunch l x_).agenda = s.agenda := rfl
@[simp] theorem State.modLaunch_agenda (s : State) (l : Nat) (g_ : Launch → Launch) : (s.modLaunch l g_).agenda = s.agenda := rfl
@[simp] theorem State.setLaunch_draws (s : State) (l : Nat) (x_ : Launch) : (s.setLaunch l x_).draws = s.draws := rfl
@[simp] theorem State.modLaunch_draws (s : State) (l : Nat) (g_ : Launch → Launch) : (s.modLaunch l g_).draws = s.draws := rfl
@[simp] theorem State.setLaunch_settled (s : State) (l : Nat) (x_ : Launch) : (s.setLaunch l x_).settled = s.settled := rfl
@[simp] theorem State.modLaunch_settled (s : State) (l : Nat) (g_ : Launch → Launch) : (s.modLaunch l g_).settled = s.settled := rfl
@[simp] theorem State.setLaunch_cur (s : State) (l : Nat) (x_ : Launch) : (s.setLaunch l x_).cur = s.cur := rfl
@[simp] theorem State.modLaunch_cur (s : State) (l : Nat) (g_ : Launch → Launch) : (s.modLaunch l g_).cur = s.cur := rfl

/-! ## emit -/

@[simp] theorem State.emit_pack (s : State) (o : Output) : (s.emit o).pack = s.pack := rfl
@[simp] theorem State.emit_clk (s : State) (o : Output) : (s.emit o).clk = s.clk := rfl
@[simp] theorem State.emit_fns (s : State) (o : Output) : (s.emit o).fns = s.fns := rfl
@[simp] theorem State.emit_binds (s : State) (o : Output) : (s.emit o).binds = s.binds := rfl
@[simp] theorem State.emit_launches (s : State) (o : Output) : (s.emit o).launches = s.launches := rfl
@[simp] theorem State.emit_nextLid (s : State) (o : Output) : (s.emit o).nextLid = s.nextLid := rfl
@[simp] theorem State.emit_dispatchers (s : State) (o : Output) : (s.emit o).dispatchers = s.dispatchers := rfl
@[simp] theorem State.emit_cores (s : State) (o : Output) : (s.emit o).cores = s.cores := rfl
@[simp] theorem State.emit_quads (s : State) (o : Output) : (s.emit o).quads = s.quads := rfl
@[simp] theorem State.emit_dies (s : State) (o : Output) : (s.emit o).dies = s.dies := rfl
@[simp] theorem State.emit_blocks (s : State) (o : Output) : (s.emit o).blocks = s.blocks := rfl
@[simp] theorem State.emit_threads (s : State) (o : Output) : (s.emit o).threads = s.threads := rfl
@[simp] theorem State.emit_cmds (s : State) (o : Output) : (s.emit o).cmds = s.cmds := rfl
@[simp] theorem State.emit_grants (s : State) (o : Output) : (s.emit o).grants = s.grants := rfl
@[simp] theorem State.emit_weirs (s : State) (o : Output) : (s.emit o).weirs = s.weirs := rfl
@[simp] theorem State.emit_nextGen (s : State) (o : Output) : (s.emit o).nextGen = s.nextGen := rfl
@[simp] theorem State.emit_saved (s : State) (o : Output) : (s.emit o).saved = s.saved := rfl
@[simp] theorem State.emit_mem (s : State) (o : Output) : (s.emit o).mem = s.mem := rfl
@[simp] theorem State.emit_sectors (s : State) (o : Output) : (s.emit o).sectors = s.sectors := rfl
@[simp] theorem State.emit_poison (s : State) (o : Output) : (s.emit o).poison = s.poison := rfl
@[simp] theorem State.emit_hostMem (s : State) (o : Output) : (s.emit o).hostMem = s.hostMem := rfl
@[simp] theorem State.emit_agenda (s : State) (o : Output) : (s.emit o).agenda = s.agenda := rfl
@[simp] theorem State.emit_draws (s : State) (o : Output) : (s.emit o).draws = s.draws := rfl
@[simp] theorem State.emit_settled (s : State) (o : Output) : (s.emit o).settled = s.settled := rfl
@[simp] theorem State.emit_cur (s : State) (o : Output) : (s.emit o).cur = s.cur := rfl

/-! ## drawn -/

@[simp] theorem State.drawn_pack (s : State) : (s.drawn).pack = s.pack := rfl
@[simp] theorem State.drawn_clk (s : State) : (s.drawn).clk = s.clk := rfl
@[simp] theorem State.drawn_fns (s : State) : (s.drawn).fns = s.fns := rfl
@[simp] theorem State.drawn_binds (s : State) : (s.drawn).binds = s.binds := rfl
@[simp] theorem State.drawn_launches (s : State) : (s.drawn).launches = s.launches := rfl
@[simp] theorem State.drawn_nextLid (s : State) : (s.drawn).nextLid = s.nextLid := rfl
@[simp] theorem State.drawn_dispatchers (s : State) : (s.drawn).dispatchers = s.dispatchers := rfl
@[simp] theorem State.drawn_cores (s : State) : (s.drawn).cores = s.cores := rfl
@[simp] theorem State.drawn_quads (s : State) : (s.drawn).quads = s.quads := rfl
@[simp] theorem State.drawn_dies (s : State) : (s.drawn).dies = s.dies := rfl
@[simp] theorem State.drawn_blocks (s : State) : (s.drawn).blocks = s.blocks := rfl
@[simp] theorem State.drawn_threads (s : State) : (s.drawn).threads = s.threads := rfl
@[simp] theorem State.drawn_cmds (s : State) : (s.drawn).cmds = s.cmds := rfl
@[simp] theorem State.drawn_grants (s : State) : (s.drawn).grants = s.grants := rfl
@[simp] theorem State.drawn_weirs (s : State) : (s.drawn).weirs = s.weirs := rfl
@[simp] theorem State.drawn_nextGen (s : State) : (s.drawn).nextGen = s.nextGen := rfl
@[simp] theorem State.drawn_saved (s : State) : (s.drawn).saved = s.saved := rfl
@[simp] theorem State.drawn_mem (s : State) : (s.drawn).mem = s.mem := rfl
@[simp] theorem State.drawn_sectors (s : State) : (s.drawn).sectors = s.sectors := rfl
@[simp] theorem State.drawn_poison (s : State) : (s.drawn).poison = s.poison := rfl
@[simp] theorem State.drawn_hostMem (s : State) : (s.drawn).hostMem = s.hostMem := rfl
@[simp] theorem State.drawn_outputs (s : State) : (s.drawn).outputs = s.outputs := rfl
@[simp] theorem State.drawn_agenda (s : State) : (s.drawn).agenda = s.agenda := rfl
@[simp] theorem State.drawn_settled (s : State) : (s.drawn).settled = s.settled := rfl
@[simp] theorem State.drawn_cur (s : State) : (s.drawn).cur = s.cur := rfl

/-! ## Reading back -/

@[simp] theorem State.thread_setThread (s : State) (t : Tid) (x_ : Thread) : (s.setThread t x_).thread t = x_ :=
  Tab.get_set_self Thread.empty s.threads t.key x_

@[simp] theorem State.thread_modThread (s : State) (t : Tid) (g_ : Thread → Thread) : (s.modThread t g_).thread t = g_ (s.thread t) :=
  Tab.get_set_self Thread.empty s.threads t.key _

theorem State.thread_setThread_other (s : State) {t t' : Tid} (x_ : Thread) (h : t'.key ≠ t.key) :
    (s.setThread t x_).thread t' = s.thread t' :=
  Tab.get_set_other Thread.empty s.threads x_ h

theorem State.thread_modThread_other (s : State) {t t' : Tid} (g_ : Thread → Thread) (h : t'.key ≠ t.key) :
    (s.modThread t g_).thread t' = s.thread t' :=
  Tab.get_set_other Thread.empty s.threads _ h

@[simp] theorem State.block_setBlock (s : State) (c x : Nat) (x_ : Block) : (s.setBlock c x x_).block c x = x_ :=
  Tab.get_set_self Block.empty s.blocks (c * 2 + x) x_

@[simp] theorem State.block_modBlock (s : State) (c x : Nat) (g_ : Block → Block) : (s.modBlock c x g_).block c x = g_ (s.block c x) :=
  Tab.get_set_self Block.empty s.blocks (c * 2 + x) _

theorem State.block_setBlock_other (s : State) {c x c' x' : Nat} (x_ : Block) (h : (c' * 2 + x') ≠ (c * 2 + x)) :
    (s.setBlock c x x_).block c' x' = s.block c' x' :=
  Tab.get_set_other Block.empty s.blocks x_ h

theorem State.block_modBlock_other (s : State) {c x c' x' : Nat} (g_ : Block → Block) (h : (c' * 2 + x') ≠ (c * 2 + x)) :
    (s.modBlock c x g_).block c' x' = s.block c' x' :=
  Tab.get_set_other Block.empty s.blocks _ h

@[simp] theorem State.core_setCore (s : State) (c : Nat) (x_ : Core) : (s.setCore c x_).core c = x_ :=
  Tab.get_set_self Core.reset s.cores c x_

@[simp] theorem State.core_modCore (s : State) (c : Nat) (g_ : Core → Core) : (s.modCore c g_).core c = g_ (s.core c) :=
  Tab.get_set_self Core.reset s.cores c _

theorem State.core_setCore_other (s : State) {c c' : Nat} (x_ : Core) (h : c' ≠ c) :
    (s.setCore c x_).core c' = s.core c' :=
  Tab.get_set_other Core.reset s.cores x_ h

theorem State.core_modCore_other (s : State) {c c' : Nat} (g_ : Core → Core) (h : c' ≠ c) :
    (s.modCore c g_).core c' = s.core c' :=
  Tab.get_set_other Core.reset s.cores _ h

@[simp] theorem State.quad_setQuad (s : State) (q : Nat) (x_ : Quad) : (s.setQuad q x_).quad q = x_ :=
  Tab.get_set_self Quad.reset s.quads q x_

@[simp] theorem State.quad_modQuad (s : State) (q : Nat) (g_ : Quad → Quad) : (s.modQuad q g_).quad q = g_ (s.quad q) :=
  Tab.get_set_self Quad.reset s.quads q _

theorem State.quad_setQuad_other (s : State) {q q' : Nat} (x_ : Quad) (h : q' ≠ q) :
    (s.setQuad q x_).quad q' = s.quad q' :=
  Tab.get_set_other Quad.reset s.quads x_ h

theorem State.quad_modQuad_other (s : State) {q q' : Nat} (g_ : Quad → Quad) (h : q' ≠ q) :
    (s.modQuad q g_).quad q' = s.quad q' :=
  Tab.get_set_other Quad.reset s.quads _ h

@[simp] theorem State.die_setDie (s : State) (d : Nat) (x_ : Die) : (s.setDie d x_).die d = x_ :=
  Tab.get_set_self Die.reset s.dies d x_

@[simp] theorem State.die_modDie (s : State) (d : Nat) (g_ : Die → Die) : (s.modDie d g_).die d = g_ (s.die d) :=
  Tab.get_set_self Die.reset s.dies d _

theorem State.die_setDie_other (s : State) {d d' : Nat} (x_ : Die) (h : d' ≠ d) :
    (s.setDie d x_).die d' = s.die d' :=
  Tab.get_set_other Die.reset s.dies x_ h

theorem State.die_modDie_other (s : State) {d d' : Nat} (g_ : Die → Die) (h : d' ≠ d) :
    (s.modDie d g_).die d' = s.die d' :=
  Tab.get_set_other Die.reset s.dies _ h

@[simp] theorem State.fn_setFn (s : State) (f : Nat) (x_ : Function) : (s.setFn f x_).fn f = x_ :=
  Tab.get_set_self Function.reset s.fns f x_

@[simp] theorem State.fn_modFn (s : State) (f : Nat) (g_ : Function → Function) : (s.modFn f g_).fn f = g_ (s.fn f) :=
  Tab.get_set_self Function.reset s.fns f _

theorem State.fn_setFn_other (s : State) {f f' : Nat} (x_ : Function) (h : f' ≠ f) :
    (s.setFn f x_).fn f' = s.fn f' :=
  Tab.get_set_other Function.reset s.fns x_ h

theorem State.fn_modFn_other (s : State) {f f' : Nat} (g_ : Function → Function) (h : f' ≠ f) :
    (s.modFn f g_).fn f' = s.fn f' :=
  Tab.get_set_other Function.reset s.fns _ h

@[simp] theorem State.launch_setLaunch (s : State) (l : Nat) (x_ : Launch) : (s.setLaunch l x_).launch l = x_ :=
  Tab.get_set_self Launch.empty s.launches l x_

@[simp] theorem State.launch_modLaunch (s : State) (l : Nat) (g_ : Launch → Launch) : (s.modLaunch l g_).launch l = g_ (s.launch l) :=
  Tab.get_set_self Launch.empty s.launches l _

theorem State.launch_setLaunch_other (s : State) {l l' : Nat} (x_ : Launch) (h : l' ≠ l) :
    (s.setLaunch l x_).launch l' = s.launch l' :=
  Tab.get_set_other Launch.empty s.launches x_ h

theorem State.launch_modLaunch_other (s : State) {l l' : Nat} (g_ : Launch → Launch) (h : l' ≠ l) :
    (s.modLaunch l g_).launch l' = s.launch l' :=
  Tab.get_set_other Launch.empty s.launches _ h

/-! ## Reading one part after an update of another -/

@[simp] theorem State.block_setThread (s : State) (t : Tid) (y : Thread) (c_ x_ : Nat) : (s.setThread t y).block c_ x_ = s.block c_ x_ := rfl
@[simp] theorem State.block_modThread (s : State) (t : Tid) (g_ : Thread → Thread) (c_ x_ : Nat) : (s.modThread t g_).block c_ x_ = s.block c_ x_ := rfl
@[simp] theorem State.core_setThread (s : State) (t : Tid) (y : Thread) (c_ : Nat) : (s.setThread t y).core c_ = s.core c_ := rfl
@[simp] theorem State.core_modThread (s : State) (t : Tid) (g_ : Thread → Thread) (c_ : Nat) : (s.modThread t g_).core c_ = s.core c_ := rfl
@[simp] theorem State.quad_setThread (s : State) (t : Tid) (y : Thread) (q_ : Nat) : (s.setThread t y).quad q_ = s.quad q_ := rfl
@[simp] theorem State.quad_modThread (s : State) (t : Tid) (g_ : Thread → Thread) (q_ : Nat) : (s.modThread t g_).quad q_ = s.quad q_ := rfl
@[simp] theorem State.die_setThread (s : State) (t : Tid) (y : Thread) (d_ : Nat) : (s.setThread t y).die d_ = s.die d_ := rfl
@[simp] theorem State.die_modThread (s : State) (t : Tid) (g_ : Thread → Thread) (d_ : Nat) : (s.modThread t g_).die d_ = s.die d_ := rfl
@[simp] theorem State.fn_setThread (s : State) (t : Tid) (y : Thread) (f_ : Nat) : (s.setThread t y).fn f_ = s.fn f_ := rfl
@[simp] theorem State.fn_modThread (s : State) (t : Tid) (g_ : Thread → Thread) (f_ : Nat) : (s.modThread t g_).fn f_ = s.fn f_ := rfl
@[simp] theorem State.launch_setThread (s : State) (t : Tid) (y : Thread) (l_ : Nat) : (s.setThread t y).launch l_ = s.launch l_ := rfl
@[simp] theorem State.launch_modThread (s : State) (t : Tid) (g_ : Thread → Thread) (l_ : Nat) : (s.modThread t g_).launch l_ = s.launch l_ := rfl
@[simp] theorem State.thread_setBlock (s : State) (c x : Nat) (y : Block) (t_ : Tid) : (s.setBlock c x y).thread t_ = s.thread t_ := rfl
@[simp] theorem State.thread_modBlock (s : State) (c x : Nat) (g_ : Block → Block) (t_ : Tid) : (s.modBlock c x g_).thread t_ = s.thread t_ := rfl
@[simp] theorem State.core_setBlock (s : State) (c x : Nat) (y : Block) (c_ : Nat) : (s.setBlock c x y).core c_ = s.core c_ := rfl
@[simp] theorem State.core_modBlock (s : State) (c x : Nat) (g_ : Block → Block) (c_ : Nat) : (s.modBlock c x g_).core c_ = s.core c_ := rfl
@[simp] theorem State.quad_setBlock (s : State) (c x : Nat) (y : Block) (q_ : Nat) : (s.setBlock c x y).quad q_ = s.quad q_ := rfl
@[simp] theorem State.quad_modBlock (s : State) (c x : Nat) (g_ : Block → Block) (q_ : Nat) : (s.modBlock c x g_).quad q_ = s.quad q_ := rfl
@[simp] theorem State.die_setBlock (s : State) (c x : Nat) (y : Block) (d_ : Nat) : (s.setBlock c x y).die d_ = s.die d_ := rfl
@[simp] theorem State.die_modBlock (s : State) (c x : Nat) (g_ : Block → Block) (d_ : Nat) : (s.modBlock c x g_).die d_ = s.die d_ := rfl
@[simp] theorem State.fn_setBlock (s : State) (c x : Nat) (y : Block) (f_ : Nat) : (s.setBlock c x y).fn f_ = s.fn f_ := rfl
@[simp] theorem State.fn_modBlock (s : State) (c x : Nat) (g_ : Block → Block) (f_ : Nat) : (s.modBlock c x g_).fn f_ = s.fn f_ := rfl
@[simp] theorem State.launch_setBlock (s : State) (c x : Nat) (y : Block) (l_ : Nat) : (s.setBlock c x y).launch l_ = s.launch l_ := rfl
@[simp] theorem State.launch_modBlock (s : State) (c x : Nat) (g_ : Block → Block) (l_ : Nat) : (s.modBlock c x g_).launch l_ = s.launch l_ := rfl
@[simp] theorem State.thread_setCore (s : State) (c : Nat) (y : Core) (t_ : Tid) : (s.setCore c y).thread t_ = s.thread t_ := rfl
@[simp] theorem State.thread_modCore (s : State) (c : Nat) (g_ : Core → Core) (t_ : Tid) : (s.modCore c g_).thread t_ = s.thread t_ := rfl
@[simp] theorem State.block_setCore (s : State) (c : Nat) (y : Core) (c_ x_ : Nat) : (s.setCore c y).block c_ x_ = s.block c_ x_ := rfl
@[simp] theorem State.block_modCore (s : State) (c : Nat) (g_ : Core → Core) (c_ x_ : Nat) : (s.modCore c g_).block c_ x_ = s.block c_ x_ := rfl
@[simp] theorem State.quad_setCore (s : State) (c : Nat) (y : Core) (q_ : Nat) : (s.setCore c y).quad q_ = s.quad q_ := rfl
@[simp] theorem State.quad_modCore (s : State) (c : Nat) (g_ : Core → Core) (q_ : Nat) : (s.modCore c g_).quad q_ = s.quad q_ := rfl
@[simp] theorem State.die_setCore (s : State) (c : Nat) (y : Core) (d_ : Nat) : (s.setCore c y).die d_ = s.die d_ := rfl
@[simp] theorem State.die_modCore (s : State) (c : Nat) (g_ : Core → Core) (d_ : Nat) : (s.modCore c g_).die d_ = s.die d_ := rfl
@[simp] theorem State.fn_setCore (s : State) (c : Nat) (y : Core) (f_ : Nat) : (s.setCore c y).fn f_ = s.fn f_ := rfl
@[simp] theorem State.fn_modCore (s : State) (c : Nat) (g_ : Core → Core) (f_ : Nat) : (s.modCore c g_).fn f_ = s.fn f_ := rfl
@[simp] theorem State.launch_setCore (s : State) (c : Nat) (y : Core) (l_ : Nat) : (s.setCore c y).launch l_ = s.launch l_ := rfl
@[simp] theorem State.launch_modCore (s : State) (c : Nat) (g_ : Core → Core) (l_ : Nat) : (s.modCore c g_).launch l_ = s.launch l_ := rfl
@[simp] theorem State.thread_setQuad (s : State) (q : Nat) (y : Quad) (t_ : Tid) : (s.setQuad q y).thread t_ = s.thread t_ := rfl
@[simp] theorem State.thread_modQuad (s : State) (q : Nat) (g_ : Quad → Quad) (t_ : Tid) : (s.modQuad q g_).thread t_ = s.thread t_ := rfl
@[simp] theorem State.block_setQuad (s : State) (q : Nat) (y : Quad) (c_ x_ : Nat) : (s.setQuad q y).block c_ x_ = s.block c_ x_ := rfl
@[simp] theorem State.block_modQuad (s : State) (q : Nat) (g_ : Quad → Quad) (c_ x_ : Nat) : (s.modQuad q g_).block c_ x_ = s.block c_ x_ := rfl
@[simp] theorem State.core_setQuad (s : State) (q : Nat) (y : Quad) (c_ : Nat) : (s.setQuad q y).core c_ = s.core c_ := rfl
@[simp] theorem State.core_modQuad (s : State) (q : Nat) (g_ : Quad → Quad) (c_ : Nat) : (s.modQuad q g_).core c_ = s.core c_ := rfl
@[simp] theorem State.die_setQuad (s : State) (q : Nat) (y : Quad) (d_ : Nat) : (s.setQuad q y).die d_ = s.die d_ := rfl
@[simp] theorem State.die_modQuad (s : State) (q : Nat) (g_ : Quad → Quad) (d_ : Nat) : (s.modQuad q g_).die d_ = s.die d_ := rfl
@[simp] theorem State.fn_setQuad (s : State) (q : Nat) (y : Quad) (f_ : Nat) : (s.setQuad q y).fn f_ = s.fn f_ := rfl
@[simp] theorem State.fn_modQuad (s : State) (q : Nat) (g_ : Quad → Quad) (f_ : Nat) : (s.modQuad q g_).fn f_ = s.fn f_ := rfl
@[simp] theorem State.launch_setQuad (s : State) (q : Nat) (y : Quad) (l_ : Nat) : (s.setQuad q y).launch l_ = s.launch l_ := rfl
@[simp] theorem State.launch_modQuad (s : State) (q : Nat) (g_ : Quad → Quad) (l_ : Nat) : (s.modQuad q g_).launch l_ = s.launch l_ := rfl
@[simp] theorem State.thread_setDie (s : State) (d : Nat) (y : Die) (t_ : Tid) : (s.setDie d y).thread t_ = s.thread t_ := rfl
@[simp] theorem State.thread_modDie (s : State) (d : Nat) (g_ : Die → Die) (t_ : Tid) : (s.modDie d g_).thread t_ = s.thread t_ := rfl
@[simp] theorem State.block_setDie (s : State) (d : Nat) (y : Die) (c_ x_ : Nat) : (s.setDie d y).block c_ x_ = s.block c_ x_ := rfl
@[simp] theorem State.block_modDie (s : State) (d : Nat) (g_ : Die → Die) (c_ x_ : Nat) : (s.modDie d g_).block c_ x_ = s.block c_ x_ := rfl
@[simp] theorem State.core_setDie (s : State) (d : Nat) (y : Die) (c_ : Nat) : (s.setDie d y).core c_ = s.core c_ := rfl
@[simp] theorem State.core_modDie (s : State) (d : Nat) (g_ : Die → Die) (c_ : Nat) : (s.modDie d g_).core c_ = s.core c_ := rfl
@[simp] theorem State.quad_setDie (s : State) (d : Nat) (y : Die) (q_ : Nat) : (s.setDie d y).quad q_ = s.quad q_ := rfl
@[simp] theorem State.quad_modDie (s : State) (d : Nat) (g_ : Die → Die) (q_ : Nat) : (s.modDie d g_).quad q_ = s.quad q_ := rfl
@[simp] theorem State.fn_setDie (s : State) (d : Nat) (y : Die) (f_ : Nat) : (s.setDie d y).fn f_ = s.fn f_ := rfl
@[simp] theorem State.fn_modDie (s : State) (d : Nat) (g_ : Die → Die) (f_ : Nat) : (s.modDie d g_).fn f_ = s.fn f_ := rfl
@[simp] theorem State.launch_setDie (s : State) (d : Nat) (y : Die) (l_ : Nat) : (s.setDie d y).launch l_ = s.launch l_ := rfl
@[simp] theorem State.launch_modDie (s : State) (d : Nat) (g_ : Die → Die) (l_ : Nat) : (s.modDie d g_).launch l_ = s.launch l_ := rfl
@[simp] theorem State.thread_setFn (s : State) (f : Nat) (y : Function) (t_ : Tid) : (s.setFn f y).thread t_ = s.thread t_ := rfl
@[simp] theorem State.thread_modFn (s : State) (f : Nat) (g_ : Function → Function) (t_ : Tid) : (s.modFn f g_).thread t_ = s.thread t_ := rfl
@[simp] theorem State.block_setFn (s : State) (f : Nat) (y : Function) (c_ x_ : Nat) : (s.setFn f y).block c_ x_ = s.block c_ x_ := rfl
@[simp] theorem State.block_modFn (s : State) (f : Nat) (g_ : Function → Function) (c_ x_ : Nat) : (s.modFn f g_).block c_ x_ = s.block c_ x_ := rfl
@[simp] theorem State.core_setFn (s : State) (f : Nat) (y : Function) (c_ : Nat) : (s.setFn f y).core c_ = s.core c_ := rfl
@[simp] theorem State.core_modFn (s : State) (f : Nat) (g_ : Function → Function) (c_ : Nat) : (s.modFn f g_).core c_ = s.core c_ := rfl
@[simp] theorem State.quad_setFn (s : State) (f : Nat) (y : Function) (q_ : Nat) : (s.setFn f y).quad q_ = s.quad q_ := rfl
@[simp] theorem State.quad_modFn (s : State) (f : Nat) (g_ : Function → Function) (q_ : Nat) : (s.modFn f g_).quad q_ = s.quad q_ := rfl
@[simp] theorem State.die_setFn (s : State) (f : Nat) (y : Function) (d_ : Nat) : (s.setFn f y).die d_ = s.die d_ := rfl
@[simp] theorem State.die_modFn (s : State) (f : Nat) (g_ : Function → Function) (d_ : Nat) : (s.modFn f g_).die d_ = s.die d_ := rfl
@[simp] theorem State.launch_setFn (s : State) (f : Nat) (y : Function) (l_ : Nat) : (s.setFn f y).launch l_ = s.launch l_ := rfl
@[simp] theorem State.launch_modFn (s : State) (f : Nat) (g_ : Function → Function) (l_ : Nat) : (s.modFn f g_).launch l_ = s.launch l_ := rfl
@[simp] theorem State.thread_setLaunch (s : State) (l : Nat) (y : Launch) (t_ : Tid) : (s.setLaunch l y).thread t_ = s.thread t_ := rfl
@[simp] theorem State.thread_modLaunch (s : State) (l : Nat) (g_ : Launch → Launch) (t_ : Tid) : (s.modLaunch l g_).thread t_ = s.thread t_ := rfl
@[simp] theorem State.block_setLaunch (s : State) (l : Nat) (y : Launch) (c_ x_ : Nat) : (s.setLaunch l y).block c_ x_ = s.block c_ x_ := rfl
@[simp] theorem State.block_modLaunch (s : State) (l : Nat) (g_ : Launch → Launch) (c_ x_ : Nat) : (s.modLaunch l g_).block c_ x_ = s.block c_ x_ := rfl
@[simp] theorem State.core_setLaunch (s : State) (l : Nat) (y : Launch) (c_ : Nat) : (s.setLaunch l y).core c_ = s.core c_ := rfl
@[simp] theorem State.core_modLaunch (s : State) (l : Nat) (g_ : Launch → Launch) (c_ : Nat) : (s.modLaunch l g_).core c_ = s.core c_ := rfl
@[simp] theorem State.quad_setLaunch (s : State) (l : Nat) (y : Launch) (q_ : Nat) : (s.setLaunch l y).quad q_ = s.quad q_ := rfl
@[simp] theorem State.quad_modLaunch (s : State) (l : Nat) (g_ : Launch → Launch) (q_ : Nat) : (s.modLaunch l g_).quad q_ = s.quad q_ := rfl
@[simp] theorem State.die_setLaunch (s : State) (l : Nat) (y : Launch) (d_ : Nat) : (s.setLaunch l y).die d_ = s.die d_ := rfl
@[simp] theorem State.die_modLaunch (s : State) (l : Nat) (g_ : Launch → Launch) (d_ : Nat) : (s.modLaunch l g_).die d_ = s.die d_ := rfl
@[simp] theorem State.fn_setLaunch (s : State) (l : Nat) (y : Launch) (f_ : Nat) : (s.setLaunch l y).fn f_ = s.fn f_ := rfl
@[simp] theorem State.fn_modLaunch (s : State) (l : Nat) (g_ : Launch → Launch) (f_ : Nat) : (s.modLaunch l g_).fn f_ = s.fn f_ := rfl

/-! ## Registers of a thread -/

/-- A register reads back what was written in a lane. -/
@[simp] theorem Thread.rd_wr (th : Thread) (r : Reg) (l : Nat) (v : Word) : (th.wr r l v).rd r l = v :=
  Tab.get_set_self 0#32 th.regs (r.key l) v

/-- A write of one register and lane leaves every other alone. -/
theorem Thread.rd_wr_other (th : Thread) {r r' : Reg} {l l' : Nat} (v : Word) (h : r'.key l' ≠ r.key l) :
    (th.wr r l v).rd r' l' = th.rd r' l' :=
  Tab.get_set_other 0#32 th.regs v h

end Sys2Proof.Machine
end

