-- ==== Sys2Proof/Laws/Action.lean ====
section
/-! SUPPORT. A move issued as a bundle of its own: when a trigger takes its effect, and what the end of a bundle changes. -/

namespace Sys2Proof.Machine

theorem State.primed_iff (s : State) (h : Head) (r : Reads) :
    s.primed h r = true ↔ (s.cur.on = true ∧ s.cur.phase = .whole ∧ s.cur.split < s.self.splits.length ∧ s.cur.takes = Takes.none_)
      ∧ (s.guard h.guard ≠ 0#32 ∧ s.srcWaits h.src false (s.guard h.guard) = false ∧ s.srcFault h.src (s.guard h.guard) = none)
      ∧ r.tagged s h (s.guard h.guard) = false ∧ r.struck s (s.guard h.guard) = false := by
  simp [State.primed, State.alone, State.sourced, and_assoc, Option.isNone_iff_eq_none]

/-- What a trigger's own parts say when nothing holds it back and no check of its own fails. -/
structure Action.Free (a : Action) (s : State) : Prop where
  waits : a.waits s = false
  needs : a.needs s = none
  page : a.page s = none
  lease : a.lease s = none
  absent : a.absent s = none
  poison : a.poison s = none
  own : a.own s = none

/-- A trigger that is primed and free takes its effect whole. -/
theorem Action.trigger_outcome {h : Head} {r : Reads} {a : Action} {s : State} (hp : s.primed h r = true) (f : a.Free s) :
    (Action.trigger h r a).outcome s
      = .next (((a.effect s).capture h ((a.effect s).guard h.guard) ((a.effect s).srcRead h.src false)).notePop h.src
          (((a.effect s)).guard h.guard)) := by
  obtain ⟨⟨hon, hph, _, _⟩, ⟨hg, hw, hf⟩, ht, hs⟩ := (State.primed_iff s h r).1 hp
  simp [Action.outcome, Action.run, Action.whole, Action.held, Action.fails, Action.trigger, hon, hph, hg, hw, ht, hs, f.waits, f.needs,
    f.page, f.lease, f.absent, f.poison, f.own, State.faultTrap, hf]

/-! ## The end of a bundle -/

/-- A thread with other registers and tags. -/
def Thread.reg (th : Thread) (x : Tab Word) (y : Tab Bool) (z : Tab Mask) : Thread := { th with regs := x, bad := y, poison := z }

/-- Two threads are equal but for their registers and tags. -/
def Thread.SameBut (a b : Thread) : Prop := ∃ x y z, b = a.reg x y z

theorem Thread.SameBut.refl (a : Thread) : a.SameBut a := ⟨a.regs, a.bad, a.poison, rfl⟩

theorem Thread.SameBut.trans {a b c : Thread} (h : a.SameBut b) (k : b.SameBut c) : a.SameBut c := by
  obtain ⟨_, _, _, rfl⟩ := h
  obtain ⟨x, y, z, rfl⟩ := k
  exact ⟨x, y, z, rfl⟩

theorem Thread.sameBut_wr (th : Thread) (r : Reg) (l : Nat) (v : Word) : th.SameBut (th.wr r l v) := ⟨_, _, _, rfl⟩

theorem Thread.sameBut_wrMask (th : Thread) (r : Reg) (m : Mask) (v : Nat → Word) : th.SameBut (th.wrMask r m v) := by
  unfold Thread.wrMask
  generalize lanesOf m = ls
  induction ls generalizing th with
  | nil => exact .refl th
  | cons l rest ih => exact (th.sameBut_wr r l (v l)).trans (ih _)

theorem Thread.sameBut_setTags (th : Thread) (r : Reg) (m tags : Mask) : th.SameBut (th.setTags r m tags) := ⟨_, _, _, rfl⟩

/-- What the end of a trigger's bundle may change: registers and tags of the issuing thread, and the bundle's own record. -/
structure Ended (s t : State) : Prop where
  state : ∃ ths c, t = { s with threads := ths, cur := c }
  thread : ∀ k : Tid, (s.thread k).SameBut (t.thread k)
  other : ∀ k : Tid, k.key ≠ s.cur.tid.key → t.thread k = s.thread k

theorem Ended.refl (s : State) : Ended s s := ⟨⟨s.threads, s.cur, rfl⟩, fun k => .refl (s.thread k), fun _ _ => rfl⟩

/-- A capture changes nothing but registers and tags. -/
theorem State.capture_ended (s : State) (h : Head) (m : Mask) (v : Nat → Word × Bool) : Ended s (s.capture h m v) := by
  unfold State.capture
  split
  · exact .refl s
  · refine ⟨⟨_, s.cur, rfl⟩, fun k => ?_, fun k hk => State.thread_modThread_other s _ hk⟩
    by_cases hk : k.key = s.cur.tid.key
    · have e : ∀ u : State, u.thread k = u.thread s.cur.tid := fun u => by simp [State.thread, hk]
      rw [e, e, State.thread_modThread]
      exact ((Thread.sameBut_wrMask ..).trans (Thread.sameBut_wrMask ..)).trans (Thread.sameBut_setTags ..)
    · rw [State.thread_modThread_other s _ hk]
      exact .refl _

/-- A pop is only noted. -/
theorem State.notePop_eq (s : State) (x : Src) (m : Mask) : ∃ c, s.notePop x m = { s with cur := c } := by
  unfold State.notePop
  split
  · split
    · exact ⟨_, rfl⟩
    · exact ⟨s.cur, rfl⟩
  · exact ⟨s.cur, rfl⟩

/-- A trigger that is primed and free answers its effect, after which only the end of its bundle follows. -/
theorem Action.trigger_next {h : Head} {r : Reads} {a : Action} {s : State} (hp : s.primed h r = true) (f : a.Free s) :
    ∃ t, (Action.trigger h r a).outcome s = .next t ∧ Ended (a.effect s) t := by
  refine ⟨_, Action.trigger_outcome hp f, ?_⟩
  obtain ⟨⟨ths, c, e⟩, hs, ho⟩ := State.capture_ended (a.effect s) h ((a.effect s).guard h.guard) ((a.effect s).srcRead h.src false)
  obtain ⟨c', e'⟩ := State.notePop_eq ((a.effect s).capture h ((a.effect s).guard h.guard) ((a.effect s).srcRead h.src false)) h.src
    ((a.effect s).guard h.guard)
  rw [e']
  refine ⟨⟨ths, c', ?_⟩, hs, ho⟩
  rw [e]

/-! ## What a bundle's end leaves -/

theorem mem_lanesOf {m : Mask} {l : Nat} : l ∈ lanesOf m ↔ l < 32 ∧ m.getLsbD l = true := by
  simp [lanesOf, List.mem_filter]

theorem Reg.key_ne_of_id {r r' : Reg} (h : r.id ≠ r'.id) (l l' : Nat) : r.key l ≠ r'.key l' := by
  unfold Reg.key
  omega

theorem Reg.key_ne_of_lane (r : Reg) {l l' : Nat} (hl : l < 32) (hl' : l' < 32) (h : l ≠ l') : r.key l ≠ r.key l' := by
  unfold Reg.key
  omega

/-- Registers of other names stand when one is written in the lanes of a mask. -/
theorem Thread.rd_wrMask_other (th : Thread) {r r' : Reg} (m : Mask) (v : Nat → Word) (l : Nat) (h : r'.id ≠ r.id) :
    (th.wrMask r m v).rd r' l = th.rd r' l := by
  unfold Thread.wrMask
  generalize lanesOf m = ls
  induction ls generalizing th with
  | nil => rfl
  | cons k rest ih => exact (ih _).trans (Thread.rd_wr_other th _ (Reg.key_ne_of_id h l k))

/-- A register written in the lanes of a mask holds the new values there, and its old values elsewhere. -/
theorem Thread.rd_wrMask (th : Thread) (r : Reg) (m : Mask) (v : Nat → Word) {l : Nat} (hl : l < 32) :
    (th.wrMask r m v).rd r l = if m.getLsbD l then v l else th.rd r l := by
  have key : ∀ (ls : List Nat) (th : Thread), (∀ k ∈ ls, k < 32) →
      (ls.foldl (fun t k => t.wr r k (v k)) th).rd r l = if l ∈ ls then v l else th.rd r l := by
    intro ls
    induction ls with
    | nil => intro th _; simp
    | cons k rest ih =>
      intro th hk
      rw [List.foldl_cons, ih _ fun x hx => hk x (List.mem_cons_of_mem _ hx)]
      by_cases hr : l ∈ rest
      · simp [hr]
      · by_cases he : l = k
        · subst he; simp [hr]
        · simp [hr, he, Thread.rd_wr_other th _ (Reg.key_ne_of_lane r hl (hk k List.mem_cons_self) he)]
  unfold Thread.wrMask
  rw [key _ _ fun k hk => (mem_lanesOf.1 hk).1]
  simp [mem_lanesOf, hl]

@[simp] theorem Thread.tags_wrMask (th : Thread) (r r' : Reg) (m : Mask) (v : Nat → Word) : (th.wrMask r m v).tags r' = th.tags r' := by
  unfold Thread.wrMask
  generalize lanesOf m = ls
  induction ls generalizing th with
  | nil => rfl
  | cons k rest ih => exact ih _

@[simp] theorem Thread.rd_setTags (th : Thread) (r r' : Reg) (m tags : Mask) (l : Nat) : (th.setTags r m tags).rd r' l = th.rd r' l := rfl

@[simp] theorem Thread.bad_setTags (th : Thread) (r : Reg) (m tags : Mask) : (th.setTags r m tags).bad = th.bad := rfl

/-- Marks of a struck register stand when a register of another name is written. -/
theorem Thread.bad_wrMask_other (th : Thread) {r r' : Reg} (m : Mask) (v : Nat → Word) (l : Nat) (h : r'.id ≠ r.id) :
    Tab.get false (th.wrMask r m v).bad (r'.key l) = Tab.get false th.bad (r'.key l) := by
  unfold Thread.wrMask
  generalize lanesOf m = ls
  induction ls generalizing th with
  | nil => rfl
  | cons k rest ih => exact (ih _).trans (Tab.get_erase_other false th.bad (Reg.key_ne_of_id h l k))

theorem Thread.tags_setTags_other (th : Thread) {r r' : Reg} (m tags : Mask) (h : r'.id ≠ r.id) :
    (th.setTags r m tags).tags r' = th.tags r' := Tab.get_set_other 0#32 th.poison _ h

/-- A bundle's end notes a pop, or none. -/
def State.popIf (s : State) (pop : Bool) (x : Src) (m : Mask) : State := if pop then s.notePop x m else s

/-- The end of a bundle, once its move's effect has been taken. -/
theorem State.capture_latched (s : State) (h : Head) (m : Mask) (v : Nat → Word × Bool) (pop : Bool) :
    Latched h m (fun l => (v l).1) pop s ((s.capture h m v).popIf pop h.src m) := by
  obtain ⟨⟨ths, c, e⟩, hs, ho⟩ := s.capture_ended h m v
  have hpop : ∀ u : State, ∃ p q, u.popIf pop h.src m = { u with cur := { u.cur with pops := p, popMask := q } } := by
    intro u
    unfold State.popIf State.notePop
    split
    · split
      · split
        · exact ⟨_, _, rfl⟩
        · exact ⟨u.cur.pops, u.cur.popMask, rfl⟩
      · exact ⟨u.cur.pops, u.cur.popMask, rfl⟩
    · exact ⟨u.cur.pops, u.cur.popMask, rfl⟩
  obtain ⟨p, q, e'⟩ := hpop (s.capture h m v)
  have hcur : (s.capture h m v).cur = s.cur := by unfold State.capture; split <;> rfl
  have hth : ∀ k : Tid, ((s.capture h m v).popIf pop h.src m).thread k = (s.capture h m v).thread k := fun k => by rw [e']; rfl
  have hself : ((s.capture h m v).popIf pop h.src m).self = (s.capture h m v).self := by rw [e']; rfl
  have hcs : (s.capture h m v).self = (s.capture h m v).thread s.cur.tid := by rw [State.self, hcur]
  have hcap : h.hold ≠ 0 → m ≠ 0#32 → (s.capture h m v).self
      = ((s.self.wrMask (latchOf h) m fun l => (v l).1).wrMask (latchAgeOf h) m fun _ => 2#32).setTags (latchOf h) m
          (maskWhere fun l => (v l).2) := by
    intro hne hm
    have : h.hold.val ≠ 0 := fun e => hne (Fin.ext e)
    rw [hcs]
    simp [State.capture, this, hm, latchOf, latchAgeOf, State.self]
  have hid : (latchOf h).id ≠ (latchAgeOf h).id := by
    simp only [latchOf, latchAgeOf, Reg.id]
    omega
  have hzero : h.hold = 0 ∨ m = 0#32 → (s.capture h m v).self = s.self := by
    intro hz
    rw [hcs]
    rcases hz with hz | hz <;> simp [State.capture, hz, State.self]
  have hbit : ∀ l, m.getLsbD l = true → m ≠ 0#32 := by
    intro l hl e
    simp [e] at hl
  refine ⟨?_, ?_, ?_, ?_, ?_, ?_, ?_, ?_, ?_, ?_, ?_⟩
  · rw [e', e]
  · rw [e']; exact hcur ▸ rfl
  · intro hv
    rw [← hcur]
    unfold State.popIf State.notePop
    split
    · split
      · split
        · rename_i p hsrc hm
          rcases hv with hv | hv | hv <;> simp_all
        · rfl
      · rfl
    · rfl
  · intro hyes p hsrc hp hm
    have : ∀ u : State, u.popIf pop h.src m = { u with cur := { u.cur with
        pops := if u.cur.pops.contains p then u.cur.pops else u.cur.pops ++ [p],
        popMask := Tab.set 0#32 u.cur.popMask p.code (Tab.get 0#32 u.cur.popMask p.code ||| m) } } := by
      intro u; simp [State.popIf, State.notePop, hyes, hsrc, hp, hm]
    rw [this]
    refine ⟨?_, ?_⟩
    · by_cases hin : p ∈ (s.capture h m v).cur.pops <;> simp [hin]
    · simp [hcur]
  · intro k hk; rw [hth]; exact ho k hk
  · rw [hself, hcs]; exact hs s.cur.tid
  · intro r l hr
    rw [hself]
    by_cases hz : h.hold = 0 ∨ m = 0#32
    · rw [hzero hz]
    · obtain hr | ⟨h1, h2⟩ := hr
      · exact absurd (Or.inl hr) hz
      · rw [hcap (fun e => hz (.inl e)) (fun e => hz (.inr e)), Thread.rd_setTags, Thread.rd_wrMask_other _ _ _ _ h2,
          Thread.rd_wrMask_other _ _ _ _ h1]
  · intro r hr
    rw [hself]
    by_cases hz : h.hold = 0 ∨ m = 0#32
    · rw [hzero hz]
    · obtain hr | h1 := hr
      · exact absurd (Or.inl hr) hz
      · rw [hcap (fun e => hz (.inl e)) (fun e => hz (.inr e)), Thread.tags_setTags_other _ _ _ h1]; simp
  · intro r l hr
    rw [hself]
    by_cases hz : h.hold = 0 ∨ m = 0#32
    · rw [hzero hz]
    · obtain hr | ⟨h1, h2⟩ := hr
      · exact absurd (Or.inl hr) hz
      · rw [hcap (fun e => hz (.inl e)) (fun e => hz (.inr e)), Thread.bad_setTags, Thread.bad_wrMask_other _ _ _ _ h2,
          Thread.bad_wrMask_other _ _ _ _ h1]
  · intro hz l hl hm
    rw [hself, hcap hz (hbit l hm), Thread.rd_setTags, Thread.rd_setTags, Thread.rd_wrMask_other _ _ _ _ hid, Thread.rd_wrMask _ _ _ _ hl,
      Thread.rd_wrMask _ _ _ _ hl]
    simp [hm]
  · intro hz l hl hm
    rw [hself]
    by_cases hm0 : m = 0#32
    · rw [hzero (.inr hm0)]; exact ⟨rfl, rfl⟩
    · rw [hcap hz hm0, Thread.rd_setTags, Thread.rd_setTags, Thread.rd_wrMask_other _ _ _ _ hid, Thread.rd_wrMask _ _ _ _ hl,
        Thread.rd_wrMask _ _ _ _ hl, Thread.rd_wrMask_other _ _ _ _ hid.symm]
      simp [hm]

/-- A trigger that is primed and free answers its effect, after which only the end of its bundle follows: whatever the effect. -/
theorem Action.trigger_ends {h : Head} {r : Reads} {a : Action} {s : State} (hp : s.primed h r = true) (f : a.Free s) :
    ∃ t, (Action.trigger h r a).outcome s = .next t
      ∧ Latched h ((a.effect s).guard h.guard) (fun l => ((a.effect s).srcRead h.src false l).1) true (a.effect s) t :=
  ⟨_, Action.trigger_outcome hp f, State.capture_latched (pop := true) ..⟩

/-- The value that a source delivers is fixed at the start of the bundle (03 R52 item 1). -/
theorem State.srcRead_eq {s u : State} (hc : u.cur = s.cur) (hb : u.block s.cur.tid.core s.cur.tid.ctx = s.selfBlock)
    (hp : u.pack = s.pack) (x : Src) (tr : Bool) (l : Nat) : u.srcRead x tr l = s.srcRead x tr l := by
  have hb' : u.block s.cur.tid.core s.cur.tid.ctx = s.block s.cur.tid.core s.cur.tid.ctx := hb
  cases x with
  | ident i => cases i <;> simp [State.srcRead, State.ident, hc, hb', hp]
  | _ => simp [State.srcRead, hc, hb']

/-- A trigger that is primed and free, and whose effect keeps the bundle's record and the block, answers its effect, after which
its latch takes the value that it delivered. -/
theorem Action.trigger_latched {h : Head} {r : Reads} {a : Action} {s : State} (hp : s.primed h r = true) (f : a.Free s)
    (hc : (a.effect s).cur = s.cur) (hb : (a.effect s).block s.cur.tid.core s.cur.tid.ctx = s.selfBlock)
    (hk : (a.effect s).pack = s.pack) :
    ∃ t, (Action.trigger h r a).outcome s = .next t ∧ Latched h (s.guard h.guard) (s.trig h) true (a.effect s) t := by
  obtain ⟨t, e, k⟩ := Action.trigger_ends hp f
  refine ⟨t, e, ?_⟩
  have hg : (a.effect s).guard h.guard = s.guard h.guard := by simp [State.guard, hc]
  have hv : (fun l => ((a.effect s).srcRead h.src false l).1) = s.trig h := by
    funext l
    rw [State.srcRead_eq hc hb hk]
    rfl
  rwa [hg, hv] at k

end Sys2Proof.Machine
end

