-- ==== Sys2Proof/Laws/Codes.lean ====
section
/-! SUPPORT. The fields of a move word, and the code of each field read back. -/

namespace Sys2Proof

/-! ## Codes -/

theorem guardOf_fields (g : Guard) : guardOf g.ccField g.condField = some g := by
  cases g with
  | flag c cc => revert cc; cases c <;> decide
  | stage s => revert s; decide
  | always => rfl
  | never => rfl
  | first => rfl

theorem Guard.ccField_lt (g : Guard) : g.ccField < 4 := by cases g <;> simp only [Guard.ccField] <;> omega

theorem Guard.condField_lt (g : Guard) : g.condField < 16 := by
  cases g with
  | flag c _ => cases c <;> simp [Guard.condField, Cond.code]
  | _ => simp [Guard.condField]

theorem resPortOf_code (p : ResPort) : resPortOf p.code = some p := by
  cases p with
  | ls j => revert j; decide
  | lg j => revert j; decide
  | lw j => revert j; decide
  | _ => rfl

theorem ResPort.code_lt (p : ResPort) : p.code < 64 := by
  cases p <;> simp only [ResPort.code] <;> omega

theorem identOf_code (i : Ident) : identOf i.code = i := by cases i <;> rfl

theorem Ident.code_lt (i : Ident) : i.code < 10 := by cases i <;> decide

theorem Src.code_lt (x : Src) : x.code < 512 := by
  cases x with
  | g n => have := n.isLt; simp only [Src.code]; omega
  | port p => have := p.code_lt; simp only [Src.code]; omega
  | k n => have := n.isLt; simp only [Src.code]; omega
  | lat n => have := n.isLt; simp only [Src.code]; omega
  | imm n => have := n.isLt; simp only [Src.code]; omega
  | ident i => have := i.code_lt; simp only [Src.code]; omega
  | cc n => have := n.isLt; simp only [Src.code]; omega
  | short v => have := v.isLt; simp only [Src.code]; omega

theorem fin_ofNat_val {n : Nat} [NeZero n] (x : Fin n) : Fin.ofNat n x.val = x := by
  apply Fin.ext
  simp [Fin.ofNat, Nat.mod_eq_of_lt x.isLt]

theorem srcOf_code (x : Src) : srcOf x.code = some x := by
  cases x with
  | g n =>
    have := n.isLt
    simp [srcOf, Src.code, this]
  | port p =>
    have := p.code_lt
    have h1 : ¬ (128 + p.code < 128) := by omega
    have h2 : 128 + p.code < 192 := by omega
    simp [srcOf, Src.code, h1, h2, resPortOf_code]
  | k n => revert n; decide
  | lat n => revert n; decide
  | imm n => revert n; decide
  | ident i => cases i <;> rfl
  | cc n => revert n; decide
  | short v =>
    have h : ∀ c : Nat, c ≤ 256 → ¬ (256 + v.toNat < c) := fun c hc => by omega
    simp [srcOf, Src.code, h]

theorem opPortOf_code (p : OpPort) : opPortOf p.code = some p := by
  cases p with
  | ssd j => revert j; decide
  | sgd j => revert j; decide
  | _ => rfl

theorem OpPort.code_range (p : OpPort) : 0x80 ≤ p.code ∧ p.code < 0xC0 := by
  cases p <;> simp only [OpPort.code] <;> omega

theorem Dst.code_lt (d : Dst) : d.code < 256 := by
  cases d with
  | g n => have := n.isLt; simp only [Dst.code]; omega
  | port p => have := p.code_range; simp only [Dst.code]; omega
  | k n => have := n.isLt; simp only [Dst.code]; omega
  | cc n => have := n.isLt; simp only [Dst.code]; omega

theorem dstOf_code (d : Dst) : dstOf d.code = some d := by
  cases d with
  | g n =>
    have := n.isLt
    simp [dstOf, Dst.code, this]
  | port p =>
    have := p.code_range
    have h1 : ¬ (p.code < 128) := by omega
    have h2 : p.code < 192 := by omega
    simp [dstOf, Dst.code, h1, h2, opPortOf_code]
  | k n => revert n; decide
  | cc n => revert n; decide

/-- No destination register or port has the id of a trigger port (03 R50). -/
theorem triggerOf_dst (h : Head) (d : Dst) (op : Nat) : triggerOf h d.code op = none := by
  cases d with
  | g n =>
    have := n.isLt
    unfold triggerOf
    simp only [Dst.code]
    split <;> first | omega | rfl
  | port p =>
    cases p with
    | ssd j => match j with
      | 0 | 1 | 2 | 3 => rfl
    | sgd j => match j with
      | 0 | 1 | 2 | 3 => rfl
    | _ => rfl
  | k n =>
    have := n.isLt
    unfold triggerOf
    simp only [Dst.code]
    split <;> first | omega | rfl
  | cc n =>
    have := n.isLt
    unfold triggerOf
    simp only [Dst.code]
    split <;> first | omega | rfl

theorem Mods.code_lt (m : Mods) : m.code < 64 := by
  obtain ⟨t, p, h, s⟩ := m
  cases t <;> cases p <;> cases h <;> cases s <;> decide

theorem modsOf_code (m : Mods) : modsOf m.code = m := by
  obtain ⟨t, p, h, s⟩ := m
  cases t <;> cases p <;> cases h <;> cases s <;> rfl

theorem Rm.code_lt (r : Rm) : r.code < 4 := by cases r <;> decide

theorem scopeOf_code (e : Scope) : scopeOf e.code = some e := by cases e <;> rfl

theorem atomScopeOf_code (c : AtomScope) : atomScopeOf c.code = some c := by cases c <;> rfl

/-! ## Fields of a move word (03 R43) -/

/-- The bounds under which the six fields of a move word are read back as they were written. -/
structure FieldsOk (h : Head) (dst op : Nat) : Prop where
  dst_lt : dst < 256
  op_lt : op < 128

theorem moveWord_lt {h : Head} {dst op : Nat} (b : FieldsOk h dst op) : moveWord h dst op < 2 ^ 32 := by
  have := h.guard.ccField_lt
  have := h.guard.condField_lt
  have := h.src.code_lt
  have := h.hold.isLt
  have := b.dst_lt
  have := b.op_lt
  simp only [moveWord]
  omega

theorem moveWord_fields {h : Head} {dst op : Nat} (b : FieldsOk h dst op) :
    fld (moveWord h dst op) 30 2 = h.guard.ccField ∧ fld (moveWord h dst op) 26 4 = h.guard.condField
      ∧ fld (moveWord h dst op) 18 8 = dst ∧ fld (moveWord h dst op) 9 9 = h.src.code
      ∧ fld (moveWord h dst op) 7 2 = h.hold.val ∧ fld (moveWord h dst op) 0 7 = op := by
  have := h.guard.ccField_lt
  have := h.guard.condField_lt
  have := h.src.code_lt
  have := h.hold.isLt
  have := b.dst_lt
  have := b.op_lt
  simp only [moveWord, fld]
  omega

/-- What a word decodes to, from its fields: a trigger. -/
theorem decodeMove_of_trigger {w : Nat} {g : Guard} {x : Src} {i : Instr} (hg : guardOf (fld w 30 2) (fld w 26 4) = some g)
    (hx : srcOf (fld w 9 9) = some x)
    (ht : triggerOf { guard := g, src := x, hold := Fin.ofNat 4 (fld w 7 2) } (fld w 18 8) (fld w 0 7) = some (some i)) :
    decodeMove w = .instr i := by
  simp only [decodeMove, hg, hx, ht]

/-- What a word decodes to, from its fields: a move. -/
theorem decodeMove_of_move {w : Nat} {g : Guard} {x : Src} {d : Dst} (hg : guardOf (fld w 30 2) (fld w 26 4) = some g)
    (hx : srcOf (fld w 9 9) = some x)
    (ht : triggerOf { guard := g, src := x, hold := Fin.ofNat 4 (fld w 7 2) } (fld w 18 8) (fld w 0 7) = none)
    (hd : dstOf (fld w 18 8) = some d) (h6 : fld w 6 1 = 0) (hl : (modsOf (fld w 0 7)).legal x d = true) :
    decodeMove w = .instr (.move { guard := g, src := x, hold := Fin.ofNat 4 (fld w 7 2) } d (modsOf (fld w 0 7))) := by
  simp only [decodeMove, hg, hx, ht, hd, h6, hl]
  simp

/-- A trigger's word decodes to what its port and opcode name. -/
theorem decodeMove_trigger {h : Head} {dst op : Nat} {i : Instr} (b : FieldsOk h dst op)
    (ht : triggerOf h dst op = some (some i)) : decodeMove (moveWord h dst op) = .instr i := by
  obtain ⟨h1, h2, h3, h4, h5, h6⟩ := moveWord_fields b
  refine decodeMove_of_trigger (g := h.guard) (x := h.src) ?_ ?_ ?_
  · rw [h1, h2, guardOf_fields]
  · rw [h4, srcOf_code]
  · rw [h3, h5, h6, fin_ofNat_val]
    exact ht

/-- A move's word decodes to the move. -/
theorem decodeMove_move {h : Head} {d : Dst} {m : Mods} (hl : m.legal h.src d = true) :
    decodeMove (moveWord h d.code m.code) = .instr (.move h d m) := by
  have hm := m.code_lt
  have b : FieldsOk h d.code m.code := ⟨d.code_lt, by omega⟩
  obtain ⟨h1, h2, h3, h4, h5, h6⟩ := moveWord_fields b
  have h7 : fld (moveWord h d.code m.code) 6 1 = 0 := by
    have e : fld (moveWord h d.code m.code) 6 1 = fld (moveWord h d.code m.code) 0 7 / 64 := by
      simp only [fld]
      omega
    rw [e, h6]
    omega
  have hmove := decodeMove_of_move (w := moveWord h d.code m.code) (g := h.guard) (x := h.src) (d := d)
    (by rw [h1, h2, guardOf_fields]) (by rw [h4, srcOf_code]) (by rw [h3]; exact triggerOf_dst _ d _)
    (by rw [h3, dstOf_code]) h7 (by rw [h6, modsOf_code]; exact hl)
  rw [hmove, h5, h6, modsOf_code, fin_ofNat_val]

end Sys2Proof
end

