-- ==== Sys2Proof/Laws/PerInstr.lean ====
section
/-! SUPPORT. The family RoundTrip: for each instruction, the word that the encoder gives it is one word and decodes to that
instruction (03 R43 to R60). An event has no encoding. -/

namespace Sys2Proof

/-- The words of a well-formed instruction decode to it. -/
def Laws.RoundTrip.Statement (i : Instr) : Prop :=
  i.wellFormed = true → ∀ w, encode i = some w → w < 2 ^ 32 ∧ decodeMove w = .instr i

/-- An instruction without an encoding. -/
theorem Laws.RoundTrip.of_none {i : Instr} (h : i.parts = none) : Laws.RoundTrip.Statement i := by
  intro _ w hw
  simp [encode, h] at hw

/-- A term that is not well formed. -/
theorem Laws.RoundTrip.of_illFormed {i : Instr} (h : i.wellFormed = false) : Laws.RoundTrip.Statement i := by
  intro hw
  rw [h] at hw
  exact absurd hw (by decide)

/-- A trigger whose port and opcode name it. -/
theorem Laws.RoundTrip.of_trigger {i : Instr} {h : Head} {dst op : Nat} (hp : i.parts = some (h, dst, op)) (hd : dst < 256)
    (ho : op < 128) (ht : triggerOf h dst op = some (some i)) : Laws.RoundTrip.Statement i := by
  intro _ w hw
  simp only [encode, hp, Option.map_some, Option.some.injEq] at hw
  subst hw
  exact ⟨moveWord_lt ⟨hd, ho⟩, decodeMove_trigger ⟨hd, ho⟩ ht⟩

theorem Laws.RoundTrip.move (h : Head) (d : Dst) (m : Mods) : Laws.RoundTrip.Statement (.move h d m) := by
  intro hl w hw
  have hm := m.code_lt
  have he : encode (.move h d m) = some (moveWord h d.code m.code) := Eq.refl _
  rw [he] at hw
  obtain ⟨⟩ := hw
  exact ⟨moveWord_lt ⟨d.code_lt, by omega⟩, decodeMove_move hl⟩

theorem Laws.RoundTrip.add (h : Head) (u : Fin 2) : Laws.RoundTrip.Statement (.add h u) := by
  match u with
  | 0 => exact Laws.RoundTrip.of_trigger (Eq.refl _) (by decide) (by decide) (Eq.refl _)
  | 1 => exact Laws.RoundTrip.of_trigger (Eq.refl _) (by decide) (by decide) (Eq.refl _)

theorem Laws.RoundTrip.adc (h : Head) (u : Fin 2) : Laws.RoundTrip.Statement (.adc h u) := by
  match u with
  | 0 => exact Laws.RoundTrip.of_trigger (Eq.refl _) (by decide) (by decide) (Eq.refl _)
  | 1 => exact Laws.RoundTrip.of_trigger (Eq.refl _) (by decide) (by decide) (Eq.refl _)

theorem Laws.RoundTrip.sub (h : Head) (u : Fin 2) : Laws.RoundTrip.Statement (.sub h u) := by
  match u with
  | 0 => exact Laws.RoundTrip.of_trigger (Eq.refl _) (by decide) (by decide) (Eq.refl _)
  | 1 => exact Laws.RoundTrip.of_trigger (Eq.refl _) (by decide) (by decide) (Eq.refl _)

theorem Laws.RoundTrip.sbc (h : Head) (u : Fin 2) : Laws.RoundTrip.Statement (.sbc h u) := by
  match u with
  | 0 => exact Laws.RoundTrip.of_trigger (Eq.refl _) (by decide) (by decide) (Eq.refl _)
  | 1 => exact Laws.RoundTrip.of_trigger (Eq.refl _) (by decide) (by decide) (Eq.refl _)

theorem Laws.RoundTrip.rsb (h : Head) (u : Fin 2) : Laws.RoundTrip.Statement (.rsb h u) := by
  match u with
  | 0 => exact Laws.RoundTrip.of_trigger (Eq.refl _) (by decide) (by decide) (Eq.refl _)
  | 1 => exact Laws.RoundTrip.of_trigger (Eq.refl _) (by decide) (by decide) (Eq.refl _)

theorem Laws.RoundTrip.and (h : Head) (u : Fin 2) : Laws.RoundTrip.Statement (.and h u) := by
  match u with
  | 0 => exact Laws.RoundTrip.of_trigger (Eq.refl _) (by decide) (by decide) (Eq.refl _)
  | 1 => exact Laws.RoundTrip.of_trigger (Eq.refl _) (by decide) (by decide) (Eq.refl _)

theorem Laws.RoundTrip.or (h : Head) (u : Fin 2) : Laws.RoundTrip.Statement (.or h u) := by
  match u with
  | 0 => exact Laws.RoundTrip.of_trigger (Eq.refl _) (by decide) (by decide) (Eq.refl _)
  | 1 => exact Laws.RoundTrip.of_trigger (Eq.refl _) (by decide) (by decide) (Eq.refl _)

theorem Laws.RoundTrip.xor (h : Head) (u : Fin 2) : Laws.RoundTrip.Statement (.xor h u) := by
  match u with
  | 0 => exact Laws.RoundTrip.of_trigger (Eq.refl _) (by decide) (by decide) (Eq.refl _)
  | 1 => exact Laws.RoundTrip.of_trigger (Eq.refl _) (by decide) (by decide) (Eq.refl _)

theorem Laws.RoundTrip.andn (h : Head) (u : Fin 2) : Laws.RoundTrip.Statement (.andn h u) := by
  match u with
  | 0 => exact Laws.RoundTrip.of_trigger (Eq.refl _) (by decide) (by decide) (Eq.refl _)
  | 1 => exact Laws.RoundTrip.of_trigger (Eq.refl _) (by decide) (by decide) (Eq.refl _)

theorem Laws.RoundTrip.orn (h : Head) (u : Fin 2) : Laws.RoundTrip.Statement (.orn h u) := by
  match u with
  | 0 => exact Laws.RoundTrip.of_trigger (Eq.refl _) (by decide) (by decide) (Eq.refl _)
  | 1 => exact Laws.RoundTrip.of_trigger (Eq.refl _) (by decide) (by decide) (Eq.refl _)

theorem Laws.RoundTrip.shl (h : Head) (u : Fin 2) : Laws.RoundTrip.Statement (.shl h u) := by
  match u with
  | 0 => exact Laws.RoundTrip.of_trigger (Eq.refl _) (by decide) (by decide) (Eq.refl _)
  | 1 => exact Laws.RoundTrip.of_trigger (Eq.refl _) (by decide) (by decide) (Eq.refl _)

theorem Laws.RoundTrip.shr (h : Head) (u : Fin 2) : Laws.RoundTrip.Statement (.shr h u) := by
  match u with
  | 0 => exact Laws.RoundTrip.of_trigger (Eq.refl _) (by decide) (by decide) (Eq.refl _)
  | 1 => exact Laws.RoundTrip.of_trigger (Eq.refl _) (by decide) (by decide) (Eq.refl _)

theorem Laws.RoundTrip.sar (h : Head) (u : Fin 2) : Laws.RoundTrip.Statement (.sar h u) := by
  match u with
  | 0 => exact Laws.RoundTrip.of_trigger (Eq.refl _) (by decide) (by decide) (Eq.refl _)
  | 1 => exact Laws.RoundTrip.of_trigger (Eq.refl _) (by decide) (by decide) (Eq.refl _)

theorem Laws.RoundTrip.rol (h : Head) (u : Fin 2) : Laws.RoundTrip.Statement (.rol h u) := by
  match u with
  | 0 => exact Laws.RoundTrip.of_trigger (Eq.refl _) (by decide) (by decide) (Eq.refl _)
  | 1 => exact Laws.RoundTrip.of_trigger (Eq.refl _) (by decide) (by decide) (Eq.refl _)

theorem Laws.RoundTrip.ror (h : Head) (u : Fin 2) : Laws.RoundTrip.Statement (.ror h u) := by
  match u with
  | 0 => exact Laws.RoundTrip.of_trigger (Eq.refl _) (by decide) (by decide) (Eq.refl _)
  | 1 => exact Laws.RoundTrip.of_trigger (Eq.refl _) (by decide) (by decide) (Eq.refl _)

theorem Laws.RoundTrip.min (h : Head) (u : Fin 2) : Laws.RoundTrip.Statement (.min h u) := by
  match u with
  | 0 => exact Laws.RoundTrip.of_trigger (Eq.refl _) (by decide) (by decide) (Eq.refl _)
  | 1 => exact Laws.RoundTrip.of_trigger (Eq.refl _) (by decide) (by decide) (Eq.refl _)

theorem Laws.RoundTrip.max (h : Head) (u : Fin 2) : Laws.RoundTrip.Statement (.max h u) := by
  match u with
  | 0 => exact Laws.RoundTrip.of_trigger (Eq.refl _) (by decide) (by decide) (Eq.refl _)
  | 1 => exact Laws.RoundTrip.of_trigger (Eq.refl _) (by decide) (by decide) (Eq.refl _)

theorem Laws.RoundTrip.minn (h : Head) (u : Fin 2) : Laws.RoundTrip.Statement (.minn h u) := by
  match u with
  | 0 => exact Laws.RoundTrip.of_trigger (Eq.refl _) (by decide) (by decide) (Eq.refl _)
  | 1 => exact Laws.RoundTrip.of_trigger (Eq.refl _) (by decide) (by decide) (Eq.refl _)

theorem Laws.RoundTrip.maxn (h : Head) (u : Fin 2) : Laws.RoundTrip.Statement (.maxn h u) := by
  match u with
  | 0 => exact Laws.RoundTrip.of_trigger (Eq.refl _) (by decide) (by decide) (Eq.refl _)
  | 1 => exact Laws.RoundTrip.of_trigger (Eq.refl _) (by decide) (by decide) (Eq.refl _)

theorem Laws.RoundTrip.abs (h : Head) (u : Fin 2) : Laws.RoundTrip.Statement (.abs h u) := by
  match u with
  | 0 => exact Laws.RoundTrip.of_trigger (Eq.refl _) (by decide) (by decide) (Eq.refl _)
  | 1 => exact Laws.RoundTrip.of_trigger (Eq.refl _) (by decide) (by decide) (Eq.refl _)

theorem Laws.RoundTrip.addv (h : Head) (u : Fin 2) : Laws.RoundTrip.Statement (.addv h u) := by
  match u with
  | 0 => exact Laws.RoundTrip.of_trigger (Eq.refl _) (by decide) (by decide) (Eq.refl _)
  | 1 => exact Laws.RoundTrip.of_trigger (Eq.refl _) (by decide) (by decide) (Eq.refl _)

theorem Laws.RoundTrip.subv (h : Head) (u : Fin 2) : Laws.RoundTrip.Statement (.subv h u) := by
  match u with
  | 0 => exact Laws.RoundTrip.of_trigger (Eq.refl _) (by decide) (by decide) (Eq.refl _)
  | 1 => exact Laws.RoundTrip.of_trigger (Eq.refl _) (by decide) (by decide) (Eq.refl _)

theorem Laws.RoundTrip.mul (h : Head) (u : Fin 2) : Laws.RoundTrip.Statement (.mul h u) := by
  match u with
  | 0 => exact Laws.RoundTrip.of_trigger (Eq.refl _) (by decide) (by decide) (Eq.refl _)
  | 1 => exact Laws.RoundTrip.of_trigger (Eq.refl _) (by decide) (by decide) (Eq.refl _)

theorem Laws.RoundTrip.mulh (h : Head) (u : Fin 2) : Laws.RoundTrip.Statement (.mulh h u) := by
  match u with
  | 0 => exact Laws.RoundTrip.of_trigger (Eq.refl _) (by decide) (by decide) (Eq.refl _)
  | 1 => exact Laws.RoundTrip.of_trigger (Eq.refl _) (by decide) (by decide) (Eq.refl _)

theorem Laws.RoundTrip.mulhn (h : Head) (u : Fin 2) : Laws.RoundTrip.Statement (.mulhn h u) := by
  match u with
  | 0 => exact Laws.RoundTrip.of_trigger (Eq.refl _) (by decide) (by decide) (Eq.refl _)
  | 1 => exact Laws.RoundTrip.of_trigger (Eq.refl _) (by decide) (by decide) (Eq.refl _)

theorem Laws.RoundTrip.div (h : Head) (u : Fin 2) : Laws.RoundTrip.Statement (.div h u) := by
  match u with
  | 0 => exact Laws.RoundTrip.of_trigger (Eq.refl _) (by decide) (by decide) (Eq.refl _)
  | 1 => exact Laws.RoundTrip.of_trigger (Eq.refl _) (by decide) (by decide) (Eq.refl _)

theorem Laws.RoundTrip.rem (h : Head) (u : Fin 2) : Laws.RoundTrip.Statement (.rem h u) := by
  match u with
  | 0 => exact Laws.RoundTrip.of_trigger (Eq.refl _) (by decide) (by decide) (Eq.refl _)
  | 1 => exact Laws.RoundTrip.of_trigger (Eq.refl _) (by decide) (by decide) (Eq.refl _)

theorem Laws.RoundTrip.divn (h : Head) (u : Fin 2) : Laws.RoundTrip.Statement (.divn h u) := by
  match u with
  | 0 => exact Laws.RoundTrip.of_trigger (Eq.refl _) (by decide) (by decide) (Eq.refl _)
  | 1 => exact Laws.RoundTrip.of_trigger (Eq.refl _) (by decide) (by decide) (Eq.refl _)

theorem Laws.RoundTrip.remn (h : Head) (u : Fin 2) : Laws.RoundTrip.Statement (.remn h u) := by
  match u with
  | 0 => exact Laws.RoundTrip.of_trigger (Eq.refl _) (by decide) (by decide) (Eq.refl _)
  | 1 => exact Laws.RoundTrip.of_trigger (Eq.refl _) (by decide) (by decide) (Eq.refl _)

theorem Laws.RoundTrip.ads1 (h : Head) (u : Fin 2) : Laws.RoundTrip.Statement (.ads1 h u) := by
  match u with
  | 0 => exact Laws.RoundTrip.of_trigger (Eq.refl _) (by decide) (by decide) (Eq.refl _)
  | 1 => exact Laws.RoundTrip.of_trigger (Eq.refl _) (by decide) (by decide) (Eq.refl _)

theorem Laws.RoundTrip.ads2 (h : Head) (u : Fin 2) : Laws.RoundTrip.Statement (.ads2 h u) := by
  match u with
  | 0 => exact Laws.RoundTrip.of_trigger (Eq.refl _) (by decide) (by decide) (Eq.refl _)
  | 1 => exact Laws.RoundTrip.of_trigger (Eq.refl _) (by decide) (by decide) (Eq.refl _)

theorem Laws.RoundTrip.ads3 (h : Head) (u : Fin 2) : Laws.RoundTrip.Statement (.ads3 h u) := by
  match u with
  | 0 => exact Laws.RoundTrip.of_trigger (Eq.refl _) (by decide) (by decide) (Eq.refl _)
  | 1 => exact Laws.RoundTrip.of_trigger (Eq.refl _) (by decide) (by decide) (Eq.refl _)

theorem Laws.RoundTrip.ads4 (h : Head) (u : Fin 2) : Laws.RoundTrip.Statement (.ads4 h u) := by
  match u with
  | 0 => exact Laws.RoundTrip.of_trigger (Eq.refl _) (by decide) (by decide) (Eq.refl _)
  | 1 => exact Laws.RoundTrip.of_trigger (Eq.refl _) (by decide) (by decide) (Eq.refl _)

theorem Laws.RoundTrip.bfe (h : Head) (u : Fin 2) : Laws.RoundTrip.Statement (.bfe h u) := by
  match u with
  | 0 => exact Laws.RoundTrip.of_trigger (Eq.refl _) (by decide) (by decide) (Eq.refl _)
  | 1 => exact Laws.RoundTrip.of_trigger (Eq.refl _) (by decide) (by decide) (Eq.refl _)

theorem Laws.RoundTrip.bfen (h : Head) (u : Fin 2) : Laws.RoundTrip.Statement (.bfen h u) := by
  match u with
  | 0 => exact Laws.RoundTrip.of_trigger (Eq.refl _) (by decide) (by decide) (Eq.refl _)
  | 1 => exact Laws.RoundTrip.of_trigger (Eq.refl _) (by decide) (by decide) (Eq.refl _)

theorem Laws.RoundTrip.popc (h : Head) (u : Fin 2) : Laws.RoundTrip.Statement (.popc h u) := by
  match u with
  | 0 => exact Laws.RoundTrip.of_trigger (Eq.refl _) (by decide) (by decide) (Eq.refl _)
  | 1 => exact Laws.RoundTrip.of_trigger (Eq.refl _) (by decide) (by decide) (Eq.refl _)

theorem Laws.RoundTrip.clz (h : Head) (u : Fin 2) : Laws.RoundTrip.Statement (.clz h u) := by
  match u with
  | 0 => exact Laws.RoundTrip.of_trigger (Eq.refl _) (by decide) (by decide) (Eq.refl _)
  | 1 => exact Laws.RoundTrip.of_trigger (Eq.refl _) (by decide) (by decide) (Eq.refl _)

theorem Laws.RoundTrip.ctz (h : Head) (u : Fin 2) : Laws.RoundTrip.Statement (.ctz h u) := by
  match u with
  | 0 => exact Laws.RoundTrip.of_trigger (Eq.refl _) (by decide) (by decide) (Eq.refl _)
  | 1 => exact Laws.RoundTrip.of_trigger (Eq.refl _) (by decide) (by decide) (Eq.refl _)

theorem Laws.RoundTrip.brev (h : Head) (u : Fin 2) : Laws.RoundTrip.Statement (.brev h u) := by
  match u with
  | 0 => exact Laws.RoundTrip.of_trigger (Eq.refl _) (by decide) (by decide) (Eq.refl _)
  | 1 => exact Laws.RoundTrip.of_trigger (Eq.refl _) (by decide) (by decide) (Eq.refl _)

theorem Laws.RoundTrip.bswp (h : Head) (u : Fin 2) : Laws.RoundTrip.Statement (.bswp h u) := by
  match u with
  | 0 => exact Laws.RoundTrip.of_trigger (Eq.refl _) (by decide) (by decide) (Eq.refl _)
  | 1 => exact Laws.RoundTrip.of_trigger (Eq.refl _) (by decide) (by decide) (Eq.refl _)

theorem Laws.RoundTrip.sxb (h : Head) (u : Fin 2) : Laws.RoundTrip.Statement (.sxb h u) := by
  match u with
  | 0 => exact Laws.RoundTrip.of_trigger (Eq.refl _) (by decide) (by decide) (Eq.refl _)
  | 1 => exact Laws.RoundTrip.of_trigger (Eq.refl _) (by decide) (by decide) (Eq.refl _)

theorem Laws.RoundTrip.sxh (h : Head) (u : Fin 2) : Laws.RoundTrip.Statement (.sxh h u) := by
  match u with
  | 0 => exact Laws.RoundTrip.of_trigger (Eq.refl _) (by decide) (by decide) (Eq.refl _)
  | 1 => exact Laws.RoundTrip.of_trigger (Eq.refl _) (by decide) (by decide) (Eq.refl _)

theorem Laws.RoundTrip.zxb (h : Head) (u : Fin 2) : Laws.RoundTrip.Statement (.zxb h u) := by
  match u with
  | 0 => exact Laws.RoundTrip.of_trigger (Eq.refl _) (by decide) (by decide) (Eq.refl _)
  | 1 => exact Laws.RoundTrip.of_trigger (Eq.refl _) (by decide) (by decide) (Eq.refl _)

theorem Laws.RoundTrip.zxh (h : Head) (u : Fin 2) : Laws.RoundTrip.Statement (.zxh h u) := by
  match u with
  | 0 => exact Laws.RoundTrip.of_trigger (Eq.refl _) (by decide) (by decide) (Eq.refl _)
  | 1 => exact Laws.RoundTrip.of_trigger (Eq.refl _) (by decide) (by decide) (Eq.refl _)

theorem Laws.RoundTrip.mova (h : Head) (u : Fin 2) : Laws.RoundTrip.Statement (.mova h u) := by
  match u with
  | 0 => exact Laws.RoundTrip.of_trigger (Eq.refl _) (by decide) (by decide) (Eq.refl _)
  | 1 => exact Laws.RoundTrip.of_trigger (Eq.refl _) (by decide) (by decide) (Eq.refl _)

theorem Laws.RoundTrip.fma (h : Head) (u : Fin 2) (rm : Rm) : Laws.RoundTrip.Statement (.fma h u rm) := by
  match u with
  | 0 => cases rm <;> exact Laws.RoundTrip.of_trigger (Eq.refl _) (by decide) (by decide) (Eq.refl _)
  | 1 => cases rm <;> exact Laws.RoundTrip.of_trigger (Eq.refl _) (by decide) (by decide) (Eq.refl _)

theorem Laws.RoundTrip.fms (h : Head) (u : Fin 2) (rm : Rm) : Laws.RoundTrip.Statement (.fms h u rm) := by
  match u with
  | 0 => cases rm <;> exact Laws.RoundTrip.of_trigger (Eq.refl _) (by decide) (by decide) (Eq.refl _)
  | 1 => cases rm <;> exact Laws.RoundTrip.of_trigger (Eq.refl _) (by decide) (by decide) (Eq.refl _)

theorem Laws.RoundTrip.fnma (h : Head) (u : Fin 2) (rm : Rm) : Laws.RoundTrip.Statement (.fnma h u rm) := by
  match u with
  | 0 => cases rm <;> exact Laws.RoundTrip.of_trigger (Eq.refl _) (by decide) (by decide) (Eq.refl _)
  | 1 => cases rm <;> exact Laws.RoundTrip.of_trigger (Eq.refl _) (by decide) (by decide) (Eq.refl _)

theorem Laws.RoundTrip.fnms (h : Head) (u : Fin 2) (rm : Rm) : Laws.RoundTrip.Statement (.fnms h u rm) := by
  match u with
  | 0 => cases rm <;> exact Laws.RoundTrip.of_trigger (Eq.refl _) (by decide) (by decide) (Eq.refl _)
  | 1 => cases rm <;> exact Laws.RoundTrip.of_trigger (Eq.refl _) (by decide) (by decide) (Eq.refl _)

theorem Laws.RoundTrip.fadd (h : Head) (u : Fin 2) (rm : Rm) : Laws.RoundTrip.Statement (.fadd h u rm) := by
  match u with
  | 0 => cases rm <;> exact Laws.RoundTrip.of_trigger (Eq.refl _) (by decide) (by decide) (Eq.refl _)
  | 1 => cases rm <;> exact Laws.RoundTrip.of_trigger (Eq.refl _) (by decide) (by decide) (Eq.refl _)

theorem Laws.RoundTrip.fsub (h : Head) (u : Fin 2) (rm : Rm) : Laws.RoundTrip.Statement (.fsub h u rm) := by
  match u with
  | 0 => cases rm <;> exact Laws.RoundTrip.of_trigger (Eq.refl _) (by decide) (by decide) (Eq.refl _)
  | 1 => cases rm <;> exact Laws.RoundTrip.of_trigger (Eq.refl _) (by decide) (by decide) (Eq.refl _)

theorem Laws.RoundTrip.fmul (h : Head) (u : Fin 2) (rm : Rm) : Laws.RoundTrip.Statement (.fmul h u rm) := by
  match u with
  | 0 => cases rm <;> exact Laws.RoundTrip.of_trigger (Eq.refl _) (by decide) (by decide) (Eq.refl _)
  | 1 => cases rm <;> exact Laws.RoundTrip.of_trigger (Eq.refl _) (by decide) (by decide) (Eq.refl _)

theorem Laws.RoundTrip.fmin (h : Head) (u : Fin 2) : Laws.RoundTrip.Statement (.fmin h u) := by
  match u with
  | 0 => exact Laws.RoundTrip.of_trigger (Eq.refl _) (by decide) (by decide) (Eq.refl _)
  | 1 => exact Laws.RoundTrip.of_trigger (Eq.refl _) (by decide) (by decide) (Eq.refl _)

theorem Laws.RoundTrip.fmax (h : Head) (u : Fin 2) : Laws.RoundTrip.Statement (.fmax h u) := by
  match u with
  | 0 => exact Laws.RoundTrip.of_trigger (Eq.refl _) (by decide) (by decide) (Eq.refl _)
  | 1 => exact Laws.RoundTrip.of_trigger (Eq.refl _) (by decide) (by decide) (Eq.refl _)

theorem Laws.RoundTrip.fcmp (h : Head) (u : Fin 2) : Laws.RoundTrip.Statement (.fcmp h u) := by
  match u with
  | 0 => exact Laws.RoundTrip.of_trigger (Eq.refl _) (by decide) (by decide) (Eq.refl _)
  | 1 => exact Laws.RoundTrip.of_trigger (Eq.refl _) (by decide) (by decide) (Eq.refl _)

theorem Laws.RoundTrip.frnd (h : Head) (u : Fin 2) (rm : Rm) : Laws.RoundTrip.Statement (.frnd h u rm) := by
  match u with
  | 0 => cases rm <;> exact Laws.RoundTrip.of_trigger (Eq.refl _) (by decide) (by decide) (Eq.refl _)
  | 1 => cases rm <;> exact Laws.RoundTrip.of_trigger (Eq.refl _) (by decide) (by decide) (Eq.refl _)

theorem Laws.RoundTrip.fscl (h : Head) (u : Fin 2) (rm : Rm) : Laws.RoundTrip.Statement (.fscl h u rm) := by
  match u with
  | 0 => cases rm <;> exact Laws.RoundTrip.of_trigger (Eq.refl _) (by decide) (by decide) (Eq.refl _)
  | 1 => cases rm <;> exact Laws.RoundTrip.of_trigger (Eq.refl _) (by decide) (by decide) (Eq.refl _)

theorem Laws.RoundTrip.hfma2 (h : Head) (u : Fin 2) (rm : Rm) : Laws.RoundTrip.Statement (.hfma2 h u rm) := by
  match u with
  | 0 => cases rm <;> exact Laws.RoundTrip.of_trigger (Eq.refl _) (by decide) (by decide) (Eq.refl _)
  | 1 => cases rm <;> exact Laws.RoundTrip.of_trigger (Eq.refl _) (by decide) (by decide) (Eq.refl _)

theorem Laws.RoundTrip.hadd2 (h : Head) (u : Fin 2) (rm : Rm) : Laws.RoundTrip.Statement (.hadd2 h u rm) := by
  match u with
  | 0 => cases rm <;> exact Laws.RoundTrip.of_trigger (Eq.refl _) (by decide) (by decide) (Eq.refl _)
  | 1 => cases rm <;> exact Laws.RoundTrip.of_trigger (Eq.refl _) (by decide) (by decide) (Eq.refl _)

theorem Laws.RoundTrip.hmul2 (h : Head) (u : Fin 2) (rm : Rm) : Laws.RoundTrip.Statement (.hmul2 h u rm) := by
  match u with
  | 0 => cases rm <;> exact Laws.RoundTrip.of_trigger (Eq.refl _) (by decide) (by decide) (Eq.refl _)
  | 1 => cases rm <;> exact Laws.RoundTrip.of_trigger (Eq.refl _) (by decide) (by decide) (Eq.refl _)

theorem Laws.RoundTrip.bfma2 (h : Head) (u : Fin 2) (rm : Rm) : Laws.RoundTrip.Statement (.bfma2 h u rm) := by
  match u with
  | 0 => cases rm <;> exact Laws.RoundTrip.of_trigger (Eq.refl _) (by decide) (by decide) (Eq.refl _)
  | 1 => cases rm <;> exact Laws.RoundTrip.of_trigger (Eq.refl _) (by decide) (by decide) (Eq.refl _)

theorem Laws.RoundTrip.badd2 (h : Head) (u : Fin 2) (rm : Rm) : Laws.RoundTrip.Statement (.badd2 h u rm) := by
  match u with
  | 0 => cases rm <;> exact Laws.RoundTrip.of_trigger (Eq.refl _) (by decide) (by decide) (Eq.refl _)
  | 1 => cases rm <;> exact Laws.RoundTrip.of_trigger (Eq.refl _) (by decide) (by decide) (Eq.refl _)

theorem Laws.RoundTrip.bmul2 (h : Head) (u : Fin 2) (rm : Rm) : Laws.RoundTrip.Statement (.bmul2 h u rm) := by
  match u with
  | 0 => cases rm <;> exact Laws.RoundTrip.of_trigger (Eq.refl _) (by decide) (by decide) (Eq.refl _)
  | 1 => cases rm <;> exact Laws.RoundTrip.of_trigger (Eq.refl _) (by decide) (by decide) (Eq.refl _)

theorem Laws.RoundTrip.fdot2h (h : Head) (u : Fin 2) (rm : Rm) : Laws.RoundTrip.Statement (.fdot2h h u rm) := by
  match u with
  | 0 => cases rm <;> exact Laws.RoundTrip.of_trigger (Eq.refl _) (by decide) (by decide) (Eq.refl _)
  | 1 => cases rm <;> exact Laws.RoundTrip.of_trigger (Eq.refl _) (by decide) (by decide) (Eq.refl _)

theorem Laws.RoundTrip.fdot2b (h : Head) (u : Fin 2) (rm : Rm) : Laws.RoundTrip.Statement (.fdot2b h u rm) := by
  match u with
  | 0 => cases rm <;> exact Laws.RoundTrip.of_trigger (Eq.refl _) (by decide) (by decide) (Eq.refl _)
  | 1 => cases rm <;> exact Laws.RoundTrip.of_trigger (Eq.refl _) (by decide) (by decide) (Eq.refl _)

theorem Laws.RoundTrip.rcp (h : Head) : Laws.RoundTrip.Statement (.rcp h) :=
  Laws.RoundTrip.of_trigger (Eq.refl _) (by decide) (by decide) (Eq.refl _)

theorem Laws.RoundTrip.rsq (h : Head) : Laws.RoundTrip.Statement (.rsq h) :=
  Laws.RoundTrip.of_trigger (Eq.refl _) (by decide) (by decide) (Eq.refl _)

theorem Laws.RoundTrip.sqrt (h : Head) : Laws.RoundTrip.Statement (.sqrt h) :=
  Laws.RoundTrip.of_trigger (Eq.refl _) (by decide) (by decide) (Eq.refl _)

theorem Laws.RoundTrip.ex2 (h : Head) : Laws.RoundTrip.Statement (.ex2 h) :=
  Laws.RoundTrip.of_trigger (Eq.refl _) (by decide) (by decide) (Eq.refl _)

theorem Laws.RoundTrip.lg2 (h : Head) : Laws.RoundTrip.Statement (.lg2 h) :=
  Laws.RoundTrip.of_trigger (Eq.refl _) (by decide) (by decide) (Eq.refl _)

theorem Laws.RoundTrip.sinr (h : Head) : Laws.RoundTrip.Statement (.sinr h) :=
  Laws.RoundTrip.of_trigger (Eq.refl _) (by decide) (by decide) (Eq.refl _)

theorem Laws.RoundTrip.cosr (h : Head) : Laws.RoundTrip.Statement (.cosr h) :=
  Laws.RoundTrip.of_trigger (Eq.refl _) (by decide) (by decide) (Eq.refl _)

theorem Laws.RoundTrip.tanh (h : Head) : Laws.RoundTrip.Statement (.tanh h) :=
  Laws.RoundTrip.of_trigger (Eq.refl _) (by decide) (by decide) (Eq.refl _)

theorem Laws.RoundTrip.cvt (h : Head) : Laws.RoundTrip.Statement (.cvt h) :=
  Laws.RoundTrip.of_trigger (Eq.refl _) (by decide) (by decide) (Eq.refl _)

theorem Laws.RoundTrip.qntS8 (h : Head) : Laws.RoundTrip.Statement (.qntS8 h) :=
  Laws.RoundTrip.of_trigger (Eq.refl _) (by decide) (by decide) (Eq.refl _)

theorem Laws.RoundTrip.qntN8 (h : Head) : Laws.RoundTrip.Statement (.qntN8 h) :=
  Laws.RoundTrip.of_trigger (Eq.refl _) (by decide) (by decide) (Eq.refl _)

theorem Laws.RoundTrip.qntS4 (h : Head) : Laws.RoundTrip.Statement (.qntS4 h) :=
  Laws.RoundTrip.of_trigger (Eq.refl _) (by decide) (by decide) (Eq.refl _)

theorem Laws.RoundTrip.qntN4 (h : Head) : Laws.RoundTrip.Statement (.qntN4 h) :=
  Laws.RoundTrip.of_trigger (Eq.refl _) (by decide) (by decide) (Eq.refl _)

theorem Laws.RoundTrip.qntS16 (h : Head) : Laws.RoundTrip.Statement (.qntS16 h) :=
  Laws.RoundTrip.of_trigger (Eq.refl _) (by decide) (by decide) (Eq.refl _)

theorem Laws.RoundTrip.dqn (h : Head) : Laws.RoundTrip.Statement (.dqn h) :=
  Laws.RoundTrip.of_trigger (Eq.refl _) (by decide) (by decide) (Eq.refl _)

theorem Laws.RoundTrip.pkh (h : Head) : Laws.RoundTrip.Statement (.pkh h) :=
  Laws.RoundTrip.of_trigger (Eq.refl _) (by decide) (by decide) (Eq.refl _)

theorem Laws.RoundTrip.pkb (h : Head) : Laws.RoundTrip.Statement (.pkb h) :=
  Laws.RoundTrip.of_trigger (Eq.refl _) (by decide) (by decide) (Eq.refl _)

theorem Laws.RoundTrip.shfl (h : Head) : Laws.RoundTrip.Statement (.shfl h) :=
  Laws.RoundTrip.of_trigger (Eq.refl _) (by decide) (by decide) (Eq.refl _)

theorem Laws.RoundTrip.shup (h : Head) : Laws.RoundTrip.Statement (.shup h) :=
  Laws.RoundTrip.of_trigger (Eq.refl _) (by decide) (by decide) (Eq.refl _)

theorem Laws.RoundTrip.shdn (h : Head) : Laws.RoundTrip.Statement (.shdn h) :=
  Laws.RoundTrip.of_trigger (Eq.refl _) (by decide) (by decide) (Eq.refl _)

theorem Laws.RoundTrip.shxr (h : Head) : Laws.RoundTrip.Statement (.shxr h) :=
  Laws.RoundTrip.of_trigger (Eq.refl _) (by decide) (by decide) (Eq.refl _)

theorem Laws.RoundTrip.bcst (h : Head) : Laws.RoundTrip.Statement (.bcst h) :=
  Laws.RoundTrip.of_trigger (Eq.refl _) (by decide) (by decide) (Eq.refl _)

theorem Laws.RoundTrip.ball (h : Head) : Laws.RoundTrip.Statement (.ball h) :=
  Laws.RoundTrip.of_trigger (Eq.refl _) (by decide) (by decide) (Eq.refl _)

theorem Laws.RoundTrip.vany (h : Head) : Laws.RoundTrip.Statement (.vany h) :=
  Laws.RoundTrip.of_trigger (Eq.refl _) (by decide) (by decide) (Eq.refl _)

theorem Laws.RoundTrip.vall (h : Head) : Laws.RoundTrip.Statement (.vall h) :=
  Laws.RoundTrip.of_trigger (Eq.refl _) (by decide) (by decide) (Eq.refl _)

theorem Laws.RoundTrip.matchPeers (h : Head) : Laws.RoundTrip.Statement (.matchPeers h) :=
  Laws.RoundTrip.of_trigger (Eq.refl _) (by decide) (by decide) (Eq.refl _)

theorem Laws.RoundTrip.mtcha (h : Head) : Laws.RoundTrip.Statement (.mtcha h) :=
  Laws.RoundTrip.of_trigger (Eq.refl _) (by decide) (by decide) (Eq.refl _)

theorem Laws.RoundTrip.wadd (h : Head) : Laws.RoundTrip.Statement (.wadd h) :=
  Laws.RoundTrip.of_trigger (Eq.refl _) (by decide) (by decide) (Eq.refl _)

theorem Laws.RoundTrip.wmin (h : Head) : Laws.RoundTrip.Statement (.wmin h) :=
  Laws.RoundTrip.of_trigger (Eq.refl _) (by decide) (by decide) (Eq.refl _)

theorem Laws.RoundTrip.wmax (h : Head) : Laws.RoundTrip.Statement (.wmax h) :=
  Laws.RoundTrip.of_trigger (Eq.refl _) (by decide) (by decide) (Eq.refl _)

theorem Laws.RoundTrip.wminn (h : Head) : Laws.RoundTrip.Statement (.wminn h) :=
  Laws.RoundTrip.of_trigger (Eq.refl _) (by decide) (by decide) (Eq.refl _)

theorem Laws.RoundTrip.wmaxn (h : Head) : Laws.RoundTrip.Statement (.wmaxn h) :=
  Laws.RoundTrip.of_trigger (Eq.refl _) (by decide) (by decide) (Eq.refl _)

theorem Laws.RoundTrip.wand (h : Head) : Laws.RoundTrip.Statement (.wand h) :=
  Laws.RoundTrip.of_trigger (Eq.refl _) (by decide) (by decide) (Eq.refl _)

theorem Laws.RoundTrip.wor (h : Head) : Laws.RoundTrip.Statement (.wor h) :=
  Laws.RoundTrip.of_trigger (Eq.refl _) (by decide) (by decide) (Eq.refl _)

theorem Laws.RoundTrip.wxor (h : Head) : Laws.RoundTrip.Statement (.wxor h) :=
  Laws.RoundTrip.of_trigger (Eq.refl _) (by decide) (by decide) (Eq.refl _)

theorem Laws.RoundTrip.wfadd (h : Head) : Laws.RoundTrip.Statement (.wfadd h) :=
  Laws.RoundTrip.of_trigger (Eq.refl _) (by decide) (by decide) (Eq.refl _)

theorem Laws.RoundTrip.scan (h : Head) : Laws.RoundTrip.Statement (.scan h) :=
  Laws.RoundTrip.of_trigger (Eq.refl _) (by decide) (by decide) (Eq.refl _)

theorem Laws.RoundTrip.scanx (h : Head) : Laws.RoundTrip.Statement (.scanx h) :=
  Laws.RoundTrip.of_trigger (Eq.refl _) (by decide) (by decide) (Eq.refl _)

theorem Laws.RoundTrip.pln (h : Head) : Laws.RoundTrip.Statement (.pln h) :=
  Laws.RoundTrip.of_trigger (Eq.refl _) (by decide) (by decide) (Eq.refl _)

theorem Laws.RoundTrip.plg (h : Head) : Laws.RoundTrip.Statement (.plg h) :=
  Laws.RoundTrip.of_trigger (Eq.refl _) (by decide) (by decide) (Eq.refl _)

theorem Laws.RoundTrip.bra (h : Head) : Laws.RoundTrip.Statement (.bra h) :=
  Laws.RoundTrip.of_trigger (Eq.refl _) (by decide) (by decide) (Eq.refl _)

theorem Laws.RoundTrip.brc (h : Head) : Laws.RoundTrip.Statement (.brc h) :=
  Laws.RoundTrip.of_trigger (Eq.refl _) (by decide) (by decide) (Eq.refl _)

theorem Laws.RoundTrip.join (x : Src) (k : Fin 4) : Laws.RoundTrip.Statement (.join x k) := Laws.RoundTrip.of_trigger (Eq.refl _) (by decide) (by decide) (Eq.refl _)

theorem Laws.RoundTrip.call (h : Head) : Laws.RoundTrip.Statement (.call h) :=
  Laws.RoundTrip.of_trigger (Eq.refl _) (by decide) (by decide) (Eq.refl _)

theorem Laws.RoundTrip.ret (h : Head) : Laws.RoundTrip.Statement (.ret h) :=
  Laws.RoundTrip.of_trigger (Eq.refl _) (by decide) (by decide) (Eq.refl _)

theorem Laws.RoundTrip.loop (x : Src) (k : Fin 4) : Laws.RoundTrip.Statement (.loop x k) := Laws.RoundTrip.of_trigger (Eq.refl _) (by decide) (by decide) (Eq.refl _)

theorem Laws.RoundTrip.lback (x : Src) (k : Fin 4) : Laws.RoundTrip.Statement (.lback x k) := Laws.RoundTrip.of_trigger (Eq.refl _) (by decide) (by decide) (Eq.refl _)

theorem Laws.RoundTrip.lext (h : Head) : Laws.RoundTrip.Statement (.lext h) :=
  Laws.RoundTrip.of_trigger (Eq.refl _) (by decide) (by decide) (Eq.refl _)

theorem Laws.RoundTrip.exit (h : Head) : Laws.RoundTrip.Statement (.exit h) :=
  Laws.RoundTrip.of_trigger (Eq.refl _) (by decide) (by decide) (Eq.refl _)

theorem Laws.RoundTrip.endTask (h : Head) : Laws.RoundTrip.Statement (.endTask h) :=
  Laws.RoundTrip.of_trigger (Eq.refl _) (by decide) (by decide) (Eq.refl _)

theorem Laws.RoundTrip.rfl (x : Src) (k : Fin 4) : Laws.RoundTrip.Statement (.rfl x k) := Laws.RoundTrip.of_trigger (Eq.refl _) (by decide) (by decide) (Eq.refl _)

theorem Laws.RoundTrip.psw (h : Head) : Laws.RoundTrip.Statement (.psw h) :=
  Laws.RoundTrip.of_trigger (Eq.refl _) (by decide) (by decide) (Eq.refl _)

theorem Laws.RoundTrip.brk (h : Head) : Laws.RoundTrip.Statement (.brk h) :=
  Laws.RoundTrip.of_trigger (Eq.refl _) (by decide) (by decide) (Eq.refl _)

theorem Laws.RoundTrip.wait (h : Head) : Laws.RoundTrip.Statement (.wait h) :=
  Laws.RoundTrip.of_trigger (Eq.refl _) (by decide) (by decide) (Eq.refl _)

theorem Laws.RoundTrip.bar (h : Head) : Laws.RoundTrip.Statement (.bar h) :=
  Laws.RoundTrip.of_trigger (Eq.refl _) (by decide) (by decide) (Eq.refl _)

theorem Laws.RoundTrip.bara (h : Head) : Laws.RoundTrip.Statement (.bara h) :=
  Laws.RoundTrip.of_trigger (Eq.refl _) (by decide) (by decide) (Eq.refl _)

theorem Laws.RoundTrip.barw (h : Head) : Laws.RoundTrip.Statement (.barw h) :=
  Laws.RoundTrip.of_trigger (Eq.refl _) (by decide) (by decide) (Eq.refl _)

theorem Laws.RoundTrip.sync (h : Head) : Laws.RoundTrip.Statement (.sync h) :=
  Laws.RoundTrip.of_trigger (Eq.refl _) (by decide) (by decide) (Eq.refl _)

theorem Laws.RoundTrip.boi (h : Head) : Laws.RoundTrip.Statement (.boi h) :=
  Laws.RoundTrip.of_trigger (Eq.refl _) (by decide) (by decide) (Eq.refl _)

theorem Laws.RoundTrip.box (h : Head) : Laws.RoundTrip.Statement (.box h) :=
  Laws.RoundTrip.of_trigger (Eq.refl _) (by decide) (by decide) (Eq.refl _)

theorem Laws.RoundTrip.boa (h : Head) : Laws.RoundTrip.Statement (.boa h) :=
  Laws.RoundTrip.of_trigger (Eq.refl _) (by decide) (by decide) (Eq.refl _)

theorem Laws.RoundTrip.bow (h : Head) : Laws.RoundTrip.Statement (.bow h) :=
  Laws.RoundTrip.of_trigger (Eq.refl _) (by decide) (by decide) (Eq.refl _)

theorem Laws.RoundTrip.bot (h : Head) : Laws.RoundTrip.Statement (.bot h) :=
  Laws.RoundTrip.of_trigger (Eq.refl _) (by decide) (by decide) (Eq.refl _)

theorem Laws.RoundTrip.rel (h : Head) (e : Scope) : Laws.RoundTrip.Statement (.rel h e) := by
  cases e <;> exact Laws.RoundTrip.of_trigger (Eq.refl _) (by decide) (by decide) (Eq.refl _)

theorem Laws.RoundTrip.acq (h : Head) (e : Scope) : Laws.RoundTrip.Statement (.acq h e) := by
  cases e <;> exact Laws.RoundTrip.of_trigger (Eq.refl _) (by decide) (by decide) (Eq.refl _)

theorem Laws.RoundTrip.fen (h : Head) (e : Scope) : Laws.RoundTrip.Statement (.fen h e) := by
  cases e <;> exact Laws.RoundTrip.of_trigger (Eq.refl _) (by decide) (by decide) (Eq.refl _)

theorem Laws.RoundTrip.csrr (h : Head) : Laws.RoundTrip.Statement (.csrr h) :=
  Laws.RoundTrip.of_trigger (Eq.refl _) (by decide) (by decide) (Eq.refl _)

theorem Laws.RoundTrip.csrw (h : Head) : Laws.RoundTrip.Statement (.csrw h) :=
  Laws.RoundTrip.of_trigger (Eq.refl _) (by decide) (by decide) (Eq.refl _)

theorem Laws.RoundTrip.trap (h : Head) : Laws.RoundTrip.Statement (.trap h) :=
  Laws.RoundTrip.of_trigger (Eq.refl _) (by decide) (by decide) (Eq.refl _)

theorem Laws.RoundTrip.rte (h : Head) : Laws.RoundTrip.Statement (.rte h) :=
  Laws.RoundTrip.of_trigger (Eq.refl _) (by decide) (by decide) (Eq.refl _)

theorem Laws.RoundTrip.chk (h : Head) : Laws.RoundTrip.Statement (.chk h) :=
  Laws.RoundTrip.of_trigger (Eq.refl _) (by decide) (by decide) (Eq.refl _)

theorem Laws.RoundTrip.shp (h : Head) : Laws.RoundTrip.Statement (.shp h) :=
  Laws.RoundTrip.of_trigger (Eq.refl _) (by decide) (by decide) (Eq.refl _)

theorem Laws.RoundTrip.obj (h : Head) : Laws.RoundTrip.Statement (.obj h) :=
  Laws.RoundTrip.of_trigger (Eq.refl _) (by decide) (by decide) (Eq.refl _)

theorem Laws.RoundTrip.evt (h : Head) : Laws.RoundTrip.Statement (.evt h) :=
  Laws.RoundTrip.of_trigger (Eq.refl _) (by decide) (by decide) (Eq.refl _)

theorem Laws.RoundTrip.mxw (h : Head) : Laws.RoundTrip.Statement (.mxw h) :=
  Laws.RoundTrip.of_trigger (Eq.refl _) (by decide) (by decide) (Eq.refl _)

theorem Laws.RoundTrip.mxs (h : Head) : Laws.RoundTrip.Statement (.mxs h) :=
  Laws.RoundTrip.of_trigger (Eq.refl _) (by decide) (by decide) (Eq.refl _)

theorem Laws.RoundTrip.mxg (h : Head) : Laws.RoundTrip.Statement (.mxg h) :=
  Laws.RoundTrip.of_trigger (Eq.refl _) (by decide) (by decide) (Eq.refl _)

theorem Laws.RoundTrip.mxd (h : Head) : Laws.RoundTrip.Statement (.mxd h) :=
  Laws.RoundTrip.of_trigger (Eq.refl _) (by decide) (by decide) (Eq.refl _)

theorem Laws.RoundTrip.mxz (h : Head) : Laws.RoundTrip.Statement (.mxz h) :=
  Laws.RoundTrip.of_trigger (Eq.refl _) (by decide) (by decide) (Eq.refl _)

theorem Laws.RoundTrip.mxr (h : Head) : Laws.RoundTrip.Statement (.mxr h) :=
  Laws.RoundTrip.of_trigger (Eq.refl _) (by decide) (by decide) (Eq.refl _)

theorem Laws.RoundTrip.mxq (h : Head) : Laws.RoundTrip.Statement (.mxq h) :=
  Laws.RoundTrip.of_trigger (Eq.refl _) (by decide) (by decide) (Eq.refl _)

theorem Laws.RoundTrip.mxa (h : Head) : Laws.RoundTrip.Statement (.mxa h) :=
  Laws.RoundTrip.of_trigger (Eq.refl _) (by decide) (by decide) (Eq.refl _)

theorem Laws.RoundTrip.cpy (h : Head) (u : Fin 2) : Laws.RoundTrip.Statement (.cpy h u) := by
  match u with
  | 0 => exact Laws.RoundTrip.of_trigger (Eq.refl _) (by decide) (by decide) (Eq.refl _)
  | 1 => exact Laws.RoundTrip.of_trigger (Eq.refl _) (by decide) (by decide) (Eq.refl _)

theorem Laws.RoundTrip.gth (h : Head) (u : Fin 2) : Laws.RoundTrip.Statement (.gth h u) := by
  match u with
  | 0 => exact Laws.RoundTrip.of_trigger (Eq.refl _) (by decide) (by decide) (Eq.refl _)
  | 1 => exact Laws.RoundTrip.of_trigger (Eq.refl _) (by decide) (by decide) (Eq.refl _)

theorem Laws.RoundTrip.sct (h : Head) (u : Fin 2) : Laws.RoundTrip.Statement (.sct h u) := by
  match u with
  | 0 => exact Laws.RoundTrip.of_trigger (Eq.refl _) (by decide) (by decide) (Eq.refl _)
  | 1 => exact Laws.RoundTrip.of_trigger (Eq.refl _) (by decide) (by decide) (Eq.refl _)

theorem Laws.RoundTrip.ard (h : Head) (u : Fin 2) : Laws.RoundTrip.Statement (.ard h u) := by
  match u with
  | 0 => exact Laws.RoundTrip.of_trigger (Eq.refl _) (by decide) (by decide) (Eq.refl _)
  | 1 => exact Laws.RoundTrip.of_trigger (Eq.refl _) (by decide) (by decide) (Eq.refl _)

theorem Laws.RoundTrip.bcs (h : Head) (u : Fin 2) : Laws.RoundTrip.Statement (.bcs h u) := by
  match u with
  | 0 => exact Laws.RoundTrip.of_trigger (Eq.refl _) (by decide) (by decide) (Eq.refl _)
  | 1 => exact Laws.RoundTrip.of_trigger (Eq.refl _) (by decide) (by decide) (Eq.refl _)

theorem Laws.RoundTrip.cpr (h : Head) (u : Fin 2) : Laws.RoundTrip.Statement (.cpr h u) := by
  match u with
  | 0 => exact Laws.RoundTrip.of_trigger (Eq.refl _) (by decide) (by decide) (Eq.refl _)
  | 1 => exact Laws.RoundTrip.of_trigger (Eq.refl _) (by decide) (by decide) (Eq.refl _)

theorem Laws.RoundTrip.cpq (h : Head) (u : Fin 2) : Laws.RoundTrip.Statement (.cpq h u) := by
  match u with
  | 0 => exact Laws.RoundTrip.of_trigger (Eq.refl _) (by decide) (by decide) (Eq.refl _)
  | 1 => exact Laws.RoundTrip.of_trigger (Eq.refl _) (by decide) (by decide) (Eq.refl _)

theorem Laws.RoundTrip.cpf (h : Head) (u : Fin 2) : Laws.RoundTrip.Statement (.cpf h u) := by
  match u with
  | 0 => exact Laws.RoundTrip.of_trigger (Eq.refl _) (by decide) (by decide) (Eq.refl _)
  | 1 => exact Laws.RoundTrip.of_trigger (Eq.refl _) (by decide) (by decide) (Eq.refl _)

theorem Laws.RoundTrip.dqp (h : Head) : Laws.RoundTrip.Statement (.dqp h) :=
  Laws.RoundTrip.of_trigger (Eq.refl _) (by decide) (by decide) (Eq.refl _)

theorem Laws.RoundTrip.sinc (h : Head) : Laws.RoundTrip.Statement (.sinc h) :=
  Laws.RoundTrip.of_trigger (Eq.refl _) (by decide) (by decide) (Eq.refl _)

theorem Laws.RoundTrip.sdec (h : Head) : Laws.RoundTrip.Statement (.sdec h) :=
  Laws.RoundTrip.of_trigger (Eq.refl _) (by decide) (by decide) (Eq.refl _)

theorem Laws.RoundTrip.sset (h : Head) : Laws.RoundTrip.Statement (.sset h) :=
  Laws.RoundTrip.of_trigger (Eq.refl _) (by decide) (by decide) (Eq.refl _)

theorem Laws.RoundTrip.lacq (h : Head) : Laws.RoundTrip.Statement (.lacq h) :=
  Laws.RoundTrip.of_trigger (Eq.refl _) (by decide) (by decide) (Eq.refl _)

theorem Laws.RoundTrip.lrel (h : Head) : Laws.RoundTrip.Statement (.lrel h) :=
  Laws.RoundTrip.of_trigger (Eq.refl _) (by decide) (by decide) (Eq.refl _)

theorem Laws.RoundTrip.tarm (h : Head) : Laws.RoundTrip.Statement (.tarm h) :=
  Laws.RoundTrip.of_trigger (Eq.refl _) (by decide) (by decide) (Eq.refl _)

theorem Laws.RoundTrip.tdis (h : Head) : Laws.RoundTrip.Statement (.tdis h) :=
  Laws.RoundTrip.of_trigger (Eq.refl _) (by decide) (by decide) (Eq.refl _)

theorem Laws.RoundTrip.cti (h : Head) : Laws.RoundTrip.Statement (.cti h) :=
  Laws.RoundTrip.of_trigger (Eq.refl _) (by decide) (by decide) (Eq.refl _)

theorem Laws.RoundTrip.ctd (h : Head) : Laws.RoundTrip.Statement (.ctd h) :=
  Laws.RoundTrip.of_trigger (Eq.refl _) (by decide) (by decide) (Eq.refl _)

theorem Laws.RoundTrip.cts (h : Head) : Laws.RoundTrip.Statement (.cts h) :=
  Laws.RoundTrip.of_trigger (Eq.refl _) (by decide) (by decide) (Eq.refl _)

theorem Laws.RoundTrip.lds (h : Head) (wd : Width) : Laws.RoundTrip.Statement (.lds h wd) := by
  cases wd <;> first | exact Laws.RoundTrip.of_trigger (Eq.refl _) (by decide) (by decide) (Eq.refl _) | exact Laws.RoundTrip.of_illFormed (Eq.refl _)

theorem Laws.RoundTrip.ldg (h : Head) (wd : Width) (n : Hint) : Laws.RoundTrip.Statement (.ldg h wd n) := by
  cases wd <;> cases n <;> first | exact Laws.RoundTrip.of_trigger (Eq.refl _) (by decide) (by decide) (Eq.refl _) | exact Laws.RoundTrip.of_illFormed (Eq.refl _)

theorem Laws.RoundTrip.ldgs (h : Head) (wd : Width) (n : Hint) : Laws.RoundTrip.Statement (.ldgs h wd n) := by
  cases wd <;> cases n <;> first | exact Laws.RoundTrip.of_trigger (Eq.refl _) (by decide) (by decide) (Eq.refl _) | exact Laws.RoundTrip.of_illFormed (Eq.refl _)

theorem Laws.RoundTrip.pfg (h : Head) (wd : Width) (n : Hint) : Laws.RoundTrip.Statement (.pfg h wd n) := by
  cases wd <;> cases n <;> first | exact Laws.RoundTrip.of_trigger (Eq.refl _) (by decide) (by decide) (Eq.refl _) | exact Laws.RoundTrip.of_illFormed (Eq.refl _)

theorem Laws.RoundTrip.ldw (h : Head) (wd : Width) : Laws.RoundTrip.Statement (.ldw h wd) := by
  cases wd <;> first | exact Laws.RoundTrip.of_trigger (Eq.refl _) (by decide) (by decide) (Eq.refl _) | exact Laws.RoundTrip.of_illFormed (Eq.refl _)

theorem Laws.RoundTrip.sts (h : Head) (wd : Width) : Laws.RoundTrip.Statement (.sts h wd) := by
  cases wd <;> first | exact Laws.RoundTrip.of_trigger (Eq.refl _) (by decide) (by decide) (Eq.refl _) | exact Laws.RoundTrip.of_illFormed (Eq.refl _)

theorem Laws.RoundTrip.stg (h : Head) (wd : Width) (n : Hint) : Laws.RoundTrip.Statement (.stg h wd n) := by
  cases wd <;> cases n <;> first | exact Laws.RoundTrip.of_trigger (Eq.refl _) (by decide) (by decide) (Eq.refl _) | exact Laws.RoundTrip.of_illFormed (Eq.refl _)

theorem Laws.RoundTrip.atsAdd (h : Head) : Laws.RoundTrip.Statement (.atsAdd h) :=
  Laws.RoundTrip.of_trigger (Eq.refl _) (by decide) (by decide) (Eq.refl _)

theorem Laws.RoundTrip.atsMin (h : Head) : Laws.RoundTrip.Statement (.atsMin h) :=
  Laws.RoundTrip.of_trigger (Eq.refl _) (by decide) (by decide) (Eq.refl _)

theorem Laws.RoundTrip.atsMax (h : Head) : Laws.RoundTrip.Statement (.atsMax h) :=
  Laws.RoundTrip.of_trigger (Eq.refl _) (by decide) (by decide) (Eq.refl _)

theorem Laws.RoundTrip.atsMinn (h : Head) : Laws.RoundTrip.Statement (.atsMinn h) :=
  Laws.RoundTrip.of_trigger (Eq.refl _) (by decide) (by decide) (Eq.refl _)

theorem Laws.RoundTrip.atsMaxn (h : Head) : Laws.RoundTrip.Statement (.atsMaxn h) :=
  Laws.RoundTrip.of_trigger (Eq.refl _) (by decide) (by decide) (Eq.refl _)

theorem Laws.RoundTrip.atsAnd (h : Head) : Laws.RoundTrip.Statement (.atsAnd h) :=
  Laws.RoundTrip.of_trigger (Eq.refl _) (by decide) (by decide) (Eq.refl _)

theorem Laws.RoundTrip.atsOr (h : Head) : Laws.RoundTrip.Statement (.atsOr h) :=
  Laws.RoundTrip.of_trigger (Eq.refl _) (by decide) (by decide) (Eq.refl _)

theorem Laws.RoundTrip.atsXor (h : Head) : Laws.RoundTrip.Statement (.atsXor h) :=
  Laws.RoundTrip.of_trigger (Eq.refl _) (by decide) (by decide) (Eq.refl _)

theorem Laws.RoundTrip.atsXchg (h : Head) : Laws.RoundTrip.Statement (.atsXchg h) :=
  Laws.RoundTrip.of_trigger (Eq.refl _) (by decide) (by decide) (Eq.refl _)

theorem Laws.RoundTrip.atsCas (h : Head) : Laws.RoundTrip.Statement (.atsCas h) :=
  Laws.RoundTrip.of_trigger (Eq.refl _) (by decide) (by decide) (Eq.refl _)

theorem Laws.RoundTrip.atsInc (h : Head) : Laws.RoundTrip.Statement (.atsInc h) :=
  Laws.RoundTrip.of_trigger (Eq.refl _) (by decide) (by decide) (Eq.refl _)

theorem Laws.RoundTrip.atsDec (h : Head) : Laws.RoundTrip.Statement (.atsDec h) :=
  Laws.RoundTrip.of_trigger (Eq.refl _) (by decide) (by decide) (Eq.refl _)

theorem Laws.RoundTrip.atsFadd (h : Head) : Laws.RoundTrip.Statement (.atsFadd h) :=
  Laws.RoundTrip.of_trigger (Eq.refl _) (by decide) (by decide) (Eq.refl _)

theorem Laws.RoundTrip.atgAdd (h : Head) (c : AtomScope) : Laws.RoundTrip.Statement (.atgAdd h c) := by
  cases c <;> exact Laws.RoundTrip.of_trigger (Eq.refl _) (by decide) (by decide) (Eq.refl _)

theorem Laws.RoundTrip.atgMin (h : Head) (c : AtomScope) : Laws.RoundTrip.Statement (.atgMin h c) := by
  cases c <;> exact Laws.RoundTrip.of_trigger (Eq.refl _) (by decide) (by decide) (Eq.refl _)

theorem Laws.RoundTrip.atgMax (h : Head) (c : AtomScope) : Laws.RoundTrip.Statement (.atgMax h c) := by
  cases c <;> exact Laws.RoundTrip.of_trigger (Eq.refl _) (by decide) (by decide) (Eq.refl _)

theorem Laws.RoundTrip.atgMinn (h : Head) (c : AtomScope) : Laws.RoundTrip.Statement (.atgMinn h c) := by
  cases c <;> exact Laws.RoundTrip.of_trigger (Eq.refl _) (by decide) (by decide) (Eq.refl _)

theorem Laws.RoundTrip.atgMaxn (h : Head) (c : AtomScope) : Laws.RoundTrip.Statement (.atgMaxn h c) := by
  cases c <;> exact Laws.RoundTrip.of_trigger (Eq.refl _) (by decide) (by decide) (Eq.refl _)

theorem Laws.RoundTrip.atgAnd (h : Head) (c : AtomScope) : Laws.RoundTrip.Statement (.atgAnd h c) := by
  cases c <;> exact Laws.RoundTrip.of_trigger (Eq.refl _) (by decide) (by decide) (Eq.refl _)

theorem Laws.RoundTrip.atgOr (h : Head) (c : AtomScope) : Laws.RoundTrip.Statement (.atgOr h c) := by
  cases c <;> exact Laws.RoundTrip.of_trigger (Eq.refl _) (by decide) (by decide) (Eq.refl _)

theorem Laws.RoundTrip.atgXor (h : Head) (c : AtomScope) : Laws.RoundTrip.Statement (.atgXor h c) := by
  cases c <;> exact Laws.RoundTrip.of_trigger (Eq.refl _) (by decide) (by decide) (Eq.refl _)

theorem Laws.RoundTrip.atgXchg (h : Head) (c : AtomScope) : Laws.RoundTrip.Statement (.atgXchg h c) := by
  cases c <;> exact Laws.RoundTrip.of_trigger (Eq.refl _) (by decide) (by decide) (Eq.refl _)

theorem Laws.RoundTrip.atgCas (h : Head) (c : AtomScope) : Laws.RoundTrip.Statement (.atgCas h c) := by
  cases c <;> exact Laws.RoundTrip.of_trigger (Eq.refl _) (by decide) (by decide) (Eq.refl _)

theorem Laws.RoundTrip.atgInc (h : Head) (c : AtomScope) : Laws.RoundTrip.Statement (.atgInc h c) := by
  cases c <;> exact Laws.RoundTrip.of_trigger (Eq.refl _) (by decide) (by decide) (Eq.refl _)

theorem Laws.RoundTrip.atgDec (h : Head) (c : AtomScope) : Laws.RoundTrip.Statement (.atgDec h c) := by
  cases c <;> exact Laws.RoundTrip.of_trigger (Eq.refl _) (by decide) (by decide) (Eq.refl _)

theorem Laws.RoundTrip.atgFadd (h : Head) (c : AtomScope) : Laws.RoundTrip.Statement (.atgFadd h c) := by
  cases c <;> exact Laws.RoundTrip.of_trigger (Eq.refl _) (by decide) (by decide) (Eq.refl _)

theorem Laws.RoundTrip.redAdd (h : Head) (c : AtomScope) : Laws.RoundTrip.Statement (.redAdd h c) := by
  cases c <;> exact Laws.RoundTrip.of_trigger (Eq.refl _) (by decide) (by decide) (Eq.refl _)

theorem Laws.RoundTrip.redMin (h : Head) (c : AtomScope) : Laws.RoundTrip.Statement (.redMin h c) := by
  cases c <;> exact Laws.RoundTrip.of_trigger (Eq.refl _) (by decide) (by decide) (Eq.refl _)

theorem Laws.RoundTrip.redMax (h : Head) (c : AtomScope) : Laws.RoundTrip.Statement (.redMax h c) := by
  cases c <;> exact Laws.RoundTrip.of_trigger (Eq.refl _) (by decide) (by decide) (Eq.refl _)

theorem Laws.RoundTrip.redMinn (h : Head) (c : AtomScope) : Laws.RoundTrip.Statement (.redMinn h c) := by
  cases c <;> exact Laws.RoundTrip.of_trigger (Eq.refl _) (by decide) (by decide) (Eq.refl _)

theorem Laws.RoundTrip.redMaxn (h : Head) (c : AtomScope) : Laws.RoundTrip.Statement (.redMaxn h c) := by
  cases c <;> exact Laws.RoundTrip.of_trigger (Eq.refl _) (by decide) (by decide) (Eq.refl _)

theorem Laws.RoundTrip.redAnd (h : Head) (c : AtomScope) : Laws.RoundTrip.Statement (.redAnd h c) := by
  cases c <;> exact Laws.RoundTrip.of_trigger (Eq.refl _) (by decide) (by decide) (Eq.refl _)

theorem Laws.RoundTrip.redOr (h : Head) (c : AtomScope) : Laws.RoundTrip.Statement (.redOr h c) := by
  cases c <;> exact Laws.RoundTrip.of_trigger (Eq.refl _) (by decide) (by decide) (Eq.refl _)

theorem Laws.RoundTrip.redXor (h : Head) (c : AtomScope) : Laws.RoundTrip.Statement (.redXor h c) := by
  cases c <;> exact Laws.RoundTrip.of_trigger (Eq.refl _) (by decide) (by decide) (Eq.refl _)

theorem Laws.RoundTrip.redInc (h : Head) (c : AtomScope) : Laws.RoundTrip.Statement (.redInc h c) := by
  cases c <;> exact Laws.RoundTrip.of_trigger (Eq.refl _) (by decide) (by decide) (Eq.refl _)

theorem Laws.RoundTrip.redDec (h : Head) (c : AtomScope) : Laws.RoundTrip.Statement (.redDec h c) := by
  cases c <;> exact Laws.RoundTrip.of_trigger (Eq.refl _) (by decide) (by decide) (Eq.refl _)

theorem Laws.RoundTrip.redFadd (h : Head) (c : AtomScope) : Laws.RoundTrip.Statement (.redFadd h c) := by
  cases c <;> exact Laws.RoundTrip.of_trigger (Eq.refl _) (by decide) (by decide) (Eq.refl _)

theorem Laws.RoundTrip.resultLanding (t : Tid) : Laws.RoundTrip.Statement (.resultLanding t) := Laws.RoundTrip.of_none (Eq.refl _)

theorem Laws.RoundTrip.delayExpiry (t : Tid) (sp : Nat) : Laws.RoundTrip.Statement (.delayExpiry t sp) := Laws.RoundTrip.of_none (Eq.refl _)

theorem Laws.RoundTrip.waitExpiry (t : Tid) (sp : Nat) : Laws.RoundTrip.Statement (.waitExpiry t sp) := Laws.RoundTrip.of_none (Eq.refl _)

theorem Laws.RoundTrip.loadDataArrival (t : Tid) (p : LoadPort) (i : Nat) (l : Nat) : Laws.RoundTrip.Statement (.loadDataArrival t p i l) := Laws.RoundTrip.of_none (Eq.refl _)

theorem Laws.RoundTrip.windowEntry (core : Nat) : Laws.RoundTrip.Statement (.windowEntry core) := Laws.RoundTrip.of_none (Eq.refl _)

theorem Laws.RoundTrip.atomicResponse (core : Nat) (seq : Nat) (addr : Nat) : Laws.RoundTrip.Statement (.atomicResponse core seq addr) := Laws.RoundTrip.of_none (Eq.refl _)

theorem Laws.RoundTrip.atomicRetry (core : Nat) (seq : Nat) (addr : Nat) : Laws.RoundTrip.Statement (.atomicRetry core seq addr) := Laws.RoundTrip.of_none (Eq.refl _)

theorem Laws.RoundTrip.storeDrain (core : Nat) (seq : Nat) : Laws.RoundTrip.Statement (.storeDrain core seq) := Laws.RoundTrip.of_none (Eq.refl _)

theorem Laws.RoundTrip.codeFetch (core : Nat) (fn : Nat) (line : Nat) : Laws.RoundTrip.Statement (.codeFetch core fn line) := Laws.RoundTrip.of_none (Eq.refl _)

theorem Laws.RoundTrip.rillGrant (t : Tid) : Laws.RoundTrip.Statement (.rillGrant t) := Laws.RoundTrip.of_none (Eq.refl _)

theorem Laws.RoundTrip.sequencerPick (core : Nat) (ctx : Nat) : Laws.RoundTrip.Statement (.sequencerPick core ctx) := Laws.RoundTrip.of_none (Eq.refl _)

theorem Laws.RoundTrip.taskOverrun (core : Nat) (ctx : Nat) : Laws.RoundTrip.Statement (.taskOverrun core ctx) := Laws.RoundTrip.of_none (Eq.refl _)

theorem Laws.RoundTrip.heldRecordEntry (core : Nat) : Laws.RoundTrip.Statement (.heldRecordEntry core) := Laws.RoundTrip.of_none (Eq.refl _)

theorem Laws.RoundTrip.doorbell (fn : Nat) (q : Nat) (v : Word) : Laws.RoundTrip.Statement (.doorbell fn q v) := Laws.RoundTrip.of_none (Eq.refl _)

theorem Laws.RoundTrip.launchArrival (fn : Nat) (q : Nat) : Laws.RoundTrip.Statement (.launchArrival fn q) := Laws.RoundTrip.of_none (Eq.refl _)

theorem Laws.RoundTrip.waitReread (lid : Nat) (i : Nat) : Laws.RoundTrip.Statement (.waitReread lid i) := Laws.RoundTrip.of_none (Eq.refl _)

theorem Laws.RoundTrip.bindRecordWrite (slot : Nat) (ws : List Word) : Laws.RoundTrip.Statement (.bindRecordWrite slot ws) := Laws.RoundTrip.of_none (Eq.refl _)

theorem Laws.RoundTrip.placementDecision (die : Nat) : Laws.RoundTrip.Statement (.placementDecision die) := Laws.RoundTrip.of_none (Eq.refl _)

theorem Laws.RoundTrip.agingPromotion (die : Nat) (slot : Nat) : Laws.RoundTrip.Statement (.agingPromotion die slot) := Laws.RoundTrip.of_none (Eq.refl _)

theorem Laws.RoundTrip.completionRecordPost (lid : Nat) : Laws.RoundTrip.Statement (.completionRecordPost lid) := Laws.RoundTrip.of_none (Eq.refl _)

theorem Laws.RoundTrip.grantedLevelWrite (cores : List Nat) (level : Nat) : Laws.RoundTrip.Statement (.grantedLevelWrite cores level) := Laws.RoundTrip.of_none (Eq.refl _)

theorem Laws.RoundTrip.bandPowerSwitch (quad : Nat) (band : Nat) (on : Bool) : Laws.RoundTrip.Statement (.bandPowerSwitch quad band on) := Laws.RoundTrip.of_none (Eq.refl _)

theorem Laws.RoundTrip.bandRampDone (quad : Nat) (band : Nat) : Laws.RoundTrip.Statement (.bandRampDone quad band) := Laws.RoundTrip.of_none (Eq.refl _)

theorem Laws.RoundTrip.thermalEmergency (die : Nat) : Laws.RoundTrip.Statement (.thermalEmergency die) := Laws.RoundTrip.of_none (Eq.refl _)

theorem Laws.RoundTrip.dieOnline (die : Nat) : Laws.RoundTrip.Statement (.dieOnline die) := Laws.RoundTrip.of_none (Eq.refl _)

theorem Laws.RoundTrip.barrierRestart (t : Tid) (sp : Nat) : Laws.RoundTrip.Statement (.barrierRestart t sp) := Laws.RoundTrip.of_none (Eq.refl _)

theorem Laws.RoundTrip.weirLineGrant (gen : Nat) : Laws.RoundTrip.Statement (.weirLineGrant gen) := Laws.RoundTrip.of_none (Eq.refl _)

theorem Laws.RoundTrip.weirRestart (gen : Nat) : Laws.RoundTrip.Statement (.weirRestart gen) := Laws.RoundTrip.of_none (Eq.refl _)

theorem Laws.RoundTrip.weirGather (gen : Nat) (die : Nat) : Laws.RoundTrip.Statement (.weirGather gen die) := Laws.RoundTrip.of_none (Eq.refl _)

theorem Laws.RoundTrip.restartProposal (gen : Nat) (die : Nat) : Laws.RoundTrip.Statement (.restartProposal gen die) := Laws.RoundTrip.of_none (Eq.refl _)

theorem Laws.RoundTrip.restartAck (gen : Nat) (die : Nat) : Laws.RoundTrip.Statement (.restartAck gen die) := Laws.RoundTrip.of_none (Eq.refl _)

theorem Laws.RoundTrip.restartConfirm (gen : Nat) : Laws.RoundTrip.Statement (.restartConfirm gen) := Laws.RoundTrip.of_none (Eq.refl _)

theorem Laws.RoundTrip.podSyncArrival (lid : Nat) (pkg : Nat) : Laws.RoundTrip.Statement (.podSyncArrival lid pkg) := Laws.RoundTrip.of_none (Eq.refl _)

theorem Laws.RoundTrip.barrierObjectRmw (core : Nat) : Laws.RoundTrip.Statement (.barrierObjectRmw core) := Laws.RoundTrip.of_none (Eq.refl _)

theorem Laws.RoundTrip.fenceDone (t : Tid) (sp : Nat) : Laws.RoundTrip.Statement (.fenceDone t sp) := Laws.RoundTrip.of_none (Eq.refl _)

theorem Laws.RoundTrip.watchdogExpiry (t : Tid) (sp : Nat) : Laws.RoundTrip.Statement (.watchdogExpiry t sp) := Laws.RoundTrip.of_none (Eq.refl _)

theorem Laws.RoundTrip.yieldRequest (core : Nat) (ctx : Nat) (area : Nat) : Laws.RoundTrip.Statement (.yieldRequest core ctx area) := Laws.RoundTrip.of_none (Eq.refl _)

theorem Laws.RoundTrip.safePointStop (t : Tid) (sp : Nat) : Laws.RoundTrip.Statement (.safePointStop t sp) := Laws.RoundTrip.of_none (Eq.refl _)

theorem Laws.RoundTrip.save (core : Nat) (ctx : Nat) : Laws.RoundTrip.Statement (.save core ctx) := Laws.RoundTrip.of_none (Eq.refl _)

theorem Laws.RoundTrip.enginePark (core : Nat) (ctx : Nat) (tag : Nat) : Laws.RoundTrip.Statement (.enginePark core ctx tag) := Laws.RoundTrip.of_none (Eq.refl _)

theorem Laws.RoundTrip.resume (save : Nat) (core : Nat) : Laws.RoundTrip.Statement (.resume save core) := Laws.RoundTrip.of_none (Eq.refl _)

theorem Laws.RoundTrip.engineCommandStart (core : Nat) (ctx : Nat) (tag : Nat) : Laws.RoundTrip.Statement (.engineCommandStart core ctx tag) := Laws.RoundTrip.of_none (Eq.refl _)

theorem Laws.RoundTrip.engineElementCommit (core : Nat) (ctx : Nat) (tag : Nat) : Laws.RoundTrip.Statement (.engineElementCommit core ctx tag) := Laws.RoundTrip.of_none (Eq.refl _)

theorem Laws.RoundTrip.engineElementFault (core : Nat) (ctx : Nat) (tag : Nat) (cause : Nat) : Laws.RoundTrip.Statement (.engineElementFault core ctx tag cause) := Laws.RoundTrip.of_none (Eq.refl _)

theorem Laws.RoundTrip.engineCommandComplete (core : Nat) (ctx : Nat) (tag : Nat) : Laws.RoundTrip.Statement (.engineCommandComplete core ctx tag) := Laws.RoundTrip.of_none (Eq.refl _)

theorem Laws.RoundTrip.collectiveParkSignal (core : Nat) (ctx : Nat) (tag : Nat) : Laws.RoundTrip.Statement (.collectiveParkSignal core ctx tag) := Laws.RoundTrip.of_none (Eq.refl _)

theorem Laws.RoundTrip.collectiveSegmentHandoff (core : Nat) (ctx : Nat) (tag : Nat) : Laws.RoundTrip.Statement (.collectiveSegmentHandoff core ctx tag) := Laws.RoundTrip.of_none (Eq.refl _)

theorem Laws.RoundTrip.freezeWire (lids : List Nat) : Laws.RoundTrip.Statement (.freezeWire lids) := Laws.RoundTrip.of_none (Eq.refl _)

theorem Laws.RoundTrip.thaw (lids : List Nat) : Laws.RoundTrip.Statement (.thaw lids) := Laws.RoundTrip.of_none (Eq.refl _)

theorem Laws.RoundTrip.abandon (core : Nat) (ctx : Nat) : Laws.RoundTrip.Statement (.abandon core ctx) := Laws.RoundTrip.of_none (Eq.refl _)

theorem Laws.RoundTrip.scanRead (cores : List Nat) : Laws.RoundTrip.Statement (.scanRead cores) := Laws.RoundTrip.of_none (Eq.refl _)

theorem Laws.RoundTrip.leaseGrant (quad : Nat) : Laws.RoundTrip.Statement (.leaseGrant quad) := Laws.RoundTrip.of_none (Eq.refl _)

theorem Laws.RoundTrip.mxWindowSwitch (quad : Nat) : Laws.RoundTrip.Statement (.mxWindowSwitch quad) := Laws.RoundTrip.of_none (Eq.refl _)

theorem Laws.RoundTrip.tilestUpdate (core : Nat) : Laws.RoundTrip.Statement (.tilestUpdate core) := Laws.RoundTrip.of_none (Eq.refl _)

theorem Laws.RoundTrip.wsBankServe (t : Tid) (i : Nat) (l : Nat) : Laws.RoundTrip.Statement (.wsBankServe t i l) := Laws.RoundTrip.of_none (Eq.refl _)

theorem Laws.RoundTrip.publication (quad : Nat) (key : Nat) : Laws.RoundTrip.Statement (.publication quad key) := Laws.RoundTrip.of_none (Eq.refl _)

theorem Laws.RoundTrip.gets (quad : Nat) (key : Nat) : Laws.RoundTrip.Statement (.gets quad key) := Laws.RoundTrip.of_none (Eq.refl _)

theorem Laws.RoundTrip.getm (quad : Nat) (key : Nat) : Laws.RoundTrip.Statement (.getm quad key) := Laws.RoundTrip.of_none (Eq.refl _)

theorem Laws.RoundTrip.upg (quad : Nat) (key : Nat) : Laws.RoundTrip.Statement (.upg quad key) := Laws.RoundTrip.of_none (Eq.refl _)

theorem Laws.RoundTrip.puts (quad : Nat) (key : Nat) : Laws.RoundTrip.Statement (.puts quad key) := Laws.RoundTrip.of_none (Eq.refl _)

theorem Laws.RoundTrip.putm (quad : Nat) (key : Nat) : Laws.RoundTrip.Statement (.putm quad key) := Laws.RoundTrip.of_none (Eq.refl _)

theorem Laws.RoundTrip.pub (quad : Nat) (key : Nat) : Laws.RoundTrip.Statement (.pub quad key) := Laws.RoundTrip.of_none (Eq.refl _)

theorem Laws.RoundTrip.wack (key : Nat) : Laws.RoundTrip.Statement (.wack key) := Laws.RoundTrip.of_none (Eq.refl _)

theorem Laws.RoundTrip.dataAnswer (key : Nat) : Laws.RoundTrip.Statement (.dataAnswer key) := Laws.RoundTrip.of_none (Eq.refl _)

theorem Laws.RoundTrip.atom (core : Nat) (seq : Nat) (addr : Nat) : Laws.RoundTrip.Statement (.atom core seq addr) := Laws.RoundTrip.of_none (Eq.refl _)

theorem Laws.RoundTrip.homeRed (core : Nat) (seq : Nat) (addr : Nat) : Laws.RoundTrip.Statement (.homeRed core seq addr) := Laws.RoundTrip.of_none (Eq.refl _)

theorem Laws.RoundTrip.treq (quad : Nat) (rid : Nat) : Laws.RoundTrip.Statement (.treq quad rid) := Laws.RoundTrip.of_none (Eq.refl _)

theorem Laws.RoundTrip.tdone (quad : Nat) (rid : Nat) : Laws.RoundTrip.Statement (.tdone quad rid) := Laws.RoundTrip.of_none (Eq.refl _)

theorem Laws.RoundTrip.invalidationWalk (key : Nat) : Laws.RoundTrip.Statement (.invalidationWalk key) := Laws.RoundTrip.of_none (Eq.refl _)

theorem Laws.RoundTrip.updateWalk (key : Nat) : Laws.RoundTrip.Statement (.updateWalk key) := Laws.RoundTrip.of_none (Eq.refl _)

theorem Laws.RoundTrip.recall (key : Nat) : Laws.RoundTrip.Statement (.recall key) := Laws.RoundTrip.of_none (Eq.refl _)

theorem Laws.RoundTrip.downgrade (key : Nat) : Laws.RoundTrip.Statement (.downgrade key) := Laws.RoundTrip.of_none (Eq.refl _)

theorem Laws.RoundTrip.tokenDrainRequest (rid : Nat) : Laws.RoundTrip.Statement (.tokenDrainRequest rid) := Laws.RoundTrip.of_none (Eq.refl _)

theorem Laws.RoundTrip.unlinkAck (quad : Nat) (key : Nat) : Laws.RoundTrip.Statement (.unlinkAck quad key) := Laws.RoundTrip.of_none (Eq.refl _)

theorem Laws.RoundTrip.lineGrant (quad : Nat) (key : Nat) : Laws.RoundTrip.Statement (.lineGrant quad key) := Laws.RoundTrip.of_none (Eq.refl _)

theorem Laws.RoundTrip.hostRead (fn : Nat) (addr : Nat) (n : Nat) : Laws.RoundTrip.Statement (.hostRead fn addr n) := Laws.RoundTrip.of_none (Eq.refl _)

theorem Laws.RoundTrip.hostWrite (fn : Nat) (addr : Nat) (bytes : List Byte) : Laws.RoundTrip.Statement (.hostWrite fn addr bytes) := Laws.RoundTrip.of_none (Eq.refl _)

theorem Laws.RoundTrip.protocolLoad (w : Word) : Laws.RoundTrip.Statement (.protocolLoad w) := Laws.RoundTrip.of_none (Eq.refl _)

theorem Laws.RoundTrip.protocolVerifyDone : Laws.RoundTrip.Statement (.protocolVerifyDone) := Laws.RoundTrip.of_none (Eq.refl _)

theorem Laws.RoundTrip.wayGate (quad : Nat) (keys : List Nat) : Laws.RoundTrip.Statement (.wayGate quad keys) := Laws.RoundTrip.of_none (Eq.refl _)

theorem Laws.RoundTrip.quadCacheSleep (quad : Nat) : Laws.RoundTrip.Statement (.quadCacheSleep quad) := Laws.RoundTrip.of_none (Eq.refl _)

theorem Laws.RoundTrip.quadCacheLoss (quad : Nat) : Laws.RoundTrip.Statement (.quadCacheLoss quad) := Laws.RoundTrip.of_none (Eq.refl _)

theorem Laws.RoundTrip.rangeEntryWrite (fn : Nat) (i : Nat) (ws : List Word) : Laws.RoundTrip.Statement (.rangeEntryWrite fn i ws) := Laws.RoundTrip.of_none (Eq.refl _)

theorem Laws.RoundTrip.functionEnable (fn : Nat) : Laws.RoundTrip.Statement (.functionEnable fn) := Laws.RoundTrip.of_none (Eq.refl _)

theorem Laws.RoundTrip.functionReset (fn : Nat) : Laws.RoundTrip.Statement (.functionReset fn) := Laws.RoundTrip.of_none (Eq.refl _)

theorem Laws.RoundTrip.frameWindowWrite (fn : Nat) (die : Nat) (w : Word) : Laws.RoundTrip.Statement (.frameWindowWrite fn die w) := Laws.RoundTrip.of_none (Eq.refl _)

theorem Laws.RoundTrip.pageWalk (die : Nat) (fn : Nat) (page : Nat) : Laws.RoundTrip.Statement (.pageWalk die fn page) := Laws.RoundTrip.of_none (Eq.refl _)

theorem Laws.RoundTrip.writeGrantRequest (quad : Nat) (fn : Nat) (page : Nat) : Laws.RoundTrip.Statement (.writeGrantRequest quad fn page) := Laws.RoundTrip.of_none (Eq.refl _)

theorem Laws.RoundTrip.writeGrantAnswer (quad : Nat) (fn : Nat) (page : Nat) : Laws.RoundTrip.Statement (.writeGrantAnswer quad fn page) := Laws.RoundTrip.of_none (Eq.refl _)

theorem Laws.RoundTrip.faultEntryWrite (die : Nat) (fn : Nat) : Laws.RoundTrip.Statement (.faultEntryWrite die fn) := Laws.RoundTrip.of_none (Eq.refl _)

theorem Laws.RoundTrip.fqheadWrite (fn : Nat) (w : Word) : Laws.RoundTrip.Statement (.fqheadWrite fn w) := Laws.RoundTrip.of_none (Eq.refl _)

theorem Laws.RoundTrip.fqctlWrite (fn : Nat) (w : Word) : Laws.RoundTrip.Statement (.fqctlWrite fn w) := Laws.RoundTrip.of_none (Eq.refl _)

theorem Laws.RoundTrip.fqresResolved (fn : Nat) (id : Nat) : Laws.RoundTrip.Statement (.fqresResolved fn id) := Laws.RoundTrip.of_none (Eq.refl _)

theorem Laws.RoundTrip.fqresNoPage (fn : Nat) (id : Nat) : Laws.RoundTrip.Statement (.fqresNoPage fn id) := Laws.RoundTrip.of_none (Eq.refl _)

theorem Laws.RoundTrip.invalAppend (fn : Nat) (w : Word) : Laws.RoundTrip.Statement (.invalAppend fn w) := Laws.RoundTrip.of_none (Eq.refl _)

theorem Laws.RoundTrip.logApply (die : Nat) : Laws.RoundTrip.Statement (.logApply die) := Laws.RoundTrip.of_none (Eq.refl _)

theorem Laws.RoundTrip.powerOn (pass : List Bool) : Laws.RoundTrip.Statement (.powerOn pass) := Laws.RoundTrip.of_none (Eq.refl _)

theorem Laws.RoundTrip.getVersion : Laws.RoundTrip.Statement (.getVersion) := Laws.RoundTrip.of_none (Eq.refl _)

theorem Laws.RoundTrip.getCapabilities : Laws.RoundTrip.Statement (.getCapabilities) := Laws.RoundTrip.of_none (Eq.refl _)

theorem Laws.RoundTrip.negotiateAlgorithms : Laws.RoundTrip.Statement (.negotiateAlgorithms) := Laws.RoundTrip.of_none (Eq.refl _)

theorem Laws.RoundTrip.getDigests : Laws.RoundTrip.Statement (.getDigests) := Laws.RoundTrip.of_none (Eq.refl _)

theorem Laws.RoundTrip.getCertificate (slot : Nat) (off : Nat) (len : Nat) : Laws.RoundTrip.Statement (.getCertificate slot off len) := Laws.RoundTrip.of_none (Eq.refl _)

theorem Laws.RoundTrip.challenge (nonce : List Byte) : Laws.RoundTrip.Statement (.challenge nonce) := Laws.RoundTrip.of_none (Eq.refl _)

theorem Laws.RoundTrip.getMeasurements (index : Nat) (nonce : List Byte) : Laws.RoundTrip.Statement (.getMeasurements index nonce) := Laws.RoundTrip.of_none (Eq.refl _)

theorem Laws.RoundTrip.spdmUnsupported (code : Nat) : Laws.RoundTrip.Statement (.spdmUnsupported code) := Laws.RoundTrip.of_none (Eq.refl _)

theorem Laws.RoundTrip.takeTrap (t : Tid) (sp : Nat) (cause : Nat) (tval : Word) (telem : Nat) : Laws.RoundTrip.Statement (.takeTrap t sp cause tval telem) := Laws.RoundTrip.of_none (Eq.refl _)

theorem Laws.RoundTrip.timerEvent (cores : List Nat) : Laws.RoundTrip.Statement (.timerEvent cores) := Laws.RoundTrip.of_none (Eq.refl _)

theorem Laws.RoundTrip.externalEvent (target : EventTarget) (v : Word) : Laws.RoundTrip.Statement (.externalEvent target v) := Laws.RoundTrip.of_none (Eq.refl _)

theorem Laws.RoundTrip.dbgctlWrite (core : Nat) (w : Word) : Laws.RoundTrip.Statement (.dbgctlWrite core w) := Laws.RoundTrip.of_none (Eq.refl _)

theorem Laws.RoundTrip.softError (site : ErrorSite) (hard : Bool) : Laws.RoundTrip.Statement (.softError site hard) := Laws.RoundTrip.of_none (Eq.refl _)

theorem Laws.RoundTrip.dieLoss (die : Nat) : Laws.RoundTrip.Statement (.dieLoss die) := Laws.RoundTrip.of_none (Eq.refl _)

theorem Laws.RoundTrip.agentRejoin (agent : Agent) : Laws.RoundTrip.Statement (.agentRejoin agent) := Laws.RoundTrip.of_none (Eq.refl _)

theorem Laws.RoundTrip.linkCrcError (link : Nat) : Laws.RoundTrip.Statement (.linkCrcError link) := Laws.RoundTrip.of_none (Eq.refl _)

theorem Laws.RoundTrip.linkWidthChange (link : Nat) (width : Nat) : Laws.RoundTrip.Statement (.linkWidthChange link width) := Laws.RoundTrip.of_none (Eq.refl _)

theorem Laws.RoundTrip.linkDown (link : Nat) : Laws.RoundTrip.Statement (.linkDown link) := Laws.RoundTrip.of_none (Eq.refl _)

theorem Laws.RoundTrip.configRequest (fn : Nat) : Laws.RoundTrip.Statement (.configRequest fn) := Laws.RoundTrip.of_none (Eq.refl _)

theorem Laws.RoundTrip.fstatusErrorClear (fn : Nat) : Laws.RoundTrip.Statement (.fstatusErrorClear fn) := Laws.RoundTrip.of_none (Eq.refl _)

theorem Laws.RoundTrip.qbaseWrite (fn : Nat) (hi : Bool) (w : Word) : Laws.RoundTrip.Statement (.qbaseWrite fn hi w) := Laws.RoundTrip.of_none (Eq.refl _)

theorem Laws.RoundTrip.queueEnable (fn : Nat) (w : Word) : Laws.RoundTrip.Statement (.queueEnable fn w) := Laws.RoundTrip.of_none (Eq.refl _)

theorem Laws.RoundTrip.queueDisable (fn : Nat) (w : Word) : Laws.RoundTrip.Statement (.queueDisable fn w) := Laws.RoundTrip.of_none (Eq.refl _)

theorem Laws.RoundTrip.registerWrite (fn : Nat) (off : Nat) (w : Word) : Laws.RoundTrip.Statement (.registerWrite fn off w) := Laws.RoundTrip.of_none (Eq.refl _)

theorem Laws.RoundTrip.mxmodeWrite (quad : Nat) (mode : Word) (win : Word) : Laws.RoundTrip.Statement (.mxmodeWrite quad mode win) := Laws.RoundTrip.of_none (Eq.refl _)

theorem Laws.RoundTrip.variablePortFill (t : Tid) : Laws.RoundTrip.Statement (.variablePortFill t) := Laws.RoundTrip.of_none (Eq.refl _)

theorem Laws.RoundTrip.podRouteLost (pkg : Nat) : Laws.RoundTrip.Statement (.podRouteLost pkg) := Laws.RoundTrip.of_none (Eq.refl _)

theorem Laws.RoundTrip.scanWriteBack (t : Tid) (reg : Nat) (l : Nat) (w : Word) : Laws.RoundTrip.Statement (.scanWriteBack t reg l w) := Laws.RoundTrip.of_none (Eq.refl _)

theorem Laws.RoundTrip.debugResume (core : Nat) : Laws.RoundTrip.Statement (.debugResume core) := Laws.RoundTrip.of_none (Eq.refl _)

end Sys2Proof
end

