-- ==== Sys2Proof/Laws/Release.lean ====
section
/-! SUPPORT. What a release, an acquire, the wait of a split and the issue of a command can do, said once. -/

namespace Sys2Proof.Machine

/-! ## Releases and acquires (06 R129) -/

theorem State.release_low (s : State) (t : Tid) {scope : Nat} (h : scope ≤ 1) : s.release t scope = s := by
  simp [State.release, h]

/-- A release changes nothing but its own thread: it never stalls. -/
theorem State.release_frame (s : State) (t : Tid) (scope : Nat) :
    s.release t scope = { s with threads := (s.release t scope).threads } := by
  unfold State.release
  split <;> rfl

theorem State.acquireFrom_low (s : State) (t : Tid) (seq : Nat) {scope : Nat} (h : scope ≤ 1) : s.acquireFrom t seq scope = s := by
  simp [State.acquireFrom, h]

/-- An acquire that completes changes its thread and, from quad scope on, its core's L1. -/
theorem State.acquireFrom_frame (s : State) (t : Tid) (seq scope : Nat) :
    s.acquireFrom t seq scope
      = { s with threads := (s.acquireFrom t seq scope).threads, cores := (s.acquireFrom t seq scope).cores } := by
  unfold State.acquireFrom
  split
  · rfl
  · simp only []
    split <;> rfl

theorem State.acquireFrom_cores (s : State) (t : Tid) (seq : Nat) {scope : Nat} (h : scope < 4) :
    (s.acquireFrom t seq scope).cores = s.cores := by
  unfold State.acquireFrom
  split
  · rfl
  · simp [show ¬ 4 ≤ scope by omega]

/-- An acquire that is made is done at once, or is pending at its thread. -/
theorem State.makeAcquire_cases (s : State) (t : Tid) (scope : Nat) (fence stalls : Bool) :
    s.makeAcquire t scope fence stalls = (s.acquire t scope, none)
      ∨ ∃ a : Acquire, a.scope = scope ∧ a.fence = fence ∧ a.stalls = stalls
          ∧ s.makeAcquire t scope fence stalls
            = (s.modThread t fun th => { th with acqs := th.acqs ++ [a], seq := th.seq + 1 }, some a) := by
  unfold State.makeAcquire
  simp only []
  split
  · exact .inl rfl
  · exact .inr ⟨_, rfl, rfl, rfl, rfl⟩

/-- What a join acquires changes its thread and its core's L1 alone. -/
theorem State.joinAcquire_frame (s : State) (t : Tid) (scope : Nat) :
    s.joinAcquire t scope = { s with threads := (s.joinAcquire t scope).threads, cores := (s.joinAcquire t scope).cores } := by
  unfold State.joinAcquire
  rcases s.makeAcquire_cases t scope false false with h | ⟨a, -, -, -, h⟩
  · rw [h]
    exact s.acquireFrom_frame t _ scope
  · rw [h]
    rfl

/-! ## Waits and commands (06 R115, 07 R136) -/

/-- A wait changes the issuing thread alone. -/
theorem State.waitSelf_frame (s : State) (kind : Nat) (w0 w1 : Word) :
    s.waitSelf kind w0 w1 = { s with threads := (s.waitSelf kind w0 w1).threads } := by
  unfold State.waitSelf
  split <;> rfl

/-- A command that is issued stands last; its issuer's thread and block have changed, and nothing else. -/
theorem State.issueCommand_frame (s : State) (c : Cmd) :
    s.issueCommand c = { s with
      threads := (s.issueCommand c).threads, blocks := (s.issueCommand c).blocks, cmds := s.cmds ++ [c] } := by
  unfold State.issueCommand
  have h := s.release_frame s.cur.tid (c.completionScope s.selfBlock.twin)
  generalize s.release s.cur.tid (c.completionScope s.selfBlock.twin) = u at h ⊢
  rw [h]
  rfl

end Sys2Proof.Machine
end

