-- ==== Sys2Proof/Laws/Words.lean ====
section
/-! SUPPORT. The bits of words that are built bit by bit, and the lanes of masks. -/

namespace Sys2Proof.Machine

theorem getLsbD_laneMask (k i : Nat) : (laneMask k).getLsbD i = (decide (i < 32) && decide (i = k)) := by
  simp only [laneMask, BitVec.getLsbD_ofNat, Nat.testBit_two_pow]
  congr 1
  exact decide_eq_decide.2 eq_comm

/-- A word built from a predicate has exactly the bits that satisfy it. -/
theorem getLsbD_maskWhere (p : Nat → Bool) (i : Nat) : (maskWhere p).getLsbD i = (decide (i < 32) && p i) := by
  have key : ∀ (n : Nat) (m0 : Mask), ((List.range n).foldl (fun m l => if p l then m ||| laneMask l else m) m0).getLsbD i
      = (m0.getLsbD i || (decide (i < 32) && decide (i < n) && p i)) := by
    intro n
    induction n with
    | zero => intro m0; simp
    | succ n ih =>
      intro m0
      rw [List.range_succ, List.foldl_append, List.foldl_cons, List.foldl_nil]
      by_cases hp : p n = true
      · rw [if_pos hp, BitVec.getLsbD_or, ih, getLsbD_laneMask]
        by_cases hi : i = n
        · subst hi; simp [hp]
        · have : (i < n + 1) = (i < n) := by simp only [eq_iff_iff]; omega
          simp [hi, this]
      · rw [if_neg hp, ih]
        by_cases hi : i = n
        · subst hi; simp [hp]
        · have : (i < n + 1) = (i < n) := by simp only [eq_iff_iff]; omega
          simp [this]
  unfold maskWhere
  rw [key]
  by_cases h : i < 32 <;> simp [h]

/-- A word built from a predicate equals a word that has its bits. -/
theorem eq_maskWhere {w : Word} {p : Nat → Bool} (h : ∀ i, i < 32 → w.getLsbD i = p i) : w = maskWhere p := by
  apply BitVec.eq_of_getLsbD_eq
  intro i hi
  rw [getLsbD_maskWhere, h i hi]
  simp [hi]

end Sys2Proof.Machine
end

