-- ==== Sys2Proof/Tests/Slice0.lean ====
section
/-! SUPPORT. Tests: ill-formed terms that each check of WellFormed refuses; words of every move, from the encodings of the spec's opcode
table; and, for the statements of Obligations, concrete states and operands that meet their hypotheses, clause by clause. -/

set_option Elab.async false

open Sys2Proof Sys2Proof.Machine Sys2Proof.Claim

namespace Sys2Proof.Tests

/-! ## Small states -/

/-- A head with a guard, a source and a hold code. -/
def hd (g : Guard) (x : Src) (k : Fin 4) : Head := { guard := g, src := x, hold := k }

/-- An unguarded move of g1; one guarded by `first`; one guarded by `never`. -/
def h1 : Head := hd .always (.g 1) 0
def hFirst : Head := hd .first (.g 1) 0
def hNever : Head := hd .never (.g 1) 0

/-- Warp 0 of the block in context 0 of core 0, and the Sluice context there. -/
def me : Tid := { core := 0, ctx := 0, slot := 0 }
def slu : Tid := { core := 0, ctx := 0, slot := 32 }

/-- A split of some lanes at code address 8. -/
def splitOn (m : Mask) : Split := { Split.empty with live := true, mask := m, pc := 8#32 }

/-- A thread with one split, of the lanes in `m`. -/
def lanesOn (m : Mask) : Thread :=
  { Thread.empty with live := true, occupied := m, splits := splitOn m :: List.replicate 3 Split.empty }

/-- A thread of lane 0 alone, whose g1 holds `v` and whose ports hold what is given. -/
def lane0 (v : Word) (ops : List (OpPort × Word)) : Thread :=
  ops.foldl (fun th p => th.wr (.op p.1) 0 p.2) ((lanesOn 1#32).wr (.g 1) 0 v)

/-- A resident block of one warp, with a scratch region of 16 KiB and a handler. -/
def blk : Block := { Block.empty with resident := true, warps := 1, nregs := 128, scratchSize := 16384, tvec := 8#32 }

/-- After bring-up: every die is released, and function 0 is enabled (24 R361). -/
def bootedState : State :=
  let s : State := { State.reset with pack := { State.reset.pack with booted := 6, dies := 15#4, retry := false } }
  s.modFn 0 fun f => { f with enabled := true }

/-- After bring-up, but that a thread and its block are there. -/
def placed (t : Tid) (th : Thread) (b : Block) : State := (bootedState.setBlock t.core t.ctx b).setThread t th

/-- A bundle of one move is being issued by split 0 of a thread. -/
def issue1 (t : Tid) (th : Thread) (b : Block) : State :=
  { placed t th b with cur := { Cur.idle with on := true, tid := t, pc := 8#32, next := 16#32, image := th } }

/-- Warp 0, or the Sluice context, issues, with `v` in g1 and the ports as given. -/
def one (v : Word) (ops : List (OpPort × Word)) : State := issue1 me (lane0 v ops) blk
def sluiceOne (v : Word) (ops : List (OpPort × Word)) (b : Block) : State := issue1 slu (lane0 v ops) b

/-- The translation of addresses below 2^21. -/
def leaf0 : Leaf := { fn := 0, base := 0, size := 2 ^ 21, frame := 2 ^ 21, host := false, rights := 15 }

/-- The line at address 0 of function 0, which is tagged 256. -/
def key0 : Nat := 256 * 2 ^ 50

/-- Function 0 has memory at addresses below 2^21, homed on die 0 and translated there, in the frames from 2^21 on. -/
def mapped (s : State) : State :=
  let r : Range := { valid := true, words := [0x82E00005#32, 0#32, 0#32, 0#32] }
  (s.modFn 0 fun f => { f with ranges := f.ranges.set 0 r }).modDie 0 fun d =>
    { d with leaves := [leaf0],
             names := [(512, { names := [256 * 2 ^ 45], writable := true })] }

/-! ## The ALU, the X unit, MOVE, the F, S and V units -/

theorem witness_AluResultsLand : (∀ e ∈ aluSums ++ aluProducts ++ aluBits, ∀ u : Fin 2,
    (one 5#32 []).primed h1 (aluReads e u) = true) ∧ room 1 (one 5#32 []) := by
  unfold room; decide

theorem witness_AluShiftsLand : (∀ e ∈ aluShifts, ∀ u : Fin 2, (one 33#32 []).primed h1 (aluReads e u) = true)
    ∧ room 1 (one 33#32 []) := by
  unfold room; decide

theorem witness_AluDividesLand : (∀ e ∈ aluDivides, ∀ u : Fin 2, (one 0#32 []).primed h1 (aluReads e u) = true
      ∧ (sluiceOne 0#32 [] blk).primed h1 (aluReads e u) = true)
    ∧ room 1 (one 0#32 []) ∧ dividersFree h1 (one 0#32 []) ∧ room 1 (sluiceOne 0#32 [] blk) ∧ dividersFree h1 (sluiceOne 0#32 [] blk) := by
  unfold room dividersFree; decide

theorem witness_AluFieldsLand : (∀ e ∈ aluFields, ∀ u : Fin 2, (one 0x810#32 []).primed h1 (aluReads e u) = true)
    ∧ room 1 (one 0x810#32 []) := by
  unfold room; decide

theorem witness_CrossMovementsLand : (∀ e ∈ movements, (one 1#32 []).primed h1 (crossReads e) = true)
    ∧ (one 1#32 []).primed h1 (crossReads broadcast) = true ∧ room 2 (one 1#32 [])
    ∧ ((one 1#32 []).self.tags (.op .xa)).getLsbD (lowestIn ((one 1#32 []).guard h1.guard)) = false := by
  unfold room; decide

theorem witness_CrossVotesLand : (∀ e ∈ votes, (one 1#32 []).primed h1 (crossReads e) = true) ∧ room 2 (one 1#32 []) := by
  unfold room; decide

theorem witness_CrossReductionsLand : (∀ e ∈ reductions, (one 1#32 []).primed h1 (crossReads e) = true) ∧ room 2 (one 1#32 [])
    ∧ (1#32 : Mask) ≠ 0#32 := by
  unfold room; decide

theorem witness_CrossPlanesLand : (∀ e ∈ planes, (one 1#32 []).primed h1 (crossReads e) = true) ∧ room 2 (one 1#32 [])
    ∧ (0x80000001#32 : Mask).getLsbD 31 = true := by
  unfold room; decide

theorem witness_CrossFloatSumLands : (one 1#32 []).primed h1 { ops := [], t := true, wide := false } = true ∧ room 2 (one 1#32 []) := by
  unfold room; decide

theorem witness_MoveDelivers_register (d : Dst) (hk : ∀ n, d ≠ .k n) (hc : ∀ n, d ≠ .cc n) :
    movable (one 7#32 []) h1 d { try_ := false, pop := false, half := .word, sign := .neg } :=
  ⟨by decide, by decide, by decide, fun ⟨n, h⟩ => absurd h (hk n), fun ⟨n, h⟩ => absurd h (hc n)⟩

theorem witness_MoveDelivers_shared : ∀ d ∈ [Dst.k 31, .cc 3],
    movable (one 7#32 []) h1 d { try_ := false, pop := false, half := .word, sign := .keep } := fun _ _ =>
  ⟨by decide, by decide, by decide, fun _ => by decide, fun _ => by decide⟩

theorem witness_MoveDelivers_unguarded : (one 7#32 []).alone = true ∧ (one 7#32 []).guard hNever.guard = 0#32 := by decide

theorem witness_FloatResultsLand : (∀ (u : Fin 2), ∀ e ∈ fpRows u .rn ++ packedRows u .rd ++ [compareRow u],
    (one 0x7F800001#32 []).primed h1 (floatReads e) = true) ∧ room 1 (one 0x7F800001#32 []) := by
  unfold room; decide

theorem witness_SpecialResultsLand : (∀ e ∈ specialRows, (one 0#32 []).primed h1 (floatReads e) = true) ∧ room 1 (one 0#32 [])
    ∧ specialFree (one 0#32 []) := by
  unfold room specialFree; decide

theorem witness_ConversionsLand : (∀ e ∈ convRows, (one 0#32 []).primed h1 (floatReads e) = true) ∧ room 1 (one 0#32 []) := by
  unfold room; decide

theorem witness_ConversionsLand_cvt :
    let s := one 1#32 [(.va, 0x7AA#32)]
    s.primed h1 (floatReads cvtRow) = true ∧ room 1 s ∧ ∀ l ∈ lanesIn (s.guard h1.guard), cvtLegal (s.self.rd (.op .va) l) = true := by
  unfold room; decide

theorem witness_ConversionsLand_illegal :
    let s := one 1#32 [(.va, 0x800#32)]
    s.primed h1 (floatReads cvtRow) = true ∧ room 1 s
      ∧ (lanesIn (s.guard h1.guard)).find? (fun k => !cvtLegal (s.self.rd (.op .va) k)) = some 0 := by
  unfold room; decide

theorem witness_NansAreCanonical : ∀ u : Fin 2, ((fpRow u (.fadd · u .rn) false fun a _ t => fp32.add .rn a.toNat t.toNat false).gives
    (fun _ => 0x7F800000#32) 0xFF800000#32).q.toNat % 2 ^ 31 > 0x7F800000 := by
  decide

end Sys2Proof.Tests

namespace Sys2Proof.Tests

/-! ## Well-formed terms, and ill-formed ones for each check -/

def plainMods : Mods := { try_ := false, pop := false, half := .word, sign := .keep }

theorem test_wellFormed_accepts :
    (Instr.move (hd .always (.port (.lg 1)) 0) (.g 5) { plainMods with pop := true }).wellFormed = true
    ∧ (Instr.move (hd .always (.port .a0f) 0) (.cc 3) plainMods).wellFormed = true
    ∧ (Instr.sts h1 .m).wellFormed = true ∧ (Instr.lds h1 .bn).wellFormed = true ∧ (Instr.ldw h1 .q).wellFormed = true
    ∧ (Instr.safePointStop slu 4).wellFormed = true ∧ (Instr.linkWidthChange 19 1).wellFormed = true := by
  decide

theorem test_wellFormed_refuses_moves :
    (Instr.move (hd .always (.port .a0q) 0) (.g 5) { plainMods with pop := true }).wellFormed = false
    ∧ (Instr.move (hd .always (.g 3) 0) (.g 5) { plainMods with try_ := true }).wellFormed = false
    ∧ (Instr.move (hd .always (.port (.lg 0)) 0) (.cc 1) { plainMods with pop := true }).wellFormed = false
    ∧ (Instr.move (hd .always (.g 3) 0) (.cc 1) plainMods).wellFormed = false
    ∧ (Instr.lds h1 .m).wellFormed = false ∧ (Instr.ldg h1 .m .normal).wellFormed = false ∧ (Instr.ldgs h1 .m .keep).wellFormed = false
    ∧ (Instr.pfg h1 .m .stream).wellFormed = false ∧ (Instr.ldw h1 .h).wellFormed = false
    ∧ (Instr.sts h1 .bn).wellFormed = false ∧ (Instr.stg h1 .hn .normal).wellFormed = false := by
  decide

theorem test_wellFormed_refuses_threads :
    (Instr.resultLanding { me with core := 256 }).wellFormed = false ∧ (Instr.rillGrant { me with ctx := 2 }).wellFormed = false
    ∧ (Instr.variablePortFill { me with slot := 33 }).wellFormed = false ∧ (Instr.delayExpiry me 4).wellFormed = false
    ∧ (Instr.waitExpiry me 4).wellFormed = false ∧ (Instr.barrierRestart me 4).wellFormed = false ∧ (Instr.fenceDone me 4).wellFormed = false
    ∧ (Instr.watchdogExpiry me 4).wellFormed = false ∧ (Instr.safePointStop me 5).wellFormed = false
    ∧ (Instr.loadDataArrival me .ls 0 32).wellFormed = false ∧ (Instr.wsBankServe me 0 32).wellFormed = false
    ∧ (Instr.takeTrap me 0 25 0#32 0).wellFormed = false ∧ (Instr.takeTrap me 0 0 0#32 0).wellFormed = false
    ∧ (Instr.takeTrap me 4 1 0#32 0).wellFormed = false ∧ (Instr.scanWriteBack me 128 3 0#32).wellFormed = true
    ∧ (Instr.scanWriteBack me 130 3 0#32).wellFormed = false ∧ (Instr.scanWriteBack me 5 32 0#32).wellFormed = false := by
  decide

theorem test_wellFormed_refuses_cores :
    (Instr.windowEntry 256).wellFormed = false ∧ (Instr.heldRecordEntry 256).wellFormed = false ∧ (Instr.barrierObjectRmw 256).wellFormed = false
    ∧ (Instr.tilestUpdate 256).wellFormed = false ∧ (Instr.dbgctlWrite 256 0#32).wellFormed = false ∧ (Instr.debugResume 256).wellFormed = false
    ∧ (Instr.atomicResponse 256 0 0).wellFormed = false ∧ (Instr.atomicRetry 256 0 0).wellFormed = false ∧ (Instr.storeDrain 256 0).wellFormed = false
    ∧ (Instr.atom 256 0 0).wellFormed = false ∧ (Instr.homeRed 256 0 0).wellFormed = false ∧ (Instr.codeFetch 0 64 0).wellFormed = false
    ∧ (Instr.codeFetch 256 0 0).wellFormed = false ∧ (Instr.sequencerPick 0 2).wellFormed = false ∧ (Instr.taskOverrun 256 0).wellFormed = false
    ∧ (Instr.save 256 0).wellFormed = false ∧ (Instr.abandon 0 2).wellFormed = false ∧ (Instr.yieldRequest 0 2 0).wellFormed = false
    ∧ (Instr.enginePark 0 2 0).wellFormed = false ∧ (Instr.engineCommandStart 256 0 0).wellFormed = false
    ∧ (Instr.engineElementCommit 0 2 0).wellFormed = false ∧ (Instr.engineElementFault 0 2 0 0).wellFormed = false
    ∧ (Instr.engineCommandComplete 0 2 0).wellFormed = false ∧ (Instr.collectiveParkSignal 0 2 0).wellFormed = false
    ∧ (Instr.collectiveSegmentHandoff 0 2 0).wellFormed = false ∧ (Instr.resume 0 256).wellFormed = false
    ∧ (Instr.grantedLevelWrite [256] 0).wellFormed = false ∧ (Instr.grantedLevelWrite [0] 3).wellFormed = false
    ∧ (Instr.timerEvent [256]).wellFormed = false ∧ (Instr.scanRead [256]).wellFormed = false := by
  decide

theorem test_wellFormed_refuses_launches :
    (Instr.doorbell 64 0 0#32).wellFormed = false ∧ (Instr.launchArrival 0 4096).wellFormed = false ∧ (Instr.bindRecordWrite 1024 []).wellFormed = false
    ∧ (Instr.bindRecordWrite 0 [0#32]).wellFormed = false ∧ (Instr.placementDecision 4).wellFormed = false ∧ (Instr.agingPromotion 0 1024).wellFormed = false
    ∧ (Instr.agingPromotion 4 0).wellFormed = false ∧ (Instr.weirGather 0 4).wellFormed = false ∧ (Instr.restartProposal 0 4).wellFormed = false
    ∧ (Instr.restartAck 0 4).wellFormed = false ∧ (Instr.podSyncArrival 0 64).wellFormed = false ∧ (Instr.podRouteLost 64).wellFormed = false := by
  decide

theorem test_wellFormed_refuses_quads :
    (Instr.leaseGrant 64).wellFormed = false ∧ (Instr.mxWindowSwitch 64).wellFormed = false ∧ (Instr.quadCacheSleep 64).wellFormed = false
    ∧ (Instr.quadCacheLoss 64).wellFormed = false ∧ (Instr.mxmodeWrite 64 0#32 0#32).wellFormed = false ∧ (Instr.wayGate 64 []).wellFormed = false
    ∧ (Instr.publication 64 0).wellFormed = false ∧ (Instr.gets 64 0).wellFormed = false ∧ (Instr.getm 64 0).wellFormed = false
    ∧ (Instr.upg 64 0).wellFormed = false ∧ (Instr.puts 64 0).wellFormed = false ∧ (Instr.putm 64 0).wellFormed = false
    ∧ (Instr.pub 64 0).wellFormed = false ∧ (Instr.treq 64 0).wellFormed = false ∧ (Instr.tdone 64 0).wellFormed = false
    ∧ (Instr.unlinkAck 64 0).wellFormed = false ∧ (Instr.lineGrant 64 0).wellFormed = false ∧ (Instr.writeGrantRequest 64 0 0).wellFormed = false
    ∧ (Instr.writeGrantAnswer 0 64 0).wellFormed = false ∧ (Instr.bandPowerSwitch 0 4 true).wellFormed = false ∧ (Instr.bandRampDone 64 0).wellFormed = false := by
  decide

theorem test_wellFormed_refuses_host :
    (Instr.hostRead 64 0 1).wellFormed = false ∧ (Instr.hostWrite 64 0 []).wellFormed = false ∧ (Instr.functionEnable 64).wellFormed = false
    ∧ (Instr.functionReset 64).wellFormed = false ∧ (Instr.fqheadWrite 64 0#32).wellFormed = false ∧ (Instr.fqctlWrite 64 0#32).wellFormed = false
    ∧ (Instr.fqresResolved 64 0).wellFormed = false ∧ (Instr.fqresNoPage 64 0).wellFormed = false ∧ (Instr.invalAppend 64 0#32).wellFormed = false
    ∧ (Instr.configRequest 64).wellFormed = false ∧ (Instr.fstatusErrorClear 64).wellFormed = false ∧ (Instr.qbaseWrite 64 false 0#32).wellFormed = false
    ∧ (Instr.queueEnable 64 0#32).wellFormed = false ∧ (Instr.queueDisable 64 0#32).wellFormed = false ∧ (Instr.registerWrite 64 0 0#32).wellFormed = false
    ∧ (Instr.rangeEntryWrite 0 64 []).wellFormed = false ∧ (Instr.rangeEntryWrite 0 0 [0#32]).wellFormed = false
    ∧ (Instr.frameWindowWrite 0 4 0#32).wellFormed = false ∧ (Instr.pageWalk 4 0 0).wellFormed = false ∧ (Instr.faultEntryWrite 0 64).wellFormed = false := by
  decide

theorem test_wellFormed_refuses_events :
    (Instr.thermalEmergency 4).wellFormed = false ∧ (Instr.dieOnline 4).wellFormed = false ∧ (Instr.logApply 4).wellFormed = false
    ∧ (Instr.dieLoss 4).wellFormed = false ∧ (Instr.powerOn [true]).wellFormed = false ∧ (Instr.externalEvent (.warp 0 0 32) 0#32).wellFormed = false
    ∧ (Instr.externalEvent (.sluice 256 0) 0#32).wellFormed = false ∧ (Instr.externalEvent (.allWarps 0 2) 0#32).wellFormed = false
    ∧ (Instr.softError (.dram 4 0) true).wellFormed = false ∧ (Instr.softError (.homeCache 0 (2 ^ 37)) true).wellFormed = false
    ∧ (Instr.softError (.quadCache 64 0) true).wellFormed = false ∧ (Instr.softError (.l1 256 0) true).wellFormed = false
    ∧ (Instr.softError (.weightStore 0 (2 ^ 28)) true).wellFormed = false ∧ (Instr.softError (.general me 1056 0) true).wellFormed = false
    ∧ (Instr.softError (.scratch 0 (2 ^ 19)) true).wellFormed = false ∧ (Instr.softError (.accumulator 0 512) true).wellFormed = false
    ∧ (Instr.softError (.plane 64) true).wellFormed = false ∧ (Instr.agentRejoin (.quadCache 64)).wellFormed = false
    ∧ (Instr.agentRejoin (.die 4)).wellFormed = false ∧ (Instr.linkCrcError 20).wellFormed = false ∧ (Instr.linkDown 20).wellFormed = false
    ∧ (Instr.linkWidthChange 0 3).wellFormed = false ∧ (Instr.linkWidthChange 20 4).wellFormed = false := by
  decide

/-! ## Words (03 R43 to R62) -/

theorem test_words_moves :
    decodeMove 0x3E000600 = .instr (.move (hd .always (.g 3) 0) (.port .a0a) plainMods)
    ∧ decodeMove 0x3C112410 = .instr (.move (hd .always (.port (.lg 0)) 0) (.g 4) { plainMods with pop := true })
    ∧ decodeMove 0x3C112430 = .instr (.move (hd .always (.port (.lg 0)) 0) (.g 4) { plainMods with pop := true, try_ := true })
    ∧ decodeMove 0x3C000604 = .instr (.move (hd .always (.g 3) 0) (.g 0) { plainMods with half := .lo })
    ∧ decodeMove 0x3C00060C = .instr (.move (hd .always (.g 3) 0) (.g 0) { plainMods with half := .swp })
    ∧ decodeMove 0x3C000601 = .instr (.move (hd .always (.g 3) 0) (.g 0) { plainMods with sign := .neg })
    ∧ decodeMove 0x3C000602 = .instr (.move (hd .always (.g 3) 0) (.g 0) { plainMods with sign := .abs })
    ∧ decodeMove 0x3C000603 = .instr (.move (hd .always (.g 3) 0) (.g 0) { plainMods with sign := .nabs }) := by
  decide

/-- Guards and sources that are reserved, opcodes that are, and modifiers that a source or a destination does not take. -/
theorem test_words_refused :
    decodeMove 0xFC000600 = .error .illegalMove ∧ decodeMove 0x3C014A00 = .error .illegalMove ∧ decodeMove 0x3EE00600 = .error .illegalMove
    ∧ decodeMove 0x3E04062D = .error .illegalOpcode ∧ decodeMove 0x3C000610 = .error .illegalMove ∧ decodeMove 0x3C000640 = .error .illegalMove := by
  decide

theorem witness_DecodedWordsEncode : (0x3E04062C : Nat) < 2 ^ 32 ∧ decodeMove 0x3E04062C = .instr (.mova (hd .always (.g 3) 0) 0) := by decide

theorem witness_EncodedMovesDecode : (Instr.mova (hd .always (.g 3) 0) 0).wellFormed = true
    ∧ encode (.mova (hd .always (.g 3) 0) 0) = some 0x3E04062C
    ∧ (Instr.move (hd .always (.g 3) 0) (.port .a0a) plainMods).wellFormed = true := by
  decide

theorem witness_ReservedWordsRefused : field 0xFC000600 29 26 = 15 ∧ field 0xFC000600 31 30 = 3 ∧ reservedSource (field 0x3C014A00 17 9) = true
    ∧ reservedDestination (field 0x3EE00600 25 18) = true ∧ reservedOpcode (field 0x3E04062D 25 18) (field 0x3E04062D 6 0) = true
    ∧ ¬(field 0x3E04062D 29 26 = 15 ∧ field 0x3E04062D 31 30 = 3) ∧ reservedSource (field 0x3E04062D 17 9) = false := by
  decide

/-- Words that the spec writes out: 03 R62 (the full bundle, and repeat and bump). -/
theorem test_spec_words_r62 :
    decodeMove 0x4A100A80 = .instr (.move (hd (.flag .lt 1) (.g 5) 1) (.port .f0a) { try_ := false, pop := false, half := .word, sign := .keep })
    ∧ decodeMove 0x3E140C08 = .instr (.move (hd .always (.g 6) 0) (.port .f0b) { try_ := false, pop := false, half := .hi, sign := .keep })
    ∧ decodeMove 0x3E180E00 = .instr (.fma (hd .always (.g 7) 0) 0 .rn)
    ∧ decodeMove 0x3C31C600 = .instr (.move (hd .always (.imm 0) 0) (.g 12) { try_ := false, pop := false, half := .word, sign := .keep })
    ∧ decodeMove 0x3E012410 = .instr (.move (hd .always (.port (.lg 0)) 0) (.port .a0a) { try_ := false, pop := true, half := .word, sign := .keep })
    ∧ decodeMove 0x3E07FA00 = .instr (.add (hd .always (.short 253#8) 0) 0)
    ∧ decodeMove 0x3E45C604 = .instr (.lds (hd .always (.imm 0) 0) .w)
    ∧ decodeMove 0x3E000600 = .instr (.move (hd .always (.g 3) 0) (.port .a0a) { try_ := false, pop := false, half := .word, sign := .keep })
    ∧ decodeMove 0x3E040800 = .instr (.add (hd .always (.g 4) 0) 0) := by
  decide

/-- Words that the spec writes out: 04 (its encoding table). -/
theorem test_spec_words_control :
    decodeMove 0x3E420002 = .instr (.join (.short 0#8) 0)
    ∧ decodeMove 0x3E420006 = .instr (.lback (.short 0#8) 0)
    ∧ decodeMove 0x3E42000A = .instr (.rfl (.short 0#8) 0)
    ∧ decodeMove 0x8A424001 = .instr (.brc (hd (.flag .lt 2) (.short 32#8) 0))
    ∧ decodeMove 0x3EDC0200 = .instr (.dqp (hd .always (.g 1) 0)) := by
  decide

/-- Words that the spec writes out: 06 (its encoding table and R128). -/
theorem test_spec_words_barriers :
    decodeMove 0x3ED20000 = .instr (.bar (hd .always (.short 0#8) 0))
    ∧ decodeMove 0x3ED20803 = .instr (.sync (hd .always (.short 4#8) 0))
    ∧ decodeMove 0x3ED20206 = .instr (.boa (hd .always (.short 1#8) 0))
    ∧ decodeMove 0x3ED20017 = .instr (.rel (hd .always (.short 0#8) 0) .pk)
    ∧ decodeMove 0x3ED20027 = .instr (.acq (hd .always (.short 0#8) 0) .pk)
    ∧ decodeMove 0x3ED20039 = .instr (.fen (hd .always (.short 0#8) 0) .sy)
    ∧ decodeMove 0x3ED20034 = .instr (.fen (hd .always (.short 0#8) 0) .qd)
    ∧ decodeMove 0x3ED1C600 = .instr (.bar (hd .always (.imm 0) 0))
    ∧ decodeMove 0x3ECDC600 = .instr (.move (hd .always (.imm 0) 0) (.port .ya) { try_ := false, pop := false, half := .word, sign := .keep }) := by
  decide

/-- Words that the spec writes out: 08 (its encoding tables). -/
theorem test_spec_words_integer :
    decodeMove 0x3E040400 = .instr (.add (hd .always (.g 2) 0) 0)
    ∧ decodeMove 0x3E040601 = .instr (.adc (hd .always (.g 3) 0) 0)
    ∧ decodeMove 0x3E051623 = .instr (.popc (hd .always (.port .xq) 0) 0)
    ∧ decodeMove 0x3E0C0A19 = .instr (.div (hd .always (.g 5) 0) 1) := by
  decide

/-- Words that the spec writes out: 09 (its encoding tables). -/
theorem test_spec_words_floats :
    decodeMove 0x3E240611 = .instr (.fadd (hd .always (.g 3) 0) 1 .rz)
    ∧ decodeMove 0x3E180424 = .instr (.fcmp (hd .always (.g 2) 0) 0)
    ∧ decodeMove 0x3E1A0048 = .instr (.fdot2h (hd .always (.short 0#8) 0) 0 .rn)
    ∧ decodeMove 0x3E280201 = .instr (.rsq (hd .always (.g 1) 0))
    ∧ decodeMove 0x3E300C00 = .instr (.cvt (hd .always (.g 6) 0))
    ∧ decodeMove 0x3E300A01 = .instr (.qntS8 (hd .always (.g 5) 0)) := by
  decide

/-- Words that the spec writes out: 10 (its encoding table and R194). -/
theorem test_spec_words_matrix :
    decodeMove 0x3EB00600 = .instr (.mxw (hd .always (.g 3) 0))
    ∧ decodeMove 0x3EB20001 = .instr (.mxs (hd .always (.short 0#8) 0))
    ∧ decodeMove 0x3EB00202 = .instr (.mxg (hd .always (.g 1) 0))
    ∧ decodeMove 0x3EB00403 = .instr (.mxd (hd .always (.g 2) 0))
    ∧ decodeMove 0x3EB00404 = .instr (.mxz (hd .always (.g 2) 0))
    ∧ decodeMove 0x3EB00C05 = .instr (.mxr (hd .always (.g 6) 0))
    ∧ decodeMove 0x3EB00C06 = .instr (.mxq (hd .always (.g 6) 0))
    ∧ decodeMove 0x3EB20207 = .instr (.mxa (hd .always (.short 1#8) 0))
    ∧ decodeMove 0x3EEE1000 = .instr (.lacq (hd .always (.short 8#8) 0))
    ∧ decodeMove 0x3EEE0001 = .instr (.lrel (hd .always (.short 0#8) 0))
    ∧ decodeMove 0x3EA80A00 = .instr (.move (hd .always (.g 5) 0) (.port .mxa) { try_ := false, pop := false, half := .word, sign := .keep })
    ∧ decodeMove 0x3C113810 = .instr (.move (hd .always (.port .mxq) 0) (.g 4) { try_ := false, pop := true, half := .word, sign := .keep }) := by
  decide

/-- Words that the spec writes out: 12 (its encoding table). -/
theorem test_spec_words_copies :
    decodeMove 0x3EBC0200 = .instr (.cpy (hd .always (.g 1) 0) 0)
    ∧ decodeMove 0x3EBC0401 = .instr (.gth (hd .always (.g 2) 0) 0)
    ∧ decodeMove 0x3EC80402 = .instr (.sct (hd .always (.g 2) 0) 1)
    ∧ decodeMove 0x3EBC0603 = .instr (.ard (hd .always (.g 3) 0) 0)
    ∧ decodeMove 0x3EC80604 = .instr (.bcs (hd .always (.g 3) 0) 1)
    ∧ decodeMove 0x3EBC0C05 = .instr (.cpr (hd .always (.g 6) 0) 0)
    ∧ decodeMove 0x3EBC0C06 = .instr (.cpq (hd .always (.g 6) 0) 0)
    ∧ decodeMove 0x3EC80807 = .instr (.cpf (hd .always (.g 4) 0) 1)
    ∧ decodeMove 0x3EB40A00 = .instr (.move (hd .always (.g 5) 0) (.port .cp0a) { try_ := false, pop := false, half := .word, sign := .keep })
    ∧ decodeMove 0x3EB80A00 = .instr (.move (hd .always (.g 5) 0) (.port .cp0b) { try_ := false, pop := false, half := .word, sign := .keep })
    ∧ decodeMove 0x3C113A10 = .instr (.move (hd .always (.port .cp0q) 0) (.g 4) { try_ := false, pop := true, half := .word, sign := .keep })
    ∧ decodeMove 0x3C094610 = .instr (.move (hd .always (.port .evq) 0) (.g 2) { try_ := false, pop := true, half := .word, sign := .keep }) := by
  decide

/-- Words that the spec writes out: 16 R310, 10 R198 and 14 R279. -/
theorem test_spec_words_system :
    decodeMove 0x3EDA6200 = .instr (.csrr (hd .always (.short 49#8) 0))
    ∧ decodeMove 0x3EDA4001 = .instr (.csrw (hd .always (.short 32#8) 0))
    ∧ decodeMove 0x3EDA0A02 = .instr (.trap (hd .always (.short 5#8) 0))
    ∧ decodeMove 0x3EDA0003 = .instr (.rte (hd .always (.short 0#8) 0))
    ∧ decodeMove 0x3ED80604 = .instr (.chk (hd .always (.g 3) 0))
    ∧ decodeMove 0x3ED80205 = .instr (.shp (hd .always (.g 1) 0))
    ∧ decodeMove 0x3ED80206 = .instr (.obj (hd .always (.g 1) 0))
    ∧ decodeMove 0x3ED80207 = .instr (.evt (hd .always (.g 1) 0))
    ∧ decodeMove 0x3ED40400 = .instr (.move (hd .always (.g 2) 0) (.port .ka) { try_ := false, pop := false, half := .word, sign := .keep })
    ∧ decodeMove 0x3C114010 = .instr (.move (hd .always (.port .kq) 0) (.g 4) { try_ := false, pop := true, half := .word, sign := .keep }) := by
  decide

/-- Words that the spec writes out: 18, 20, 21 and 22 (the words of their programs). -/
theorem test_spec_words_programs :
    decodeMove 0x06910400 = .instr (.atsAdd (hd (.flag .ne 0) (.port .a1q) 0))
    ∧ decodeMove 0x3E991C00 = .instr (.move (hd .always (.port (.ls 0)) 0) (.port .aga) { try_ := false, pop := false, half := .word, sign := .keep })
    ∧ decodeMove 0x3EA50040 = .instr (.redAdd (hd .always (.port .a0q) 0) .pk)
    ∧ decodeMove 0x3E992210 = .instr (.move (hd .always (.port (.ls 3)) 0) (.port .aga) { try_ := false, pop := true, half := .word, sign := .keep })
    ∧ decodeMove 0x3EF60200 = .instr (.cti (hd .always (.short 1#8) 0))
    ∧ decodeMove 0x3EF60201 = .instr (.ctd (hd .always (.short 1#8) 0))
    ∧ decodeMove 0x3A4D0004 = .instr (.ldg (hd (.stage 0) (.port .a0q) 0) .w .normal)
    ∧ decodeMove 0x7A112410 = .instr (.move (hd (.stage 1) (.port (.lg 0)) 0) (.port .f0a) { try_ := false, pop := true, half := .word, sign := .keep })
    ∧ decodeMove 0x7A180800 = .instr (.fma (hd (.stage 1) (.g 4) 0) 0 .rn)
    ∧ decodeMove 0x3E3DC600 = .instr (.move (hd .always (.imm 0) 0) (.port .ca) { try_ := false, pop := false, half := .word, sign := .keep })
    ∧ decodeMove 0x3E418A05 = .instr (.loop (.k 5) 0)
    ∧ decodeMove 0xBE928000 = .instr (.atsAdd (hd .first (.short 64#8) 0))
    ∧ decodeMove 0x3E42C80D = .instr (.wait (hd .always (.short 100#8) 0))
    ∧ decodeMove 0xBE858004 = .instr (.stg (hd .first (.k 0) 0) .w .normal)
    ∧ decodeMove 0xBEA10048 = .instr (.atgXchg (hd .first (.port .a0q) 0) .pk) := by
  decide

theorem test_words_alu :
    decodeMove 0x3E0E0E80 = .instr (.add (hd .always (.short 7#8) 1) 1)
    ∧ decodeMove 0x46041B01 = .instr (.adc (hd (.flag .ne 1) (.g 13) 2) 0)
    ∧ decodeMove 0xBE0D1782 = .instr (.sub (hd .first (.port .xq) 3) 1)
    ∧ decodeMove 0xFA058A03 = .instr (.sbc (hd (.stage 3) (.k 5) 0) 0)
    ∧ decodeMove 0xF60DC284 = .instr (.rsb (hd (.flag .vc 3) (.lat 1) 1) 1)
    ∧ decodeMove 0x8205CB05 = .instr (.and (hd (.flag .eq 2) (.imm 2) 2) 0)
    ∧ decodeMove 0x3E0DD386 = .instr (.or (hd .always (.ident .lane) 3) 1)
    ∧ decodeMove 0x3E05EA07 = .instr (.xor (hd .always (.cc 2) 0) 0)
    ∧ decodeMove 0x460D2688 = .instr (.andn (hd (.flag .ne 1) (.port (.lg 1)) 1) 1)
    ∧ decodeMove 0xBE046B09 = .instr (.orn (hd .first (.g 53) 2) 0)
    ∧ decodeMove 0xFA0E9B8A = .instr (.shl (hd (.stage 3) (.short 77#8) 3) 1)
    ∧ decodeMove 0xF6047E0B = .instr (.shr (hd (.flag .vc 3) (.g 63) 0) 0)
    ∧ decodeMove 0x820D168C = .instr (.sar (hd (.flag .eq 2) (.port .xq) 1) 1)
    ∧ decodeMove 0x3E058B0D = .instr (.rol (hd .always (.k 5) 2) 0)
    ∧ decodeMove 0x3E0DC38E = .instr (.ror (hd .always (.lat 1) 3) 1)
    ∧ decodeMove 0x4605CA0F = .instr (.min (hd (.flag .ne 1) (.imm 2) 0) 0)
    ∧ decodeMove 0xBE0DD290 = .instr (.max (hd .first (.ident .lane) 1) 1)
    ∧ decodeMove 0xFA05EB11 = .instr (.minn (hd (.stage 3) (.cc 2) 2) 0)
    ∧ decodeMove 0xF60D2792 = .instr (.maxn (hd (.flag .vc 3) (.port (.lg 1)) 3) 1)
    ∧ decodeMove 0x8204CE13 = .instr (.abs (hd (.flag .eq 2) (.g 103) 0) 0)
    ∧ decodeMove 0x3E0F2694 = .instr (.addv (hd .always (.short 147#8) 1) 1)
    ∧ decodeMove 0x3E04E315 = .instr (.subv (hd .always (.g 113) 2) 0)
    ∧ decodeMove 0x460D1796 = .instr (.mul (hd (.flag .ne 1) (.port .xq) 3) 1) := by
  decide

theorem test_words_alu_more :
    decodeMove 0xBE058A17 = .instr (.mulh (hd .first (.k 5) 0) 0)
    ∧ decodeMove 0xFA0DC298 = .instr (.mulhn (hd (.stage 3) (.lat 1) 1) 1)
    ∧ decodeMove 0xF605CB19 = .instr (.div (hd (.flag .vc 3) (.imm 2) 2) 0)
    ∧ decodeMove 0x820DD39A = .instr (.rem (hd (.flag .eq 2) (.ident .lane) 3) 1)
    ∧ decodeMove 0x3E05EA1B = .instr (.divn (hd .always (.cc 2) 0) 0)
    ∧ decodeMove 0x3E0D269C = .instr (.remn (hd .always (.port (.lg 1)) 1) 1)
    ∧ decodeMove 0x4604331D = .instr (.ads1 (hd (.flag .ne 1) (.g 25) 2) 0)
    ∧ decodeMove 0xBE0FB39E = .instr (.ads2 (hd .first (.short 217#8) 3) 1)
    ∧ decodeMove 0xFA04461F = .instr (.ads3 (hd (.stage 3) (.g 35) 0) 0)
    ∧ decodeMove 0xF60D16A0 = .instr (.ads4 (hd (.flag .vc 3) (.port .xq) 1) 1)
    ∧ decodeMove 0x82058B21 = .instr (.bfe (hd (.flag .eq 2) (.k 5) 2) 0)
    ∧ decodeMove 0x3E0DC3A2 = .instr (.bfen (hd .always (.lat 1) 3) 1)
    ∧ decodeMove 0x3E05CA23 = .instr (.popc (hd .always (.imm 2) 0) 0)
    ∧ decodeMove 0x460DD2A4 = .instr (.clz (hd (.flag .ne 1) (.ident .lane) 1) 1)
    ∧ decodeMove 0xBE05EB25 = .instr (.ctz (hd .first (.cc 2) 2) 0)
    ∧ decodeMove 0xFA0D27A6 = .instr (.brev (hd (.stage 3) (.port (.lg 1)) 3) 1)
    ∧ decodeMove 0xF6049627 = .instr (.bswp (hd (.flag .vc 3) (.g 75) 0) 0)
    ∧ decodeMove 0x820E3EA8 = .instr (.sxb (hd (.flag .eq 2) (.short 31#8) 1) 1)
    ∧ decodeMove 0x3E04AB29 = .instr (.sxh (hd .always (.g 85) 2) 0)
    ∧ decodeMove 0x3E0D17AA = .instr (.zxb (hd .always (.port .xq) 3) 1)
    ∧ decodeMove 0x46058A2B = .instr (.zxh (hd (.flag .ne 1) (.k 5) 0) 0)
    ∧ decodeMove 0xBE0DC2AC = .instr (.mova (hd .first (.lat 1) 1) 1) := by
  decide

theorem test_words_float :
    decodeMove 0xFA19CB02 = .instr (.fma (hd (.stage 3) (.imm 2) 2) 0 .ru)
    ∧ decodeMove 0xF625D387 = .instr (.fms (hd (.flag .vc 3) (.ident .lane) 3) 1 .rd)
    ∧ decodeMove 0x8219EA08 = .instr (.fnma (hd (.flag .eq 2) (.cc 2) 0) 0 .rn)
    ∧ decodeMove 0x3E25268D = .instr (.fnms (hd .always (.port (.lg 1)) 1) 1 .rz)
    ∧ decodeMove 0x3E18FB12 = .instr (.fadd (hd .always (.g 125) 2) 0 .ru)
    ∧ decodeMove 0x4626CB97 = .instr (.fsub (hd (.flag .ne 1) (.short 101#8) 3) 1 .rd)
    ∧ decodeMove 0xBE180E18 = .instr (.fmul (hd .first (.g 7) 0) 0 .rn)
    ∧ decodeMove 0xFA25169C = .instr (.fmin (hd (.stage 3) (.port .xq) 1) 1)
    ∧ decodeMove 0xF6198B20 = .instr (.fmax (hd (.flag .vc 3) (.k 5) 2) 0)
    ∧ decodeMove 0x8225C3A4 = .instr (.fcmp (hd (.flag .eq 2) (.lat 1) 3) 1)
    ∧ decodeMove 0x3E19CA28 = .instr (.frnd (hd .always (.imm 2) 0) 0 .rn)
    ∧ decodeMove 0x3E25D2AD = .instr (.fscl (hd .always (.ident .lane) 1) 1 .rz)
    ∧ decodeMove 0x4619EB32 = .instr (.hfma2 (hd (.flag .ne 1) (.cc 2) 2) 0 .ru)
    ∧ decodeMove 0xBE2527B7 = .instr (.hadd2 (hd .first (.port (.lg 1)) 3) 1 .rd)
    ∧ decodeMove 0xFA185E38 = .instr (.hmul2 (hd (.stage 3) (.g 47) 0) 0 .rn)
    ∧ decodeMove 0xF62756BD = .instr (.bfma2 (hd (.flag .vc 3) (.short 171#8) 1) 1 .rz)
    ∧ decodeMove 0x82187342 = .instr (.badd2 (hd (.flag .eq 2) (.g 57) 2) 0 .ru)
    ∧ decodeMove 0x3E2517C7 = .instr (.bmul2 (hd .always (.port .xq) 3) 1 .rd)
    ∧ decodeMove 0x3E198A48 = .instr (.fdot2h (hd .always (.k 5) 0) 0 .rn)
    ∧ decodeMove 0x4625C2CD = .instr (.fdot2b (hd (.flag .ne 1) (.lat 1) 1) 1 .rz) := by
  decide

theorem test_words_special :
    decodeMove 0xBE29CB00 = .instr (.rcp (hd .first (.imm 2) 2))
    ∧ decodeMove 0xFA29D381 = .instr (.rsq (hd (.stage 3) (.ident .lane) 3))
    ∧ decodeMove 0xF629EA02 = .instr (.sqrt (hd (.flag .vc 3) (.cc 2) 0))
    ∧ decodeMove 0x82292683 = .instr (.ex2 (hd (.flag .eq 2) (.port (.lg 1)) 1))
    ∧ decodeMove 0x3E28C304 = .instr (.lg2 (hd .always (.g 97) 2))
    ∧ decodeMove 0x3E2BE385 = .instr (.sinr (hd .always (.short 241#8) 3))
    ∧ decodeMove 0x4628D606 = .instr (.cosr (hd (.flag .ne 1) (.g 107) 0))
    ∧ decodeMove 0xBE291687 = .instr (.tanh (hd .first (.port .xq) 1)) := by
  decide

theorem test_words_vector :
    decodeMove 0xFA318B00 = .instr (.cvt (hd (.stage 3) (.k 5) 2))
    ∧ decodeMove 0xF631C381 = .instr (.qntS8 (hd (.flag .vc 3) (.lat 1) 3))
    ∧ decodeMove 0x8231CA02 = .instr (.qntN8 (hd (.flag .eq 2) (.imm 2) 0))
    ∧ decodeMove 0x3E31D283 = .instr (.qntS4 (hd .always (.ident .lane) 1))
    ∧ decodeMove 0x3E31EB04 = .instr (.qntN4 (hd .always (.cc 2) 2))
    ∧ decodeMove 0x46312785 = .instr (.qntS16 (hd (.flag .ne 1) (.port (.lg 1)) 3))
    ∧ decodeMove 0xBE302608 = .instr (.dqn (hd .first (.g 19) 0))
    ∧ decodeMove 0xFA326E89 = .instr (.pkh (hd (.stage 3) (.short 55#8) 1))
    ∧ decodeMove 0xF6303B0A = .instr (.pkb (hd (.flag .vc 3) (.g 29) 2)) := by
  decide

theorem test_words_cross :
    decodeMove 0x82391780 = .instr (.shfl (hd (.flag .eq 2) (.port .xq) 3))
    ∧ decodeMove 0x3E398A01 = .instr (.shup (hd .always (.k 5) 0))
    ∧ decodeMove 0x3E39C282 = .instr (.shdn (hd .always (.lat 1) 1))
    ∧ decodeMove 0x4639CB03 = .instr (.shxr (hd (.flag .ne 1) (.imm 2) 2))
    ∧ decodeMove 0xBE39D384 = .instr (.bcst (hd .first (.ident .lane) 3))
    ∧ decodeMove 0xFA39EA05 = .instr (.ball (hd (.stage 3) (.cc 2) 0))
    ∧ decodeMove 0xF6392686 = .instr (.vany (hd (.flag .vc 3) (.port (.lg 1)) 1))
    ∧ decodeMove 0x82388B07 = .instr (.vall (hd (.flag .eq 2) (.g 69) 2))
    ∧ decodeMove 0x3E3AFB88 = .instr (.matchPeers (hd .always (.short 125#8) 3))
    ∧ decodeMove 0x3E389E09 = .instr (.mtcha (hd .always (.g 79) 0))
    ∧ decodeMove 0x4639168A = .instr (.wadd (hd (.flag .ne 1) (.port .xq) 1))
    ∧ decodeMove 0xBE398B0B = .instr (.wmin (hd .first (.k 5) 2))
    ∧ decodeMove 0xFA39C38C = .instr (.wmax (hd (.stage 3) (.lat 1) 3))
    ∧ decodeMove 0xF639CA0D = .instr (.wminn (hd (.flag .vc 3) (.imm 2) 0))
    ∧ decodeMove 0x8239D28E = .instr (.wmaxn (hd (.flag .eq 2) (.ident .lane) 1))
    ∧ decodeMove 0x3E39EB0F = .instr (.wand (hd .always (.cc 2) 2))
    ∧ decodeMove 0x3E392790 = .instr (.wor (hd .always (.port (.lg 1)) 3))
    ∧ decodeMove 0x4638EE11 = .instr (.wxor (hd (.flag .ne 1) (.g 119) 0))
    ∧ decodeMove 0xBE3B8692 = .instr (.wfadd (hd .first (.short 195#8) 1))
    ∧ decodeMove 0xFA380313 = .instr (.scan (hd (.stage 3) (.g 1) 2))
    ∧ decodeMove 0xF6391794 = .instr (.scanx (hd (.flag .vc 3) (.port .xq) 3))
    ∧ decodeMove 0x82398A15 = .instr (.pln (hd (.flag .eq 2) (.k 5) 0))
    ∧ decodeMove 0x3E39C296 = .instr (.plg (hd .always (.lat 1) 1)) := by
  decide

theorem test_words_control :
    decodeMove 0x3E41CB00 = .instr (.bra (hd .always (.imm 2) 2))
    ∧ decodeMove 0x4641D381 = .instr (.brc (hd (.flag .ne 1) (.ident .lane) 3))
    ∧ decodeMove 0x3E41EA02 = .instr (.join (.cc 2) 0)
    ∧ decodeMove 0xFA412683 = .instr (.call (hd (.stage 3) (.port (.lg 1)) 1))
    ∧ decodeMove 0xF6405304 = .instr (.ret (hd (.flag .vc 3) (.g 41) 2))
    ∧ decodeMove 0x3E421385 = .instr (.loop (.short 9#8) 3)
    ∧ decodeMove 0x3E406606 = .instr (.lback (.g 51) 0)
    ∧ decodeMove 0x3E411687 = .instr (.lext (hd .always (.port .xq) 1))
    ∧ decodeMove 0x46418B08 = .instr (.exit (hd (.flag .ne 1) (.k 5) 2))
    ∧ decodeMove 0xBE41C389 = .instr (.endTask (hd .first (.lat 1) 3))
    ∧ decodeMove 0x3E41CA0A = .instr (.rfl (.imm 2) 0)
    ∧ decodeMove 0xF641D28B = .instr (.psw (hd (.flag .vc 3) (.ident .lane) 1))
    ∧ decodeMove 0x8241EB0C = .instr (.brk (hd (.flag .eq 2) (.cc 2) 2))
    ∧ decodeMove 0x3E41278D = .instr (.wait (hd .always (.port (.lg 1)) 3)) := by
  decide

theorem test_words_barrier :
    decodeMove 0x3ED0B600 = .instr (.bar (hd .always (.g 91) 0))
    ∧ decodeMove 0x46D29E81 = .instr (.bara (hd (.flag .ne 1) (.short 79#8) 1))
    ∧ decodeMove 0xBED0CB02 = .instr (.barw (hd .first (.g 101) 2))
    ∧ decodeMove 0xFAD11783 = .instr (.sync (hd (.stage 3) (.port .xq) 3))
    ∧ decodeMove 0xF6D18A04 = .instr (.boi (hd (.flag .vc 3) (.k 5) 0))
    ∧ decodeMove 0x82D1C285 = .instr (.box (hd (.flag .eq 2) (.lat 1) 1))
    ∧ decodeMove 0x3ED1CB06 = .instr (.boa (hd .always (.imm 2) 2))
    ∧ decodeMove 0x3ED1D387 = .instr (.bow (hd .always (.ident .lane) 3))
    ∧ decodeMove 0x46D1EA08 = .instr (.bot (hd (.flag .ne 1) (.cc 2) 0))
    ∧ decodeMove 0xBED12697 = .instr (.rel (hd .first (.port (.lg 1)) 1) .pk)
    ∧ decodeMove 0xFAD01B29 = .instr (.acq (hd (.stage 3) (.g 13) 2) .sy)
    ∧ decodeMove 0xF6D32BB4 = .instr (.fen (hd (.flag .vc 3) (.short 149#8) 3) .qd) := by
  decide

theorem test_words_system :
    decodeMove 0x82D82E00 = .instr (.csrr (hd (.flag .eq 2) (.g 23) 0))
    ∧ decodeMove 0x3ED91681 = .instr (.csrw (hd .always (.port .xq) 1))
    ∧ decodeMove 0x3ED98B02 = .instr (.trap (hd .always (.k 5) 2))
    ∧ decodeMove 0x46D9C383 = .instr (.rte (hd (.flag .ne 1) (.lat 1) 3))
    ∧ decodeMove 0xBED9CA04 = .instr (.chk (hd .first (.imm 2) 0))
    ∧ decodeMove 0xFAD9D285 = .instr (.shp (hd (.stage 3) (.ident .lane) 1))
    ∧ decodeMove 0xF6D9EB06 = .instr (.obj (hd (.flag .vc 3) (.cc 2) 2))
    ∧ decodeMove 0x82D92787 = .instr (.evt (hd (.flag .eq 2) (.port (.lg 1)) 3)) := by
  decide

theorem test_words_matrix :
    decodeMove 0x3EB07E00 = .instr (.mxw (hd .always (.g 63) 0))
    ∧ decodeMove 0x3EB3B681 = .instr (.mxs (hd .always (.short 219#8) 1))
    ∧ decodeMove 0x46B09302 = .instr (.mxg (hd (.flag .ne 1) (.g 73) 2))
    ∧ decodeMove 0xBEB11783 = .instr (.mxd (hd .first (.port .xq) 3))
    ∧ decodeMove 0xFAB18A04 = .instr (.mxz (hd (.stage 3) (.k 5) 0))
    ∧ decodeMove 0xF6B1C285 = .instr (.mxr (hd (.flag .vc 3) (.lat 1) 1))
    ∧ decodeMove 0x82B1CB06 = .instr (.mxq (hd (.flag .eq 2) (.imm 2) 2))
    ∧ decodeMove 0x3EB1D387 = .instr (.mxa (hd .always (.ident .lane) 3)) := by
  decide

theorem test_words_copy :
    decodeMove 0x3EBDEA00 = .instr (.cpy (hd .always (.cc 2) 0) 0)
    ∧ decodeMove 0x46C92681 = .instr (.gth (hd (.flag .ne 1) (.port (.lg 1)) 1) 1)
    ∧ decodeMove 0xBEBCE302 = .instr (.sct (hd .first (.g 113) 2) 0)
    ∧ decodeMove 0xFACA4383 = .instr (.ard (hd (.stage 3) (.short 33#8) 3) 1)
    ∧ decodeMove 0xF6BCF604 = .instr (.bcs (hd (.flag .vc 3) (.g 123) 0) 0)
    ∧ decodeMove 0x82C91685 = .instr (.cpr (hd (.flag .eq 2) (.port .xq) 1) 1)
    ∧ decodeMove 0x3EBD8B06 = .instr (.cpq (hd .always (.k 5) 2) 0)
    ∧ decodeMove 0x3EC9C387 = .instr (.cpf (hd .always (.lat 1) 3) 1) := by
  decide

theorem test_words_sluice :
    decodeMove 0x46DDCA00 = .instr (.dqp (hd (.flag .ne 1) (.imm 2) 0))
    ∧ decodeMove 0xBEE9D280 = .instr (.sinc (hd .first (.ident .lane) 1))
    ∧ decodeMove 0xFAE9EB01 = .instr (.sdec (hd (.stage 3) (.cc 2) 2))
    ∧ decodeMove 0xF6E92782 = .instr (.sset (hd (.flag .vc 3) (.port (.lg 1)) 3))
    ∧ decodeMove 0x82EC4600 = .instr (.lacq (hd (.flag .eq 2) (.g 35) 0))
    ∧ decodeMove 0x3EEECE81 = .instr (.lrel (hd .always (.short 103#8) 1))
    ∧ decodeMove 0x3EF05B00 = .instr (.tarm (hd .always (.g 45) 2))
    ∧ decodeMove 0x46F11781 = .instr (.tdis (hd (.flag .ne 1) (.port .xq) 3))
    ∧ decodeMove 0xBEF58A00 = .instr (.cti (hd .first (.k 5) 0))
    ∧ decodeMove 0xFAF5C281 = .instr (.ctd (hd (.stage 3) (.lat 1) 1))
    ∧ decodeMove 0xF6F5CB02 = .instr (.cts (hd (.flag .vc 3) (.imm 2) 2)) := by
  decide

theorem test_words_memory :
    decodeMove 0x8245D383 = .instr (.lds (hd (.flag .eq 2) (.ident .lane) 3) .hn)
    ∧ decodeMove 0x3E4DEA01 = .instr (.ldg (hd .always (.cc 2) 0) .bn .normal)
    ∧ decodeMove 0x3E4D26AE = .instr (.ldgs (hd .always (.port (.lg 1)) 1) .q .stream)
    ∧ decodeMove 0x464CAB54 = .instr (.pfg (hd (.flag .ne 1) (.g 85) 2) .w .keep)
    ∧ decodeMove 0xBE535B85 = .instr (.ldw (hd .first (.short 173#8) 3) .d)
    ∧ decodeMove 0xFA68BE07 = .instr (.sts (hd (.stage 3) (.g 95) 0) .m)
    ∧ decodeMove 0xF68516C2 = .instr (.stg (hd (.flag .vc 3) (.port .xq) 1) .h .keep) := by
  decide

theorem test_words_scratch_atomics :
    decodeMove 0x82918B00 = .instr (.atsAdd (hd (.flag .eq 2) (.k 5) 2))
    ∧ decodeMove 0x3E91C381 = .instr (.atsMin (hd .always (.lat 1) 3))
    ∧ decodeMove 0x3E91CA02 = .instr (.atsMax (hd .always (.imm 2) 0))
    ∧ decodeMove 0x4691D283 = .instr (.atsMinn (hd (.flag .ne 1) (.ident .lane) 1))
    ∧ decodeMove 0xBE91EB04 = .instr (.atsMaxn (hd .first (.cc 2) 2))
    ∧ decodeMove 0xFA912785 = .instr (.atsAnd (hd (.stage 3) (.port (.lg 1)) 3))
    ∧ decodeMove 0xF6900E06 = .instr (.atsOr (hd (.flag .vc 3) (.g 7) 0))
    ∧ decodeMove 0x8293E687 = .instr (.atsXor (hd (.flag .eq 2) (.short 243#8) 1))
    ∧ decodeMove 0x3E902308 = .instr (.atsXchg (hd .always (.g 17) 2))
    ∧ decodeMove 0x3E911789 = .instr (.atsCas (hd .always (.port .xq) 3))
    ∧ decodeMove 0x46918A0A = .instr (.atsInc (hd (.flag .ne 1) (.k 5) 0))
    ∧ decodeMove 0xBE91C28B = .instr (.atsDec (hd .first (.lat 1) 1))
    ∧ decodeMove 0xFA91CB0C = .instr (.atsFadd (hd (.stage 3) (.imm 2) 2)) := by
  decide

theorem test_words_global_atomics :
    decodeMove 0xF6A1D3D0 = .instr (.atgAdd (hd (.flag .vc 3) (.ident .lane) 3) .pd)
    ∧ decodeMove 0x82A1EA61 = .instr (.atgMin (hd (.flag .eq 2) (.cc 2) 0) .sy)
    ∧ decodeMove 0x3EA12682 = .instr (.atgMax (hd .always (.port (.lg 1)) 1) .co)
    ∧ decodeMove 0x3EA07313 = .instr (.atgMinn (hd .always (.g 57) 2) .qd)
    ∧ decodeMove 0x46A273A4 = .instr (.atgMaxn (hd (.flag .ne 1) (.short 57#8) 3) .di)
    ∧ decodeMove 0xBEA08635 = .instr (.atgAnd (hd .first (.g 67) 0) .tw)
    ∧ decodeMove 0xFAA116C6 = .instr (.atgOr (hd (.stage 3) (.port .xq) 1) .pk)
    ∧ decodeMove 0xF6A18B57 = .instr (.atgXor (hd (.flag .vc 3) (.k 5) 2) .pd)
    ∧ decodeMove 0x82A1C3E8 = .instr (.atgXchg (hd (.flag .eq 2) (.lat 1) 3) .sy)
    ∧ decodeMove 0x3EA1CA09 = .instr (.atgCas (hd .always (.imm 2) 0) .co)
    ∧ decodeMove 0x3EA1D29A = .instr (.atgInc (hd .always (.ident .lane) 1) .qd)
    ∧ decodeMove 0x46A1EB2B = .instr (.atgDec (hd (.flag .ne 1) (.cc 2) 2) .di)
    ∧ decodeMove 0xBEA127BC = .instr (.atgFadd (hd .first (.port (.lg 1)) 3) .tw) := by
  decide

theorem test_words_reductions :
    decodeMove 0xFAA4D640 = .instr (.redAdd (hd (.stage 3) (.g 107) 0) .pk)
    ∧ decodeMove 0xF6A6FED1 = .instr (.redMin (hd (.flag .vc 3) (.short 127#8) 1) .pd)
    ∧ decodeMove 0x82A4EB62 = .instr (.redMax (hd (.flag .eq 2) (.g 117) 2) .sy)
    ∧ decodeMove 0x3EA51783 = .instr (.redMinn (hd .always (.port .xq) 3) .co)
    ∧ decodeMove 0x3EA58A14 = .instr (.redMaxn (hd .always (.k 5) 0) .qd)
    ∧ decodeMove 0x46A5C2A5 = .instr (.redAnd (hd (.flag .ne 1) (.lat 1) 1) .di)
    ∧ decodeMove 0xBEA5CB36 = .instr (.redOr (hd .first (.imm 2) 2) .tw)
    ∧ decodeMove 0xFAA5D3C7 = .instr (.redXor (hd (.stage 3) (.ident .lane) 3) .pk)
    ∧ decodeMove 0xF6A5EA5A = .instr (.redInc (hd (.flag .vc 3) (.cc 2) 0) .pd)
    ∧ decodeMove 0x82A526EB = .instr (.redDec (hd (.flag .eq 2) (.port (.lg 1)) 1) .sy)
    ∧ decodeMove 0x3EA43B0C = .instr (.redFadd (hd .always (.g 29) 2) .co) := by
  decide

end Sys2Proof.Tests

namespace Sys2Proof.Tests

/-! ## Control (04 R63 to R82) -/

/-- A loop of 5 iterations whose body runs from address 16 to its LBACK at 40. -/
def level5 (i : Nat) : LoopLevel := { n := 5, i := i, ring := 0#32, body := 16#32, lback := 40#32 }

/-- Lane 0, with `v` in g1, inside loops; the LBACK of `level5` is the bundle itself where `pc` says so. -/
def looped (v : Word) (ls : List LoopLevel) : State :=
  let sp : Split := { splitOn 1#32 with loops := ls }
  issue1 me { lane0 v [] with splits := sp :: List.replicate 3 Split.empty } blk

/-- Lanes 0 and 1, with `v` in g1 of both; the other entries of the split table live where `full` says so. -/
def pair (v : Word) (full : Bool) : State :=
  let th := ((lanesOn 3#32).wr (.g 1) 0 v).wr (.g 1) 1 v
  issue1 me { th with splits := splitOn 3#32 :: List.replicate 3 (if full then splitOn 0#32 else Split.empty) } blk

/-- Lane 0's split, one half of a division that is to be joined at address `a`. -/
def halves (a : Word) : State :=
  let half : Split := { splitOn 1#32 with entry := some 0 }
  let j : JoinEntry := { JoinEntry.empty with used := true, join := a, expect := 3#32 }
  let th := lane0 0#32 []
  issue1 me { th with splits := half :: List.replicate 3 Split.empty, joins := j :: List.replicate 7 JoinEntry.empty } blk

/-- The core holds the line at code address 0: a LOOP of g1 at 8, and its LBACK at 16. -/
def coded (s : State) : State :=
  let line := [5#32, 0#32, 1#32, 0x3E400205#32, 1#32, 0x3E400206#32] ++ List.replicate 26 0#32
  s.modCore 0 fun c => { c with icode := Tab.set [] c.icode (s.codeKey me 8#32) line }

theorem witness_BranchesTransfer_bra : (one 0#32 []).primed h1 (wideReads [] true) = true
    ∧ staysInside (one 0#32 []) ((one 0#32 []).cur.pc + leadT h1 (one 0#32 [])) := by
  refine ⟨by decide, fun l h => ?_⟩
  have hl : (Claim.issuing (one 0#32 [])).loops.getLast? = none := by decide +kernel
  rw [hl] at h; cases h

theorem witness_BranchesTransfer_bra_inside : (looped 32#32 [level5 0]).primed h1 (wideReads [] true) = true
    ∧ staysInside (looped 32#32 [level5 0]) ((looped 32#32 [level5 0]).cur.pc + leadT h1 (looped 32#32 [level5 0])) := by
  refine ⟨by decide, fun l h => ?_⟩
  have hl : (Claim.issuing (looped 32#32 [level5 0])).loops.getLast? = some (level5 0) := by decide +kernel
  rw [hl] at h; cases h; decide +kernel

theorem witness_BranchesTransfer_call :
    let s := one 128#32 []
    s.primed h1 (wideReads [] true) = true ∧ (s.cur.pc + leadT h1 s).toNat % 128 = 8 ∧ (Claim.issuing s).loops = [] := by
  decide +kernel

theorem witness_BranchesTransfer_ret : (Claim.issuing (one 8#32 [])).loops = [] := by decide +kernel

theorem witness_BranchesTransfer_lext :
    let s := looped 36#32 [level5 0]
    s.primed h1 (wideReads [] true) = true ∧ (Claim.issuing s).loops.getLast? = some (level5 0)
      ∧ insideBody (level5 0) (s.cur.pc + leadT h1 s) = false := by
  decide +kernel

theorem witness_SplitsDivideAndJoin_whole :
    let s := one 0#32 []
    s.primed h1 (wideReads [] true) = true ∧ s.guard h1.guard = activeLanes s ∧ (Claim.issuing s).loops = [] := by
  decide +kernel

/-- A line whose words 2 to 31 are bundles without a move, each a marked target; core 0 holds it at code address 0. -/
def marks : List Word := [0x3FFFFFFF#32, 0x3FFFFFFF#32] ++ List.replicate 30 0#32
def marked (s : State) : State := s.modCore 0 fun c => { c with icode := Tab.set [] c.icode (s.codeKey me 8#32) marks }

theorem witness_SplitsDivideAndJoin_divides : ∀ full : Bool,
    let s := marked (pair 64#32 full)
    s.primed hFirst (wideReads [] true) = true ∧ divides hFirst s 0 ∧ s.self.freeSplit = (if full then none else some 1) := by
  intro full
  have h : (Claim.issuing (marked (pair 64#32 full))).loops.getLast? = none := by revert full; decide +kernel
  refine ⟨?_, ⟨?_, ?_, ⟨marks, ?_, ?_⟩, ⟨marks, ?_, ?_⟩, fun l hl => ?_, ?_, .inl ?_⟩, ?_⟩
  case refine_8 => rw [h] at hl; cases hl
  all_goals revert full; decide +kernel

theorem witness_SplitsDivideAndJoin_passed :
    let s := halves 12#32
    s.primed h1 (wideReads [] false) = true ∧ (s.self.split s.cur.split).entry = some 0 ∧ (s.self.join 0).join ≠ s.cur.pc := by
  decide +kernel

theorem witness_SplitsDivideAndJoin_arrives :
    let s := halves 8#32
    s.primed h1 (wideReads [] false) = true ∧ (s.self.split s.cur.split).entry = some 0 ∧ (s.self.join 0).join = s.cur.pc
      ∧ (s.self.join 0).arrived = 0#32 := by
  decide +kernel

/-- Lane 0's split at the JOIN of an entry that expects lanes 0 and 1. -/
def joining (f : JoinEntry → JoinEntry) : State :=
  let half : Split := { splitOn 1#32 with entry := some 0 }
  let j : JoinEntry := { JoinEntry.empty with used := true, join := 8#32, expect := 3#32 }
  issue1 me { lane0 0#32 [] with splits := half :: List.replicate 3 Split.empty, joins := f j :: List.replicate 7 JoinEntry.empty } blk

theorem witness_SplitsDivideAndJoin_merges :
    let s := joining fun j => { j with arrived := 2#32 }
    s.primed h1 (wideReads [] false) = true ∧ joinsAt s 0 ∧ (s.self.join 0).held = 0#32 ∧ lastAt s 0
      ∧ (s.self.join 0).arrived ||| (s.self.split s.cur.split).mask ≠ 0#32 ∧ (arrivedAt s 0).freeSplit = some 0 := by
  unfold joinsAt lastAt; decide +kernel

theorem witness_SplitsDivideAndJoin_waits : let s := joining id
    s.primed h1 (wideReads [] false) = true ∧ joinsAt s 0 ∧ (s.self.join 0).held = 0#32 ∧ ¬lastAt s 0 := by
  unfold joinsAt lastAt; decide +kernel

theorem witness_SplitsDivideAndJoin_held :
    let s := joining fun j => { j with serial := true, held := 2#32 }
    s.primed h1 (wideReads [] false) = true ∧ joinsAt s 0 ∧ (s.self.join 0).serial = true ∧ (s.self.join 0).held ≠ 0#32 ∧ ¬lastAt s 0
      ∧ (arrivedAt s 0).freeSplit = some 0 := by
  unfold joinsAt lastAt; decide +kernel

theorem witness_SplitsDivideAndJoin_loops :
    let s := joining fun j => { j with arrived := 2#32, loops := [level5 0] }
    s.primed h1 (wideReads [] false) = true ∧ (s.self.split s.cur.split).entry = some 0 ∧ (s.self.join 0).join = s.cur.pc
      ∧ (s.self.join 0).arrived ≠ 0#32 ∧ sameLoops (Claim.issuing s).loops (s.self.join 0).loops = false := by
  decide +kernel

theorem witness_LoopsTurn_opens : ∀ v ∈ [1#32, 0#32],
    let s := coded (one v [])
    s.primed h1 (wideReads [.ca] true) = true ∧ (Claim.issuing s).loops.length < 2 ∧ s.loopBody = .found 16#32
      ∧ ringBad s.regLimit (s.self.rd (.op .ca) 0) (Claim.issuing s).loops = false
      ∧ ((s.trig h1 0).toNat + ((s.self.rd (.op .ca) 0).toNat / 2 ^ 30 + 1) - 1 = 0 ↔ v = 0#32) := by
  intro v h; simp only [List.mem_cons, List.not_mem_nil, or_false] at h
  rcases h with rfl | rfl <;> (decide +kernel)

theorem witness_LoopsTurn_turns : ∀ i ∈ [3, 4],
    let l : LoopLevel := { level5 i with lback := 8#32 }
    let s := looped 0#32 [l]
    s.primed h1 (wideReads [] false) = true ∧ (Claim.issuing s).loops.getLast? = some l
      ∧ (s.self.split s.cur.split).loops.getLast? = some l ∧ l.lback = s.cur.pc ∧ (l.i + 2 < l.n + l.stages ↔ i = 3) := by
  intro v h; simp only [List.mem_cons, List.not_mem_nil, or_false] at h
  rcases h with rfl | rfl <;> (decide +kernel)

theorem witness_LanesLeaveAndFill :
    (one 0#32 []).primed h1 { ops := [], t := false, wide := false } = true ∧ (one 0#32 []).primed h1 (wideReads [] false) = true
      ∧ (one 0#32 []).cur.tid.isSluice = false ∧ (sluiceOne 0#32 [] blk).primed h1 (wideReads [] false) = true
      ∧ (sluiceOne 0#32 [] blk).cur.tid.isSluice = true
      ∧ ((one 0#32 []).self.split (one 0#32 []).cur.split).mask = (one 0#32 []).self.occupied := by
  decide +kernel

theorem witness_LanesLeaveAndFill_exits :
    let r : Reads := { ops := [], t := false, wide := false }
    let s := pair 0#32 false
    s.primed hFirst r = true ∧ s.self.occupied &&& ~~~s.guard hFirst.guard ≠ 0#32 ∧ (∀ e, e < 8 → (s.self.join e).used = false)
      ∧ (one 0#32 []).primed h1 r = true ∧ (one 0#32 []).self.occupied &&& ~~~(one 0#32 []).guard h1.guard = 0#32
      ∧ (one 0#32 []).rillLeft 0 0 = false := by
  decide +kernel

theorem witness_LanesLeaveAndFill_divided :
    let s := issue1 me { lane0 0#32 [] with occupied := 3#32 } blk
    s.primed h1 (wideReads [] false) = true ∧ (s.self.split s.cur.split).mask ≠ s.self.occupied := by
  decide +kernel

theorem witness_BundlesWaitSwitchAndTrap :
    let s := one 4#32 []
    let u := (issue1 me (lane0 4#32 []) { blk with swtab := 0x1005#32 }).modCore 0 fun c => { c with level := 2#32 }
    s.primed h1 (wideReads [] true) = true ∧ s.selfCore.level.toNat % 4 = (s.self.split s.cur.split).sched ∧ s.cur.after = none
      ∧ (∀ f ∈ s.self.fills, f.port ≠ .kq)
      ∧ u.primed h1 (wideReads [] true) = true ∧ u.selfCore.level.toNat % 4 ≠ (u.self.split u.cur.split).sched
      ∧ (leadT h1 u).toNat < u.selfBlock.swtab.toNat % 256 := by
  decide +kernel

/-! ## Barriers, objects, releases and acquires (06 R113 to R131) -/

/-- Warp 0 in its handler. -/
def handling (v : Word) : State := issue1 me { lane0 v [] with level := true } blk

theorem witness_BlockBarriersCount_arrives : ∀ v ∈ [33 * 16 + 15#32, 1024#32],
    let s := one v []
    s.primed h1 (wideReads [] true) = true ∧ (s.self.split s.cur.split).entry = none ∧ barLegal h1 s ∧ yFree s := by
  intro v h; simp only [List.mem_cons, List.not_mem_nil, or_false] at h
  rcases h with rfl | rfl <;> (unfold barLegal yFree; decide +kernel)

theorem witness_BlockBarriersCount_serial : ∀ e ∈ [true, false],
    let s := (joining fun j => { j with serial := e, held := 2#32 }).modThread me fun th => { th with occupied := 3#32 }
    s.primed h1 (wideReads [] true) = true ∧ barLegal h1 s ∧ (s.self.split s.cur.split).entry = some 0
      ∧ (arrival h1 s).1.heldBack 0 (tokenOf h1 s) = e := by
  intro v h; simp only [List.mem_cons, List.not_mem_nil, or_false] at h
  rcases h with rfl | rfl <;> (unfold barLegal; decide +kernel)

theorem witness_BlockBarriersCount_waits :
    let s := one 0xFFFF0#32 []
    let u := one 0x00003#32 []
    s.primed h1 (wideReads [] true) = true ∧ s.self.level = false ∧ (leadT h1 s).toNat < 2 ^ 20 ∧ acquiresNow s 2
      ∧ genOver (s.barrier s.cur.tid.core s.cur.tid.ctx ((leadT h1 s).toNat % 16)).gen ((leadT h1 s).toNat / 16) = true
      ∧ u.primed h1 (wideReads [] true) = true ∧ u.self.level = false ∧ (leadT h1 u).toNat < 2 ^ 20
      ∧ genOver (u.barrier u.cur.tid.core u.cur.tid.ctx ((leadT h1 u).toNat % 16)).gen ((leadT h1 u).toNat / 16) = false := by
  unfold acquiresNow; decide +kernel

theorem witness_BlockBarriersCount_pends :
    let e : LoadEntry := { seq := 0, width := .w, hint := .normal, spec := false, mask := 1#32, lanes := [asked 0 0 false] }
    let s := issue1 me { lane0 0xFFFF0#32 [] with ls := { entries := [e], ever := true }, seq := 1 } blk
    s.primed h1 (wideReads [] true) = true ∧ s.self.level = false ∧ (leadT h1 s).toNat < 2 ^ 20 ∧ ¬acquiresNow s 2
      ∧ genOver (s.barrier s.cur.tid.core s.cur.tid.ctx ((leadT h1 s).toNat % 16)).gen ((leadT h1 s).toNat / 16) = true := by
  unfold acquiresNow; decide +kernel

theorem witness_BlockBarriersCount_handler :
    (handling 0#32).primed h1 (wideReads [] true) = true ∧ yFree (handling 0#32) ∧ (handling 0#32).self.level = true := by
  unfold yFree; decide +kernel

theorem witness_BarrierGenerationsTurn_arrives :
    let s := one 0#32 []
    me.slot < 32 ∧ 15 < (s.block 0 0).barriers.length ∧ (s.barrier 0 0 15).fixed = false ∧ s.heldLanes 0 0 0 &&& ~~~1#32 = 0#32 := by
  decide +kernel

theorem witness_BarrierGenerationsTurn_turns :
    let b : Barrier := { Barrier.empty with count := 1, warps := 1#32, gen := 65535 }
    let s := issue1 me (lane0 0#32 []) { blk with barriers := b :: List.replicate 15 Barrier.empty }
    0 < (s.block 0 0).barriers.length ∧ s.barrierWhole 0 0 (s.barrier 0 0 0) = true ∧ (s.barrier 0 0 0).carry = [] := by
  decide +kernel

theorem witness_SyncArrives : ∀ v ∈ [3#32, 8#32],
    let s := one v []
    s.primed h1 (wideReads [] true) = true ∧ s.self.level = false ∧ (leadT h1 s).toNat < 32 ∧ 3 ≤ (leadT h1 s).toNat % 16
      ∧ (leadT h1 s).toNat % 16 ≤ 8 ∧ s.syncConflict 0 0 ((leadT h1 s).toNat % 16) (leadT h1 s) = false
      ∧ ((leadT h1 s).toNat % 16 = 8 → s.pack.variant.hasPods = true) := by
  intro v h; simp only [List.mem_cons, List.not_mem_nil, or_false] at h
  rcases h with rfl | rfl <;> (decide +kernel)

theorem witness_SyncArrives_refused : ∀ v ∈ [35#32, 2#32, 9#32],
    let s := one v []
    s.primed h1 (wideReads [] true) = true ∧ s.self.level = false
      ∧ (32 ≤ (leadT h1 s).toNat ∨ (leadT h1 s).toNat % 16 < 3 ∨ 8 < (leadT h1 s).toNat % 16) := by
  intro v h; simp only [List.mem_cons, List.not_mem_nil, or_false] at h
  rcases h with rfl | rfl | rfl <;> (decide +kernel)

theorem witness_BarrierObjectsAreAsked : ∀ v ∈ [1#32, 65535#32],
    let s := one v [(.ya, 16368#32)]
    s.primed h1 (wideReads [.ya] true) = true ∧ objectNamed h1 s ∧ 1 ≤ (leadT h1 s).toNat ∧ (leadT h1 s).toNat ≤ 65535
      ∧ (leadT h1 s).toNat < 2 ^ 31 ∧ yFree s := by
  intro v h; simp only [List.mem_cons, List.not_mem_nil, or_false] at h
  rcases h with rfl | rfl <;> (unfold objectNamed yFree; decide +kernel)

theorem witness_BarrierObjectsAreAsked_phase : ∀ v ∈ [0#32, 1#32],
    let s := one v [(.ya, 0#32)]
    s.primed h1 (wideReads [.ya] true) = true ∧ objectNamed h1 s ∧ (leadT h1 s).toNat ≤ 1 ∧ yFree s
      ∧ s.bowOver s.cur.tid (leadOp .ya h1 s ||| leadT h1 s) = (v == 1#32) := by
  intro v h; simp only [List.mem_cons, List.not_mem_nil, or_false] at h
  rcases h with rfl | rfl <;> (unfold objectNamed yFree; decide +kernel)

theorem witness_BarrierObjectsAreAsked_misaligned :
    let s := one 1#32 [(.ya, 8#32)]
    s.primed h1 (wideReads [.ya] true) = true ∧ yFree s ∧ (leadT h1 s).toNat = 1 ∧ (leadOp .ya h1 s).toNat % 16 ≠ 0 := by
  unfold yFree; decide +kernel

theorem witness_ReleasesAndAcquires :
    let s := one 0#32 []
    s.primed h1 (wideReads [] false) = true ∧ Scope.code .wp ≤ 1 ∧ 2 ≤ Scope.code .bk
      ∧ (∀ e ∈ [Scope.ln, .wp, .bk, .co, .qd, .di, .tw, .pk, .pd, .sy],
          acquiresNow s (Scope.code e)) := by
  unfold acquiresNow; decide +kernel

theorem witness_ReleasesAndAcquires_waits :
    let s := one 0#32 []
    let e : LoadEntry := { seq := 0, width := .w, hint := .normal, spec := false, mask := 1#32, lanes := [asked 0 0 false] }
    let u := issue1 me { lane0 0#32 [] with ls := { entries := [e], ever := true }, seq := 1 } blk
    s.primed h1 (wideReads [] false) = true ∧ u.primed h1 (wideReads [] false) = true
      ∧ ¬acquiresNow u 2 ∧ ¬acquiresNow u 9 := by
  unfold acquiresNow; decide +kernel

/-! ## The K unit (16 R310 to R321) -/

theorem witness_CsrsAreRead : ∀ n ∈ [0x000#32, 0x001#32, 0x0A0#32],
    let s := one n []
    s.primed h1 (wideReads [] true) = true ∧ csrNamed h1 s ∧ kFree s ∧ (csrNumber h1 s = 0 ↔ n = 0#32) := by
  intro v h; simp only [List.mem_cons, List.not_mem_nil, or_false] at h
  rcases h with rfl | rfl | rfl <;> (unfold csrNamed kFree csrNumber; decide +kernel)

theorem witness_CsrsAreRead_unnamed : ∀ n ∈ [0x002#32, 0x1000#32],
    let s := one n []
    s.primed h1 (wideReads [] true) = true ∧ kFree s ∧ ¬ csrNamed h1 s ∧ me.isSluice = false := by
  intro v h; simp only [List.mem_cons, List.not_mem_nil, or_false] at h
  rcases h with rfl | rfl <;> (unfold csrNamed kFree csrNumber; decide +kernel)

theorem witness_CsrsAreWritten : ∀ p ∈ [(0x020#32, 31#32), (0x030#32, 0#32), (0x030#32, 136#32), (0x034#32, 0x7E000#32), (0x040#32, 2#32)],
    let s := { one p.1 [(.ka, p.2)] with clk := 1 }
    s.primed h1 (wideReads [.ka] true) = true ∧ csrNamed h1 s ∧ kFree s ∧ csrNumber h1 s = p.1.toNat ∧ leadOp .ka h1 s = p.2
      ∧ s.cur.tid.isSluice = false ∧ s.self.raisedAt ≠ s.clk ∧ s.self.level = false := by
  intro v h; simp only [List.mem_cons, List.not_mem_nil, or_false] at h
  rcases h with rfl | rfl | rfl | rfl | rfl <;> (unfold csrNamed kFree csrNumber; decide +kernel)

theorem witness_CsrsAreWritten_refused : ∀ p ∈ [(0x000#32, 0#32), (0x020#32, 32#32), (0x040#32, 3#32), (0x034#32, 0#32)],
    let s := issue1 me { lane0 p.1 [(.ka, p.2)] with level := true } blk
    s.primed h1 (wideReads [.ka] true) = true ∧ csrNamed h1 s ∧ kFree s ∧ csrNumber h1 s = p.1.toNat ∧ leadOp .ka h1 s = p.2
      ∧ s.self.level = true := by
  intro v h; simp only [List.mem_cons, List.not_mem_nil, or_false] at h
  rcases h with rfl | rfl | rfl | rfl <;> (unfold csrNamed kFree csrNumber; decide +kernel)

theorem witness_TrapsReturn :
    let s := handling 0#32
    s.primed h1 (wideReads [] false) = true ∧ s.self.level = true ∧ kFree s ∧ s.handlerBusy = false
      ∧ (one 0#32 []).primed h1 (wideReads [] false) = true ∧ kFree (one 0#32 []) ∧ (one 0#32 []).self.level = false := by
  unfold kFree; decide +kernel

theorem witness_TrapsReturn_frame :
    let s := issue1 me { Thread.empty with live := true, level := true } blk
    let ws := (List.range 2048).map fun i => wordOf (s.ownScratch me me.core (blk.scratchBase + s.frameAddr me + 4 * i) 4)
    me.isSluice = false ∧ s.frameAddr me + 8192 ≤ blk.scratchSize ∧ frameOk ws (s.thread me).occupied false = true := by
  decide +kernel

theorem witness_SystemTriggers_chk :
    let s := one 0#32 []
    let u := issue1 me { lane0 0#32 [] with poison := [((Reg.g 1).id, 1#32)] } blk
    s.primed h1 { ops := [], t := false, wide := false } = true ∧ kFree s ∧ s.taggedLanes h1 = 0#32
      ∧ u.primed h1 { ops := [], t := false, wide := false } = true ∧ kFree u ∧ u.taggedLanes h1 ≠ 0#32 := by
  unfold kFree; decide +kernel

theorem witness_SystemTriggers_shp :
    let s := one 63#32 [(.ka, 16352#32)]
    s.primed h1 (wideReads [.ka] true) = true ∧ kFree s ∧ (leadT h1 s).toNat < 64 ∧ (leadOp .ka h1 s).toNat % 32 = 0
      ∧ (leadOp .ka h1 s).toNat + 32 ≤ s.selfBlock.scratchSize
      ∧ (∀ i, i < 8 → Tab.get false s.selfCore.scratchPoison ((s.selfBlock.scratchBase + (leadOp .ka h1 s).toNat) / 4 + i) = false)
      ∧ Rec.bad (s.shpRecord h1) = false := by
  unfold kFree; decide +kernel

/-- An object of 64 bytes at global address 0, in an object-mode range. -/
def objectRange : State :=
  let r : Range := { valid := true, words := [0x83E00000#32, 0#32, 0#32, 0#32] }
  (issue1 me (lane0 0#32 []) { blk with shapes := [0x2001#32, 0#32, 0#32, 16#32, 0#32, 0#32, 0#32, 0#32] :: List.replicate 63 (List.replicate 8 0#32) }).modFn 0
    fun f => { f with ranges := f.ranges.set 0 r }

theorem witness_SystemTriggers_obj : objectRange.primed h1 (wideReads [.ka] true) = true ∧ kFree objectRange ∧ objCheck h1 objectRange = none := by
  unfold kFree; decide +kernel

theorem witness_SystemTriggers_evt :
    let s := one 0xFFFFFF#32 []
    s.primed h1 (wideReads [] true) = true ∧ kFree s ∧ (leadT h1 s).toNat < 2 ^ 24 ∧ s.selfCore.evq.length + s.selfCore.heldE.length < 64 := by
  unfold kFree; decide +kernel

end Sys2Proof.Tests

namespace Sys2Proof.Tests

/-! ## Engine commands and Sluice code (07 R136; 10; 12; 04 R83 to R89) -/

/-- A shape slot 0 with a record, slot 1 with another, and empty ones. -/
def shapesOf (a b : List Word) : List (List Word) := a :: b :: List.replicate 62 (List.replicate 8 0#32)
def recOf (w0 w3 : Word) : List Word := [w0, 0#32, 0#32, w3, 0#32, 0#32, 0#32, 0#32]

/-- A block with two records, all of the quad's rows its own, and a tagged command over. -/
def blkOf (a b : List Word) : Block := { blk with shapes := shapesOf a b, claim := (0, 512) }

/-- The context holds its quad's lease for `n` more commands. -/
def leased (n : Nat) (s : State) : State := s.modQuad 0 fun q => { q with leaseHolder := some (0, 0), leaseLeft := n }

/-- Core 0 belongs to core 1 of its quad's pair. -/
def paired (s : State) : State := s.modCore 0 fun c => { c with mxmode := 0x11#32 }

/-- A warp with records, `v` as its trigger value and operands. -/
def commanding (a b : List Word) (v : Word) (ops : List (OpPort × Word)) : State := issue1 me (lane0 v ops) (blkOf a b)

def weight : List Word := recOf 0x42B1#32 0x00010020#32
def activation : List Word := recOf 0x4070#32 0x00010004#32
def drain : List Word := recOf 0x4000#32 0x00010001#32
def bytes4 : List Word := recOf 0x0001#32 4#32
def listed : List Word := recOf 0x14000#32 0x00010001#32
def indices : List Word := [0xA0000062#32, 0#32, 0#32, 1#32, 0#32, 0#32, 0#32, 0#32]

/-- The commands of the Cascade on operands and records that they take. -/
def mxwState : State := leased 2 (commanding weight [] 0#32 [(.mxa, 0x200#32)])
def mxsState : State := leased 1 (commanding [] [] 0#32 [])
def mxgState : State := leased 2 (commanding activation [] 1#32 [])
def mxdState : State := leased 2 (commanding drain [] 1#32 [])
def mxzState : State := paired (commanding [] [] 512#32 [])

theorem witness_MatrixCommandsIssue_mxw : mxwState.primed h1 (wideReads [.mxa, .mxb] true) = true ∧ mxwState.commandWaits 0 = false
    ∧ mayCount mxwState ∧ mxwCheck h1 mxwState = none ∧ mxwState.selfCore.mxmode.getLsbD 0 = false ∧ 1 < (mxwState.quad 0).leaseLeft := by
  unfold mayCount; decide +kernel

theorem witness_MatrixCommandsIssue_mxs : mxsState.primed h1 (wideReads [] true) = true ∧ mxsState.commandWaits 0 = false
    ∧ mayCount mxsState ∧ mxsCheck h1 mxsState = none ∧ mxsState.selfCore.mxmode.getLsbD 0 = false ∧ (mxsState.quad 0).leaseLeft ≤ 1 := by
  unfold mayCount; decide +kernel

theorem witness_MatrixCommandsIssue_mxg : mxgState.primed h1 (wideReads [.mxa, .mxb] true) = true ∧ mxgState.commandWaits 0 = false
    ∧ mayCount mxgState ∧ mxgCheck h1 mxgState = none := by
  unfold mayCount; decide +kernel

theorem witness_MatrixCommandsIssue_mxd : mxdState.primed h1 (wideReads [.mxa, .mxb] true) = true ∧ mxdState.commandWaits 0 = false
    ∧ mayCount mxdState ∧ mxdCheck h1 mxdState = none := by
  unfold mayCount; decide +kernel

theorem witness_MatrixCommandsIssue_mxz : mxzState.primed h1 (wideReads [.mxb] true) = true ∧ mxzState.commandWaits 0 = false
    ∧ mxzCheck h1 mxzState = none := by
  decide +kernel

theorem witness_MatrixCommandsIssue_refused : (one 0#32 []).primed h1 (wideReads [.mxa, .mxb] true) = true
    ∧ (one 0#32 []).commandWaits 0 = false ∧ ¬mayCount (one 0#32 []) := by
  unfold mayCount; decide +kernel

/-- The commands of the copy engines on records that they take; CPn.b names no barrier object, or one at offset 0. -/
def cpyState : State := commanding bytes4 bytes4 0x800040#32 []
def cpfState : State := commanding bytes4 bytes4 1#32 []
def gthState : State := commanding listed indices 0#32 []

/-- A copy-control block of two parties at global address 0. -/
def collectiveState : State := { mapped (one 0#32 []) with mem := [(2 ^ 21 + 2, 1#8), (2 ^ 21 + 8, 4#8)] }

theorem witness_CopyCommandsIssue_cpy : ∀ u : Fin 2, cpyState.primed h1 (wideReads [] true) = true ∧ cpyState.commandWaits (1 + u.val) = false
    ∧ cpyCheck h1 u cpyState = none ∧ cpyState.operBad (engineB (1 + u.val)) 1#32 = none
    ∧ (leadT h1 cpyState).getLsbD 23 = true := by
  decide +kernel

theorem witness_CopyCommandsIssue_cpf : ∀ u : Fin 2, cpfState.primed h1 (wideReads [engineA (1 + u.val)] true) = true
    ∧ cpfState.commandWaits (1 + u.val) = false ∧ cpfCheck h1 u cpfState = none ∧ (leadT h1 cpfState).getLsbD 23 = false := by
  decide +kernel

theorem witness_CopyCommandsIssue_gather : ∀ u : Fin 2, gthState.primed h1 (wideReads [] true) = true
    ∧ gthState.commandWaits (1 + u.val) = false ∧ (leadT h1 gthState).getLsbD 23 = false
    ∧ ∀ scatter : Bool, gatherCheck h1 u scatter gthState = none := by
  decide +kernel

theorem witness_CopyCommandsIssue_collectives : ∀ u : Fin 2,
    collectiveState.primed h1 (wideReads [engineA (1 + u.val), engineB (1 + u.val)] true) = true
    ∧ collectiveState.commandWaits (1 + u.val) = false
    ∧ ∀ b : Bool, collectiveCheck h1 u b collectiveState = none ∧ collectiveState.collectivePage h1 u b = none := by
  decide +kernel

/-- A command of the block that an engine has parked. -/
def parked (engine opcode : Nat) (s : State) : State :=
  ({ s with cmds := [{ s.newCommand engine opcode 0#32 0#32 0#32 [] with tag := 7, pr := 0, stage := 3 }] } : State).modBlock 0 0 fun b =>
    { b with progress := { Progress.free with tag := 7, state := 3 } :: List.replicate 7 Progress.free }

theorem witness_CommandsAnswerAndResume_query : (one 0#32 []).primed h1 (wideReads [] true) = true
    ∧ (leadT h1 (one 0#32 [])).toNat < 2 ^ 24 := by
  decide +kernel

theorem witness_CommandsAnswerAndResume_copy :
    let s := parked 1 0 (one 7#32 [])
    s.primed h1 (wideReads [] true) = true ∧ (leadT h1 s).toNat < 2 ^ 24 ∧ (s.resumable 0 0 (leadT h1 s).toNat (· != 0)).isSome = true := by
  decide +kernel

theorem witness_CommandsAnswerAndResume_matrix :
    let s := leased 1 (parked 0 3 (one 7#32 []))
    s.primed h1 (wideReads [] true) = true ∧ mayCount s ∧ (leadT h1 s).toNat < 2 ^ 24
      ∧ (s.resumable 0 0 (leadT h1 s).toNat (· == 0)).map (·.opcode) = some 3 := by
  unfold mayCount; decide +kernel

theorem witness_CommandsAnswerAndResume_claim :
    let s := one 15#32 [(.mxa, 512#32)]
    s.primed h1 (wideReads [.mxa] true) = true ∧ mxaWaits h1 s = false ∧ mxaCheck h1 s = none
      ∧ s.claimMeets s.cur.tid.core s.cur.tid.ctx (s.mxaClaim h1) = false := by
  decide +kernel

theorem witness_SluiceTriggers_semaphores : ∀ v ∈ [0#32, 65535#32], semLegal h1 (sluiceOne v [(.sma, 31#32)] blk)
    ∧ (sluiceOne v [(.sma, 31#32)] blk).primed h1 (wideReads [.sma] true) = true := by
  intro v h; simp only [List.mem_cons, List.not_mem_nil, or_false] at h
  rcases h with rfl | rfl <;> (unfold semLegal; decide +kernel)

/-- A Sluice context whose block has 15 decisions and one task. -/
def sluiceState (v : Word) : State :=
  sluiceOne v [] { blk with dq := List.replicate 15 0#32, tasks := [{ entry := 8#32, armed := false, waits := [], cycles := 0 }] }

theorem witness_SluiceTriggers_decision : (sluiceState 9#32).primed h1 (wideReads [] true) = true
    ∧ (sluiceState 9#32).selfBlock.dq.length < 16 := by
  decide +kernel

theorem witness_SluiceTriggers_task : (sluiceState 0#32).primed h1 (wideReads [] true) = true
    ∧ (leadT h1 (sluiceState 0#32)).toNat < (sluiceState 0#32).selfBlock.tasks.length := by
  decide +kernel

theorem witness_SluiceTriggers_disarms :
    let s := sluiceOne 0#32 [] { (sluiceState 0#32).selfBlock with running := some 0 }
    s.primed h1 (wideReads [] true) = true ∧ (leadT h1 s).toNat < s.selfBlock.tasks.length ∧ blockGoesOn h1 s :=
  ⟨by decide +kernel, by decide +kernel, by decide +kernel, .inl (by decide +kernel)⟩

theorem witness_SluiceTriggers_ends :
    (sluiceState 0#32).selfBlock.resident = true ∧ ¬blockGoesOn h1 (sluiceState 0#32) := by
  refine ⟨by decide +kernel, fun ⟨_, h⟩ => ?_⟩
  rcases h with h | ⟨j, _, h⟩ | h
  · exact absurd h (by decide +kernel)
  · have e : (sluiceState 0#32).selfBlock.armed = [] := by decide +kernel
    simp [e] at h
  · exact absurd h (by decide +kernel)

theorem witness_SluiceTriggers_noTask : (sluiceState 1#32).primed h1 (wideReads [] true) = true
    ∧ (sluiceState 1#32).selfBlock.tasks.length ≤ (leadT h1 (sluiceState 1#32)).toNat := by
  decide +kernel

theorem witness_SluiceTriggers_counter :
    let s := sluiceState 65535#32
    let u := sluiceState 0#32
    s.primed h1 (wideReads [] true) = true ∧ (leadT h1 s).toNat ≤ 65535 ∧ s.extra + (leadT h1 s).toNat < 2 ^ 32
      ∧ s.extra < (leadT h1 s).toNat ∧ u.primed h1 (wideReads [] true) = true ∧ (leadT h1 u).toNat ≤ u.extra ∧ u.extra < 2 ^ 32 := by
  decide +kernel

theorem witness_LeasesAreAskedAndGivenBack : ∀ v ∈ [1#32, 64#32],
    let s := one v []
    s.primed h1 (wideReads [] true) = true ∧ s.selfCore.mxmode.getLsbD 0 = false ∧ 1 ≤ (leadT h1 s).toNat ∧ (leadT h1 s).toNat ≤ 64
      ∧ (s.quad 0).leaseHolder ≠ some (0, 0) ∧ (s.quad 0).requests 0 0 = false := by
  intro v h; simp only [List.mem_cons, List.not_mem_nil, or_false] at h
  rcases h with rfl | rfl <;> decide +kernel

theorem witness_LeasesAreAskedAndGivenBack_refused : ∀ v ∈ [0#32, 65#32],
    let s := one v []
    s.primed h1 (wideReads [] true) = true ∧ s.selfCore.mxmode.getLsbD 0 = false ∧ ((leadT h1 s).toNat = 0 ∨ 64 < (leadT h1 s).toNat) := by
  intro v h; simp only [List.mem_cons, List.not_mem_nil, or_false] at h
  rcases h with rfl | rfl <;> decide +kernel

theorem witness_LeasesAreAskedAndGivenBack_back :
    let s := leased 3 (one 0#32 [])
    s.primed h1 (wideReads [] false) = true ∧ s.selfCore.mxmode.getLsbD 0 = false ∧ (s.quad 0).leaseHolder = some (0, 0) := by
  decide +kernel

theorem witness_LeasesAreAskedAndGivenBack_paired :
    let s := paired (one 1#32 [])
    s.primed h1 (wideReads [] true) = true ∧ s.primed h1 (wideReads [] false) = true ∧ s.selfCore.mxmode.getLsbD 0 = true := by
  decide +kernel

/-! ## Loads, stores and atomics (11 R216 to R234) -/

/-- Lane 0 at an address, with its h ports 0. -/
def at_ (v : Word) : State := mapped (one v [])

theorem witness_LoadsEnterTheirQueues_scratch : ∀ wd : Width, slotsFree (one 16368#32 []).self.ls wd
    ∧ scratchLegal h1 (bytesOfWidth wd) (one 16368#32 []) ∧ (one 16368#32 []).primed h1 (laneReads []) = true := by
  unfold slotsFree slotsTaken scratchLegal; intro wd; cases wd <;> decide +kernel

theorem witness_LoadsEnterTheirQueues_global : ∀ wd : Width, slotsFree (at_ 5#32).self.lg wd
    ∧ globalLegal .lgh h1 (bytesOfWidth wd) (at_ 5#32) ∧ (at_ 5#32).primed h1 (laneReads [.lgh]) = true
    ∧ ∀ l ∈ lanesIn ((at_ 5#32).guard h1.guard), globalOf .lgh h1 (at_ 5#32) l + bytesOfWidth wd ≤ 2 ^ 57 := by
  unfold slotsFree slotsTaken globalLegal; intro wd; cases wd <;> decide +kernel

/-- The machine as another part. -/
def onPart (v : Variant) (s : State) : State := { s with pack := { s.pack with variant := v } }

/-- Function 0's window on die 0's weight store has one bank. -/
def windowed (s : State) : State := s.modFn 0 fun f => { f with wsWin := List.replicate 4 1#32 }

theorem witness_LoadsEnterTheirQueues_weights : ∀ wd : Width,
    let s := windowed (one 0#32 [])
    s.pack.variant.hasStore = true ∧ slotsFree s.self.lw wd ∧ weightCheck h1 (bytesOfWidth wd) s = none ∧ s.primed h1 (laneReads []) = true := by
  unfold slotsFree slotsTaken; intro wd; cases wd <;> decide +kernel

theorem witness_LoadsEnterTheirQueues_absent : ∀ wd : Width,
    let s := onPart .kv950m (one 0#32 [])
    s.pack.variant.hasStore = false ∧ slotsFree s.self.lw wd ∧ s.primed h1 (laneReads []) = true := by
  unfold slotsFree slotsTaken; intro wd; cases wd <;> decide +kernel

theorem witness_StoresEnterTheBuffer_scratch : ∀ wd : Width, wd.store = true →
    (one 16368#32 []).primed h1 (laneReads (dataPorts .ssd .ssm wd)) = true ∧ (one 16368#32 []).selfCore.stores.length < 64
    ∧ ∀ l ∈ lanesIn ((one 16368#32 []).guard h1.guard), ((one 16368#32 []).storeTarget h1 wd l).isSome = true := by
  intro wd; cases wd <;> decide +kernel

theorem witness_StoresEnterTheBuffer_global : ∀ wd : Width, wd.store = true →
    (at_ 5#32).primed h1 (laneReads (.sgh :: dataPorts .sgd .sgm wd)) = true ∧ (at_ 5#32).selfCore.stores.length < 64
    ∧ globalLegal .sgh h1 (if wd = .m then 1 else bytesOfWidth wd) (at_ 5#32) := by
  unfold globalLegal; intro wd; cases wd <;> decide +kernel

theorem witness_AtomicsEnterTheirQueue : ∀ e ∈ atsRows ++ atgRows .di ++ redRows .sy,
    (at_ 8#32).primed h1 (atomReads e) = true ∧ atomsFree (at_ 8#32) ∧ atomNamed e h1 (at_ 8#32) ∧ atomAligned h1 (at_ 8#32) := by
  have h : ∀ e ∈ atsRows ++ atgRows .di ++ redRows .sy, (at_ 8#32).primed h1 (atomReads e) = true := by decide +kernel
  refine fun e he => ⟨h e he, by unfold atomsFree; decide +kernel, ?_, by unfold atomAligned; decide +kernel⟩
  unfold atomNamed scratchLegal globalLegal; split <;> decide +kernel

theorem witness_AtomicsEnterTheirQueue_misaligned : ∀ e ∈ atsRows ++ atgRows .di ++ redRows .sy,
    (at_ 6#32).primed h1 (atomReads e) = true ∧ atomsFree (at_ 6#32) ∧ atomNamed e h1 (at_ 6#32)
    ∧ (lanesIn ((at_ 6#32).guard h1.guard)).find? (fun k => decide (((at_ 6#32).trig h1 k).toNat % 4 ≠ 0)) = some 0 := by
  have h : ∀ e ∈ atsRows ++ atgRows .di ++ redRows .sy, (at_ 6#32).primed h1 (atomReads e) = true := by decide +kernel
  refine fun e he => ⟨h e he, by unfold atomsFree; decide +kernel, ?_, by decide +kernel⟩
  unfold atomNamed scratchLegal globalLegal; split <;> decide +kernel

/-! ## Traps and steps (16 R309 to R318; 03 R52, R62) -/

/-- A thread in its block, with nothing at the boundary. -/
def task : State := placed me (lane0 0#32 []) blk

theorem witness_PoisonedOperandsTrap :
    let s := issue1 me { lane0 0#32 [] with poison := [((Reg.op .a0a).id, 1#32), ((Reg.g 1).id, 1#32)] } blk
    s.alone = true ∧ s.sourced h1 = true ∧ (∀ e ∈ aluSums, (aluReads e 0).tagged s h1 (s.guard h1.guard) = true) ∧ room 1 s
      ∧ (laneReads []).tagged s h1 (s.guard h1.guard) = true ∧ slotsFree s.self.ls .q ∧ s.selfCore.stores.length < 64 ∧ atomsFree s
      ∧ slotsFree s.self.lg .q := by
  unfold room slotsFree slotsTaken atomsFree; decide +kernel

/-- A tagged source, and a tagged XA, of a bundle that may issue. -/
def tagged (th : Thread) : State :=
  issue1 me { th with poison := [.op .a0a, .op .a1a, .g 1, .op .xa].map fun r : Reg => (r.id, 1#32) } blk

theorem witness_PoisonedOperandsTrap_units : ∀ u : Fin 2, ∀ rm ∈ [Rm.rn, Rm.rz],
    let s := tagged (lane0 0#32 [])
    (∀ e ∈ aluProducts ++ aluBits ++ aluShifts ++ aluFields ++ aluDivides ++ [unaryRow .ctz id], (aluReads e u).tagged s h1 (s.guard h1.guard) = true)
      ∧ (∀ e ∈ fpRows u rm ++ packedRows u rm ++ compareRow u :: cvtRow :: convRows ++ specialRows,
          (floatReads e).tagged s h1 (s.guard h1.guard) = true)
      ∧ (∀ e ∈ movements ++ votes ++ reductions ++ planes, (crossReads e).tagged s h1 (s.guard h1.guard) = true) := by
  intro u rm h; simp only [List.mem_cons, List.not_mem_nil, or_false] at h
  rcases h with rfl | rfl <;> revert u <;> decide +kernel

theorem witness_PoisonedOperandsTrap_free :
    let s := tagged (lane0 0#32 [])
    room 2 s ∧ dividersFree h1 s ∧ specialFree s ∧ s.pack.variant.hasStore = true ∧ slotsFree s.self.lw .q
      ∧ (s.self.tags (.op .xa)).getLsbD (lowestIn (s.guard h1.guard)) = true := by
  unfold room dividersFree specialFree slotsFree slotsTaken; decide +kernel

theorem witness_PoisonedOperandsTrap_memory : ∀ wd : Width, wd.store = true →
    let s := tagged (lane0 0#32 [])
    (laneReads [.lgh]).tagged s h1 (s.guard h1.guard) = true ∧ (laneReads (dataPorts .ssd .ssm wd)).tagged s h1 (s.guard h1.guard) = true
      ∧ (laneReads (.sgh :: dataPorts .sgd .sgm wd)).tagged s h1 (s.guard h1.guard) = true
      ∧ ∀ e ∈ atsRows ++ atgRows .di ++ redRows .sy, (atomReads e).tagged s h1 (s.guard h1.guard) = true := by
  intro wd; cases wd <;> decide +kernel

theorem witness_AddressesAreChecked : ∀ v ∈ [524288#32, 16381#32],
    let s := one v []
    s.primed h1 (laneReads []) = true ∧ slotsFree s.self.ls .w ∧ s.selfBlock.grouped = false
      ∧ refusedLane h1 s (fun k => unplaced s (s.trig h1 k) (bytesOfWidth .w)) 0 := by
  unfold slotsFree slotsTaken refusedLane
  intro v h; simp only [List.mem_cons, List.not_mem_nil, or_false] at h
  rcases h with rfl | rfl <;> decide +kernel

/-- Of a grouped block: another half without a twin, set bits between the fields, its own region, and a group mate's that is not there. -/
theorem witness_AddressesAreChecked_pooled : ∀ v ∈ [0x80000000#32, 0x00080000#32, 16384#32, 0x08000000#32],
    let s := issue1 me (lane0 v []) { blk with grouped := true }
    s.primed h1 (laneReads []) = true ∧ s.selfBlock.grouped = true
      ∧ refusedLane h1 s (fun k => unplaced s (s.trig h1 k) (bytesOfWidth .w)) 0 := by
  unfold refusedLane
  intro v h; simp only [List.mem_cons, List.not_mem_nil, or_false] at h
  rcases h with rfl | rfl | rfl | rfl <;> decide +kernel

theorem witness_AddressesAreChecked_stores : ∀ wd ∈ [Width.w, .m],
    let s := one 16388#32 []
    s.primed h1 (laneReads (dataPorts .ssd .ssm wd)) = true ∧ s.selfCore.stores.length < 64
      ∧ refusedLane h1 s (fun k => unplaced s (if wd = .m then s.trig h1 k &&& ~~~15#32 else s.trig h1 k) (bytesOfWidth wd)) 0 := by
  unfold refusedLane
  intro v h; simp only [List.mem_cons, List.not_mem_nil, or_false] at h
  rcases h with rfl | rfl <;> decide +kernel

theorem witness_AddressesAreChecked_atomics :
    let s := one 16388#32 []
    (∀ e ∈ atsRows, s.primed h1 (atomReads e) = true) ∧ atomsFree s ∧ refusedLane h1 s (fun k => unplaced s (s.trig h1 k) 4) 0 := by
  unfold refusedLane atomsFree; decide +kernel

theorem witness_AddressesAreChecked_global :
    let s := onPart .kv960p (one 0xFFFFFFFD#32 [(.lgh, 0x01FFFFFF#32), (.sgh, 0x01FFFFFF#32), (.agh, 0x01FFFFFF#32)])
    s.primed h1 (laneReads [.lgh]) = true ∧ slotsFree s.self.lg .w ∧ s.pack.variant.hasPods = true
      ∧ refusedLane h1 s (fun k => decide (2 ^ 57 < globalOf .lgh h1 s k + bytesOfWidth .w)) 0
      ∧ refusedLane h1 s (fun k => decide (2 ^ 57 < globalOf .sgh h1 s k + bytesOfWidth .w)) 0
      ∧ refusedLane h1 s (fun k => decide (2 ^ 57 < globalOf .agh h1 s k + 4)) 0 := by
  unfold slotsFree slotsTaken refusedLane; decide +kernel

/-- The first address of function 0 lies in a pod-remote range, and the part has no pods. -/
theorem witness_AddressesAreChecked_pods :
    let s := (onPart .kv950m (at_ 0#32)).modFn 0 fun f =>
      { f with ranges := f.ranges.set 0 { valid := true, words := [0x86E00000#32, 0#32, 0#32, 0#32] } }
    s.pack.variant.hasPods = false ∧ ∃ k ∈ lanesIn (s.guard h1.guard), podRemote .lgh h1 s k = true := by
  decide +kernel

theorem witness_AddressesAreChecked_weights : ∀ v ∈ [0x10000000#32, 0x0FFFFFFD#32],
    let s := one v []
    s.primed h1 (laneReads []) = true ∧ s.pack.variant.hasStore = true ∧ slotsFree s.self.lw .w
      ∧ (if v = 0x10000000#32 then refusedLane h1 s (fun k => decide (2 ^ 28 ≤ (s.trig h1 k).toNat)) 0
        else (∀ k ∈ lanesIn (s.guard h1.guard), (s.trig h1 k).toNat < 2 ^ 28)
          ∧ refusedLane h1 s (fun k => s.wsOutside s.selfBlock.fn (dieOf s.cur.tid.core) (s.trig h1 k).toNat (bytesOfWidth .w)) 0) := by
  unfold slotsFree slotsTaken refusedLane
  intro v h; simp only [List.mem_cons, List.not_mem_nil, or_false] at h
  rcases h with rfl | rfl <;> decide +kernel

/-- A word as the only move of the only bundle after reset. -/
def fetched (w : Nat) : State := State.reset.withFetchWord 32 w

def slotOf (w : Word) : Slot := { num := 0, word := w, here := true, imms := [] }

theorem witness_StepsRunInstructions : OneMove (fetched 0x3E4C0204) 0 me 0 (fetchLine 0x3E4C0204#32) (slotOf 0x3E4C0204#32) :=
  ⟨by decide +kernel, by decide +kernel, by decide +kernel, by decide +kernel, by decide +kernel, by decide +kernel, by decide +kernel⟩

/-- A trigger of the control unit takes effect after the pop; one of the ALU does not. -/
theorem witness_StepsRunInstructions_late : late (slotOf (BitVec.ofNat 32 (0x90 * 2 ^ 18))) = true ∧ late (slotOf 0x3E4C0204#32) = false := by
  decide +kernel

theorem witness_StepsRunInstructions_agenda : (State.reset.settled = false) ∧
    ({ State.reset with agenda := [.takeTrap me 0 0 0#32 0] }.agenda = Instr.takeTrap me 0 0 0#32 0 :: []) := by decide +kernel

theorem witness_TrapsAreTaken : recoverable task me { cause := 2, tval := 0#32, telem := 0, tepc := 8#32 } ∧ atRest task me := by
  unfold recoverable atRest; decide +kernel

theorem witness_TrapsAreTaken_handler : ((placed me { lane0 0#32 [] with level := true } blk).thread me).level = true := by decide +kernel

theorem witness_TrapsAreTaken_pending :
    let p : PendingTrap := { cause := 0x16, tval := 0#32, telem := 0 }
    let s := placed me { lane0 0#32 [] with pending := [p] } blk
    s.boundaryTrap me = some p ∧ s.stepsNothing me = false ∧ ¬ ((p.cause = 0x0D ∨ p.cause = 0x0E) ∧ (s.block me.core me.ctx).tvec = 0#32) := by
  decide +kernel

theorem witness_TrapsAreTaken_discarded :
    let p : PendingTrap := { cause := 0x0D, tval := 0#32, telem := 0 }
    let s := placed me { lane0 0#32 [] with pending := [p] } { blk with tvec := 0#32 }
    s.boundaryTrap me = some p ∧ s.stepsNothing me = false ∧ ((p.cause = 0x0D ∨ p.cause = 0x0E) ∧ (s.block me.core me.ctx).tvec = 0#32) := by
  decide +kernel

theorem witness_MemoriesStayCanonical : State.reset.memoryWf := by unfold State.memoryWf; decide +kernel

end Sys2Proof.Tests

namespace Sys2Proof.Tests

/-! ## Events: results, loads, Sluice work and waits -/

/-- Warp 0, or the Sluice context, as given, in its block. -/
def warp (th : Thread) : State := placed me th blk
def warpAt (sp : Split) : State := warp { lane0 0#32 [] with splits := sp :: List.replicate 3 Split.empty }
def sluiced (th : Thread) (b : Block) : State := placed slu th b

def flight (u : Nat) : Flight :=
  { unit := u, mask := 1#32, vals := List.replicate 32 5#32, flags := List.replicate 32 4#4, raised := 0#5, due := 0, split := 0 }

theorem witness_ResultsArrive_flight : ∀ u, u < 8 →
    let s := warp { lane0 0#32 [] with flights := [flight u] }
    thawed me s ∧ ((s.thread me).flights.filter fun g => decide (g.due ≤ s.clk)) = [flight u] := by
  unfold thawed; decide +kernel

theorem witness_ResultsArrive_fill :
    let f : Fill := { port := .kq, mask := 1#32, vals := List.replicate 32 5#32, due := 0, late := false }
    let s := warp { lane0 0#32 [] with fills := [f] }
    f.mask ≠ 0#32 ∧ thawed me s ∧ f.due ≤ s.clk ∧ (s.thread me).fills = [f] := by
  unfold thawed; decide +kernel

theorem witness_ResultsArrive_counts : ∀ w : Bool,
    let s : State := { warpAt { splitOn 1#32 with ready := 1, waited := w } with clk := 1 }
    thawed me s ∧ (s.block 0 0).leaseWait = none ∧ ((s.thread me).split 0).live = true ∧ ((s.thread me).split 0).ready ≠ 0 ∧ ((s.thread me).split 0).ready ≤ s.clk
      ∧ ((s.thread me).split 0).waited = w := by
  unfold thawed; intro w; cases w <;> decide +kernel

/-- A load of lane 0 at an address. -/
def loadOf (wd : Width) (a : Nat) (served : Bool) : LoadQ :=
  { entries := [{ seq := 0, width := wd, hint := .normal, spec := false, mask := 1#32,
                  lanes := [{ asked 0 a true with served := served }] }], ever := true }

def loading (p : LoadPort) (wd : Width) (a : Nat) (served : Bool) : State :=
  mapped (warp ({ lane0 0#32 [] with seq := 1 }.setLoads p (loadOf wd a served)))

theorem witness_ResultsArrive_scratch : ∀ wd : Width,
    let s := loading .ls wd 5 false
    s.arrivalMay me .ls 0 0 = true ∧ ((s.thread me).findLoad .ls 0 0).map (·.2.addr) = some 5
      ∧ 5 % 2 ^ 20 + bytesOfWidth wd ≤ 2 ^ 20
      ∧ ∀ k, k < bytesOfWidth wd → Tab.get false (s.core (5 / 2 ^ 20)).scratchPoison ((5 % 2 ^ 20 + k) / 4) = false := by
  intro wd; cases wd <;> decide +kernel

/-- A load of lane 0 that crosses a boundary of 32 bytes, one side of which may have been read. -/
def crossing (p : LoadPort) (part : Option (Bool × List Byte)) : State :=
  let q := loadOf .q 30 true
  let e := q.entries.map fun e => { e with lanes := e.lanes.map fun x => { x with part := part } }
  mapped (warp ({ lane0 0#32 [] with seq := 1 }.setLoads p { q with entries := e }))

theorem witness_ResultsArrive_crossing : ∀ p ∈ [LoadPort.ls, .lw],
    ∀ part ∈ [none, some (true, List.replicate 14 5#8), some (false, List.replicate 2 5#8)],
    let s := crossing p part
    s.arrivalMay me p 0 0 = true ∧ ((s.thread me).findLoad p 0 0).map (·.2.part) = some part
      ∧ 30 % 2 ^ 20 + bytesOfWidth .q ≤ 2 ^ 20 ∧ ¬bytesOfWidth .q ≤ 32 - 30 % 32 := by
  intro p hp part h
  simp only [List.mem_cons, List.not_mem_nil, or_false] at hp h
  rcases hp with rfl | rfl <;> rcases h with rfl | rfl | rfl <;> decide +kernel

theorem witness_ResultsArrive_weights : ∀ wd : Width,
    let s := loading .lw wd (2 ^ 28 - 16) true
    s.arrivalMay me .lw 0 0 = true ∧ ((s.thread me).findLoad .lw 0 0).map (·.2.addr) = some (2 ^ 28 - 16)
      ∧ 2 ^ 28 - 16 + bytesOfWidth wd ≤ 2 ^ 28 ∧ ∀ k, k < bytesOfWidth wd → Tab.get false (s.die 0).wsPoison ((2 ^ 28 - 16 + k) / 32) = false := by
  intro wd; cases wd <;> decide +kernel

/-- Quad 0 holds line 0 of function 0, shared, and its home lists it. -/
def shared0 (s : State) : State :=
  (s.modQLine 0 key0 fun x => { x with state := 1, bytes := List.replicate 128 7#8 }).modDie 0 fun d =>
    { d with dir := [(key0, { DirEntry.empty with state := 1, head := some 0 })] }

theorem witness_ResultsArrive_global : ∀ wd : Width,
    let s := shared0 (loading .lg wd 5 false)
    s.arrivalMay me .lg 0 0 = true ∧ ∀ x ∈ ((s.thread me).findLoad .lg 0 0).map (·.2), x.addr = 5
      ∧ ∀ y ∈ x.todo (bytesOfWidth wd), s.readsAtHome 0 y.1 = false ∧ s.hits 0 0 y.1 y.2 = true
        ∧ ((pageStarts y.1 y.2).any fun a => s.rightRefused 0 a 0) = false
        ∧ ∀ k, k < y.2 → ∀ b : Bool, (s.hitByte 0 0 (y.1 + k) b).2 = false := by
  intro wd; cases wd <;> decide +kernel

theorem witness_ResultsArrive_globalCrossing : ∀ part ∈ [none, some (true, List.replicate 14 5#8), some (false, List.replicate 2 5#8)],
    let s := shared0 (crossing .lg part)
    s.arrivalMay me .lg 0 0 = true ∧ ∀ x ∈ ((s.thread me).findLoad .lg 0 0).map (·.2), x.part = part
      ∧ ∀ y ∈ x.todo (bytesOfWidth .q), s.readsAtHome 0 y.1 = false ∧ s.hits 0 0 y.1 y.2 = true
        ∧ ((pageStarts y.1 y.2).any fun a => s.rightRefused 0 a 0) = false
        ∧ ∀ k, k < y.2 → ∀ b : Bool, (s.hitByte 0 0 (y.1 + k) b).2 = false := by
  intro part h
  simp only [List.mem_cons, List.not_mem_nil, or_false] at h
  rcases h with rfl | rfl | rfl <;> decide +kernel

theorem witness_ResultsArrive_bank :
    let s := loading .lw .w 4096 false
    ((s.thread me).findLoad .lw 0 0).map (·.2.served) = some false ∧ bankOf 4096 ≠ refreshed s.clk ∧ bankOf 4099 ≠ refreshed s.clk := by
  decide +kernel

theorem witness_ResultsArrive_window :
    let s := warpAt { splitOn 1#32 with place := .entry 0 }
    s.windowCount 0 < 8 ∧ s.nextEntering 0 = some (me, 0) ∧ 0 < (s.thread me).splits.length := by
  decide +kernel

theorem witness_ResultsArrive_tilest :
    let s := bootedState.modCore 3 fun c => { c with tileLate := [(0, 0, 5, 9#32), (0, 1, 5, 8#32)] }
    (s.core 3).tileLate.filter (fun x => decide (x.2.1 ≤ s.clk) && (s.block 3 x.1).frozen.isNone) = [(0, 0, 5, 9#32)] := by
  decide +kernel

def task1 : Task := { entry := 8#32, armed := true, waits := [{ consume := true, sem := 31, threshold := 2 }], cycles := 10 }
def tasked : Block := { blk with tasks := [task1], armed := [true] }

theorem witness_SluiceWorkGoesOn_pick :
    let s := (sluiced { lanesOn 1#32 with splits := List.replicate 4 Split.empty } tasked).modCore 0 fun c => { c with sems := c.sems.set 31 3#16 }
    s.mayPick 0 0 = true ∧ s.pick 0 0 = some 0 ∧ (s.block 0 0).tasks[0]? = some task1 ∧ (s.core 0).sems.length = 32
      ∧ 0 < (s.block 0 0).armed.length ∧ ∀ w ∈ task1.waits, w.sem < 32 := by
  decide +kernel

theorem witness_SluiceWorkGoesOn_overrun :
    let s : State := { sluiced (lanesOn 1#32) { tasked with running := some 0, firstIssue := some 4 } with clk := 14 }
    (s.block 0 0).resident = true ∧ (s.block 0 0).frozen = none ∧ (s.block 0 0).pauseFrom = none ∧ (s.block 0 0).running = some 0
      ∧ (s.block 0 0).firstIssue = some 4 ∧ (s.block 0 0).tasks[0]? = some task1 ∧ (s.block 0 0).overran = false
      ∧ 4 + (s.block 0 0).paused + task1.cycles ≤ s.clk := by
  decide +kernel

theorem witness_SluiceWorkGoesOn_held :
    let s := bootedState.modCore 0 fun c => { c with held := [7#32, 8#32] }
    (s.core 0).evq.length < 64 ∧ (s.core 0).held = 7#32 :: [8#32] := by
  decide +kernel

theorem witness_SluiceWorkGoesOn_event : ∀ n ∈ [0, 64],
    let e : EvtPost := { tid := me, seq := 0, word := 0xC0000005#32 }
    let s := task.modCore 0 fun c => { c with heldE := [e], evq := List.replicate n 7#32, held := if n = 0 then [] else [6#32] }
    ((s.core 0).held = [] ∨ 64 ≤ (s.core 0).evq.length) ∧ e.word.toNat / 2 ^ 30 = 3
      ∧ (s.core 0).heldE.find? (fun e => s.releasedBefore e.tid e.seq) = some e := by
  decide +kernel

theorem witness_SluiceWorkGoesOn_rill :
    let r : Rill := { die := 0, ranges := [(3, 9)], served := (0, 0) }
    let s := (warpAt { splitOn 1#32 with rill := true }).modLaunch 0 fun l => { l with rills := [r] }
    s.rillMay me = true ∧ 0 < (s.thread me).splits.length
      ∧ (List.range 4).find? (fun j => ((s.thread me).split j).live && ((s.thread me).split j).rill) = some 0
      ∧ (s.block 0 0).inherit = [] ∧ 3 < 9
      ∧ (s.launch (s.block 0 0).lid).rills.find? (fun r => r.die == dieOf 0) = some { r with ranges := [(3, 9)] } := by
  decide +kernel

theorem witness_SluiceWorkGoesOn_lease :
    let s := task.modQuad 0 fun q => { q with leaseReqs := [{ core := 0, ctx := 0, count := 64 }] }
    (s.quad 0).leaseHolder = none ∧ (s.quad 0).leaseFree ≤ s.clk ∧ (s.quad 0).leaseReqs = [{ core := 0, ctx := 0, count := 64 }]
      ∧ (s.block 0 0).leaseWait = none := by
  decide +kernel

/-- A split that waits, with kind, word and object. -/
def waiting (kind : Nat) (w0 : Word) : Split :=
  { splitOn 1#32 with wait := { kind := kind, w0 := w0, w1 := 0#32, due := 0 }, place := .away }

theorem witness_WaitsEnd_barrier : ∀ k ∈ [1, 2],
    let s := warpAt (waiting k 0xFFFF0#32)
    0 < (s.thread me).splits.length ∧ s.waitOver me 0 = true
      ∧ (((s.thread me).split 0).wait.kind = 1 ∨ ((s.thread me).split 0).wait.kind = 2) := by
  decide +kernel

theorem witness_WaitsEnd_sync :
    let s := warpAt (waiting 3 0xFFFF3#32)
    0 < (s.thread me).splits.length ∧ s.waitOver me 0 = true ∧ ((s.thread me).split 0).wait.kind = 3 := by
  decide +kernel

theorem witness_WaitsEnd_object :
    let s := (warpAt { waiting 4 3#32 with wait := { kind := 4, w0 := 3#32, w1 := 17#32, due := 0 } })
    0 < (s.thread me).splits.length ∧ s.waitOver me 0 = true ∧ ((s.thread me).split 0).wait.kind = 4 := by
  decide +kernel

/-- An acquire or fence whose split waits for it. -/
def fencing (fence : Bool) (scope : Nat) : State :=
  let a : Acquire := { seq := 3, scope := scope, upto := 0, fence := fence, stalls := true }
  warp { lane0 0#32 [] with acqs := [a], seq := 4,
                            splits := { waiting 5 (BitVec.ofNat 32 scope) with wait := { kind := 5, w0 := BitVec.ofNat 32 scope, w1 := 0#32, due := 3 } }
                              :: List.replicate 3 Split.empty }

theorem witness_WaitsEnd_fence : ∀ f : Bool, ∀ scope ∈ [3, 4, 7],
    let s := fencing f scope
    0 < (s.thread me).splits.length ∧ s.fenceOver me 0 = true
      ∧ (s.thread me).acqs.find? (fun a => a.stalls && a.seq == ((s.thread me).split 0).wait.due)
        = some { seq := 3, scope := scope, upto := 0, fence := f, stalls := true } := by
  intro f scope h; simp only [List.mem_cons, List.not_mem_nil, or_false] at h
  rcases h with rfl | rfl | rfl <;> cases f <;> decide +kernel

/-- Nothing holds an acquire of a warp at rest; an earlier one that is pending holds it. -/
theorem witness_WaitsEnd_acquires : acquiresAtOnce (warpAt (waiting 1 0xFFFF0#32)) me 2
    ∧ acquiresAtOnce (warpAt (waiting 3 0xFFFF3#32)) me 3 ∧ ¬acquiresAtOnce (fencing false 3) me 3 := by
  unfold acquiresAtOnce; decide +kernel

theorem witness_WaitsEnd_watchdog :
    let s : State := { (warpAt (splitOn 1#32)).modCore 0 fun c => { c with watchdog := 100 } with clk := 100 }
    let u := s.modThread me fun th => { th with level := true }
    (s.watchdogOver me 0 = true ∧ (s.thread me).level = false) ∧ u.watchdogOver me 0 = true ∧ (u.thread me).level = true := by
  decide +kernel

/-- An operation at an object whose words are given. -/
def objecting (kind : Nat) (v : Word) (pend bytes : Nat) : State :=
  let cells (a : Nat) (w : Word) : List Host.Cell := (List.range 4).map fun i => (a + i, w.extractLsb' (8 * i) 8)
  let s := task.modCore 0 fun c => { c with objq := [{ kind := kind, tid := me, mask := 1#32, addr := 16, v := v, tseq := 0, need := [] }] }
  (s.scratchWrite 0 (cells 16 (w32 pend))).scratchWrite 0 (cells 20 (w32 bytes))

/-- An operation of a kind at the object at 16. -/
def opAt (kind : Nat) (v : Word) : ObjOp := { kind := kind, tid := me, mask := 1#32, addr := 16, v := v, tseq := 0, need := [] }

theorem witness_WaitsEnd_objectTaken : ∀ k ∈ [0, 1, 2, 3],
    let o := opAt k 1#32
    let s := objecting k 1#32 1 8
    s.nextObject 0 = some o ∧ ((s.objectWords 0 16).getD 1 0#32).toInt + o.v.toNat ≤ 2 ^ 31 - 1
      ∧ o.v.toNat ≤ ((s.objectWords 0 16).getD 0 0#32).toNat % 65536 := by
  decide +kernel

theorem witness_WaitsEnd_objectRefused : ∀ k ∈ [1, 2],
    let o := opAt k 2#32
    let s := objecting k 2#32 1 (2 ^ 31 - 2)
    s.nextObject 0 = some o ∧ 2 ^ 31 - 1 < ((s.objectWords 0 16).getD 1 0#32).toInt + o.v.toNat
      ∧ ((s.objectWords 0 16).getD 0 0#32).toNat % 65536 < o.v.toNat := by
  decide +kernel

theorem witness_WaitsEnd_objectTested : ∀ v : Word, v = 0#32 ∨ v = 1#32 →
    (objecting 4 v 1 8).nextObject 0 = some (opAt 4 v)
      ∧ decide (2 ^ 31 ≤ (((objecting 4 v 1 8).objectWords 0 16).getD 0 0#32).toNat) = false := by
  rintro v (rfl | rfl) <;> decide +kernel

/-! ## Stores and atomics -/

/-- A store whose lowest lane writes two bytes, on the two sides of a sector's boundary where the address is 31. -/
def storeLane (a : Nat) : StoreLane := { lane := 0, addr := a, cells := [(a, 1#8), (a + 1, 2#8)] }
def storeAt (global : Bool) (a : Nat) : StoreEntry :=
  { seq := 0, tid := me, split := 0, fn := 0, global := global, lanes := [storeLane a], tseq := 0, whole := [], hint := .normal, frame := false }

theorem witness_StoresAndAtomicsAreDone_scratch : ∀ a ∈ [6, 31],
    let e := storeAt false a
    let s := task.modCore 0 fun c => { c with stores := [e] }
    drains s 0 0 e (storeLane a) [] ∧ e.global = false := by
  unfold drains
  intro a h; simp only [List.mem_cons, List.not_mem_nil, or_false] at h
  rcases h with rfl | rfl <;> decide +kernel

theorem witness_StoresAndAtomicsAreDone_global : ∀ a ∈ [6, 127],
    let e := storeAt true a
    let s := (mapped (task.modCore 0 fun c => { c with stores := [e] })).modQuad 0 fun q => { q with grants := [(256 * 2 ^ 45, 0)] }
    drains s 0 0 e (storeLane a) [] ∧ e.global = true ∧ s.uncachedPages e.fn (storeLane a).span.1 (storeLane a).span.2 = []
      ∧ ∀ c ∈ (storeLane a).cells, c.1 < 2 ^ 57 ∧ s.isUncached e.fn (c.1 / 32 * 32) = false ∧ s.sealed e.fn (c.1 / 32 * 32) = false
        ∧ (s.qline (quadOf 0) (s.keyOf e.fn c.1)).state ≠ 2 := by
  unfold drains
  intro a h; simp only [List.mem_cons, List.not_mem_nil, or_false] at h
  rcases h with rfl | rfl <;> decide +kernel

/-- Function 0's addresses below 2^16 are another package's. -/
def remote (s : State) : State := s.modFn 0 fun f =>
  { f with ranges := f.ranges.set 0 { valid := true, words := [0x86E00000#32, 0#32, 0#32, 0#32] } }

theorem witness_StoresAndAtomicsAreDone_uncached :
    let e := storeAt true 6
    let s := remote (task.modCore 0 fun c => { c with stores := [e] })
    let v := (s.askAll 0 1 (s.requester me) (s.uncachedPages 0 6 2)).1
    drains s 0 0 e (storeLane 6) [] ∧ e.global = true ∧ (storeLane 6).span = (6, 2)
      ∧ (∀ c ∈ (storeLane 6).cells, v.isUncached e.fn (c.1 / 32 * 32) = true)
      ∧ s.askAll 0 1 (s.requester me) (s.uncachedPages 0 6 2) = ({ v with draws := s.draws }, none)
      ∧ s.drawn.askAll 0 1 (s.drawn.requester me) (s.drawn.uncachedPages 0 6 2) = ({ v with draws := s.drawn.draws }, none) := by
  unfold drains; decide +kernel

/-- An atomic of lanes 0 and 1 at a word. -/
def atomOn (kind stage : Nat) : AtomEntry :=
  let lane (l : Nat) : AtomLane := { lane := l, addr := 8, a := 3#32, c := 0#32, stage := stage, old := 0#32, cause := 0, tries := 0, missed := false }
  { seq := 0, tid := me, split := 0, fn := 0, kind := kind, op := 0, scope := 2,
    lanes := [lane 0, lane 1], tseq := 0 }

def atomic (kind stage : Nat) : State := task.modCore 0 fun c => { c with atoms := [atomOn kind stage] }

theorem witness_StoresAndAtomicsAreDone_scratchAtomic :
    let s := atomic 0 0
    unperformed s 0 0 8 (atomOn 0 0) ∧ s.atomReady (atomOn 0 0) 8 = true ∧ Tab.get false (s.core 0).scratchPoison 2 = false := by
  unfold unperformed; decide +kernel

/-- A block-scope atomic at a line that quad 0 owns. -/
def nearAtom : AtomEntry := { atomOn 1 0 with scope := 1 }
def near : State :=
  (mapped (task.modCore 0 fun c => { c with atoms := [nearAtom] })).modQLine 0 key0 fun x =>
    { x with state := 2, bytes := List.replicate 128 7#8 }

theorem witness_StoresAndAtomicsAreDone_near :
    unperformed near 0 0 8 nearAtom ∧ nearAtom.kind = 1 ∧ near.nearAtomMay 0 nearAtom 8 = true ∧ 8 % 4 = 0 ∧ 8 < 2 ^ 57
      ∧ ∀ k, k < 4 → near.quadPoison (quadOf 0) 0 (8 + k) = false ∧ (near.qline (quadOf 0) (near.keyOf 0 (8 + k))).bytes.length = 128 := by
  unfold unperformed; decide +kernel

theorem witness_StoresAndAtomicsAreDone_home : ∀ k ∈ [1, 2],
    let s := remote (atomic k 0)
    let leaf : Leaf := { fn := 0, base := 0, size := 4096, frame := 0, host := false, rights := 15 }
    let v := (s.ask 0 8 2 (s.requester me)).1
    (unperformed s 0 0 8 (atomOn k 0) ∧ s.homeAtomMay 0 0 8 k = true ) ∧ v.isUncached 0 8 = true ∧ v.hostTakes (atomOn k 0) 8 = true
      ∧ (v.rangeOf 0 8).policy = 3 ∧ v.cores = s.cores ∧ (s.ask 0 8 2 (s.requester me)).2 = .go leaf := by
  unfold unperformed
  intro k h; simp only [List.mem_cons, List.not_mem_nil, or_false] at h
  rcases h with rfl | rfl <;> decide +kernel

/-- Function 0's addresses below 2^21 are the host's. -/
def hosted (s : State) : State := (s.modFn 0 fun f =>
  { f with ranges := f.ranges.set 0 { valid := true, words := [0x88E00000#32, 0#32, 0#32, 0#32] } }).modDie 0 fun d =>
    { d with leaves := [{ leaf0 with host := true }] }

theorem witness_StoresAndAtomicsAreDone_host : ∀ k ∈ [1, 2],
    let s := hosted (atomic k 0)
    let v := (s.ask 0 8 2 (s.requester me)).1
    (unperformed s 0 0 8 (atomOn k 0) ∧ s.homeAtomMay 0 0 8 k = true) ∧ v.isUncached 0 8 = true ∧ v.hostTakes (atomOn k 0) 8 = true
      ∧ (v.hostPlace 0 8).isSome = true ∧ v.cores = s.cores ∧ (s.ask 0 8 2 (s.requester me)).2 = .go { leaf0 with host := true } := by
  unfold unperformed
  intro k h; simp only [List.mem_cons, List.not_mem_nil, or_false] at h
  rcases h with rfl | rfl <;> decide +kernel

theorem witness_StoresAndAtomicsAreDone_response :
    let s := atomic 1 1
    s.atomOf 0 0 = some (atomOn 1 1) ∧ ((s.core 0).atoms.filter fun x => x.seq == 0) = [atomOn 1 1] ∧ (atomOn 1 1).kind = 1
      ∧ s.responseMay 0 0 8 = true ∧ lanesAt (atomOn 1 1) 8 ≠ [] ∧ ((atomOn 1 1).lanes.map (·.lane)).Nodup
      ∧ ∀ x ∈ lanesAt (atomOn 1 1) 8, x.stage = 1 ∧ x.cause = 0 ∧ x.lane < 32 := by
  decide +kernel

theorem witness_StoresAndAtomicsAreDone_retry :
    let s := (atomic 1 1).modFn 0 fun f => { f with ranges := f.ranges.set 0 { valid := true, words := [0x82E04000#32, 0#32, 0#32, 0#32] } }
    s.atomOf 0 0 = some (atomOn 1 1) ∧ (atomOn 1 1).kind = 1 ∧ s.quadAtomic (atomOn 1 1) 8 = false
      ∧ (s.homeOf 0 8 ≠ dieOf 0 ∨ (s.rangeOf 0 8).policy = 3) ∧ lanesAt (atomOn 1 1) 8 ≠ []
      ∧ ∀ x ∈ lanesAt (atomOn 1 1) 8, x.stage = 1 := by
  decide +kernel

end Sys2Proof.Tests

namespace Sys2Proof.Tests

/-! ## Faults, the log, launches and SYNC generations -/

/-- A split that waits for the code line at code address 8, or for a page. -/
def fetching : State := mapped (warpAt { splitOn 1#32 with want := some 8#32 })
def paging : State := mapped (warpAt { splitOn 1#32 with page := some (0, 3) })

theorem witness_FaultsAndLogGoOn_fetch : fetching.fetchMay 0 0 0 = true ∧ fetching.lineWanters 0 0 0 = [me]
    ∧ (fetching.ask 0 0 3 (fetching.requester me)).2 = .go leaf0 := by
  decide +kernel

theorem witness_FaultsAndLogGoOn_page :
    let w : Want := { fn := 0, addr := 0, access := 4, who := { paging.requester me with origin := 3 } }
    paging.walkWants 0 0 0 = [w] ∧ (paging.ask 0 w.addr w.access w.who).2 = .go leaf0 := by
  decide +kernel

theorem witness_FaultsAndLogGoOn_walk :
    let s := loading .lg .w 8 false
    let w : Want := { fn := 0, addr := 8, access := 0, who := s.requester me }
    s.walkWants 0 0 0 = [w] ∧ (s.ask 0 w.addr w.access w.who).2 = .go leaf0 ∧ w.access ≠ 4 := by
  decide +kernel

theorem witness_FaultsAndLogGoOn_grant :
    let s := mapped (task.modCore 0 fun c => { c with stores := [storeAt true 6] })
    let n : Need := { key := 0, fn := 0, addr := 6, access := 1, who := s.requester me, hint := .normal }
    s.grantRequest 0 0 0 = some (n, storeAt true 6) ∧ (s.ask 0 6 1 n.who).2 = .go leaf0 := by
  decide +kernel

theorem witness_FaultsAndLogGoOn_granted :
    let s := bootedState.modQuad 0 fun q => { q with grantWant := [(0, 0)] }
    (0, 0) ∈ (s.quad 0).grantWant := by
  decide +kernel

def faultAt : FaultRec :=
  { fn := 0, kind := 1, id := 1, access := 0, level := 1, addr := 4096, who := { pkg := 0, die := 0, core := 0, slot := 0, origin := 0, tag := 0 } }

/-- Function 0's fault queue is set up. -/
def queued (s : State) : State := s.modFn 0 fun f => { f with fqset := 7, fqctl := 6#32 }

theorem witness_FaultsAndLogGoOn_entry :
    let s := queued (bootedState.modDie 1 fun d => { d with buffer := [faultAt] })
    ((s.die 1).buffer.take 256).find? (fun y => y.fn == 0) = some faultAt ∧ (s.fn 0).fqset = 7
      ∧ ((s.fn 0).fqtail - (s.fn 0).fqhead).toNat < 2 ^ ((s.fn 0).fqctl.extractLsb' 0 5).toNat ∧ (s.die 0).lost = false
      ∧ (s.fn 0).fenced = false := by
  decide +kernel

theorem witness_FaultsAndLogGoOn_driver : openFn 0 bootedState
    ∧ (0#32 - (bootedState.fn 0).fqhead).toNat ≤ ((bootedState.fn 0).fqtail - (bootedState.fn 0).fqhead).toNat
    ∧ 6 ≤ (BitVec.extractLsb' 0 5 6#32).toNat ∧ (BitVec.extractLsb' 0 5 16#32).toNat ≤ 16 := by
  unfold openFn; decide +kernel

theorem witness_FaultsAndLogGoOn_resolve :
    let x : PageFault := { fn := 0, page := 1, id := 1 }
    let s := bootedState.modDie 1 fun d => { d with faults := [x] }
    openFn 0 s ∧ s.faultHolder 0 1 = some (1, x) := by
  unfold openFn; decide +kernel

theorem witness_FaultsAndLogGoOn_append : ∀ w0 ∈ [0x02000000#32, 0x01003FFF#32],
    let s := bootedState.modFn 0 fun f => { f with inval := [w0, 45#32, 0#32, 0#32] }
    openFn 0 s ∧ (∀ i, i < 3 → (s.fn 0).inval.getD i 0#32 = [w0, 45#32, 0#32].getD i 0#32) ∧ logAllows 0 w0 45#32 := by
  unfold openFn logAllows; intro v h; simp only [List.mem_cons, List.not_mem_nil, or_false] at h
  rcases h with rfl | rfl <;> decide +kernel

def entry1 : LogEntry := { seq := 1, purge := true, transl := true, fn := 0, domain := 0, size := 45, base := 0 }

theorem witness_FaultsAndLogGoOn_apply :
    let s := shared0 (bootedState.modDie 0 fun d => { d with log := [entry1] })
    s.logMay 0 = true ∧ (s.die 0).nextLog = some entry1 ∧ entry1.purge = true ∧ entry1.transl = true := by
  decide +kernel

/-- Queue 0 of function 0 is enabled, has two entries read and five rung. -/
def runs (on : Bool) (stop : Bool) (s : State) : State := s.modFn 0 fun f =>
  { f with queues := [(0, { Queue.reset with enabled := on, stopped := stop, doorbell := 5#32, read := 2#32, fetched := 3#32 })] }

theorem witness_LaunchesGoOn_doorbell :
    let s := runs true false bootedState
    queueRuns 0 0 s ∧ ((s.queue 0 0).doorbell - (s.queue 0 0).read).toNat ≤ (18#32 - (s.queue 0 0).read).toNat
      ∧ (18#32 - (s.queue 0 0).read).toNat ≤ 2 ^ (s.queue 0 0).k
      ∧ (4#32 - (s.queue 0 0).read).toNat < ((s.queue 0 0).doorbell - (s.queue 0 0).read).toNat
      ∧ ((s.queue 0 0).doorbell - (s.queue 0 0).read).toNat ≤ (19#32 - (s.queue 0 0).read).toNat
      ∧ 2 ^ (s.queue 0 0).k < (19#32 - (s.queue 0 0).read).toNat := by
  unfold queueRuns rung openFn; decide +kernel

/-- A function that is not enabled, and a queue that is not. -/
theorem witness_LaunchesGoOn_doorbellOff : openFn 1 bootedState ∧ (bootedState.fn 1).enabled = false
    ∧ rung 0 (runs false false bootedState) ∧ ((runs false false bootedState).queue 0 0).enabled = false := by
  unfold rung openFn; decide +kernel

theorem witness_LaunchesGoOn_doorbellStopped :
    let s := runs true true bootedState
    rung 0 s ∧ (s.queue 0 0).enabled = true ∧ (s.queue 0 0).stopped = true := by
  unfold rung openFn; decide +kernel

theorem witness_LaunchesGoOn_arrival :
    let s := mapped (runs true false bootedState)
    s.mayFetch 0 0 = true ∧ (s.fetchLaunch 0 0).2.isSome = true := by
  decide +kernel

/-- A launch that waits for word 0 of function 0. -/
def launched (w : Word) (l : Launch) : State :=
  mapped { bootedState with launches := [(0, { l with waits := [{ addr := 0, threshold := w, done := false, readAt := 0, owed := false }] })], nextLid := 1 }

theorem witness_LaunchesGoOn_wait : ∀ w ∈ [0#32, 1#32],
    let s := launched w Launch.empty
    (s.launch 0).waits[0]? = some { addr := 0, threshold := w, done := false, readAt := 0, owed := false } ∧ (s.launch 0).status = none
      ∧ (s.ask (s.launch 0).fn 0 6 s.dispatchWho).2 = .go leaf0 ∧ (w.toNat ≤ (s.sysWord 0 0).toNat ↔ w = 0#32) := by
  intro v h; simp only [List.mem_cons, List.not_mem_nil, or_false] at h
  rcases h with rfl | rfl <;> decide +kernel

/-- A bind record of queue 0 of function 0, with all cores of die 0 or with core 0 alone. -/
def bindOf (cores : Word) : List Word := [0x80000000#32, 0x00010200#32, 0#32, 0#32, cores] ++ List.replicate 11 0#32
def bound (cores : Word) : Bind := { valid := true, words := bindOf cores }

theorem witness_LaunchesGoOn_bind : linked bootedState ∧ bootedState.bindReason 1023 (bound 1#32) = 0 ∧ bootedState.bindReason 1023 (bound 0#32) ≠ 0
    ∧ (bound 0#32).valid = true ∧ ([] : List Word).getD 0 0#32 = 0#32 := by
  decide +kernel

/-- A launch of one block at the head of its queue, with its record in slot 0. -/
def heading (w7 cores : Word) (s : State) : State :=
  { s with pack := { s.pack with dies := 15#4 }, binds := [(0, bound cores)],
           launches := [(0, { Launch.empty with packet := [0#32, 1#32, 0#32, 0#32, 0#32, 1#32, 0#32, w7] ++ List.replicate 24 0#32, posted := false })] }

theorem witness_LaunchesGoOn_hopeless :
    let s := heading 0x00FF0000#32 1#32 bootedState
    s.decisionMay 0 = true ∧ s.hopeless = some (0, 3) := by
  decide +kernel

theorem witness_LaunchesGoOn_place :
    let s := heading 0#32 1#32 bootedState
    s.decisionMay 0 = true ∧ s.hopeless = none ∧ s.chooseQueue 0 = some (0, 0, bound 1#32, [0]) := by
  decide +kernel

theorem witness_LaunchesGoOn_drain :
    let s := heading 0#32 1#32 ((placed me (lane0 0#32 []) { blk with lid := 9 }).modCore 0 fun c => { c with split := 0x300#32 })
    s.decisionMay 0 = true ∧ s.hopeless = none ∧ s.chooseQueue 0 = none ∧ s.toDrain 0 = some (0, 0) := by
  decide +kernel

theorem witness_LaunchesGoOn_aging :
    let s : State := { bootedState with dispatchers := [(0, { Dispatcher.reset with standings := [(3, { credit := 0, passed := 64, promoted := 0 })] })] }
    64 ≤ (s.standing 0 3).passed := by
  decide +kernel

theorem witness_LaunchesGoOn_record : ∀ p ∈ [[], [0#32]],
    let s := launched 0#32 { Launch.empty with packet := p, status := some 2, posted := false }
    s.postMay 0 = true ∧ (s.launch 0).status = some 2 ∧ (s.launch 0).packet = p
      ∧ (s.ask (s.launch 0).fn (s.launch 0).recAddr 1 s.dispatchWho).2 = .go leaf0 := by
  intro v h; simp only [List.mem_cons, List.not_mem_nil, or_false] at h
  rcases h with rfl | rfl <;> decide +kernel

/-- Generation 0 of a SYNC, of the blocks of core 0 and of core 64. -/
def syncing (w : Weir) : State :=
  { (task.setBlock 64 0 blk) with weirs := [(0, { w with blocks := [(0, 0), (64, 0)], arrived := [(0, 0), (64, 0)] })] }

theorem witness_SyncGenerationsGoOn_line : (syncing { Weir.empty with scope := 3 }).lineMay 0 = true := by decide +kernel

theorem witness_SyncGenerationsGoOn_restart : (syncing { Weir.empty with scope := 3, restart := some 0 }).restartDue 0 = true := by decide +kernel

theorem witness_SyncGenerationsGoOn_gather : (syncing { Weir.empty with scope := 6, line := true }).gatherMay 0 1 = true := by decide +kernel

theorem witness_SyncGenerationsGoOn_propose :
    (syncing { Weir.empty with scope := 6, line := true, lastCycle := some 0, gathered := [0, 1] }).proposeMay 0 1 = true := by
  decide +kernel

theorem witness_SyncGenerationsGoOn_ack :
    let s := syncing { Weir.empty with scope := 6, proposed := [1], restart := some 9 }
    1 ∈ (s.weir 0).proposed ∧ 1 ∉ (s.weir 0).acks ∧ (s.weir 0).restart = some 9 ∧ s.clk + 8 < 9 := by
  decide +kernel

theorem witness_SyncGenerationsGoOn_confirm : ∀ r ∈ [9, 0],
    let s := syncing { Weir.empty with scope := 6, lastCycle := some 0, gathered := [0, 1], proposed := [1], acks := [1], restart := some r }
    s.confirmMay 0 = true ∧ (s.confirmable (s.weir 0) = true ↔ r = 9) := by
  decide +kernel

/-- A launch that is joined with package 1 waits at a SYNC of pod scope. -/
def podded : State := (syncing { Weir.empty with scope := 8, lastCycle := some 0 }).modLaunch 0 fun l => { l with joined := [1] }

theorem witness_SyncGenerationsGoOn_pod : podded.podWeir 0 = some 0 ∧ (0 : Nat) = podded.pack.pkg ∧ 1 ≠ podded.pack.pkg
    ∧ 1 ∈ (podded.launch 0).joined := by
  decide +kernel

end Sys2Proof.Tests

namespace Sys2Proof.Tests

/-! ## Preemption, the scan path and the engines -/

/-- A block that has been asked to yield, with its warp at a safe point, or stopped. -/
def yielding (stopped : Bool) : State :=
  let sp : Split := { waiting 1 0#32 with stopped := stopped, safeWait := true }
  placed me { lane0 0#32 [] with splits := sp :: List.replicate 3 Split.empty } { blk with yield := some 0, yieldFrom := 0, scratchSize := 0 }

theorem witness_PreemptionGoesOn_request : (task.block 0 0).resident = true ∧ 4096 % 4096 = 0 ∧ 4097 % 4096 ≠ 0 := by decide +kernel

theorem witness_PreemptionGoesOn_stop : (yielding false).stopDue me 0 = true ∧ 0 < ((yielding false).thread me).splits.length := by
  decide +kernel

/-- A command of context 0 of core 0, as it is issued. -/
def cmdOf (engine opcode : Nat) (v : Word) (recs : List Rec) (stage : Nat) : Cmd :=
  { (one 0#32 []).newCommand engine opcode 0#32 0#32 v recs with stage := stage }

def holding (k : Cmd) (s : State) : State := { s with cmds := [k] }

theorem witness_PreemptionGoesOn_park : ∀ o ∈ [0, 2],
    let k := cmdOf (if o = 0 then 1 else 0) o 0#32 [] 0
    let s := holding k (yielding true)
    s.cmdOf 0 0 k.tag = some k ∧ s.parkMay k = true := by
  intro v h; simp only [List.mem_cons, List.not_mem_nil, or_false] at h
  rcases h with rfl | rfl <;> decide +kernel

/-- A collective of two parties of 4 bytes, whose buffers lie at 0 and 256 and whose receive areas lie at 128 and 384. -/
def partyOf (opcode rank core stage : Nat) : Cmd :=
  let ctl := [0x00010000#32, w32 rank, 4#32] ++ List.replicate 13 0#32
  let ps := [0#32, 0#32, 128#32, 0#32, 256#32, 0#32, 384#32, 0#32]
  { cmdOf 1 opcode 0#32 [] stage with core := core, ctl := ctl, parties := ps }

theorem witness_PreemptionGoesOn_signal :
    let k := partyOf 3 0 0 1
    let s := holding k (yielding true)
    s.cmdOf 0 0 k.tag = some k ∧ s.signalMay k = true := by
  decide +kernel

/-- A saved block, on a machine whose core 1 may take it again. -/
def savedOne (lease : Bool) : State :=
  let v : Saved :=
    { present := true, area := 0, block := blk, threads := [], sems := List.replicate 32 0#16, evs := [], leaseHeld := lease,
      leasePending := false, leaseCount := 0, cmds := [], acc := [], scratch := [], split := 0x200#32, quad := 0, core := 0, clk := 0,
      elapsed := 0, image := [] }
  { heading 0#32 3#32 bootedState with saved := [v] }

theorem witness_PreemptionGoesOn_resume : ∀ lease : Bool,
    let s := savedOne lease
    s.resumeMay 0 1 = true ∧ (s.saved[0]?).map (·.leaseHeld) = some lease ∧ ∀ v ∈ s.saved, s.areaSpoilt v = false := by
  decide +kernel

/-- A frozen block. -/
def frozen : State := placed me (lane0 0#32 []) { blk with frozen := some 0 }

theorem witness_PreemptionGoesOn_frozen : (frozen.block 0 0).frozen ≠ none ∧ (∃ k ∈ [0], frozen.scannable k = true) ∧ (0, 0) ∈ frozen.residents
    ∧ (frozen.block 0 0).lid ∈ [0] := by
  decide +kernel

/-- An abandoned job with no other frozen block, and with one. -/
theorem witness_PreemptionGoesOn_abandon : ∀ more : Bool,
    let s := (if more then frozen.setBlock 1 0 { blk with frozen := some 0 } else frozen).modLaunch 0 fun l =>
      { l with packet := 0x400#32 :: List.replicate 31 0#32 }
    (s.block 0 0).frozen ≠ none
      ∧ ((s.endWorkGroup 0 0).residents.any fun p => ((s.endWorkGroup 0 0).block p.1 p.2).frozen.isSome) = more := by
  decide +kernel

theorem witness_PreemptionGoesOn_scanWrite : (mapped frozen).scannable 0 = true ∧ ((mapped frozen).block 0 0).resident = true
    ∧ ((mapped frozen).block 0 0).nregs ≤ 128 ∧ 127 < ((mapped frozen).block 0 0).nregs ∧ 16380 + 4 ≤ ((mapped frozen).block 0 0).scratchSize
    ∧ (mapped frozen).translate 0 8 1 = .ok leaf0 := by
  decide +kernel

/-- A block asked to yield, stopped, whose image of 45,056 bytes fits at address 0. -/
def savable : State :=
  mapped (yielding true)

theorem witness_PreemptionGoesOn_save : savable.saveMay 0 0 = true ∧ (savable.block 0 0).yield = some 0 ∧ savable.saveLines 0 0 = []
    ∧ savable.areaOk 0 0 45056 = true := by
  decide +kernel

def copying (stage : Nat) : Cmd := cmdOf 1 0 0x40#32 [bytes4, bytes4] stage

theorem witness_EnginesGoOn_start :
    let s := holding (copying 0) task
    s.cmdOf 0 0 (copying 0).tag = some (copying 0) ∧ s.startMay (copying 0) = true ∧ (copying 0).engine ≠ 0 := by
  decide +kernel

theorem witness_EnginesGoOn_startMx : ∀ o ∈ [1, 4],
    let k := cmdOf 0 o 8#32 [] 0
    let s := holding k task
    s.cmdOf 0 0 k.tag = some k ∧ s.startMay k = true ∧ k.engine = 0
      ∧ s.startFault k = if o = 1 then some 9 else none := by
  intro v h; simp only [List.mem_cons, List.not_mem_nil, or_false] at h
  rcases h with rfl | rfl <;> decide +kernel

theorem witness_EnginesGoOn_element :
    let k := copying 1
    let s := holding k (mapped task)
    s.cmdOf 0 0 k.tag = some k ∧ s.commitMay k = true ∧ (s.nextElem k).isSome = true ∧ ((s.nextElem k).map fun e => (s.reachElem k e).2) = some none
      ∧ k.collective = false := by
  decide +kernel

theorem witness_EnginesGoOn_fault :
    let k := cmdOf 1 0 0x40#32 [recOf 0x1001#32 4#32, bytes4] 1
    let s := holding k task
    s.cmdOf 0 0 k.tag = some k ∧ (s.elemFault k).map (·.2) = some 8 := by
  decide +kernel

theorem witness_EnginesGoOn_complete :
    let k := cmdOf 1 0 0xDF000000#32 [] 2
    let s := holding k task
    s.cmdOf 0 0 k.tag = some k ∧ s.completeMay k = true ∧ k.orphan = none ∧ k.pr < (s.block 0 0).progress.length
      ∧ k.t.getLsbD 30 = true ∧ k.t.getLsbD 31 = true ∧ (s.core 0).evq.length < 64 ∧ (s.core 0).held = [] := by
  decide +kernel

/-- Both parties of a collective, in blocks of cores 0 and 1. -/
def parties (a b : Cmd) : State :=
  let s := (mapped (task.setBlock 1 0 blk)).modQuad 0 fun q => { q with grants := [(256 * 2 ^ 45, 0)] }
  { s with cmds := [a, b] }

theorem witness_EnginesGoOn_hand :
    let k := partyOf 3 0 0 1
    let s := parties k (partyOf 3 1 1 1)
    s.cmdOf 0 0 k.tag = some k ∧ k.collective = true ∧ s.commitMay k = true ∧ (s.handing k).isSome = true
      ∧ ((s.nextElem k).map fun e => (s.reachElem k e).2) = some none := by
  decide +kernel

theorem witness_EnginesGoOn_take :
    let k : Cmd := { partyOf 3 0 0 1 with sent := some (0, 0), inbox := [(segKey (0, 0), List.replicate 4 1#8)] }
    let s := parties k (partyOf 3 1 1 1)
    s.cmdOf 0 0 k.tag = some k ∧ s.takeMay k = true ∧ s.taking k = some (List.replicate 4 1#8)
      ∧ (s.reachElem k (s.takeElem k (List.replicate 4 1#8))).2 = none := by
  decide +kernel

theorem witness_EnginesGoOn_far :
    let k := partyOf 3 0 0 1
    let s := parties k (cmdOf 1 0 0#32 [] 1)
    s.cmdOf 0 0 k.tag = some k ∧ s.takeMay k = false ∧ s.farMay k = true ∧ (s.reachElem k (s.farElem k (s.farBytes k))).2 = none := by
  decide +kernel

/-- A party whose partner's block lies in package 1, by the collective's control words. -/
theorem witness_EnginesGoOn_meetsFar :
    let k := partyOf 3 0 0 1
    let s := holding k (mapped task)
    s.cmdOf 0 0 k.tag = some k ∧ s.meetsFar k = true ∧ s.elemFault k = none := by
  decide +kernel

/-- A command whose result the port CP0.q of lane 0 awaits. -/
theorem witness_EnginesGoOn_port :
    let k := cmdOf 1 0 0xDF000000#32 [] 2
    let s := holding { k with tag := 7 } (warp { lane0 0#32 [] with owners := [(ResPort.code .cp0q * 32, 7)] })
    s.completeMay { k with tag := 7 } = true ∧ (s.thread me).live = true ∧ Tab.get 0 (s.thread me).owners (ResPort.code .cp0q * 32) = 7 := by
  decide +kernel

end Sys2Proof.Tests

namespace Sys2Proof.Tests

/-! ## Coherence -/

/-- The range of `mapped`, with another first word; line 0 of quad 0 as given. -/
def ranged (w0 : Word) (s : State) : State := (mapped s).modFn 0 fun f =>
  { f with ranges := f.ranges.set 0 { valid := true, words := [w0, 0#32, 0#32, 0#32] } }

def lined (x : QLine) (s : State) : State := s.modQLine 0 key0 fun _ => x

/-- Local bytes stand in a line whose state and request are given. -/
def local_ (state want : Nat) : QLine :=
  { QLine.empty with state := state, bytes := List.replicate 128 0#8, lmask := 1#128, lbytes := List.replicate 128 5#8, want := want }

/-- Writes by ownership, by write-through, with a token. -/
def invWord : Word := 0x82E00005#32
def updWord : Word := 0x92E00005#32
def tokWord : Word := 0xC2E00005#32

theorem witness_CoherenceGoesOn_publication : ∀ p ∈ [(invWord, 2, 0), (invWord, 1, 0), (invWord, 0, 0), (updWord, 1, 1)],
    let s := lined (local_ p.2.1 0) (ranged p.1 task)
    s.mayPublish 0 key0 = true ∧ s.writePath (s.slotOf 0 (keyAddr key0)) = p.2.2 ∧ (s.qline 0 key0).state = p.2.1 := by
  intro v h; simp only [List.mem_cons, List.not_mem_nil, or_false] at h
  rcases h with rfl | rfl | rfl | rfl <;> decide +kernel

theorem witness_CoherenceGoesOn_gets :
    let s := loading .lg .w 8 false
    (s.getsNeed 0 key0).map (fun n => (n.fn, n.addr, n.access)) = some (0, 8, 0) ∧ (s.ask 0 8 0 (s.requester me)).2 = .go leaf0 := by
  decide +kernel

theorem witness_CoherenceGoesOn_own : ∀ shared : Bool,
    let s := lined (local_ (if shared then 1 else 0) (if shared then 3 else 2)) (mapped task)
    (s.ownNeed 0 key0 shared).map (fun n => (n.fn, n.addr, n.access)) = some (0, 0, 7) ∧ s.translate 0 0 7 = .ok leaf0 := by
  intro b; cases b <;> decide +kernel

/-- An atomic of class core at word 8. -/
def atomicHere (s : State) : State := s.modCore 0 fun c => { c with atoms := [{ atomOn 1 0 with scope := 0 }] }

theorem witness_CoherenceGoesOn_ownAtomic : ∀ shared : Bool,
    let s := lined { QLine.empty with state := if shared then 1 else 0 } (mapped (atomicHere task))
    (s.ownNeed 0 key0 shared).map (fun n => (n.fn, n.addr, n.access)) = some (0, 8, 2)
      ∧ (s.ask 0 8 2 (s.requester me)).2 = .go leaf0 := by
  intro b; cases b <;> decide +kernel

theorem witness_CoherenceGoesOn_evict : ∀ st ∈ [1, 2],
    (lined { QLine.empty with state := st, bytes := List.replicate 128 0#8 } (mapped task)).mayEvict 0 key0 st = true := by
  decide +kernel

theorem witness_CoherenceGoesOn_pub :
    let s := lined (local_ 1 6) (ranged updWord task)
    s.pubMay 0 key0 = true ∧ s.translate 0 0 7 = .ok leaf0 := by
  decide +kernel

def reqOf (kind who : Nat) : Req :=
  { kind := kind, fn := 0, who := who, core := 0, seq := 0, addr := 0, bytes := [], heal := 0#4, inc := 0#16 }

/-- Line 0's home, with its entry as given. -/
def homed (d : DirEntry) (s : State) : State := s.modDie 0 fun x => { x with dir := [(key0, d)] }

def walking (kind reqKind who at_ : Nat) (done : Bool) : State :=
  homed { DirEntry.empty with walk := some { kind := kind, at_ := at_, req := reqOf reqKind who, done := done, inc := 0#16 } } (mapped task)

theorem witness_CoherenceGoesOn_walkOver : ∀ p ∈ [(1, 5), (0, 5), (0, 1), (0, 2)],
    ((walking p.1 p.2 1 0 true).dirAt key0).map (fun x => (x.1, x.2.walk)) = some (0, some { kind := p.1, at_ := 0, req := reqOf p.2 1, done := true, inc := 0#16 }) := by
  decide +kernel

theorem witness_CoherenceGoesOn_walkSteps : ∀ p ∈ [(0, 2, 0), (0, 1, 1), (1, 5, 0), (1, 5, 1)],
    let s := walking p.1 p.2.1 p.2.2 0 false
    s.walkAt key0 p.1 = some (0, { kind := p.1, at_ := 0, req := reqOf p.2.1 p.2.2, done := false, inc := 0#16 }) ∧ (s.quad 0).asleep = false := by
  decide +kernel

theorem witness_CoherenceGoesOn_asleep :
    let s := (walking 1 5 1 0 false).modQuad 0 fun q => { q with asleep := true }
    s.walkAt key0 1 = some (0, { kind := 1, at_ := 0, req := reqOf 5 1, done := false, inc := 0#16 }) ∧ (s.quad 0).asleep = true := by
  decide +kernel

theorem witness_CoherenceGoesOn_answer :
    let d : DirEntry := { DirEntry.empty with owner := some 0, answer := some [(0, 1#8)] }
    (homed d (mapped task)).dirAt key0 = some (0, d) := by
  decide +kernel

theorem witness_CoherenceGoesOn_recall : ∀ k ∈ [1, 2],
    (homed { DirEntry.empty with state := 2, owner := some 0, ask := k } (mapped task)).recallAt key0 k = some (0, 0) := by
  decide +kernel

/-- The token of range 0, with its state, its holder and those who wait. -/
def token (st holder : Nat) (q : List (Nat × Nat)) (s : State) : State :=
  s.modDie 0 fun d => { d with token := [(0, (st, holder))], tokenQ := q }

/-- An atomic of class die at word 8 of a range whose token quad 0 holds. -/
theorem witness_StoresAndAtomicsAreDone_nearWide :
    let e : AtomEntry := atomOn 1 0
    let s := token 9 0 [] (lined { QLine.empty with state := 1, bytes := List.replicate 128 7#8 } (ranged tokWord (atomic 1 0)))
    unperformed s 0 0 8 e ∧ 2 ≤ e.scope ∧ s.nearAtomMay 0 e 8 = true
      ∧ ∀ k, k < 4 → s.quadPoison (quadOf 0) 0 (8 + k) = false ∧ (s.qline (quadOf 0) (s.keyOf 0 (8 + k))).bytes.length = 128 := by
  unfold unperformed; decide +kernel

theorem witness_CoherenceGoesOn_token : ∀ p ∈ [(8, 64), (9, 3)],
    let s := token p.1 p.2 [] (lined (local_ 1 0) (ranged tokWord task))
    s.wantsToken 0 0 = true ∧ (15 ∈ (s.entry (rangeOfId s 0).slot (s.tokenOf 0).1 10).acts ↔ p.1 = 8) := by
  intro v h; simp only [List.mem_cons, List.not_mem_nil, or_false] at h
  rcases h with rfl | rfl <;> decide +kernel

theorem witness_CoherenceGoesOn_drained : ∀ q ∈ [[], [(0, 3)]],
    let s := token 10 0 q (ranged tokWord task)
    s.drained 0 0 = true ∧ (s.die (rangeOfId s 0).die).tokenQ.find? (fun z => z.1 == 0) = q.head? := by
  intro v h; simp only [List.mem_cons, List.not_mem_nil, or_false] at h
  rcases h with rfl | rfl <;> decide +kernel

theorem witness_CoherenceGoesOn_drain :
    let s := token 10 0 [(0, 3)] (lined (local_ 1 0) (ranged tokWord task))
    (s.tokenOf 0).1 = 10 ∧ s.localInRange (s.tokenOf 0).2 0 = [key0] ∧ s.mayPublish 0 key0 = true
      ∧ s.dirKey (s.qline 0 key0).fn key0 = key0 := by
  decide +kernel

/-- An answer at quad 0, sent by a home that has rejoined since, or not. -/
def answered (k : Nat) (stale : Bool) (s : State) : State :=
  let s := if stale then s.modDie 0 fun d => { d with known := [(64, 1#16)] } else s
  { s with grants := [{ quad := 0, key := key0, kind := k, bytes := List.replicate 128 0#8, poison := [], inc := 0#16 }] }

theorem witness_CoherenceGoesOn_grants : ∀ k ∈ [0, 5], ∀ stale : Bool,
    let s := answered k stale (mapped task)
    (if k = 5 then s.grantFor 0 key0 (· = 5) else s.grantFor 0 key0 (· ≠ 5)) = s.grants.head? ∧ (s.grants.map s.staleGrant) = [stale] := by
  intro k h b; simp only [List.mem_cons, List.not_mem_nil, or_false] at h
  rcases h with rfl | rfl <;> cases b <;>  decide +kernel

/-! ## The host, the driver, power, trust and recovery -/

/-- A request of the host's for three bytes from address 5 on: a read, or a write. -/
def hostAsk (write : Bool) : HostReq := { fn := 0, addr := 5, n := 3, bytes := if write then some [1#8, 2#8, 3#8] else none }

/-- Function 0's page table may stand in the first unit of die 0's memory, where nothing is written. -/
def unlisted (s : State) : State := s.modFn 0 fun f => { f with tables := 1#32 :: List.replicate 3 0#32 }

/-- The page is there, is absent, or its absence has been answered. -/
theorem witness_HostAndDriverAct_memory : ∀ write : Bool, ∀ page ∈ [0, 1, 2],
    let s := asked_ (hostAsk write) ((unlisted (mapped task)).modDie 0 fun d => { d with
      leaves := if page = 0 then d.leaves else [], verdicts := if page = 2 then [{ fn := 0, page := 0, cause := 0x07 }] else [] })
    s.pack.hostQ.find? (fun x => x.fn == 0) = some (hostAsk write) ∧ s.hostServeMay 0 = true
      ∧ (s.askAll 0 (if write then 1 else 0) (s.hostWho 0 5) (pageStarts 5 3)).2
        = if page = 0 then none else if page = 1 then some none else some (some 0x07) := by
  intro b k h; simp only [List.mem_cons, List.not_mem_nil, or_false] at h
  cases b <;> rcases h with rfl | rfl | rfl <;> decide +kernel

/-- An image of one state, whose every entry acknowledges, at address 0; being loaded into slot 5. -/
def image1 : List Host.Cell :=
  (2 ^ 21 + 2, 1#8) :: (List.range 12).flatMap fun i => [(2 ^ 21 + 64 + 4 * i, 0x80#8), (2 ^ 21 + 65 + 4 * i, 4#8)]

def verifying (cells : List Host.Cell) : State :=
  let s := mapped task
  { s with mem := cells, pack := { s.pack with plbusy := true, plslot := 5 } }

theorem witness_HostAndDriverAct_verified : verifyCode (verifying image1).loadImage
    ((verifying image1).pack.plslot < 5 || (verifying image1).slotInUse (verifying image1).pack.plslot) = 0 := by
  have h : (verifying image1).loadImage
      = 0x00010000#32 :: List.replicate 15 0#32 ++ List.replicate 12 0x00000480#32 ++ List.replicate 372 0#32 := by decide +kernel
  rw [h]; decide +kernel

theorem witness_HostAndDriverAct_notVerified : verifyCode (verifying []).loadImage
    ((verifying []).pack.plslot < 5 || (verifying []).slotInUse (verifying []).pack.plslot) ≠ 0 ∧ bootedState.pack.plbusy = false ∧ linked bootedState := by
  decide +kernel

/-- Two range entries of four words, the second with a stray bit. -/
def entryWord : List Word := [0x80E00000#32, 0#32, 0x10000#32, 0#32]
def strayWord : List Word := [0x80E000C0#32, 0#32, 0x10000#32, 0#32]

theorem witness_HostAndDriverAct_range : linked bootedState ∧ linked (mapped task) ∧
    (entryWord.getD 0 0#32).getLsbD 31 = true ∧ (bootedState.range 0 63).valid = false ∧ ((mapped task).range 0 0).valid = true
    ∧ bootedState.rangeRefused 0 63 { valid := true, words := (List.range 4).map fun j => entryWord.getD j 0#32 } = false
    ∧ bootedState.rangeRefused 0 63 { valid := true, words := (List.range 4).map fun j => strayWord.getD j 0#32 } = true := by
  decide +kernel

theorem witness_HostAndDriverAct_functions : linked bootedState ∧ (bootedState.fn 1).enabled = false
    ∧ ∀ e ∈ bootedState.fns, e.1 = 1 ∨ windowsMeet 0x00010002#32 (e.2.frames.getD 3 0#32) = false := by
  decide +kernel

/-- Before bring-up nothing of the host's has an effect. -/
theorem witness_HostAndDriverAct_notYet : ¬ linked State.reset ∧ (State.reset.die 0).lost = false
    ∧ (0#32 : Word).getLsbD 30 = false ∧ (0#32 : Word).getLsbD 31 = false := by
  decide +kernel

theorem witness_HostAndDriverAct_lost : ((bootedState.modDie 0 fun d => { d with lost := true }).die 0).lost = true := by decide +kernel

theorem witness_HostAndDriverAct_queues :
    let on := runs true false bootedState
    let off := runs false false bootedState
    openFn 0 on ∧ (on.queue 0 (on.fn 0).qsel).enabled = true ∧ (off.queue 0 (off.fn 0).qsel).enabled = false
      ∧ (on.queue 0 (on.fn 0).qsel).k = (BitVec.extractLsb' 0 5 4#32).toNat ∧ (BitVec.extractLsb' 0 5 3#32).toNat < 4
      ∧ 16 < (BitVec.extractLsb' 0 5 17#32).toNat ∧ (on.queue 0 (on.fn 0).qsel).k ≠ (BitVec.extractLsb' 0 5 16#32).toNat := by
  unfold openFn; decide +kernel

theorem witness_PowerTrustAndRecoveryAct_bands :
    let s := bootedState.modQuad 0 fun q => { q with ramping := [(3, 5)], powered := 8#4 }
    (s.quad 0).powered.getLsbD 2 = false ∧ s.bandUsed 0 3 = false ∧ ∃ r ∈ (s.quad 0).ramping, r.1 = 3 := by
  decide +kernel

theorem witness_PowerTrustAndRecoveryAct_heat :
    let s := bootedState.modDie 1 fun d => { d with offline := true }
    (s.die 1).offline = true ∧ (s.die 0).offline = false ∧ (0, 0) ∈ task.residents := by
  decide +kernel

theorem witness_PowerTrustAndRecoveryAct_mode : 64 ≤ (BitVec.extractLsb' 0 11 64#32).toNat ∧ (BitVec.extractLsb' 0 11 64#32).toNat ≤ 1024 ∧ (BitVec.extractLsb' 0 11 1024#32).toNat = 1024 := by
  decide +kernel

theorem witness_PowerTrustAndRecoveryAct_ways :
    let held := lined { QLine.empty with state := 1, bytes := List.replicate 128 0#8 } (mapped task)
    let busy := homed { DirEntry.empty with state := 2, owner := some 0, ask := 1 } (lined { QLine.empty with state := 2 } (mapped task))
    (task.qline 0 key0).state = 0 ∧ (task.qline 0 key0).lmask = 0#128
      ∧ (busy.qline 0 key0).state ≠ 0 ∧ busy.lineBusy 0 key0 = true ∧ (held.qline 0 key0).state ≠ 0 ∧ held.lineBusy 0 key0 = false := by
  decide +kernel

theorem witness_PowerTrustAndRecoveryAct_caches :
    let s := bootedState.modQuad 0 fun q => { q with lost := true }
    bootedState.maySleep 0 = true ∧ (bootedState.quad 0).lost = false ∧ (s.quad 0).lost = true ∧ (s.die 0).lost = false := by
  decide +kernel

theorem witness_PowerTrustAndRecoveryAct_trust :
    State.reset.pack.booted = 0 ∧ (bootedState.die 0).lost = false ∧ bootedState.pack.booted ≠ 0 := by
  decide +kernel

/-- A warp at handler level. -/
def inHandler : State := task.modThread me fun t => { t with level := true }

theorem witness_PowerTrustAndRecoveryAct_level : (inHandler.thread me).live = true ∧ (inHandler.thread me).level = true
    ∧ (inHandler.block 0 0).tvec ≠ 0#32 ∧ me ∈ inHandler.coreThreads 0 ∧ me ∈ inHandler.blockWarps 0 0 := by
  decide +kernel

theorem witness_PowerTrustAndRecoveryAct_events : (task.thread me).live = true ∧ (task.block 0 0).tvec ≠ 0#32 ∧ me ∈ task.coreThreads 0
    ∧ me ∈ task.blockWarps 0 0 := by
  decide +kernel

theorem witness_PowerTrustAndRecoveryAct_dies :
    let s := bootedState.modDie 3 fun d => { d with lost := true }
    (s.die 3).lost = true ∧ (s.die 0).lost = false := by
  decide +kernel

theorem witness_PowerTrustAndRecoveryAct_links :
    let x := bootedState.pack.links.getD 0 Link.reset
    let y : Link := { x with unacked := x.unacked ++ [x.flit], flit := x.flit + 1, up := false }
    let w : State := { bootedState with pack := { bootedState.pack with links := bootedState.pack.links.set 0 y } }
    bootedState.linkUp 0 = true ∧ bootedState.linkUp 19 = true ∧ linkBecomes 0 bootedState w y
      ∧ (∀ d, d < 4 → ¬ cutOff w d) ∧ 3 ∉ bootedState.pack.lostPods := by
  unfold linkBecomes cutOff; decide +kernel

/-! ## The clock, and the capability list -/

def nextOf (o : Host.Outcome State Fault Refusal) : Option State :=
  match o with
  | .next t => some t
  | _ => none

/-- The capability list of a KV950-M whose dies are all good, word by word as 24 R360 writes it out, and what BAR0 reads of it. -/
theorem test_capabilityList :
    let p : Package := { bootedState.pack with variant := .kv950m, dies := 15#4, hostAtomics := true }
    let list := [0x08100101#32, 0x0000000F#32, 0x00000040#32, 0x00000010#32, 0x08200401#32, 0x0000003F#32, 0x00000001#32, 0#32,
      0x08300501#32, 0x000000E0#32, 0#32, 0#32, 0x00000601#32, 0x00000013#32, 0#32, 0#32]
    capWords 0x800 p.units = list
      ∧ ({ bootedState with pack := { p with capList := list } } : State).bar0Read 0 0x810 = 0x08200401#32 := by
  decide +kernel

theorem witness_ClockCountsCycles : (nextOf (exec (.move hNever (.g 2) { try_ := false, pop := false, half := .word, sign := .keep }) State.reset)).isSome = true ∧ (nextOf (step State.reset)).isSome = true := by
  decide +kernel

end Sys2Proof.Tests
end

section
/-! SUPPORT. A move of an A unit or of X that is issued by itself: its effect is the results that it puts in flight. -/

open Sys2Proof.Machine

namespace Sys2Proof.Claim

/-! ## Results on their way (01 R7, 16 R316) -/

/-- A launched result is one result in flight. -/
theorem launchFlight_eq (s : State) (unit : Nat) (m : Mask) (q : Nat → Word) (f : Nat → BitVec 4) (raised : BitVec 5) (lat : Nat) :
    s.launchFlight unit m q f raised lat = inFlight s [flightTo s unit m q f raised lat] := rfl

/-- The second of two entries that are listed at one key replaces the first. -/
theorem insert_insert {α : Type} (m : Tab α) (k : Nat) (v w : α) : Tab.insert (Tab.insert m k v) k w = Tab.insert m k w := by
  induction m with
  | nil => simp [Tab.insert]
  | cons e r ih =>
    simp only [Tab.insert]
    split
    · simp [Tab.insert]
    · split
      · simp [Tab.insert]
      · rename_i hlt hne
        simp [Tab.insert, hlt, hne, ih]

theorem ne_empty_of_flights {th : Thread} (h : th.flights ≠ []) : th ≠ Thread.empty := fun e => h (e ▸ rfl)

/-- Two groups of results in flight are one group. -/
theorem inFlight_append (s : State) {fs : List Flight} (gs : List Flight) (h : fs ≠ []) :
    inFlight (inFlight s fs) gs = inFlight s (fs ++ gs) := by
  have hself : (inFlight s fs).thread s.cur.tid = { s.self with flights := s.self.flights ++ fs } := State.thread_modThread ..
  have hfirst : ({ s.self with flights := s.self.flights ++ fs } : Thread) ≠ Thread.empty := ne_empty_of_flights (by simp [h])
  have hboth : ({ s.self with flights := s.self.flights ++ (fs ++ gs) } : Thread) ≠ Thread.empty := ne_empty_of_flights (by simp [h])
  have hsecond : inFlight (inFlight s fs) gs
      = (inFlight s fs).setThread s.cur.tid { s.self with flights := s.self.flights ++ (fs ++ gs) } := by
    rw [inFlight, State.modThread, show (inFlight s fs).cur = s.cur from rfl, hself, List.append_assoc]
  rw [hsecond]
  show ({ s with threads := Tab.set Thread.empty (Tab.set Thread.empty s.threads s.cur.tid.key
      { s.self with flights := s.self.flights ++ fs }) s.cur.tid.key { s.self with flights := s.self.flights ++ (fs ++ gs) } } : State)
    = { s with threads := Tab.set Thread.empty s.threads s.cur.tid.key { s.self with flights := s.self.flights ++ (fs ++ gs) } }
  simp only [Tab.set, if_neg hfirst, if_neg hboth, insert_insert]

/-- A result goes by what its participants' lanes receive. -/
theorem flightTo_congr (s : State) (unit : Nat) {m : Mask} {q q' : Nat → Word} (f : Nat → BitVec 4) (raised : BitVec 5) (lat : Nat)
    (hq : ∀ l, l < 32 → m.getLsbD l = true → q l = q' l) : flightTo s unit m q f raised lat = flightTo s unit m q' f raised lat := by
  have : lanes32 (fun l => if m.getLsbD l then q l else 0#32) = lanes32 fun l => if m.getLsbD l then q' l else 0#32 := by
    refine List.map_congr_left fun l hl => ?_
    by_cases hm : m.getLsbD l = true
    · simp [hm, hq l (List.mem_range.1 hl) hm]
    · simp [hm]
  simp only [flightTo, this]

/-- A move that is issued by itself finds the records that it takes free. -/
theorem flightsFull_of_room {s : State} {h : Head} {r : Reads} {n : Nat} (hp : s.primed h r = true) (hr : room n s) :
    s.flightsFull n = false := by
  obtain ⟨⟨-, -, -, htakes⟩, -⟩ := (State.primed_iff s h r).1 hp
  have : s.self.flights.length + n ≤ 4 := hr
  simp only [State.flightsFull, Thread.records', htakes, Takes.none_, decide_eq_false_iff_not]
  omega

/-! ## The A units (08 R151 to R153) -/

/-- The model's operation gives what the row says. -/
def AluRow.Computes (e : AluRow) (op : Word → Word → Bool → AluOut) : Prop :=
  ∀ a t cin, op a t cin = { q := e.q a t cin, c := e.c a t cin, v := e.v a t cin }

theorem AluRow.Computes.flight {e : AluRow} {op : Word → Word → Bool → AluOut} (he : e.Computes op) (h : Head) (u : Fin 2) (s : State) :
    s.launchFlight u.val (s.guard h.guard) (fun l => (s.aluLane h u op l).q)
      (fun l => aluFlags (s.aluLane h u op l).q (s.aluLane h u op l).c (s.aluLane h u op l).v) 0#5 e.latency
      = inFlight s [aluFlight e h u s] := by
  simp only [State.aluLane, he _ _ _, launchFlight_eq]
  rfl

/-- The dividers that a divide needs are free exactly when none of them is busy. -/
theorem dividerBusy_eq_false_iff (h : Head) (s : State) : s.dividerBusy (s.guard h.guard) = false ↔ dividersFree h s := by
  have hlanes : lanesIn (s.guard h.guard) = lanesOf (s.guard h.guard) := rfl
  by_cases hsl : s.cur.tid.isSluice = true <;> simp [State.dividerBusy, dividersFree, hsl, hlanes]

/-- What the bundle of an ALU trigger leaves in state `s`, divides included. -/
def aluAfter (e : AluRow) (h : Head) (u : Fin 2) (divides : Bool) (s : State) : State :=
  if divides then dividersHeld h (inFlight s [aluFlight e h u s]) else inFlight s [aluFlight e h u s]

/-- The own parts of an ALU trigger, in its row's terms. -/
def aluParts (e : AluRow) (h : Head) (u : Fin 2) (divides : Bool) : Action :=
  { Action.idle with
    waits := fun s => s.flightsFull 1 || (divides && s.dividerBusy (s.guard h.guard))
    takes := flying 1
    effect := aluAfter e h u divides }

theorem AluRow.Computes.action {e : AluRow} {op : Word → Word → Bool → AluOut} (he : e.Computes op) (h : Head) (u : Fin 2)
    (divides : Bool) :
    aluAction h u e.readsA e.readsT e.latency divides op = Action.trigger h (aluReads e u) (aluParts e h u divides) := by
  simp only [aluAction, he.flight]
  rfl

/-- Nothing holds an ALU trigger back that has room and whose dividers are free. -/
theorem aluParts_free {e : AluRow} {h : Head} {u : Fin 2} {s : State} {divides : Bool} (hp : s.primed h (aluReads e u) = true)
    (hr : room 1 s) (hd : divides = true → dividersFree h s) : (aluParts e h u divides).Free s := by
  have hbusy : (divides && s.dividerBusy (s.guard h.guard)) = false := by
    cases divides with
    | false => rfl
    | true => simpa using (dividerBusy_eq_false_iff h s).2 (hd rfl)
  exact ⟨by simp [aluParts, flightsFull_of_room hp hr, hbusy], rfl, rfl, rfl, rfl, rfl, rfl⟩

/-- An ALU trigger puts its row's result in flight, and a divide holds its dividers. -/
theorem aluAction_does {e : AluRow} {op : Word → Word → Bool → AluOut} (he : e.Computes op) {h : Head} {u : Fin 2} {s : State}
    {divides : Bool} (hp : s.primed h (aluReads e u) = true) (hr : room 1 s) (hd : divides = true → dividersFree h s) :
    ∃ t, (aluAction h u e.readsA e.readsT e.latency divides op).outcome s = .next t
      ∧ Latched h (s.guard h.guard) (s.trig h) true (aluAfter e h u divides s) t := by
  rw [he.action]
  refine Action.trigger_latched hp (aluParts_free hp hr hd) ?_ ?_ ?_ <;> cases divides <;> rfl

/-- The row's instruction is the ALU trigger that all rows share, with an operation that gives what the row says. -/
def AluRow.Realized (e : AluRow) (divides : Bool) : Prop :=
  ∃ op, e.Computes op
    ∧ ∀ h u s, exec (e.make h u) s = (aluAction h u e.readsA e.readsT e.latency divides op).outcome s

/-- A realized row lands as the statements say. -/
theorem AluRow.Realized.lands {e : AluRow} (he : e.Realized false) (h : Head) (u : Fin 2) :
    does (e.make h u) h (aluReads e u) (room 1) fun s => inFlight s [aluFlight e h u s] := by
  obtain ⟨op, hop, hexec⟩ := he
  intro s hp hr
  rw [hexec]
  exact aluAction_does hop (divides := false) hp hr (by simp)

/-- A realized divide whose dividers are free lands, and holds them. -/
theorem AluRow.Realized.divides {e : AluRow} (he : e.Realized true) (h : Head) (u : Fin 2) :
    does (e.make h u) h (aluReads e u) (fun s => room 1 s ∧ dividersFree h s) fun s =>
      dividersHeld h (inFlight s [aluFlight e h u s]) := by
  obtain ⟨op, hop, hexec⟩ := he
  rintro s hp ⟨hr, hd⟩
  rw [hexec]
  exact aluAction_does hop (divides := true) hp hr fun _ => hd

/-! ## The X unit (08 R158, R159) -/

/-- The model's operation and other mask give every participant what the row says. -/
structure CrossRow.Computes (e : CrossRow) (op : Mask → (Nat → Word) → (Nat → Word) → Nat → Word)
    (other : Mask → (Nat → Word) → Mask) : Prop where
  q : ∀ (p : Mask) (d a : Nat → Word) (l : Nat), l < 32 → p.getLsbD l = true → op p d a l = e.q p d a l
  m : ∀ (p : Mask) (d : Nat → Word), other p d = e.m p d

/-- The own parts of a cross-lane trigger, in its row's terms. -/
def crossParts (e : CrossRow) (h : Head) (poison : State → Option TrapRec) (raised : Mask → (Nat → Word) → BitVec 5) : Action :=
  { Action.idle with
    waits := fun s => s.flightsFull 2
    takes := flying 2
    poison := poison
    effect := fun s => inFlight s (crossFlights e h s (raised (s.guard h.guard) (s.trig h))) }

theorem CrossRow.Computes.flights {e : CrossRow} {op : Mask → (Nat → Word) → (Nat → Word) → Nat → Word}
    {other : Mask → (Nat → Word) → Mask} (he : e.Computes op other) (h : Head) (raised : BitVec 5) (s : State) :
    (s.launchFlight 6 (s.guard h.guard) (op (s.guard h.guard) (s.trig h) (s.oper .xa)) (fun _ => 0#4) raised 6).launchFlight 7
        (s.guard h.guard) (fun _ => other (s.guard h.guard) (s.trig h)) (fun _ => 0#4) 0#5 6
      = inFlight s (crossFlights e h s raised) := by
  rw [launchFlight_eq, launchFlight_eq, he.m, flightTo_congr s 6 _ _ 6 (he.q _ (s.trig h) (s.oper .xa)),
    inFlight_append s _ (List.cons_ne_nil _ _)]
  rfl

theorem CrossRow.Computes.action {e : CrossRow} {op : Mask → (Nat → Word) → (Nat → Word) → Nat → Word}
    {other : Mask → (Nat → Word) → Mask} (he : e.Computes op other) (h : Head) (poison : State → Option TrapRec)
    (raised : Mask → (Nat → Word) → BitVec 5) :
    crossAction h (if e.readsA then [.xa] else []) poison op other raised
      = Action.trigger h (crossReads e) (crossParts e h poison raised) := by
  simp only [crossAction, he.flights]
  rfl

/-- A cross-lane trigger puts its row's two results in flight. -/
theorem crossAction_does {e : CrossRow} {op : Mask → (Nat → Word) → (Nat → Word) → Nat → Word} {other : Mask → (Nat → Word) → Mask}
    (he : e.Computes op other) {h : Head} {poison : State → Option TrapRec} (raised : Mask → (Nat → Word) → BitVec 5) {s : State}
    (hp : s.primed h (crossReads e) = true) (hr : room 2 s) (hpoison : poison s = none) :
    ∃ t, (crossAction h (if e.readsA then [.xa] else []) poison op other raised).outcome s = .next t
      ∧ Latched h (s.guard h.guard) (s.trig h) true
          (inFlight s (crossFlights e h s (raised (s.guard h.guard) (s.trig h)))) t := by
  rw [he.action]
  exact Action.trigger_latched hp ⟨flightsFull_of_room hp hr, rfl, rfl, rfl, rfl, hpoison, rfl⟩ rfl rfl rfl

/-- The row's instruction is the trigger that all cross-lane rows without flags share, with an operation and another mask that
give what the row says. -/
def CrossRow.Realized (e : CrossRow) (poison : Head → State → Option TrapRec) : Prop :=
  ∃ op other, e.Computes op other
    ∧ ∀ h s, exec (e.make h) s = (crossAction h (if e.readsA then [.xa] else []) (poison h) op other noFlags).outcome s

/-- A realized row lands as the statements say. -/
theorem CrossRow.Realized.lands {e : CrossRow} {poison : Head → State → Option TrapRec} (he : e.Realized poison)
    {ok : Head → State → Prop} (hpoison : ∀ h s, ok h s → poison h s = none) : crosses e ok := by
  obtain ⟨op, other, hop, hexec⟩ := he
  rintro h s hp ⟨hr, hok⟩
  rw [hexec]
  exact crossAction_does hop noFlags hp hr (hpoison h s hok)

/-- A realized row with no poison check of its own lands whenever it is primed and has room. -/
theorem CrossRow.Realized.lands_always {e : CrossRow} (he : e.Realized fun _ _ => none) : crosses e fun _ _ => True :=
  he.lands fun _ _ _ => rfl

end Sys2Proof.Claim
end

section
/-! SUPPORT. What the shifts, divides and bit fields of the A units give (08 R154 to R156). -/

open Sys2Proof.Machine

namespace Sys2Proof.Claim

/-! ## Words bit by bit -/

/-- The field [4:0] of a word is a lane number or a count below 32. -/
theorem bits_four_zero (w : Word) : w.bits 4 0 = w.toNat % 32 := by simp [Word.bits]

/-- The field [13:8] of a word. -/
theorem bits_thirteen_eight (w : Word) : w.bits 13 8 = w.toNat / 256 % 64 := by simp [Word.bits]

/-! ## Shifts and rotations (08 R154) -/

theorem aluOut_ext {x y : AluOut} (hq : x.q = y.q) (hc : x.c = y.c) (hv : x.v = y.v) : x = y := by
  cases x
  cases y
  simp_all

theorem rotateLeft_bit (a : Word) {k i : Nat} (hk : k < 32) (hi : i < 32) :
    (a.rotateLeft k).getLsbD i = a.getLsbD ((i + 32 - k) % 32) := by
  rw [BitVec.getLsbD_rotateLeft, Nat.mod_eq_of_lt hk]
  by_cases h : i < k
  · simp [h, show (i + 32 - k) % 32 = 32 - k + i by omega]
  · simp [h, hi, show (i + 32 - k) % 32 = i - k by omega]

theorem rotateRight_bit (a : Word) {k i : Nat} (hk : k < 32) (hi : i < 32) :
    (a.rotateRight k).getLsbD i = a.getLsbD ((i + k) % 32) := by
  rw [BitVec.getLsbD_rotateRight, Nat.mod_eq_of_lt hk]
  by_cases h : i < 32 - k
  · simp [h, show (i + k) % 32 = k + i by omega]
  · simp [h, hi, show (i + k) % 32 = i - (32 - k) by omega]

theorem sar_q (a t : Word) :
    a.sshiftRight t.toNat = maskWhere fun j => a.getLsbD (if t.toNat + j < 32 then t.toNat + j else 31) := by
  refine eq_maskWhere fun i hi => ?_
  rw [BitVec.getLsbD_sshiftRight, BitVec.msb_eq_getLsbD_last]
  split <;> simp [hi]

theorem sar_c (a t : Word) :
    (decide (1 ≤ t.toNat) && a.bit (min (t.toNat - 1) 31))
      = if t.toNat = 0 then false else if t.toNat ≤ 32 then a.getLsbD (t.toNat - 1) else a.getLsbD 31 := by
  rcases Nat.eq_zero_or_pos t.toNat with h0 | hpos
  · simp [h0]
  · by_cases h32 : t.toNat ≤ 32
    · simp [Word.bit, h32, Nat.ne_of_gt hpos, Nat.succ_le_of_lt hpos]
    · simp [Word.bit, h32, Nat.ne_of_gt hpos, Nat.succ_le_of_lt hpos, show min (t.toNat - 1) 31 = 31 by omega]

theorem rol_q (a t : Word) :
    a.rotateLeft (t.bits 4 0) = maskWhere fun j => a.getLsbD ((j + 32 - t.toNat % 32) % 32) := by
  rw [bits_four_zero]
  exact eq_maskWhere fun i hi => rotateLeft_bit a (Nat.mod_lt _ (by decide)) hi

theorem rol_c (a t : Word) :
    (decide (t.bits 4 0 ≠ 0) && Word.bit (a.rotateLeft (t.bits 4 0)) 0)
      = (decide (t.toNat % 32 ≠ 0) && a.getLsbD (32 - t.toNat % 32)) := by
  rw [bits_four_zero, Word.bit, rotateLeft_bit a (Nat.mod_lt _ (by decide)) (by decide)]
  by_cases h : t.toNat % 32 = 0
  · simp [h]
  · rw [show (0 + 32 - t.toNat % 32) % 32 = 32 - t.toNat % 32 by omega]

theorem ror_q (a t : Word) : a.rotateRight (t.bits 4 0) = maskWhere fun j => a.getLsbD ((j + t.toNat % 32) % 32) := by
  rw [bits_four_zero]
  exact eq_maskWhere fun i hi => rotateRight_bit a (Nat.mod_lt _ (by decide)) hi

theorem ror_c (a t : Word) :
    (decide (t.bits 4 0 ≠ 0) && Word.bit (a.rotateRight (t.bits 4 0)) 31)
      = (decide (t.toNat % 32 ≠ 0) && a.getLsbD (t.toNat % 32 - 1)) := by
  rw [bits_four_zero, Word.bit, rotateRight_bit a (Nat.mod_lt _ (by decide)) (by decide)]
  by_cases h : t.toNat % 32 = 0
  · simp [h]
  · rw [show (31 + t.toNat % 32) % 32 = t.toNat % 32 - 1 by omega]

/-! ## Divides (08 R155) -/

theorem ofNat_neg (n : Nat) : (Int.ofNat n < 0) = False := eq_false (Int.not_lt.2 (Int.natCast_nonneg n))

theorem negSucc_neg (n : Nat) : (Int.negSucc n < 0) = True := eq_true (Int.negSucc_lt_zero n)

theorem quotient_eq_tdiv (a t : Int) : quotient a t = a.tdiv t := by
  cases a with
  | ofNat m =>
    cases t with
    | ofNat n => rw [quotient, if_pos (by rw [ofNat_neg, ofNat_neg])]; rfl
    | negSucc n => rw [quotient, if_neg (by rw [ofNat_neg, negSucc_neg]; exact false_ne_true)]; rfl
  | negSucc m =>
    cases t with
    | ofNat n => rw [quotient, if_neg (by rw [ofNat_neg, negSucc_neg]; exact false_ne_true.symm)]; rfl
    | negSucc n => rw [quotient, if_pos (by rw [negSucc_neg, negSucc_neg])]; rfl

theorem div_q (a t : Word) :
    (if t = 0#32 then 0xFFFFFFFF#32 else w32i (a.toInt.tdiv t.toInt))
      = if t = 0#32 then 0xFFFFFFFF#32 else BitVec.ofInt 32 (quotient a.toInt t.toInt) := by
  rw [quotient_eq_tdiv, w32i]

/-- A remainder is what the truncated quotient leaves, modulo 2^32 too. -/
theorem rem_q (a t : Word) :
    (if t = 0#32 then a else w32i (a.toInt.tmod t.toInt))
      = if t = 0#32 then a else a - t * BitVec.ofInt 32 (quotient a.toInt t.toInt) := by
  rw [w32i, Int.tmod_def, Int.sub_eq_add_neg, BitVec.ofInt_add, BitVec.ofInt_neg, BitVec.ofInt_mul, BitVec.ofInt_toInt,
    BitVec.ofInt_toInt, quotient_eq_tdiv, BitVec.sub_eq_add_neg]

theorem divn_q (a t : Word) :
    (if t = 0#32 then 0xFFFFFFFF#32 else w32 (a.toNat / t.toNat)) = if t = 0#32 then 0xFFFFFFFF#32 else a / t := by
  rw [w32, ← BitVec.toNat_udiv, BitVec.ofNat_toNat, BitVec.setWidth_eq]

theorem remn_q (a t : Word) : (if t = 0#32 then a else w32 (a.toNat % t.toNat)) = if t = 0#32 then a else a % t := by
  rw [w32, ← BitVec.toNat_umod, BitVec.ofNat_toNat, BitVec.setWidth_eq]

/-! ## Bit fields (08 R156) -/

theorem fieldWidth_eq (t : Word) : fieldWidth t = fieldBits t := by
  rw [fieldWidth, fieldBits, bits_four_zero, bits_thirteen_eight]

/-- Sign extension from `n` bits. -/
theorem sextNat_eq_signExtend {n : Nat} (hn : 0 < n) (x : Nat) : sextNat n x = (BitVec.ofNat n x).signExtend 32 := by
  have hpow : 2 ^ n = 2 * 2 ^ (n - 1) := by rw [← Nat.pow_succ', Nat.succ_eq_add_one, Nat.sub_add_cancel hn]
  rw [BitVec.signExtend, BitVec.toInt_eq_toNat_cond, BitVec.toNat_ofNat, sextNat]
  by_cases h : x % 2 ^ n < 2 ^ (n - 1)
  · rw [if_pos h, if_pos (by omega), w32, BitVec.ofInt_natCast]
  · rw [if_neg h, if_neg (by omega), w32i]

/-- The bits of a sign-extended field: its own, then its sign. -/
theorem getLsbD_sextNat {n : Nat} (hn : 0 < n) (x : Nat) {i : Nat} (hi : i < 32) :
    (sextNat n x).getLsbD i = x.testBit (if i < n then i else n - 1) := by
  rw [sextNat_eq_signExtend hn, BitVec.getLsbD_signExtend, BitVec.msb_eq_getLsbD_last, BitVec.getLsbD_ofNat, BitVec.getLsbD_ofNat]
  rw [decide_eq_true hi, Bool.true_and]
  by_cases h : i < n
  · rw [if_pos h, if_pos h, decide_eq_true h, Bool.true_and]
  · rw [if_neg h, if_neg h, decide_eq_true (Nat.sub_lt hn Nat.one_pos), Bool.true_and]

/-- Bits of a shifted number. -/
theorem testBit_shifted (a : Word) (p i : Nat) : (a.toNat / 2 ^ p).testBit i = a.getLsbD (p + i) := by
  rw [Nat.testBit_div_two_pow, Nat.add_comm]
  rfl

theorem bfe_q (a t : Word) :
    (if fieldWidth t = 0 then 0#32 else sextNat (fieldWidth t) (a.toNat / 2 ^ t.bits 4 0))
      = if fieldBits t = 0 then 0#32
        else maskWhere fun j => a.getLsbD (t.toNat % 32 + if j < fieldBits t then j else fieldBits t - 1) := by
  rw [fieldWidth_eq, bits_four_zero]
  by_cases h0 : fieldBits t = 0
  · rw [if_pos h0, if_pos h0]
  · rw [if_neg h0, if_neg h0]
    refine eq_maskWhere fun i hi => ?_
    rw [getLsbD_sextNat (Nat.pos_of_ne_zero h0) _ hi, testBit_shifted]

theorem bfen_q (a t : Word) :
    w32 (a.toNat / 2 ^ t.bits 4 0 % 2 ^ fieldWidth t)
      = maskWhere fun j => decide (j < fieldBits t) && a.getLsbD (t.toNat % 32 + j) := by
  rw [fieldWidth_eq, bits_four_zero]
  refine eq_maskWhere fun i hi => ?_
  rw [w32, BitVec.getLsbD_ofNat, Nat.testBit_mod_two_pow, testBit_shifted]
  simp [hi]

/-! ## The rows -/

theorem aluShifts_realized : ∀ e ∈ aluShifts, e.Realized false := by
  intro e he
  simp only [aluShifts, List.mem_cons, List.not_mem_nil, or_false] at he
  rcases he with rfl | rfl | rfl | rfl | rfl
  · exact ⟨opShl, fun _ _ _ => rfl, fun _ _ _ => rfl⟩
  · exact ⟨opShr, fun _ _ _ => rfl, fun _ _ _ => rfl⟩
  · exact ⟨opSar, fun a t _ => aluOut_ext (sar_q a t) (sar_c a t) rfl, fun _ _ _ => rfl⟩
  · exact ⟨opRol, fun a t _ => aluOut_ext (rol_q a t) (rol_c a t) rfl, fun _ _ _ => rfl⟩
  · exact ⟨opRor, fun a t _ => aluOut_ext (ror_q a t) (ror_c a t) rfl, fun _ _ _ => rfl⟩

theorem aluDivides_realized : ∀ e ∈ aluDivides, e.Realized true := by
  intro e he
  simp only [aluDivides, List.mem_cons, List.not_mem_nil, or_false] at he
  rcases he with rfl | rfl | rfl | rfl
  · exact ⟨opDiv, fun a t _ => congrArg plainOut (div_q a t), fun _ _ _ => rfl⟩
  · exact ⟨opRem, fun a t _ => congrArg plainOut (rem_q a t), fun _ _ _ => rfl⟩
  · exact ⟨opDivn, fun a t _ => congrArg plainOut (divn_q a t), fun _ _ _ => rfl⟩
  · exact ⟨opRemn, fun a t _ => congrArg plainOut (remn_q a t), fun _ _ _ => rfl⟩

theorem aluFields_realized : ∀ e ∈ aluFields, e.Realized false := by
  intro e he
  simp only [aluFields, List.mem_cons, List.not_mem_nil, or_false] at he
  rcases he with rfl | rfl
  · exact ⟨opBfe, fun a t _ => congrArg plainOut (bfe_q a t), fun _ _ _ => rfl⟩
  · exact ⟨opBfen, fun a t _ => congrArg plainOut (bfen_q a t), fun _ _ _ => rfl⟩

/-- Settles O6: every shift's operation gives R154's q and C, and the trigger that all ALU rows share lands them. -/
theorem aluShiftsLand : Obligations.AluShiftsLand := by
  unfold Obligations.AluShiftsLand
  exact fun e he h u => (aluShifts_realized e he).lands h u

/-- Settles O7: every divide's operation gives R155's result, and the shared trigger lands it and holds the dividers. -/
theorem aluDividesLand : Obligations.AluDividesLand := by
  unfold Obligations.AluDividesLand
  exact fun e he h u => (aluDivides_realized e he).divides h u

/-- Settles O8: each field's bits are those of R156, and the shared trigger lands them. -/
theorem aluFieldsLand : Obligations.AluFieldsLand := by
  unfold Obligations.AluFieldsLand
  exact fun e he h u => (aluFields_realized e he).lands h u

end Sys2Proof.Claim
end

section
/-! SUPPORT. What the cross-lane instructions give their participants (08 R160 to R164). -/

open Sys2Proof.Machine

namespace Sys2Proof.Claim

theorem lanesOf_eq_lanesIn (p : Mask) : lanesOf p = lanesIn p := rfl

theorem mem_lanesIn {p : Mask} {l : Nat} : l ∈ lanesIn p ↔ l < 32 ∧ p.getLsbD l = true := mem_lanesOf

theorem lowest_eq_lowestIn (p : Mask) : (lowest p).getD 0 = lowestIn p := by
  rw [lowest, lanesOf, List.head?_filter]
  rfl

theorem bits_eq_laneOf (a : Nat → Word) (l : Nat) : (a l).bits 4 0 = laneOf a l := bits_four_zero (a l)

theorem laneOf_lt (a : Nat → Word) (l : Nat) : laneOf a l < 32 := Nat.mod_lt _ (by decide)

/-! ## Movements (08 R160) -/

theorem fromLane_eq_orOwn (p : Mask) (d : Nat → Word) (l : Nat) {k : Nat} (hk : k < 32) : fromLane p d l k = orOwn p d l k := by
  simp [fromLane, orOwn, hk]

theorem shfl_q (p : Mask) (d a : Nat → Word) (l : Nat) : opShfl p d a l = orOwn p d l (laneOf a l) := by
  rw [opShfl, bits_eq_laneOf, fromLane_eq_orOwn p d l (laneOf_lt a l)]

theorem shup_q (p : Mask) (d a : Nat → Word) {l : Nat} (hl : l < 32) :
    opShup p d a l = if laneOf a l ≤ l then orOwn p d l (l - laneOf a l) else d l := by
  rw [opShup, bits_eq_laneOf, fromLane_eq_orOwn p d l (Nat.lt_of_le_of_lt (Nat.sub_le ..) hl)]

theorem shdn_q (p : Mask) (d a : Nat → Word) (l : Nat) : opShdn p d a l = orOwn p d l (l + laneOf a l) := by
  rw [opShdn, bits_eq_laneOf]
  by_cases h : l + laneOf a l ≤ 31
  · rw [if_pos h, fromLane_eq_orOwn p d l (Nat.lt_succ_of_le h)]
  · rw [if_neg h, orOwn, if_neg fun hin => h (Nat.le_of_lt_succ hin.1)]

theorem shxr_q (p : Mask) (d a : Nat → Word) {l : Nat} (hl : l < 32) : opShxr p d a l = orOwn p d l (l ^^^ laneOf a l) := by
  rw [opShxr, bits_eq_laneOf, fromLane_eq_orOwn p d l (Nat.xor_lt_two_pow (n := 5) hl (laneOf_lt a l))]

theorem bcst_q (p : Mask) (d a : Nat → Word) (l : Nat) : opBcst p d a l = orOwn p d l (laneOf a (lowestIn p)) := by
  rw [opBcst, lowest_eq_lowestIn, bits_eq_laneOf, fromLane_eq_orOwn p d l (laneOf_lt a _)]

theorem movements_realized : ∀ e ∈ movements, e.Realized fun _ _ => none := by
  intro e he
  simp only [movements, List.mem_cons, List.not_mem_nil, or_false] at he
  rcases he with rfl | rfl | rfl | rfl
  · exact ⟨opShfl, sameMask, ⟨fun p d a l _ _ => shfl_q p d a l, fun _ _ => rfl⟩, fun _ _ => rfl⟩
  · exact ⟨opShup, sameMask, ⟨fun p d a _ hl _ => shup_q p d a hl, fun _ _ => rfl⟩, fun _ _ => rfl⟩
  · exact ⟨opShdn, sameMask, ⟨fun p d a l _ _ => shdn_q p d a l, fun _ _ => rfl⟩, fun _ _ => rfl⟩
  · exact ⟨opShxr, sameMask, ⟨fun p d a _ hl _ => shxr_q p d a hl, fun _ _ => rfl⟩, fun _ _ => rfl⟩

theorem broadcast_realized : broadcast.Realized bcstTagged :=
  ⟨opBcst, sameMask, ⟨fun p d a l _ _ => bcst_q p d a l, fun _ _ => rfl⟩, fun _ _ => rfl⟩

/-- BCST checks X.a in its lowest participant. -/
theorem bcstTagged_eq (h : Head) (s : State) : bcstTagged h s = s.operBad .xa (laneMask (lowestIn (s.guard h.guard))) := by
  rw [bcstTagged, State.leadLane, lowest_eq_lowestIn]

/-- Settles O9: the lane each movement reads is R160's, and the shared trigger lands the results; BCST's own check is the premise. -/
theorem crossMovementsLand : Obligations.CrossMovementsLand := by
  unfold Obligations.CrossMovementsLand
  exact ⟨fun e he => (movements_realized e he).lands_always,
    broadcast_realized.lands fun h s hok => (bcstTagged_eq h s).trans hok⟩

/-! ## Votes (08 R161) -/

theorem vany_q (p : Mask) (d : Nat → Word) :
    boolWord ((lanesOf p).any fun k => d k ≠ 0#32) = if ∃ k ∈ lanesIn p, d k ≠ 0#32 then 1#32 else 0#32 := by
  simp [boolWord, lanesOf_eq_lanesIn]

theorem vall_q (p : Mask) (d : Nat → Word) :
    boolWord ((lanesOf p).all fun k => d k ≠ 0#32) = if ∀ k ∈ lanesIn p, d k ≠ 0#32 then 1#32 else 0#32 := by
  simp [boolWord, lanesOf_eq_lanesIn]

/-- A leader is a participant below which none holds its value. -/
theorem leaders_eq (p : Mask) (d : Nat → Word) :
    leaders p d = maskWhere fun k => p.getLsbD k && decide (∀ n ∈ lanesIn p, n < k → d n ≠ d k) := by
  rw [leaders]
  congr 1
  funext k
  congr 1
  have hlane : ∀ n, (!(decide (n < k) && decide (d n = d k))) = true ↔ (n < k → d n ≠ d k) := fun n => by
    simp only [Bool.not_eq_true', ← Bool.not_eq_true, Bool.and_eq_true, decide_eq_true_eq, not_and, ne_eq]
  rw [Bool.eq_iff_iff, List.all_eq_true, decide_eq_true_iff]
  exact forall_congr' fun n => imp_congr_right fun _ => hlane n

/-- All participants agree with one of them exactly when they all agree. -/
theorem mtcha_q (p : Mask) (d a : Nat → Word) {l : Nat} (hl : l ∈ lanesIn p) :
    opMtcha p d a l = if ∀ k ∈ lanesIn p, ∀ n ∈ lanesIn p, d k = d n then p else 0#32 := by
  have hiff : ((lanesOf p).all fun k => d k = d l) = true ↔ ∀ k ∈ lanesIn p, ∀ n ∈ lanesIn p, d k = d n := by
    simp only [lanesOf_eq_lanesIn, List.all_eq_true, decide_eq_true_eq]
    exact ⟨fun h k hk n hn => (h k hk).trans (h n hn).symm, fun h k hk => h k hk l hl⟩
  simp only [opMtcha, hiff]

theorem votes_realized : ∀ e ∈ votes, e.Realized fun _ _ => none := by
  intro e he
  simp only [votes, List.mem_cons, List.not_mem_nil, or_false] at he
  rcases he with rfl | rfl | rfl | rfl | rfl
  · exact ⟨opBall, sameMask, ⟨fun _ _ _ _ _ _ => rfl, fun _ _ => rfl⟩, fun _ _ => rfl⟩
  · exact ⟨opVany, sameMask, ⟨fun p d _ _ _ _ => vany_q p d, fun _ _ => rfl⟩, fun _ _ => rfl⟩
  · exact ⟨opVall, sameMask, ⟨fun p d _ _ _ _ => vall_q p d, fun _ _ => rfl⟩, fun _ _ => rfl⟩
  · exact ⟨opMatch, leaders, ⟨fun _ _ _ _ _ _ => rfl, leaders_eq⟩, fun _ _ => rfl⟩
  · exact ⟨opMtcha, sameMask, ⟨fun p d a _ hl hp => mtcha_q p d a (mem_lanesIn.2 ⟨hl, hp⟩), fun _ _ => rfl⟩, fun _ _ => rfl⟩

/-- Settles O10: every vote's X.q and X.m are R161's, and the shared trigger lands them. -/
theorem crossVotesLand : Obligations.CrossVotesLand := by
  unfold Obligations.CrossVotesLand
  exact fun e he => (votes_realized e he).lands_always

/-! ## Reductions and scans (08 R162) -/

theorem lanesIn_ne_nil {p : Mask} (hp : p ≠ 0#32) : lanesIn p ≠ [] := by
  intro hnil
  refine hp (BitVec.eq_of_getLsbD_eq fun i hi => ?_)
  rw [BitVec.getLsbD_zero]
  cases hbit : p.getLsbD i with
  | false => rfl
  | true => exact absurd (mem_lanesIn.2 ⟨hi, hbit⟩) (hnil ▸ List.not_mem_nil)

theorem ne_zero_of_lane {p : Mask} {l : Nat} (hl : p.getLsbD l = true) : p ≠ 0#32 := fun h0 => by simp [h0] at hl

/-- A fold over the participants may begin at the operation's identity. -/
theorem foldLanes_eq_foldl {p : Mask} (hp : p ≠ 0#32) (d : Nat → Word) {f : Word → Word → Word} {e : Word} (he : ∀ x, f e x = x) :
    foldLanes p d f = (lanesIn p).foldl (fun a k => f a (d k)) e := by
  rw [foldLanes, lanesOf_eq_lanesIn]
  cases hls : lanesIn p with
  | nil => exact absurd hls (lanesIn_ne_nil hp)
  | cons k r => simp [he]

theorem foldl_add (d : Nat → Word) (ls : List Nat) (x : Word) : ls.foldl (fun a k => a + d k) x = x + sumOver ls d := by
  induction ls generalizing x with
  | nil => simp [sumOver]
  | cons k r ih =>
    have hcons : sumOver (k :: r) d = d k + sumOver r d := by
      simp [sumOver, BitVec.ofNat_add]
    rw [List.foldl_cons, ih, hcons, BitVec.add_assoc]

theorem wadd_q {p : Mask} (hp : p ≠ 0#32) (d : Nat → Word) : foldLanes p d (· + ·) = sumOver (lanesIn p) d := by
  rw [foldLanes_eq_foldl hp d (e := 0#32) fun x => BitVec.zero_add x, foldl_add, BitVec.zero_add]

/-- A scan sums the participants that its lane admits. -/
theorem scan_q (p : Mask) (d : Nat → Word) (admits : Nat → Bool) :
    (lanesOf p).foldl (fun a k => if admits k then a + d k else a) 0#32 = sumOver ((lanesIn p).filter admits) d := by
  rw [← List.foldl_filter, foldl_add, BitVec.zero_add]
  rfl

theorem getLsbD_foldl_and (d : Nat → Word) (i : Nat) (ls : List Nat) (x : Word) :
    (ls.foldl (fun a k => a &&& d k) x).getLsbD i = (x.getLsbD i && ls.all fun k => (d k).getLsbD i) := by
  induction ls generalizing x with
  | nil => simp
  | cons k r ih => rw [List.foldl_cons, ih, BitVec.getLsbD_and, List.all_cons, Bool.and_assoc]

theorem getLsbD_foldl_or (d : Nat → Word) (i : Nat) (ls : List Nat) (x : Word) :
    (ls.foldl (fun a k => a ||| d k) x).getLsbD i = (x.getLsbD i || ls.any fun k => (d k).getLsbD i) := by
  induction ls generalizing x with
  | nil => simp
  | cons k r ih => rw [List.foldl_cons, ih, BitVec.getLsbD_or, List.any_cons, Bool.or_assoc]

/-- A bit of an exclusive or is set when an odd number of the words set it. -/
theorem getLsbD_foldl_xor (d : Nat → Word) (i : Nat) (ls : List Nat) (x : Word) :
    (ls.foldl (fun a k => a ^^^ d k) x).getLsbD i
      = (x.getLsbD i ^^ decide ((ls.filter fun k => (d k).getLsbD i).length % 2 = 1)) := by
  induction ls generalizing x with
  | nil => simp
  | cons k r ih =>
    rw [List.foldl_cons, ih, BitVec.getLsbD_xor, List.filter_cons, Bool.xor_assoc]
    congr 1
    cases hk : (d k).getLsbD i with
    | false => simp
    | true =>
      rcases Nat.mod_two_eq_zero_or_one ((r.filter fun k => (d k).getLsbD i).length) with h | h <;>
        simp [h, Nat.add_mod]

theorem wand_q {p : Mask} (hp : p ≠ 0#32) (d : Nat → Word) :
    foldLanes p d (· &&& ·) = maskWhere fun i => (lanesIn p).all fun k => (d k).getLsbD i := by
  rw [foldLanes_eq_foldl hp d (e := BitVec.allOnes 32) fun x => BitVec.allOnes_and]
  exact eq_maskWhere fun i hi => by rw [getLsbD_foldl_and, BitVec.getLsbD_allOnes, decide_eq_true hi, Bool.true_and]

theorem wor_q {p : Mask} (hp : p ≠ 0#32) (d : Nat → Word) :
    foldLanes p d (· ||| ·) = maskWhere fun i => (lanesIn p).any fun k => (d k).getLsbD i := by
  rw [foldLanes_eq_foldl hp d (e := 0#32) fun x => BitVec.zero_or]
  exact eq_maskWhere fun i _ => by rw [getLsbD_foldl_or, BitVec.getLsbD_zero, Bool.false_or]

theorem wxor_q {p : Mask} (hp : p ≠ 0#32) (d : Nat → Word) :
    foldLanes p d (· ^^^ ·)
      = maskWhere fun i => decide (((lanesIn p).filter fun k => (d k).getLsbD i).length % 2 = 1) := by
  rw [foldLanes_eq_foldl hp d (e := 0#32) fun x => BitVec.zero_xor]
  exact eq_maskWhere fun i _ => by rw [getLsbD_foldl_xor, BitVec.getLsbD_zero, Bool.false_xor]

theorem reductions_realized : ∀ e ∈ reductions, e.Realized fun _ _ => none := by
  intro e he
  simp only [reductions, List.mem_cons, List.not_mem_nil, or_false] at he
  rcases he with rfl | rfl | rfl | rfl | rfl | rfl
  · exact ⟨opWadd, sameMask, ⟨fun _ d _ _ _ hp => wadd_q (ne_zero_of_lane hp) d, fun _ _ => rfl⟩, fun _ _ => rfl⟩
  · exact ⟨opScan, sameMask, ⟨fun p d _ l _ _ => by simpa [opScan] using scan_q p d (· ≤ l), fun _ _ => rfl⟩, fun _ _ => rfl⟩
  · exact ⟨opScanx, sameMask, ⟨fun p d _ l _ _ => by simpa [opScanx] using scan_q p d (· < l), fun _ _ => rfl⟩, fun _ _ => rfl⟩
  · exact ⟨opWand, sameMask, ⟨fun _ d _ _ _ hp => wand_q (ne_zero_of_lane hp) d, fun _ _ => rfl⟩, fun _ _ => rfl⟩
  · exact ⟨opWor, sameMask, ⟨fun _ d _ _ _ hp => wor_q (ne_zero_of_lane hp) d, fun _ _ => rfl⟩, fun _ _ => rfl⟩
  · exact ⟨opWxor, sameMask, ⟨fun _ d _ _ _ hp => wxor_q (ne_zero_of_lane hp) d, fun _ _ => rfl⟩, fun _ _ => rfl⟩

/-! ## Extremes (08 R162) -/

/-- `f` keeps whichever of two words comes first by `key`, and `le` is the order of keys. -/
structure Selects (le : Word → Word → Bool) (f : Word → Word → Word) (key : Word → Int) : Prop where
  order : ∀ x y, le x y = true ↔ key x ≤ key y
  keeps : ∀ x y, (f x y = x ∧ key x ≤ key y) ∨ (f x y = y ∧ key y ≤ key x)

/-- Selecting down a list answers a word that it met, and none comes before it. -/
theorem Selects.foldl {le : Word → Word → Bool} {f : Word → Word → Word} {key : Word → Int} (hf : Selects le f key)
    (ys : List Word) (x : Word) : ys.foldl f x ∈ x :: ys ∧ ∀ y ∈ x :: ys, key (ys.foldl f x) ≤ key y := by
  induction ys generalizing x with
  | nil => exact ⟨List.mem_cons_self, fun y hy => List.mem_singleton.1 hy ▸ Int.le_refl _⟩
  | cons z r ih =>
    obtain ⟨hmem, hleast⟩ := ih (f x z)
    have hsel : f x z ∈ [x, z] ∧ key (f x z) ≤ key x ∧ key (f x z) ≤ key z := by
      rcases hf.keeps x z with ⟨hsel, hle⟩ | ⟨hsel, hle⟩
      · rw [hsel]
        exact ⟨List.mem_cons_self, Int.le_refl _, hle⟩
      · rw [hsel]
        exact ⟨List.mem_cons_of_mem _ List.mem_cons_self, hle, Int.le_refl _⟩
    obtain ⟨hone, hx, hz⟩ := hsel
    have hhead := hleast _ List.mem_cons_self
    rw [List.foldl_cons]
    simp only [List.mem_cons, List.not_mem_nil, or_false] at hmem hone ⊢
    constructor
    · rcases hmem with hq | hr
      · rw [hq]
        exact hone.imp_right .inl
      · exact .inr (.inr hr)
    · rintro y (rfl | rfl | hy)
      · exact Int.le_trans hhead hx
      · exact Int.le_trans hhead hz
      · exact hleast y (List.mem_cons_of_mem _ hy)

/-- Selecting over the participants answers the least of their values. -/
theorem Selects.bestOver {le : Word → Word → Bool} {f : Word → Word → Word} {key : Word → Int} (hf : Selects le f key) {p : Mask}
    (hp : p ≠ 0#32) (d : Nat → Word) : bestOver le p d (foldLanes p d f) := by
  obtain ⟨k, r, hls⟩ := List.exists_cons_of_ne_nil (lanesIn_ne_nil hp)
  have hfold : foldLanes p d f = (r.map d).foldl f (d k) := by
    rw [foldLanes, lanesOf_eq_lanesIn, hls, List.foldl_map]
  have hvals : d k :: r.map d = (lanesIn p).map d := by rw [hls, List.map_cons]
  obtain ⟨hmem, hleast⟩ := hf.foldl (r.map d) (d k)
  rw [hfold]
  rw [hvals] at hmem hleast
  obtain ⟨n, hn, hq⟩ := List.mem_map.1 hmem
  exact ⟨⟨n, hn, hq.symm⟩, fun n hn => (hf.order _ _).2 (hleast _ (List.mem_map_of_mem hn))⟩

theorem selects_wmin : Selects (fun x y => decide (x.toInt ≤ y.toInt)) (fun x y => if x.toInt ≤ y.toInt then x else y)
    fun x => x.toInt where
  order x y := by simp
  keeps x y := by
    by_cases h : x.toInt ≤ y.toInt
    · simp [h]
    · simp [h, Int.le_of_not_le h]

theorem selects_wmax : Selects (fun x y => decide (y.toInt ≤ x.toInt)) (fun x y => if x.toInt ≤ y.toInt then y else x)
    fun x => -x.toInt where
  order x y := by simp
  keeps x y := by
    by_cases h : x.toInt ≤ y.toInt
    · simp [h]
    · simp [h, Int.le_of_not_le h]

theorem selects_wminn : Selects (fun x y => decide (x.toNat ≤ y.toNat)) (fun x y => if x.toNat ≤ y.toNat then x else y)
    fun x => x.toNat where
  order x y := by simp
  keeps x y := by
    by_cases h : x.toNat ≤ y.toNat
    · simp [h]
    · simp [h, Nat.le_of_not_le h]

theorem selects_wmaxn : Selects (fun x y => decide (y.toNat ≤ x.toNat)) (fun x y => if x.toNat ≤ y.toNat then y else x)
    fun x => -x.toNat where
  order x y := by simp
  keeps x y := by
    by_cases h : x.toNat ≤ y.toNat
    · simp [h]
    · simp [h, Nat.le_of_not_le h]

/-- The row of an extreme, given what it answers over the participants. -/
def extremeRow (make : Head → Instr) (best : Mask → (Nat → Word) → Word) : CrossRow :=
  { make := make, readsA := false, q := fun p d _ _ => best p d, m := fun p _ => p }

/-- Every extreme selects over the participants in its order. -/
theorem extremes_realized : ∀ e ∈ extremes, ∃ f key, Selects e.2 f key
    ∧ (extremeRow e.1 fun p d => foldLanes p d f).Realized fun _ _ => none := by
  intro e he
  simp only [extremes, List.mem_cons, List.not_mem_nil, or_false] at he
  rcases he with rfl | rfl | rfl | rfl
  · exact ⟨_, _, selects_wmin, opWmin, sameMask, ⟨fun _ _ _ _ _ _ => rfl, fun _ _ => rfl⟩, fun _ _ => rfl⟩
  · exact ⟨_, _, selects_wmax, opWmax, sameMask, ⟨fun _ _ _ _ _ _ => rfl, fun _ _ => rfl⟩, fun _ _ => rfl⟩
  · exact ⟨_, _, selects_wminn, opWminn, sameMask, ⟨fun _ _ _ _ _ _ => rfl, fun _ _ => rfl⟩, fun _ _ => rfl⟩
  · exact ⟨_, _, selects_wmaxn, opWmaxn, sameMask, ⟨fun _ _ _ _ _ _ => rfl, fun _ _ => rfl⟩, fun _ _ => rfl⟩

/-- Settles O11: each fold over the participants is R162's sum, scan, bit reduction or extreme, and the shared trigger lands it. -/
theorem crossReductionsLand : Obligations.CrossReductionsLand := by
  unfold Obligations.CrossReductionsLand
  refine ⟨fun e he => (reductions_realized e he).lands_always, fun e he => ?_⟩
  obtain ⟨f, key, hsel, hrow⟩ := extremes_realized e he
  exact ⟨fun p d => foldLanes p d f, fun p d hp => hsel.bestOver hp d, hrow.lands_always⟩

/-! ## Planes (08 R164) -/

theorem pln_q (p : Mask) (d a : Nat → Word) (l : Nat) :
    opPln p d a l = maskWhere fun k => p.getLsbD k && (d k).getLsbD (laneOf a l) := by
  rw [opPln, bits_eq_laneOf]
  rfl

/-- Gathering lanes' bits into a word sets those of the lanes that are chosen. -/
theorem getLsbD_foldl_laneMask (chosen : Nat → Bool) (g : Nat → Nat) {i : Nat} (hi : i < 32) (ls : List Nat) (x : Word) :
    (ls.foldl (fun w k => if chosen k then w ||| laneMask (g k) else w) x).getLsbD i
      = (x.getLsbD i || ls.any fun k => decide (g k = i) && chosen k) := by
  induction ls generalizing x with
  | nil => simp
  | cons k r ih =>
    rw [List.foldl_cons, ih, List.any_cons]
    cases hk : chosen k with
    | false => simp
    | true =>
      rw [if_pos rfl, BitVec.getLsbD_or, getLsbD_laneMask, decide_eq_true hi, Bool.true_and, Bool.and_true, Bool.or_assoc,
        decide_eq_decide.2 (eq_comm (a := i))]

theorem plg_q (p : Mask) (d a : Nat → Word) (l : Nat) :
    opPlg p d a l = maskWhere fun i => (lanesIn p).any fun k => decide (laneOf a k = i) && (d k).getLsbD l := by
  refine eq_maskWhere fun i hi => ?_
  have hfold : opPlg p d a l
      = (lanesIn p).foldl (fun w k => if (d k).getLsbD l then w ||| laneMask (laneOf a k) else w) 0#32 := by
    simp only [opPlg, bits_eq_laneOf]
    rfl
  rw [hfold, getLsbD_foldl_laneMask (fun k => (d k).getLsbD l) (laneOf a) hi, BitVec.getLsbD_zero, Bool.false_or]

theorem planes_realized : ∀ e ∈ planes, e.Realized fun _ _ => none := by
  intro e he
  simp only [planes, List.mem_cons, List.not_mem_nil, or_false] at he
  rcases he with rfl | rfl
  · exact ⟨opPln, sameMask, ⟨fun p d a l _ _ => pln_q p d a l, fun _ _ => rfl⟩, fun _ _ => rfl⟩
  · exact ⟨opPlg, sameMask, ⟨fun p d a l _ _ => plg_q p d a l, fun _ _ => rfl⟩, fun _ _ => rfl⟩

/-- Bit `l` of the plane that lane `k` receives is bit b[k] of participant `l`'s word. -/
theorem getLsbD_pln {p : Mask} (d a : Nat → Word) (k : Nat) {l : Nat} (hl : p.getLsbD l = true) :
    (opPln p d a k).getLsbD l = (d l).getLsbD (laneOf a k) := by
  rw [pln_q, getLsbD_maskWhere, hl]
  simp [BitVec.lt_of_getLsbD hl]

/-- PLG after PLN keeps of a participant's word the bits that some participant's lane number names. -/
theorem plg_pln {p : Mask} (d a : Nat → Word) {l : Nat} (hl : p.getLsbD l = true) :
    opPlg p (opPln p d a) a l = maskWhere fun i => (lanesIn p).any (fun k => decide (laneOf a k = i)) && (d l).getLsbD i := by
  rw [plg_q]
  congr 1
  funext i
  rw [Bool.eq_iff_iff]
  simp only [getLsbD_pln d a _ hl, List.any_eq_true, Bool.and_eq_true, decide_eq_true_eq]
  constructor
  · rintro ⟨k, hk, rfl, hbit⟩
    exact ⟨⟨k, hk, rfl⟩, hbit⟩
  · rintro ⟨⟨k, hk, rfl⟩, hbit⟩
    exact ⟨k, hk, rfl, hbit⟩

theorem laneOf_ofNat {i : Nat} (hi : i < 32) : laneOf (BitVec.ofNat 32) i = i := by
  rw [laneOf, BitVec.toNat_ofNat]
  omega

/-- Every lane's own number names every bit. -/
theorem plg_pln_self (d : Nat → Word) {l : Nat} (hl : l < 32) :
    opPlg (BitVec.allOnes 32) (opPln (BitVec.allOnes 32) d (BitVec.ofNat 32)) (BitVec.ofNat 32) l = d l := by
  rw [plg_pln d _ (by rw [BitVec.getLsbD_allOnes, decide_eq_true hl])]
  refine (eq_maskWhere fun i hi => ?_).symm
  have hnamed : (lanesIn (BitVec.allOnes 32)).any (fun k => decide (laneOf (BitVec.ofNat 32) k = i)) = true :=
    List.any_eq_true.2 ⟨i, mem_lanesIn.2 ⟨hi, by rw [BitVec.getLsbD_allOnes, decide_eq_true hi]⟩, decide_eq_true (laneOf_ofNat hi)⟩
  rw [hnamed, Bool.true_and]

/-- Settles O12: PLN and PLG bit by bit, landed by the shared trigger, and what PLG restores after PLN. -/
theorem crossPlanesLand : Obligations.CrossPlanesLand := by
  unfold Obligations.CrossPlanesLand
  exact ⟨fun e he => (planes_realized e he).lands_always, fun _ d a _ hl => plg_pln d a hl, fun d _ hl => plg_pln_self d hl⟩

end Sys2Proof.Claim
end

section
/-! SUPPORT. Encoder and decoder agree (03 R43 to R61): every family of opcodes read back, and what the decoder refuses. -/

open Sys2Proof.Machine

namespace Sys2Proof

/-! ## Fields read back -/

theorem Laws.RoundTrip.of_every (i : Instr) : Laws.RoundTrip.Statement i := by
  open Laws.RoundTrip in
  exact Instr.rec (motive := Statement)
    move add adc sub sbc rsb and or xor andn orn shl shr sar rol ror min max minn maxn abs addv subv mul mulh mulhn div rem divn
    remn ads1 ads2 ads3 ads4 bfe bfen popc clz ctz brev bswp sxb sxh zxb zxh mova fma fms fnma fnms fadd fsub fmul fmin fmax
    fcmp frnd fscl hfma2 hadd2 hmul2 bfma2 badd2 bmul2 fdot2h fdot2b rcp rsq sqrt ex2 lg2 sinr cosr tanh cvt qntS8 qntN8 qntS4
    qntN4 qntS16 dqn pkh pkb shfl shup shdn shxr bcst ball vany vall matchPeers mtcha wadd wmin wmax wminn wmaxn wand wor wxor
    wfadd scan scanx pln plg bra brc join call ret loop lback lext exit endTask rfl psw brk wait bar bara barw sync boi box boa
    bow bot rel acq fen csrr csrw trap rte chk shp obj evt mxw mxs mxg mxd mxz mxr mxq mxa cpy gth sct ard bcs cpr cpq cpf dqp
    sinc sdec sset lacq lrel tarm tdis cti ctd cts lds ldg ldgs pfg ldw sts stg atsAdd atsMin atsMax atsMinn atsMaxn atsAnd
    atsOr atsXor atsXchg atsCas atsInc atsDec atsFadd atgAdd atgMin atgMax atgMinn atgMaxn atgAnd atgOr atgXor atgXchg atgCas
    atgInc atgDec atgFadd redAdd redMin redMax redMinn redMaxn redAnd redOr redXor redInc redDec redFadd resultLanding
    delayExpiry waitExpiry loadDataArrival windowEntry atomicResponse atomicRetry storeDrain codeFetch rillGrant sequencerPick
    taskOverrun heldRecordEntry doorbell launchArrival waitReread bindRecordWrite placementDecision agingPromotion
    completionRecordPost grantedLevelWrite bandPowerSwitch bandRampDone thermalEmergency dieOnline barrierRestart weirLineGrant
    weirRestart weirGather restartProposal restartAck restartConfirm podSyncArrival barrierObjectRmw fenceDone watchdogExpiry
    yieldRequest safePointStop save enginePark resume engineCommandStart engineElementCommit engineElementFault
    engineCommandComplete collectiveParkSignal collectiveSegmentHandoff freezeWire thaw abandon scanRead leaseGrant
    mxWindowSwitch tilestUpdate wsBankServe publication gets getm upg puts putm pub wack dataAnswer atom homeRed treq tdone
    invalidationWalk updateWalk Laws.RoundTrip.recall downgrade tokenDrainRequest unlinkAck lineGrant hostRead hostWrite protocolLoad
    protocolVerifyDone wayGate quadCacheSleep quadCacheLoss rangeEntryWrite functionEnable functionReset frameWindowWrite
    pageWalk writeGrantRequest writeGrantAnswer faultEntryWrite fqheadWrite fqctlWrite fqresResolved fqresNoPage invalAppend
    logApply powerOn getVersion getCapabilities negotiateAlgorithms getDigests getCertificate challenge getMeasurements
    spdmUnsupported takeTrap timerEvent externalEvent dbgctlWrite softError dieLoss agentRejoin linkCrcError linkWidthChange
    linkDown configRequest fstatusErrorClear qbaseWrite queueEnable queueDisable registerWrite mxmodeWrite variablePortFill
    podRouteLost scanWriteBack debugResume i

theorem condOf_code {n : Nat} (h : n < 14) : (condOf n).code = n := by
  revert n
  decide

theorem guardOf_eq_some {cc cond : Nat} {g : Guard} (hcc : cc < 4) (hcond : cond < 16) (h : guardOf cc cond = some g) :
    g.ccField = cc ∧ g.condField = cond := by
  have hfin : (Fin.ofNat 4 cc).val = cc := Nat.mod_eq_of_lt hcc
  unfold guardOf at h
  split at h
  · cases h
    exact ⟨hfin, condOf_code ‹_›⟩
  · split at h
    · cases h
      exact ⟨hfin, by simp [Guard.condField, *]⟩
    · have : cond = 15 := by omega
      split at h <;> cases h <;> simp [Guard.ccField, Guard.condField, this]

theorem resPortOf_eq_some {n : Nat} {p : ResPort} (h : resPortOf n = some p) : p.code = n := by
  unfold resPortOf at h
  split at h <;> cases h <;> rfl

theorem identOf_code_of_lt {n : Nat} (h : n < 10) : (identOf n).code = n := by
  revert n
  decide

theorem srcOf_eq_some {n : Nat} {x : Src} (hn : n < 512) (h : srcOf n = some x) : x.code = n := by
  simp only [srcOf] at h
  repeat' split at h
  · cases h
    exact Nat.mod_eq_of_lt ‹_›
  · obtain ⟨p, hp, rfl⟩ := Option.map_eq_some_iff.1 h
    rw [Src.code, resPortOf_eq_some hp]
    omega
  · cases h
    show 0xC0 + (n - 0xC0) % 32 = n
    omega
  · cases h
    show 0xE0 + (n - 0xE0) % 3 = n
    omega
  · cases h
    show 0xE3 + (n - 0xE3) % 6 = n
    omega
  · cases h
    rw [Src.code, identOf_code_of_lt (by omega)]
    omega
  · cases h
    show 0xF3 + (n - 0xF3) % 4 = n
    omega
  · cases h
  · cases h
    show 0x100 + (n - 0x100) % 256 = n
    omega

theorem opPortOf_eq_some {n : Nat} {p : OpPort} (h : opPortOf n = some p) : p.code = n := by
  unfold opPortOf at h
  split at h <;> cases h <;> rfl

theorem dstOf_eq_some {n : Nat} {d : Dst} (hn : n < 256) (h : dstOf n = some d) : d.code = n := by
  simp only [dstOf] at h
  repeat' split at h
  · cases h
    exact Nat.mod_eq_of_lt ‹_›
  · obtain ⟨p, hp, rfl⟩ := Option.map_eq_some_iff.1 h
    exact opPortOf_eq_some hp
  · cases h
    show 0xC0 + (n - 0xC0) % 32 = n
    omega
  · cases h
  · cases h
    show 0xFC + (n - 0xFC) % 4 = n
    omega

theorem code_modsOf {n : Nat} (h : n < 64) : (modsOf n).code = n := by
  revert n
  decide

theorem code_rmOf (n : Nat) : (rmOf (fld n 0 2)).code = n % 4 := by
  have h : ∀ k < 4, (rmOf k).code = k := by decide
  simpa [fld] using h (n % 4) (Nat.mod_lt _ (by decide))

theorem scopeOf_eq_some {n : Nat} {e : Scope} (h : scopeOf n = some e) : e.code = n := by
  unfold scopeOf at h
  split at h <;> cases h <;> rfl

theorem atomScopeOf_eq_some {n : Nat} {c : AtomScope} (h : atomScopeOf n = some c) : c.code = n := by
  unfold atomScopeOf at h
  split at h <;> cases h <;> rfl

theorem hintOf_eq_some {n : Nat} {e : Hint} (h : hintOf n = some e) : e.code = n := by
  unfold hintOf at h
  split at h <;> cases h <;> rfl

theorem widthOf_code {n : Nat} (h : n < 8) : (widthOf n).code = n := by
  revert n
  decide

/-! ## Opcodes read back (03 R55 to R60) -/

/-- An instruction has the parts that a decoder's table reads it from, and is well formed. -/
structure Instr.Names (h : Head) (dst op : Nat) (i : Instr) : Prop where
  parts : i.parts = some (h, dst, op)
  wf : i.wellFormed = true

/-- A table of opcodes gives for each opcode an instruction that has it. -/
def ReadsBack (h : Head) (dst op : Nat) (r : Option Instr) : Prop := ∀ i, r = some i → i.Names h dst op

theorem ReadsBack.of_none {h : Head} {dst op : Nat} : ReadsBack h dst op none := fun _ e => nomatch e

theorem ReadsBack.of_some {h : Head} {dst op : Nat} {i : Instr} (n : i.Names h dst op) : ReadsBack h dst op (some i) := by
  rintro _ ⟨⟩
  exact n

theorem ReadsBack.of_parts {h : Head} {dst op : Nat} {i : Instr} (hp : i.parts = some (h, dst, op)) (hw : i.wellFormed = true) :
    ReadsBack h dst op (some i) := .of_some ⟨hp, hw⟩

/-- The opcode of the parts, where it is computed from its fields. -/
theorem ReadsBack.of_op {h : Head} {dst op n : Nat} {i : Instr} (hp : i.parts = some (h, dst, n)) (hn : n = op)
    (hw : i.wellFormed = true) : ReadsBack h dst op (some i) := .of_parts (hn ▸ hp) hw

/-- The head of the parts, where the instruction keeps its source and its hold code alone (04 R64). -/
theorem ReadsBack.of_unguarded {h : Head} {dst op : Nat} {i : Instr} (hg : h.guard = .always)
    (hp : i.parts = some ({ guard := .always, src := h.src, hold := h.hold }, dst, op)) (hw : i.wellFormed = true) :
    ReadsBack h dst op (some i) := by
  obtain ⟨g, x, k⟩ := h
  cases hg
  exact .of_parts hp hw

theorem aluOf_reads (h : Head) (u : Fin 2) (op : Nat) : ReadsBack h (0x81 + 2 * u.val) op (aluOf h u op) := by
  unfold aluOf
  split
  case h_46 => exact .of_none
  all_goals exact .of_parts rfl rfl

theorem fpOf_reads (h : Head) (u : Fin 2) (op : Nat) : ReadsBack h (0x86 + 3 * u.val) op (fpOf h u op) := by
  have hr := code_rmOf op
  have hz : fld op 0 2 = op % 4 := by simp [fld]
  simp only [fpOf]
  split
  case h_21 => exact .of_none
  case h_8 | h_9 | h_10 =>
    split
    · exact .of_op rfl (by omega) rfl
    · exact .of_none
  all_goals exact .of_op rfl (by omega) rfl

theorem sOf_reads (h : Head) (op : Nat) : ReadsBack h 0x8A op (sOf h op) := by
  unfold sOf
  split
  case h_9 => exact .of_none
  all_goals exact .of_parts rfl rfl

theorem vOf_reads (h : Head) (op : Nat) : ReadsBack h 0x8C op (vOf h op) := by
  unfold vOf
  split
  case h_10 => exact .of_none
  all_goals exact .of_parts rfl rfl

theorem xOf_reads (h : Head) (op : Nat) : ReadsBack h 0x8E op (xOf h op) := by
  unfold xOf
  split
  case h_24 => exact .of_none
  all_goals exact .of_parts rfl rfl

theorem cOf_reads (h : Head) (op : Nat) : ReadsBack h 0x90 op (cOf h op) := by
  simp only [cOf]
  split
  case h_15 => exact .of_none
  case h_3 | h_6 | h_7 | h_11 =>
    split
    · exact .of_unguarded ‹_› rfl rfl
    · exact .of_none
  all_goals exact .of_parts rfl rfl

theorem yOf_reads (h : Head) (op : Nat) : ReadsBack h 0xB4 op (yOf h op) := by
  unfold yOf
  split
  case h_10 =>
    split
    case h_4 => exact .of_none
    all_goals
      have := scopeOf_eq_some ‹_›
      exact .of_op rfl (by omega) rfl
  all_goals exact .of_parts rfl rfl

theorem kOf_reads (h : Head) (op : Nat) : ReadsBack h 0xB6 op (kOf h op) := by
  unfold kOf
  split
  case h_9 => exact .of_none
  all_goals exact .of_parts rfl rfl

theorem mxOf_reads (h : Head) (op : Nat) : ReadsBack h 0xAC op (mxOf h op) := by
  unfold mxOf
  split
  case h_9 => exact .of_none
  all_goals exact .of_parts rfl rfl

theorem cpOf_reads (h : Head) (u : Fin 2) (op : Nat) : ReadsBack h (0xAF + 3 * u.val) op (cpOf h u op) := by
  unfold cpOf
  split
  case h_9 => exact .of_none
  all_goals exact .of_parts rfl rfl

theorem ldsOf_reads (h : Head) (op : Nat) : ReadsBack h 0x91 op (ldsOf h op) := by
  have hload : ∀ k < 7, (widthOf k).load = true := by decide
  unfold ldsOf
  split
  · exact .of_op rfl (widthOf_code (by omega)) (hload op ‹_›)
  · exact .of_none

theorem ldgOf_reads (h : Head) {op : Nat} (hop : op < 128) : ReadsBack h 0x93 op (ldgOf h op) := by
  have hload : ∀ k < 8, k ≠ 7 → (widthOf k).load = true := by decide
  have hlt : fld op 0 3 < 8 := Nat.mod_lt _ (by decide)
  have hcode := widthOf_code hlt
  unfold ldgOf
  split
  · exact .of_none
  · have hw := hload _ hlt ‹_›
    split
    case h_4 => exact .of_none
    all_goals
      have hn := hintOf_eq_some ‹_›
      refine .of_op rfl ?_ hw
      simp only [hcode, hn, fld] at *
      omega

theorem ldwOf_reads (h : Head) (op : Nat) : ReadsBack h 0x94 op (ldwOf h op) := by
  have hwide : ∀ k, k < 7 → 4 ≤ k → (widthOf k).wide = true := by decide
  unfold ldwOf
  split
  · exact .of_op rfl (widthOf_code (by omega)) (hwide op (by omega) (by omega))
  · exact .of_none

theorem stsOf_reads (h : Head) (op : Nat) : ReadsBack h 0x9A op (stsOf h op) := by
  unfold stsOf
  split
  case isTrue hok =>
    obtain ⟨hop, hs⟩ := hok
    exact .of_op rfl (widthOf_code hop) hs
  · exact .of_none

theorem stgOf_reads (h : Head) {op : Nat} (hop : op < 128) : ReadsBack h 0xA1 op (stgOf h op) := by
  have hcode := widthOf_code (show fld op 0 3 < 8 from Nat.mod_lt _ (by decide))
  unfold stgOf
  split
  case isTrue hok =>
    obtain ⟨hs, h0⟩ := hok
    intro i hi
    obtain ⟨n, hn, rfl⟩ := Option.map_eq_some_iff.1 hi
    have hn := hintOf_eq_some hn
    refine ReadsBack.of_op (i := .stg h (widthOf (fld op 0 3)) n) rfl ?_ hs _ rfl
    simp only [hcode, hn, fld] at *
    omega
  · exact .of_none

theorem atsOf_reads (h : Head) (op : Nat) : ReadsBack h 0xA4 op (atsOf h op) := by
  unfold atsOf
  split
  case h_14 => exact .of_none
  all_goals exact .of_parts rfl rfl

theorem atgOf_reads (h : Head) (c : AtomScope) (op : Nat) : ReadsBack h 0xA8 (c.code * 16 + op) (atgOf h c op) := by
  unfold atgOf
  split
  case h_14 => exact .of_none
  all_goals exact .of_parts rfl rfl

theorem redOf_reads (h : Head) (c : AtomScope) (op : Nat) : ReadsBack h 0xA9 (c.code * 16 + op) (redOf h c op) := by
  unfold redOf
  split
  case h_12 => exact .of_none
  all_goals exact .of_parts rfl rfl

theorem classOf_reads {h : Head} {dst : Nat} {f : AtomScope → Nat → Option Instr}
    (hf : ∀ c op, ReadsBack h dst (c.code * 16 + op) (f c op)) (op : Nat) : ReadsBack h dst op (classOf f op) := by
  intro i hi
  obtain ⟨c, hc, hi⟩ := Option.bind_eq_some_iff.1 hi
  have hcode : c.code * 16 + op % 16 = op := by rw [atomScopeOf_eq_some hc]; omega
  exact hcode ▸ hf c (op % 16) i hi

/-- What a trigger port's opcode names has that port and that opcode. -/
theorem triggerOf_reads {h : Head} {dst op : Nat} (hop : op < 128) {r : Option Instr} (ht : triggerOf h dst op = some r) :
    ReadsBack h dst op r := by
  unfold triggerOf at ht
  split at ht <;> cases ht
  case h_1 => exact aluOf_reads h 0 op
  case h_2 => exact aluOf_reads h 1 op
  case h_3 => exact fpOf_reads h 0 op
  case h_4 => exact fpOf_reads h 1 op
  case h_5 => exact sOf_reads h op
  case h_6 => exact vOf_reads h op
  case h_7 => exact xOf_reads h op
  case h_8 => exact cOf_reads h op
  case h_9 => exact ldsOf_reads h op
  case h_10 => exact ldgOf_reads h hop
  case h_11 => exact ldwOf_reads h op
  case h_12 => exact stsOf_reads h op
  case h_13 => exact stgOf_reads h hop
  case h_14 => exact atsOf_reads h op
  case h_15 => exact classOf_reads (atgOf_reads h) op
  case h_16 => exact classOf_reads (redOf_reads h) op
  case h_17 => exact mxOf_reads h op
  case h_18 => exact cpOf_reads h 0 op
  case h_19 => exact cpOf_reads h 1 op
  case h_20 => exact yOf_reads h op
  case h_21 => exact kOf_reads h op
  case h_22 =>
    split
    · exact .of_parts rfl rfl
    · exact .of_none
  case h_24 | h_25 =>
    split
    · exact .of_parts rfl rfl
    · exact .of_parts rfl rfl
    · exact .of_none
  all_goals
    split
    · exact .of_parts rfl rfl
    · exact .of_parts rfl rfl
    · exact .of_parts rfl rfl
    · exact .of_none

/-! ## Words (03 R43) -/

/-- A word of 32 bits is the word of its fields. -/
theorem moveWord_of_fields {w : Nat} (hw : w < 2 ^ 32) {h : Head} (hcc : h.guard.ccField = fld w 30 2)
    (hcond : h.guard.condField = fld w 26 4) (hx : h.src.code = fld w 9 9) (hh : h.hold.val = fld w 7 2) :
    moveWord h (fld w 18 8) (fld w 0 7) = w := by
  simp only [moveWord, hcc, hcond, hx, hh]
  simp only [fld]
  omega

theorem fld_lt (w lo n : Nat) : fld w lo n < 2 ^ n := Nat.mod_lt _ (Nat.two_pow_pos n)

theorem decodeMove_of_guard {w : Nat} (h : guardOf (fld w 30 2) (fld w 26 4) = none) : decodeMove w = .error .illegalMove := by
  simp only [decodeMove, h]

theorem decodeMove_of_source {w : Nat} (h : srcOf (fld w 9 9) = none) : decodeMove w = .error .illegalMove := by
  unfold decodeMove
  rw [h]
  split
  · contradiction
  · rfl

theorem decodeMove_of_destination {w : Nat} (ht : ∀ h : Head, triggerOf h (fld w 18 8) (fld w 0 7) = none)
    (hd : dstOf (fld w 18 8) = none) : decodeMove w = .error .illegalMove := by
  unfold decodeMove
  split
  · simp only [ht, hd]
  · rfl

theorem decodeMove_of_opcode {w : Nat} {g : Guard} {x : Src} (hg : guardOf (fld w 30 2) (fld w 26 4) = some g)
    (hx : srcOf (fld w 9 9) = some x) (ht : ∀ h : Head, triggerOf h (fld w 18 8) (fld w 0 7) = some none) :
    decodeMove w = .error .illegalOpcode := by
  simp only [decodeMove, hg, hx, ht]

theorem decodeMove_encode {w : Nat} {i : Instr} (hw : w < 2 ^ 32) (hd : decodeMove w = .instr i) :
    i.wellFormed = true ∧ encode i = some w := by
  unfold decodeMove at hd
  split at hd
  case h_2 => cases hd
  case h_1 g x hg hx =>
    obtain ⟨hcc, hcond⟩ := guardOf_eq_some (fld_lt w 30 2) (fld_lt w 26 4) hg
    have hsrc := srcOf_eq_some (fld_lt w 9 9) hx
    have hhold : (Fin.ofNat 4 (fld w 7 2)).val = fld w 7 2 := Nat.mod_eq_of_lt (fld_lt w 7 2)
    have hword := moveWord_of_fields hw (h := { guard := g, src := x, hold := Fin.ofNat 4 (fld w 7 2) }) hcc hcond hsrc hhold
    simp only at hd
    split at hd
    case h_1 ht =>
      cases hd
      obtain ⟨hparts, hwf⟩ := triggerOf_reads (fld_lt w 0 7) ht i rfl
      exact ⟨hwf, by rw [encode, hparts, Option.map_some, hword]⟩
    case h_2 => cases hd
    case h_3 =>
      split at hd
      case h_1 => cases hd
      case h_2 d hdst =>
        split at hd
        · cases hd
        rename_i hbad
        cases hd
        have hdcode := dstOf_eq_some (fld_lt w 18 8) hdst
        have hmods : (modsOf (fld w 0 7)).code = fld w 0 7 := code_modsOf (by simp only [fld] at *; omega)
        have hparts : encode (.move { guard := g, src := x, hold := Fin.ofNat 4 (fld w 7 2) } d (modsOf (fld w 0 7)))
            = some (moveWord { guard := g, src := x, hold := Fin.ofNat 4 (fld w 7 2) } d.code (modsOf (fld w 0 7)).code) := rfl
        exact ⟨eq_true_of_ne_false fun e => hbad (.inr e), by rw [hparts, hmods, hdcode, hword]⟩

end Sys2Proof

namespace Sys2Proof.Claim

/-! ## Reserved codes (03 R44, R49, R50, R55 to R61) -/

theorem guardOf_reserved {cc cond : Nat} (hcond : cond = 15) (hcc : cc = 3) : guardOf cc cond = none := by
  subst hcond hcc
  rfl

theorem guardOf_listed {cc cond : Nat} (hcc : cc < 4) (hcond : cond < 16) (h : ¬(cond = 15 ∧ cc = 3)) :
    ∃ g, guardOf cc cond = some g := by
  by_cases hflag : cond < 14
  · exact ⟨_, if_pos hflag⟩
  unfold guardOf
  rw [if_neg hflag]
  by_cases hstage : cond = 14
  · exact ⟨_, if_pos hstage⟩
  · rw [if_neg hstage]
    obtain rfl | rfl | rfl : cc = 0 ∨ cc = 1 ∨ cc = 2 := by omega
    · exact ⟨.always, rfl⟩
    · exact ⟨.never, rfl⟩
    · exact ⟨.first, rfl⟩

theorem resPortOf_listed {n : Nat} (h : n < 37) : ∃ p, resPortOf n = some p := by
  have hsome : ∀ k < 37, (resPortOf k).isSome = true := by decide
  exact Option.isSome_iff_exists.1 (hsome n h)

theorem srcOf_listed {n : Nat} (h : reservedSource n = false) : ∃ x, srcOf n = some x := by
  have hres : ¬(0xA5 ≤ n ∧ n ≤ 0xBF) ∧ ¬(0xF7 ≤ n ∧ n ≤ 0xFF) := by
    simpa [reservedSource] using h
  unfold srcOf
  repeat' split
  · exact ⟨.g _, rfl⟩
  · obtain ⟨p, hp⟩ := resPortOf_listed (n := n - 0x80) (by omega)
    exact ⟨.port p, by rw [hp, Option.map_some]⟩
  · exact ⟨.k _, rfl⟩
  · exact ⟨.lat _, rfl⟩
  · exact ⟨.imm _, rfl⟩
  · exact ⟨.ident _, rfl⟩
  · exact ⟨.cc _, rfl⟩
  · omega
  · exact ⟨.short _, rfl⟩

theorem resPortOf_reserved {n : Nat} (h : 37 ≤ n) : resPortOf n = none := by
  unfold resPortOf
  split
  case h_38 => rfl
  all_goals omega

theorem srcOf_reserved {n : Nat} (h : reservedSource n = true) : srcOf n = none := by
  have hres : (0xA5 ≤ n ∧ n ≤ 0xBF) ∨ (0xF7 ≤ n ∧ n ≤ 0xFF) := by simpa [reservedSource] using h
  rcases hres with ⟨hlo, hhi⟩ | ⟨hlo, hhi⟩
  · rw [srcOf, if_neg (by omega), if_pos (by omega), resPortOf_reserved (by omega), Option.map_none]
  · rw [srcOf, if_neg (by omega), if_neg (by omega), if_neg (by omega), if_neg (by omega), if_neg (by omega), if_neg (by omega),
      if_neg (by omega), if_pos (by omega)]

theorem dstOf_reserved {n : Nat} (h : reservedDestination n = true) : dstOf n = none := by
  have hres : (n = 0xB8 ∨ n = 0xBE ∨ n = 0xBF) ∨ (0xE0 ≤ n ∧ n ≤ 0xFB) := by simpa [reservedDestination, or_assoc] using h
  rcases hres with (rfl | rfl | rfl) | ⟨hlo, hhi⟩
  · rfl
  · rfl
  · rfl
  · rw [dstOf, if_neg (by omega), if_neg (by omega), if_neg (by omega), if_pos (by omega)]

theorem triggerOf_reservedDestination {n : Nat} (h : reservedDestination n = true) (hd : Head) (op : Nat) :
    triggerOf hd n op = none := by
  unfold triggerOf
  split
  case h_27 => rfl
  all_goals exact absurd h (by decide)

theorem aluOf_reserved (h : Head) (u : Fin 2) {op : Nat} (hop : 0x2D ≤ op) : aluOf h u op = none := by
  unfold aluOf
  split
  case h_46 => rfl
  all_goals omega

theorem fpOf_reserved (h : Head) (u : Fin 2) {op : Nat} (hop : 0x50 ≤ op ∨ (0x1C ≤ op ∧ op ≤ 0x27 ∧ op % 4 ≠ 0)) :
    fpOf h u op = none := by
  have hz : fld op 0 2 = op % 4 := by simp [fld]
  simp only [fpOf]
  split
  case h_21 => rfl
  case h_8 | h_9 | h_10 => exact if_neg (by omega)
  all_goals omega

theorem sOf_reserved (h : Head) {op : Nat} (hop : 0x08 ≤ op) : sOf h op = none := by
  unfold sOf
  split
  case h_9 => rfl
  all_goals omega

theorem vOf_reserved (h : Head) {op : Nat} (hop : op = 0x06 ∨ op = 0x07 ∨ 0x0B ≤ op) : vOf h op = none := by
  unfold vOf
  split
  case h_10 => rfl
  all_goals omega

theorem xOf_reserved (h : Head) {op : Nat} (hop : 0x17 ≤ op) : xOf h op = none := by
  unfold xOf
  split
  case h_24 => rfl
  all_goals omega

theorem cOf_reserved (h : Head) {op : Nat} (hop : 0x0E ≤ op) : cOf h op = none := by
  simp only [cOf]
  split
  case h_15 => rfl
  all_goals omega

theorem ldsOf_reserved (h : Head) {op : Nat} (hop : 0x07 ≤ op) : ldsOf h op = none := if_neg (by omega)

theorem hintOf_three : hintOf 3 = none := rfl

theorem ldgOf_reserved (h : Head) {op : Nat} (hop : op % 8 = 7 ∨ fld op 5 2 = 3 ∨ fld op 3 2 = 3) : ldgOf h op = none := by
  have hwidth : fld op 0 3 = op % 8 := by simp [fld]
  unfold ldgOf
  split
  · rfl
  · rcases hop with hw | hn | hf
    · exact absurd (hwidth.trans hw) ‹_›
    · rw [hn, hintOf_three]
    · have hp : fld op 4 1 = 1 := by simp only [fld] at *; omega
      have hs : fld op 3 1 = 1 := by simp only [fld] at *; omega
      rw [hp, hs]
      split
      case h_4 => rfl
      all_goals contradiction

theorem ldwOf_reserved (h : Head) {op : Nat} (hop : op < 4 ∨ 7 ≤ op) : ldwOf h op = none := if_neg (by omega)

theorem stsOf_reserved (h : Head) {op : Nat} (hop : 8 ≤ op ∨ op = 1 ∨ op = 3) : stsOf h op = none := by
  rcases hop with h8 | rfl | rfl
  · exact if_neg (by omega)
  · rfl
  · rfl

theorem stgOf_reserved (h : Head) {op : Nat} (hop : op % 8 = 1 ∨ op % 8 = 3 ∨ fld op 5 2 = 3 ∨ fld op 3 2 ≠ 0) :
    stgOf h op = none := by
  have hwidth : fld op 0 3 = op % 8 := by simp [fld]
  unfold stgOf
  rcases hop with hw | hw | hn | hf
  · exact if_neg (by rw [hwidth, hw]; exact fun e => absurd e.1 (by decide))
  · exact if_neg (by rw [hwidth, hw]; exact fun e => absurd e.1 (by decide))
  · rw [hn, hintOf_three, Option.map_none, ite_self]
  · exact if_neg fun e => hf e.2

theorem atsOf_reserved (h : Head) {op : Nat} (hop : 13 ≤ op) : atsOf h op = none := by
  unfold atsOf
  split
  case h_14 => rfl
  all_goals omega

theorem classOf_reserved {f : AtomScope → Nat → Option Instr} {op : Nat}
    (h : (∀ c, f c (op % 16) = none) ∨ op / 16 = 7) : classOf f op = none := by
  refine Option.bind_eq_none_iff.2 fun c hc => ?_
  rcases h with h | h
  · exact h c
  · rw [h] at hc
    cases hc

theorem atgOf_reserved (h : Head) (c : AtomScope) {op : Nat} (hop : 13 ≤ op) : atgOf h c op = none := by
  unfold atgOf
  split
  case h_14 => rfl
  all_goals omega

theorem redOf_reserved (h : Head) (c : AtomScope) {op : Nat} (hop : op = 8 ∨ op = 9 ∨ 13 ≤ op) : redOf h c op = none := by
  unfold redOf
  split
  case h_12 => rfl
  all_goals omega

theorem mxOf_reserved (h : Head) {op : Nat} (hop : 0x08 ≤ op) : mxOf h op = none := by
  unfold mxOf
  split
  case h_9 => rfl
  all_goals omega

theorem cpOf_reserved (h : Head) (u : Fin 2) {op : Nat} (hop : 0x08 ≤ op) : cpOf h u op = none := by
  unfold cpOf
  split
  case h_9 => rfl
  all_goals omega

theorem scopeOf_reserved {n : Nat} (h : 10 ≤ n) : scopeOf n = none := by
  unfold scopeOf
  split
  case h_11 => rfl
  all_goals omega

theorem yOf_reserved (h : Head) {op : Nat}
    (hop : (0x09 ≤ op ∧ op ≤ 0x0F) ∨ (0x1A ≤ op ∧ op ≤ 0x1F) ∨ (0x2A ≤ op ∧ op ≤ 0x2F) ∨ 0x3A ≤ op) : yOf h op = none := by
  unfold yOf
  split
  case h_10 =>
    by_cases hs : 10 ≤ op % 16
    · rw [scopeOf_reserved hs]
      split
      case h_4 => rfl
      all_goals contradiction
    · have hdiv : op / 16 = 0 ∨ 4 ≤ op / 16 := by omega
      split
      case h_4 => rfl
      all_goals omega
  all_goals omega

theorem kOf_reserved (h : Head) {op : Nat} (hop : 0x08 ≤ op) : kOf h op = none := by
  unfold kOf
  split
  case h_9 => rfl
  all_goals omega

theorem reservedOpcode_refused {dst op : Nat} (h : Head) (hop : op < 128) (hres : reservedOpcode dst op = true) :
    triggerOf h dst op = some none := by
  have hclass : field op 6 4 = op / 16 := by simp only [field]; omega
  unfold reservedOpcode at hres
  split at hres
  case h_27 => exact absurd hres Bool.false_ne_true
  all_goals simp only [Bool.or_eq_true, Bool.and_eq_true, decide_eq_true_eq, beq_iff_eq, bne_iff_ne, and_assoc, or_assoc] at hres
  case h_1 => exact congrArg some (aluOf_reserved h 0 hres)
  case h_2 => exact congrArg some (aluOf_reserved h 1 hres)
  case h_3 => exact congrArg some (fpOf_reserved h 0 hres)
  case h_4 => exact congrArg some (fpOf_reserved h 1 hres)
  case h_5 => exact congrArg some (sOf_reserved h hres)
  case h_6 => exact congrArg some (mxOf_reserved h hres)
  case h_7 => exact congrArg some (cpOf_reserved h 0 hres)
  case h_8 => exact congrArg some (cpOf_reserved h 1 hres)
  case h_9 => exact congrArg some (kOf_reserved h hres)
  case h_10 => exact congrArg some (vOf_reserved h hres)
  case h_11 => exact congrArg some (xOf_reserved h hres)
  case h_12 => exact congrArg some (cOf_reserved h hres)
  case h_13 => exact congrArg some (ldsOf_reserved h hres)
  case h_14 => exact congrArg some (ldgOf_reserved h hres)
  case h_15 => exact congrArg some (ldwOf_reserved h hres)
  case h_16 => exact congrArg some (stsOf_reserved h hres)
  case h_17 => exact congrArg some (stgOf_reserved h hres)
  case h_18 => exact congrArg some (atsOf_reserved h hres)
  case h_19 => exact congrArg some (classOf_reserved (hres.imp (fun hop c => atgOf_reserved h c hop) (hclass ▸ ·)))
  case h_20 =>
    refine congrArg some (classOf_reserved ?_)
    rcases hres with h8 | h9 | h13 | h7
    · exact .inl fun c => redOf_reserved h c (.inl h8)
    · exact .inl fun c => redOf_reserved h c (.inr (.inl h9))
    · exact .inl fun c => redOf_reserved h c (.inr (.inr h13))
    · exact .inr (hclass ▸ h7)
  case h_21 => exact congrArg some (yOf_reserved h hres)
  case h_22 =>
    simp only [triggerOf, Option.some.injEq]
    split
    case h_2 => rfl
    all_goals omega
  case h_23 =>
    simp only [triggerOf, Option.some.injEq]
    split
    case h_4 => rfl
    all_goals omega
  case h_24 =>
    simp only [triggerOf, Option.some.injEq]
    split
    case h_4 => rfl
    all_goals omega
  case h_25 =>
    simp only [triggerOf, Option.some.injEq]
    split
    case h_3 => rfl
    all_goals omega
  case h_26 =>
    simp only [triggerOf, Option.some.injEq]
    split
    case h_3 => rfl
    all_goals omega

end Sys2Proof.Claim

open Sys2Proof Sys2Proof.Claim

/-- Settles O1: each instruction's own round trip, and the word of a move. -/
theorem encodedMovesDecode : Obligations.EncodedMovesDecode := by
  unfold Obligations.EncodedMovesDecode
  refine ⟨fun i w hwf hw => ?_, fun h d m _ => ⟨_, rfl⟩⟩
  obtain ⟨hlt, hd⟩ := Laws.RoundTrip.of_every i hwf w hw
  refine ⟨hlt, hd, ?_⟩
  rw [decodeTableWord, if_pos rfl, Nat.mod_eq_of_lt hlt, hd]

/-- Settles O2: each table of opcodes reads back its port and opcode, and the fields of a word make the word. -/
theorem decodedWordsEncode : Obligations.DecodedWordsEncode := by
  unfold Obligations.DecodedWordsEncode
  exact fun w i hw hd => decodeMove_encode hw hd

/-- Settles O3: each reserved code is one that its table does not list. -/
theorem reservedWordsRefused : Obligations.ReservedWordsRefused := by
  unfold Obligations.ReservedWordsRefused
  intro w hw
  refine ⟨fun hcond hcc => decodeMove_of_guard (guardOf_reserved hcond hcc), fun hx => decodeMove_of_source (srcOf_reserved hx),
    fun hd => decodeMove_of_destination (fun h => triggerOf_reservedDestination hd h _) (dstOf_reserved hd), fun hg hx hop => ?_⟩
  obtain ⟨g, hg⟩ := guardOf_listed (fld_lt w 30 2) (fld_lt w 26 4) hg
  obtain ⟨x, hx⟩ := srcOf_listed hx
  exact decodeMove_of_opcode hg hx fun h => reservedOpcode_refused h (fld_lt w 0 7) hop

end

section
/-! SUPPORT. What the sums, products, logic, order and bit rows of the A units give (08 R153). -/

open Sys2Proof.Machine

namespace Sys2Proof.Claim

/-! ## Rows that may read the carry (08 R152, 16 R331) -/

/-- The row's instruction is the ALU trigger that all rows share, which reads the flags port where the row adds its carry. -/
def AluRow.Issued (e : AluRow) : Prop :=
  ∃ op, e.Computes op ∧ ∀ h u s, exec (e.make h u) s
    = (if e.carries then (aluAction h u e.readsA e.readsT e.latency false op).carrying h u
        else aluAction h u e.readsA e.readsT e.latency false op).outcome s

/-- A clean flags port makes no difference. -/
theorem Action.carrying_outcome_of_clean {a : Action} {h : Head} {u : Fin 2} {s : State} (hp : s.cur.phase = .whole)
    (hc : s.self.struck (.res (aluFlagsPort u)) (s.guard h.guard) = false) : (a.carrying h u).outcome s = a.outcome s := by
  have hown : (a.carrying h u).own s = a.own s := by
    simp only [Action.carrying, hc]
    cases a.own s <;> rfl
  have hfails : (a.carrying h u).fails s = a.fails s := by
    unfold Action.fails
    rw [hown]
    rfl
  simp only [Action.outcome, Action.run, hp, Action.whole, hfails]
  rfl

theorem AluRow.Issued.lands {e : AluRow} (he : e.Issued) (h : Head) (u : Fin 2) :
    does (e.make h u) h (aluReads e u) (fun s => room 1 s ∧ carryClean e h u s) fun s => inFlight s [aluFlight e h u s] := by
  obtain ⟨op, hop, hexec⟩ := he
  rintro s hp ⟨hr, hc⟩
  have hphase := ((State.primed_iff s h _).1 hp).1.2.1
  have hsame : exec (e.make h u) s = (aluAction h u e.readsA e.readsT e.latency false op).outcome s := by
    rw [hexec]
    split
    · exact Action.carrying_outcome_of_clean hphase (hc ‹_›)
    · rfl
  rw [hsame]
  exact aluAction_does hop (divides := false) hp hr (by simp)

/-- A struck flags port takes trap 0x13. -/
theorem AluRow.Issued.struck {e : AluRow} (he : e.Issued) {h : Head} {u : Fin 2} {s : State} (hp : s.primed h (aluReads e u) = true)
    (hr : room 1 s) (hc : ¬carryClean e h u s) :
    exec (e.make h u) s = .next (s.takeTrap s.cur.tid s.cur.split { cause := 0x13, tval := 0#32, telem := 0, tepc := s.cur.pc }) := by
  obtain ⟨op, hop, hexec⟩ := he
  obtain ⟨hcar, hst⟩ : e.carries = true ∧ s.self.struck (.res (aluFlagsPort u)) (s.guard h.guard) = true := by
    simpa [carryClean, aluFlagsPort] using hc
  obtain ⟨⟨hon, hph, -, -⟩, ⟨hg, hw, hf⟩, ht, hs⟩ := (State.primed_iff s h _).1 hp
  rw [hexec, if_pos hcar, hop.action]
  have hfull := flightsFull_of_room hp hr
  simp [Action.outcome, Action.run, Action.whole, Action.held, Action.fails, Action.carrying, Action.trigger, aluParts, Action.idle,
    State.faultTrap, State.before, hon, hph, hg, hw, hf, ht, hs, hfull, hst]

/-! ## Sums (08 R153) -/

theorem outside_eq_overflows (x : Int) : outside x = overflows x := rfl

theorem sumOut_eq (a t : Word) (c : Bool) :
    sumOut a t c = { q := a + t + (if c then 1#32 else 0#32), c := decide (2 ^ 32 ≤ a.toNat + t.toNat + c.toNat),
                     v := outside (a.toInt + t.toInt + c.toNat) } := by
  refine aluOut_ext ?_ rfl rfl
  cases c <;> simp [sumOut, w32, BitVec.ofNat_add]

theorem diffOut_eq (a t : Word) (c : Bool) :
    diffOut a t c = { q := a - t - (if c then 0#32 else 1#32), c := decide (t.toNat + 1 - c.toNat ≤ a.toNat),
                      v := outside (a.toInt - t.toInt - (1 - c.toNat)) } := by
  refine aluOut_ext ?_ ?_ ?_
  · cases c <;> simp [diffOut, w32i, Int.sub_eq_add_neg, BitVec.ofInt_add, BitVec.ofInt_neg, BitVec.sub_eq_add_neg]
  · cases c <;> rfl
  · cases c <;> rfl

theorem saturate_eq_clamped (x : Int) : saturate x = clamped x := by
  unfold saturate clamped w32i
  congr 1
  repeat' split
  all_goals omega

theorem sumRow_issued {make : Head → Fin 2 → Instr} {term : Word → Word} {cin : Bool → Bool} {exe : Word → Word → Bool → AluOut}
    {carries : Bool} (hexe : ∀ a t c, exe a t c = sumOut a (term t) (cin c))
    (hexec : ∀ h u s, exec (make h u) s
      = (if carries then (aluAction h u true true 1 false exe).carrying h u else aluAction h u true true 1 false exe).outcome s) :
    AluRow.Issued { sumRow make term cin with carries := carries } :=
  ⟨exe, fun a t c => (hexe a t c).trans (sumOut_eq a (term t) (cin c)), hexec⟩

theorem sub_computes (a t : Word) : diffOut a t true = { q := a - t, c := decide (t.toNat ≤ a.toNat), v := outside (a.toInt - t.toInt) } := by
  rw [diffOut_eq]
  simp

theorem aluSums_issued : ∀ e ∈ aluSums, e.Issued := by
  intro e he
  simp only [aluSums, List.mem_cons, List.not_mem_nil, or_false] at he
  rcases he with rfl | rfl | rfl | rfl | rfl | rfl | rfl | rfl | rfl | rfl | rfl
  · exact sumRow_issued (exe := opAdd) (carries := false) (fun _ _ _ => rfl) fun _ _ _ => rfl
  · exact sumRow_issued (exe := opAdc) (carries := true) (fun _ _ _ => rfl) fun _ _ _ => rfl
  · exact sumRow_issued (exe := opAds1) (carries := false) (fun _ _ _ => rfl) fun _ _ _ => rfl
  · exact sumRow_issued (exe := opAds2) (carries := false) (fun _ _ _ => rfl) fun _ _ _ => rfl
  · exact sumRow_issued (exe := opAds3) (carries := false) (fun _ _ _ => rfl) fun _ _ _ => rfl
  · exact sumRow_issued (exe := opAds4) (carries := false) (fun _ _ _ => rfl) fun _ _ _ => rfl
  · exact ⟨opSub, fun a t _ => sub_computes a t, fun _ _ _ => rfl⟩
  · exact ⟨opSbc, diffOut_eq, fun _ _ _ => rfl⟩
  · exact ⟨opRsb, fun a t _ => sub_computes t a, fun _ _ _ => rfl⟩
  · refine ⟨opAddv, fun a t _ => aluOut_ext (saturate_eq_clamped _) rfl ?_, fun _ _ _ => rfl⟩
    simp [opAddv, sumOut, outside_eq_overflows]
  · refine ⟨opSubv, fun a t _ => aluOut_ext (saturate_eq_clamped _) rfl ?_, fun _ _ _ => rfl⟩
    simp [opSubv, diffOut, outside_eq_overflows]

theorem aluProducts_issued : ∀ e ∈ aluProducts, e.Issued := by
  intro e he
  simp only [aluProducts, List.mem_cons, List.not_mem_nil, or_false] at he
  rcases he with rfl | rfl | rfl
  · exact ⟨opMul, fun _ _ _ => rfl, fun _ _ _ => rfl⟩
  · exact ⟨opMulh, fun _ _ _ => rfl, fun _ _ _ => rfl⟩
  · exact ⟨opMulhn, fun _ _ _ => rfl, fun _ _ _ => rfl⟩

/-! ## Order and bits (08 R153) -/

theorem signedMin_eq (a t : Word) : (if a.toInt ≤ t.toInt then a else t) = if a.toInt < t.toInt then a else t := by
  by_cases h : a.toInt = t.toInt
  · simp [BitVec.eq_of_toInt_eq h]
  · exact ite_congr (propext (by omega)) (fun _ => rfl) fun _ => rfl

theorem signedMax_eq (a t : Word) : (if t.toInt ≤ a.toInt then a else t) = if a.toInt < t.toInt then t else a := by
  rw [← ite_not]
  exact ite_congr (propext (by omega)) (fun _ => rfl) fun _ => rfl

theorem unsignedMin_eq (a t : Word) : (if a.toNat ≤ t.toNat then a else t) = if a.toNat < t.toNat then a else t := by
  by_cases h : a.toNat = t.toNat
  · simp [BitVec.eq_of_toNat_eq h]
  · exact ite_congr (propext (by omega)) (fun _ => rfl) fun _ => rfl

theorem unsignedMax_eq (a t : Word) : (if t.toNat ≤ a.toNat then a else t) = if a.toNat < t.toNat then t else a := by
  rw [← ite_not]
  exact ite_congr (propext (by omega)) (fun _ => rfl) fun _ => rfl

theorem abs_q (t : Word) : (if t.bit 31 then -t else t) = if t.toInt < 0 then 0#32 - t else t := by
  have hsign : t.bit 31 = decide (t.toInt < 0) := by
    rw [← BitVec.msb_eq_toInt, BitVec.msb_eq_getLsbD_last]
    rfl
  simp [hsign]

/-- The first of the numbers below `n` that satisfy `p`. -/
theorem find?_range_getD {n i : Nat} {p : Nat → Bool} (hi : i < n) (hp : p i = true) (hlow : ∀ j, j < i → p j = false) :
    ((List.range n).find? p).getD n = i := by
  have hfind : (List.range n).find? p = some i := by
    rw [List.find?_range_eq_some]
    exact ⟨hp, List.mem_range.2 hi, fun j hj => by rw [hlow j hj]; rfl⟩
  rw [hfind, Option.getD_some]

theorem find?_range_getD_of_none {n : Nat} {p : Nat → Bool} (h : ∀ j, j < n → p j = false) :
    ((List.range n).find? p).getD n = n := by
  have hfind : (List.range n).find? p = none := by
    rw [List.find?_eq_none]
    exact fun j hj => by rw [h j (List.mem_range.1 hj)]; exact Bool.false_ne_true
  rw [hfind, Option.getD_none]

/-- The highest set bit of a word that is not 0 stands at its logarithm. -/
theorem clz_q (t : Word) :
    w32 (((List.range 32).find? fun i => t.bit (31 - i)).getD 32) = BitVec.ofNat 32 (if t = 0#32 then 32 else 31 - t.toNat.log2) := by
  unfold w32
  congr 1
  by_cases h0 : t = 0#32
  · rw [if_pos h0, h0]
    exact find?_range_getD_of_none fun j _ => BitVec.getLsbD_zero
  · have hne : t.toNat ≠ 0 := fun e => h0 (BitVec.eq_of_toNat_eq e)
    have hlog : t.toNat.log2 < 32 := (Nat.log2_lt hne).2 t.isLt
    rw [if_neg h0]
    refine find?_range_getD (by omega) ?_ fun j hj => ?_
    · show t.toNat.testBit (31 - (31 - t.toNat.log2)) = true
      rw [show 31 - (31 - t.toNat.log2) = t.toNat.log2 by omega]
      exact Nat.testBit_log2 hne
    · show t.toNat.testBit (31 - j) = false
      exact Nat.testBit_lt_two_pow (Nat.lt_of_lt_of_le Nat.lt_log2_self (Nat.pow_le_pow_right (by decide) (by omega)))

/-- A count of at most 32 is itself as a word. -/
theorem toNat_w32_of_le {n : Nat} (h : n ≤ 32) : (w32 n).toNat = n := by
  rw [w32, BitVec.toNat_ofNat]
  omega

theorem zerosBelow_ctz (t : Word) : zerosBelow t (w32 (((List.range 32).find? t.bit).getD 32)) := by
  cases hfind : (List.range 32).find? t.bit with
  | none =>
    rw [Option.getD_none]
    refine ⟨by decide, fun i hi => ?_, fun h => absurd h (by decide)⟩
    have hclear := List.find?_eq_none.1 hfind i (List.mem_range.2 hi)
    exact eq_false_of_ne_true hclear
  | some k =>
    rw [List.find?_range_eq_some] at hfind
    obtain ⟨hset, hmem, hlow⟩ := hfind
    have hk : k < 32 := List.mem_range.1 hmem
    rw [Option.getD_some, zerosBelow, toNat_w32_of_le (by omega)]
    exact ⟨by omega, fun i hi => Bool.not_eq_true' _ ▸ hlow i hi, fun _ => hset⟩

/-- The bits of a little-endian number are those of its bytes. -/
theorem testBit_littleEndian (bs : List Byte) (j : Nat) :
    (bs.foldr (fun (b : Byte) acc => b.toNat + 256 * acc) 0).testBit j = (bs.getD (j / 8) 0#8).getLsbD (j % 8) := by
  induction bs generalizing j with
  | nil => simp
  | cons b bs ih =>
    rw [List.foldr_cons, Nat.add_comm]
    refine (Nat.testBit_two_pow_mul_add (i := 8) _ b.isLt j).trans ?_
    by_cases h : j < 8
    · rw [if_pos h, Nat.div_eq_of_lt h, Nat.mod_eq_of_lt h]
      rfl
    · rw [if_neg h, ih, show j / 8 = (j - 8) / 8 + 1 by omega, show j % 8 = (j - 8) % 8 by omega]
      rfl

theorem getLsbD_wordOf (bs : List Byte) {j : Nat} (hj : j < 32) : (wordOf bs).getLsbD j = (bs.getD (j / 8) 0#8).getLsbD (j % 8) := by
  rw [wordOf, w32, BitVec.getLsbD_ofNat, testBit_littleEndian, decide_eq_true hj, Bool.true_and]

theorem getLsbD_byteOf (t : Word) (k : Nat) {i : Nat} (hi : i < 8) : (byteOf t k).getLsbD i = t.getLsbD (8 * k + i) := by
  rw [byteOf, BitVec.getLsbD_ofNat, show (256 : Nat) = 2 ^ 8 from rfl, ← Nat.pow_mul, Nat.testBit_div_two_pow, decide_eq_true hi,
    Bool.true_and, Nat.add_comm]
  rfl

theorem bswp_q (t : Word) : wordOf (bytesOf t).reverse = maskWhere fun j => t.getLsbD (8 * (3 - j / 8) + j % 8) := by
  have hbytes : ∀ k, k < 4 → (bytesOf t).reverse.getD k 0#8 = byteOf t (3 - k) := by
    intro k hk
    obtain rfl | rfl | rfl | rfl : k = 0 ∨ k = 1 ∨ k = 2 ∨ k = 3 := by omega
    all_goals rfl
  refine eq_maskWhere fun j hj => ?_
  rw [getLsbD_wordOf _ hj, hbytes _ (by omega), getLsbD_byteOf _ _ (by omega)]

theorem sext_truncate {n : Nat} (hn : 0 < n) (t : Word) : sextNat n t.toNat = (t.truncate n).signExtend 32 := by
  rw [sextNat_eq_signExtend hn, BitVec.truncate, BitVec.ofNat_toNat]

/-- The low bits of a word, as a mask keeps them and as a truncation does. -/
theorem and_low_eq_truncate (t : Word) (n : Nat) : t &&& BitVec.ofNat 32 (2 ^ n - 1) = (t.truncate n).zeroExtend 32 := by
  refine BitVec.eq_of_getLsbD_eq fun i hi => ?_
  rw [BitVec.getLsbD_and, BitVec.getLsbD_ofNat, Nat.testBit_two_pow_sub_one, BitVec.getLsbD_setWidth, BitVec.getLsbD_setWidth]
  simp [hi, Bool.and_comm]

theorem aluBits_issued : ∀ e ∈ aluBits, e.Issued := by
  intro e he
  simp only [aluBits, List.mem_cons, List.not_mem_nil, or_false] at he
  rcases he with rfl | rfl | rfl | rfl | rfl | rfl | rfl | rfl | rfl | rfl | rfl | rfl | rfl | rfl | rfl | rfl | rfl | rfl | rfl
  · exact ⟨opAnd, fun _ _ _ => rfl, fun _ _ _ => rfl⟩
  · exact ⟨opOr, fun _ _ _ => rfl, fun _ _ _ => rfl⟩
  · exact ⟨opXor, fun _ _ _ => rfl, fun _ _ _ => rfl⟩
  · exact ⟨opAndn, fun _ _ _ => rfl, fun _ _ _ => rfl⟩
  · exact ⟨opOrn, fun _ _ _ => rfl, fun _ _ _ => rfl⟩
  · exact ⟨opMin, fun a t _ => congrArg plainOut (signedMin_eq a t), fun _ _ _ => rfl⟩
  · exact ⟨opMax, fun a t _ => congrArg plainOut (signedMax_eq a t), fun _ _ _ => rfl⟩
  · exact ⟨opMinn, fun a t _ => congrArg plainOut (unsignedMin_eq a t), fun _ _ _ => rfl⟩
  · exact ⟨opMaxn, fun a t _ => congrArg plainOut (unsignedMax_eq a t), fun _ _ _ => rfl⟩
  · exact ⟨opAbs, fun _ t _ => congrArg plainOut (abs_q t), fun _ _ _ => rfl⟩
  · exact ⟨opPopc, fun _ _ _ => rfl, fun _ _ _ => rfl⟩
  · exact ⟨opClz, fun _ t _ => congrArg plainOut (clz_q t), fun _ _ _ => rfl⟩
  · exact ⟨opBrev, fun _ _ _ => rfl, fun _ _ _ => rfl⟩
  · exact ⟨opBswp, fun _ t _ => congrArg plainOut (bswp_q t), fun _ _ _ => rfl⟩
  · exact ⟨opSxb, fun _ t _ => congrArg plainOut (sext_truncate (by decide) t), fun _ _ _ => rfl⟩
  · exact ⟨opSxh, fun _ t _ => congrArg plainOut (sext_truncate (by decide) t), fun _ _ _ => rfl⟩
  · exact ⟨opZxb, fun _ t _ => congrArg plainOut (and_low_eq_truncate t 8), fun _ _ _ => rfl⟩
  · exact ⟨opZxh, fun _ t _ => congrArg plainOut (and_low_eq_truncate t 16), fun _ _ _ => rfl⟩
  · exact ⟨opMova, fun _ _ _ => rfl, fun _ _ _ => rfl⟩

/-- Settles O5: every row's operation gives R153's q, C and V, and the trigger that all ALU rows share lands them. -/
theorem aluResultsLand : Obligations.AluResultsLand := by
  unfold Obligations.AluResultsLand
  refine ⟨fun e he h u => ?_, fun e he h u s hp hr hc => (aluSums_issued e he).struck hp hr hc, _, zerosBelow_ctz, fun h u => ?_⟩
  · rcases List.mem_append.1 he with he | he
    · rcases List.mem_append.1 he with he | he
      · exact (aluSums_issued e he).lands h u
      · exact (aluProducts_issued e he).lands h u
    · exact (aluBits_issued e he).lands h u
  · exact AluRow.Realized.lands (e := unaryRow .ctz _) ⟨opCtz, fun _ _ _ => rfl, fun _ _ _ => rfl⟩ h u

end Sys2Proof.Claim
end

section
/-! SUPPORT. What the F, S and V units and WFADD give (08 R163, 09 R166 to R186). -/

open Sys2Proof.Machine

namespace Sys2Proof.Claim

/-! ## Rows of F and V (09 R172 to R186) -/

/-- The own parts of a trigger that puts one result in flight after a check of its own. -/
def flightParts (own : State → Option TrapRec) (after : State → State) : Action :=
  { Action.idle with waits := fun s => s.flightsFull 1, takes := flying 1, own := own, effect := after }

/-- The row's instruction is the trigger that all F and V rows share, with a check of its own. -/
def FloatRow.Realized (e : FloatRow) (own : Head → State → Option TrapRec) : Prop :=
  ∀ h s, exec (e.make h) s
    = (Action.trigger h (floatReads e) (flightParts (own h) fun s => inFlight s [floatFlight e h s])).outcome s

theorem FloatRow.Realized.lands {e : FloatRow} {own : Head → State → Option TrapRec} (he : e.Realized own) {h : Head}
    {ok : State → Prop} (hown : ∀ s, ok s → own h s = none) :
    does (e.make h) h (floatReads e) (fun s => room 1 s ∧ ok s) fun s => inFlight s [floatFlight e h s] := by
  rintro s hp ⟨hr, hok⟩
  rw [he]
  exact Action.trigger_latched hp ⟨flightsFull_of_room hp hr, rfl, rfl, rfl, rfl, rfl, hown s hok⟩ rfl rfl rfl

theorem FloatRow.Realized.lands_always {e : FloatRow} (he : e.Realized fun _ _ => none) (h : Head) :
    does (e.make h) h (floatReads e) (room 1) fun s => inFlight s [floatFlight e h s] :=
  fun s hp hr => he.lands (ok := fun _ => True) (fun _ _ => rfl) s hp ⟨hr, trivial⟩

theorem fpRows_realized (u : Fin 2) (rm : Rm) : ∀ e ∈ fpRows u rm, e.Realized fun _ _ => none := by
  intro e he
  simp only [fpRows, List.mem_cons, List.not_mem_nil, or_false] at he
  rcases he with rfl | rfl | rfl | rfl | rfl | rfl | rfl | rfl | rfl | rfl | rfl | rfl | rfl <;> exact fun _ _ => rfl

theorem packedRows_realized (u : Fin 2) (rm : Rm) : ∀ e ∈ packedRows u rm, e.Realized fun _ _ => none := by
  intro e he
  simp only [packedRows, List.mem_cons, List.not_mem_nil, or_false] at he
  rcases he with rfl | rfl | rfl | rfl | rfl | rfl <;> exact fun _ _ => rfl

theorem opFcmp_eq (a b t : Word) : opFcmp a b t
    = { q := a
        fl := match fp32.relation a.toNat t.toNat with
          | .less => 0b1000#4
          | .equal => 0b0110#4
          | .greater => 0b0010#4
          | .unordered => 0b0011#4
        raised := if (fp32.unpack a.toNat).snan || (fp32.unpack t.toNat).snan then 0b10000#5 else 0#5 } := by
  have hflags : ∀ r : Relation, r.flags = match r with
      | .less => 0b1000#4
      | .equal => 0b0110#4
      | .greater => 0b0010#4
      | .unordered => 0b0011#4 := fun r => by cases r <;> rfl
  rw [opFcmp, hflags]
  rfl

theorem compareRow_realized (u : Fin 2) : (compareRow u).Realized fun _ _ => none := by
  intro h s
  show (fpAction h u [fpA u] opFcmp).outcome s = _
  rw [show opFcmp = _ from funext fun a => funext fun b => funext fun t => opFcmp_eq a b t]
  rfl

theorem convRows_realized : ∀ e ∈ convRows, e.Realized fun _ _ => none := by
  intro e he
  simp only [convRows, List.mem_cons, List.not_mem_nil, or_false] at he
  rcases he with rfl | rfl | rfl | rfl | rfl | rfl | rfl | rfl <;> exact fun _ _ => rfl

theorem cvtRow_realized : cvtRow.Realized cvtCheck := fun _ _ => rfl

/-! ## CVT's control word (09 R182) -/

theorem cvtBad_eq (a : Word) : cvtBad a = !cvtLegal a := by
  have hw : a.toNat < 2 ^ 32 := a.isLt
  have h1 : a.bits 31 11 = a.toNat / 2048 := by simp [Word.bits]; omega
  have h2 : a.bits 7 4 = a.toNat / 16 % 16 := by simp [Word.bits]
  have h3 : a.bits 3 0 = a.toNat % 16 := by simp [Word.bits]
  have h4 : (a.toNat / 2048 ≠ 0) ↔ ¬(a.toNat < 2048) := by omega
  have h5 : (10 < a.toNat / 16 % 16) ↔ ¬(a.toNat / 16 % 16 ≤ 10) := by omega
  have h6 : (10 < a.toNat % 16) ↔ ¬(a.toNat % 16 ≤ 10) := by omega
  simp only [cvtBad, cvtLegal, h1, h2, h3, h4, h5, h6, decide_not, Bool.not_and]

theorem cvtCheck_eq (h : Head) (s : State) :
    cvtCheck h s = ((lanesIn (s.guard h.guard)).find? fun l => !cvtLegal (s.self.rd (.op .va) l)).map
      fun l => s.before 0x02 (s.self.rd (.op .va) l) := by
  simp only [cvtCheck, cvtBad_eq]
  rfl

theorem cvtCheck_of_legal {h : Head} {s : State} (hl : ∀ l ∈ lanesIn (s.guard h.guard), cvtLegal (s.self.rd (.op .va) l) = true) :
    cvtCheck h s = none := by
  rw [cvtCheck_eq, List.find?_eq_none.2 fun l hm => by simp [hl l hm], Option.map_none]

/-! ## A trigger whose own check fails -/

/-- A trigger that is primed, that waits for nothing and whose own check fails takes that trap. -/
theorem Action.trigger_traps {h : Head} {r : Reads} {a : Action} {s : State} {t : TrapRec} (hp : s.primed h r = true)
    (hwaits : a.waits s = false) (hneeds : a.needs s = none) (hpage : a.page s = none) (hlease : a.lease s = none)
    (habsent : a.absent s = none) (hpoison : a.poison s = none) (hown : a.own s = some t) :
    (Action.trigger h r a).outcome s = .next (s.takeTrap s.cur.tid s.cur.split t) := by
  obtain ⟨⟨hon, hph, _, _⟩, ⟨hg, hw, hf⟩, ht, hs⟩ := (State.primed_iff s h r).1 hp
  simp [Action.outcome, Action.run, Action.whole, Action.held, Action.fails, Action.trigger, hon, hph, hg, hw, ht, hs, hwaits, hneeds,
    hpage, hlease, habsent, hpoison, hown, State.faultTrap, hf]

/-! ## S (09 R178, R179) -/

/-- The own parts of an S trigger, in its row's terms. -/
def specialParts (e : FloatRow) (h : Head) : Action :=
  { Action.idle with
    waits := fun s => s.flightsFull 1 || s.specialBusy
    takes := flying 1
    effect := fun s => specialHeld (inFlight s [floatFlight e h s]) }

theorem specialRows_exec : ∀ e ∈ specialRows, ∀ h s,
    exec (e.make h) s = (Action.trigger h (floatReads e) (specialParts e h)).outcome s := by
  intro e he
  simp only [specialRows, List.mem_cons, List.not_mem_nil, or_false] at he
  rcases he with rfl | rfl | rfl | rfl | rfl | rfl | rfl | rfl <;> exact fun _ _ => rfl

theorem specialBusy_eq_false {s : State} (h : specialFree s) : s.specialBusy = false :=
  decide_eq_false (Nat.not_lt.2 h)

theorem specialParts_latched {e : FloatRow} {h : Head} {s : State} (hp : s.primed h (floatReads e) = true) (hr : room 1 s)
    (hf : specialFree s) :
    ∃ t, (Action.trigger h (floatReads e) (specialParts e h)).outcome s = .next t
      ∧ Latched h (s.guard h.guard) (s.trig h) true (specialHeld (inFlight s [floatFlight e h s])) t := by
  have hfree : (specialParts e h).Free s :=
    ⟨by simp [specialParts, flightsFull_of_room hp hr, specialBusy_eq_false hf], rfl, rfl, rfl, rfl, rfl, rfl⟩
  refine Action.trigger_latched hp hfree ?_ ?_ ?_ <;>
  · show _ = _
    simp only [specialParts, specialHeld]
    split <;> rfl

/-! ## WFADD (08 R163) -/

theorem level_bits (rs : List Rounded) : (treeLevel rs).map Rounded.bits = level (rs.map Rounded.bits) := by
  induction rs using treeLevel.induct with
  | case1 x y r ih => simp [treeLevel, level, ih]
  | case2 r h =>
    match r, h with
    | [], _ => rfl
    | [_], _ => rfl
    | x :: y :: r, h => exact absurd rfl (h x y r)

theorem wfaddTree_bits (p : Mask) (d : Nat → Word) : (wfaddTree p d).bits = treeSum p d := by
  have hhead : ∀ rs : List Rounded, (rs.headD { bits := 0, raised := 0#5 }).bits = (rs.map Rounded.bits).headD 0 := fun rs => by
    cases rs <;> rfl
  unfold wfaddTree treeSum
  simp only [hhead, level_bits, List.map_map]
  rfl

end Sys2Proof.Claim

open Sys2Proof Sys2Proof.Claim

/-- Settles O13: the model's tree of sums is R163's, level by level. -/
theorem crossFloatSumLands : Obligations.CrossFloatSumLands := by
  unfold Obligations.CrossFloatSumLands
  refine ⟨fun p d => (wfaddTree p d).raised, fun h s hp hr => ?_⟩
  have hop : CrossRow.Computes
      { make := .wfadd, readsA := false, q := fun p d _ _ => BitVec.ofNat 32 (treeSum p d), m := fun p _ => p } opWfadd sameMask :=
    ⟨fun p d _ _ _ _ => congrArg w32 (wfaddTree_bits p d), fun _ _ => rfl⟩
  exact crossAction_does hop (fun p d => (wfaddTree p d).raised) hp hr rfl

/-- Settles O15: each row of F is the trigger that all of them share. -/
theorem floatResultsLand : Obligations.FloatResultsLand := by
  unfold Obligations.FloatResultsLand
  intro u rm e he h
  rcases List.mem_append.1 he with he | he
  · rcases List.mem_append.1 he with he | he
    · exact (fpRows_realized u rm e he).lands_always h
    · exact (packedRows_realized u rm e he).lands_always h
  · rw [List.mem_singleton.1 he]
    exact (compareRow_realized u).lands_always h

/-- Settles O16: each row of S is the trigger that all of them share, which also holds the core's next one. -/
theorem specialResultsLand : Obligations.SpecialResultsLand := by
  unfold Obligations.SpecialResultsLand
  rintro e he h s hp ⟨hr, hf⟩
  rw [specialRows_exec e he]
  exact specialParts_latched hp hr hf

/-- Settles O17: each row of V is the trigger that all of them share, CVT's with the check of its control word. -/
theorem conversionsLand : Obligations.ConversionsLand := by
  unfold Obligations.ConversionsLand
  refine ⟨fun e he h => (convRows_realized e he).lands_always h, fun h => cvtRow_realized.lands fun s hl => cvtCheck_of_legal hl,
    fun h s l hp hr hfind => ?_⟩
  have hexec : exec (.cvt h) s = _ := cvtRow_realized h s
  rw [hexec]
  refine Action.trigger_traps hp (flightsFull_of_room hp hr) rfl rfl rfl rfl rfl ?_
  show cvtCheck h s = _
  rw [cvtCheck_eq, hfind]
  rfl

namespace Sys2Proof.Claim

/-! ## Canonical NaNs (09 R166) -/

/-- A pattern of a format that is no NaN but the canonical one. -/
def Canonical (f : Fmt) (x : Nat) : Prop := x = f.nanBits ∨ ∃ neg, ∃ y ≤ f.infBits, x = f.signBit neg + y

theorem canonical_signed (f : Fmt) (neg : Bool) {y : Nat} (h : y ≤ f.infBits) : Canonical f (f.signBit neg + y) :=
  .inr ⟨neg, y, h, rfl⟩

theorem canonical_zero (f : Fmt) (neg : Bool) : Canonical f (f.signBit neg) := canonical_signed f neg (Nat.zero_le _)

theorem canonical_nan (f : Fmt) (iv : Bool) : Canonical f (f.nan iv).bits := .inl rfl

theorem canonical_inf (f : Fmt) (neg : Bool) : Canonical f (f.signBit neg + f.infBits) := canonical_signed f neg (Nat.le_refl _)

/-- What a rounding past the largest number gives is at most infinity. -/
theorem overflowed_le (f : Fmt) (toInf : Bool) : (if toInf then f.infBits else f.infBits - 1) ≤ f.infBits := by
  cases toInf
  · exact Nat.sub_le _ _
  · exact Nat.le_refl _

theorem canonical_roundNum (f : Fmt) (rm : Rm) (neg : Bool) (m : Nat) (e : Int) : Canonical f (f.roundNum rm neg m e).bits := by
  unfold Fmt.roundNum
  simp only
  split
  · exact canonical_signed f neg (overflowed_le f _)
  · next h => exact canonical_signed f neg (Nat.le_of_lt (Nat.lt_of_not_le h))

theorem canonical_sum (f : Fmt) (rm : Rm) (terms : List FVal) (iv : Bool) : Canonical f (f.sum rm terms iv).bits := by
  unfold Fmt.sum
  simp only
  split
  · exact canonical_nan ..
  · split
    · split
      · exact canonical_nan ..
      · exact canonical_inf ..
    · split
      · exact canonical_zero ..
      · exact canonical_roundNum ..

theorem canonical_prod (f : Fmt) (rm : Rm) (a b : FVal) : Canonical f (f.prod rm a b).bits := by
  unfold Fmt.prod
  split
  · exact canonical_nan ..
  · exact canonical_inf ..
  · split
    · exact canonical_zero ..
    · exact canonical_roundNum ..

/-- What FRND and FMIN pass on is no NaN. -/
theorem canonical_rnd (f : Fmt) (rm : Rm) {a : Nat} (ha : (f.unpack a).isNan = false → Canonical f a) : Canonical f (f.rnd rm a).bits := by
  unfold Fmt.rnd
  split
  · exact canonical_nan ..
  · exact canonical_inf ..
  · next hn =>
    simp only
    split
    · exact canonical_zero ..
    · split
      · exact ha (by rw [hn]; rfl)
      · exact canonical_roundNum ..

theorem canonical_scl (f : Fmt) (rm : Rm) (a : Nat) (t : Int) : Canonical f (f.scl rm a t).bits := by
  unfold Fmt.scl
  split
  · exact canonical_nan ..
  · exact canonical_inf ..
  · split
    · exact canonical_zero ..
    · exact canonical_roundNum ..

theorem canonical_minmax (f : Fmt) (greater : Bool) {a t : Nat} (ha : (f.unpack a).isNan = false → Canonical f a)
    (ht : (f.unpack t).isNan = false → Canonical f t) : Canonical f (f.minmax greater a t).bits := by
  unfold Fmt.minmax
  simp only
  cases hx : (f.unpack a).isNan <;> cases hy : (f.unpack t).isNan
  · simp only [Bool.and_self, Bool.false_eq_true, if_false]
    split
    · exact ha hx
    · exact ht hy
  · exact ha hx
  · exact ht hy
  · exact .inl rfl

theorem infBits_eq : fp32.infBits = 0x7F800000 := by decide

theorem nanBits_eq : fp32.nanBits = 0x7FC00000 := by decide

/-- A word that is no NaN. -/
theorem canonical_of_not_nan (x : Word) (h : (fp32.unpack x.toNat).isNan = false) : Canonical fp32 x.toNat := by
  have hx := x.isLt
  have hle : x.toNat % 2 ^ 31 ≤ 0x7F800000 := by
    refine Nat.le_of_not_lt fun hgt => ?_
    have hex : x.toNat / 2 ^ 23 % 2 ^ 8 = 2 ^ 8 - 1 := by omega
    have hfr : x.toNat % 2 ^ 23 ≠ 0 := by omega
    have hnan : fp32.unpack x.toNat = .nan (x.toNat % 2 ^ 23 < 2 ^ 22) := by
      rw [Fmt.unpack]
      exact (if_pos hex).trans (if_neg hfr)
    rw [hnan] at h
    cases h
  refine .inr ⟨decide (2 ^ 31 ≤ x.toNat), x.toNat % 2 ^ 31, infBits_eq ▸ hle, ?_⟩
  by_cases hs : 2 ^ 31 ≤ x.toNat
  · rw [decide_eq_true hs, show fp32.signBit true = 2 ^ 31 from rfl]
    omega
  · rw [decide_eq_false hs, show fp32.signBit false = 0 from rfl]
    omega

/-- A canonical result's word is a NaN only where it is the canonical one. -/
theorem scalarOut_of_canonical {r : Rounded} (h : Canonical fp32 r.bits) (hn : (scalarOut r).q.toNat % 2 ^ 31 > 0x7F800000) :
    (scalarOut r).q = 0x7FC00000#32 := by
  have hq : (scalarOut r).q = BitVec.ofNat 32 r.bits := rfl
  rw [hq] at hn ⊢
  rcases h with h | ⟨neg, y, hy, h⟩
  · rw [h, nanBits_eq]
  · have hs : fp32.signBit neg = 0 ∨ fp32.signBit neg = 2 ^ 31 := by cases neg <;> simp [Fmt.signBit, fp32]
    rw [infBits_eq] at hy
    rw [h, BitVec.toNat_ofNat] at hn
    omega

/-- Settles O18: no operation of F rounds to a NaN, and each passes on only values that are none. -/
theorem nansAreCanonical : Obligations.NansAreCanonical := by
  unfold Obligations.NansAreCanonical
  intro u rm e he p t hn
  simp only [fpRows, List.mem_cons, List.not_mem_nil, or_false] at he
  rcases he with rfl | rfl | rfl | rfl | rfl | rfl | rfl | rfl | rfl | rfl | rfl | rfl | rfl
  · exact scalarOut_of_canonical (canonical_sum ..) hn
  · exact scalarOut_of_canonical (canonical_sum ..) hn
  · exact scalarOut_of_canonical (canonical_sum ..) hn
  · exact scalarOut_of_canonical (canonical_sum ..) hn
  · exact scalarOut_of_canonical (canonical_sum ..) hn
  · exact scalarOut_of_canonical (canonical_sum ..) hn
  · exact scalarOut_of_canonical (canonical_prod ..) hn
  · exact scalarOut_of_canonical (canonical_minmax fp32 _ (canonical_of_not_nan _) (canonical_of_not_nan _)) hn
  · exact scalarOut_of_canonical (canonical_minmax fp32 _ (canonical_of_not_nan _) (canonical_of_not_nan _)) hn
  · exact scalarOut_of_canonical (canonical_scl ..) hn
  · exact scalarOut_of_canonical (canonical_sum ..) hn
  · exact scalarOut_of_canonical (canonical_sum ..) hn
  · exact scalarOut_of_canonical (canonical_rnd fp32 rm (canonical_of_not_nan _)) hn

end Sys2Proof.Claim
end

section
/-! SUPPORT. MOVE (03 R46, R48, R52): its modifiers bit by bit, and what its destination receives. -/

open Sys2Proof.Machine

namespace Sys2Proof.Claim

/-! ## Modifiers (03 R46) -/

theorem halfLow_eq (w : Word) : (w &&& 0xFFFF#32 : Word) = (w.extractLsb' 0 16).zeroExtend 32 := by
  refine BitVec.eq_of_getLsbD_eq fun i hi => ?_
  rw [show (0xFFFF#32 : Word) = BitVec.ofNat 32 (2 ^ 16 - 1) from rfl, BitVec.getLsbD_and, BitVec.getLsbD_ofNat,
    Nat.testBit_two_pow_sub_one]
  simp [hi, Bool.and_comm]

/-- Two halves put together, as an OR of shifted words and as an appending. -/
theorem or_shift_eq_append (x y : BitVec 16) :
    (x.zeroExtend 32 ||| (y.zeroExtend 32 <<< 16) : Word) = y ++ x := by
  refine BitVec.eq_of_getLsbD_eq fun i hi => ?_
  rw [BitVec.getLsbD_append]
  by_cases h : i < 16
  · simp [h, hi]
  · simp [h, hi, show x.getLsbD i = false from BitVec.getLsbD_of_ge _ _ (by omega)]

theorem halfHigh_eq (w : Word) : (w >>> 16 : Word) = (w.extractLsb' 16 16).zeroExtend 32 := by
  refine BitVec.eq_of_getLsbD_eq fun i hi => ?_
  by_cases h : i < 16
  · simp [h, hi]
  · simp [h, show w.getLsbD (16 + i) = false from BitVec.getLsbD_of_ge _ _ (by omega)]

theorem signBit_eq (i : Nat) : (0x80000000#32 : Word).getLsbD i = (i == 31) := by
  rw [show (0x80000000#32 : Word) = BitVec.ofNat 32 (2 ^ 31) from rfl, BitVec.getLsbD_ofNat, Nat.testBit_two_pow]
  by_cases h : i = 31
  · simp [h]
  · simp [h, Ne.symm h]

theorem magnitude_eq {i : Nat} (hi : i < 32) : (0x7FFFFFFF#32 : Word).getLsbD i = (i != 31) := by
  rw [show (0x7FFFFFFF#32 : Word) = BitVec.ofNat 32 (2 ^ 31 - 1) from rfl, BitVec.getLsbD_ofNat, Nat.testBit_two_pow_sub_one]
  by_cases h : i = 31
  · simp [h]
  · simp [h, hi, show i < 31 by omega]

theorem apply_keep (m : Mods) (w : Word) : Mods.apply { m with sign := .keep } w = halved m w := by
  obtain ⟨t, p, half, sign⟩ := m
  cases half
  · rfl
  all_goals simp only [Mods.apply, halved, halfLow_eq, halfHigh_eq, or_shift_eq_append]

/-- The model's modifiers are those of R46 items 2 and 3. -/
theorem apply_eq_modified (m : Mods) (w : Word) : Mods.apply m w = modified m w := by
  have hkeep := apply_keep m w
  obtain ⟨t, p, half, sign⟩ := m
  cases sign with
  | keep => exact hkeep
  | neg =>
    refine eq_maskWhere fun i hi => ?_
    rw [← hkeep]
    exact (BitVec.getLsbD_xor ..).trans (by rw [signBit_eq]; rfl)
  | abs =>
    refine eq_maskWhere fun i hi => ?_
    rw [← hkeep]
    exact (BitVec.getLsbD_and ..).trans (by rw [magnitude_eq hi]; rfl)
  | nabs =>
    refine eq_maskWhere fun i hi => ?_
    rw [← hkeep]
    exact (BitVec.getLsbD_or ..).trans (by rw [signBit_eq]; rfl)

theorem delivered_eq_delivers (s : State) (h : Head) (m : Mods) : s.delivered h.src m = delivers s h m := by
  funext l
  simp only [State.delivered, delivers, apply_eq_modified]

/-! ## Registers with their tags -/

theorem rd_deliver (th : Thread) (r : Reg) (m : Mask) (v : Nat → Word × Bool) {l : Nat} (hl : l < 32) :
    (th.deliver r m v).rd r l = if m.getLsbD l then (v l).1 else th.rd r l := by
  rw [Thread.deliver, Thread.rd_setTags, Thread.rd_wrMask _ _ _ _ hl]

theorem rd_deliver_other (th : Thread) {r r' : Reg} (m : Mask) (v : Nat → Word × Bool) (l : Nat) (h : r'.id ≠ r.id) :
    (th.deliver r m v).rd r' l = th.rd r' l := by
  rw [Thread.deliver, Thread.rd_setTags, Thread.rd_wrMask_other _ _ _ _ h]

theorem tags_deliver (th : Thread) (r : Reg) (m : Mask) (v : Nat → Word × Bool) {l : Nat} (hl : l < 32) :
    ((th.deliver r m v).tags r).getLsbD l = if m.getLsbD l then (v l).2 else (th.tags r).getLsbD l := by
  have htags : (th.deliver r m v).tags r = (th.tags r &&& ~~~m) ||| (maskWhere (fun l => (v l).2) &&& m) := by
    rw [← Thread.tags_wrMask th r r m fun l => (v l).1]
    exact Tab.get_set_self 0#32 _ _ _
  rw [htags]
  simp only [BitVec.getLsbD_or, BitVec.getLsbD_and, BitVec.getLsbD_not, getLsbD_maskWhere, hl, decide_true, Bool.true_and]
  cases m.getLsbD l <;> simp

theorem tags_deliver_other (th : Thread) {r r' : Reg} (m : Mask) (v : Nat → Word × Bool) (h : r'.id ≠ r.id) :
    (th.deliver r m v).tags r' = th.tags r' := by
  rw [Thread.deliver, Thread.tags_setTags_other _ _ _ h, Thread.tags_wrMask]

theorem bad_deliver_other (th : Thread) {r r' : Reg} (m : Mask) (v : Nat → Word × Bool) (l : Nat) (h : r'.id ≠ r.id) :
    Tab.get false (th.deliver r m v).bad (r'.key l) = Tab.get false th.bad (r'.key l) := by
  rw [Thread.deliver, Thread.bad_setTags, Thread.bad_wrMask_other _ _ _ _ h]

theorem sameBut_deliver (th : Thread) (r : Reg) (m : Mask) (v : Nat → Word × Bool) : th.SameBut (th.deliver r m v) :=
  (th.sameBut_wrMask ..).trans (Thread.sameBut_setTags ..)

/-! ## A destination in the issuing thread -/

theorem self_modThread (s : State) (f : Thread → Thread) : (s.modThread s.cur.tid f).self = f s.self := State.thread_modThread ..

theorem selfBlock_modThread (s : State) (f : Thread → Thread) : (s.modThread s.cur.tid f).selfBlock = s.selfBlock := rfl

/-- The lowest of some lanes. -/
theorem lowest_eq_some {m : Mask} (h : m ≠ 0#32) : lowest m = some (lowestIn m) := by
  cases hl : lowest m with
  | none =>
    have hempty : lanesOf m = [] := List.head?_eq_none_iff.1 hl
    refine absurd (BitVec.eq_of_getLsbD_eq fun i hi => ?_) h
    rw [BitVec.getLsbD_zero]
    refine eq_false_of_ne_true fun hbit => ?_
    have hmem : i ∈ lanesOf m := mem_lanesOf.2 ⟨hi, hbit⟩
    rw [hempty] at hmem
    exact List.not_mem_nil hmem
  | some l => rw [← lowest_eq_lowestIn, hl, Option.getD_some]

/-- The parts of `Written` that a register of the thread, and nothing else, has changed. -/
theorem written_of_thread {s : State} {d : Dst} {m : Mask} {v : Nat → Word × Bool} {r : Reg} {f : Thread → Thread}
    (hd : landsIn s d = some r) (hk : ∀ n, d ≠ .k n)
    (hsame : s.self.SameBut (f s.self)) (htags : ∀ r' : Reg, r'.id ≠ r.id → (f s.self).tags r' = s.self.tags r')
    (hbad : ∀ (r' : Reg) (l : Nat), r'.id ≠ r.id → Tab.get false (f s.self).bad (r'.key l) = Tab.get false s.self.bad (r'.key l))
    (hrd : ∀ (r' : Reg) (l : Nat), r'.id ≠ r.id → (f s.self).rd r' l = s.self.rd r' l)
    (hlanes : ∀ n, d = .g n ∨ (∃ p, d = .port p ∧ OpPort.perWarp p = false) → ∀ l, l < 32 →
      (f s.self).rd r l = (if m.getLsbD l then (v l).1 else s.self.rd r l)
        ∧ ((f s.self).tags r).getLsbD l = if m.getLsbD l then (v l).2 else (s.self.tags r).getLsbD l)
    (hflags : ∀ n, d = .cc n → ∀ l, l < 32 →
      (f s.self).rd (.cc n.val) l = if m.getLsbD l then BitVec.ofNat 32 ((v l).1.toNat % 16) else s.self.rd (.cc n.val) l)
    (hshared : ∀ p, d = .port p → OpPort.perWarp p = true → m ≠ 0#32 →
      (f s.self).rd (.op p) 0 = (v (lowestIn m)).1 ∧ ((f s.self).tags (.op p)).getLsbD 0 = (v (lowestIn m)).2) :
    Written s d m v (s.modThread s.cur.tid f) where
  state := rfl
  threads _ hne := State.thread_modThread_other _ _ hne
  thread := by rw [self_modThread]; exact hsame
  tags r' h := by rw [self_modThread]; exact htags r' (h r hd)
  struck r' l h := by rw [self_modThread]; exact hbad r' l (h r hd)
  others r' l h := by rw [self_modThread]; exact hrd r' l (h r hd)
  lanes n hn r' hr' l hl := by
    rw [hd, Option.some.injEq] at hr'
    rw [← hr', self_modThread]
    exact hlanes n hn l hl
  flags := by rw [self_modThread]; exact hflags
  shared := by rw [self_modThread]; exact hshared
  block := by
    cases d with
    | k n => exact absurd rfl (hk n)
    | _ => exact selfBlock_modThread s f
  blocks _ _ _ := rfl

theorem bit_one (l : Nat) (hl : l < 32) : (1#32 : Mask).getLsbD l = decide (l = 0) := by
  rw [show (1#32 : Mask) = laneMask 0 from rfl, getLsbD_laneMask, decide_eq_true hl, Bool.true_and]

/-- A destination receives what is written to it in the lanes of a mask. -/
theorem written_writeDst (s : State) (d : Dst) {m : Mask} (v : Nat → Word × Bool) (hm : m ≠ 0#32) :
    Written s d m v (s.writeDst d m v) := by
  unfold State.writeDst
  rw [lowest_eq_some hm]
  simp only
  cases d with
  | g n =>
    refine written_of_thread rfl (fun _ e => nomatch e) (sameBut_deliver ..) (fun _ h => tags_deliver_other _ _ _ h)
      (fun _ l h => bad_deliver_other _ _ _ l h) (fun _ l h => rd_deliver_other _ _ _ l h)
      (fun _ _ l hl => ⟨rd_deliver _ _ _ _ hl, tags_deliver _ _ _ _ hl⟩) (fun _ e => nomatch e) (fun _ e => nomatch e)
  | port p =>
    simp only
    split
    · next hp =>
      have hbit := bit_one 0 (by decide)
      refine written_of_thread rfl (fun _ e => nomatch e) (sameBut_deliver ..) (fun _ h => tags_deliver_other _ _ _ h)
        (fun _ l h => bad_deliver_other _ _ _ l h) (fun _ l h => rd_deliver_other _ _ _ l h) ?_ (fun _ e => nomatch e) ?_
      · rintro n (e | ⟨p', e, hp'⟩)
        · cases e
        · cases e
          rw [hp] at hp'
          cases hp'
      · rintro p' e - -
        cases e
        exact ⟨by rw [rd_deliver _ _ _ _ (by decide), hbit]; rfl, by rw [tags_deliver _ _ _ _ (by decide), hbit]; rfl⟩
    · next hp =>
      refine written_of_thread rfl (fun _ e => nomatch e) (sameBut_deliver ..) (fun _ h => tags_deliver_other _ _ _ h)
        (fun _ l h => bad_deliver_other _ _ _ l h) (fun _ l h => rd_deliver_other _ _ _ l h)
        (fun _ _ l hl => ⟨rd_deliver _ _ _ _ hl, tags_deliver _ _ _ _ hl⟩) (fun _ e => nomatch e) ?_
      rintro p' e hp' -
      cases e
      exact absurd hp' hp
  | cc n =>
    refine written_of_thread rfl (fun _ e => nomatch e) (Thread.sameBut_wrMask ..) (fun _ _ => Thread.tags_wrMask ..)
      (fun _ l h => Thread.bad_wrMask_other _ _ _ l h) (fun _ l h => Thread.rd_wrMask_other _ _ _ l h) ?_ ?_ (fun _ e => nomatch e)
    · rintro n' (e | ⟨p', e, -⟩) <;> cases e
    · rintro n' e l hl
      cases e
      have hlow : (v l).1 &&& 15#32 = BitVec.ofNat 32 ((v l).1.toNat % 16) := by
        refine BitVec.eq_of_toNat_eq ?_
        rw [BitVec.toNat_and, show (15#32 : Word).toNat = 2 ^ 4 - 1 from rfl, Nat.and_two_pow_sub_one_eq_mod, BitVec.toNat_ofNat]
        omega
      rw [Thread.rd_wrMask _ _ _ _ hl, hlow]
  | k n =>
    exact
      { state := rfl
        threads := fun _ _ => rfl
        thread := ⟨_, _, _, rfl⟩
        tags := fun _ _ => rfl
        struck := fun _ _ _ => rfl
        others := fun _ _ _ => rfl
        lanes := by rintro n' (e | ⟨p', e, -⟩) <;> cases e
        flags := fun _ e => nomatch e
        shared := fun _ e => nomatch e
        block := (State.block_modBlock ..).trans (if_neg hm).symm
        blocks := fun _ _ hne => State.block_modBlock_other _ _ hne }

/-! ## What a move reads is fixed at its bundle's start (03 R52 item 1) -/

/-- A block with other writes to its k registers still to come. -/
def sameReads (a b : Block) : Prop := ∃ w, b = { a with late := w }

theorem ident_of_sameReads {s u : State} {t : Tid} (hb : sameReads (s.block t.core t.ctx) (u.block t.core t.ctx))
    (hp : u.pack = s.pack) (sp : Split) (i : Ident) (l : Nat) : u.ident t sp i l = s.ident t sp i l := by
  obtain ⟨w, hb⟩ := hb
  cases i <;> simp only [State.ident, hb, hp]

theorem portReady_of_sameReads {a b : Block} (h : sameReads a b) (th : Thread) (evq : List Word) (t : Tid) (p : ResPort) (l : Nat) :
    portReady th evq b t p l = portReady th evq a t p l := by
  obtain ⟨w, rfl⟩ := h
  rfl

theorem srcRead_of_sameReads {s u : State} (hc : u.cur = s.cur)
    (hb : sameReads (s.block s.cur.tid.core s.cur.tid.ctx) (u.block s.cur.tid.core s.cur.tid.ctx)) (hp : u.pack = s.pack) (x : Src)
    (tr : Bool) (l : Nat) : u.srcRead x tr l = s.srcRead x tr l := by
  unfold State.srcRead
  simp only [hc, portReady_of_sameReads hb, ident_of_sameReads hb hp]
  obtain ⟨w, hb⟩ := hb
  rw [hb]

theorem srcWaits_of_sameReads {s u : State} (hc : u.cur = s.cur)
    (hb : sameReads (s.block s.cur.tid.core s.cur.tid.ctx) (u.block s.cur.tid.core s.cur.tid.ctx)) (x : Src) (tr : Bool) (m : Mask) :
    u.srcWaits x tr m = s.srcWaits x tr m := by
  unfold State.srcWaits
  simp only [hc, portReady_of_sameReads hb]

theorem Written.sameReads {s u : State} {d : Dst} {m : Mask} {v : Nat → Word × Bool} (w : Written s d m v u) :
    sameReads (s.block s.cur.tid.core s.cur.tid.ctx) (u.block s.cur.tid.core s.cur.tid.ctx) := by
  have hcur : u.cur = s.cur := by rw [w.state]
  have hblock := w.block
  simp only [State.selfBlock, hcur] at hblock
  rw [hblock]
  split
  · split
    · exact ⟨_, rfl⟩
    · exact ⟨_, rfl⟩
  · exact ⟨_, rfl⟩

/-! ## MOVE -/

/-- No tagged value goes to a k register or a cc register. -/
theorem moveTagged_eq_false {s : State} {h : Head} {d : Dst} {m : Mods} (hm : movable s h d m) (hg : s.guard h.guard ≠ 0#32) :
    s.moveTagged h.src d m (s.guard h.guard) = false := by
  obtain ⟨-, -, -, hk, hcc⟩ := hm
  cases d with
  | k n =>
    rw [State.moveTagged, lowest_eq_some hg]
    refine hk ⟨n, rfl⟩ _ ?_
    exact List.mem_of_mem_head? (lowest_eq_some hg)
  | cc n =>
    simp only [State.moveTagged, List.any_eq_false]
    exact fun l hl => by rw [State.delivered, hcc ⟨n, rfl⟩ l hl]; exact Bool.false_ne_true
  | _ => rfl

theorem alone_iff (s : State) : s.alone = true
    ↔ s.cur.on = true ∧ s.cur.phase = .whole ∧ s.cur.split < s.self.splits.length ∧ s.cur.takes = Takes.none_ := by
  simp [State.alone, and_assoc]

/-- A move that nothing holds back takes its effect whole. -/
theorem moveAction_outcome {s : State} {h : Head} {d : Dst} {m : Mods} (hm : movable s h d m) (hg : s.guard h.guard ≠ 0#32) :
    (moveAction h d m).outcome s = .next ((moveAction h d m).finish ((moveAction h d m).effect s)) := by
  have htag := moveTagged_eq_false hm hg
  obtain ⟨ha, hw, hf, -, -⟩ := hm
  obtain ⟨hon, hph, -, -⟩ := (alone_iff s).1 ha
  simp [Action.outcome, Action.run, Action.whole, Action.held, Action.fails, moveAction, Action.idle, hon, hph, hw, htag, State.faultTrap,
    hf]

theorem srcWaits_zero (s : State) (x : Src) (tr : Bool) : s.srcWaits x tr 0#32 = false := by
  have hnone : lanesOf 0#32 = [] := rfl
  cases x <;> simp [State.srcWaits, hnone]

theorem srcFault_zero (s : State) (x : Src) : s.srcFault x 0#32 = none := by
  have hnone : lanesOf 0#32 = [] := rfl
  cases x with
  | port p =>
    simp only [State.srcFault, Thread.struck, hnone, List.any_nil, List.filterMap_nil, List.head?_nil]
    split
    · contradiction
    · split
      · split <;> rfl
      · rfl
  | _ => simp [State.srcFault, Thread.struck, hnone]

theorem moveTagged_zero (s : State) (x : Src) (d : Dst) (m : Mods) : s.moveTagged x d m 0#32 = false := by
  have hnone : lanesOf 0#32 = [] := rfl
  have hlow : lowest 0#32 = none := rfl
  cases d <;> simp [State.moveTagged, hnone, hlow]

theorem notePop_zero (s : State) (x : Src) : s.notePop x 0#32 = s := by
  cases x <;> simp [State.notePop]

/-- A move whose guard is true nowhere changes nothing. -/
theorem moveAction_guarded_off {s : State} {h : Head} (d : Dst) (m : Mods) (ha : s.alone = true) (hg : s.guard h.guard = 0#32) :
    (moveAction h d m).outcome s = .next s := by
  obtain ⟨hon, hph, -, -⟩ := (alone_iff s).1 ha
  have hlow : lowest 0#32 = none := rfl
  have heffect : s.writeDst d 0#32 (s.delivered h.src m) = s := by simp [State.writeDst, hlow]
  have hcapture : s.capture h 0#32 (s.delivered h.src m) = s := by simp [State.capture]
  simp [Action.outcome, Action.run, Action.whole, Action.held, Action.fails, moveAction, Action.idle, hon, hph, hg, srcWaits_zero,
    moveTagged_zero, State.faultTrap, srcFault_zero, heffect, hcapture, notePop_zero]

/-- The end of a move's bundle: its latch takes what it delivered, and its source is popped where it asks for that. -/
theorem moveAction_finish {s u : State} {h : Head} {d : Dst} {m : Mods}
    (w : Written s d (s.guard h.guard) (delivers s h m) u) :
    Latched h (s.guard h.guard) (fun l => (delivers s h m l).1) (movePops s h m) u ((moveAction h d m).finish u) := by
  have hcur : u.cur = s.cur := by rw [w.state]
  have hpack : u.pack = s.pack := by rw [w.state]
  have hguard : u.guard h.guard = s.guard h.guard := by simp only [State.guard, hcur]
  have hreads : u.delivered h.src m = delivers s h m := by
    rw [← delivered_eq_delivers]
    funext l
    simp only [State.delivered, srcRead_of_sameReads hcur w.sameReads hpack]
  have hready : u.allReady h.src (s.guard h.guard) = !s.srcWaits h.src false (s.guard h.guard) := by
    rw [State.allReady, srcWaits_of_sameReads hcur w.sameReads]
  have hfinish : (moveAction h d m).finish u
      = (u.capture h (s.guard h.guard) (delivers s h m)).popIf (movePops s h m) h.src (s.guard h.guard) := by
    simp only [moveAction, hguard, hreads, hready]
    rfl
  rw [hfinish]
  exact State.capture_latched ..

end Sys2Proof.Claim

open Sys2Proof Sys2Proof.Claim

/-- Settles O14: the write of each destination, and the end of the move's bundle. -/
theorem moveDelivers : Obligations.MoveDelivers := by
  unfold Obligations.MoveDelivers
  refine fun h d m s => ⟨fun hm hg => ?_, fun ha hg => moveAction_guarded_off d m ha hg⟩
  have hwritten : Written s d (s.guard h.guard) (delivers s h m) (s.writeDst d (s.guard h.guard) (s.delivered h.src m)) := by
    rw [delivered_eq_delivers]
    exact written_writeDst s d _ hg
  exact ⟨_, _, moveAction_outcome hm hg, hwritten, moveAction_finish hwritten⟩

end

section
/-! SUPPORT. What a trigger does, whatever its effect, where the effect keeps what its bundle reads (03 R52 item 1). -/

open Sys2Proof.Machine

namespace Sys2Proof.Claim

/-! ## The view that a bundle has -/

/-- Two states show a bundle the same: its image, its split, the words and queues it was given, its block's names and k registers, and
the decisions that are pushed. -/
structure SameView (s u : State) : Prop where
  image : u.cur.image = s.cur.image
  split : u.cur.split = s.cur.split
  tid : u.cur.tid = s.cur.tid
  evq : u.cur.evq = s.cur.evq
  dq : u.cur.dq = s.cur.dq
  imms : u.cur.imms = s.cur.imms
  pack : u.pack.pkg = s.pack.pkg
  k : u.selfBlock.k = s.selfBlock.k
  block : u.selfBlock.block = s.selfBlock.block
  nblk : u.selfBlock.nblk = s.selfBlock.nblk
  gslot : u.selfBlock.gslot = s.selfBlock.gslot
  pushed : u.selfBlock.dqPushed = s.selfBlock.dqPushed

theorem SameView.refl (s : State) : SameView s s := ⟨rfl, rfl, rfl, rfl, rfl, rfl, rfl, rfl, rfl, rfl, rfl, rfl⟩

theorem SameView.trans {s u v : State} (a : SameView s u) (b : SameView u v) : SameView s v :=
  ⟨b.image.trans a.image, b.split.trans a.split, b.tid.trans a.tid, b.evq.trans a.evq, b.dq.trans a.dq, b.imms.trans a.imms,
    b.pack.trans a.pack, b.k.trans a.k, b.block.trans a.block, b.nblk.trans a.nblk, b.gslot.trans a.gslot, b.pushed.trans a.pushed⟩

/-- A state that differs in other parts than the bundle's record, the block and the package shows the same. -/
theorem SameView.of_eq {s u : State} (hc : u.cur = s.cur) (hb : u.selfBlock = s.selfBlock) (hp : u.pack = s.pack) : SameView s u := by
  constructor <;> simp only [hc, hb, hp]

theorem SameView.guard {s u : State} (v : SameView s u) (g : Guard) : u.guard g = s.guard g := by
  simp only [State.guard, v.image, v.split]

theorem SameView.selfBlock {s u : State} (v : SameView s u) : u.block s.cur.tid.core s.cur.tid.ctx = u.selfBlock := by
  rw [State.selfBlock, v.tid]

theorem SameView.ident {s u : State} (v : SameView s u) (sp : Split) (i : Ident) (l : Nat) :
    u.ident s.cur.tid sp i l = s.ident s.cur.tid sp i l := by
  have hblock := v.block
  have hnblk := v.nblk
  have hgslot := v.gslot
  rw [← v.selfBlock] at hblock hnblk hgslot
  cases i
  case block => exact congrArg w32 hblock
  case nblk => exact congrArg w32 hnblk
  case gslot => exact congrArg w32 hgslot
  case pkg => exact congrArg w32 v.pack
  all_goals rfl

theorem SameView.portReady {s u : State} (v : SameView s u) (th : Thread) (evq : List Word) (t : Tid) (p : ResPort) (l : Nat) :
    portReady th evq u.selfBlock t p l = portReady th evq s.selfBlock t p l := by
  unfold Machine.portReady
  simp only [v.pushed]

theorem SameView.srcRead {s u : State} (v : SameView s u) (x : Src) (tr : Bool) (l : Nat) : u.srcRead x tr l = s.srcRead x tr l := by
  have hb : u.block s.cur.tid.core s.cur.tid.ctx = u.selfBlock := v.selfBlock
  have hb' : s.block s.cur.tid.core s.cur.tid.ctx = s.selfBlock := rfl
  cases x with
  | ident i => simp only [State.srcRead, v.image, v.split, v.tid, v.ident]
  | k n => simp only [State.srcRead, v.tid, hb, hb', v.k]
  | port p => simp only [State.srcRead, v.image, v.tid, v.evq, v.dq, hb, hb', v.portReady]
  | _ => simp only [State.srcRead, v.image, v.split, v.imms]

theorem SameView.trig {s u : State} (v : SameView s u) (h : Head) : (fun l => (u.srcRead h.src false l).1) = s.trig h := by
  funext l
  rw [v.srcRead]
  rfl

theorem SameView.modThread (s : State) (t : Tid) (f : Thread → Thread) : SameView s (s.modThread t f) := .of_eq rfl rfl rfl

theorem SameView.of_block {s u : State} (hc : u.cur = s.cur) (hp : u.pack = s.pack) {b : Block} (hb : u.selfBlock = b)
    (hk : b.k = s.selfBlock.k) (hblock : b.block = s.selfBlock.block) (hnblk : b.nblk = s.selfBlock.nblk)
    (hgslot : b.gslot = s.selfBlock.gslot) (hpushed : b.dqPushed = s.selfBlock.dqPushed) : SameView s u := by
  subst hb
  constructor <;> simp only [hc, hp, hk, hblock, hnblk, hgslot, hpushed]

/-! ## What a trigger does -/

/-- A trigger that is primed and free, and whose effect shows its bundle the same, answers its effect, after which its latch takes the
value that it delivered. -/
theorem Action.trigger_view {h : Head} {r : Reads} {a : Action} {s : State} (hp : s.primed h r = true) (f : a.Free s)
    (v : SameView s (a.effect s)) :
    ∃ t, (Action.trigger h r a).outcome s = .next t ∧ Latched h (s.guard h.guard) (s.trig h) true (a.effect s) t := by
  obtain ⟨t, e, k⟩ := Action.trigger_ends hp f
  rw [v.guard, v.trig] at k
  exact ⟨t, e, k⟩

/-- What a trigger does, from its parts: it is free wherever the condition holds, and its effect is the state given. -/
theorem does_of {i : Instr} {h : Head} {r : Reads} {ok : State → Prop} {after : State → State} (a : Action)
    (hexec : ∀ s, exec i s = (Action.trigger h r a).outcome s)
    (hfree : ∀ s, s.primed h r = true → ok s → a.Free s)
    (heffect : ∀ s, s.primed h r = true → ok s → a.effect s = after s)
    (hview : ∀ s, s.primed h r = true → ok s → SameView s (after s)) : does i h r ok after := by
  intro s hp hok
  have he := heffect s hp hok
  obtain ⟨t, ht, hl⟩ := Action.trigger_view hp (hfree s hp hok) (he ▸ hview s hp hok)
  exact ⟨t, (hexec s).trans ht, he ▸ hl⟩

/-- A thread changes by what a function gives of it as it stands. -/
theorem modThread_congr {s : State} {t : Tid} {f g : Thread → Thread} (h : f (s.thread t) = g (s.thread t)) :
    s.modThread t f = s.modThread t g := by
  simp only [State.modThread, h]

/-! ## What a split-wide trigger reads (04 R64) -/

theorem leadLane_eq (s : State) (h : Head) : s.leadLane h = lowestIn (s.guard h.guard) := lowest_eq_lowestIn _

theorem lead_eq_leadT (s : State) (h : Head) : s.lead h = leadT h s := by rw [State.lead, leadLane_eq, leadT]

theorem leadOper_eq_leadOp (s : State) (h : Head) (p : OpPort) : s.leadOper h p = leadOp p h s := by
  rw [State.leadOper, leadLane_eq]
  rfl

theorem firstActive_eq (s : State) : s.firstActive = lowestIn (activeLanes s) := lowest_eq_lowestIn _

end Sys2Proof.Claim
end

section
/-! SUPPORT. Control (04 R63 to R82): branches, splits, loops, switches and waits. -/

open Sys2Proof.Machine

namespace Sys2Proof.Claim

/-! ## Branches (04 R67, R75) -/

theorem leavesBody_eq_false {s : State} {a : Word} (h : staysInside s a) : s.leavesBody a = false := by
  unfold State.leavesBody
  split
  · next l hl => rw [h l hl]; rfl
  · rfl

theorem leavesBody_eq_true {s : State} {a : Word} {l : LoopLevel} (hl : (issuing s).loops.getLast? = some l)
    (ha : insideBody l a = false) : s.leavesBody a = true := by
  unfold State.leavesBody
  rw [show s.loops.getLast? = some l from hl]
  simp [ha]

/-- A control trigger is free where its own check passes. -/
theorem controlAction_does {i : Instr} {h : Head} {t : Bool} {own : State → Option TrapRec} {effect after : State → State}
    {ok : State → Prop} (hexec : ∀ s, exec i s = (controlAction h t own effect).outcome s)
    (hown : ∀ s, ok s → own s = none) (heffect : ∀ s, ok s → effect s = after s) (hview : ∀ s, SameView s (after s)) :
    does i h (wideReads [] t) ok after :=
  does_of { Action.idle with own := own, effect := effect } hexec (fun s _ hok => ⟨rfl, rfl, rfl, rfl, rfl, rfl, hown s hok⟩)
    (fun s _ hok => heffect s hok) (fun s _ _ => hview s)

theorem sameView_jumps (s : State) (a : Word) : SameView s (jumps s a) :=
  SameView.modThread s s.cur.tid fun th => th.modSplit s.cur.split fun sp => { sp with pc := a, arrive := .jump }

theorem bra_does (h : Head) : does (.bra h) h (wideReads [] true) (fun s => staysInside s (s.cur.pc + leadT h s))
    (fun s => jumps s (s.cur.pc + leadT h s)) := by
  refine controlAction_does (fun _ => rfl) (fun s hs => ?_) (fun s _ => ?_) (fun s => sameView_jumps s _)
  · have hstay : s.leavesBody (s.relTarget (s.lead h)) = false := by
      rw [lead_eq_leadT]
      exact leavesBody_eq_false hs
    simp [braCheck, hstay]
  · rw [lead_eq_leadT]
    rfl

theorem call_does (h : Head) : does (.call h) h (wideReads [] true)
    (fun s => (s.cur.pc + leadT h s).toNat % 128 = 8 ∧ (issuing s).loops = [])
    (fun s => jumps (setThread s fun th => th.wrMask (.res .cq) (activeLanes s) fun _ => s.cur.next) (s.cur.pc + leadT h s)) := by
  refine controlAction_does (fun _ => rfl) (fun s hs => ?_) (fun s _ => ?_)
    (fun s => (SameView.modThread s _ _).trans (sameView_jumps _ _))
  · have hword : (s.relTarget (s.lead h)).toNat % 128 = 8 := by
      rw [lead_eq_leadT]
      exact hs.1
    have hloops : s.loops = [] := hs.2
    simp [callCheck, hword, hloops]
  · rw [lead_eq_leadT]
    rfl

theorem ret_does (h : Head) : does (.ret h) h (wideReads [] true) (fun s => (issuing s).loops = []) (fun s => jumps s (leadT h s)) := by
  refine controlAction_does (fun _ => rfl) (fun s hs => ?_) (fun s _ => ?_) (fun s => sameView_jumps s _)
  · have hloops : s.loops = [] := hs
    simp [retCheck, hloops]
  · rw [lead_eq_leadT]
    rfl

theorem lext_does (h : Head) : does (.lext h) h (wideReads [] true)
    (fun s => ∃ l, (issuing s).loops.getLast? = some l ∧ insideBody l (s.cur.pc + leadT h s) = false)
    (fun s => jumps (setSelf s fun sp => { sp with loops := sp.loops.dropLast }) (s.cur.pc + leadT h s)) := by
  refine controlAction_does (fun _ => rfl) (fun s hs => ?_) (fun s _ => ?_)
    (fun s => (SameView.modThread s _ _).trans (sameView_jumps _ _))
  · obtain ⟨l, hl, hout⟩ := hs
    have hlast : s.loops.getLast? = some l := hl
    have hbody : insideBody l (s.relTarget (s.lead h)) = false := by
      rw [lead_eq_leadT]
      exact hout
    simp [lextCheck, hlast, hbody]
  · rw [lead_eq_leadT]
    rfl

theorem bra_traps {h : Head} {s : State} (hp : s.primed h (wideReads [] true) = true)
    (hl : ∃ l, (issuing s).loops.getLast? = some l ∧ insideBody l (s.cur.pc + leadT h s) = false) :
    exec (.bra h) s = trapsWith s 0x02 (s.cur.pc + leadT h s) := by
  obtain ⟨l, hl, hout⟩ := hl
  refine Action.trigger_traps (a := { Action.idle with own := braCheck h, effect := _ }) hp rfl rfl rfl rfl rfl rfl ?_
  show braCheck h s = _
  simp only [braCheck, lead_eq_leadT]
  exact if_pos (leavesBody_eq_true hl hout)

/-! ## BRC (04 R69) -/

/-- The parts of BRC. -/
def brcParts (h : Head) : Action :=
  { Action.idle with
    waits := brcWaits h
    needs := brcNeeds h
    poison := brcTagged h
    own := brcCheck h
    effect := fun s =>
      let m := s.guard h.guard
      let a := s.relTarget (s.lead h)
      if m = s.active then s.goTo a .jump
      else s.modThread s.cur.tid fun th =>
        th.divide s.cur.split m a s.joinTarget s.cur.next s.cur.delay (s.newPlace s.cur.tid) }

theorem brc_exec (h : Head) (s : State) : exec (.brc h) s = (Action.trigger h (wideReads [] true) (brcParts h)).outcome s := rfl

theorem active_eq (s : State) : s.active = activeLanes s := rfl

theorem relTarget_eq (s : State) (a : Word) : s.relTarget a = s.cur.pc + a := rfl

theorem joinTarget_eq (s : State) : s.joinTarget = joinAddress s := by
  rw [State.joinTarget, firstActive_eq]
  rfl

theorem brc_whole_does (h : Head) : does (.brc h) h (wideReads [] true)
    (fun s => s.guard h.guard = activeLanes s ∧ staysInside s (s.cur.pc + leadT h s)) (fun s => jumps s (s.cur.pc + leadT h s)) := by
  refine does_of (brcParts h) (brc_exec h) (fun s _ hs => ?_) (fun s _ hs => ?_) (fun s _ _ => sameView_jumps s _)
  · obtain ⟨hall, hin⟩ := hs
    have hstay : s.leavesBody (s.relTarget (s.lead h)) = false := by
      rw [lead_eq_leadT]
      exact leavesBody_eq_false hin
    refine ⟨?_, ?_, rfl, rfl, rfl, ?_, ?_⟩
    · simp [brcParts, brcWaits, hall, active_eq]
    · simp [brcParts, brcNeeds, hall, active_eq]
    · simp [brcParts, brcTagged, hall, active_eq]
    · simp [brcParts, brcCheck, hall, active_eq, hstay]
  · have hall : s.guard h.guard = s.active := hs.1
    simp only [brcParts, if_pos hall, lead_eq_leadT]
    rfl

/-- A BRC that divides is held back by nothing and breaks none of its checks. -/
theorem brcParts_free {h : Head} {s : State} {e : Nat} (hd : divides h s e) : (brcParts h).Free s := by
  obtain ⟨hne, hca, ⟨la, hla, hta⟩, ⟨lj, hlj, htj⟩, hin, hjoin, hyield⟩ := hd
  have hguard : ¬s.guard h.guard = s.active := hne
  have hstay : s.leavesBody (s.cur.pc + leadT h s) = false := leavesBody_eq_false hin
  refine ⟨?_, ?_, rfl, rfl, rfl, ?_, ?_⟩
  · show brcWaits h s = false
    rcases hyield with hy | hf
    · simp [brcWaits, State.yielding, hy]
    · simp [brcWaits, hf]
  · show brcNeeds h s = none
    simp [brcNeeds, hguard, State.brcLacks, lead_eq_leadT, joinTarget_eq, relTarget_eq, hla, hta, hlj]
  · show brcTagged h s = none
    simp [brcTagged, firstActive_eq, hca]
  · show brcCheck h s = none
    simp [brcCheck, hguard, State.brcTargets, lead_eq_leadT, joinTarget_eq, relTarget_eq, hla, hta, hlj, htj, hstay, hjoin]

/-- What a dividing BRC does to its thread. -/
theorem brc_divides_does (h : Head) (e : Nat) {ok : State → Prop} {after : State → Thread → Thread}
    (hok : ∀ s, ok s → divides h s e)
    (hafter : ∀ s, ok s → s.self.divide s.cur.split (s.guard h.guard) (s.cur.pc + leadT h s) (joinAddress s) s.cur.next s.cur.delay
      (s.newPlace s.cur.tid) = after s s.self) :
    does (.brc h) h (wideReads [] true) ok fun s => setThread s (after s) := by
  refine does_of (brcParts h) (brc_exec h) (fun s _ hs => brcParts_free (hok s hs)) (fun s _ hs => ?_)
    (fun s _ _ => SameView.modThread s s.cur.tid _)
  have hguard : ¬s.guard h.guard = s.active := (hok s hs).1
  simp only [brcParts, if_neg hguard, lead_eq_leadT, joinTarget_eq, relTarget_eq]
  exact modThread_congr (hafter s hs)

theorem brc_peers_does (h : Head) (e k : Nat) :
    does (.brc h) h (wideReads [] true) (fun s => divides h s e ∧ s.self.freeSplit = some k) fun s =>
      divided s (s.guard h.guard) (s.cur.pc + leadT h s) (joinAddress s) e k := by
  refine brc_divides_does h e (fun s hs => hs.1) fun s hs => ?_
  obtain ⟨⟨-, -, -, -, -, hjoin, -⟩, hfree⟩ := hs
  simp only [Thread.divide, hjoin, hfree]

theorem brc_serial_does (h : Head) (e : Nat) :
    does (.brc h) h (wideReads [] true) (fun s => divides h s e ∧ s.self.freeSplit = none) fun s =>
      serialised s (s.guard h.guard) (s.cur.pc + leadT h s) (joinAddress s) e := by
  refine brc_divides_does h e (fun s hs => hs.1) fun s hs => ?_
  obtain ⟨⟨-, -, -, -, -, hjoin, -⟩, hfree⟩ := hs
  simp only [Thread.divide, hjoin, hfree]

/-! ## JOIN (04 R70) -/

/-- The parts of JOIN. -/
def joinParts : Action :=
  { Action.idle with
    own := joinCheck
    effect := fun s => match s.joinEntry with
      | some e => s.modThread s.cur.tid fun th => th.arriveJoin s.clk s.cur.split e s.cur.delay s.cur.next
      | none => s }

theorem join_exec (x : Src) (k : Fin 4) (s : State) :
    exec (.join x k) s = (Action.trigger { guard := .always, src := x, hold := k } (wideReads [] false) joinParts).outcome s := rfl

theorem joinEntry_eq_none {s : State} (h : ∀ e, (s.self.split s.cur.split).entry = some e → (s.self.join e).join ≠ s.cur.pc) :
    s.joinEntry = none := by
  unfold State.joinEntry
  split
  · next e he => exact if_neg (h e he)
  · rfl

theorem joinEntry_eq_some {s : State} {e : Nat} (he : (s.self.split s.cur.split).entry = some e)
    (hj : (s.self.join e).join = s.cur.pc) : s.joinEntry = some e := by
  rw [State.joinEntry, State.selfSplit, he]
  exact if_pos hj

theorem join_elsewhere_does (x : Src) (k : Fin 4) : does (.join x k) { guard := .always, src := x, hold := k } (wideReads [] false)
    (fun s => ∀ e, (s.self.split s.cur.split).entry = some e → (s.self.join e).join ≠ s.cur.pc) id := by
  refine does_of joinParts (join_exec x k) (fun s _ hs => ⟨rfl, rfl, rfl, rfl, rfl, rfl, ?_⟩) (fun s _ hs => ?_)
    (fun s _ _ => .refl s)
  · simp only [joinParts, joinCheck, joinEntry_eq_none hs]
  · simp only [joinParts, joinEntry_eq_none hs]
    rfl

/-- A JOIN at its split's own entry, with the loop state of those that came before, arrives there. -/
theorem join_arrives_does (x : Src) (k : Fin 4) (e : Nat) {ok : State → Prop} {after : State → Thread}
    (hok : ∀ s, ok s → joinsAt s e)
    (hafter : ∀ s, ok s → (((arrivedAt s e).startHeld s.clk e).tryMerge s.clk e) = after s) :
    does (.join x k) { guard := .always, src := x, hold := k } (wideReads [] false) ok fun s => setThread s fun _ => after s := by
  refine does_of joinParts (join_exec x k) (fun s _ hs => ⟨rfl, rfl, rfl, rfl, rfl, rfl, ?_⟩) (fun s _ hs => ?_)
    (fun s _ _ => SameView.modThread s s.cur.tid _)
  · obtain ⟨hentry, -, -, hpc, hsame⟩ := hok s hs
    have hloops : (s.self.join e).arrived = 0#32 ∨ sameLoops s.loops (s.self.join e).loops = true := hsame
    show joinCheck s = none
    rw [joinCheck, joinEntry_eq_some hentry hpc]
    rcases hloops with h0 | hl
    · simp [h0]
    · simp [hl]
  · obtain ⟨hentry, -, -, hpc, -⟩ := hok s hs
    simp only [joinParts, joinEntry_eq_some hentry hpc]
    exact modThread_congr (hafter s hs)

theorem join_setJoin (th : Thread) {e : Nat} (j : JoinEntry) (h : e < th.joins.length) : (th.setJoin e j).join e = j := by
  simp [Thread.join, Thread.setJoin, setAt, h]

/-- The entry once the issuing split has arrived. -/
def arrivedEntry (s : State) (e : Nat) : JoinEntry :=
  let sp := s.self.split s.cur.split
  let j := s.self.join e
  { j with
    arrived := j.arrived ||| sp.mask, loops := sp.loops, sched := sp.sched, rep := sp.rep, late := max j.late s.cur.delay,
    since := s.clk, first := if j.arrived = 0#32 then s.clk else j.first, after := s.cur.next }

theorem join_arrivedAt {s : State} {e : Nat} (h : e < s.self.joins.length) : (arrivedAt s e).join e = arrivedEntry s e :=
  join_setJoin s.self _ h

theorem subMask_iff (a b : Mask) : subMask a b = true ↔ a &&& ~~~b = 0#32 := beq_iff_eq

/-- An entry that holds no lane starts none. -/
theorem startHeld_of_held_zero {th : Thread} {clk e : Nat} (h : (th.join e).held = 0#32) : th.startHeld clk e = th := by
  simp [Thread.startHeld, h]

/-- An entry that still expects lanes does not merge. -/
theorem tryMerge_of_not_last {th : Thread} {clk e : Nat} (h : subMask (th.join e).expect (th.join e).arrived = false) :
    th.tryMerge clk e = th := by
  simp [Thread.tryMerge, h]

theorem subMask_of_not_last {s : State} {e : Nat} (h : ¬lastAt s e) :
    subMask (arrivedEntry s e).expect (arrivedEntry s e).arrived = false :=
  eq_false_of_ne_true fun hs => h ((subMask_iff _ _).1 hs)

theorem join_waits_does (x : Src) (k : Fin 4) (e : Nat) :
    does (.join x k) { guard := .always, src := x, hold := k } (wideReads [] false)
      (fun s => joinsAt s e ∧ (s.self.join e).held = 0#32 ∧ ¬lastAt s e) fun s => setThread s fun _ => arrivedAt s e := by
  refine join_arrives_does x k e (fun s hs => hs.1) fun s hs => ?_
  obtain ⟨⟨-, hlt, -⟩, hheld, hlast⟩ := hs
  have hj := join_arrivedAt hlt
  have hheld' : ((arrivedAt s e).join e).held = 0#32 := by rw [hj]; exact hheld
  rw [startHeld_of_held_zero hheld', tryMerge_of_not_last (by rw [hj]; exact subMask_of_not_last hlast)]

theorem join_merges_does (x : Src) (k : Fin 4) (e i : Nat) :
    does (.join x k) { guard := .always, src := x, hold := k } (wideReads [] false)
      (fun s => joinsAt s e ∧ (s.self.join e).held = 0#32 ∧ lastAt s e
        ∧ (s.self.join e).arrived ||| (s.self.split s.cur.split).mask ≠ 0#32 ∧ (arrivedAt s e).freeSplit = some i)
      fun s => setThread s fun _ => ((arrivedAt s e).setSplit i (mergedSplit s e)).setJoin e JoinEntry.empty := by
  refine join_arrives_does x k e (fun s hs => hs.1) fun s hs => ?_
  obtain ⟨⟨-, hlt, hused, -⟩, hheld, hlast, hsome, hfree⟩ := hs
  have hj := join_arrivedAt hlt
  have hheld' : ((arrivedAt s e).join e).held = 0#32 := by rw [hj]; exact hheld
  have hgo : (!(arrivedEntry s e).used || decide ((arrivedEntry s e).held ≠ 0#32) || decide ((arrivedEntry s e).arrived = 0#32)
      || !subMask (arrivedEntry s e).expect (arrivedEntry s e).arrived) = false := by
    have hsub : subMask (arrivedEntry s e).expect (arrivedEntry s e).arrived = true := (subMask_iff _ _).2 hlast
    have hused' : (arrivedEntry s e).used = true := hused
    have hheld'' : (arrivedEntry s e).held = 0#32 := hheld
    have hsome' : (arrivedEntry s e).arrived ≠ 0#32 := hsome
    simp [hsub, hused', hheld'', hsome']
  rw [startHeld_of_held_zero hheld', Thread.tryMerge]
  simp only [hj, hgo, hfree]
  rfl

theorem join_starts_does (x : Src) (k : Fin 4) (e i : Nat) :
    does (.join x k) { guard := .always, src := x, hold := k } (wideReads [] false)
      (fun s => joinsAt s e ∧ (s.self.join e).serial = true ∧ (s.self.join e).held ≠ 0#32 ∧ ¬lastAt s e
        ∧ (arrivedAt s e).freeSplit = some i)
      fun s => setThread s fun _ => ((arrivedAt s e).setSplit i (heldSplit s e)).setJoin e
        { (arrivedAt s e).join e with held := 0#32, resume := 0#32 } := by
  refine join_arrives_does x k e (fun s hs => hs.1) fun s hs => ?_
  obtain ⟨⟨-, hlt, hused, -⟩, hserial, hheld, hlast, hfree⟩ := hs
  have hj := join_arrivedAt hlt
  have hlen : e < ((arrivedAt s e).setSplit i (heldSplit s e)).joins.length := by
    show e < (s.self.joins.set e _).length
    rwa [List.length_set]
  have hgo : (!(arrivedEntry s e).used || !(arrivedEntry s e).serial || decide ((arrivedEntry s e).held = 0#32)) = false := by
    have hused' : (arrivedEntry s e).used = true := hused
    have hserial' : (arrivedEntry s e).serial = true := hserial
    have hheld' : (arrivedEntry s e).held ≠ 0#32 := hheld
    simp [hused', hserial', hheld']
  have hstart : (arrivedAt s e).startHeld s.clk e = ((arrivedAt s e).setSplit i (heldSplit s e)).setJoin e
      { (arrivedAt s e).join e with held := 0#32, resume := 0#32 } := by
    rw [Thread.startHeld]
    simp only [hj, hgo, hfree]
    rfl
  rw [hstart]
  refine tryMerge_of_not_last ?_
  rw [join_setJoin _ _ hlen, hj]
  exact subMask_of_not_last hlast

theorem join_traps (x : Src) (k : Fin 4) {e : Nat} {s : State}
    (hp : s.primed { guard := .always, src := x, hold := k } (wideReads [] false) = true)
    (hentry : (s.self.split s.cur.split).entry = some e) (hpc : (s.self.join e).join = s.cur.pc)
    (harr : (s.self.join e).arrived ≠ 0#32) (hloops : sameLoops (issuing s).loops (s.self.join e).loops = false) :
    exec (.join x k) s = trapsWith s 0x02 s.cur.pc := by
  refine Action.trigger_traps (a := joinParts) hp rfl rfl rfl rfl rfl rfl ?_
  have hloops' : sameLoops s.loops (s.self.join e).loops = false := hloops
  show joinCheck s = _
  rw [joinCheck, joinEntry_eq_some hentry hpc]
  simp [harr, hloops']
  rfl

/-! ## Loops (04 R71 to R73) -/

/-- The parts of LOOP. -/
def loopParts (x : Src) (k : Fin 4) : Action :=
  { Action.idle with
    needs := fun s => s.loopNeeds
    own := loopCheck (alwaysHead x k)
    effect := fun s => match s.loopBody with
      | .found lback => s.openLoop (s.trig (alwaysHead x k) s.firstActive) (s.oper .ca s.firstActive) lback
      | _ => s }

theorem loop_exec (x : Src) (k : Fin 4) (s : State) :
    exec (.loop x k) s = (Action.trigger { guard := .always, src := x, hold := k } (wideReads [.ca] true) (loopParts x k)).outcome s := rfl

/-- The number of stages that a ring word names (01 R10). -/
theorem stages_eq (w : Word) : w.bits 31 30 = w.toNat / 2 ^ 30 := by
  have := w.isLt
  simp only [Word.bits]
  omega

theorem loopParts_free {x : Src} {k : Fin 4} {s : State} {lback : Word} (hdepth : (issuing s).loops.length < 2)
    (hbody : s.loopBody = .found lback)
    (hring : ringBad s.regLimit (s.self.rd (.op .ca) (lowestIn (activeLanes s))) (issuing s).loops = false) :
    (loopParts x k).Free s := by
  have hdepth' : ¬2 ≤ s.loops.length := Nat.not_le.2 hdepth
  have hfault : s.bodyFault = none := by simp only [State.bodyFault, hbody]
  have hring' : ringBad s.regLimit (s.oper .ca s.firstActive) s.loops = false := by rw [firstActive_eq]; exact hring
  refine ⟨rfl, ?_, rfl, rfl, rfl, rfl, ?_⟩
  · show s.loopNeeds = none
    simp only [State.loopNeeds, hbody, hfault, if_neg hdepth']
  · show loopCheck (alwaysHead x k) s = none
    simp only [loopCheck, if_neg hdepth', hfault, hbody, hring']
    rfl

theorem loop_does (x : Src) (k : Fin 4) (lback : Word) {ok : State → Prop} {after : State → State}
    (hok : ∀ s, ok s → (issuing s).loops.length < 2 ∧ s.loopBody = .found lback
      ∧ ringBad s.regLimit (s.self.rd (.op .ca) (lowestIn (activeLanes s))) (issuing s).loops = false)
    (hafter : ∀ s, ok s → s.openLoop (s.trig { guard := .always, src := x, hold := k } (lowestIn (activeLanes s)))
      (s.self.rd (.op .ca) (lowestIn (activeLanes s))) lback = after s)
    (hview : ∀ s, SameView s (after s)) :
    does (.loop x k) { guard := .always, src := x, hold := k } (wideReads [.ca] true) ok after := by
  refine does_of (loopParts x k) (loop_exec x k) (fun s _ hs => ?_) (fun s _ hs => ?_) (fun s _ _ => hview s)
  · obtain ⟨hdepth, hbody, hring⟩ := hok s hs
    exact loopParts_free hdepth hbody hring
  · obtain ⟨-, hbody, -⟩ := hok s hs
    simp only [loopParts, hbody, firstActive_eq]
    exact hafter s hs

theorem openLoop_opens {s : State} {n ring lback : Word} (h : n.toNat + (ring.toNat / 2 ^ 30 + 1) - 1 ≠ 0) :
    s.openLoop n ring lback = setSelf s fun sp =>
      { sp with loops := sp.loops ++ [{ n := n.toNat, i := 0, ring := ring, body := s.cur.next, lback := lback }] } := by
  rw [State.openLoop, stages_eq]
  exact if_neg h

theorem openLoop_skips {s : State} {n ring lback : Word} (h : n.toNat + (ring.toNat / 2 ^ 30 + 1) - 1 = 0) :
    s.openLoop n ring lback
      = setSelf s fun sp => { sp with pc := nextBundle ((s.codeLine s.cur.tid lback).getD []) lback, arrive := .back } := by
  rw [State.openLoop, stages_eq]
  exact if_pos h

/-- The parts of LBACK. -/
def lbackParts : Action := { Action.idle with own := lbackCheck, effect := fun s => s.closeBody }

theorem lback_exec (x : Src) (k : Fin 4) (s : State) :
    exec (.lback x k) s = (Action.trigger { guard := .always, src := x, hold := k } (wideReads [] false) lbackParts).outcome s := rfl

theorem lback_does (x : Src) (k : Fin 4) (l : LoopLevel) {ok : State → Prop} {after : State → State}
    (hok : ∀ s, ok s → (issuing s).loops.getLast? = some l ∧ l.lback = s.cur.pc)
    (hafter : ∀ s, ok s → s.closeBody = after s) (hview : ∀ s, SameView s (after s)) :
    does (.lback x k) { guard := .always, src := x, hold := k } (wideReads [] false) ok after := by
  refine does_of lbackParts (lback_exec x k) (fun s _ hs => ⟨rfl, rfl, rfl, rfl, rfl, rfl, ?_⟩) (fun s _ hs => hafter s hs)
    (fun s _ _ => hview s)
  obtain ⟨hlast, hpc⟩ := hok s hs
  show lbackCheck s = none
  rw [lbackCheck, show s.loops.getLast? = some l from hlast]
  exact if_pos hpc

theorem closeBody_turns {s : State} {l : LoopLevel} (hl : (s.self.split s.cur.split).loops.getLast? = some l)
    (h : l.i + 2 < l.n + l.stages) :
    s.closeBody = setSelf s fun sp =>
      { sp with loops := sp.loops.dropLast ++ [{ l with i := l.i + 1 }], pc := l.body, arrive := .back } := by
  rw [State.closeBody, State.selfSplit, hl]
  exact if_pos h

theorem closeBody_closes {s : State} {l : LoopLevel} (hl : (s.self.split s.cur.split).loops.getLast? = some l)
    (h : l.n + l.stages ≤ l.i + 2) : s.closeBody = setSelf s fun sp => { sp with loops := sp.loops.dropLast } := by
  rw [State.closeBody, State.selfSplit, hl]
  exact if_neg (Nat.not_lt.2 h)

theorem sameView_setSelf (s : State) (f : Split → Split) : SameView s (setSelf s f) :=
  SameView.modThread s s.cur.tid fun th => th.modSplit s.cur.split f

/-! ## PSW, BRK, TRAP and WAIT (04 R80 to R82, 16 R313) -/

theorem wait_does (h : Head) : does (.wait h) h (wideReads [] true) (fun _ => True)
    (fun s => setSelf s fun sp => { sp with ready := sp.ready + (leadT h s).toNat, waited := true }) := by
  refine controlAction_does (fun _ => rfl) (fun _ _ => rfl) (fun s _ => ?_) (fun s => sameView_setSelf s _)
  simp only [lead_eq_leadT]
  rfl

theorem granted_eq (s : State) : s.granted = s.selfCore.level.toNat % 4 := by simp [State.granted, Word.bits]

theorem psw_same_does (h : Head) : does (.psw h) h (wideReads [] true)
    (fun s => s.selfCore.level.toNat % 4 = (s.self.split s.cur.split).sched) id := by
  refine controlAction_does (fun _ => rfl) (fun s hs => ?_) (fun s hs => ?_) (fun s => .refl s)
  · rw [pswCheck, granted_eq]
    exact if_pos hs
  · rw [granted_eq]
    exact if_pos hs

theorem switchWord_eq (s : State) (e : Word) : s.switchWord e = BitVec.ofNat 32 (s.selfBlock.swtab.toNat / 256 * 256
    + (e.toNat * 3 + s.selfCore.level.toNat % 4) * 4) := by
  have hbase : s.selfBlock.swtab.bits 31 8 = s.selfBlock.swtab.toNat / 256 := by
    have := s.selfBlock.swtab.isLt
    simp only [Word.bits]
    omega
  rw [State.switchWord, hbase, granted_eq]
  rfl

theorem psw_switch_does (h : Head) : does (.psw h) h (wideReads [] true)
    (fun s => s.selfCore.level.toNat % 4 ≠ (s.self.split s.cur.split).sched ∧ (leadT h s).toNat < s.selfBlock.swtab.toNat % 256)
    (fun s => setSelf s fun sp =>
      { sp with switch_ := some (BitVec.ofNat 32 (s.selfBlock.swtab.toNat / 256 * 256
          + ((leadT h s).toNat * 3 + s.selfCore.level.toNat % 4) * 4), s.selfCore.level.toNat % 4) }) := by
  have hcount : ∀ s : State, s.selfBlock.swtab.bits 7 0 = s.selfBlock.swtab.toNat % 256 := fun s => by simp [Word.bits]
  refine controlAction_does (fun _ => rfl) (fun s hs => ?_) (fun s hs => ?_) (fun s => sameView_setSelf s _)
  · rw [pswCheck, granted_eq, lead_eq_leadT, hcount]
    exact (if_neg hs.1).trans (if_neg (Nat.not_le.2 hs.2))
  · rw [granted_eq, lead_eq_leadT, switchWord_eq]
    exact if_neg hs.1

theorem noteAfter_eq {s : State} (h : s.cur.after = none) (cause : Nat) (v : Word) :
    s.noteAfter cause v
      = { s with cur := { s.cur with after := some { cause := cause, tval := v, telem := 0, tepc := s.cur.next } } } := by
  rw [State.noteAfter, h]

theorem sameView_after (s : State) (r : Option TrapRec) : SameView s { s with cur := { s.cur with after := r } } :=
  ⟨rfl, rfl, rfl, rfl, rfl, rfl, rfl, rfl, rfl, rfl, rfl, rfl⟩

theorem brk_does (h : Head) : does (.brk h) h (wideReads [] true) (fun s => s.cur.after = none)
    (fun s => { s with cur := { s.cur with after := some { cause := 0x0B, tval := leadT h s, telem := 0, tepc := s.cur.next } } }) := by
  refine controlAction_does (fun _ => rfl) (fun _ _ => rfl) (fun s hs => ?_) (fun s => sameView_after s _)
  rw [lead_eq_leadT, noteAfter_eq hs]

end Sys2Proof.Claim

open Sys2Proof Sys2Proof.Claim

/-- Settles O19: each of the four branches, and the trap of a BRA that leaves its body. -/
theorem branchesTransfer : Obligations.BranchesTransfer := by
  unfold Obligations.BranchesTransfer
  exact fun h => ⟨bra_does h, call_does h, ret_does h, lext_does h, fun s hp hl => bra_traps hp hl⟩

/-- Settles O20: BRC whole, as peers and serially; JOIN elsewhere, waiting, merging, starting held lanes, and its trap. -/
theorem splitsDivideAndJoin : Obligations.SplitsDivideAndJoin := by
  unfold Obligations.SplitsDivideAndJoin
  exact ⟨fun h => ⟨brc_whole_does h, brc_peers_does h, brc_serial_does h⟩, fun x k =>
    ⟨join_elsewhere_does x k, join_waits_does x k, join_merges_does x k, join_starts_does x k,
      fun _ _ hp he hpc ha hl => join_traps x k hp he hpc ha hl⟩⟩

/-- Settles O21: LOOP opens or skips, LBACK turns or closes. -/
theorem loopsTurn : Obligations.LoopsTurn := by
  unfold Obligations.LoopsTurn
  exact fun x k =>
    ⟨fun lback => loop_does x k lback (fun s hs => hs.1) (fun s hs => openLoop_opens hs.2) fun s => sameView_setSelf s _,
      fun lback => loop_does x k lback (fun s hs => hs.1) (fun s hs => openLoop_skips hs.2) fun s => sameView_setSelf s _,
      fun l => lback_does x k l (fun s hs => ⟨hs.1, hs.2.2.1⟩) (fun s hs => closeBody_turns hs.2.1 hs.2.2.2)
        fun s => sameView_setSelf s _,
      fun l => lback_does x k l (fun s hs => ⟨hs.1, hs.2.2.1⟩) (fun s hs => closeBody_closes hs.2.1 hs.2.2.2)
        fun s => sameView_setSelf s _⟩

end

section
/-! SUPPORT. Lanes that leave, warps and tasks that end, refills, and the traps after a bundle (04 R76 to R82, R85). -/

open Sys2Proof.Machine

namespace Sys2Proof.Machine

/-! ## What the end of a bundle leaves of an effect -/

theorem Latched.dead {h : Head} {m : Mask} {v : Nat → Word} {pop : Bool} {s t : State} (l : Latched h m v pop s t) :
    t.cur.dead = s.cur.dead := by rw [l.cur]

theorem Latched.self {h : Head} {m : Mask} {v : Nat → Word} {pop : Bool} {s t : State} (l : Latched h m v pop s t) :
    ∃ x y z, t.thread s.cur.tid = { s.self with regs := x, bad := y, poison := z } := by
  have htid : t.cur.tid = s.cur.tid := by rw [l.cur]
  rw [← htid]
  exact l.thread

theorem Latched.block {h : Head} {m : Mask} {v : Nat → Word} {pop : Bool} {s t : State} (l : Latched h m v pop s t) (c x : Nat) :
    t.block c x = s.block c x := by
  rw [l.state]
  rfl

end Sys2Proof.Machine

namespace Sys2Proof.Claim

/-! ## Splits and entries when lanes leave (04 R70, R76) -/

/-- A thread whose split table and join stack have changed: entries in use expect what they did, and where none is in use nothing has
changed. -/
structure Reseated (a b : Thread) : Prop where
  tables : ∃ sp js, b = { a with splits := sp, joins := js }
  expects : ∀ e, (b.join e).used = true → (a.join e).used = true ∧ (b.join e).expect = (a.join e).expect
  idle : (∀ e, (a.join e).used = false) → b = a

theorem Reseated.refl (a : Thread) : Reseated a a := ⟨⟨a.splits, a.joins, rfl⟩, fun _ h => ⟨h, rfl⟩, fun _ => rfl⟩

theorem Reseated.trans {a b c : Thread} (h : Reseated a b) (k : Reseated b c) : Reseated a c := by
  obtain ⟨⟨_, _, hb⟩, hbe, hbi⟩ := h
  obtain ⟨⟨sp, js, hc⟩, hce, hci⟩ := k
  refine ⟨⟨sp, js, by rw [hc, hb]⟩, fun e hu => ?_, fun hi => ?_⟩
  · obtain ⟨hu', he'⟩ := hce e hu
    obtain ⟨hu'', he''⟩ := hbe e hu'
    exact ⟨hu'', he'.trans he''⟩
  · have hab := hbi hi
    subst hab
    exact hci hi

theorem Reseated.foldl {α : Type} {f : Thread → α → Thread} (h : ∀ th x, Reseated th (f th x)) (a : Thread) (xs : List α) :
    Reseated a (xs.foldl f a) :=
  List.foldlRecOn xs f (.refl a) fun b hb x _ => hb.trans (h b x)

/-- An entry of the join stack after one of them is replaced. -/
theorem join_setJoin_cases (th : Thread) (e : Nat) (j : JoinEntry) (k : Nat) :
    (th.setJoin e j).join k = th.join k ∨ k = e ∧ (th.setJoin e j).join k = j := by
  by_cases hk : k = e
  · subst hk
    by_cases hl : k < th.joins.length
    · exact .inr ⟨rfl, join_setJoin th j hl⟩
    · refine .inl ?_
      simp [Thread.join, Thread.setJoin, setAt, hl]
  · refine .inl ?_
    simp [Thread.join, Thread.setJoin, setAt, Ne.symm hk]

/-- Another split and another state of an entry in use that expects the same lanes. -/
theorem Reseated.setJoin {a : Thread} {e : Nat} {j : JoinEntry} (sps : List Split) (hu : (a.join e).used = true)
    (hj : j.used = true → j.expect = (a.join e).expect) : Reseated a ({ a with splits := sps }.setJoin e j) := by
  refine ⟨⟨sps, _, rfl⟩, fun k hk => ?_, fun hi => absurd hu (by simp [hi])⟩
  rcases join_setJoin_cases { a with splits := sps } e j k with h | ⟨rfl, h⟩
  · rw [h] at hk ⊢
    exact ⟨hk, rfl⟩
  · rw [h] at hk ⊢
    exact ⟨hu, hj hk⟩

theorem reseated_startHeld (th : Thread) (clk e : Nat) : Reseated th (th.startHeld clk e) := by
  unfold Thread.startHeld
  simp only []
  split
  · exact .refl th
  · next h =>
    split
    · exact .refl th
    · have hu : (th.join e).used = true := by
        rw [Bool.or_eq_true, Bool.or_eq_true, not_or, not_or] at h
        simpa using h.1.1
      exact Reseated.setJoin _ hu fun _ => rfl

theorem reseated_tryMerge (th : Thread) (clk e : Nat) : Reseated th (th.tryMerge clk e) := by
  unfold Thread.tryMerge
  simp only []
  split
  · exact .refl th
  · next h =>
    split
    · exact .refl th
    · have hu : (th.join e).used = true := by
        simp only [Bool.or_eq_true, not_or] at h
        simpa using h.1.1.1
      exact Reseated.setJoin _ hu fun hj => nomatch hj

theorem reseated_settleJoin (th : Thread) (clk e : Nat) : Reseated th (th.settleJoin clk e) := by
  unfold Thread.settleJoin
  simp only []
  split
  · next h =>
    have hu : (th.join e).used = true := by
      simp only [Bool.and_eq_true] at h
      exact h.1
    have hset : Reseated th (th.setJoin e JoinEntry.empty) := Reseated.setJoin th.splits hu fun hj => nomatch hj
    split
    · exact hset.trans (reseated_startHeld _ _ _)
    · exact hset
  · exact reseated_tryMerge th clk e

theorem reseated_mergeAll (th : Thread) (clk : Nat) : Reseated th (th.mergeAll clk) :=
  .foldl (fun th n => reseated_settleJoin th clk (n % 8)) th _

/-- A split that some lanes leave: it is gone where none is left. -/
def splitLess (v : Mask) (sp : Split) : Split :=
  if sp.live then (if sp.mask &&& ~~~v = 0#32 then Split.empty else { sp with mask := sp.mask &&& ~~~v }) else sp

/-- An entry that some lanes leave. -/
def joinLess (v : Mask) (j : JoinEntry) : JoinEntry :=
  if j.used then { j with expect := j.expect &&& ~~~v, arrived := j.arrived &&& ~~~v, held := j.held &&& ~~~v } else j

/-- A thread that some lanes leave, before its entries are settled. -/
def laneLess (th : Thread) (v : Mask) : Thread :=
  { th with occupied := th.occupied &&& ~~~v, splits := th.splits.map (splitLess v), joins := th.joins.map (joinLess v) }

theorem reseated_vacateLanes (th : Thread) (clk : Nat) (v : Mask) : Reseated (laneLess th v) (th.vacateLanes clk v) := by
  unfold Thread.vacateLanes
  exact (Reseated.foldl (fun th e => reseated_startHeld th clk e) _ _).trans (reseated_mergeAll _ clk)

theorem join_laneLess (th : Thread) (v : Mask) (e : Nat) : (laneLess th v).join e = joinLess v (th.join e) := by
  simp only [Thread.join, laneLess, List.getD_eq_getElem?_getD, List.getElem?_map]
  cases th.joins[e]? <;> rfl

theorem split_laneLess (th : Thread) (v : Mask) (k : Nat) : (laneLess th v).split k = splitLess v (th.split k) := by
  simp only [Thread.split, laneLess, List.getD_eq_getElem?_getD, List.getElem?_map]
  cases th.splits[k]? <;> rfl

theorem used_joinLess (v : Mask) (j : JoinEntry) : (joinLess v j).used = j.used := by
  unfold joinLess
  split <;> rfl

theorem expect_joinLess {v : Mask} {j : JoinEntry} (h : j.used = true) : (joinLess v j).expect = j.expect &&& ~~~v := by
  simp [joinLess, h]

theorem occupied_vacateLanes (th : Thread) (clk : Nat) (v : Mask) : (th.vacateLanes clk v).occupied = th.occupied &&& ~~~v := by
  obtain ⟨⟨_, _, h⟩, -, -⟩ := reseated_vacateLanes th clk v
  rw [h]
  rfl

/-! ## Barriers and SYNCs that lanes leave (06 R121) -/

/-- Nothing but the barriers and the SYNC states of blocks has changed. -/
structure SyncFrame (s u : State) : Prop where
  state : u = { s with blocks := u.blocks }
  block : ∀ c x, ∃ bs ss, u.block c x = { s.block c x with barriers := bs, syncs := ss }

theorem SyncFrame.refl (s : State) : SyncFrame s s := ⟨rfl, fun c x => ⟨(s.block c x).barriers, (s.block c x).syncs, rfl⟩⟩

theorem SyncFrame.trans {s u v : State} (a : SyncFrame s u) (b : SyncFrame u v) : SyncFrame s v := by
  refine ⟨by rw [b.state, a.state], fun c x => ?_⟩
  obtain ⟨_, _, hu⟩ := a.block c x
  obtain ⟨bs, ss, hv⟩ := b.block c x
  exact ⟨bs, ss, by rw [hv, hu]⟩

theorem SyncFrame.foldl {α : Type} {f : State → α → State} (h : ∀ s x, SyncFrame s (f s x)) (s : State) (xs : List α) :
    SyncFrame s (xs.foldl f s) :=
  List.foldlRecOn xs f (.refl s) fun u hu x _ => hu.trans (h u x)

theorem SyncFrame.modBlock (s : State) (c x : Nat) {f : Block → Block} (h : ∀ b, ∃ bs ss, f b = { b with barriers := bs, syncs := ss }) :
    SyncFrame s (s.modBlock c x f) := by
  refine ⟨rfl, fun c' x' => ?_⟩
  by_cases hk : c' * 2 + x' = c * 2 + x
  · have hsame : ∀ u : State, u.block c' x' = u.block c x := fun u => by simp only [State.block, hk]
    rw [hsame, hsame, State.block_modBlock]
    exact h _
  · rw [State.block_modBlock_other s f hk]
    exact ⟨_, _, rfl⟩

theorem syncFrame_setBarrier (s : State) (c x id : Nat) (b : Barrier) : SyncFrame s (s.setBarrier c x id b) :=
  .modBlock s c x fun k => ⟨_, k.syncs, rfl⟩

theorem syncFrame_setSync (s : State) (c x scope : Nat) (y : SyncState) : SyncFrame s (s.setSync c x scope y) :=
  .modBlock s c x fun k => ⟨k.barriers, _, rfl⟩

theorem SyncFrame.thread {s u : State} (h : SyncFrame s u) (t : Tid) : u.thread t = s.thread t := by rw [h.state]; rfl

theorem SyncFrame.cur {s u : State} (h : SyncFrame s u) : u.cur = s.cur := by rw [h.state]

theorem SyncFrame.after_modThread {s u : State} {t : Tid} {f : Thread → Thread} (h : SyncFrame (s.modThread t f) u) :
    u = { s with threads := u.threads, blocks := u.blocks } := by
  have ht : u.threads = (s.modThread t f).threads := by rw [h.state]
  rw [ht]
  exact h.state

theorem SyncFrame.view {s u : State} (h : SyncFrame s u) : SameView s u := by
  have hc : u.cur = s.cur := by rw [h.state]
  have hp : u.pack = s.pack := by rw [h.state]
  obtain ⟨bs, ss, hb⟩ := h.block s.cur.tid.core s.cur.tid.ctx
  have hs : u.selfBlock = { s.selfBlock with barriers := bs, syncs := ss } := by
    rw [State.selfBlock, hc]
    exact hb
  exact .of_block hc hp hs rfl rfl rfl rfl rfl

theorem syncFrame_lanesLeft (s : State) (t : Tid) : SyncFrame s (s.lanesLeft t) := by
  unfold State.lanesLeft
  refine (SyncFrame.foldl (fun s id => ?_) s _).trans (SyncFrame.foldl (fun s scope => ?_) _ _)
  · extract_lets b carried
    have hcarried : SyncFrame s carried := by
      unfold carried
      split
      · exact .refl s
      · exact syncFrame_setBarrier ..
    refine hcarried.trans ?_
    split
    · exact .refl _
    · exact syncFrame_setBarrier ..
  · simp only []
    split
    · exact .refl s
    · exact syncFrame_setSync ..

theorem syncFrame_warpLeft (s : State) (t : Tid) : SyncFrame s (s.warpLeft t) := by
  unfold State.warpLeft
  exact (SyncFrame.foldl (fun s id => syncFrame_setBarrier ..) s _).trans (SyncFrame.foldl (fun s scope => syncFrame_setSync ..) _ _)

/-! ## Warps, tasks and blocks that end (04 R79, R85, R86) -/

theorem checkLaunch_eq (s : State) (lid : Nat) : s.checkLaunch lid = s ∨ ∃ l, s.checkLaunch lid = s.setLaunch lid l := by
  unfold State.checkLaunch
  simp only []
  split
  · exact .inr ⟨_, rfl⟩
  · exact .inl rfl

@[simp] theorem thread_checkLaunch (s : State) (lid : Nat) (t : Tid) : (s.checkLaunch lid).thread t = s.thread t := by
  rcases checkLaunch_eq s lid with h | ⟨l, h⟩ <;> rw [h]
  rfl

@[simp] theorem block_checkLaunch (s : State) (lid c x : Nat) : (s.checkLaunch lid).block c x = s.block c x := by
  rcases checkLaunch_eq s lid with h | ⟨l, h⟩ <;> rw [h]
  rfl

/-- An entry of a table of which every entry has been changed. -/
theorem Tab.get_map_cases {α : Type} (d : α) (f : Nat × α → Nat × α) {R : α → α → Prop} (hd : R d d) (hk : ∀ e, (f e).1 = e.1)
    (hf : ∀ e, R e.2 (f e).2) (m : Tab α) (k : Nat) : R (Tab.get d m k) (Tab.get d (m.map f) k) := by
  induction m with
  | nil => exact hd
  | cons e rest ih =>
    show R (if e.1 = k then e.2 else Tab.get d rest k) (if (f e).1 = k then (f e).2 else Tab.get d (rest.map f) k)
    rw [hk]
    split
    · exact hf e
    · exact ih

/-- What a thread is after its block may have gone. -/
def StaysOrRemains (a b : Thread) : Prop := b = a ∨ b = a.remains

theorem thread_vacate (s : State) (c x : Nat) (t : Tid) : StaysOrRemains (s.thread t) ((s.vacate c x).thread t) := by
  unfold State.vacate
  simp only []
  split <;> exact Tab.get_map_cases Thread.empty _ (.inl rfl) (fun e => by split <;> rfl)
    (fun e => by split; exact .inr rfl; exact .inl rfl) s.threads t.key

theorem block_vacate (s : State) (c x : Nat) : (s.vacate c x).block c x = Block.empty := Tab.get_erase_self ..

theorem checkBlock_cases (s : State) (c x : Nat) :
    s.checkBlock c x = s ∨ ∃ lid, s.checkBlock c x = (((s.leaveCommands c x).vacate c x).leaveWeirs c x).checkLaunch lid := by
  unfold State.checkBlock
  simp only []
  split
  · exact .inr ⟨_, rfl⟩
  · exact .inl rfl

theorem thread_checkBlock (s : State) (c x : Nat) (t : Tid) : StaysOrRemains (s.thread t) ((s.checkBlock c x).thread t) := by
  rcases checkBlock_cases s c x with h | ⟨lid, h⟩ <;> rw [h]
  · exact .inl rfl
  · rw [thread_checkLaunch]
    exact thread_vacate (s.leaveCommands c x) c x t

theorem block_checkBlock (s : State) (c x : Nat) : (s.checkBlock c x).block c x = s.block c x ∨ (s.checkBlock c x).block c x = Block.empty := by
  rcases checkBlock_cases s c x with h | ⟨lid, h⟩ <;> rw [h]
  · exact .inl rfl
  · rw [block_checkLaunch]
    exact .inr (block_vacate (s.leaveCommands c x) c x)

/-- A thread that has ended: it does not exist, and no lane of it is left. -/
def Gone (th : Thread) : Prop := th.live = false ∧ th.occupied = 0#32

theorem StaysOrRemains.gone {a b : Thread} (h : StaysOrRemains a b) (g : Gone a) : Gone b := by
  rcases h with rfl | rfl
  · exact g
  · exact ⟨rfl, rfl⟩

theorem SyncFrame.rillLeft {s u : State} (h : SyncFrame s u) (c x : Nat) : u.rillLeft c x = s.rillLeft c x := by
  obtain ⟨bs, ss, hb⟩ := h.block c x
  have hl : ∀ i, u.launch i = s.launch i := fun i => by rw [h.state]; rfl
  simp only [State.rillLeft, hb, hl]

theorem rillLeft_modThread (s : State) (t : Tid) (f : Thread → Thread) (c x : Nat) : (s.modThread t f).rillLeft c x = s.rillLeft c x := rfl

/-- The thread of a warp that has ended, and what its barriers, its decisions and its block do then, where no new one starts. -/
theorem endWarp_eq {s u : State} {t : Tid} {again : Bool} (hu : (s.modThread t fun th =>
      { th.restart s.clk with live := false, occupied := 0#32, splits := List.replicate 4 Split.empty }) = u)
    (h : (again && s.rillLeft t.core t.ctx) = false) :
    s.endWarp t again = ((u.warpLeft t).freeDecisions t.core t.ctx).checkBlock t.core t.ctx := by
  unfold State.endWarp
  rw [hu]
  have hrill : (u.warpLeft t).rillLeft t.core t.ctx = s.rillLeft t.core t.ctx := by
    rw [(syncFrame_warpLeft u t).rillLeft, ← hu, rillLeft_modThread]
  simp only [hrill, h]
  rfl

/-- A warp that ends, where no new one starts in its slot, is gone. -/
theorem gone_endWarp (s : State) (t : Tid) {again : Bool} (h : (again && s.rillLeft t.core t.ctx) = false) :
    Gone ((s.endWarp t again).thread t) := by
  rw [endWarp_eq rfl h]
  refine (thread_checkBlock _ _ _ _).gone ?_
  rw [State.freeDecisions, State.thread_setBlock, (syncFrame_warpLeft _ t).thread, State.thread_modThread]
  exact ⟨rfl, rfl⟩

theorem thread_cur (s : State) (c : Cur) (t : Tid) : { s with cur := c }.thread t = s.thread t := rfl

theorem occupied_modThread_vacateLanes (s : State) (t : Tid) (v : Mask) :
    ((s.modThread t fun th => th.vacateLanes s.clk v).thread t).occupied = (s.thread t).occupied &&& ~~~v := by
  rw [State.thread_modThread, occupied_vacateLanes]

/-- No lane of the warp is left (04 R79). -/
theorem vacateWarp_ends {s : State} {t : Tid} {v : Mask} {again : Bool} (h : (s.thread t).occupied &&& ~~~v = 0#32) :
    s.vacateWarp t v again
      = { (s.modThread t fun th => th.vacateLanes s.clk v).endWarp t again with cur := { s.cur with dead := true } } := by
  rw [State.vacateWarp, occupied_modThread_vacateLanes]
  exact if_pos h

/-- Some lane of the warp is left (04 R76). -/
theorem vacateWarp_stays {s : State} {t : Tid} {v : Mask} {again : Bool} (h : (s.thread t).occupied &&& ~~~v ≠ 0#32) :
    SyncFrame (s.modThread t fun th => th.vacateLanes s.clk v) (s.vacateWarp t v again) := by
  rw [State.vacateWarp, occupied_modThread_vacateLanes, if_neg h]
  exact syncFrame_lanesLeft _ t

theorem gone_vacateWarp {s : State} {t : Tid} {v : Mask} {again : Bool} (h : (s.thread t).occupied &&& ~~~v = 0#32)
    (hr : (again && s.rillLeft t.core t.ctx) = false) : Gone ((s.vacateWarp t v again).thread t) := by
  rw [vacateWarp_ends h, thread_cur]
  refine gone_endWarp _ t ?_
  rw [rillLeft_modThread]
  exact hr

theorem vacated_vacateWarp {s : State} {v : Mask} {again : Bool} (h : s.self.occupied &&& ~~~v ≠ 0#32) :
    Vacated s v (s.vacateWarp s.cur.tid v again) := by
  have hframe := vacateWarp_stays (again := again) h
  have hcur : (s.vacateWarp s.cur.tid v again).cur = s.cur := by rw [hframe.cur, State.modThread_cur]
  have hself : (s.vacateWarp s.cur.tid v again).self = s.self.vacateLanes s.clk v := by
    rw [State.self, hcur, hframe.thread, State.thread_modThread]
    rfl
  obtain ⟨⟨sps, js, htab⟩, hexp, hidle⟩ := reseated_vacateLanes s.self s.clk v
  refine ⟨?_, fun k hk => ?_, ?_, ?_, ?_, fun e hu => ?_, fun hno k _ => ?_⟩
  · exact hframe.after_modThread
  · rw [hframe.thread, State.thread_modThread_other _ _ hk]
  · rw [hself, occupied_vacateLanes]
  · rw [hself, htab]
    rfl
  · rw [hself, htab]
    exact ⟨rfl, rfl, rfl⟩
  · rw [hself] at hu ⊢
    obtain ⟨hu', he⟩ := hexp e hu
    rw [join_laneLess, used_joinLess] at hu'
    rw [he, join_laneLess, expect_joinLess hu']
  · have hnone : ∀ e, ((laneLess s.self v).join e).used = false := fun e => by rw [join_laneLess, used_joinLess, hno e]
    rw [hself, hidle hnone, split_laneLess]
    rfl

theorem sameView_vacateWarp {s : State} {v : Mask} {again : Bool} (h : s.self.occupied &&& ~~~v ≠ 0#32) :
    SameView s (s.vacateWarp s.cur.tid v again) :=
  (SameView.modThread s _ _).trans (vacateWarp_stays h).view

theorem gone_of_latched {h : Head} {m : Mask} {v : Nat → Word} {pop : Bool} {s t : State} (l : Latched h m v pop s t)
    (g : Gone (s.thread s.cur.tid)) : Gone (t.thread s.cur.tid) := by
  obtain ⟨_, _, _, e⟩ := l.self
  rw [e]
  exact g

/-! ## EXIT, END and RFL (04 R76, R77, R79, R85) -/

/-- EXIT's effect. -/
def exitParts (h : Head) : Action := { Action.idle with effect := fun s => s.vacateWarp s.cur.tid (s.guard h.guard) true }

theorem exitParts_effect (h : Head) (s : State) : (exitParts h).effect s = s.vacateWarp s.cur.tid (s.guard h.guard) true := by
  simp only [exitParts]

theorem idle_free (effect : State → State) (s : State) : ({ Action.idle with effect := effect } : Action).Free s :=
  ⟨rfl, rfl, rfl, rfl, rfl, rfl, rfl⟩

theorem exit_some {h : Head} {s : State} (hp : s.primed h { ops := [], t := false, wide := false } = true)
    (hleft : s.self.occupied &&& ~~~s.guard h.guard ≠ 0#32) :
    ∃ u t, exec (.exit h) s = .next t ∧ Vacated s (s.guard h.guard) u ∧ Latched h (s.guard h.guard) (s.trig h) true u t := by
  have he := exitParts_effect h s
  have hview : SameView s ((exitParts h).effect s) := by
    rw [he]
    exact sameView_vacateWarp hleft
  obtain ⟨t, ht, hl⟩ := Action.trigger_view (a := exitParts h) hp (idle_free _ s) hview
  rw [he] at hl
  exact ⟨s.vacateWarp s.cur.tid (s.guard h.guard) true, t, ht, vacated_vacateWarp hleft, hl⟩

/-- A warp of which no lane is left ends at the end of its bundle. -/
theorem vacate_next {h : Head} {r : Reads} {a : Action} {s : State} {v : Mask} {again : Bool} (hp : s.primed h r = true) (f : a.Free s)
    (he : a.effect s = s.vacateWarp s.cur.tid v again) (hnone : s.self.occupied &&& ~~~v = 0#32) :
    ∃ t, (Action.trigger h r a).outcome s = .next t ∧ t.cur.dead = true
      ∧ ((again && s.rillLeft s.cur.tid.core s.cur.tid.ctx) = false → Gone (t.thread s.cur.tid)) := by
  obtain ⟨t, ht, hl⟩ := Action.trigger_ends hp f
  have hend := vacateWarp_ends (again := again) hnone
  have htid : (a.effect s).cur.tid = s.cur.tid := by rw [he, hend]
  refine ⟨t, ht, ?_, fun hr => ?_⟩
  · rw [hl.dead, he, hend]
  · rw [← htid]
    refine gone_of_latched hl ?_
    rw [htid, he]
    exact gone_vacateWarp hnone hr

theorem exit_all {h : Head} {s : State} (hp : s.primed h { ops := [], t := false, wide := false } = true)
    (hnone : s.self.occupied &&& ~~~s.guard h.guard = 0#32) :
    ∃ t, exec (.exit h) s = .next t ∧ t.cur.dead = true ∧ (s.rillLeft s.cur.tid.core s.cur.tid.ctx = false →
      (t.thread s.cur.tid).live = false ∧ (t.thread s.cur.tid).occupied = 0#32) :=
  vacate_next (a := exitParts h) hp (idle_free _ s) (exitParts_effect h s) hnone

/-- END's effect. -/
def endParts : Action := { Action.idle with
  effect := fun s => if s.cur.tid.isSluice then s.endTask s.cur.tid else s.vacateWarp s.cur.tid (BitVec.allOnes 32) false }

theorem end_warp {h : Head} {s : State} (hp : s.primed h (wideReads [] false) = true) (hw : s.cur.tid.isSluice = false) :
    ∃ t, exec (.endTask h) s = .next t ∧ t.cur.dead = true ∧ (t.thread s.cur.tid).live = false ∧ (t.thread s.cur.tid).occupied = 0#32 := by
  have he : endParts.effect s = s.vacateWarp s.cur.tid (BitVec.allOnes 32) false := if_neg (by simp [hw])
  obtain ⟨t, ht, hd, hg⟩ := vacate_next (a := endParts) hp (idle_free _ s) he (by simp)
  exact ⟨t, ht, hd, hg rfl⟩

theorem cur_checkBlock (s : State) (c x : Nat) : (s.checkBlock c x).cur = s.cur := by
  rcases checkBlock_cases s c x with h | ⟨lid, h⟩ <;> rw [h]
  rcases checkLaunch_eq (((s.leaveCommands c x).vacate c x).leaveWeirs c x) lid with h | ⟨l, h⟩ <;> rw [h]
  all_goals
    simp only [State.leaveWeirs, State.vacate, State.setLaunch]
    split <;> rfl

theorem liveSplits_remains (th : Thread) : th.remains.liveSplits = [] := rfl

theorem endTask_ends (s : State) (t : Tid) : (s.endTask t).cur = s.cur ∧ ((s.endTask t).thread t).liveSplits = []
    ∧ ((s.endTask t).block t.core t.ctx).running = none := by
  unfold State.endTask
  extract_lets s1 s2
  have hsplits : (s2.thread t).liveSplits = [] := by
    rw [show s2.thread t = s1.thread t from rfl, State.thread_modThread]
    rfl
  have hrun : (s2.block t.core t.ctx).running = none := by
    unfold s2
    rw [State.block_modBlock]
  refine ⟨cur_checkBlock s2 _ _, ?_, ?_⟩
  · rcases thread_checkBlock s2 t.core t.ctx t with h | h <;> rw [h]
    · exact hsplits
    · exact liveSplits_remains _
  · rcases block_checkBlock s2 t.core t.ctx with h | h <;> rw [h]
    · exact hrun
    · rfl

theorem end_task {h : Head} {s : State} (hp : s.primed h (wideReads [] false) = true) (hw : s.cur.tid.isSluice = true) :
    ∃ t, exec (.endTask h) s = .next t ∧ (t.block s.cur.tid.core s.cur.tid.ctx).running = none
      ∧ (t.thread s.cur.tid).liveSplits = [] := by
  have he : endParts.effect s = s.endTask s.cur.tid := if_pos hw
  obtain ⟨hcur, hsplits, hrun⟩ := endTask_ends s s.cur.tid
  obtain ⟨t, ht, hl⟩ := Action.trigger_ends (a := endParts) hp (idle_free _ s)
  rw [he] at hl
  refine ⟨t, ht, ?_, ?_⟩
  · rw [hl.block]
    exact hrun
  · obtain ⟨_, _, _, hself⟩ := hl.self
    rw [hcur] at hself
    rw [hself]
    rw [State.self, hcur]
    exact hsplits

/-- RFL's effect. -/
def rflParts : Action := { Action.idle with
  effect := fun s =>
    let m := s.selfSplit.mask
    if m = s.self.occupied then s.modSelfSplit fun sp => { sp with rill := true }
    else s.modThread s.cur.tid fun th => th.wrMask (.res .cq) m fun _ => m }

theorem rfl_exec (x : Src) (k : Fin 4) (s : State) :
    exec (.rfl x k) s = (Action.trigger { guard := .always, src := x, hold := k } (wideReads [] false) rflParts).outcome s := rfl

theorem rfl_asks_does (x : Src) (k : Fin 4) : does (.rfl x k) { guard := .always, src := x, hold := k } (wideReads [] false)
    (fun s => (s.self.split s.cur.split).mask = s.self.occupied) (fun s => setSelf s fun sp => { sp with rill := true }) :=
  does_of rflParts (rfl_exec x k) (fun s _ _ => idle_free _ s) (fun _ _ hs => if_pos hs) (fun s _ _ => sameView_setSelf s _)

theorem rfl_reads_does (x : Src) (k : Fin 4) : does (.rfl x k) { guard := .always, src := x, hold := k } (wideReads [] false)
    (fun s => (s.self.split s.cur.split).mask ≠ s.self.occupied)
    fun s => setThread s fun th => th.wrMask (.res .cq) (s.self.split s.cur.split).mask fun _ => (s.self.split s.cur.split).mask :=
  does_of rflParts (rfl_exec x k) (fun s _ _ => idle_free _ s) (fun _ _ hs => if_neg hs) (fun s _ _ => SameView.modThread s _ _)

/-! ## TRAP (16 R313) -/

/-- A K trigger (16 R310) is free where no K result is awaited, nothing else holds it and its own check passes. -/
theorem systemAction_does {i : Instr} {h : Head} {ops : List OpPort} {t : Bool} {waits : State → Bool} {own : State → Option TrapRec}
    {effect after : State → State} {ok : State → Prop}
    (hexec : ∀ s, exec i s = (systemAction h ops t waits own effect).outcome s)
    (hwaits : ∀ s, ok s → (s.self.fills.any (fun f => f.port == .kq) || waits s) = false)
    (hown : ∀ s, ok s → own s = none) (heffect : ∀ s, ok s → effect s = after s) (hview : ∀ s, ok s → SameView s (after s)) :
    does i h (wideReads ops t) ok after :=
  does_of { Action.idle with waits := fun s => s.self.fills.any (fun f => f.port == .kq) || waits s, own := own, effect := effect } hexec
    (fun s _ hok => ⟨hwaits s hok, rfl, rfl, rfl, rfl, rfl, hown s hok⟩) (fun s _ hok => heffect s hok) (fun s _ hok => hview s hok)

theorem any_fills_eq_false {th : Thread} {p : ResPort} (h : ∀ f ∈ th.fills, f.port ≠ p) : th.fills.any (fun f => f.port == p) = false := by
  simpa using h

theorem trap_does (h : Head) : does (.trap h) h (wideReads [] true) (fun s => s.cur.after = none ∧ ∀ f ∈ s.self.fills, f.port ≠ .kq)
    (fun s => { s with cur := { s.cur with after := some { cause := 0x17, tval := leadT h s, telem := 0, tepc := s.cur.next } } }) := by
  refine systemAction_does (fun _ => rfl) (fun s hs => ?_) (fun _ _ => rfl) (fun s hs => ?_) (fun s _ => sameView_after s _)
  · rw [any_fills_eq_false hs.2]
    rfl
  · rw [lead_eq_leadT, noteAfter_eq hs.1]

end Sys2Proof.Claim

open Sys2Proof Sys2Proof.Claim

/-- Settles O22: EXIT with and without lanes left, END of a warp and of a task, RFL asking and reading. -/
theorem lanesLeaveAndFill : Obligations.LanesLeaveAndFill := by
  unfold Obligations.LanesLeaveAndFill
  exact ⟨fun h s => ⟨fun hp => ⟨exit_some hp, exit_all hp⟩, fun hp => ⟨end_warp hp, end_task hp⟩⟩,
    fun x k => ⟨rfl_asks_does x k, rfl_reads_does x k⟩⟩

/-- Settles O23: WAIT, PSW at the granted level and at another, BRK and TRAP. -/
theorem bundlesWaitSwitchAndTrap : Obligations.BundlesWaitSwitchAndTrap := by
  unfold Obligations.BundlesWaitSwitchAndTrap
  exact fun h => ⟨wait_does h, psw_same_does h, psw_switch_does h, brk_does h, trap_does h⟩

end

section
/-! SUPPORT. Synchronisation (06 R113 to R131): block barriers, SYNC, barrier objects, releases and acquires. -/

open Sys2Proof.Machine

namespace Sys2Proof.Claim

/-! ## What the fields of a value say (06 R114) -/

theorem bits_high_ne_zero (v : Word) {n : Nat} (h : n ≤ 31) : (v.bits 31 n ≠ 0) = ¬v.toNat < 2 ^ n := by
  have hlt : v.toNat / 2 ^ n < 2 ^ (31 + 1 - n) := by
    rw [Nat.div_lt_iff_lt_mul (Nat.two_pow_pos n), ← Nat.pow_add]
    simpa [show 31 + 1 - n + n = 32 by omega] using v.isLt
  rw [Word.bits, Nat.mod_eq_of_lt hlt, ne_eq, Nat.div_eq_zero_iff]
  simp

theorem bit_top {v : Word} {n : Nat} (h : v.toNat < 2 ^ (n + 1)) : v.bit n = decide (2 ^ n ≤ v.toNat) := by
  rw [Word.bit, ← BitVec.testBit_toNat, Nat.testBit_eq_decide_div_mod_eq]
  have hpos := Nat.two_pow_pos n
  rw [Nat.pow_succ] at h
  congr 1
  refine propext ⟨fun hd => ?_, fun hle => ?_⟩
  · refine Decidable.byContradiction fun hlt => ?_
    rw [Nat.div_eq_of_lt (Nat.lt_of_not_le hlt)] at hd
    exact absurd hd (by decide)
  · rw [show v.toNat / 2 ^ n = 1 from Nat.div_eq_of_lt_le (by omega) (by omega)]

/-- A trigger of Y is free where nothing holds it and its own check passes. -/
theorem syncAction_does {i : Instr} {h : Head} {ops : List OpPort} {t : Bool} {waits : State → Bool} {own : State → Option TrapRec}
    {effect after : State → State} {ok : State → Prop}
    (hexec : ∀ s, exec i s = (syncAction h ops t waits own effect).outcome s) (hwaits : ∀ s, ok s → waits s = false)
    (hown : ∀ s, ok s → own s = none) (heffect : ∀ s, ok s → effect s = after s) (hview : ∀ s, ok s → SameView s (after s)) :
    does i h (wideReads ops t) ok after :=
  does_of { Action.idle with waits := waits, own := own, effect := effect } hexec
    (fun s _ hok => ⟨hwaits s hok, rfl, rfl, rfl, rfl, rfl, hown s hok⟩) (fun s _ hok => heffect s hok) (fun s _ hok => hview s hok)

/-- A trigger of Y that nothing holds traps where its own check fails. -/
theorem syncAction_traps {h : Head} {ops : List OpPort} {t : Bool} {waits : State → Bool} {own : State → Option TrapRec}
    {effect : State → State} {s : State} {r : TrapRec} (hp : s.primed h (wideReads ops t) = true) (hwaits : waits s = false)
    (hown : own s = some r) : (syncAction h ops t waits own effect).outcome s = .next (s.takeTrap s.cur.tid s.cur.split r) :=
  Action.trigger_traps hp hwaits rfl rfl rfl rfl rfl hown

/-! ## What releases, acquires and waits show -/

theorem sameView_release (s : State) (t : Tid) (scope : Nat) : SameView s (s.release t scope) := by
  have h := s.release_frame t scope
  exact .of_eq (by rw [h]) (by rw [h]; rfl) (by rw [h])

theorem sameView_waiting (s : State) (kind : Nat) (w0 w1 : Word) : SameView s (waiting s kind w0 w1) := by
  have h := s.waitSelf_frame kind w0 w1
  exact .of_eq (by rw [waiting, h]) (by rw [waiting, h]; rfl) (by rw [waiting, h])

theorem sameView_acquire (s : State) (t : Tid) (scope : Nat) : SameView s (s.acquire t scope) := by
  have h := s.acquireFrom_frame t (s.thread t).seq scope
  exact .of_eq (by rw [State.acquire, h]) (by rw [State.acquire, h]; rfl) (by rw [State.acquire, h])

theorem sameView_makeAcquire (s : State) (t : Tid) (scope : Nat) (fence stalls : Bool) :
    SameView s (s.makeAcquire t scope fence stalls).1 := by
  rcases s.makeAcquire_cases t scope fence stalls with h | ⟨a, -, -, -, h⟩ <;> rw [h]
  · exact sameView_acquire s t scope
  · exact SameView.modThread s t fun th => { th with acqs := th.acqs ++ [a], seq := th.seq + 1 }

theorem sameView_startAcquire (s : State) (t : Tid) (i scope : Nat) (fence : Bool) : SameView s (s.startAcquire t i scope fence) := by
  unfold State.startAcquire
  extract_lets stalls
  have hmake := sameView_makeAcquire s t scope fence stalls
  split
  · next hm =>
    rw [hm] at hmake
    split
    · exact hmake
    · exact hmake.trans (SameView.modThread _ t _)
  · next hm =>
    rw [hm] at hmake
    exact hmake

theorem sameView_setThread (s : State) (f : Thread → Thread) : SameView s (setThread s f) := SameView.modThread s s.cur.tid f

theorem sameView_sendFill (s : State) (p : ResPort) (m : Mask) (v : Nat → Word) (lat : Nat) : SameView s (s.sendFill p m v lat) := by
  unfold State.sendFill
  exact SameView.modThread s _ _

theorem sameView_acquirePends (s : State) (c : Nat) : SameView s (acquirePends s c) := by
  unfold acquirePends
  exact sameView_setThread s _

/-! ## Acquires (06 R129, 13 R258) -/

/-- An acquire that nothing holds is done at once. -/
theorem makeAcquire_now {s : State} {c : Nat} (h : acquiresNow s c) (stalls : Bool) :
    s.makeAcquire s.cur.tid c false stalls = (s.acquire s.cur.tid c, none) := by
  obtain ⟨hnone, hready⟩ := h
  have hacqs : (s.thread s.cur.tid).acqs.isEmpty = true := by
    rw [List.isEmpty_iff]
    exact hnone
  have hready' : s.acquireReady s.cur.tid (s.thread s.cur.tid).seq c (s.die (dieOf s.cur.tid.core)).logEnd = true := hready
  simp [State.makeAcquire, State.acquireMay, hacqs, hready']

/-- The acquire that is pending at the issuing thread. -/
def pendingAcquire (s : State) (c : Nat) : Acquire :=
  { seq := s.self.seq, scope := c, upto := (s.die (dieOf s.cur.tid.core)).logEnd, fence := false, stalls := decide (3 ≤ c) }

theorem makeAcquire_later {s : State} {c : Nat} (h : ¬acquiresNow s c) :
    s.makeAcquire s.cur.tid c false (decide (3 ≤ c)) = (acquirePends s c, some (pendingAcquire s c)) := by
  have hno : ((s.thread s.cur.tid).acqs.isEmpty && s.acquireMay s.cur.tid (pendingAcquire s c)) = false := by
    refine Decidable.byContradiction fun hyes => ?_
    rw [Bool.not_eq_false, Bool.and_eq_true, List.isEmpty_iff] at hyes
    obtain ⟨hnone, hmay⟩ := hyes
    rw [State.acquireMay, Bool.and_eq_true] at hmay
    exact h ⟨hnone, hmay.1⟩
  rw [State.makeAcquire]
  exact if_neg (ne_true_of_eq_false hno)

theorem startAcquire_stalls (c : Nat) : (!(decide (c ≤ 1) || decide (c = 2) && !false)) = decide (3 ≤ c) := by
  rw [Bool.eq_iff_iff]
  simp
  omega

theorem startAcquire_now {s : State} {c : Nat} (h : acquiresNow s c) :
    s.startAcquire s.cur.tid s.cur.split c false = s.acquire s.cur.tid c := by
  rw [State.startAcquire, startAcquire_stalls, makeAcquire_now h]

theorem startAcquire_pends {s : State} {c : Nat} (h : ¬acquiresNow s c) (hc : c ≤ 2) :
    s.startAcquire s.cur.tid s.cur.split c false = acquirePends s c := by
  rw [State.startAcquire, startAcquire_stalls, makeAcquire_later h]
  exact if_pos (by simp; omega)

theorem startAcquire_waits {s : State} {c : Nat} (h : ¬acquiresNow s c) (hc : 3 ≤ c) :
    s.startAcquire s.cur.tid s.cur.split c false = setSelf (acquirePends s c) fun sp =>
      { sp with wait := { kind := 5, w0 := BitVec.ofNat 32 c, w1 := 0#32, due := s.self.seq }, place := .away } := by
  rw [State.startAcquire, startAcquire_stalls, makeAcquire_later h]
  exact if_neg (by simp [hc])

theorem scope_fen_waits {c : Nat} (h : 2 ≤ c) : ¬c ≤ 1 := by omega

theorem rel_low_does (h : Head) (e : Scope) : does (.rel h e) h (wideReads [] false) (fun _ => Scope.code e ≤ 1) id :=
  syncAction_does (fun _ => rfl) (fun _ _ => rfl) (fun _ _ => rfl) (fun s hs => s.release_low s.cur.tid hs) (fun s _ => .refl s)

theorem release_high {s : State} {c : Nat} (h : 2 ≤ c) : s.release s.cur.tid c = setThread s fun th => { th with
    releases := th.releases ++ [{ seq := th.seq, scope := c, need := if 5 ≤ c then s.observedLines s.cur.tid else [] }],
    seq := th.seq + 1 } := by
  rw [State.release]
  exact if_neg (by omega)

theorem rel_high_does (h : Head) (e : Scope) : does (.rel h e) h (wideReads [] false) (fun _ => 2 ≤ Scope.code e)
    (fun s => setThread s fun th => { th with
      releases := th.releases ++ [{ seq := th.seq, scope := Scope.code e, need := if 5 ≤ Scope.code e then s.observedLines s.cur.tid else [] }],
      seq := th.seq + 1 }) :=
  syncAction_does (fun _ => rfl) (fun _ _ => rfl) (fun _ _ => rfl) (fun _ hs => release_high hs) (fun s _ => SameView.modThread s _ _)

theorem acq_does (h : Head) (e : Scope) {ok : State → Prop} {after : State → State}
    (hafter : ∀ s, ok s → s.startAcquire s.cur.tid s.cur.split (Scope.code e) false = after s) :
    does (.acq h e) h (wideReads [] false) ok after :=
  syncAction_does (fun _ => rfl) (fun _ _ => rfl) (fun _ _ => rfl) hafter
    (fun s hs => hafter s hs ▸ sameView_startAcquire s s.cur.tid s.cur.split (Scope.code e) false)

theorem fen_low_does (h : Head) (e : Scope) : does (.fen h e) h (wideReads [] false) (fun _ => Scope.code e ≤ 1) id :=
  syncAction_does (fun _ => rfl) (fun _ _ => rfl) (fun _ _ => rfl) (fun _ hs => if_pos hs) (fun s _ => .refl s)

theorem fen_high_does (h : Head) (e : Scope) : does (.fen h e) h (wideReads [] false) (fun _ => 2 ≤ Scope.code e)
    (fun s => (s.release s.cur.tid (Scope.code e)).startAcquire s.cur.tid s.cur.split (Scope.code e) true) :=
  syncAction_does (fun _ => rfl) (fun _ _ => rfl) (fun _ _ => rfl) (fun _ hs => if_neg (scope_fen_waits hs))
    (fun s _ => (sameView_release s _ _).trans (sameView_startAcquire _ _ _ _ _))

/-! ## Block barriers (06 R117 to R120) -/

theorem taskOnly_of_task {s : State} (h : s.self.level = false) (own : Option TrapRec) : s.taskOnly own = own := by
  simp [State.taskOnly, h]

theorem taskOnly_of_handler {s : State} (h : s.self.level = true) (own : Option TrapRec) :
    s.taskOnly own = some (s.trapWord 0x02) := by
  simp [State.taskOnly, h]

theorem bits_id (v : Word) : v.bits 3 0 = v.toNat % 16 := by simp [Word.bits]

theorem bits_count (v : Word) : v.bits 9 4 = v.toNat / 16 % 64 := by simp [Word.bits]

theorem bits_generation {v : Word} (h : v.toNat < 2 ^ 20) : v.bits 19 4 = v.toNat / 16 := by
  simp only [Word.bits]
  omega

theorem barCheck_of_legal {h : Head} {s : State} (hl : barLegal h s) : barCheck h s = none := by
  obtain ⟨hlevel, hv, hcount, hexcl, hsluice, hfixed⟩ := hl
  have hbit : (leadT h s).bit 10 = decide (1024 ≤ (leadT h s).toNat) := bit_top hv
  have hhigh : ¬(leadT h s).bits 31 11 ≠ 0 := by
    rw [bits_high_ne_zero _ (by decide)]
    exact Classical.not_not.2 hv
  rw [barCheck, taskOnly_of_task hlevel, lead_eq_leadT, bits_id, bits_count, hbit]
  refine if_neg ?_
  have hmismatch : (s.barrier s.cur.tid.core s.cur.tid.ctx ((leadT h s).toNat % 16)).mismatch ((leadT h s).toNat / 16 % 64)
      (decide (1024 ≤ (leadT h s).toNat)) = false := by
    rw [Barrier.mismatch]
    by_cases hf : (s.barrier s.cur.tid.core s.cur.tid.ctx ((leadT h s).toNat % 16)).fixed = true
    · obtain ⟨hc, hs⟩ := hfixed hf
      simp [hc, hs]
    · simp [hf]
  rw [hmismatch]
  simp only [hhigh, decide_false, Bool.false_or, Bool.or_false, Bool.or_eq_true, Bool.and_eq_true, decide_eq_true_eq, ne_eq,
    Bool.not_eq_true', decide_eq_false_iff_not, not_or, not_and, Classical.not_not, Nat.not_lt]
  refine ⟨⟨hcount, hexcl⟩, fun hs => ?_⟩
  rcases hsluice hs.1 with hne | hle
  · exact absurd hs.2 hne
  · exact hle

/-! ## Arrivals (06 R117 to R119) -/

/-- What the model's arrival does, and the token that it gives. -/
theorem arrive_eq {h : Head} {s : State} (hl : barLegal h s) : s.arrive (leadT h s) = ((arrival h s).1, tokenOf h s) := by
  obtain ⟨-, hv, -⟩ := hl
  rw [State.arrive, bits_id, bits_count, bit_top (n := 10) hv]
  rfl

theorem syncFrame_barArrive (s : State) (t : Tid) (id count : Nat) (b : Bool) (m : Mask) : SyncFrame s (s.barArrive t id count b m).1 :=
  syncFrame_setBarrier s _ _ _ _

theorem sameView_arrival (h : Head) (s : State) : SameView s (arrival h s).1 :=
  (sameView_release s _ _).trans (syncFrame_barArrive _ _ _ _ _ _).view

theorem self_modThread_self (s : State) (f : Thread → Thread) : (s.modThread s.cur.tid f).self = f s.self := State.thread_modThread ..

/-- A release changes neither splits nor entries of its thread. -/
theorem release_tables (s : State) (scope : Nat) :
    (s.release s.cur.tid scope).self.splits = s.self.splits ∧ (s.release s.cur.tid scope).self.joins = s.self.joins := by
  unfold State.release
  split
  · exact ⟨rfl, rfl⟩
  · dsimp only
    rw [self_modThread_self]
    exact ⟨rfl, rfl⟩

theorem arrival_tables (h : Head) (s : State) :
    (arrival h s).1.self.splits = s.self.splits ∧ (arrival h s).1.self.joins = s.self.joins := release_tables s 2

theorem arrival_cur (h : Head) (s : State) : (arrival h s).1.cur = s.cur := by
  rw [arrival, (syncFrame_barArrive _ _ _ _ _ _).cur, s.release_frame]

theorem split_modSplit_entry (th : Thread) (i : Nat) {f : Split → Split} (hf : ∀ sp, (f sp).entry = sp.entry) :
    ((th.modSplit i f).split i).entry = (th.split i).entry := by
  by_cases hl : i < th.splits.length
  · simp [Thread.modSplit, Thread.setSplit, Thread.split, setAt, hl, hf]
  · simp [Thread.modSplit, Thread.setSplit, Thread.split, setAt, hl]

/-- A wait leaves the entry that the split names, and every entry. -/
theorem waiting_tables (s : State) (kind : Nat) (w0 w1 : Word) :
    ((waiting s kind w0 w1).self.split s.cur.split).entry = (s.self.split s.cur.split).entry
      ∧ ∀ e, (waiting s kind w0 w1).self.join e = s.self.join e := by
  unfold waiting State.waitSelf
  split
  · exact ⟨rfl, fun _ => rfl⟩
  · rw [State.modSelfSplit, self_modThread_self]
    exact ⟨split_modSplit_entry _ _ fun _ => rfl, fun _ => rfl⟩

theorem waiting_cur (s : State) (kind : Nat) (w0 w1 : Word) : (waiting s kind w0 w1).cur = s.cur := by
  rw [waiting, s.waitSelf_frame]

theorem waiting_block (s : State) (kind : Nat) (w0 w1 : Word) (c x : Nat) : (waiting s kind w0 w1).block c x = s.block c x := by
  rw [waiting, s.waitSelf_frame]
  rfl

theorem heldBack_waiting (s : State) (kind : Nat) (w0 w1 : Word) (e : Nat) (token : Word) :
    (waiting s kind w0 w1).heldBack e token = s.heldBack e token := by
  unfold State.heldBack State.barrier
  rw [(waiting_tables s kind w0 w1).2, waiting_cur, waiting_block]

/-- What BAR does once it has arrived (06 R117, R120). -/
def barEffect (s u : State) (token : Word) : State :=
  let w := u.waitSelf 1 token 0#32
  match w.selfSplit.entry with
  | some e => if w.heldBack e token then w.modThread s.cur.tid fun th => th.giveWay s.clk s.cur.split e else w
  | none => w

theorem bar_exec (h : Head) (s : State) :
    exec (.bar h) s = (syncAction h [] true (fun _ => false) (barCheck h) fun s => barEffect s (s.arrive (s.lead h)).1 (s.arrive (s.lead h)).2).outcome s :=
  rfl

/-- The waiting split of BAR names the entry that it named before. -/
theorem waiting_arrival_entry (h : Head) (s : State) :
    (waiting (arrival h s).1 1 (tokenOf h s) 0#32).selfSplit.entry = (s.self.split s.cur.split).entry := by
  have hcur : (waiting (arrival h s).1 1 (tokenOf h s) 0#32).cur = s.cur := (waiting_cur ..).trans (arrival_cur h s)
  have hw := (waiting_tables (arrival h s).1 1 (tokenOf h s) 0#32).1
  rw [arrival_cur] at hw
  rw [State.selfSplit, hcur, hw, Thread.split, (arrival_tables h s).1]
  rfl

theorem bar_does {h : Head} {ok : State → Prop} {after : State → State} (hl : ∀ s, ok s → barLegal h s)
    (hafter : ∀ s, ok s → barEffect s (arrival h s).1 (tokenOf h s) = after s) (hview : ∀ s, SameView s (after s)) :
    does (.bar h) h (wideReads [] true) ok after := by
  refine syncAction_does (bar_exec h) (fun _ _ => rfl) (fun s hs => barCheck_of_legal (hl s hs)) (fun s hs => ?_) fun s _ => hview s
  rw [lead_eq_leadT, arrive_eq (hl s hs)]
  exact hafter s hs

theorem sameView_bar_waits (h : Head) (s : State) : SameView s (waiting (arrival h s).1 1 (tokenOf h s) 0#32) :=
  (sameView_arrival h s).trans (sameView_waiting _ _ _ _)

/-- BAR where its split names no entry, or none that holds lanes back. -/
theorem barEffect_waits {h : Head} {s : State}
    (hno : ∀ e, (s.self.split s.cur.split).entry = some e → (arrival h s).1.heldBack e (tokenOf h s) = false) :
    barEffect s (arrival h s).1 (tokenOf h s) = waiting (arrival h s).1 1 (tokenOf h s) 0#32 := by
  rw [barEffect, ← waiting, waiting_arrival_entry]
  split
  · next e he => rw [heldBack_waiting, hno e he]; rfl
  · rfl

/-- BAR where the lanes that its serial entry holds have yet to arrive (06 R120). -/
theorem barEffect_swaps {h : Head} {s : State} {e : Nat} (he : (s.self.split s.cur.split).entry = some e)
    (hheld : (arrival h s).1.heldBack e (tokenOf h s) = true) :
    barEffect s (arrival h s).1 (tokenOf h s) = setThread (waiting (arrival h s).1 1 (tokenOf h s) 0#32) (swapped s e) := by
  rw [barEffect, ← waiting, waiting_arrival_entry, he]
  dsimp only
  rw [heldBack_waiting, if_pos hheld]
  have hcur : (waiting (arrival h s).1 1 (tokenOf h s) 0#32).cur = s.cur := (waiting_cur ..).trans (arrival_cur h s)
  have hjoin : ((waiting (arrival h s).1 1 (tokenOf h s) 0#32).thread s.cur.tid).join e = s.self.join e := by
    have hj := (waiting_tables (arrival h s).1 1 (tokenOf h s) 0#32).2 e
    rw [State.self, hcur] at hj
    rw [hj, Thread.join, (arrival_tables h s).2]
    rfl
  rw [setThread, hcur]
  refine modThread_congr ?_
  simp only [Thread.giveWay, swapped, heldSplit, hjoin]

theorem bara_does (h : Head) : does (.bara h) h (wideReads [] true) (fun s => barLegal h s ∧ yFree s)
    (fun s => answersY (arrival h s).1 (activeLanes s) (tokenOf h s)) := by
  refine syncAction_does (fun _ => rfl) (fun s hs => hs.2) (fun s hs => barCheck_of_legal hs.1) (fun s hs => ?_)
    (fun s _ => (sameView_arrival h s).trans (sameView_sendFill _ _ _ _ _))
  rw [lead_eq_leadT, arrive_eq hs.1]
  rfl

theorem barwCheck_of_task {h : Head} {s : State} (hl : s.self.level = false) (hv : (leadT h s).toNat < 2 ^ 20) : barwCheck h s = none := by
  rw [barwCheck, taskOnly_of_task hl, lead_eq_leadT]
  refine if_neg ?_
  rw [bits_high_ne_zero _ (by decide)]
  exact Classical.not_not.2 hv

/-- What BARW does. -/
def barwEffect (h : Head) (s : State) : State :=
  let v := s.lead h
  if genOver (s.barrier s.cur.tid.core s.cur.tid.ctx (v.bits 3 0)).gen (v.bits 19 4) then s.joinAcquire s.cur.tid 2 else s.waitSelf 2 v 0#32

/-- The generation of BARW's token is over. -/
def barwOver (h : Head) (s : State) : Bool :=
  genOver (s.barrier s.cur.tid.core s.cur.tid.ctx ((leadT h s).toNat % 16)).gen ((leadT h s).toNat / 16)

theorem barwEffect_eq {h : Head} {s : State} (hv : (leadT h s).toNat < 2 ^ 20) :
    barwEffect h s = if barwOver h s then s.joinAcquire s.cur.tid 2 else waiting s 2 (leadT h s) 0#32 := by
  rw [barwEffect, lead_eq_leadT]
  rw [bits_id, bits_generation hv]
  rfl

theorem barw_does {h : Head} {ok : State → Prop} {after : State → State}
    (hok : ∀ s, ok s → s.self.level = false ∧ (leadT h s).toNat < 2 ^ 20)
    (hafter : ∀ s, ok s → (if barwOver h s then s.joinAcquire s.cur.tid 2 else waiting s 2 (leadT h s) 0#32) = after s)
    (hview : ∀ s, SameView s (after s)) : does (.barw h) h (wideReads [] true) ok after := by
  refine syncAction_does (effect := barwEffect h) (fun _ => rfl) (fun _ _ => rfl) (fun s hs => barwCheck_of_task (hok s hs).1 (hok s hs).2)
    (fun s hs => ?_) (fun s _ => hview s)
  rw [barwEffect_eq (hok s hs).2]
  exact hafter s hs

theorem joinAcquire_now {s : State} (h : acquiresNow s 2) : s.joinAcquire s.cur.tid 2 = s.acquire s.cur.tid 2 := by
  rw [State.joinAcquire, makeAcquire_now h]

theorem joinAcquire_later {s : State} (h : ¬acquiresNow s 2) : s.joinAcquire s.cur.tid 2 = acquirePends s 2 :=
  congrArg Prod.fst (makeAcquire_later h)

/-- At handler level each of the barrier instructions is illegal (06 R113). -/
theorem barriers_at_handler {h : Head} {s : State} (hp : s.primed h (wideReads [] true) = true) (hy : yFree s)
    (hl : s.self.level = true) : ∀ i ∈ [Instr.bar h, .bara h, .barw h, .sync h], exec i s = trapsWith s 0x02 s.cur.word := by
  have htraps : ∀ {waits : State → Bool} {own : State → Option TrapRec} {effect : State → State}, waits s = false →
      own s = some (s.trapWord 0x02) → (syncAction h [] true waits own effect).outcome s = trapsWith s 0x02 s.cur.word :=
    fun hw ho => syncAction_traps hp hw ho
  intro i hi
  simp only [List.mem_cons, List.not_mem_nil, or_false] at hi
  rcases hi with rfl | rfl | rfl | rfl
  · exact htraps rfl (taskOnly_of_handler hl _)
  · exact htraps hy (taskOnly_of_handler hl _)
  · exact htraps rfl (taskOnly_of_handler hl _)
  · exact htraps rfl (taskOnly_of_handler hl _)

/-! ## SYNC (06 R122, R123) -/

/-- The scope that a SYNC names. -/
def syncScope (h : Head) (s : State) : Nat := (leadT h s).toNat % 16

theorem syncScope_eq (h : Head) (s : State) : syncScope h s = (leadT h s).bits 3 0 := (bits_id _).symm

theorem syncCheck_of_legal {h : Head} {s : State} (hl : s.self.level = false) (hv : (leadT h s).toNat < 32) (hlo : 3 ≤ syncScope h s)
    (hhi : syncScope h s ≤ 8) (hconf : s.syncConflict s.cur.tid.core s.cur.tid.ctx (syncScope h s) (leadT h s) = false)
    (hpods : syncScope h s = 8 → s.pack.variant.hasPods = true) : syncCheck h s = none := by
  rw [syncCheck, taskOnly_of_task hl, lead_eq_leadT, bits_id, ← syncScope]
  have hhigh : ¬(leadT h s).bits 31 5 ≠ 0 := by
    rw [bits_high_ne_zero _ (by decide)]
    exact Classical.not_not.2 hv
  have hrange : ¬(decide ((leadT h s).bits 31 5 ≠ 0) || decide (syncScope h s < 3) || decide (8 < syncScope h s)) = true := by
    simp only [Bool.or_eq_true, decide_eq_true_eq, not_or, Nat.not_lt]
    exact ⟨⟨hhigh, hlo⟩, hhi⟩
  rw [if_neg hrange, hconf]
  refine (if_neg (by decide)).trans (if_neg ?_)
  simp only [Bool.and_eq_true, decide_eq_true_eq, Bool.not_eq_true']
  intro ⟨h8, hno⟩
  rw [hpods h8] at hno
  exact absurd hno (by decide)

theorem syncCheck_of_scope {h : Head} {s : State} (hl : s.self.level = false)
    (hbad : 32 ≤ (leadT h s).toNat ∨ syncScope h s < 3 ∨ 8 < syncScope h s) : syncCheck h s = some (s.before 0x02 (leadT h s)) := by
  rw [syncCheck, taskOnly_of_task hl, lead_eq_leadT, bits_id, ← syncScope]
  refine if_pos ?_
  simp only [Bool.or_eq_true, decide_eq_true_eq]
  rw [bits_high_ne_zero _ (by decide)]
  omega

theorem syncFrame_syncArrive (s : State) (t : Tid) (scope : Nat) (v : Word) (m : Mask) : SyncFrame s (s.syncArrive t scope v m) := by
  unfold State.syncArrive
  exact syncFrame_setSync s _ _ _ _

theorem sync_does (h : Head) : does (.sync h) h (wideReads [] true)
    (fun s => s.self.level = false ∧ (leadT h s).toNat < 32 ∧ 3 ≤ syncScope h s ∧ syncScope h s ≤ 8
      ∧ s.syncConflict s.cur.tid.core s.cur.tid.ctx (syncScope h s) (leadT h s) = false ∧ (syncScope h s = 8 → s.pack.variant.hasPods = true))
    (fun s => waiting ((s.release s.cur.tid (syncScope h s)).syncArrive s.cur.tid (syncScope h s) (leadT h s) (activeLanes s &&& s.self.occupied))
      3 (BitVec.ofNat 32 ((s.sync s.cur.tid.core s.cur.tid.ctx (syncScope h s)).gen % 65536 * 16 + syncScope h s)) 0#32) := by
  refine syncAction_does (fun _ => rfl) (fun _ _ => rfl) (fun s hs => ?_) (fun s hs => ?_)
    (fun s _ => ((sameView_release s _ _).trans (syncFrame_syncArrive _ _ _ _ _).view).trans (sameView_waiting _ _ _ _))
  · obtain ⟨hl, hv, hlo, hhi, hconf, hpods⟩ := hs
    exact syncCheck_of_legal hl hv hlo hhi hconf hpods
  · rw [lead_eq_leadT, syncScope_eq]
    rfl

/-! ## Barrier objects (06 R126 to R128) -/

theorem objectCheck_of_named {h : Head} {bad : Word → Bool} {s : State} (hn : objectNamed h s) (hv : bad (leadT h s) = false) :
    objectCheck h bad s = none := by
  obtain ⟨halign, hsome⟩ := hn
  have hthere : (s.object s.cur.tid (leadOp .ya h s)).isNone = false := by
    rw [← Option.not_isSome, hsome]
    rfl
  rw [objectCheck, lead_eq_leadT, leadOper_eq_leadOp]
  simp [hv, halign, hthere]

theorem objectCheck_of_misaligned {h : Head} {bad : Word → Bool} {s : State} (ha : (leadOp .ya h s).toNat % 16 ≠ 0)
    (hv : bad (leadT h s) = false) : objectCheck h bad s = some (s.before 0x05 (leadOp .ya h s)) := by
  rw [objectCheck, lead_eq_leadT, leadOper_eq_leadOp]
  simp [hv, ha]

theorem arrivalsBad_eq_false {v : Word} (h1 : 1 ≤ v.toNat) (h2 : v.toNat ≤ 65535) : arrivalsBad v = false := by
  have h0 : v ≠ 0#32 := by
    rintro rfl
    exact absurd h1 (by decide)
  simp [arrivalsBad, h0, h2]

theorem bytesBad_eq_false {v : Word} (h : v.toNat < 2 ^ 31) : bytesBad v = false := by
  rw [bytesBad, bit_top (by exact v.isLt)]
  simpa using h

theorem parityBad_eq_false {v : Word} (h : v.toNat ≤ 1) : parityBad v = false := by simpa [parityBad] using h

theorem sameView_sendObject (s : State) (kind : Nat) (a v : Word) : SameView s (s.sendObject kind a v) := by
  unfold State.sendObject
  split
  · exact .refl s
  · exact .of_eq rfl rfl rfl

/-- An object instruction is free where its value and its object are as its rule takes them. -/
theorem object_does {i : Instr} {h : Head} {waits : State → Bool} {bad : Word → Bool} {effect after : State → State} {ok : State → Prop}
    (hexec : ∀ s, exec i s = (syncAction h [.ya] true waits (objectCheck h bad) effect).outcome s)
    (hwaits : ∀ s, ok s → waits s = false) (hok : ∀ s, ok s → objectNamed h s ∧ bad (leadT h s) = false)
    (heffect : ∀ s, ok s → effect s = after s) (hview : ∀ s, SameView s (after s)) : does i h (wideReads [.ya] true) ok after :=
  syncAction_does hexec hwaits (fun s hs => objectCheck_of_named (hok s hs).1 (hok s hs).2) heffect fun s _ => hview s

theorem boi_does (h : Head) : does (.boi h) h (wideReads [.ya] true)
    (fun s => objectNamed h s ∧ 1 ≤ (leadT h s).toNat ∧ (leadT h s).toNat ≤ 65535) (fun s => objectSent s 0 (leadOp .ya h s) (leadT h s)) := by
  refine object_does (fun _ => rfl) (fun _ _ => rfl) (fun s hs => ⟨hs.1, arrivalsBad_eq_false hs.2.1 hs.2.2⟩) (fun s _ => ?_)
    (fun s => sameView_sendObject s _ _ _)
  rw [lead_eq_leadT, leadOper_eq_leadOp]
  rfl

theorem box_does (h : Head) : does (.box h) h (wideReads [.ya] true) (fun s => objectNamed h s ∧ (leadT h s).toNat < 2 ^ 31)
    (fun s => objectSent s 1 (leadOp .ya h s) (leadT h s)) := by
  refine object_does (fun _ => rfl) (fun _ _ => rfl) (fun s hs => ⟨hs.1, bytesBad_eq_false hs.2⟩) (fun s _ => ?_)
    (fun s => sameView_sendObject s _ _ _)
  rw [lead_eq_leadT, leadOper_eq_leadOp]
  rfl

theorem sameView_awaitsY {s u : State} (v : SameView s u) (m : Mask) : SameView s (awaitsY u m) := v.trans (sameView_setThread u _)

/-- Y.q awaits a result of the issuing thread, which an operation on an object has not changed. -/
theorem awaitsY_eq {s u : State} (v : SameView s u) (m : Mask) :
    u.modThread s.cur.tid (fun th => th.setAwaiting .yq (th.awaiting .yq ||| m)) = awaitsY u m := by
  rw [awaitsY, setThread, v.tid]

theorem boa_does (h : Head) : does (.boa h) h (wideReads [.ya] true)
    (fun s => objectNamed h s ∧ 1 ≤ (leadT h s).toNat ∧ (leadT h s).toNat ≤ 65535 ∧ yFree s)
    (fun s => awaitsY (objectSent (s.release s.cur.tid (s.scopeOfObject s.cur.tid (leadOp .ya h s))) 2 (leadOp .ya h s) (leadT h s))
      (activeLanes s)) := by
  have hview : ∀ s, SameView s (objectSent (s.release s.cur.tid (s.scopeOfObject s.cur.tid (leadOp .ya h s))) 2 (leadOp .ya h s) (leadT h s)) :=
    fun s => (sameView_release s _ _).trans (sameView_sendObject _ _ _ _)
  refine object_does (fun _ => rfl) (fun s hs => hs.2.2.2) (fun s hs => ⟨hs.1, arrivalsBad_eq_false hs.2.1 hs.2.2.1⟩) (fun s _ => ?_)
    (fun s => sameView_awaitsY (hview s) _)
  dsimp only
  rw [lead_eq_leadT, leadOper_eq_leadOp]
  exact awaitsY_eq (hview s) _

theorem bow_over_does (h : Head) : does (.bow h) h (wideReads [.ya] true)
    (fun s => objectNamed h s ∧ (leadT h s).toNat ≤ 1 ∧ s.bowOver s.cur.tid (leadOp .ya h s ||| leadT h s) = true)
    (fun s => s.startAcquire s.cur.tid s.cur.split (s.scopeOfObject s.cur.tid (leadOp .ya h s)) false) := by
  refine object_does (fun _ => rfl) (fun _ _ => rfl) (fun s hs => ⟨hs.1, parityBad_eq_false hs.2.1⟩) (fun s hs => ?_)
    (fun s => sameView_startAcquire s _ _ _ _)
  dsimp only
  rw [lead_eq_leadT, leadOper_eq_leadOp, if_pos hs.2.2]

theorem bow_waits_does (h : Head) : does (.bow h) h (wideReads [.ya] true)
    (fun s => objectNamed h s ∧ (leadT h s).toNat ≤ 1 ∧ s.bowOver s.cur.tid (leadOp .ya h s ||| leadT h s) = false)
    (fun s => waiting s 4 0#32 (leadOp .ya h s ||| leadT h s)) := by
  refine object_does (fun _ => rfl) (fun _ _ => rfl) (fun s hs => ⟨hs.1, parityBad_eq_false hs.2.1⟩) (fun s hs => ?_)
    (fun s => sameView_waiting s _ _ _)
  dsimp only
  rw [lead_eq_leadT, leadOper_eq_leadOp, hs.2.2]
  rfl

theorem bot_does (h : Head) : does (.bot h) h (wideReads [.ya] true) (fun s => objectNamed h s ∧ (leadT h s).toNat ≤ 1 ∧ yFree s)
    (fun s => awaitsY (objectSent s 4 (leadOp .ya h s) (leadT h s)) (activeLanes s)) := by
  have hview : ∀ s, SameView s (objectSent s 4 (leadOp .ya h s) (leadT h s)) := fun s => sameView_sendObject _ _ _ _
  refine object_does (fun _ => rfl) (fun s hs => hs.2.2) (fun s hs => ⟨hs.1, parityBad_eq_false hs.2.1⟩) (fun s _ => ?_)
    (fun s => sameView_awaitsY (hview s) _)
  dsimp only
  rw [lead_eq_leadT, leadOper_eq_leadOp]
  exact awaitsY_eq (hview s) _

theorem objects_misaligned {h : Head} {s : State} (hp : s.primed h (wideReads [.ya] true) = true) (hy : yFree s)
    (h1 : 1 ≤ (leadT h s).toNat) (h2 : (leadT h s).toNat ≤ 1) (ha : (leadOp .ya h s).toNat % 16 ≠ 0) :
    ∀ i ∈ [Instr.boi h, .box h, .boa h, .bow h, .bot h], exec i s = trapsWith s 0x05 (leadOp .ya h s) := by
  have htraps : ∀ {waits : State → Bool} {bad : Word → Bool} {effect : State → State}, waits s = false → bad (leadT h s) = false →
      (syncAction h [.ya] true waits (objectCheck h bad) effect).outcome s = trapsWith s 0x05 (leadOp .ya h s) :=
    fun hw hb => syncAction_traps hp hw (objectCheck_of_misaligned ha hb)
  have harr : arrivalsBad (leadT h s) = false := arrivalsBad_eq_false h1 (Nat.le_trans h2 (by decide))
  have hpar : parityBad (leadT h s) = false := parityBad_eq_false h2
  intro i hi
  simp only [List.mem_cons, List.not_mem_nil, or_false] at hi
  rcases hi with rfl | rfl | rfl | rfl | rfl
  · exact htraps rfl harr
  · exact htraps rfl (bytesBad_eq_false (Nat.lt_of_le_of_lt h2 (by decide)))
  · exact htraps hy harr
  · exact htraps rfl hpar
  · exact htraps hy hpar

/-- A block whose barrier 0 is whole by an arrival of a warp that has ended, while a number of a later generation is already noted there. -/
def notedAhead : State := State.reset.setBarrier 0 0 0 { Barrier.empty with past := 1, seqs := [(128, 1)] }

end Sys2Proof.Claim

open Sys2Proof Sys2Proof.Claim

/-- Settles O24: BAR waiting and giving way, BARA, BARW in its three cases, and the trap at handler level. -/
theorem blockBarriersCount : Obligations.BlockBarriersCount := by
  unfold Obligations.BlockBarriersCount
  exact fun h =>
    ⟨bar_does (fun s hs => hs.1) (fun s hs => barEffect_waits fun e he => absurd (hs.2.symm.trans he) nofun) (sameView_bar_waits h),
      fun e => bar_does (fun s hs => hs.1) (fun s hs => barEffect_waits fun e' he => by
        obtain ⟨-, hentry, hno⟩ := hs
        obtain rfl : e = e' := Option.some.inj (hentry.symm.trans he)
        exact hno) (sameView_bar_waits h),
      fun e => bar_does (fun s hs => hs.1) (fun s hs => barEffect_swaps hs.2.1 hs.2.2)
        fun s => (sameView_bar_waits h s).trans (SameView.modThread _ _ _),
      bara_does h,
      barw_does (fun s hs => ⟨hs.1, hs.2.1⟩) (fun s hs => (if_pos hs.2.2.2).trans (joinAcquire_now hs.2.2.1)) fun s => sameView_acquire s _ _,
      barw_does (fun s hs => ⟨hs.1, hs.2.1⟩) (fun s hs => (if_pos hs.2.2.2).trans (joinAcquire_later hs.2.2.1))
        fun s => sameView_acquirePends s _,
      barw_does (fun s hs => ⟨hs.1, hs.2.1⟩) (fun s hs => if_neg (ne_true_of_eq_false hs.2.2)) fun s => sameView_waiting s _ _ _,
      fun i hi s hp hy hl => barriers_at_handler hp hy hl i hi⟩

/-- Refutes O25: a number that is noted for a later generation is carried over when a generation turns, although no arrival is carried. -/
theorem not_barrierGenerationsTurn : ¬Obligations.BarrierGenerationsTurn := by
  unfold Obligations.BarrierGenerationsTurn
  intro h
  have hturn := (h.2 notedAhead 0 0 0 (by decide) (by decide) rfl).1
  exact absurd (congrArg Barrier.seqs hturn) (by decide)

/-- Settles O26: SYNC with a scope that it takes, and the trap of any other. -/
theorem syncArrives : Obligations.SyncArrives := by
  unfold Obligations.SyncArrives
  exact fun h => ⟨sync_does h, fun s hp hl hbad => syncAction_traps hp rfl (syncCheck_of_scope hl hbad)⟩

/-- Settles O27: the five object instructions, and the trap of an offset that is no multiple of 16. -/
theorem barrierObjectsAreAsked : Obligations.BarrierObjectsAreAsked := by
  unfold Obligations.BarrierObjectsAreAsked
  exact fun h => ⟨boi_does h, box_does h, boa_does h, bow_over_does h, bow_waits_does h, bot_does h,
    fun i hi s hp hy h1 h2 ha => objects_misaligned hp hy h1 h2 ha i hi⟩

/-- Settles O28: REL, ACQ done at once, pending and waited for, and FEN. -/
theorem releasesAndAcquires : Obligations.ReleasesAndAcquires := by
  unfold Obligations.ReleasesAndAcquires
  exact fun h e => ⟨rel_low_does h e, rel_high_does h e, acq_does h e fun _ hs => startAcquire_now hs,
    acq_does h e fun _ hs => startAcquire_pends hs.1 hs.2, acq_does h e fun _ hs => startAcquire_waits hs.1 hs.2,
    fen_low_does h e, fen_high_does h e⟩

end

section
/-! SUPPORT. The system instructions (16 R310 to R321; 10 R198; 14 R279): CSRs, RTE, CHK, SHP, OBJ and EVT. -/

open Sys2Proof.Machine

namespace Sys2Proof.Claim

/-! ## CSRs (16 R311, R312) -/

theorem any_kq_eq_false {s : State} (h : kFree s) : s.self.fills.any (fun f => f.port == .kq) = false := any_fills_eq_false h

/-- A K trigger whose own check fails, once no K result is awaited. -/
theorem systemAction_traps {h : Head} {ops : List OpPort} {t : Bool} {waits : State → Bool} {own : State → Option TrapRec}
    {effect : State → State} {s : State} {r : TrapRec} (hp : s.primed h (wideReads ops t) = true) (hk : kFree s) (hwaits : waits s = false)
    (hown : own s = some r) : (systemAction h ops t waits own effect).outcome s = .next (s.takeTrap s.cur.tid s.cur.split r) := by
  refine Action.trigger_traps hp ?_ rfl rfl rfl rfl rfl hown
  show (s.self.fills.any (fun f => f.port == .kq) || waits s) = false
  rw [any_kq_eq_false hk, hwaits]
  rfl

/-- A K trigger without a wait of its own. -/
theorem kAction_does {i : Instr} {h : Head} {ops : List OpPort} {t : Bool} {own : State → Option TrapRec} {effect after : State → State}
    {ok : State → Prop} (hexec : ∀ s, exec i s = (systemAction h ops t (fun _ => false) own effect).outcome s) (hfree : ∀ s, ok s → kFree s)
    (hown : ∀ s, ok s → own s = none) (heffect : ∀ s, ok s → effect s = after s) (hview : ∀ s, ok s → SameView s (after s)) :
    does i h (wideReads ops t) ok after :=
  systemAction_does hexec (fun s hs => by rw [any_kq_eq_false (hfree s hs)]; rfl) hown heffect hview

theorem bits_csr (v : Word) : v.bits 11 0 = v.toNat % 4096 := by simp [Word.bits]

theorem csrCheck_of_named {h : Head} {s : State} (hn : csrNamed h s) : csrCheck h s = none := by
  obtain ⟨hlt, hsome⟩ := hn
  rw [csrCheck, lead_eq_leadT, bits_csr, ← csrNumber]
  refine if_neg ?_
  rw [Bool.or_eq_true, decide_eq_true_eq, bits_high_ne_zero _ (by decide), ← Option.not_isSome, hsome, not_or]
  exact ⟨Classical.not_not.2 hlt, by decide⟩

theorem csrCheck_of_unnamed {h : Head} {s : State} (hn : ¬csrNamed h s) : csrCheck h s = some (s.before 0x02 (leadT h s)) := by
  rw [csrCheck, lead_eq_leadT, bits_csr, ← csrNumber]
  refine if_pos ?_
  rw [Bool.or_eq_true, decide_eq_true_eq, bits_high_ne_zero _ (by decide), ← Option.not_isSome, Bool.not_eq_true']
  by_cases hlt : (leadT h s).toNat < 2 ^ 12
  · exact .inr (Bool.eq_false_iff.2 fun hsome => hn ⟨hlt, hsome⟩)
  · exact .inl hlt

theorem csrLead_eq (h : Head) (s : State) : s.csrLead h = csrNow h s := by
  rw [State.csrLead, lead_eq_leadT, bits_csr]
  rfl

theorem answersK_eq (h : Head) (s : State) : s.sendFill .kq s.active (fun _ => s.csrLead h) 2 = answersK h s := by
  rw [csrLead_eq]
  rfl

theorem sameView_answersK (h : Head) (s : State) : SameView s (answersK h s) := by
  unfold answersK
  exact sameView_sendFill s _ _ _ _

theorem csrr_exec (h : Head) (s : State) : exec (.csrr h) s = (systemAction h [] true (fun _ => false) (csrCheck h) fun s =>
    if (s.lead h).bits 11 0 = 0 then
      (s.sendFill .kq s.active (fun _ => s.csrLead h) 2).modThread s.cur.tid fun th => { th with clkh := w32 (s.clk / 2 ^ 32) }
    else s.sendFill .kq s.active (fun _ => s.csrLead h) 2).outcome s := rfl

theorem csrr_other_does (h : Head) : does (.csrr h) h (wideReads [] true) (fun s => csrNamed h s ∧ kFree s ∧ csrNumber h s ≠ 0)
    (fun s => answersK h s) := by
  refine kAction_does (csrr_exec h) (fun s hs => hs.2.1) (fun s hs => csrCheck_of_named hs.1) (fun s hs => ?_) fun s _ => sameView_answersK h s
  rw [answersK_eq, lead_eq_leadT, bits_csr]
  exact if_neg hs.2.2

theorem csrr_clk_does (h : Head) : does (.csrr h) h (wideReads [] true) (fun s => csrNamed h s ∧ kFree s ∧ csrNumber h s = 0)
    (fun s => setThread (answersK h s) fun th => { th with clkh := BitVec.ofNat 32 (s.clk / 2 ^ 32) }) := by
  refine kAction_does (csrr_exec h) (fun s hs => hs.2.1) (fun s hs => csrCheck_of_named hs.1) (fun s hs => ?_)
    fun s _ => (sameView_answersK h s).trans (sameView_setThread _ _)
  rw [answersK_eq, lead_eq_leadT, bits_csr]
  exact if_pos hs.2.2

theorem csrr_traps {h : Head} {s : State} (hp : s.primed h (wideReads [] true) = true) (hk : kFree s) (hn : ¬csrNamed h s) :
    exec (.csrr h) s = trapsWith s 0x02 (leadT h s) :=
  systemAction_traps hp hk rfl (csrCheck_of_unnamed hn)

theorem csrwCheck_eq {h : Head} {s : State} (hn : csrNamed h s) : csrwCheck h s =
    if !csrWritable (csrNumber h s) s.self.level then some (s.trapWord 0x0F)
    else if csrBad (csrNumber h s) (leadOp .ka h s) then some (s.before 0x02 (leadOp .ka h s)) else none := by
  rw [csrwCheck, csrCheck_of_named hn, lead_eq_leadT, leadOper_eq_leadOp, bits_csr]
  rfl

theorem csrwCheck_of_ok {h : Head} {s : State} (hn : csrNamed h s) (hw : csrWritable (csrNumber h s) s.self.level = true)
    (hb : csrBad (csrNumber h s) (leadOp .ka h s) = false) : csrwCheck h s = none := by
  rw [csrwCheck_eq hn, hw, hb]
  rfl

theorem csrw_exec (h : Head) (s : State) : exec (.csrw h) s = (systemAction h [.ka] true (fun _ => false) (csrwCheck h) fun s =>
    (s.sendFill .kq s.active (fun _ => s.csrLead h) 2).writeCsr s.cur.tid ((s.lead h).bits 11 0) (s.leadOper h .ka)).outcome s := rfl

/-- A trigger of CSRW names the CSR `n`. -/
def writesAt (h : Head) (n : Nat) (s : State) : Prop := csrNamed h s ∧ kFree s ∧ csrNumber h s = n

theorem csrw_does {h : Head} (n : Nat) {ok : State → Prop} {after : State → State} (hat : ∀ s, ok s → writesAt h n s)
    (hw : ∀ s, ok s → csrWritable n s.self.level = true) (hb : ∀ s, ok s → csrBad n (leadOp .ka h s) = false)
    (hafter : ∀ s, ok s → (answersK h s).writeCsr s.cur.tid n (leadOp .ka h s) = after s) (hview : ∀ s, SameView (answersK h s) (after s)) :
    does (.csrw h) h (wideReads [.ka] true) ok after := by
  refine kAction_does (csrw_exec h) (fun s hs => (hat s hs).2.1) (fun s hs => ?_) (fun s hs => ?_)
    fun s _ => (sameView_answersK h s).trans (hview s)
  · obtain ⟨hn, -, rfl⟩ := hat s hs
    exact csrwCheck_of_ok hn (hw s hs) (hb s hs)
  · obtain ⟨-, -, hnum⟩ := hat s hs
    rw [answersK_eq, lead_eq_leadT, leadOper_eq_leadOp, bits_csr, ← csrNumber, hnum]
    exact hafter s hs

theorem csrw_unwritable {h : Head} {s : State} (hp : s.primed h (wideReads [.ka] true) = true) (hn : csrNamed h s) (hk : kFree s)
    (hw : csrWritable (csrNumber h s) s.self.level = false) : exec (.csrw h) s = trapsWith s 0x0F s.cur.word := by
  refine systemAction_traps hp hk rfl ?_
  rw [csrwCheck_eq hn, hw]
  rfl

theorem csrw_refused {h : Head} {n : Nat} {s : State} (hp : s.primed h (wideReads [.ka] true) = true) (hat : writesAt h n s)
    (hw : csrWritable n s.self.level = true) (hb : csrBad n (leadOp .ka h s) = true) :
    exec (.csrw h) s = trapsWith s 0x02 (leadOp .ka h s) := by
  obtain ⟨hn, hk, rfl⟩ := hat
  refine systemAction_traps hp hk rfl ?_
  rw [csrwCheck_eq hn, hw, hb]
  rfl

theorem csrBad_fstat (v : Word) : csrBad 0x020 v = decide (32 ≤ v.toNat) := by
  show decide (v.bits 31 5 ≠ 0) = _
  rw [decide_eq_decide, bits_high_ne_zero _ (by decide)]
  omega

theorem csrBad_ashape (v : Word) : csrBad 0x040 v = decide (3 ≤ v.toNat) := by
  show (decide (v.bits 31 2 ≠ 0) || decide (v.bits 1 0 = 3)) = _
  rw [← Bool.decide_or, decide_eq_decide, bits_high_ne_zero _ (by decide), Word.bits]
  omega

theorem csrBad_tvec {v : Word} : csrBad 0x030 v = true ↔ v ≠ 0#32 ∧ v.toNat % 128 ≠ 8 := by
  show (decide (v ≠ 0#32) && decide (v.toNat % 128 ≠ 8)) = true ↔ _
  rw [Bool.and_eq_true, decide_eq_true_eq, decide_eq_true_eq]

theorem csrBad_tframe {v : Word} : csrBad 0x034 v = true ↔ v.toNat % 8192 ≠ 0 ∨ 0x80000 ≤ v.toNat := by
  show (decide (v.toNat % 8192 ≠ 0) || decide (0x80000 ≤ v.toNat)) = true ↔ _
  rw [Bool.or_eq_true, decide_eq_true_eq, decide_eq_true_eq]

theorem csrw_fstat_does (h : Head) : does (.csrw h) h (wideReads [.ka] true)
    (fun s => writesAt h 0x020 s ∧ (leadOp .ka h s).toNat < 32 ∧ s.cur.tid.isSluice = false)
    (fun s => setThread (answersK h s) fun th =>
      { th with fstat := leadOp .ka h s ||| (if th.raisedAt = s.clk then th.raisedNow.zeroExtend 32 else 0#32) }) := by
  refine csrw_does 0x020 (fun s hs => hs.1) (fun _ _ => rfl) (fun s hs => ?_) (fun s hs => ?_) (fun s => sameView_setThread _ _)
  · rw [csrBad_fstat]
    simpa using hs.2.1
  · exact if_neg (by simp [hs.2.2])

theorem csrw_fstat_sluice_does (h : Head) : does (.csrw h) h (wideReads [.ka] true)
    (fun s => writesAt h 0x020 s ∧ (leadOp .ka h s).toNat < 32 ∧ s.cur.tid.isSluice = true) (fun s => answersK h s) := by
  refine csrw_does 0x020 (fun s hs => hs.1) (fun _ _ => rfl) (fun s hs => ?_) (fun s hs => if_pos hs.2.2) (fun s => .refl _)
  rw [csrBad_fstat]
  simpa using hs.2.1

theorem sameView_late (s : State) (c x : Nat) (w : LateWrite) :
    SameView s (s.modBlock c x fun b => { b with late := b.late ++ [w] }) := by
  by_cases hk : s.cur.tid.core * 2 + s.cur.tid.ctx = c * 2 + x
  · have hb : ∀ u : State, u.block s.cur.tid.core s.cur.tid.ctx = u.block c x := fun u => by simp only [State.block, hk]
    refine .of_block (b := { s.selfBlock with late := s.selfBlock.late ++ [w] }) rfl rfl ?_ rfl rfl rfl rfl rfl
    show State.block _ s.cur.tid.core s.cur.tid.ctx = _
    rw [hb, State.block_modBlock, State.selfBlock, hb]
  · exact .of_eq rfl (State.block_modBlock_other s _ hk) rfl

theorem csrw_tvec_does (h : Head) : does (.csrw h) h (wideReads [.ka] true)
    (fun s => writesAt h 0x030 s ∧ (leadOp .ka h s = 0#32 ∨ (leadOp .ka h s).toNat % 128 = 8))
    (fun s => (answersK h s).modBlock s.cur.tid.core s.cur.tid.ctx fun b => { b with late := b.late ++ [lateWrite s 0x130 (leadOp .ka h s)] }) := by
  refine csrw_does 0x030 (fun s hs => hs.1) (fun _ _ => rfl) (fun s hs => Bool.eq_false_iff.2 fun hb => ?_) (fun s _ => rfl)
    (fun s => sameView_late _ _ _ _)
  obtain ⟨h0, h8⟩ := csrBad_tvec.1 hb
  exact hs.2.elim h0 h8

theorem csrw_tframe_does (h : Head) : does (.csrw h) h (wideReads [.ka] true)
    (fun s => writesAt h 0x034 s ∧ s.self.level = false ∧ (leadOp .ka h s).toNat % 8192 = 0 ∧ (leadOp .ka h s).toNat < 0x80000)
    (fun s => (answersK h s).modBlock s.cur.tid.core s.cur.tid.ctx fun b => { b with late := b.late ++ [lateWrite s 0x134 (leadOp .ka h s)] }) := by
  refine csrw_does 0x034 (fun s hs => hs.1) (fun s hs => by rw [hs.2.1]; rfl) (fun s hs => Bool.eq_false_iff.2 fun hb => ?_) (fun s _ => rfl)
    (fun s => sameView_late _ _ _ _)
  obtain ⟨-, -, h0, hlt⟩ := hs
  exact (csrBad_tframe.1 hb).elim (absurd h0) (Nat.not_le.2 hlt)

theorem csrw_ashape_does (h : Head) : does (.csrw h) h (wideReads [.ka] true)
    (fun s => writesAt h 0x040 s ∧ (leadOp .ka h s).toNat ≤ 2)
    (fun s => (answersK h s).modCore s.cur.tid.core fun c => { c with late := c.late ++ [lateWrite s 0x140 (leadOp .ka h s)] }) := by
  refine csrw_does 0x040 (fun s hs => hs.1) (fun _ _ => rfl) (fun s hs => ?_) (fun s _ => rfl) (fun s => .of_eq rfl rfl rfl)
  rw [csrBad_ashape, decide_eq_false_iff_not]
  have := hs.2
  omega

theorem csrWritable_other {n : Nat} (h : n ∉ [0x020, 0x030, 0x034, 0x040]) (handler : Bool) : csrWritable n handler = false := by
  simp only [List.mem_cons, List.not_mem_nil, or_false, not_or] at h
  obtain ⟨h1, h2, h3, h4⟩ := h
  simp [csrWritable, h1, h2, h3, h4]

/-! ## The words of a frame (16 R317, 11 R235) -/

/-- A byte of a scratchpad as its thread finds it: the last of the thread's buffered stores to it, else what the scratchpad holds. -/
def ownByte (s : State) (t : Tid) (core a : Nat) : Byte :=
  (((s.core t.core).stores.filter fun x => x.tid == t && !x.global).flatMap fun e => e.lanes.flatMap fun l => l.cells).foldl
    (fun b c => if c.1 = scratchName (core, a) then c.2 else b) (s.scratchByte core a)

/-- Cells that do not name the address do not count in a fold over cells. -/
theorem foldl_cells_filter (x : Nat) {p : Host.Cell → Bool} (hp : ∀ c, c.1 = x → p c = true) (cells : List Host.Cell) (b : Byte) :
    (cells.filter p).foldl (fun b c => if c.1 = x then c.2 else b) b = cells.foldl (fun b c => if c.1 = x then c.2 else b) b := by
  rw [List.foldl_filter]
  refine List.foldl_rel (r := Eq) rfl fun c _ a b hab => ?_
  subst hab
  by_cases hc : c.1 = x
  · simp [hp c hc]
  · simp [hc]

theorem scratchName_add (core a i : Nat) : scratchName (core, a) + i = scratchName (core, a + i) := by
  simp only [scratchName]
  omega

theorem ownScratch_eq (s : State) (t : Tid) (core a n : Nat) :
    s.ownScratch t core a n = (List.range n).map fun i => ownByte s t core (a + i) := by
  unfold State.ownScratch
  extract_lets x mine cells
  refine List.map_congr_left fun i hi => ?_
  have hfilter : cells = (mine.flatMap fun e => e.lanes.flatMap fun l => l.cells).filter fun c => x ≤ c.1 && c.1 < x + n := by
    simp only [cells, List.filter_flatMap]
  rw [hfilter, foldl_cells_filter]
  · simp only [ownByte, x, scratchName_add]
    rfl
  · intro c hc
    have hlt := List.mem_range.1 hi
    simp only [Bool.and_eq_true, decide_eq_true_eq]
    omega

theorem flatMap_range_map {α : Type} (f : Nat → α) (m n : Nat) :
    ((List.range n).flatMap fun i => (List.range m).map fun j => f (m * i + j)) = (List.range (m * n)).map f := by
  induction n with
  | zero => rfl
  | succ n ih =>
    rw [List.range_succ, List.flatMap_append, ih, Nat.mul_succ, List.range_add, List.map_append, List.map_map]
    simp [Function.comp_def]

theorem take_drop_range {α : Type} (f : Nat → α) {n k j : Nat} (h : k * j + k ≤ n) :
    (((List.range n).map f).drop (k * j)).take k = (List.range k).map fun i => f (k * j + i) := by
  refine List.ext_getElem ?_ fun i h1 h2 => ?_
  · simp
    omega
  · simp

/-- The words of a frame, read one by one. -/
theorem ownWords_eq (s : State) (t : Tid) (core a : Nat) :
    s.ownWords t core a 2048 = (List.range 2048).map fun i => wordOf (s.ownScratch t core (a + 4 * i) 4) := by
  have hword : ∀ i j, j < 32 → wordOf (((s.ownScratch t core (a + 128 * i) 128).drop (4 * j)).take 4)
      = wordOf (s.ownScratch t core (a + 4 * (32 * i + j)) 4) := by
    intro i j hj
    rw [ownScratch_eq, ownScratch_eq, take_drop_range _ (by omega)]
    refine congrArg wordOf (List.map_congr_left fun k _ => ?_)
    rw [show a + 128 * i + (4 * j + k) = a + 4 * (32 * i + j) + k by omega]
  rw [State.ownWords, ← flatMap_range_map (fun i => wordOf (s.ownScratch t core (a + 4 * i) 4)) 32 64]
  refine congrArg List.flatten (List.map_congr_left fun i _ => ?_)
  exact List.map_congr_left fun j hj => hword i j (List.mem_range.1 hj)

/-! ## RTE (16 R308, R321) -/

theorem rte_exec (h : Head) (s : State) : exec (.rte h) s = (systemAction h [] false (fun s => s.handlerBusy) rteCheck fun s =>
    if s.self.level then (s.returnFromTrap s.cur.tid).renewWaits s.cur.tid else s).outcome s := rfl

/-- The end of an instruction that may end its thread, from the instruction's parts. -/
theorem ends_of {i : Instr} {h : Head} {r : Reads} {ok : State → Prop} {after : State → State} (a : Action)
    (hexec : ∀ s, exec i s = (Action.trigger h r a).outcome s) (hfree : ∀ s, s.primed h r = true → ok s → a.Free s)
    (heffect : ∀ s, s.primed h r = true → ok s → a.effect s = after s) : ends i h r ok after := by
  intro s hp hok
  obtain ⟨t, ht, hend⟩ := Action.trigger_ends hp (hfree s hp hok)
  rw [heffect s hp hok] at hend
  exact ⟨t, (hexec s).trans ht, hend⟩

theorem systemAction_ends {i : Instr} {h : Head} {ops : List OpPort} {t : Bool} {waits : State → Bool} {own : State → Option TrapRec}
    {effect after : State → State} {ok : State → Prop} (hexec : ∀ s, exec i s = (systemAction h ops t waits own effect).outcome s)
    (hfree : ∀ s, ok s → kFree s ∧ waits s = false ∧ own s = none) (heffect : ∀ s, ok s → effect s = after s) :
    ends i h (wideReads ops t) ok after :=
  ends_of { Action.idle with waits := fun s => s.self.fills.any (fun f => f.port == .kq) || waits s, own := own, effect := effect } hexec
    (fun s _ hok => ⟨by
      show (s.self.fills.any (fun f => f.port == .kq) || waits s) = false
      rw [any_kq_eq_false (hfree s hok).1, (hfree s hok).2.1]
      rfl, rfl, rfl, rfl, rfl, rfl, (hfree s hok).2.2⟩) (fun s _ hok => heffect s hok)

theorem rte_ends (h : Head) : ends (.rte h) h (wideReads [] false) (fun s => s.self.level = true ∧ kFree s ∧ s.handlerBusy = false)
    (fun s => (s.returnFromTrap s.cur.tid).renewWaits s.cur.tid) :=
  systemAction_ends (rte_exec h) (fun _ hs => ⟨hs.2.1, hs.2.2, if_pos hs.1⟩) (fun _ hs => if_pos hs.1)

theorem rte_traps {h : Head} {s : State} (hp : s.primed h (wideReads [] false) = true) (hk : kFree s) (hl : s.self.level = false) :
    exec (.rte h) s = trapsWith s 0x0F s.cur.word := by
  refine systemAction_traps hp hk ?_ (if_neg (by simp [hl]))
  rw [State.handlerBusy, hl]
  rfl

/-- A thread of which a return has changed nothing that its level, its flags and its splits say. -/
def SameStanding (a b : Thread) : Prop := b.level = a.level ∧ b.fstat = a.fstat ∧ b.splits = a.splits

theorem SameStanding.refl (a : Thread) : SameStanding a a := ⟨rfl, rfl, rfl⟩

theorem SameStanding.trans {a b c : Thread} (h : SameStanding a b) (k : SameStanding b c) : SameStanding a c :=
  ⟨k.1.trans h.1, k.2.1.trans h.2.1, k.2.2.trans h.2.2⟩

theorem sameStanding_reawait (th : Thread) (rs : List Redo) : SameStanding th (rs.foldl Thread.reawait th) :=
  List.foldlRecOn rs Thread.reawait (.refl th) fun _ hb _ _ => hb.trans ⟨rfl, rfl, rfl⟩

theorem sameStanding_remakeAtom (s : State) (t : Tid) (rs : List Redo) : SameStanding (s.thread t) ((s.remakeAtom t rs).thread t) := by
  unfold State.remakeAtom
  split
  · exact .refl _
  · dsimp only
    rw [State.thread_modThread]
    exact sameStanding_reawait _ _

theorem sameStanding_remake (s : State) (t : Tid) : SameStanding (s.thread t) ((s.remake t).thread t) := by
  unfold State.remake
  extract_lets fn s1 good
  have h1 : SameStanding (s.thread t) (s1.thread t) := by
    unfold s1
    split
    · rw [State.thread_modThread]
      exact ⟨rfl, rfl, rfl⟩
    · exact .refl _
  exact List.foldlRecOn (motive := fun u => SameStanding (s.thread t) (u.thread t)) _ _ h1
    fun u hu n _ => hu.trans (sameStanding_remakeAtom u t _)

theorem sameStanding_unaside (th : Thread) : SameStanding th th.unaside := by
  unfold Thread.unaside
  split <;> exact ⟨rfl, rfl, rfl⟩

/-- What the frame's words say of its thread. -/
def Restored (ws : List Word) (th : Thread) : Prop :=
  th.level = false ∧ th.fstat = ws.getD 5 0#32 &&& 31#32
    ∧ ∀ k, k < 4 → (th.split k).live = (ws.getD (18 + 28 * k) 0#32).getLsbD 31
      ∧ ((th.split k).live = true → (th.split k).pc = ws.getD (16 + 28 * k) 0#32 ∧ (th.split k).mask = ws.getD (17 + 28 * k) 0#32)

theorem getD_map_range {α : Type} (g : Nat → α) (d : α) {k n : Nat} (hk : k < n) : ((List.range n).map g).getD k d = g k := by
  simp [hk]

theorem frameRestore_reads (f : Nat) (ws : List Word) (sluice : Bool) (th : Thread) :
    (frameRestore f ws sluice th).fstat = ws.getD 5 0#32 &&& 31#32
      ∧ ∃ old : Nat → Split, (frameRestore f ws sluice th).splits = (List.range 4).map fun i => splitOf f ws i (old i) := by
  unfold frameRestore
  extract_lets keep ports th1 th2 th3 th4 half th5 th6 th7 th8 th9 th10
  exact ⟨rfl, fun i => ((th10.aside.map (·.splits)).getD []).getD i Split.empty, rfl⟩

theorem splitOf_reads (f : Nat) (ws : List Word) (k : Nat) (old : Split) :
    (splitOf f ws k old).live = (ws.getD (18 + 28 * k) 0#32).getLsbD 31
      ∧ ((splitOf f ws k old).live = true →
        (splitOf f ws k old).pc = ws.getD (16 + 28 * k) 0#32 ∧ (splitOf f ws k old).mask = ws.getD (17 + 28 * k) 0#32) := by
  have hoff : ∀ n, frameAt ws (0x40 + 112 * k + 4 * n) = ws.getD (16 + n + 28 * k) 0#32 := fun n => by
    rw [frameAt, show (0x40 + 112 * k + 4 * n) / 4 = 16 + n + 28 * k by omega]
  unfold splitOf
  dsimp only
  rw [show frameAt ws (0x40 + 112 * k + 8) = _ from hoff 2]
  split
  · next hbit => exact ⟨hbit.symm, fun _ => ⟨hoff 0, hoff 1⟩⟩
  · next hbit => exact ⟨(Bool.eq_false_iff.2 hbit).symm, fun hl => nomatch hl⟩

/-- A thread at task level with a frame's flags and splits stands as the frame says. -/
theorem restored_of {ws : List Word} {th : Thread} {f : Nat} {old : Nat → Split} (hl : th.level = false)
    (hf : th.fstat = ws.getD 5 0#32 &&& 31#32) (hs : th.splits = (List.range 4).map fun i => splitOf f ws i (old i)) : Restored ws th := by
  refine ⟨hl, hf, fun k hk => ?_⟩
  have hsplit : th.split k = splitOf f ws k (old k) := by
    rw [Thread.split, hs, getD_map_range _ _ hk]
  rw [hsplit]
  exact splitOf_reads f ws k (old k)

/-- The words of a thread's frame. -/
def returnWords (s : State) (t : Tid) : List Word :=
  (List.range 2048).map fun i => wordOf (s.ownScratch t t.core ((s.block t.core t.ctx).scratchBase + s.frameAddr t + 4 * i) 4)

/-- The lanes that a frame's splits and entries have to hold. -/
def frameLanesHeld (s : State) (t : Tid) : Mask :=
  if t.isSluice = true ∧ (s.block t.core t.ctx).running = none then 0#32 else (s.thread t).occupied

/-- The thread that a frame gives. -/
def returnedThread (s : State) (t : Tid) : Thread :=
  let th := (frameRestore (s.clk + 1) (returnWords s t) t.isSluice (s.thread t)).unaside
  { th with level := false, pending := th.pending ++ pendingOf (returnWords s t) }

theorem restored_returnedThread (s : State) (t : Tid) : Restored (returnWords s t) (returnedThread s t) := by
  obtain ⟨-, hfstat, hsplits⟩ := sameStanding_unaside (frameRestore (s.clk + 1) (returnWords s t) t.isSluice (s.thread t))
  obtain ⟨hf, old, hs⟩ := frameRestore_reads (s.clk + 1) (returnWords s t) t.isSluice (s.thread t)
  exact restored_of rfl (hfstat.trans hf) (hsplits.trans hs)

/-- The frame is refused (16 R321): it does not lie in the block's region, holds a struck word, or is malformed. -/
def frameRefused (s : State) (t : Tid) : Bool :=
  let b := s.block t.core t.ctx
  b.scratchSize < s.frameAddr t + 8192
    || (List.range 2048).any (fun i => s.ownPoisoned t t.core (b.scratchBase + s.frameAddr t + 4 * i))
    || !frameOk (returnWords s t) (frameLanesHeld s t) t.isSluice

theorem frameLanesHeld_eq (s : State) (t : Tid) :
    (if t.isSluice && (s.block t.core t.ctx).running.isNone then 0#32 else (s.thread t).occupied) = frameLanesHeld s t := by
  unfold frameLanesHeld
  simp only [Bool.and_eq_true, Option.isNone_iff_eq_none]

/-- A Sluice context's task runs on (16 R319). -/
def pauseEnded (clk : Nat) (b : Block) : Block :=
  { b with
    paused := b.paused + (match b.pauseFrom with
      | some c => clk + 1 - c
      | none => 0)
    pauseFrom := none }

/-- A return from a trap, by its frame. -/
theorem returnFromTrap_eq (s : State) (t : Tid) : ∃ clk, s.returnFromTrap t =
    if frameRefused s t then s.endWorkGroup t.core t.ctx
    else if t.isSluice then ((s.setThread t (returnedThread s t)).remake t).modBlock t.core t.ctx (pauseEnded clk)
    else (s.setThread t (returnedThread s t)).remake t := by
  refine ⟨((s.setThread t (returnedThread s t)).remake t).clk, ?_⟩
  have hheld := frameLanesHeld_eq s t
  unfold State.returnFromTrap
  extract_lets b th a ws th' u
  have hws : ws = returnWords s t := ownWords_eq s t t.core a
  refine ite_congr ?_ (fun _ => rfl) fun _ => ?_
  · simp only [hws, b, th, a, hheld, frameRefused]
  · have hu : u = (s.setThread t (returnedThread s t)).remake t := by simp only [u, th', th, hws, returnedThread]
    rw [hu]
    exact ite_congr rfl (fun _ => rfl) fun _ => rfl

theorem returnFromTrap_refused {s : State} {t : Tid} (h : frameRefused s t = true) : s.returnFromTrap t = s.endWorkGroup t.core t.ctx := by
  obtain ⟨f, hf⟩ := returnFromTrap_eq s t
  rw [hf, if_pos h]

theorem restored_of_sameStanding {ws : List Word} {a b : Thread} (h : SameStanding a b) (r : Restored ws a) : Restored ws b := by
  obtain ⟨hl, hf, hs⟩ := h
  unfold Restored Thread.split at r ⊢
  rw [hl, hf, hs]
  exact r

theorem returnFromTrap_restores {s : State} {t : Tid} (h : frameRefused s t = false) : Restored (returnWords s t) ((s.returnFromTrap t).thread t) := by
  obtain ⟨f, hf⟩ := returnFromTrap_eq s t
  have hremade : Restored (returnWords s t) (((s.setThread t (returnedThread s t)).remake t).thread t) := by
    have hsame := sameStanding_remake (s.setThread t (returnedThread s t)) t
    rw [State.thread_setThread] at hsame
    exact restored_of_sameStanding hsame (restored_returnedThread s t)
  rw [hf, h, if_neg (by decide)]
  split
  · rw [State.thread_modBlock]
    exact hremade
  · exact hremade

theorem frameRefused_iff (s : State) (t : Tid) : frameRefused s t = true ↔ (s.block t.core t.ctx).scratchSize < s.frameAddr t + 8192
    ∨ (¬∀ i, i < 2048 → s.ownPoisoned t t.core ((s.block t.core t.ctx).scratchBase + s.frameAddr t + 4 * i) = false)
    ∨ frameOk (returnWords s t) (frameLanesHeld s t) t.isSluice = false := by
  simp [frameRefused, List.any_eq_true, or_assoc]

/-! ## CHK, SHP, EVT and OBJ (16 R313, R314; 10 R198; 14 R279) -/

/-- CHK's checks. -/
def chkParts (h : Head) : Action := { Action.idle with
  waits := fun s => s.self.fills.any (fun f => f.port == .kq)
  poison := fun s => if s.taggedLanes h ≠ 0#32 then some (s.before 0x06 (s.taggedLanes h)) else none }

theorem chk_exec (h : Head) (s : State) :
    exec (.chk h) s = (Action.trigger h { ops := [], t := false, wide := false } (chkParts h)).outcome s := rfl

theorem chk_does (h : Head) : does (.chk h) h { ops := [], t := false, wide := false } (fun s => kFree s ∧ s.taggedLanes h = 0#32) id :=
  does_of (chkParts h) (chk_exec h) (fun _ _ hs => ⟨any_kq_eq_false hs.1, rfl, rfl, rfl, rfl, if_neg (Classical.not_not.2 hs.2), rfl⟩)
    (fun _ _ _ => rfl) fun s _ _ => .refl s

/-- A trigger that reads a tagged value where its unit's rule looks for one traps (11 R229). -/
theorem Action.trigger_poisoned {h : Head} {r : Reads} {a : Action} {s : State} {t : TrapRec} (hp : s.primed h r = true)
    (hwaits : a.waits s = false) (hneeds : a.needs s = none) (hpage : a.page s = none) (hlease : a.lease s = none)
    (habsent : a.absent s = none) (hpoison : a.poison s = some t) :
    (Action.trigger h r a).outcome s = .next (s.takeTrap s.cur.tid s.cur.split t) := by
  obtain ⟨⟨hon, hph, _, _⟩, ⟨hg, hw, _⟩, ht, _⟩ := (State.primed_iff s h r).1 hp
  simp [Action.outcome, Action.run, Action.whole, Action.held, Action.fails, Action.trigger, hon, hph, hg, hw, ht, hwaits, hneeds,
    hpage, hlease, habsent, hpoison, State.faultTrap]

theorem chk_traps {h : Head} {s : State} (hp : s.primed h { ops := [], t := false, wide := false } = true) (hk : kFree s)
    (ht : s.taggedLanes h ≠ 0#32) : exec (.chk h) s = trapsWith s 0x06 (s.taggedLanes h) :=
  Action.trigger_poisoned (a := chkParts h) hp (any_kq_eq_false hk) rfl rfl rfl rfl (if_pos ht)

/-- A record that SHP takes (10 R198). -/
def shpLegal (h : Head) (s : State) : Prop :=
  kFree s ∧ (leadT h s).toNat < 64 ∧ (leadOp .ka h s).toNat % 32 = 0 ∧ (leadOp .ka h s).toNat + 32 ≤ s.selfBlock.scratchSize
    ∧ s.shpWaits h = false ∧ s.shpPoisoned h = false ∧ Rec.bad (s.shpRecord h) = false

theorem shpCheck_of_legal {h : Head} {s : State} (hl : shpLegal h s) : shpCheck h s = none := by
  obtain ⟨-, hv, hoff, hin, -, hpois, hrec⟩ := hl
  have hhigh : ¬(leadT h s).bits 31 6 ≠ 0 := by
    rw [bits_high_ne_zero _ (by decide)]
    exact Classical.not_not.2 hv
  rw [shpCheck, lead_eq_leadT, leadOper_eq_leadOp]
  rw [if_neg hhigh, if_neg (Classical.not_not.2 hoff), if_neg (Nat.not_lt.2 hin), hpois, hrec]
  rfl

theorem sameView_shapes (s : State) (i : Nat) (r : Rec) :
    SameView s (s.modBlock s.cur.tid.core s.cur.tid.ctx fun b => { b with shapes := b.shapes.set i r }) :=
  .of_block rfl rfl (State.block_modBlock s _ _ _) rfl rfl rfl rfl rfl

theorem shp_does (h : Head) : does (.shp h) h (wideReads [.ka] true) (shpLegal h)
    (fun s => s.modBlock s.cur.tid.core s.cur.tid.ctx fun b => { b with shapes := b.shapes.set (leadT h s).toNat (s.shpRecord h) }) := by
  refine systemAction_does (fun _ => rfl) (fun s hs => ?_) (fun s hs => shpCheck_of_legal hs) (fun s hs => ?_) fun s _ => sameView_shapes s _ _
  · obtain ⟨hk, -, -, -, hw, -⟩ := hs
    rw [any_kq_eq_false hk, hw]
    rfl
  · obtain ⟨-, hv, -⟩ := hs
    rw [lead_eq_leadT, show (leadT h s).bits 5 0 = (leadT h s).toNat by simp only [Word.bits]; omega]

/-- A record that EVT posts (16 R314). -/
def evtLegal (h : Head) (s : State) : Prop :=
  kFree s ∧ (leadT h s).toNat < 2 ^ 24 ∧ s.selfCore.evq.length + s.selfCore.held.length + s.selfCore.heldE.length < 64

theorem evt_does (h : Head) : does (.evt h) h (wideReads [] true) (evtLegal h) (fun s => (s.release s.cur.tid 2).modCore s.cur.tid.core fun c =>
    { c with heldE := c.heldE ++
      [{ tid := s.cur.tid, seq := (s.release s.cur.tid 2).self.seq,
         word := recordWord 3 s.cur.tid.ctx (if s.cur.tid.isSluice then 0 else s.cur.tid.slot) (leadT h s).toNat }] }) := by
  refine systemAction_does (fun _ => rfl) (fun s hs => ?_) (fun s hs => ?_) (fun s hs => ?_)
    fun s _ => (sameView_release s _ _).trans (.of_eq rfl rfl rfl)
  · rw [any_kq_eq_false hs.1, State.queueFull]
    simpa using hs.2.2
  · rw [evtCheck, lead_eq_leadT]
    refine if_neg ?_
    rw [bits_high_ne_zero _ (by decide)]
    exact Classical.not_not.2 hs.2.1
  · rw [lead_eq_leadT, show (leadT h s).bits 23 0 = (leadT h s).toNat by have := hs.2.1; simp only [Word.bits]; omega]

theorem obj_ends (h : Head) : ends (.obj h) h (wideReads [.ka] true) (fun s => kFree s ∧ objCheck h s = none) (objectAnswered h) := by
  refine systemAction_ends (fun _ => rfl) (fun _ hs => ⟨hs.1, rfl, hs.2⟩) (fun s _ => ?_)
  have hdone : s.objApply s.selfBlock.fn (s.objRecord h) ((s.lead h).bit 0) = objectDone h s := by
    rw [lead_eq_leadT]
    rfl
  rw [hdone]
  rfl

theorem get_map_erased {α : Type} {d : α} (f : α → α) (hd : f d = d) (m : Tab α) (k : Nat) :
    Tab.get d (m.map fun e => (e.1, f e.2)) k = f (Tab.get d m k) := by
  induction m with
  | nil => exact hd.symm
  | cons e rest ih =>
    show (if e.1 = k then f e.2 else Tab.get d (rest.map fun e => (e.1, f e.2)) k) = f (if e.1 = k then e.2 else Tab.get d rest k)
    rw [ih]
    split <;> rfl

theorem gatherLine_gathers (s : State) (fn a : Nat) :
    (∀ q, (s.gatherLine fn a).qline q (s.keyOf fn a) = QLine.empty)
      ∧ ∀ d, (s.gatherLine fn a).dirOf d (s.keyOf fn a) = DirEntry.empty := by
  unfold State.gatherLine
  extract_lets key s1 s2
  constructor
  · intro q
    show Tab.get QLine.empty (Tab.get Quad.reset (s2.quads.map _) q).lines key = _
    rw [get_map_erased (fun q : Quad => { q with lines := Tab.erase q.lines key }) rfl]
    exact Tab.get_erase_self ..
  · intro d
    show Tab.get DirEntry.empty (Tab.get Die.reset (s2.dies.map _) d).dir key = _
    rw [get_map_erased (fun d : Die => { d with dir := Tab.erase d.dir key }) rfl]
    exact Tab.get_erase_self ..

end Sys2Proof.Claim

open Sys2Proof Sys2Proof.Claim

/-- Settles O29: CSRR of CLK and of another CSR, its trap, and ten CSRs' values. -/
theorem csrsAreRead : Obligations.CsrsAreRead := by
  unfold Obligations.CsrsAreRead
  refine fun h => ⟨csrr_other_does h, csrr_clk_does h, fun s hp hk hn => csrr_traps hp hk hn, fun s t ht => ?_⟩
  have hfstat : s.csr t 0x020 = some ((s.thread t).fstat &&& 31#32) := by
    show some (if t.isSluice then 0#32 else (s.thread t).fstat &&& 31#32) = _
    rw [ht]
    rfl
  exact ⟨rfl, rfl, hfstat, rfl, rfl, rfl, rfl, rfl, rfl, rfl⟩

/-- Settles O30: CSRW of each CSR that takes a write, and its traps. -/
theorem csrsAreWritten : Obligations.CsrsAreWritten := by
  unfold Obligations.CsrsAreWritten
  exact fun h => ⟨csrw_fstat_does h, csrw_fstat_sluice_does h, csrw_tvec_does h, csrw_tframe_does h, csrw_ashape_does h,
    fun s hp hn hk hno => csrw_unwritable hp hn hk (csrWritable_other hno _),
    fun s hp hat hl => csrw_unwritable hp hat.1 hat.2.1 (by rw [hat.2.2, hl]; rfl),
    fun s hp hat hv => csrw_refused hp hat rfl (by rw [csrBad_fstat]; exact decide_eq_true hv),
    fun s hp hat h0 h8 => csrw_refused hp hat rfl (csrBad_tvec.2 ⟨h0, h8⟩),
    fun s hp hat hl hv => csrw_refused hp hat (by rw [hl]; rfl) (csrBad_tframe.2 hv),
    fun s hp hat hv => csrw_refused hp hat rfl (by rw [csrBad_ashape]; exact decide_eq_true hv)⟩

/-- Settles O31: RTE at each level, what a frame restores, and what a refused frame ends. -/
theorem trapsReturn : Obligations.TrapsReturn := by
  unfold Obligations.TrapsReturn
  refine fun h => ⟨rte_ends h, fun s hp hk hl => rte_traps hp hk hl, fun s t => ⟨fun hin hwhole hok => ?_, fun hbad => ?_⟩⟩
  · refine returnFromTrap_restores (Bool.eq_false_iff.2 fun href => ?_)
    rcases (frameRefused_iff s t).1 href with hout | hstruck | hmal
    · exact absurd hin (Nat.not_le.2 hout)
    · exact hstruck hwhole
    · exact absurd (hok.symm.trans hmal) (by decide)
  · exact returnFromTrap_refused ((frameRefused_iff s t).2 hbad)

/-- Settles O32: CHK, SHP, OBJ with the gathering of its lines, and EVT. -/
theorem systemTriggers : Obligations.SystemTriggers := by
  unfold Obligations.SystemTriggers
  exact fun h => ⟨chk_does h, fun s hp hk ht => chk_traps hp hk ht, shp_does h, obj_ends h, gatherLine_gathers, evt_does h⟩

end

section
/-! SUPPORT. Engine commands and Sluice code (07 R136; 10 R194 to R214; 12 R236 to R251; 04 R83 to R89; 02 R18). -/

open Sys2Proof.Machine

namespace Sys2Proof.Claim

/-! ## Blocks that a bundle reads the same of -/

/-- A change of a block that leaves what bundles read of it. -/
def KeepsNames (f : Block → Block) : Prop :=
  ∀ b, (f b).k = b.k ∧ (f b).block = b.block ∧ (f b).nblk = b.nblk ∧ (f b).gslot = b.gslot ∧ (f b).dqPushed = b.dqPushed

theorem block_modBlock_cases (s : State) (c x : Nat) (f : Block → Block) (c' x' : Nat) :
    (s.modBlock c x f).block c' x' = s.block c' x' ∨ (s.modBlock c x f).block c' x' = f (s.block c' x') := by
  by_cases hk : c' * 2 + x' = c * 2 + x
  · have hb : ∀ u : State, u.block c' x' = u.block c x := fun u => by simp only [State.block, hk]
    rw [hb, hb, State.block_modBlock]
    exact .inr rfl
  · exact .inl (State.block_modBlock_other s f hk)

theorem SameView.modBlock (s : State) (c x : Nat) {f : Block → Block} (hf : KeepsNames f) : SameView s (s.modBlock c x f) := by
  rcases block_modBlock_cases s c x f s.cur.tid.core s.cur.tid.ctx with h | h
  · exact .of_eq rfl h rfl
  · obtain ⟨hk, hb, hn, hg, hp⟩ := hf s.selfBlock
    exact .of_block rfl rfl h hk hb hn hg hp

/-! ## Commands at a block whose progress registers are all in use -/

/-- A record of four bytes in scratch. -/
def fourBytes : Rec := [1#32, 0#32, 0#32, 4#32, 0#32, 0#32, 0#32, 0#32]

/-- A resident block with a ninth progress register, which is free, behind eight that are running. -/
def ninthFree : Block :=
  { Block.empty with
    resident := true, warps := 1, nregs := 128, shapes := List.replicate 64 fourBytes,
    progress := List.replicate 8 { Progress.free with state := 1 } ++ [Progress.free] }

/-- A warp of lane 0. -/
def loneLane : Thread :=
  { Thread.empty with
    live := true, occupied := 1#32, splits := { Split.empty with live := true, mask := 1#32, pc := 8#32 } :: List.replicate 3 Split.empty }

/-- That warp issues in that block, which holds its quad's lease. -/
def ninthIssuing : State :=
  let t : Tid := { core := 0, ctx := 0, slot := 0 }
  let s := ((State.reset.setBlock 0 0 ninthFree).setThread t loneLane).modQuad 0 fun q => { q with leaseHolder := some (0, 0), leaseLeft := 2 }
  { s with cur := { Cur.idle with on := true, tid := t, pc := 8#32, next := 16#32, image := loneLane } }

/-- An unguarded move of g1. -/
def moveG1 : Head := { guard := .always, src := .g 1, hold := 0 }

theorem ninthIssuing_free : ninthIssuing.selfBlock.freeProgress = none := by decide +kernel

theorem not_issued_ninthIssuing {t : State} {c : Cmd} (h : Issued ninthIssuing t c) : False := by
  have hpr := h.tag.2
  rw [ninthIssuing_free] at hpr
  exact absurd hpr (by simp)

/-! ## Queries and resumptions (10 R213, R214; 12 R244; 07 R140) -/

theorem bits_tag {v : Word} (h : v.toNat < 2 ^ 24) : ¬v.bits 31 24 ≠ 0 := by
  rw [bits_high_ne_zero _ (by decide)]
  exact Classical.not_not.2 h

theorem tagCheck_of_tag {h : Head} {s : State} (hv : (leadT h s).toNat < 2 ^ 24) : tagCheck h s = none := by
  rw [tagCheck, lead_eq_leadT]
  exact if_neg (bits_tag hv)

theorem sameView_answersPort (s : State) (port : Nat) (v : Word) : SameView s (answersPort s port v) := by
  unfold answersPort State.answerNext
  exact SameView.modThread s _ _

theorem query_does {i : Instr} {h : Head} {port : Nat}
    (hexec : ∀ s, exec i s = (syncAction h [] true (fun _ => false) (tagCheck h) fun s => s.answerNext port (s.queryTag (s.lead h).toNat)).outcome s) :
    does i h (wideReads [] true) (fun s => (leadT h s).toNat < 2 ^ 24)
      (fun s => answersPort s port (progressWord s.selfBlock (leadT h s).toNat)) := by
  refine syncAction_does hexec (fun _ _ => rfl) (fun s hs => tagCheck_of_tag hs) (fun s _ => ?_) fun s _ => sameView_answersPort s _ _
  rw [lead_eq_leadT]
  rfl

theorem sameView_resumeCommand (s : State) (c : Cmd) (port : Nat) : SameView s (s.resumeCommand c port) :=
  (SameView.modBlock s c.core c.ctx (f := fun b =>
    { b with progress := b.progress.set c.pr { b.progress.getD c.pr Progress.free with state := 1, cause := 0 } })
    fun _ => ⟨rfl, rfl, rfl, rfl, rfl⟩).trans (.of_eq rfl rfl rfl)

theorem sameView_countLease (s : State) : SameView s s.countLease := by
  unfold State.countLease
  split
  · exact .refl s
  · exact .of_eq rfl rfl rfl

theorem cpr_does (h : Head) (u : Fin 2) (c : Cmd) : does (.cpr h u) h (wideReads [] true)
    (fun s => (leadT h s).toNat < 2 ^ 24 ∧ s.resumable s.cur.tid.core s.cur.tid.ctx (leadT h s).toNat (· != 0) = some c)
    (fun s => s.resumeCommand c (1 + u.val)) := by
  have hcmd : ∀ s : State, s.cprCommand h = s.resumable s.cur.tid.core s.cur.tid.ctx (leadT h s).toNat (· != 0) := fun s => by
    rw [State.cprCommand, lead_eq_leadT]
  refine syncAction_does (effect := fun s => match s.cprCommand h with
      | some c => s.resumeCommand c (copyEngine u)
      | none => s) (own := cprCheck h) (fun _ => rfl) (fun _ _ => rfl) (fun s hs => ?_) (fun s hs => ?_) fun s _ => sameView_resumeCommand s _ _
  · rw [cprCheck, hcmd, hs.2, lead_eq_leadT]
    refine if_neg ?_
    rw [Option.isNone_some, Bool.or_false, decide_eq_true_eq]
    exact bits_tag hs.1
  · rw [hcmd, hs.2]
    rfl

theorem bits_pairFirst (v : Word) : v.bits 5 4 = v.toNat / 16 % 4 := by simp [Word.bits]

theorem bits_pairSecond (v : Word) : v.bits 3 2 = v.toNat / 4 % 4 := by simp [Word.bits]

theorem leaseCheck_of_mayCount {s : State} (hm : mayCount s) : leaseCheck s = none := by
  rw [leaseCheck]
  refine if_pos ?_
  have hbit : Word.bit s.selfCore.mxmode 0 = s.selfCore.mxmode.getLsbD 0 := rfl
  unfold mayCount at hm
  rw [hbit]
  split at hm
  · next h =>
    rw [if_pos h, bits_pairFirst, bits_pairSecond, Bool.or_eq_true, beq_iff_eq, beq_iff_eq]
    exact hm
  · next h =>
    rw [if_neg h, beq_iff_eq]
    exact hm

/-- MXR's parts. -/
def mxrParts (h : Head) : Action := { Action.idle with
  waits := fun _ => false, takes := fun _ => Takes.none_, lease := leaseCheck, own := mxrCheck h,
  effect := fun s => match s.mxrCommand h with
    | some c => (s.resumeCommand c 0).countLease
    | none => s }

theorem mxr_exec (h : Head) (s : State) : exec (.mxr h) s = (Action.trigger h (wideReads [] true) (mxrParts h)).outcome s := rfl

theorem mxrCommand_eq (h : Head) (s : State) :
    s.mxrCommand h = s.resumable s.cur.tid.core s.cur.tid.ctx (leadT h s).toNat (· == 0) := by
  rw [State.mxrCommand, lead_eq_leadT]

theorem mxrCheck_of_resumable {h : Head} {s : State} {c : Cmd} (hv : (leadT h s).toNat < 2 ^ 24) (hc : s.mxrCommand h = some c)
    (hw : c.opcode = 2 → s.latchedTag s.cur.tid.core = some c.wtag) : mxrCheck h s = none := by
  rw [mxrCheck, lead_eq_leadT, hc]
  refine (if_neg (bits_tag hv)).trans (if_neg ?_)
  rw [Bool.and_eq_true, decide_eq_true_eq, decide_eq_true_eq]
  exact fun ⟨h2, hne⟩ => hne (hw h2)

theorem mxr_does (h : Head) (c : Cmd) : does (.mxr h) h (wideReads [] true)
    (fun s => mayCount s ∧ (leadT h s).toNat < 2 ^ 24
      ∧ s.resumable s.cur.tid.core s.cur.tid.ctx (leadT h s).toNat (· == 0) = some c
      ∧ (c.opcode = 2 → s.latchedTag s.cur.tid.core = some c.wtag))
    (fun s => (s.resumeCommand c 0).countLease) := by
  refine does_of (mxrParts h) (mxr_exec h) (fun s _ hs => ?_) (fun s _ hs => ?_)
    fun s _ _ => (sameView_resumeCommand s c 0).trans (sameView_countLease _)
  · obtain ⟨hm, hv, hc, hw⟩ := hs
    exact ⟨rfl, rfl, rfl, leaseCheck_of_mayCount hm, rfl, rfl, mxrCheck_of_resumable hv ((mxrCommand_eq h s).trans hc) hw⟩
  · show (match s.mxrCommand h with | some c => (s.resumeCommand c 0).countLease | none => s) = _
    rw [mxrCommand_eq, hs.2.2.1]

/-! ## MXA (10 R205) -/

/-- The bands that MXA names and that are powered. -/
def bandsOf (h : Head) (s : State) : BitVec 4 := (leadT h s).truncate 4 &&& (s.quad (quadOf s.cur.tid.core)).powered

/-- What MXA does: the claim `claim` is refused where it meets another's. -/
def mxaEffect (h : Head) (s : State) : State :=
  let t := s.cur.tid
  let powered := (s.quad (quadOf t.core)).powered
  let mask := BitVec.ofNat 4 ((s.lead h).bits 3 0) &&& powered
  let claim := s.mxaClaim h
  let old := s.selfBlock.claim
  let refused := claim ≠ old && s.claimMeets t.core t.ctx claim
  let c := s.newCommand 0 7 (s.leadOper h .mxa) 0#32 (s.lead h) []
  let s := s.modBlock t.core t.ctx fun b =>
    { b.take c 2 s.clk with
      bandMask := mask, claim := if refused then old else claim, descs := b.descs.set c.pr (c.descriptor (s.expectedTag c)) }
  let s := if refused then s else s.modQuad (quadOf t.core) fun q => q.release old claim
  s.answerNext 0 (w32 (refused.toNat * 2 ^ 31 + powered.toNat * 16 + mask.toNat))

/-- MXA's parts. -/
def mxaParts (h : Head) : Action := { Action.idle with
  waits := mxaWaits h, takes := oneCommand, lease := fun _ => none, own := mxaCheck h, effect := mxaEffect h }

theorem mxa_mask (v : Word) : BitVec.ofNat 4 (v.bits 3 0) = v.truncate 4 := by
  refine BitVec.eq_of_toNat_eq ?_
  simp [Word.bits]

theorem answerNext_cur (s : State) (port : Nat) (v : Word) : (s.answerNext port v).cur = s.cur := rfl

theorem answerNext_fills (s : State) (port : Nat) (v : Word) : (s.answerNext port v).self.fills
    = (s.self.takePort port 0).fills ++ [{ port := enginePort port, mask := BitVec.allOnes 32, vals := lanes32 fun _ => v, due := s.clk + 1,
                                            late := false }] := by
  rw [State.self, answerNext_cur, State.answerNext, State.thread_modThread]
  rfl

/-- The answer of MXA that its port takes in the next cycle. -/
def mxaAnswer (h : Head) (s : State) : Fill :=
  { port := .mxq, mask := BitVec.allOnes 32,
    vals := lanes32 fun _ => BitVec.ofNat 32 ((s.quad (quadOf s.cur.tid.core)).powered.toNat * 16 + (bandsOf h s).toNat),
    due := s.clk + 1, late := false }

theorem mxaEffect_eq {h : Head} {s : State} (hfree : s.claimMeets s.cur.tid.core s.cur.tid.ctx (s.mxaClaim h) = false) :
    ∃ f : Block → Block, mxaEffect h s = ((s.modBlock s.cur.tid.core s.cur.tid.ctx f).modQuad (quadOf s.cur.tid.core) fun q =>
        q.release s.selfBlock.claim (s.mxaClaim h)).answerNext 0
          (BitVec.ofNat 32 ((s.quad (quadOf s.cur.tid.core)).powered.toNat * 16 + (bandsOf h s).toNat))
      ∧ ∀ b, (f b).bandMask = bandsOf h s ∧ (f b).claim = s.mxaClaim h := by
  unfold mxaEffect
  simp only [hfree, Bool.and_false, Bool.false_eq_true, if_false, Bool.toNat_false, Nat.zero_mul, Nat.zero_add, lead_eq_leadT, mxa_mask]
  exact ⟨_, rfl, fun _ => ⟨rfl, rfl⟩⟩

theorem mxa_issues {h : Head} {s : State} (hp : s.primed h (wideReads [.mxa] true) = true) (hw : mxaWaits h s = false)
    (hc : mxaCheck h s = none) (hfree : s.claimMeets s.cur.tid.core s.cur.tid.ctx (s.mxaClaim h) = false) :
    ∃ t, exec (.mxa h) s = .next t ∧ (t.block s.cur.tid.core s.cur.tid.ctx).bandMask = bandsOf h s
      ∧ (t.block s.cur.tid.core s.cur.tid.ctx).claim = s.mxaClaim h ∧ mxaAnswer h s ∈ (t.thread s.cur.tid).fills := by
  obtain ⟨t, ht, hl⟩ := Action.trigger_ends (a := mxaParts h) hp ⟨hw, rfl, rfl, rfl, rfl, rfl, hc⟩
  obtain ⟨f, he, hf⟩ := mxaEffect_eq hfree
  rw [show (mxaParts h).effect s = mxaEffect h s from rfl, he] at hl
  have hblock : t.block s.cur.tid.core s.cur.tid.ctx = f s.selfBlock := by
    rw [hl.block, State.answerNext, State.block_modThread, State.block_modQuad, State.block_modBlock]
    rfl
  refine ⟨t, ht, ?_, ?_, ?_⟩
  · rw [hblock, (hf _).1]
  · rw [hblock, (hf _).2]
  · obtain ⟨_, _, _, hself⟩ := hl.self
    rw [answerNext_cur] at hself
    rw [show s.cur.tid = (((s.modBlock s.cur.tid.core s.cur.tid.ctx f).modQuad (quadOf s.cur.tid.core) fun q =>
      q.release s.selfBlock.claim (s.mxaClaim h))).cur.tid from rfl, hself, answerNext_fills]
    exact List.mem_append_right _ (List.mem_singleton.2 rfl)

/-! ## Semaphores (04 R87) -/

theorem bits_five {v : Word} (h : v.toNat < 32) : v.bits 4 0 = v.toNat := by
  simp only [Word.bits]
  omega

theorem semCheck_of_legal {h : Head} {s : State} (hl : semLegal h s) : semCheck h s = none := by
  obtain ⟨ha, hv⟩ := hl
  have hhigh : ¬(leadOp .sma h s).bits 31 5 ≠ 0 := by
    rw [bits_high_ne_zero _ (by decide)]
    exact Classical.not_not.2 ha
  rw [semCheck, lead_eq_leadT, leadOper_eq_leadOp]
  exact (if_neg hhigh).trans (if_neg (Nat.not_lt.2 hv))

theorem sameView_semBecomes (h : Head) (s : State) (v : Nat) : SameView s (semBecomes h s v) := by
  unfold semBecomes
  exact SameView.trans (u := s.modCore s.cur.tid.core _) (.of_eq rfl rfl rfl) (sameView_setThread _ _)

/-- A semaphore trigger, by the value that it gives its semaphore. -/
theorem sem_does {i : Instr} {h : Head} (op : Nat → Nat → Nat) {value : State → Nat}
    (hexec : ∀ s, exec i s = (semAction h op).outcome s) (hvalue : ∀ s, op (semNow h s) (leadT h s).toNat = value s) :
    does i h (wideReads [.sma] true) (semLegal h) (fun s => semBecomes h s (value s)) := by
  refine syncAction_does (own := semCheck h) hexec (fun _ _ => rfl) (fun s hs => semCheck_of_legal hs) (fun s hs => ?_)
    fun s _ => sameView_semBecomes h s _
  rw [← hvalue, lead_eq_leadT, leadOper_eq_leadOp, bits_five hs.1]
  rfl

theorem sinc_value (a b : Nat) : min (a + b) 65535 = if a + b < 65535 then a + b else 65535 := by
  split <;> omega

/-! ## Decisions (02 R18) -/

/-- DQP changes the decisions alone. -/
def decisionPushed (h : Head) (s : State) : State :=
  (s.modBlock s.cur.tid.core s.cur.tid.ctx fun b =>
    { b with dq := b.dq ++ [leadT h s], dqPushed := b.dqPushed + 1 }).freeDecisions s.cur.tid.core s.cur.tid.ctx

theorem decisionPushed_block (h : Head) (s : State) : ∃ dq, (decisionPushed h s).block s.cur.tid.core s.cur.tid.ctx
    = { s.selfBlock with dq := dq, dqPushed := s.selfBlock.dqPushed + 1 } := by
  unfold decisionPushed State.freeDecisions
  rw [State.block_setBlock, State.block_modBlock]
  exact ⟨_, rfl⟩

/-- What a source that is ready delivers does not ask for the block's decisions. -/
theorem decisionPushed_srcRead (h : Head) (s : State) (x : Src) (l : Nat) : (decisionPushed h s).srcRead x false l = s.srcRead x false l := by
  obtain ⟨dq, hb⟩ := decisionPushed_block h s
  have hcur : (decisionPushed h s).cur = s.cur := rfl
  have hk : ((decisionPushed h s).block s.cur.tid.core s.cur.tid.ctx).k = (s.block s.cur.tid.core s.cur.tid.ctx).k := by rw [hb]; rfl
  cases x with
  | ident i =>
    simp only [State.srcRead, hcur]
    cases i with
    | block => simp only [State.ident, hb]; rfl
    | nblk => simp only [State.ident, hb]; rfl
    | gslot => simp only [State.ident, hb]; rfl
    | pkg => rfl
    | _ => rfl
  | k n => simp only [State.srcRead, hcur, hk]
  | _ => rfl

theorem dqp_does (h : Head) : does (.dqp h) h (wideReads [] true) (fun s => s.selfBlock.dq.length < 16) (decisionPushed h) := by
  intro s hp hroom
  let a : Action := { Action.idle with
    waits := fun s => s.decisionsFull, own := fun _ => none,
    effect := fun s => (s.modBlock s.cur.tid.core s.cur.tid.ctx fun b =>
      { b with dq := b.dq ++ [s.lead h], dqPushed := b.dqPushed + 1 }).freeDecisions s.cur.tid.core s.cur.tid.ctx }
  have hfull : a.waits s = false := decide_eq_false (Nat.not_le.2 hroom)
  obtain ⟨t, ht, hl⟩ := Action.trigger_ends (a := a) hp ⟨hfull, rfl, rfl, rfl, rfl, rfl, rfl⟩
  have he : a.effect s = decisionPushed h s := by
    show (s.modBlock s.cur.tid.core s.cur.tid.ctx fun b =>
      { b with dq := b.dq ++ [s.lead h], dqPushed := b.dqPushed + 1 }).freeDecisions s.cur.tid.core s.cur.tid.ctx = _
    rw [lead_eq_leadT]
    rfl
  rw [he] at hl
  have htrig : (fun l => ((decisionPushed h s).srcRead h.src false l).1) = s.trig h := by
    funext l
    rw [decisionPushed_srcRead]
    rfl
  rw [htrig] at hl
  exact ⟨t, ht, hl⟩

/-! ## Tasks (04 R86, R87) -/

theorem taskCheck_of_lt {h : Head} {s : State} (hv : (leadT h s).toNat < s.selfBlock.tasks.length) : taskCheck h s = none := by
  rw [taskCheck, lead_eq_leadT]
  exact if_neg (Nat.not_le.2 hv)

theorem taskCheck_of_ge {h : Head} {s : State} (hv : s.selfBlock.tasks.length ≤ (leadT h s).toNat) :
    taskCheck h s = some (s.before 0x02 (leadT h s)) := by
  rw [taskCheck, lead_eq_leadT]
  exact if_pos hv

theorem sameView_armedBecomes (h : Head) (s : State) (on : Bool) : SameView s (armedBecomes h s on) :=
  SameView.modBlock s _ _ fun _ => ⟨rfl, rfl, rfl, rfl, rfl⟩

theorem tarm_does (h : Head) : does (.tarm h) h (wideReads [] true) (fun s => (leadT h s).toNat < s.selfBlock.tasks.length)
    (fun s => armedBecomes h s true) := by
  refine syncAction_does (own := taskCheck h) (effect := fun s => s.setArmed s.cur.tid (s.lead h).toNat true) (fun _ => rfl) (fun _ _ => rfl)
    (fun s hs => taskCheck_of_lt hs) (fun s _ => ?_) fun s _ => sameView_armedBecomes h s true
  rw [lead_eq_leadT]
  rfl

/-- The block once the trigger's task is disarmed. -/
theorem block_armedBecomes (h : Head) (s : State) (on : Bool) : (armedBecomes h s on).block s.cur.tid.core s.cur.tid.ctx
    = { s.selfBlock with armed := s.selfBlock.armed.set (leadT h s).toNat on } := by
  rw [armedBecomes, State.block_modBlock]
  rfl

/-- A list of flags once one is cleared: none is set where no other one was. -/
theorem all_not_set_false {xs : List Bool} {i : Nat} :
    (xs.set i false).all (!·) = true ↔ ∀ j, j ≠ i → xs.getD j false = false := by
  simp only [List.all_eq_true, Bool.not_eq_true', List.forall_mem_iff_forall_getElem, List.length_set]
  constructor
  · intro hall j hj
    by_cases hlt : j < xs.length
    · have := hall j hlt
      rw [List.getElem_set_ne (Ne.symm hj)] at this
      simpa [hlt] using this
    · simp [hlt]
  · intro hall j hlt
    by_cases hj : j = i
    · subst hj
      simp
    · have := hall j hj
      rw [List.getElem_set_ne (Ne.symm hj)]
      simpa [hlt] using this

/-- Whether the block is over once the trigger's task is disarmed (04 R86). -/
theorem blockGoesOn_iff {h : Head} {s : State} (hr : s.selfBlock.resident = true) : blockGoesOn h s ↔
    ({ s.selfBlock with armed := s.selfBlock.armed.set (leadT h s).toNat false }.sluiceDone
      && (s.blockWarps s.cur.tid.core s.cur.tid.ctx).isEmpty) = false := by
  have hdone : { s.selfBlock with armed := s.selfBlock.armed.set (leadT h s).toNat false }.sluiceDone = true
      ↔ s.selfBlock.running = none ∧ ∀ j, j ≠ (leadT h s).toNat → s.selfBlock.armed.getD j false = false := by
    rw [Block.sluiceDone, Bool.and_eq_true, Option.isNone_iff_eq_none, all_not_set_false]
  rw [← Bool.not_eq_true, Bool.and_eq_true, hdone, List.isEmpty_iff, blockGoesOn]
  simp only [hr, true_and, Classical.not_and_iff_not_or_not, Classical.not_forall, Bool.not_eq_false, ne_eq, exists_prop, or_assoc]

theorem checkBlock_eq {s : State} {c x : Nat} (h : ((s.block c x).resident && (s.block c x).sluiceDone && (s.blockWarps c x).isEmpty) = false) :
    s.checkBlock c x = s := by
  rw [State.checkBlock]
  exact if_neg (ne_true_of_eq_false h)

theorem tdis_stays {h : Head} {s : State} (hg : blockGoesOn h s) : s.disarm s.cur.tid (leadT h s).toNat = armedBecomes h s false := by
  have hr := hg.1
  have hend := (blockGoesOn_iff hr).1 hg
  have hcheck : (armedBecomes h s false).checkBlock s.cur.tid.core s.cur.tid.ctx = armedBecomes h s false := by
    refine checkBlock_eq ?_
    rw [block_armedBecomes, Bool.and_assoc]
    rw [Bool.and_eq_false_iff]
    exact .inr hend
  have hdis : s.disarm s.cur.tid (leadT h s).toNat
      = if (((armedBecomes h s false).checkBlock s.cur.tid.core s.cur.tid.ctx).block s.cur.tid.core s.cur.tid.ctx).resident
        then (armedBecomes h s false).checkBlock s.cur.tid.core s.cur.tid.ctx
        else { (armedBecomes h s false).checkBlock s.cur.tid.core s.cur.tid.ctx with
          cur := { ((armedBecomes h s false).checkBlock s.cur.tid.core s.cur.tid.ctx).cur with dead := true } } := rfl
  rw [hdis, hcheck, block_armedBecomes]
  exact if_pos hr

theorem tdis_exec (h : Head) (s : State) : exec (.tdis h) s
    = (syncAction h [] true (fun _ => false) (taskCheck h) fun s => s.disarm s.cur.tid (s.lead h).toNat).outcome s := rfl

theorem tdis_does (h : Head) : does (.tdis h) h (wideReads [] true)
    (fun s => (leadT h s).toNat < s.selfBlock.tasks.length ∧ blockGoesOn h s) (fun s => armedBecomes h s false) := by
  refine syncAction_does (tdis_exec h) (fun _ _ => rfl) (fun s hs => taskCheck_of_lt hs.1) (fun s hs => ?_)
    fun s _ => sameView_armedBecomes h s false
  rw [lead_eq_leadT]
  exact tdis_stays hs.2

/-- The block that TDIS ends is gone. -/
theorem disarm_ends {h : Head} {s : State} (hr : s.selfBlock.resident = true) (hg : ¬blockGoesOn h s) :
    ((s.disarm s.cur.tid (leadT h s).toNat).block s.cur.tid.core s.cur.tid.ctx).resident = false := by
  have hend := mt (blockGoesOn_iff hr).2 hg
  rw [Bool.not_eq_false] at hend
  have hblock : ((armedBecomes h s false).checkBlock s.cur.tid.core s.cur.tid.ctx).block s.cur.tid.core s.cur.tid.ctx = Block.empty := by
    have hcond : (((armedBecomes h s false).block s.cur.tid.core s.cur.tid.ctx).resident
        && ((armedBecomes h s false).block s.cur.tid.core s.cur.tid.ctx).sluiceDone
        && ((armedBecomes h s false).blockWarps s.cur.tid.core s.cur.tid.ctx).isEmpty) = true := by
      rw [block_armedBecomes, Bool.and_assoc, Bool.and_eq_true]
      exact ⟨hr, hend⟩
    rw [State.checkBlock]
    rw [if_pos hcond, block_checkLaunch]
    exact block_vacate ((armedBecomes h s false).leaveCommands s.cur.tid.core s.cur.tid.ctx) _ _
  have hdis : (s.disarm s.cur.tid (leadT h s).toNat).block s.cur.tid.core s.cur.tid.ctx
      = ((armedBecomes h s false).checkBlock s.cur.tid.core s.cur.tid.ctx).block s.cur.tid.core s.cur.tid.ctx := by
    show State.block (if _ then _ else _) _ _ = _
    split <;> rfl
  rw [hdis, hblock]
  rfl

theorem tdis_ends {h : Head} {s : State} (hp : s.primed h (wideReads [] true) = true) (hv : (leadT h s).toNat < s.selfBlock.tasks.length)
    (hr : s.selfBlock.resident = true) (hg : ¬blockGoesOn h s) :
    ∃ t, exec (.tdis h) s = .next t ∧ (t.block s.cur.tid.core s.cur.tid.ctx).resident = false := by
  obtain ⟨t, ht, hl⟩ := Action.trigger_ends (a := { Action.idle with
    waits := fun _ => false, own := taskCheck h, effect := fun s => s.disarm s.cur.tid (s.lead h).toNat }) hp
    ⟨rfl, rfl, rfl, rfl, rfl, rfl, taskCheck_of_lt hv⟩
  refine ⟨t, ht, ?_⟩
  rw [hl.block]
  show ((s.disarm s.cur.tid (s.lead h).toNat).block s.cur.tid.core s.cur.tid.ctx).resident = false
  rw [lead_eq_leadT]
  exact disarm_ends hr hg

/-! ## The counter tree (04 R89) -/

theorem sameView_extraBecomes (s : State) (v : Nat) : SameView s (extraBecomes s v) :=
  SameView.trans (u := s.modLaunch s.selfBlock.lid _) (.of_eq rfl rfl rfl) (SameView.modBlock _ _ _ fun _ => ⟨rfl, rfl, rfl, rfl, rfl⟩)

theorem counterCheck_eq (h : Head) (op : Nat → Nat → Nat) (below : Bool) (s : State) : counterCheck h op below s =
    if 65535 < (leadT h s).toNat || (below && decide (s.extra < (leadT h s).toNat)) || decide (2 ^ 32 ≤ op s.extra (leadT h s).toNat)
    then some (s.before 0x02 (leadT h s)) else none := by
  rw [counterCheck, lead_eq_leadT]

theorem counter_does {i : Instr} {h : Head} (op : Nat → Nat → Nat) (below : Bool) {ok : State → Prop}
    (hexec : ∀ s, exec i s = (counterAction h op below).outcome s)
    (hok : ∀ s, ok s → (leadT h s).toNat ≤ 65535 ∧ (below = true → (leadT h s).toNat ≤ s.extra) ∧ op s.extra (leadT h s).toNat < 2 ^ 32) :
    does i h (wideReads [] true) ok (fun s => extraBecomes s (op s.extra (leadT h s).toNat)) := by
  refine syncAction_does (own := counterCheck h op below) hexec (fun _ _ => rfl) (fun s hs => ?_) (fun s _ => ?_)
    fun s _ => sameView_extraBecomes s _
  · obtain ⟨hv, hbelow, hmax⟩ := hok s hs
    rw [counterCheck_eq]
    refine if_neg ?_
    simp only [Bool.or_eq_true, Bool.and_eq_true, decide_eq_true_eq, not_or, not_and, Nat.not_lt, Nat.not_le]
    exact ⟨⟨hv, hbelow⟩, hmax⟩
  · rw [lead_eq_leadT]
    rfl

theorem ctd_traps {h : Head} {s : State} (hp : s.primed h (wideReads [] true) = true) (hlt : s.extra < (leadT h s).toNat) :
    exec (.ctd h) s = trapsWith s 0x02 (leadT h s) := by
  refine syncAction_traps (own := counterCheck h (fun e v => e - v) true) hp rfl ?_
  rw [counterCheck_eq]
  exact if_pos (by simp [hlt])

/-! ## The lease (10 R194, R195) -/

theorem lacq_exec (h : Head) (s : State) : exec (.lacq h) s = (syncAction h [] true (fun _ => false) (lacqCheck h) fun s =>
    if s.paired s.cur.tid.core then s
    else (s.modQuad (quadOf s.cur.tid.core) fun q =>
      { q with leaseReqs := q.leaseReqs ++ [{ core := s.cur.tid.core, ctx := s.cur.tid.ctx, count := (s.lead h).toNat }] }).modSelfSplit
        fun sp => { sp with lease := true }).outcome s := rfl

theorem lrel_exec (h : Head) (s : State) : exec (.lrel h) s = (syncAction h [] false (fun _ => false) (fun _ => none) fun s =>
    if s.paired s.cur.tid.core then s
    else s.modQuad (quadOf s.cur.tid.core) fun q =>
      if q.leaseHolder = some (s.cur.tid.core, s.cur.tid.ctx) then { q with leaseHolder := none, leaseLeft := 0, leaseFree := s.clk + 1 }
      else q).outcome s := rfl

theorem paired_eq (s : State) : s.paired s.cur.tid.core = s.selfCore.mxmode.getLsbD 0 := rfl

theorem modQuad_congr {s : State} {q : Nat} {f g : Quad → Quad} (h : f (s.quad q) = g (s.quad q)) : s.modQuad q f = s.modQuad q g := by
  simp only [State.modQuad, h]

/-- A request that LACQ makes (10 R194). -/
def asksLease (h : Head) (s : State) : Prop :=
  s.selfCore.mxmode.getLsbD 0 = false ∧ 1 ≤ (leadT h s).toNat ∧ (leadT h s).toNat ≤ 64
    ∧ (s.quad (quadOf s.cur.tid.core)).leaseHolder ≠ some (s.cur.tid.core, s.cur.tid.ctx)
    ∧ (s.quad (quadOf s.cur.tid.core)).requests s.cur.tid.core s.cur.tid.ctx = false

theorem lacqCheck_unpaired {h : Head} {s : State} (hm : s.selfCore.mxmode.getLsbD 0 = false) : lacqCheck h s =
    if (leadT h s).toNat = 0 || decide (64 < (leadT h s).toNat)
      || decide ((s.quad (quadOf s.cur.tid.core)).leaseHolder = some (s.cur.tid.core, s.cur.tid.ctx))
      || (s.quad (quadOf s.cur.tid.core)).requests s.cur.tid.core s.cur.tid.ctx then some (s.before 0x02 (leadT h s)) else none := by
  rw [lacqCheck, lead_eq_leadT, paired_eq, hm]
  rfl

theorem lacqCheck_of_asks {h : Head} {s : State} (ha : asksLease h s) : lacqCheck h s = none := by
  obtain ⟨hm, h1, h64, hholds, hreq⟩ := ha
  rw [lacqCheck_unpaired hm, hreq]
  refine if_neg ?_
  simp only [Bool.or_eq_true, decide_eq_true_eq, not_or]
  exact ⟨⟨⟨by omega, by omega⟩, hholds⟩, by decide⟩

theorem lacq_asks_does (h : Head) : does (.lacq h) h (wideReads [] true) (asksLease h)
    (fun s => setSelf (s.modQuad (quadOf s.cur.tid.core) fun q =>
      { q with leaseReqs := q.leaseReqs ++ [{ core := s.cur.tid.core, ctx := s.cur.tid.ctx, count := (leadT h s).toNat }] })
      fun sp => { sp with lease := true }) := by
  refine syncAction_does (lacq_exec h) (fun _ _ => rfl) (fun s hs => lacqCheck_of_asks hs) (fun s hs => ?_)
    fun s _ => SameView.trans (u := s.modQuad (quadOf s.cur.tid.core) _) (.of_eq rfl rfl rfl) (sameView_setSelf _ _)
  rw [paired_eq, hs.1, lead_eq_leadT]
  rfl

theorem lacq_paired_does (h : Head) : does (.lacq h) h (wideReads [] true) (fun s => s.selfCore.mxmode.getLsbD 0 = true) id := by
  refine syncAction_does (lacq_exec h) (fun _ _ => rfl) (fun s hs => ?_) (fun s hs => ?_) fun s _ => .refl s
  · rw [lacqCheck, paired_eq]
    exact if_pos hs
  · rw [paired_eq]
    exact if_pos hs

theorem lrel_paired_does (h : Head) : does (.lrel h) h (wideReads [] false) (fun s => s.selfCore.mxmode.getLsbD 0 = true) id := by
  refine syncAction_does (lrel_exec h) (fun _ _ => rfl) (fun _ _ => rfl) (fun s hs => ?_) fun s _ => .refl s
  rw [paired_eq]
  exact if_pos hs

theorem lrel_does (h : Head) : does (.lrel h) h (wideReads [] false)
    (fun s => s.selfCore.mxmode.getLsbD 0 = false
      ∧ (s.quad (quadOf s.cur.tid.core)).leaseHolder = some (s.cur.tid.core, s.cur.tid.ctx))
    (fun s => s.modQuad (quadOf s.cur.tid.core) fun q => { q with leaseHolder := none, leaseLeft := 0, leaseFree := s.clk + 1 }) := by
  refine syncAction_does (lrel_exec h) (fun _ _ => rfl) (fun _ _ => rfl) (fun s hs => ?_) fun s _ => .of_eq rfl rfl rfl
  rw [paired_eq, hs.1]
  exact modQuad_congr (if_pos hs.2)

theorem lacq_traps {h : Head} {s : State} (hp : s.primed h (wideReads [] true) = true) (hm : s.selfCore.mxmode.getLsbD 0 = false)
    (hv : (leadT h s).toNat = 0 ∨ 64 < (leadT h s).toNat) : exec (.lacq h) s = trapsWith s 0x02 (leadT h s) := by
  refine syncAction_traps (own := lacqCheck h) hp rfl ?_
  rw [lacqCheck_unpaired hm]
  refine if_pos ?_
  simp only [Bool.or_eq_true, decide_eq_true_eq]
  exact .inl (.inl hv)

end Sys2Proof.Claim

open Sys2Proof Sys2Proof.Claim

/-- Refutes O33: a block whose only free progress register is a ninth one (a state that no block of the machine is in) issues MXS, and its
command has no progress register. -/
theorem not_matrixCommandsIssue : ¬Obligations.MatrixCommandsIssue := by
  unfold Obligations.MatrixCommandsIssue
  intro h
  obtain ⟨t, u, c, -, -, hissued, -⟩ := (h _ (List.mem_cons_of_mem _ List.mem_cons_self) moveG1 ninthIssuing (by decide +kernel)
    (by decide +kernel)).1 (by unfold mayCount; decide +kernel) (show mxsCheck moveG1 ninthIssuing = none by decide +kernel)
  exact not_issued_ninthIssuing hissued

/-- Refutes O34: a block whose only free progress register is a ninth one issues CPF, and its command has no progress register. -/
theorem not_copyCommandsIssue : ¬Obligations.CopyCommandsIssue := by
  unfold Obligations.CopyCommandsIssue
  intro h
  have hready : cpfCheck moveG1 0 ninthIssuing = none ∧ objectUntagged moveG1 0 ninthIssuing := by
    refine ⟨by decide +kernel, fun hb => absurd hb (by decide +kernel)⟩
  obtain ⟨t, u, c, -, -, hissued, -⟩ := h 0 _ (List.mem_cons_of_mem _ (List.mem_cons_of_mem _ (List.mem_cons_of_mem _ List.mem_cons_self)))
    moveG1 ninthIssuing (by decide +kernel) (by decide +kernel) hready
  exact not_issued_ninthIssuing hissued

/-- Settles O35: MXQ and CPQ, CPR and MXR, and MXA without another block's rows. -/
theorem commandsAnswerAndResume : Obligations.CommandsAnswerAndResume := by
  unfold Obligations.CommandsAnswerAndResume
  refine fun h => ⟨query_does fun _ => rfl, fun u => query_does fun _ => rfl, cpr_does h, mxr_does h, fun s hp hw hc hfree => ?_⟩
  obtain ⟨t, ht, hmask, hclaim, hfill⟩ := mxa_issues hp hw hc hfree
  refine ⟨t, ht, hmask, hclaim.trans ?_, mxaAnswer h s, hfill, rfl, rfl, rfl⟩
  rw [State.mxaClaim, leadOper_eq_leadOp]
  simp [Word.bits]

/-- Settles O36: semaphores, decisions, tasks and the counter tree. -/
theorem sluiceTriggers : Obligations.SluiceTriggers := by
  unfold Obligations.SluiceTriggers
  exact fun h =>
    ⟨sem_does (fun sem v => min (sem + v) 65535) (fun _ => rfl) fun s => sinc_value _ _,
      sem_does (fun sem v => sem - v) (fun _ => rfl) fun _ => rfl, sem_does (fun _ v => v) (fun _ => rfl) fun _ => rfl,
      dqp_does h, tarm_does h, tdis_does h, fun s hp hv hr hg => tdis_ends hp hv hr hg,
      counter_does (fun e v => e + v) false (fun _ => rfl) (fun s hs => ⟨hs.1, nofun, hs.2⟩),
      counter_does (fun e v => e - v) true (fun _ => rfl) (fun s hs => ⟨hs.1, fun _ => hs.2.1, Nat.lt_of_le_of_lt (Nat.sub_le _ _) hs.2.2⟩),
      counter_does (fun _ v => v) false (fun _ => rfl) (fun s hs => ⟨hs, nofun, Nat.lt_of_le_of_lt hs (by decide)⟩),
      fun s hp _ hlt => ctd_traps hp hlt, fun i hi s hp hv => by
        rcases List.mem_cons.1 hi with rfl | hi
        · exact syncAction_traps (own := taskCheck h) hp rfl (taskCheck_of_ge hv)
        · obtain rfl := List.mem_singleton.1 hi
          exact syncAction_traps (own := taskCheck h) hp rfl (taskCheck_of_ge hv)⟩

/-- Settles O37: LACQ and LREL in lease mode and in paired mode, and LACQ's trap. -/
theorem leasesAreAskedAndGivenBack : Obligations.LeasesAreAskedAndGivenBack := by
  unfold Obligations.LeasesAreAskedAndGivenBack
  exact fun h => ⟨lacq_asks_does h, lrel_does h, lacq_paired_does h, lrel_paired_does h, fun s hp hm hv => lacq_traps hp hm hv⟩

end

section
/-! SUPPORT. Loads, stores and atomics at their trigger (11 R216 to R232): what enters which queue, and the checks before it. -/

open Sys2Proof.Machine

namespace Sys2Proof.Claim

/-! ## Widths (11 R221, R226) -/

theorem widthBytes_eq (wd : Width) : widthBytes wd = bytesOfWidth wd := by cases wd <;> rfl

theorem widthWords_eq (wd : Width) : widthWords wd = slotsOfWidth wd := by cases wd <;> rfl

theorem full_eq_false {q : LoadQ} {wd : Width} (h : slotsFree q wd) : q.full wd = false := by
  have hsum : q.entries.foldl (fun a e => a + widthWords e.width) 0 = slotsTaken q := by
    rw [slotsTaken, List.sum_eq_foldl, List.foldl_map]
    simp only [widthWords_eq]
  rw [LoadQ.full, hsum, widthWords_eq]
  exact decide_eq_false (Nat.not_lt.2 h)

/-! ## Addresses (11 R216 to R218) -/

/-- Over no lane does a check fail, if it passes in every lane. -/
theorem laneWhere_eq_none {s : State} {h : Head} {p : Nat → Bool} (hp : ∀ l ∈ lanesIn (s.guard h.guard), p l = false) :
    s.laneWhere h p = none :=
  List.find?_eq_none.2 fun l hl => by simp [hp l hl]

theorem laneWhere_eq (s : State) (h : Head) (p : Nat → Bool) : s.laneWhere h p = (lanesIn (s.guard h.guard)).find? p := rfl

theorem scratchCheck_of_legal {h : Head} {n : Nat} {s : State} (hl : scratchLegal h n s) : scratchCheck h n s = none := by
  rw [scratchCheck, laneWhere_eq_none fun l hm => by rw [Option.isNone_eq_false_iff]; exact hl l hm, Option.map_none]

theorem globalAddr_eq_globalOf (s : State) (p : OpPort) (h : Head) (l : Nat) : s.globalAddr p h l = globalOf p h s l := rfl

/-! ## Loads (11 R221 to R225) -/

theorem sameView_loads (s : State) (p : LoadPort) (wd : Width) (n : Hint) (spec : Bool) (m : Mask) (lane : Nat → LoadLane) :
    SameView s (loads s p wd n spec m lane) := sameView_setThread s _

theorem lds_does (h : Head) (wd : Width) :
    does (.lds h wd) h (laneReads []) (fun s => slotsFree s.self.ls wd ∧ scratchLegal h (bytesOfWidth wd) s)
      (fun s => loads s .ls wd .normal false (s.guard h.guard) fun l => asked l ((s.scratchTarget h (bytesOfWidth wd) l).getD 0) false) :=
  does_of { Action.idle with
      waits := fun s => s.self.ls.full wd
      own := scratchCheck h (widthBytes wd)
      effect := fun s => s.enterLoad .ls wd .normal false (s.guard h.guard) fun l =>
        LoadLane.pending l ((s.scratchTarget h (widthBytes wd) l).getD 0) false }
    (fun _ => rfl)
    (fun s _ ⟨hfree, hl⟩ => ⟨full_eq_false hfree, rfl, rfl, rfl, rfl, rfl, widthBytes_eq wd ▸ scratchCheck_of_legal hl⟩)
    (fun s _ _ => by rw [← widthBytes_eq]; rfl)
    (fun s _ _ => sameView_loads s ..)

theorem ldg_does (h : Head) (wd : Width) (n : Hint) :
    does (.ldg h wd n) h (laneReads [.lgh]) (fun s => slotsFree s.self.lg wd ∧ globalLegal .lgh h (bytesOfWidth wd) s)
      (fun s => loads s .lg wd n false (s.guard h.guard) fun l =>
        asked l (globalOf .lgh h s l) (((asked l (globalOf .lgh h s l) false).todo (bytesOfWidth wd)).any fun x =>
          !s.hits s.cur.tid.core s.selfBlock.fn x.1 x.2)) :=
  does_of { Action.idle with
      waits := fun s => s.self.lg.full wd
      own := globalCheck .lgh h (widthBytes wd)
      effect := fun s => s.enterLoad .lg wd n false (s.guard h.guard) fun l =>
        { LoadLane.pending l (s.globalAddr .lgh h l) false with
          missed := ((LoadLane.pending l (s.globalAddr .lgh h l) false).todo (widthBytes wd)).any fun x =>
            !s.hits s.cur.tid.core s.selfBlock.fn x.1 x.2 } }
    (fun _ => rfl)
    (fun s _ ⟨hfree, hl⟩ => ⟨full_eq_false hfree, rfl, rfl, rfl, rfl, rfl, widthBytes_eq wd ▸ hl⟩)
    (fun s _ _ => by rw [← widthBytes_eq]; rfl)
    (fun s _ _ => sameView_loads s ..)

/-- A lane of LDGS (11 R223): what R218 refuses has poison already. -/
def ldgsLane (h : Head) (wd : Width) (s : State) (l : Nat) : LoadLane :=
  if globalOf .lgh h s l + bytesOfWidth wd ≤ 2 ^ 57 then asked l (globalOf .lgh h s l) false
  else { asked l (globalOf .lgh h s l) false with
    arrived := true, poison := true, vals := (List.range (slotsOfWidth wd)).map fun j => Config.freeWord (s.draws * 4096 + l * 4 + j) }

theorem ldgsLane_eq (h : Head) (wd : Width) (s : State) (l : Nat) :
    (if globalBad (s.globalAddr .lgh h l) (widthBytes wd) then
      { LoadLane.pending l (s.globalAddr .lgh h l) false with
        arrived := true, poison := true, vals := (List.range (widthWords wd)).map fun j => Config.freeWord (s.draws * 4096 + l * 4 + j) }
    else LoadLane.pending l (s.globalAddr .lgh h l) false) = ldgsLane h wd s l := by
  rw [ldgsLane, ← widthBytes_eq, ← widthWords_eq, globalAddr_eq_globalOf, globalBad]
  by_cases hbad : 2 ^ 57 < globalOf .lgh h s l + widthBytes wd
  · rw [if_pos (decide_eq_true hbad), if_neg (Nat.not_le.2 hbad)]
    rfl
  · rw [if_neg (by simpa using hbad), if_pos (Nat.not_lt.1 hbad)]
    rfl

theorem ldgs_does (h : Head) (wd : Width) (n : Hint) :
    does (.ldgs h wd n) h (laneReads [.lgh]) (fun s => slotsFree s.self.lg wd)
      (fun s => (loads s .lg wd n true (s.guard h.guard) (ldgsLane h wd s)).drawn) := by
  refine does_of { Action.idle with
      waits := fun s => s.self.lg.full wd
      effect := fun s => (s.enterLoad .lg wd n true (s.guard h.guard) fun l =>
        if globalBad (s.globalAddr .lgh h l) (widthBytes wd) then
          { LoadLane.pending l (s.globalAddr .lgh h l) false with
            arrived := true, poison := true, vals := (List.range (widthWords wd)).map fun j => Config.freeWord (s.draws * 4096 + l * 4 + j) }
        else LoadLane.pending l (s.globalAddr .lgh h l) false).drawn }
    (fun _ => rfl)
    (fun s _ hfree => ⟨full_eq_false hfree, rfl, rfl, rfl, rfl, rfl, rfl⟩)
    (fun s _ _ => ?_)
    (fun s _ _ => .of_eq rfl rfl rfl)
  · show (s.enterLoad .lg wd n true (s.guard h.guard) fun l => _).drawn = _
    simp only [ldgsLane_eq]
    rfl

/-- The parts of LDW (11 R224, R225). -/
def ldwParts (h : Head) (wd : Width) : Action :=
  { Action.idle with
    waits := fun s => s.self.lw.full wd
    absent := fun s => if s.pack.variant.hasStore then none else some (s.trapWord 0x15)
    own := weightCheck h (widthBytes wd)
    effect := fun s => s.enterLoad .lw wd .normal false (s.guard h.guard) fun l => LoadLane.pending l (s.trig h l).toNat true }

theorem ldw_exec (h : Head) (wd : Width) (s : State) : exec (.ldw h wd) s = (Action.trigger h (laneReads []) (ldwParts h wd)).outcome s := rfl

theorem ldw_does (h : Head) (wd : Width) :
    does (.ldw h wd) h (laneReads [])
      (fun s => s.pack.variant.hasStore = true ∧ slotsFree s.self.lw wd ∧ weightCheck h (bytesOfWidth wd) s = none)
      (fun s => loads s .lw wd .normal false (s.guard h.guard) fun l => asked l (s.trig h l).toNat true) :=
  does_of (ldwParts h wd) (ldw_exec h wd)
    (fun s _ ⟨hstore, hfree, hl⟩ => ⟨full_eq_false hfree, rfl, rfl, rfl, if_pos hstore, rfl,
      (congrArg (weightCheck h · s) (widthBytes_eq wd)).trans hl⟩)
    (fun _ _ _ => rfl)
    (fun s _ _ => sameView_loads s ..)

/-- A trigger that is primed, that waits for nothing and whose unit the part does not have takes that trap (00 R2). -/
theorem Action.trigger_absent {h : Head} {r : Reads} {a : Action} {s : State} {t : TrapRec} (hp : s.primed h r = true)
    (hwaits : a.waits s = false) (hneeds : a.needs s = none) (hpage : a.page s = none) (hlease : a.lease s = none)
    (habsent : a.absent s = some t) : (Action.trigger h r a).outcome s = .next (s.takeTrap s.cur.tid s.cur.split t) := by
  obtain ⟨⟨hon, hph, _, _⟩, ⟨hg, hw, _⟩, _, _⟩ := (State.primed_iff s h r).1 hp
  simp [Action.outcome, Action.run, Action.whole, Action.held, Action.fails, Action.trigger, hon, hph, hg, hw, hwaits, hneeds, hpage,
    hlease, habsent]

theorem ldw_absent {h : Head} {wd : Width} {s : State} (hp : s.primed h (laneReads []) = true) (hstore : s.pack.variant.hasStore = false)
    (hfree : slotsFree s.self.lw wd) : exec (.ldw h wd) s = trapsWith s 0x15 s.cur.word :=
  Action.trigger_absent (a := ldwParts h wd) (t := s.trapWord 0x15) hp (full_eq_false hfree) rfl rfl rfl (if_neg (by rw [hstore]; decide))

/-! ## Prefetches (11 R223) -/

/-- Two states are equal but for what the cores' L1s hold and what they have asked for. -/
structure Prefetched (s u : State) : Prop where
  state : u = { s with cores := u.cores }
  core : ∀ c, u.core c = { s.core c with l1 := (u.core c).l1, prefetch := (u.core c).prefetch }

theorem Prefetched.refl (s : State) : Prefetched s s := ⟨rfl, fun _ => rfl⟩

theorem Prefetched.trans {s u v : State} (a : Prefetched s u) (b : Prefetched u v) : Prefetched s v := by
  refine ⟨?_, fun c => ?_⟩
  · rw [b.state, a.state]
  · rw [b.core c, a.core c]

theorem Prefetched.modCore (s : State) (core : Nat) {f : Core → Core}
    (hf : f (s.core core) = { s.core core with l1 := (f (s.core core)).l1, prefetch := (f (s.core core)).prefetch }) :
    Prefetched s (s.modCore core f) := by
  refine ⟨rfl, fun c => ?_⟩
  by_cases hc : c = core
  · subst hc
    rw [State.core_modCore]
    exact hf
  · rw [State.core_modCore_other s _ hc]

theorem prefetched_fillL1 (s : State) (core fn addr : Nat) (h : Hint) : Prefetched s (s.fillL1 core fn addr h) := by
  unfold State.fillL1
  extract_lets key q bs
  split
  · exact .refl s
  · exact .modCore s core rfl

theorem prefetched_prefetch (s : State) (core fn a : Nat) (h : Hint) : Prefetched s (s.prefetch core fn a h) := by
  unfold State.prefetch
  split
  · exact prefetched_fillL1 ..
  · exact .modCore s core rfl

/-- What a lane of PFG does. -/
def pfgLane (h : Head) (n : Hint) (s u : State) (l : Nat) : State :=
  if globalBad (s.globalAddr .lgh h l) 1 then u
  else match u.translate s.selfBlock.fn (s.globalAddr .lgh h l) 0 with
    | .ok _ => u.prefetch s.cur.tid.core s.selfBlock.fn (s.globalAddr .lgh h l) n
    | _ => u

theorem prefetched_pfgLane (h : Head) (n : Hint) (s u : State) (l : Nat) : Prefetched u (pfgLane h n s u l) := by
  unfold pfgLane
  split
  · exact .refl u
  · split
    · exact prefetched_prefetch ..
    · exact .refl u

/-- The effect of PFG. -/
def pfgEffect (h : Head) (n : Hint) (s : State) : State := (lanesIn (s.guard h.guard)).foldl (pfgLane h n s) s

theorem prefetched_pfgEffect (h : Head) (n : Hint) (s : State) : Prefetched s (pfgEffect h n s) :=
  List.foldlRecOn (motive := Prefetched s) _ _ (.refl s) fun u hu l _ => hu.trans (prefetched_pfgLane h n s u l)

theorem pfg_exec (h : Head) (wd : Width) (n : Hint) (s : State) :
    exec (.pfg h wd n) s = (Action.trigger h (laneReads [.lgh]) { Action.idle with effect := pfgEffect h n }).outcome s := rfl

theorem Prefetched.view {s u : State} (p : Prefetched s u) : SameView s u := by
  rw [p.state]
  exact .of_eq rfl rfl rfl

theorem pfg_prefetches {h : Head} {s : State} (wd : Width) (n : Hint) (hp : s.primed h (laneReads [.lgh]) = true) :
    ∃ u t, exec (.pfg h wd n) s = .next t ∧ Latched h (s.guard h.guard) (s.trig h) true u t ∧ u = { s with cores := u.cores }
      ∧ ∀ c, u.core c = { s.core c with l1 := (u.core c).l1, prefetch := (u.core c).prefetch } := by
  have hpre := prefetched_pfgEffect h n s
  obtain ⟨t, ht, hl⟩ := Action.trigger_view hp (idle_free (pfgEffect h n) s) hpre.view
  exact ⟨pfgEffect h n s, t, (pfg_exec h wd n s).trans ht, hl, hpre.state, hpre.core⟩

end Sys2Proof.Claim

open Sys2Proof Sys2Proof.Claim

/-- Settles O38: the model's queue, slots and lanes are those of the statement. -/
theorem loadsEnterTheirQueues : Obligations.LoadsEnterTheirQueues := fun h wd n =>
  ⟨lds_does h wd, ldg_does h wd n, ldw_does h wd, ldgs_does h wd n, fun _ hp => pfg_prefetches wd n hp,
    fun _ hp hstore hfree => ldw_absent hp hstore hfree⟩

end

section
/-! SUPPORT. Stores and atomics at their trigger (11 R219, R226, R230, R232). -/

open Sys2Proof.Machine

namespace Sys2Proof.Claim

/-! ## The bytes of a store (11 R226) -/

theorem byteOf_eq_extract (w : Word) (i : Nat) : byteOf w i = w.extractLsb' (8 * i) 8 := by
  rw [byteOf, BitVec.extractLsb', Nat.shiftRight_eq_div_pow, Nat.pow_mul]

theorem cellsAt_map_range (a n : Nat) (f : Nat → Byte) : cellsAt a ((List.range n).map f) = (List.range n).map fun i => (a + i, f i) := by
  rw [cellsAt, List.length_map, List.length_range, List.zipWith_map_right, List.zipWith_self]

/-- The data ports' sixteen bytes in a lane. -/
theorem portBytes_eq (d : Fin 4 → OpPort) (s : State) (l : Nat) :
    ((List.range 4).flatMap fun j => bytesOf (s.oper (d (Fin.ofNat 4 j)) l)) = (List.range 16).map (dataByte d s l) := by
  rw [← flatMap_range_map (dataByte d s l) 4 4]
  refine congrArg List.flatten (List.map_congr_left fun j _ => List.map_congr_left fun i hi => ?_)
  have hi : i < 4 := List.mem_range.1 hi
  rw [dataByte, byteOf_eq_extract, show (4 * j + i) / 4 = j by omega, show (4 * j + i) % 4 = i by omega]
  rfl

theorem bytesOfWidth_le (wd : Width) : bytesOfWidth wd ≤ 16 := by cases wd <;> decide

theorem storeCells_eq {wd : Width} (d : Fin 4 → OpPort) (x : Nat) (s : State) (l : Nat) (m : Word) :
    storeCells wd x (fun j => s.oper (d (Fin.ofNat 4 j)) l) m = bytesStored wd x (dataByte d s l) m := by
  have hlow : cellsAt x (((List.range 16).map (dataByte d s l)).take (bytesOfWidth wd))
      = (List.range (bytesOfWidth wd)).map fun i => (x + i, dataByte d s l i) := by
    rw [← List.map_take, List.take_range, Nat.min_eq_left (bytesOfWidth_le wd), cellsAt_map_range]
  have hmasked : ((cellsAt (x / 16 * 16) ((List.range 16).map (dataByte d s l))).filter fun c => m.getLsbD (c.1 % 16))
      = ((List.range 16).filter fun i => m.getLsbD i).map fun i => (x / 16 * 16 + i, dataByte d s l i) := by
    rw [cellsAt_map_range, List.filter_map]
    refine congrArg _ (List.filter_congr fun i hi => ?_)
    have hi : i < 16 := List.mem_range.1 hi
    show m.getLsbD ((x / 16 * 16 + i) % 16) = _
    rw [show (x / 16 * 16 + i) % 16 = i by omega]
  cases wd
  case m => simpa only [storeCells, bytesStored, portBytes_eq] using hmasked
  all_goals simpa only [storeCells, bytesStored, portBytes_eq, widthBytes_eq] using hlow

/-! ## The store buffer (11 R219) -/

theorem storePorts_eq (d : Fin 4 → OpPort) (m : OpPort) (wd : Width) : storePorts d m wd = dataPorts d m wd := by cases wd <;> rfl

theorem takes_of_primed {s : State} {h : Head} {r : Reads} (hp : s.primed h r = true) : s.cur.takes = Takes.none_ :=
  ((State.primed_iff s h r).1 hp).1.2.2.2

theorem storesFull_eq_false {s : State} (ht : s.cur.takes = Takes.none_) (h : s.selfCore.stores.length < 64) : s.storesFull = false := by
  rw [State.storesFull, ht]
  exact decide_eq_false (Nat.not_le.2 h)

theorem sameView_stores (s : State) (global : Bool) (n : Hint) (m : Mask) (lane : Nat → StoreLane) :
    SameView s (stores s global n m lane) := .of_eq rfl rfl rfl

/-- The parts of STS (11 R226). -/
def stsParts (h : Head) (wd : Width) : Action :=
  { Action.idle with
    waits := fun s => s.storesFull
    takes := fun _ => { Takes.none_ with stores := 1 }
    own := stsCheck h wd
    effect := fun s => s.enterStore false .normal (s.guard h.guard) fun l =>
      { lane := l, addr := (s.storeTarget h wd l).getD 0,
        cells := storeCells wd ((s.storeTarget h wd l).getD 0) (fun j => s.oper (.ssd (Fin.ofNat 4 j)) l) (s.oper .ssm l) } }

theorem sts_exec (h : Head) (wd : Width) (s : State) :
    exec (.sts h wd) s = (Action.trigger h (laneReads (dataPorts .ssd .ssm wd)) (stsParts h wd)).outcome s := by
  rw [← storePorts_eq]
  rfl

theorem sts_does (h : Head) (wd : Width) : does (.sts h wd) h (laneReads (dataPorts .ssd .ssm wd))
    (fun s => s.selfCore.stores.length < 64 ∧ ∀ l ∈ lanesIn (s.guard h.guard), (s.storeTarget h wd l).isSome = true)
    (fun s => stores s false .normal (s.guard h.guard) fun l =>
      { lane := l, addr := (s.storeTarget h wd l).getD 0,
        cells := bytesStored wd ((s.storeTarget h wd l).getD 0) (dataByte .ssd s l) (s.self.rd (.op .ssm) l) }) := by
  refine does_of (stsParts h wd) (sts_exec h wd) (fun s hp ⟨hfree, hl⟩ => ?_) (fun s _ _ => ?_) fun s _ _ => sameView_stores s ..
  · have hcheck : stsCheck h wd s = none := by
      rw [stsCheck, laneWhere_eq_none fun l hm => by rw [Option.isNone_eq_false_iff]; exact hl l hm, Option.map_none]
    exact ⟨storesFull_eq_false (takes_of_primed hp) hfree, rfl, rfl, rfl, rfl, rfl, hcheck⟩
  · show s.enterStore false .normal (s.guard h.guard) _ = _
    simp only [storeCells_eq]
    rfl

/-- The parts of STG (11 R226). -/
def stgParts (h : Head) (wd : Width) (n : Hint) : Action :=
  { Action.idle with
    waits := fun s => s.storesFull
    takes := fun _ => { Takes.none_ with stores := 1 }
    own := stgCheck h wd
    effect := fun s => s.enterStore true n (s.guard h.guard) fun l =>
      { lane := l, addr := storeBase wd (s.globalAddr .sgh h l),
        cells := storeCells wd (s.globalAddr .sgh h l) (fun j => s.oper (.sgd (Fin.ofNat 4 j)) l) (s.oper .sgm l) } }

theorem stg_exec (h : Head) (wd : Width) (n : Hint) (s : State) :
    exec (.stg h wd n) s = (Action.trigger h (laneReads (.sgh :: dataPorts .sgd .sgm wd)) (stgParts h wd n)).outcome s := by
  rw [← storePorts_eq]
  rfl

theorem stgCheck_eq (h : Head) (wd : Width) (s : State) :
    stgCheck h wd s = globalCheck .sgh h (if wd = .m then 1 else bytesOfWidth wd) s := by
  cases wd <;> rfl

theorem storeBase_eq (wd : Width) (x : Nat) : storeBase wd x = if wd = .m then x / 16 * 16 else x := by
  cases wd <;> rfl

theorem stg_does (h : Head) (wd : Width) (n : Hint) : does (.stg h wd n) h (laneReads (.sgh :: dataPorts .sgd .sgm wd))
    (fun s => s.selfCore.stores.length < 64 ∧ globalLegal .sgh h (if wd = .m then 1 else bytesOfWidth wd) s)
    (fun s => stores s true n (s.guard h.guard) fun l =>
      { lane := l, addr := if wd = .m then globalOf .sgh h s l / 16 * 16 else globalOf .sgh h s l,
        cells := bytesStored wd (globalOf .sgh h s l) (dataByte .sgd s l) (s.self.rd (.op .sgm) l) }) := by
  refine does_of (stgParts h wd n) (stg_exec h wd n) (fun s hp ⟨hfree, hl⟩ => ?_) (fun s _ _ => ?_) fun s _ _ => sameView_stores s ..
  · exact ⟨storesFull_eq_false (takes_of_primed hp) hfree, rfl, rfl, rfl, rfl, rfl, (stgCheck_eq h wd s).trans hl⟩
  · show s.enterStore true n (s.guard h.guard) _ = _
    simp only [storeCells_eq, storeBase_eq]
    rfl

/-! ## The atomic request queue (11 R219, R230, R232) -/

/-- The parts of an atomic trigger. -/
def atomParts (e : AtomRow) (h : Head) : Action :=
  { Action.idle with
    waits := fun s => s.atomsFull
    takes := fun _ => { Takes.none_ with atoms := 1 }
    own := atomCheck h e.kind
    effect := fun s => s.enterAtom h e.kind e.op e.scope }

/-- An instruction of the atomic unit, with the kind, the operation and the scope class of its row. -/
def AtomRow.Realized (e : AtomRow) : Prop :=
  ∀ h s, exec (e.make h) s = (Action.trigger h (atomReads e) (atomParts e h)).outcome s

theorem atsRows_realized : ∀ e ∈ atsRows, e.Realized := by
  simp only [atsRows, List.zip_cons_cons, List.zip_nil_left, List.map_cons, List.map_nil, List.forall_mem_cons, List.not_mem_nil,
    false_implies, implies_true, and_true]
  and_intros <;> exact fun _ _ => rfl

theorem atgRows_realized (c : AtomScope) : ∀ e ∈ atgRows c, e.Realized := by
  simp only [atgRows, List.zip_cons_cons, List.zip_nil_left, List.map_cons, List.map_nil, List.forall_mem_cons, List.not_mem_nil,
    false_implies, implies_true, and_true]
  and_intros <;> exact fun _ _ => rfl

theorem redRows_realized (c : AtomScope) : ∀ e ∈ redRows c, e.Realized := by
  simp only [redRows, List.zip_cons_cons, List.zip_nil_left, List.map_cons, List.map_nil, List.forall_mem_cons, List.not_mem_nil,
    false_implies, implies_true, and_true]
  and_intros <;> exact fun _ _ => rfl

theorem atomRows_realized {c : AtomScope} {e : AtomRow} (he : e ∈ atsRows ++ atgRows c ++ redRows c) : e.Realized := by
  rcases List.mem_append.1 he with he | he
  · rcases List.mem_append.1 he with he | he
    · exact atsRows_realized e he
    · exact atgRows_realized c e he
  · exact redRows_realized c e he

theorem atomsFull_eq_false {s : State} (ht : s.cur.takes = Takes.none_) (h : atomsFree s) : s.atomsFull = false := by
  rw [State.atomsFull, ht]
  exact decide_eq_false (Nat.not_le.2 h)

theorem atomCheck_of_named {e : AtomRow} {h : Head} {s : State} (hn : atomNamed e h s) : atomCheck h e.kind s = alignedCheck h s := by
  rw [atomCheck]
  by_cases hk : e.kind = 0
  · rw [atomNamed, if_pos hk] at hn
    rw [if_pos hk, scratchCheck_of_legal hn]
  · rw [atomNamed, if_neg hk] at hn
    rw [if_neg hk, hn]

theorem alignedCheck_of_aligned {h : Head} {s : State} (ha : atomAligned h s) : alignedCheck h s = none := by
  rw [alignedCheck, laneWhere_eq_none fun l hl => decide_eq_false (Classical.not_not.2 (ha l hl)), Option.map_none]

theorem takenOver_eq (e : AtomRow) (m : Mask) (th : Thread) : th.awaitAtom (atomPort e.kind) m = takenOver e m th := by
  unfold Thread.awaitAtom takenOver atomPort
  by_cases hk : e.kind = 0
  · simp only [hk, if_true]
    rfl
  · simp only [hk, if_false, if_true]
    rfl

theorem enterAtom_eq (e : AtomRow) (h : Head) (s : State) : s.enterAtom h e.kind e.op e.scope = atomEntered e h s := by
  have hlane : (fun l => ({
      lane := l, addr := if e.kind = 0 then (s.scratchTarget h 4 l).getD 0 else s.globalAddr .agh h l,
      a := s.oper (if e.kind = 0 then .asa else .aga) l, c := s.oper (if e.kind = 0 then .asb else .agb) l, stage := 0, old := 0#32,
      cause := 0, tries := 0,
      missed := e.kind ≠ 0 && !(s.atQuadCache s.selfBlock.fn e.kind e.scope (s.globalAddr .agh h l)
        && s.inQuad (quadOf s.cur.tid.core) s.selfBlock.fn (s.globalAddr .agh h l)) } : AtomLane))
      = fun l => { lane := l, addr := atomAddress e h s l, a := s.self.rd (.op (if e.kind = 0 then .asa else .aga)) l,
                   c := s.self.rd (.op (if e.kind = 0 then .asb else .agb)) l, stage := 0, old := 0#32, cause := 0, tries := 0,
                   missed := atomMisses e s (atomAddress e h s l) } := by
    funext l
    simp only [atomAddress, atomMisses, globalAddr_eq_globalOf]
    by_cases hk : e.kind = 0
    · simp only [hk, ne_eq, not_true_eq_false, decide_false, Bool.false_and]
      rfl
    · simp only [hk, if_false]
      rfl
  unfold State.enterAtom
  extract_lets t m lane entry
  rw [atomEntered, setThread, atomEntry, ← hlane]
  simp only [takenOver_eq]
  rfl

theorem sameView_atomEntered (e : AtomRow) (h : Head) (s : State) : SameView s (atomEntered e h s) := .of_eq rfl rfl rfl

theorem AtomRow.Realized.enters {e : AtomRow} (he : e.Realized) (h : Head) :
    does (e.make h) h (atomReads e) (fun s => atomsFree s ∧ atomNamed e h s ∧ atomAligned h s) (atomEntered e h) :=
  does_of (atomParts e h) (he h)
    (fun _ hp ⟨hfree, hn, ha⟩ => ⟨atomsFull_eq_false (takes_of_primed hp) hfree, rfl, rfl, rfl, rfl, rfl,
      (atomCheck_of_named hn).trans (alignedCheck_of_aligned ha)⟩)
    (fun s _ _ => enterAtom_eq e h s)
    (fun s _ _ => sameView_atomEntered e h s)

theorem AtomRow.Realized.misaligned {e : AtomRow} (he : e.Realized) {h : Head} {s : State} {l : Nat} (hp : s.primed h (atomReads e) = true)
    (hfree : atomsFree s) (hn : atomNamed e h s) (hl : (lanesIn (s.guard h.guard)).find? (fun k => decide ((s.trig h k).toNat % 4 ≠ 0)) = some l) :
    exec (e.make h) s = trapsWith s 0x05 (s.trig h l) := by
  have hown : (atomParts e h).own s = some (s.before 0x05 (s.trig h l)) := by
    show atomCheck h e.kind s = _
    rw [atomCheck_of_named hn, alignedCheck, laneWhere_eq, hl]
    rfl
  exact (he h s).trans (Action.trigger_traps hp (atomsFull_eq_false (takes_of_primed hp) hfree) rfl rfl rfl rfl rfl hown)

end Sys2Proof.Claim

open Sys2Proof Sys2Proof.Claim

/-- Settles O39: the model's cells are the bytes of the data ports, in ascending order. -/
theorem storesEnterTheBuffer : Obligations.StoresEnterTheBuffer := fun h wd n _ => ⟨sts_does h wd, stg_does h wd n⟩

/-- Settles O40, row by row from the model's one atomic trigger. -/
theorem atomicsEnterTheirQueue : Obligations.AtomicsEnterTheirQueue := fun _ _ he h =>
  have hr := atomRows_realized he
  ⟨hr.enters h, fun _ _ hp hfree hn hl => hr.misaligned hp hfree hn hl⟩

end

section
/-! SUPPORT. What is checked before a trigger takes effect: the tags of what it reads (11 R229), and addresses (11 R217, R218). -/

open Sys2Proof.Machine

namespace Sys2Proof.Claim

/-! ## A trigger that reads a tagged operand (11 R229) -/

/-- A move that is issued by itself, that nothing holds back, whose unit is there and whose poison check fails takes that trap. -/
theorem Action.outcome_poisoned {a : Action} {s : State} {t : TrapRec} (ha : s.alone = true) (hwaits : a.waits s = false)
    (hneeds : a.needs s = none) (hpage : a.page s = none) (hlease : a.lease s = none) (habsent : a.absent s = none)
    (hpoison : a.poison s = some t) : a.outcome s = .next (s.takeTrap s.cur.tid s.cur.split t) := by
  obtain ⟨hon, hph, -, -⟩ := (alone_iff s).1 ha
  simp [Action.outcome, Action.run, Action.whole, Action.held, Action.fails, hon, hph, hwaits, hneeds, hpage, hlease, habsent, hpoison]

/-- Nothing but its tags stops a trigger before its poison check. -/
structure Unheld (a : Action) (s : State) : Prop where
  waits : a.waits s = false
  needs : a.needs s = none
  page : a.page s = none
  lease : a.lease s = none
  absent : a.absent s = none

theorem sourced_iff (s : State) (h : Head) : s.sourced h = true ↔
    s.guard h.guard ≠ 0#32 ∧ s.srcWaits h.src false (s.guard h.guard) = false ∧ s.srcFault h.src (s.guard h.guard) = none := by
  simp [State.sourced, and_assoc, Option.isNone_iff_eq_none]

/-- A trigger whose operands are tagged, or whose own poison check fails with trap 0x06 and the move word, takes that trap. -/
theorem Action.trigger_poison {h : Head} {r : Reads} {a : Action} {s : State} (ha : s.alone = true) (hs : s.sourced h = true)
    (hu : Unheld a s) (ht : r.tagged s h (s.guard h.guard) = true ∨ a.poison s = some (s.trapWord 0x06)) :
    (Action.trigger h r a).outcome s = trapsWith s 0x06 s.cur.word := by
  obtain ⟨hg, hw, -⟩ := (sourced_iff s h).1 hs
  have hpoison : (Action.trigger h r a).poison s = some (s.trapWord 0x06) := by
    show (if _ then _ else if _ then _ else _) = _
    rw [if_neg hg]
    split
    · rfl
    · exact ht.resolve_left ‹_›
  refine Action.outcome_poisoned ha ?_ ?_ ?_ ?_ ?_ hpoison
  · simp [Action.trigger, hw, hu.waits]
  all_goals simp [Action.trigger, hg, hu.needs, hu.page, hu.lease, hu.absent]

theorem Action.trigger_tagged {h : Head} {r : Reads} {a : Action} {s : State} (ha : s.alone = true) (hs : s.sourced h = true)
    (hu : Unheld a s) (ht : r.tagged s h (s.guard h.guard) = true) : (Action.trigger h r a).outcome s = trapsWith s 0x06 s.cur.word :=
  Action.trigger_poison ha hs hu (.inl ht)

theorem takes_of_alone {s : State} (ha : s.alone = true) : s.cur.takes = Takes.none_ := ((alone_iff s).1 ha).2.2.2

theorem flightsFull_of_alone {s : State} {n : Nat} (ha : s.alone = true) (hr : room n s) : s.flightsFull n = false := by
  have hr : s.self.flights.length + n ≤ 4 := hr
  rw [State.flightsFull, takes_of_alone ha]
  exact decide_eq_false (by simpa [Thread.records', Takes.none_] using hr)

/-! ## The A units -/

/-- A row's instruction is the A units' one trigger, whatever it computes; where it reads the flags port, with the check of R331. -/
def AluRow.Shared (e : AluRow) (divides : Bool) : Prop :=
  ∃ op, ∀ h u s, exec (e.make h u) s = (aluAction h u e.readsA e.readsT e.latency divides op).outcome s
    ∨ exec (e.make h u) s = ((aluAction h u e.readsA e.readsT e.latency divides op).carrying h u).outcome s

theorem AluRow.Issued.shared {e : AluRow} (he : e.Issued) : e.Shared false := by
  obtain ⟨op, -, hexec⟩ := he
  refine ⟨op, fun h u s => ?_⟩
  rw [hexec]
  split
  · exact .inr rfl
  · exact .inl rfl

theorem AluRow.Realized.shared {e : AluRow} {divides : Bool} (he : e.Realized divides) : e.Shared divides := by
  obtain ⟨op, -, hexec⟩ := he
  exact ⟨op, fun h u s => .inl (hexec h u s)⟩

theorem AluRow.Shared.tagged {e : AluRow} {divides : Bool} (he : e.Shared divides) {h : Head} {u : Fin 2} {s : State}
    (ha : s.alone = true) (hs : s.sourced h = true) (ht : (aluReads e u).tagged s h (s.guard h.guard) = true) (hr : room 1 s)
    (hd : divides = true → dividersFree h s) : exec (e.make h u) s = trapsWith s 0x06 s.cur.word := by
  obtain ⟨op, hexec⟩ := he
  obtain ⟨hg, hw, -⟩ := (sourced_iff s h).1 hs
  have hbusy : (divides && s.dividerBusy (s.guard h.guard)) = false := by
    cases divides with
    | false => rfl
    | true => exact (dividerBusy_eq_false_iff h s).2 (hd rfl)
  have hwaits : (s.flightsFull 1 || (divides && s.dividerBusy (s.guard h.guard))) = false := by
    rw [flightsFull_of_alone ha hr, hbusy]
    rfl
  rcases hexec h u s with he | he
  · exact he.trans (Action.trigger_tagged ha hs ⟨hwaits, rfl, rfl, rfl, rfl⟩ ht)
  · refine he.trans (Action.outcome_poisoned (t := s.trapWord 0x06) ha ?_ (if_neg hg) (if_neg hg) (if_neg hg) (if_neg hg)
      ((if_neg hg).trans (if_pos ht)))
    show (_ && (_ || (s.flightsFull 1 || (divides && s.dividerBusy (s.guard h.guard))))) = false
    rw [hw, hwaits]
    exact Bool.and_false _

theorem alu_shared {e : AluRow} (he : e ∈ aluSums ++ aluProducts ++ aluBits ++ aluShifts ++ aluFields ++ [unaryRow .ctz id]) :
    e.Shared false := by
  simp only [List.mem_append, List.mem_singleton] at he
  rcases he with ((((he | he) | he) | he) | he) | rfl
  · exact (aluSums_issued e he).shared
  · exact (aluProducts_issued e he).shared
  · exact (aluBits_issued e he).shared
  · exact (aluShifts_realized e he).shared
  · exact (aluFields_realized e he).shared
  · exact ⟨opCtz, fun _ _ _ => .inl rfl⟩

/-! ## F, V and S -/

theorem FloatRow.Realized.tagged {e : FloatRow} {own : Head → State → Option TrapRec} (he : e.Realized own) {h : Head} {s : State}
    (ha : s.alone = true) (hs : s.sourced h = true) (ht : (floatReads e).tagged s h (s.guard h.guard) = true) (hr : room 1 s) :
    exec (e.make h) s = trapsWith s 0x06 s.cur.word :=
  (he h s).trans (Action.trigger_tagged ha hs ⟨flightsFull_of_alone ha hr, rfl, rfl, rfl, rfl⟩ ht)

theorem float_realized {u : Fin 2} {rm : Rm} {e : FloatRow} (he : e ∈ fpRows u rm ++ packedRows u rm ++ compareRow u :: cvtRow :: convRows) :
    ∃ own, e.Realized own := by
  simp only [List.mem_append, List.mem_cons] at he
  rcases he with (he | he) | rfl | rfl | he
  · exact ⟨_, fpRows_realized u rm e he⟩
  · exact ⟨_, packedRows_realized u rm e he⟩
  · exact ⟨_, compareRow_realized u⟩
  · exact ⟨_, cvtRow_realized⟩
  · exact ⟨_, convRows_realized e he⟩

theorem special_tagged {e : FloatRow} (he : e ∈ specialRows) {h : Head} {s : State} (ha : s.alone = true) (hs : s.sourced h = true)
    (ht : (floatReads e).tagged s h (s.guard h.guard) = true) (hr : room 1 s) (hf : specialFree s) :
    exec (e.make h) s = trapsWith s 0x06 s.cur.word := by
  have hwaits : (specialParts e h).waits s = false := by
    show (_ || _) = false
    rw [flightsFull_of_alone ha hr, specialBusy_eq_false hf]
    rfl
  exact (specialRows_exec e he h s).trans (Action.trigger_tagged ha hs ⟨hwaits, rfl, rfl, rfl, rfl⟩ ht)

/-! ## X -/

theorem crossAction_tagged {h : Head} {ops : List OpPort} {poison : State → Option TrapRec}
    {op : Mask → (Nat → Word) → (Nat → Word) → Nat → Word} {other : Mask → (Nat → Word) → Mask} {raised : Mask → (Nat → Word) → BitVec 5}
    {s : State} (ha : s.alone = true) (hs : s.sourced h = true) (hr : room 2 s)
    (ht : ({ ops := ops, t := true, wide := false } : Reads).tagged s h (s.guard h.guard) = true ∨ poison s = some (s.trapWord 0x06)) :
    (crossAction h ops poison op other raised).outcome s = trapsWith s 0x06 s.cur.word :=
  Action.trigger_poison ha hs ⟨flightsFull_of_alone ha hr, rfl, rfl, rfl, rfl⟩ ht

theorem CrossRow.Realized.tagged {e : CrossRow} {poison : Head → State → Option TrapRec} (he : e.Realized poison) {h : Head} {s : State}
    (ha : s.alone = true) (hs : s.sourced h = true) (hr : room 2 s)
    (ht : (crossReads e).tagged s h (s.guard h.guard) = true ∨ poison h s = some (s.trapWord 0x06)) :
    exec (e.make h) s = trapsWith s 0x06 s.cur.word := by
  obtain ⟨op, other, -, hexec⟩ := he
  exact (hexec h s).trans (crossAction_tagged ha hs hr ht)

theorem cross_realized {e : CrossRow} (he : e ∈ movements ++ votes ++ reductions ++ planes) : e.Realized fun _ _ => none := by
  simp only [List.mem_append] at he
  rcases he with ((he | he) | he) | he
  · exact movements_realized e he
  · exact votes_realized e he
  · exact reductions_realized e he
  · exact planes_realized e he

theorem bcstTagged_of_tag {h : Head} {s : State} (hg : s.guard h.guard ≠ 0#32)
    (ht : (s.self.tags (.op .xa)).getLsbD (lowestIn (s.guard h.guard)) = true) : bcstTagged h s = some (s.trapWord 0x06) := by
  have hl : lowestIn (s.guard h.guard) < 32 := (mem_lanesOf.1 (List.mem_of_head? (lowest_eq_some hg))).1
  rw [bcstTagged_eq, State.operBad, if_pos]
  intro hzero
  have := congrArg (BitVec.getLsbD · (lowestIn (s.guard h.guard))) hzero
  rw [BitVec.getLsbD_and, ht, getLsbD_laneMask, decide_eq_true hl, decide_eq_true rfl] at this
  exact absurd this (by simp)

/-! ## Scratch and global addresses (11 R217, R218; 15 R287) -/

theorem ite_none_isNone {α : Type} {p : Prop} [Decidable p] (x : Option α) : (if p then none else x).isNone = (decide p || x.isNone) := by
  by_cases h : p <;> simp [h]

theorem ite_some_isNone {α : Type} {p : Prop} [Decidable p] (x : α) : (if p then some x else none).isNone = decide ¬p := by
  by_cases h : p <;> simp [h]

theorem scratchAt_isNone (s : State) (v : Word) (n : Nat) :
    (s.scratchAt s.cur.tid.core s.cur.tid.ctx v n).isNone = unplaced s v n := by
  have hblock : s.block s.cur.tid.core s.cur.tid.ctx = s.selfBlock := rfl
  have hlow : v.bits 18 0 = v.toNat % 2 ^ 19 := by simp [Word.bits]
  have hmid : v.bits 26 19 = v.toNat / 2 ^ 19 % 256 := rfl
  have hslot : v.bits 30 27 = v.toNat / 2 ^ 27 % 16 := rfl
  have hhalf : v.bits 31 31 = (v.getLsbD 31).toNat := (Nat.toNat_testBit v.toNat 31).symm
  have htop : (v.bits 31 19 ≠ 0) = ¬v.toNat < 2 ^ 19 := bits_high_ne_zero v (by decide)
  unfold State.scratchAt State.scratchIn unplaced
  simp only [hblock]
  split
  case isTrue =>
    generalize (s.selfBlock.twin && decide (16 ≤ s.selfBlock.gslot)) = second
    have hxor : (v.bits 31 31 ^^^ if second = true then 1 else 0) = if (v.getLsbD 31).toNat = second.toNat then 0 else 1 := by
      rw [hhalf]
      cases second <;> cases v.getLsbD 31 <;> rfl
    rw [hxor, hlow, hmid, hslot, hhalf, ite_none_isNone, Bool.decide_eq_true]
    refine congrArg _ ?_
    generalize (16 * if (v.getLsbD 31).toNat = second.toNat then 0 else 1) + v.toNat / 2 ^ 27 % 16 = slot
    split
    · rw [ite_some_isNone]
      exact decide_eq_decide.2 Nat.not_le
    · cases s.groupMate s.selfBlock _ with
      | none => rfl
      | some p =>
        rw [ite_some_isNone]
        exact decide_eq_decide.2 Nat.not_le
  case isFalse =>
    rw [ite_none_isNone, Bool.decide_eq_true, Option.isNone_some, Bool.or_false, Bool.eq_iff_iff]
    simp only [htop, Bool.or_eq_true, decide_eq_true_eq, Nat.not_lt]
    omega

theorem scratchCheck_refuses {h : Head} {n : Nat} {s : State} {l : Nat} (hl : refusedLane h s (fun k => unplaced s (s.trig h k) n) l) :
    scratchCheck h n s = some (s.before 0x08 (s.trig h l)) := by
  simp only [scratchCheck, State.scratchTarget, Option.isNone_map, scratchAt_isNone]
  rw [laneWhere_eq, hl]
  rfl

theorem storeTarget_isNone (s : State) (h : Head) (wd : Width) (k : Nat) :
    (s.storeTarget h wd k).isNone = unplaced s (if wd = .m then s.trig h k &&& ~~~15#32 else s.trig h k) (bytesOfWidth wd) := by
  rw [← scratchAt_isNone, ← widthBytes_eq]
  unfold State.storeTarget
  rw [Option.isNone_map]
  cases wd <;> rfl

theorem stsCheck_refuses {h : Head} {wd : Width} {s : State} {l : Nat}
    (hl : refusedLane h s (fun k => unplaced s (if wd = .m then s.trig h k &&& ~~~15#32 else s.trig h k) (bytesOfWidth wd)) l) :
    stsCheck h wd s = some (s.before 0x08 (s.trig h l)) := by
  simp only [stsCheck, storeTarget_isNone]
  rw [laneWhere_eq, hl]
  rfl

/-- The check of global addresses takes trap 0x15 where a part without pod links is asked for a pod-remote address. -/
theorem globalCheck_absent {p : OpPort} {h : Head} {n : Nat} {s : State} (hpods : s.pack.variant.hasPods = false)
    (hk : ∃ k ∈ lanesIn (s.guard h.guard), podRemote p h s k = true) : globalCheck p h n s = some (s.trapWord 0x15) := by
  obtain ⟨k, hk, hremote⟩ := hk
  unfold globalCheck
  extract_lets remote
  refine if_pos (List.find?_isSome.2 ⟨k, hk, ?_⟩)
  show (!s.pack.variant.hasPods && _ && _) = true
  rw [hpods]
  exact hremote

theorem globalCheck_refuses {p : OpPort} {h : Head} {n : Nat} {s : State} {l : Nat}
    (hpods : s.pack.variant.hasPods = true ∨ ∀ k ∈ lanesIn (s.guard h.guard), podRemote p h s k = false)
    (hl : refusedLane h s (fun k => decide (2 ^ 57 < globalOf p h s k + n)) l) :
    globalCheck p h n s = some (s.before 0x08 (s.self.rd (.op p) l)) := by
  unfold globalCheck
  extract_lets remote
  have hremote : s.laneWhere h remote = none := laneWhere_eq_none fun k hk => by
    rcases hpods with hpods | hpods
    · show (!s.pack.variant.hasPods && _ && _) = false
      rw [hpods]
      rfl
    · show (!s.pack.variant.hasPods && (s.rangeOf _ _).valid && _) = false
      rw [Bool.and_assoc]
      exact (congrArg _ (hpods k hk)).trans (Bool.and_false _)
  rw [hremote, if_neg (by simp)]
  exact congrArg (Option.map _) hl

/-- The instruction's check of its addresses is the check of global addresses, where nothing else stops it. -/
theorem globalsChecked_of {i : Instr} {p : OpPort} {h : Head} {n : Nat} {s : State}
    (htraps : ∀ r, globalCheck p h n s = some r → exec i s = .next (s.takeTrap s.cur.tid s.cur.split r)) : globalsChecked i p h n s :=
  ⟨fun hpods hk => htraps _ (globalCheck_absent hpods hk), fun _ hpods hl => htraps _ (globalCheck_refuses hpods hl)⟩

/-- An atomic whose address does not exist takes that trap, before the check of its alignment (11 R230). -/
theorem atomCheck_of_scratch {h : Head} {s : State} {r : TrapRec} (hc : scratchCheck h 4 s = some r) : atomCheck h 0 s = some r := by
  rw [atomCheck, if_pos rfl, hc]

theorem atomCheck_of_global {h : Head} {kind : Nat} {s : State} {r : TrapRec} (hk : kind ≠ 0) (hc : globalCheck .agh h 4 s = some r) :
    atomCheck h kind s = some r := by
  rw [atomCheck, if_neg hk, hc]

theorem AtomRow.Realized.unnamed {e : AtomRow} (he : e.Realized) {h : Head} {s : State} {r : TrapRec} (hp : s.primed h (atomReads e) = true)
    (hfree : atomsFree s) (hc : atomCheck h e.kind s = some r) : exec (e.make h) s = .next (s.takeTrap s.cur.tid s.cur.split r) :=
  (he h s).trans (Action.trigger_traps hp (atomsFull_eq_false (takes_of_primed hp) hfree) rfl rfl rfl rfl rfl hc)

theorem atsRows_kind {e : AtomRow} (he : e ∈ atsRows) : e.kind = 0 := by
  obtain ⟨x, -, rfl⟩ := List.mem_map.1 he
  rfl

theorem globalRows_kind {c : AtomScope} {e : AtomRow} (he : e ∈ atgRows c ++ redRows c) : e.kind ≠ 0 := by
  rcases List.mem_append.1 he with he | he <;> obtain ⟨x, -, rfl⟩ := List.mem_map.1 he
  · exact Nat.one_ne_zero
  · exact Nat.succ_ne_zero 1

/-! ## Offsets of the weight store (11 R218, 15 R287) -/

theorem weightCheck_high {h : Head} {n : Nat} {s : State} {l : Nat}
    (hl : refusedLane h s (fun k => decide (2 ^ 28 ≤ (s.trig h k).toNat)) l) : weightCheck h n s = some (s.before 0x08 (s.trig h l)) := by
  have hbad : (fun k => decide ((s.trig h k).bits 31 28 ≠ 0)) = fun k => decide (2 ^ 28 ≤ (s.trig h k).toNat) := by
    funext k
    rw [decide_eq_decide, bits_high_ne_zero _ (by decide), Nat.not_lt]
  unfold weightCheck
  simp only [hbad, laneWhere_eq]
  rw [hl]

theorem weightCheck_outside {h : Head} {n : Nat} {s : State} {l : Nat} (hlow : ∀ k ∈ lanesIn (s.guard h.guard), (s.trig h k).toNat < 2 ^ 28)
    (hl : refusedLane h s (fun k => s.wsOutside s.selfBlock.fn (dieOf s.cur.tid.core) (s.trig h k).toNat n) l) :
    weightCheck h n s = some (s.before 0x08 (s.trig h l)) := by
  have hnone : s.laneWhere h (fun k => decide ((s.trig h k).bits 31 28 ≠ 0)) = none := laneWhere_eq_none fun k hk => by
    rw [decide_eq_false_iff_not, bits_high_ne_zero _ (by decide), Classical.not_not]
    exact hlow k hk
  unfold weightCheck
  simp only [hnone]
  rw [laneWhere_eq, hl]
  rfl

theorem ldw_traps {h : Head} {wd : Width} {s : State} {r : TrapRec} (hp : s.primed h (laneReads []) = true)
    (hstore : s.pack.variant.hasStore = true) (hfree : slotsFree s.self.lw wd) (hc : weightCheck h (bytesOfWidth wd) s = some r) :
    exec (.ldw h wd) s = .next (s.takeTrap s.cur.tid s.cur.split r) :=
  Action.trigger_traps (a := ldwParts h wd) hp (full_eq_false hfree) rfl rfl rfl (if_pos hstore) rfl
    ((congrArg (weightCheck h · s) (widthBytes_eq wd)).trans hc)

end Sys2Proof.Claim

open Sys2Proof Sys2Proof.Claim

/-- Settles O42: of a trigger that nothing holds back, the poison check is the first that can fail. -/
theorem poisonedOperandsTrap : Obligations.PoisonedOperandsTrap := by
  intro h u rm c s ha hs
  have htake := takes_of_alone ha
  refine ⟨fun e he ht hr => (alu_shared he).tagged ha hs ht hr nofun, fun e he ht hr hd => (aluDivides_realized e he).shared.tagged ha hs ht hr fun _ => hd,
    fun e he ht hr => ?_, fun e he ht hr hf => special_tagged he ha hs ht hr hf, fun hr => ⟨fun e he ht => ?_, fun ht => ⟨fun e he => ?_, ?_⟩, fun ht => ?_⟩,
    fun e he ht hf => ?_, fun wd hf ht => ?_, fun wd hst hf ht => ?_, fun wd n ht => ?_, fun wd n hf ht => ⟨?_, ?_⟩,
    fun wd n _ hf => ⟨fun ht => ?_, fun ht => ?_⟩⟩
  · obtain ⟨own, hown⟩ := float_realized he
    exact hown.tagged ha hs ht hr
  · exact (cross_realized he).tagged ha hs hr (.inl ht)
  · obtain ⟨_, _, -, hrow⟩ := extremes_realized e he
    exact hrow.tagged ha hs hr (.inl ht)
  · exact crossAction_tagged ha hs hr (.inl ht)
  · exact broadcast_realized.tagged ha hs hr (ht.imp_right (bcstTagged_of_tag ((sourced_iff s h).1 hs).1))
  · exact (atomRows_realized he h s).trans (Action.trigger_tagged ha hs ⟨atomsFull_eq_false htake hf, rfl, rfl, rfl, rfl⟩ ht)
  · exact Action.trigger_tagged ha hs ⟨full_eq_false hf, rfl, rfl, rfl, rfl⟩ ht
  · exact (ldw_exec h wd s).trans (Action.trigger_tagged ha hs ⟨full_eq_false hf, rfl, rfl, rfl, if_pos hst⟩ ht)
  · exact (pfg_exec h wd n s).trans (Action.trigger_tagged ha hs ⟨rfl, rfl, rfl, rfl, rfl⟩ ht)
  · exact Action.trigger_tagged ha hs ⟨full_eq_false hf, rfl, rfl, rfl, rfl⟩ ht
  · exact Action.trigger_tagged ha hs ⟨full_eq_false hf, rfl, rfl, rfl, rfl⟩ ht
  · exact (sts_exec h wd s).trans (Action.trigger_tagged ha hs ⟨storesFull_eq_false htake hf, rfl, rfl, rfl, rfl⟩ ht)
  · exact (stg_exec h wd n s).trans (Action.trigger_tagged ha hs ⟨storesFull_eq_false htake hf, rfl, rfl, rfl, rfl⟩ ht)

/-- Settles O43: each check finds the lowest lane that the statement's own reading of R217 and R218 refuses. -/
theorem addressesAreChecked : Obligations.AddressesAreChecked := by
  intro h wd n c s l
  refine ⟨fun hp hfree hl => ?_, fun hp hfree hl => ?_, fun e he hp hfree hl => ?_, fun hp hfree => globalsChecked_of fun r hc => ?_,
    fun hp hfree => globalsChecked_of fun r hc => ?_, fun e he hp hfree => globalsChecked_of fun r hc => ?_,
    fun hp hstore hfree => ⟨fun hl => ldw_traps hp hstore hfree (weightCheck_high hl),
      fun hlow hl => ldw_traps hp hstore hfree (weightCheck_outside hlow hl)⟩⟩
  · exact Action.trigger_traps hp (full_eq_false hfree) rfl rfl rfl rfl rfl (widthBytes_eq wd ▸ scratchCheck_refuses hl)
  · exact (sts_exec h wd s).trans
      (Action.trigger_traps hp (storesFull_eq_false (takes_of_primed hp) hfree) rfl rfl rfl rfl rfl (stsCheck_refuses hl))
  · exact (atsRows_realized e he).unnamed hp hfree
      ((congrArg (atomCheck h · s) (atsRows_kind he)).trans (atomCheck_of_scratch (scratchCheck_refuses hl)))
  · exact Action.trigger_traps hp (full_eq_false hfree) rfl rfl rfl rfl rfl (widthBytes_eq wd ▸ hc)
  · exact (stg_exec h wd n s).trans (Action.trigger_traps hp (storesFull_eq_false (takes_of_primed hp) hfree) rfl rfl rfl rfl rfl
      ((stgCheck_eq h wd s).trans hc))
  · have hr : e.Realized := atomRows_realized (c := c) (by rw [List.append_assoc]; exact List.mem_append_right _ he)
    exact hr.unnamed hp hfree (atomCheck_of_global (globalRows_kind he) hc)

end

section
/-! SUPPORT. The frame of a trap in its thread's scratchpad (16 R317), and what taking a trap changes (16 R315). -/

open Sys2Proof.Machine

namespace Sys2Proof.Claim

/-! ## The frame's length, and where its words stand (16 R317) -/

theorem length_flatMap_const {α β : Type} {f : α → List β} {c : Nat} {l : List α} (hf : ∀ a ∈ l, (f a).length = c) :
    (l.flatMap f).length = l.length * c := by
  rw [List.length_flatMap, List.map_congr_left hf, List.map_const', List.sum_replicate_nat]

theorem getD_append_of_lt {α : Type} {xs ys : List α} {i : Nat} {d : α} (h : i < xs.length) : (xs ++ ys).getD i d = xs.getD i d := by
  rw [List.getD_eq_getElem?_getD, List.getD_eq_getElem?_getD, List.getElem?_append_left h]

theorem getD_append_of_le {α : Type} {xs ys : List α} {i : Nat} {d : α} (h : xs.length ≤ i) :
    (xs ++ ys).getD i d = ys.getD (i - xs.length) d := by
  rw [List.getD_eq_getElem?_getD, List.getD_eq_getElem?_getD, List.getElem?_append_right h]

theorem getD_flatMap_const {α : Type} {f : Nat → List α} {c n k j : Nat} (hf : ∀ i, (f i).length = c) (hk : k < n) (hj : j < c) (d : α) :
    ((List.range n).flatMap f).getD (c * k + j) d = (f k).getD j d := by
  induction n with
  | zero => omega
  | succ n ih =>
    have hlen : ((List.range n).flatMap f).length = n * c := by
      rw [length_flatMap_const fun i _ => hf i, List.length_range]
    rw [List.range_succ, List.flatMap_append]
    rcases Nat.lt_succ_iff_lt_or_eq.1 hk with hlt | rfl
    · have : c * k + j < n * c := by
        calc c * k + j < c * k + c := by omega
          _ = (k + 1) * c := by rw [Nat.add_one_mul, Nat.mul_comm c k]
          _ ≤ n * c := Nat.mul_le_mul_right c hlt
      rw [getD_append_of_lt (hlen ▸ this), ih hlt]
    · rw [getD_append_of_le (by rw [hlen, Nat.mul_comm]; omega), hlen, Nat.mul_comm k c, Nat.add_sub_cancel_left]
      simp

theorem length_loopWords (l : Option LoopLevel) : (loopWords l).length = 5 := by cases l <;> rfl

theorem length_repWords (rep : List (Option RepEntry)) : (repWords rep).length = 12 := by
  refine length_flatMap_const (c := 2) fun i _ => ?_
  cases rep.getD i none <;> rfl

theorem length_splitWords (clk : Nat) (sp : Split) : (splitWords clk sp).length = 28 := by
  unfold splitWords
  split <;> simp [length_loopWords, length_repWords]

theorem length_joinWords (e : JoinEntry) : (joinWords e).length = 32 := by
  unfold joinWords
  split <;> simp [length_loopWords, length_repWords]

theorem length_nibbleWords (f : Nat → Nat) : (nibbleWords f).length = 4 := by simp [nibbleWords]

theorem length_lanes32 (f : Nat → Word) : (lanes32 f).length = 32 := by simp [lanes32]

theorem length_flightWords (clk : Nat) (f : Flight) : (flightWords clk f).length = 40 := by
  simp [flightWords, length_nibbleWords, length_lanes32]

/-- The top of a frame: the header and the split table. -/
theorem frameWords_top (clk : Nat) (sluice : Bool) (th : Thread) (h : FrameHead) (flights : List Flight) :
    ∃ head rest, head.length = 16 ∧ rest.length = 1920
      ∧ (head.getD 0 0#32 = h.tepc ∧ head.getD 1 0#32 = h.tmask ∧ head.getD 3 0#32 = h.tval ∧ head.getD 4 0#32 = w32 (h.telem % 65536)
        ∧ head.getD 8 0#32 = w32 clk ∧ head.getD 9 0#32 = w32 (clk / 2 ^ 32))
      ∧ frameWords clk sluice th h flights = head ++ ((List.range 4).flatMap (fun i => splitWords clk (th.split i)) ++ rest) := by
  unfold frameWords
  extract_lets per filled head
  refine ⟨head, ?_, rfl, ?_, ⟨rfl, rfl, rfl, rfl, rfl, rfl⟩, ?_⟩
  rotate_left 2
  · simp only [List.append_assoc]
    rfl
  · simp only [List.length_append, List.length_flatMap, List.length_map, List.length_range, List.length_replicate, length_joinWords,
      length_nibbleWords, per, length_lanes32, List.map_const', List.sum_replicate_nat, List.length_singleton]
    rw [List.map_congr_left (g := fun _ => 40)]
    · rfl
    · intro i _
      split
      · exact length_flightWords clk _
      · exact List.length_replicate

theorem length_frameWords (clk : Nat) (sluice : Bool) (th : Thread) (h : FrameHead) (flights : List Flight) :
    (frameWords clk sluice th h flights).length = 2048 := by
  obtain ⟨head, rest, hhead, hrest, -, heq⟩ := frameWords_top clk sluice th h flights
  rw [heq, List.length_append, List.length_append, hhead, hrest, length_flatMap_const fun i _ => length_splitWords clk (th.split i)]
  rfl

/-- Words of the header. -/
theorem frameWords_header (clk : Nat) (sluice : Bool) (th : Thread) (h : FrameHead) (flights : List Flight) :
    let ws := frameWords clk sluice th h flights
    ws.getD 0 0#32 = h.tepc ∧ ws.getD 1 0#32 = h.tmask ∧ ws.getD 3 0#32 = h.tval ∧ ws.getD 4 0#32 = w32 (h.telem % 65536)
      ∧ ws.getD 8 0#32 = w32 clk ∧ ws.getD 9 0#32 = w32 (clk / 2 ^ 32) := by
  intro ws
  obtain ⟨head, rest, hhead, -, hwords, heq⟩ := frameWords_top clk sluice th h flights
  have hget : ∀ i, i < 16 → ws.getD i 0#32 = head.getD i 0#32 := fun i hi => by
    show (frameWords clk sluice th h flights).getD i 0#32 = _
    rw [heq, getD_append_of_lt (hhead ▸ hi)]
  refine ⟨?_, ?_, ?_, ?_, ?_, ?_⟩ <;> rw [hget _ (by decide)] <;> simp only [hwords]

/-- Where a live split's address and mask stand. -/
theorem frameWords_split (clk : Nat) (sluice : Bool) (th : Thread) (h : FrameHead) (flights : List Flight) {k : Nat} (hk : k < 4)
    (hlive : (th.split k).live = true) :
    (frameWords clk sluice th h flights).getD (16 + 28 * k) 0#32 = (th.split k).pc
      ∧ (frameWords clk sluice th h flights).getD (17 + 28 * k) 0#32 = (th.split k).mask := by
  obtain ⟨head, rest, hhead, -, -, heq⟩ := frameWords_top clk sluice th h flights
  have hsplits : ((List.range 4).flatMap fun i => splitWords clk (th.split i)).length = 112 :=
    length_flatMap_const fun i _ => length_splitWords clk (th.split i)
  have hget : ∀ j, j < 28 → (frameWords clk sluice th h flights).getD (16 + (28 * k + j)) 0#32 = (splitWords clk (th.split k)).getD j 0#32 := by
    intro j hj
    rw [heq, getD_append_of_le (by omega), hhead, Nat.add_sub_cancel_left, getD_append_of_lt (by omega),
      getD_flatMap_const (fun i => length_splitWords clk (th.split i)) hk hj]
  have hwords : splitWords clk (th.split k) = _ := if_pos hlive
  refine ⟨?_, ?_⟩
  · rw [show 16 + 28 * k = 16 + (28 * k + 0) by omega, hget 0 (by decide), hwords]
    rfl
  · rw [show 17 + 28 * k = 16 + (28 * k + 1) by omega, hget 1 (by decide), hwords]
    rfl

/-! ## The bytes of a frame (16 R315 step 5) -/

/-- Byte `j` of a list of words. -/
def byteAt (ws : List Word) (j : Nat) : Byte := byteOf (ws.getD (j / 4) 0#32) (j % 4)

theorem wordOf_bytes (w : Word) : wordOf ((List.range 4).map (byteOf w)) = w := by
  refine BitVec.eq_of_getLsbD_eq fun j hj => ?_
  have hget : ((List.range 4).map (byteOf w)).getD (j / 8) 0#8 = byteOf w (j / 8) := getD_map_range (byteOf w) 0#8 (by omega)
  rw [getLsbD_wordOf _ hj, hget, getLsbD_byteOf _ _ (Nat.mod_lt _ (by decide)), Nat.div_add_mod]

theorem flatMap_bytesOf (f : Nat → Word) (n : Nat) :
    ((List.range n).map f).flatMap bytesOf = (List.range (4 * n)).map fun j => byteOf (f (j / 4)) (j % 4) := by
  rw [List.flatMap_map, ← flatMap_range_map _ 4 n]
  refine congrArg List.flatten (List.map_congr_left fun i _ => List.map_congr_left fun j hj => ?_)
  have hj := List.mem_range.1 hj
  rw [show (4 * i + j) / 4 = i by omega, show (4 * i + j) % 4 = j by omega]

theorem frameCells_eq (x : Nat) {ws : List Word} (hws : ws.length = 2048) :
    ((frameLanes x ws).flatMap fun l => l.cells) = (List.range 8192).map fun j => (x + j, byteAt ws j) := by
  have hlist : ws = (List.range 2048).map fun i => ws.getD i 0#32 := by
    refine List.ext_getElem (by simp [hws]) fun i h1 h2 => ?_
    simp [h1]
  have hpart : ∀ i, i < 32 → cellsAt (x + 256 * i) (((ws.drop (64 * i)).take 64).flatMap bytesOf)
      = (List.range 256).map fun j => (x + (256 * i + j), byteAt ws (256 * i + j)) := by
    intro i hi
    have htake : (ws.drop (64 * i)).take 64 = (List.range 64).map fun k => ws.getD (64 * i + k) 0#32 :=
      (congrArg (fun l => (l.drop (64 * i)).take 64) hlist).trans (take_drop_range (fun i => ws.getD i 0#32) (by omega))
    rw [htake, flatMap_bytesOf, cellsAt_map_range]
    refine List.map_congr_left fun j hj => ?_
    have hj := List.mem_range.1 hj
    rw [byteAt, show (256 * i + j) / 4 = 64 * i + j / 4 by omega, show (256 * i + j) % 4 = j % 4 by omega, Nat.add_assoc]
  rw [frameLanes, hws, List.flatMap_map, ← flatMap_range_map (fun j => (x + j, byteAt ws j)) 256 32]
  exact congrArg List.flatten (List.map_congr_left fun i hi => hpart i (List.mem_range.1 hi))

/-- What a run of cells leaves at an address that none of them names, and at one that one of them names. -/
theorem foldl_cells_outside (x y : Nat) (f : Nat → Byte) (b : Byte) {n : Nat} (h : ∀ j, j < n → x + j ≠ y) :
    ((List.range n).map fun j => (x + j, f j)).foldl (fun b c => if c.1 = y then c.2 else b) b = b := by
  refine List.foldlRecOn (motive := fun v => v = b) _ _ rfl fun v hv c hc => ?_
  obtain ⟨j, hj, rfl⟩ := List.mem_map.1 hc
  rw [if_neg (h j (List.mem_range.1 hj)), hv]

theorem foldl_cells_inside (x : Nat) (f : Nat → Byte) (b : Byte) {n m : Nat} (hm : m < n) :
    ((List.range n).map fun j => (x + j, f j)).foldl (fun b c => if c.1 = x + m then c.2 else b) b = f m := by
  induction n with
  | zero => omega
  | succ n ih =>
    rw [List.range_succ, List.map_append, List.foldl_append]
    by_cases hlast : n = m
    · subst hlast
      simp
    · have hne : x + n ≠ x + m := by omega
      simp only [List.map_cons, List.map_nil, List.foldl_cons, List.foldl_nil, hne, if_false]
      exact ih (by omega)

end Sys2Proof.Claim
end

section
/-! SUPPORT. Taking a trap (16 R309, R315, R324). -/

open Sys2Proof.Machine

namespace Sys2Proof.Machine

/-! ## Results that land at the boundary (16 R315 step 2) -/

theorem Thread.landSm_of_none {th : Thread} (h : ∀ f ∈ th.fills, f.port ≠ .smq) : th.landSm = th := by
  have hsm : th.fills.filter (fun f => f.port == .smq) = [] := List.filter_eq_nil_iff.2 fun f hf => by simpa using h f hf
  have hrest : th.fills.filter (not ∘ fun f => f.port == .smq) = th.fills := List.filter_eq_self.2 fun f hf => by simpa using h f hf
  simp only [Thread.landSm, List.partition_eq_filter_filter, hsm, hrest, List.foldl_nil]

theorem Thread.landBy_of_none {th : Thread} {e : Nat} (h : ∀ f ∈ th.flights, e < f.due) : th.landBy e = th := by
  have hnow : th.flights.filter (fun f => decide (f.due ≤ e)) = [] :=
    List.filter_eq_nil_iff.2 fun f hf => by simpa using h f hf
  have hlater : th.flights.filter (not ∘ fun f => decide (f.due ≤ e)) = th.flights :=
    List.filter_eq_self.2 fun f hf => by simpa using h f hf
  simp only [Thread.landBy, List.partition_eq_filter_filter, hnow, hlater, List.foldl_nil]

theorem Thread.SameBut.level {a b : Thread} (h : a.SameBut b) : b.level = a.level := by
  obtain ⟨_, _, _, rfl⟩ := h
  rfl

theorem Thread.level_land (th : Thread) (e : Nat) (f : Flight) : (th.land e f).level = th.level := by
  have hq : ((th.wrMask (.res (unitPorts f.unit).1) f.mask (laneAt f.vals)).setTags (.res (unitPorts f.unit).1) f.mask 0#32).level = th.level :=
    ((Thread.sameBut_wrMask ..).trans (Thread.sameBut_setTags ..)).level
  unfold Thread.land
  dsimp only
  split
  · exact (Thread.sameBut_wrMask ..).level.trans hq
  · exact hq

theorem Thread.level_landSm (th : Thread) : th.landSm.level = th.level := by
  unfold Thread.landSm
  dsimp only
  exact List.foldlRecOn (motive := fun x : Thread => x.level = th.level) _ _ rfl fun x hx f _ => (Thread.sameBut_wrMask ..).level.trans hx

theorem Thread.level_landBy (th : Thread) (e : Nat) : (th.landBy e).level = th.level := by
  unfold Thread.landBy
  dsimp only
  exact List.foldlRecOn (motive := fun x : Thread => x.level = th.level) _ _ rfl fun x hx f _ => (x.level_land e f).trans hx

end Sys2Proof.Machine

namespace Sys2Proof.Claim

/-! ## What the trap entry makes (16 R315) -/

/-- The thread as its handler finds it. -/
def handlerThread (s : State) (t : Tid) (i : Nat) (r : TrapRec) : Thread :=
  { ({ s.thread t with seq := (s.thread t).seq + 1 } : Thread).asHandler (s.block t.core t.ctx).tvec s.clk with
    pending := (s.thread t).pending.filter (!·.framed), tcause := w32 r.cause, tval := r.tval, telem := w32 r.telem, tepc := r.tepc,
    tmask := ((s.thread t).split i).mask }

/-- The state in which a trap has been taken. -/
def trapState (s : State) (t : Tid) (i : Nat) (r : TrapRec) : State :=
  let u := (s.frameStore t (frameBase s t) (frameOf s t i r)).setThread t (handlerThread s t i r)
  if t.isSluice then u.modBlock t.core t.ctx fun b => { b with pauseFrom := some s.clk } else u

theorem frameBase_eq (s : State) (t : Tid) : (s.block t.core t.ctx).scratchBase + (s.block t.core t.ctx).frameAddr t = frameBase s t := by
  rw [Block.frameAddr, frameBase, Nat.add_assoc]

theorem takeTrap_eq {s : State} {t : Tid} {i : Nat} {r : TrapRec} (hr : recoverable s t r) (ha : atRest s t) :
    s.takeTrap t i r = trapState s t i r := by
  obtain ⟨hlevel, htvec, hfits, hcause, hstruck, hdebug⟩ := hr
  have hland : (s.thread t).landSm.landBy s.clk = s.thread t := by
    rw [Thread.landSm_of_none ha.2, Thread.landBy_of_none ha.1]
  have hstop : ¬(((r.cause = 0x0B || r.cause = 0x0C) && (s.core t.core).dbgctl.bit 2) = true) := by
    simp only [Bool.and_eq_true, Bool.or_eq_true, decide_eq_true_eq]
    rintro ⟨hc, hbit⟩
    exact absurd hbit (by rw [Word.bit, hdebug hc]; decide)
  have hgood : ¬(((s.thread t).level || (s.block t.core t.ctx).tvec = 0#32
      || (s.block t.core t.ctx).scratchSize < (s.block t.core t.ctx).frameAddr t + 8192 || r.cause = 0x13 || (s.thread t).frameStruck) = true) := by
    have : ¬(s.block t.core t.ctx).scratchSize < (s.block t.core t.ctx).frameAddr t + 8192 := Nat.not_lt.2 hfits
    simp [hlevel, htvec, hcause, hstruck, this]
  unfold State.takeTrap State.enterTrap
  simp only [Nat.lt_irrefl, if_false, hland]
  rw [if_neg hstop, if_neg hgood, frameBase_eq]
  rfl

theorem takeTrap_at_handler {s : State} {t : Tid} {i : Nat} {r : TrapRec} (hlevel : (s.thread t).level = true) (h0B : r.cause ≠ 0x0B)
    (h0C : r.cause ≠ 0x0C) : s.takeTrap t i r = s.endWorkGroup t.core t.ctx := by
  have hland : ((s.thread t).landSm.landBy s.clk).level = true := by
    rw [Thread.level_landBy, Thread.level_landSm, hlevel]
  unfold State.takeTrap State.enterTrap
  simp only [Nat.lt_irrefl, if_false, h0B, h0C, hland]
  rw [if_neg (by simp), if_pos (by simp)]

/-! ### The pieces of the state -/

variable (s : State) (t : Tid) (i : Nat) (r : TrapRec)

theorem trapState_thread : (trapState s t i r).thread t = handlerThread s t i r := by
  unfold trapState
  extract_lets u
  split <;> simp [u]

theorem trapState_thread_other {k : Tid} (hk : k.key ≠ t.key) : (trapState s t i r).thread k = s.thread k := by
  have hu : (((s.frameStore t (frameBase s t) (frameOf s t i r)).setThread t (handlerThread s t i r))).thread k = s.thread k := by
    rw [State.thread_setThread_other _ _ hk, State.frameStore, State.thread_modThread_other _ _ hk, State.thread_modCore]
  unfold trapState
  extract_lets u
  split
  · rw [State.thread_modBlock, hu]
  · exact hu

theorem trapState_block : (trapState s t i r).block t.core t.ctx = { s.block t.core t.ctx with
    pauseFrom := if t.isSluice then some s.clk else (s.block t.core t.ctx).pauseFrom } := by
  have hu : ((s.frameStore t (frameBase s t) (frameOf s t i r)).setThread t (handlerThread s t i r)).block t.core t.ctx
      = s.block t.core t.ctx := by
    rw [State.block_setThread, State.frameStore, State.block_modThread, State.block_modCore]
  unfold trapState
  extract_lets u
  by_cases hs : t.isSluice = true
  · rw [if_pos hs, if_pos hs, State.block_modBlock, hu]
  · rw [if_neg hs, if_neg hs, hu]

theorem trapState_core : (trapState s t i r).core t.core = { s.core t.core with
    stores := (s.core t.core).stores ++ [frameEntry s t i r], seqNo := (s.core t.core).seqNo + 1 } := by
  have hu : ((s.frameStore t (frameBase s t) (frameOf s t i r)).setThread t (handlerThread s t i r)).core t.core
      = { s.core t.core with stores := (s.core t.core).stores ++ [frameEntry s t i r], seqNo := (s.core t.core).seqNo + 1 } := by
    rw [State.core_setThread, State.frameStore, State.core_modThread, State.core_modCore]
    rfl
  unfold trapState
  extract_lets u
  split
  · exact hu
  · exact hu

theorem trapState_core_other {c : Nat} (hc : c ≠ t.core) : (trapState s t i r).core c = s.core c := by
  have hu : ((s.frameStore t (frameBase s t) (frameOf s t i r)).setThread t (handlerThread s t i r)).core c = s.core c := by
    rw [State.core_setThread, State.frameStore, State.core_modThread, State.core_modCore_other _ _ hc]
  unfold trapState
  extract_lets u
  split
  · exact hu
  · exact hu

theorem trapState_state : trapState s t i r = { s with
    threads := (trapState s t i r).threads, cores := (trapState s t i r).cores, blocks := (trapState s t i r).blocks } := by
  unfold trapState
  extract_lets u
  split <;> rfl

/-! ### The thread at its handler -/

theorem get_filter_of_key {α : Type} (d : α) (m : Tab α) (p : Nat → Bool) (k : Nat) :
    Tab.get d (m.filter fun e => p e.1) k = if p k then Tab.get d m k else d := by
  induction m with
  | nil => simp
  | cons e rest ih =>
    rw [List.filter_cons]
    by_cases hk : e.1 = k
    · subst hk
      by_cases hp : p e.1 = true
      · simp [hp, Tab.get]
      · simp only [hp, Bool.false_eq_true, if_false, ih]
    · by_cases hp : p e.1 = true
      · simp only [hp, if_true, Tab.get, hk, if_false, ih]
      · simp only [hp, Bool.false_eq_true, if_false, ih, Tab.get, hk]

theorem aside_ids : ∀ q ∈ asideRegs, 300 ≤ q.id := by decide

/-- A register whose number is below the result ports' is none of those that a trap sets aside. -/
theorem not_aside {n : Nat} (h : n < 300) : (asideRegs.any fun q => n == q.id) = false := by
  rw [List.any_eq_false]
  intro q hq
  have := aside_ids q hq
  simp only [beq_iff_eq]
  omega

theorem key_div (q : Reg) (l : Nat) : q.key l / 32 = q.id := by
  rw [Reg.key]
  omega

/-- The registers that a handler finds. -/
theorem rd_handlerThread (q : Reg) (l : Nat) : (handlerThread s t i r).rd q l =
    if !(asideRegs.any fun x => q.id == x.id) && !([Reg.age 0, .age 1, .age 2].any fun x => q.id == x.id) then (s.thread t).rd q l else 0#32 := by
  refine (get_filter_of_key 0#32 (s.thread t).regs
    (fun k => !(asideRegs.any fun x => k / 32 == x.id) && !([Reg.age 0, .age 1, .age 2].any fun x => k / 32 == x.id)) _).trans ?_
  simp only [key_div]
  rfl

theorem tags_handlerThread (q : Reg) : (handlerThread s t i r).tags q =
    if !(asideRegs.any fun x => q.id == x.id) then (s.thread t).tags q else 0#32 :=
  get_filter_of_key 0#32 (s.thread t).poison (fun k => !(asideRegs.any fun x => k == x.id)) _

theorem handler_general {n : Nat} (l : Nat) (hn : n < 128) :
    (handlerThread s t i r).rd (.g n) l = (s.thread t).rd (.g n) l ∧ (handlerThread s t i r).tags (.g n) = (s.thread t).tags (.g n) := by
  have hid : (Reg.g n).id = n := Nat.mod_eq_of_lt hn
  have haside : (asideRegs.any fun x => (Reg.g n).id == x.id) = false := not_aside (by omega)
  have hage : ([Reg.age 0, .age 1, .age 2].any fun x => (Reg.g n).id == x.id) = false := by
    rw [hid]
    simp only [List.any_cons, List.any_nil, Reg.id, Bool.or_false, Bool.or_eq_false_iff, beq_eq_false_iff_ne]
    omega
  rw [rd_handlerThread, tags_handlerThread, haside, hage]
  exact ⟨rfl, rfl⟩

theorem handler_conditions {n : Nat} (l : Nat) (hn : n < 4) : (handlerThread s t i r).rd (.cc n) l = (s.thread t).rd (.cc n) l := by
  have hid : (Reg.cc n).id = 128 + n := congrArg (128 + ·) (Nat.mod_eq_of_lt hn)
  have haside : (asideRegs.any fun x => (Reg.cc n).id == x.id) = false := not_aside (by omega)
  have hage : ([Reg.age 0, .age 1, .age 2].any fun x => (Reg.cc n).id == x.id) = false := by
    rw [hid]
    simp only [List.any_cons, List.any_nil, Reg.id, Bool.or_false, Bool.or_eq_false_iff, beq_eq_false_iff_ne]
    omega
  rw [rd_handlerThread, haside, hage]
  rfl

theorem handler_latches {n : Nat} (l : Nat) (hn : n < 3) : (handlerThread s t i r).rd (.age n) l = 0#32 := by
  have hage : ([Reg.age 0, .age 1, .age 2].any fun x => (Reg.age n).id == x.id) = true := by
    obtain rfl | rfl | rfl : n = 0 ∨ n = 1 ∨ n = 2 := by omega
    all_goals decide
  rw [rd_handlerThread, hage, Bool.not_true, Bool.and_false]
  rfl

/-! ### The frame as its thread finds it -/

/-- The thread's own view of a byte of its scratchpad: that of the frame, where the frame has it. -/
theorem ownByte_trapState (a : Nat) : ownByte (trapState s t i r) t t.core a =
    ((List.range 8192).map fun j => (t.core * 2 ^ 20 + frameBase s t + j, byteAt (frameOf s t i r) j)).foldl
      (fun b c => if c.1 = scratchName (t.core, a) then c.2 else b) (ownByte s t t.core a) := by
  have hmine : ((s.core t.core).stores ++ [frameEntry s t i r]).filter (fun x => x.tid == t && !x.global)
      = (s.core t.core).stores.filter (fun x => x.tid == t && !x.global) ++ [frameEntry s t i r] := by
    rw [List.filter_append]
    refine congrArg _ (List.filter_eq_self.2 fun x hx => ?_)
    rw [List.mem_singleton.1 hx]
    exact Bool.and_eq_true_iff.2 ⟨beq_self_eq_true t, rfl⟩
  have hcells : ((frameEntry s t i r).lanes.flatMap fun l => l.cells)
      = (List.range 8192).map fun j => (t.core * 2 ^ 20 + frameBase s t + j, byteAt (frameOf s t i r) j) :=
    frameCells_eq _ (length_frameWords ..)
  simp only [ownByte, trapState_core, State.scratchByte, hmine, List.flatMap_append, List.foldl_append, List.flatMap_singleton, hcells]

theorem ownByte_inside {j : Nat} (hj : j < 8192) :
    ownByte (trapState s t i r) t t.core (frameBase s t + j) = byteAt (frameOf s t i r) j := by
  have hname : scratchName (t.core, frameBase s t + j) = t.core * 2 ^ 20 + frameBase s t + j := by
    rw [scratchName, Nat.add_assoc]
  rw [ownByte_trapState, hname]
  exact foldl_cells_inside _ _ _ hj

theorem ownByte_outside {a : Nat} (h : a < frameBase s t ∨ frameBase s t + 8192 ≤ a) :
    ownByte (trapState s t i r) t t.core a = ownByte s t t.core a := by
  rw [ownByte_trapState]
  refine foldl_cells_outside _ _ _ _ fun j hj => ?_
  simp only [scratchName]
  omega

theorem frameWord_eq {k : Nat} (hk : k < 2048) :
    frameWord (trapState s t i r) t (frameBase s t) k = (frameOf s t i r).getD k 0#32 := by
  rw [frameWord, ownScratch_eq, ← wordOf_bytes ((frameOf s t i r).getD k 0#32)]
  refine congrArg wordOf (List.map_congr_left fun j hj => ?_)
  have hj := List.mem_range.1 hj
  rw [Nat.add_assoc, ownByte_inside s t i r (show 4 * k + j < 8192 by omega), byteAt, show (4 * k + j) / 4 = k by omega,
    show (4 * k + j) % 4 = j by omega]

theorem ownScratch_outside {a n : Nat} (h : a + n ≤ frameBase s t ∨ frameBase s t + 8192 ≤ a) :
    (trapState s t i r).ownScratch t t.core a n = s.ownScratch t t.core a n := by
  rw [ownScratch_eq, ownScratch_eq]
  refine List.map_congr_left fun j hj => ?_
  have hj := List.mem_range.1 hj
  exact ownByte_outside s t i r (by omega)

theorem trapTaken_trapState : TrapTaken s t i r (trapState s t i r) := by
  have hthread := trapState_thread s t i r
  have hhead := frameWords_header s.clk t.isSluice (s.thread t)
    { tepc := r.tepc, tmask := ((s.thread t).split i).mask, cause := r.cause, split := i, tval := r.tval, telem := r.telem }
    (flightsSorted (s.thread t).flights)
  obtain ⟨h0, h1, h3, h4, h8, h9⟩ := hhead
  have hword := fun k hk => frameWord_eq s t i r (k := k) hk
  exact
    { state := trapState_state s t i r
      others := fun k hk => trapState_thread_other s t i r hk
      level := by rw [hthread]; rfl
      csrs := by rw [hthread]; exact ⟨rfl, rfl, rfl, rfl, rfl⟩
      handler := by rw [hthread]; exact ⟨rfl, rfl, rfl, rfl, rfl, rfl⟩
      general := fun n l hn => by rw [hthread]; exact handler_general s t i r l hn
      conditions := fun n l hn => by rw [hthread]; exact handler_conditions s t i r l hn
      latches := fun n l hn => by rw [hthread]; exact handler_latches s t i r l hn
      aside := by
        rw [hthread]
        exact ⟨fun _ => rfl, fun p => by cases p <;> rfl, rfl, _, rfl, rfl, rfl, rfl, rfl⟩
      blocks := trapState_block s t i r
      pending := by
        rw [hthread]
        refine List.filter_congr fun p _ => ?_
        simp only [PendingTrap.framed, Bool.not_or]
        rfl
      order := by rw [hthread]; rfl
      core := trapState_core s t i r
      cores := fun c hc => trapState_core_other s t i r hc
      frame := hword
      header := ⟨(hword 0 (by decide)).trans h0, (hword 1 (by decide)).trans h1, (hword 3 (by decide)).trans h3,
        (hword 4 (by decide)).trans h4, (hword 8 (by decide)).trans h8, (hword 9 (by decide)).trans h9⟩
      saved := fun k hk hlive => by
        obtain ⟨hpc, hmask⟩ := frameWords_split s.clk t.isSluice (s.thread t)
          { tepc := r.tepc, tmask := ((s.thread t).split i).mask, cause := r.cause, split := i, tval := r.tval, telem := r.telem }
          (flightsSorted (s.thread t).flights) hk hlive
        exact ⟨(hword _ (by omega)).trans hpc, (hword _ (by omega)).trans hmask⟩
      outside := fun a n h => ownScratch_outside s t i r h }

/-! ### TAKE_TRAP (16 R315, R324, R325) -/

/-- An event that may happen takes effect. -/
theorem happens_of {s : State} {ok : State → Bool} (effect : State → State) (h : ok s = true) : s.happens ok effect = .next (effect s) :=
  congrArg Host.Outcome.next (if_pos h)

theorem takeTrap_exec {p : PendingTrap} (hb : s.boundaryTrap t = some p) (hi : (s.thread t).firstSplit = i)
    (hstep : s.stepsNothing t = false) :
    exec (.takeTrap t i p.cause p.tval p.telem) s =
      let took := s.modThread t fun th => { th with pending := th.pending.erase p }
      .next (if (p.cause = 0x0D ∨ p.cause = 0x0E) ∧ (s.block t.core t.ctx).tvec = 0#32 then took
        else took.takeTrap t i { cause := p.cause, tval := p.tval, telem := p.telem, tepc := ((s.thread t).split i).pc }) := by
  show execTakeTrap t i p.cause p.tval p.telem s = _
  unfold execTakeTrap
  extract_lets q
  rw [happens_of _ (by simp [q, hb, hi])]
  refine congrArg Host.Outcome.next ?_
  simp only [hstep, Bool.false_eq_true, if_false, Bool.and_eq_true, Bool.or_eq_true, decide_eq_true_eq, State.thread_modThread,
    State.block_modThread]
  rfl

end Sys2Proof.Claim

open Sys2Proof Sys2Proof.Claim

/-- Settles O41: the entry's frame is the last own store to its bytes, and every word of it stands where R317 has it. -/
theorem trapsAreTaken : Obligations.TrapsAreTaken := by
  refine ⟨fun s t i r _ _ _ hr ha => takeTrap_eq hr ha ▸ trapTaken_trapState s t i r, fun s t i r hl h0B h0C => takeTrap_at_handler hl h0B h0C,
    fun s t p hb hstep => ?_⟩
  intro took idle
  refine ⟨fun hidle => ?_, fun hidle => ?_⟩ <;> rw [takeTrap_exec s t _ hb rfl hstep]
  · exact congrArg Host.Outcome.next (if_pos hidle)
  · exact congrArg Host.Outcome.next (if_neg hidle)

end

section
/-! SUPPORT. Words that the spec writes out, what reset leaves, and what a step runs (03 R52, R62; logs 5 and 7). -/

open Sys2Proof.Machine

namespace Sys2Proof.Claim

/-! ## A bundle of one move (03 R52, R62) -/

section OneMove

variable {s : State} {core : Nat} {t : Tid} {k : Nat} {line : List Word} {x : Slot} {i : Instr}

theorem runSlot_eq_inPhase (hd : decodeMove x.word.toNat = .instr i) (ph : Phase) (s : State) : s.runSlot ph x = inPhase i ph x s := by
  unfold State.runSlot inPhase
  rw [hd] <;> rfl

theorem runSlots_singleton (hd : decodeMove x.word.toNat = .instr i) (ph : Phase) (s : State) : s.runSlots ph [x] = inPhase i ph x s :=
  runSlot_eq_inPhase hd ph s

theorem runSlots_untriggered (hd : decodeMove x.word.toNat = .instr i) (s : State) :
    s.runSlots .effect ([x].filter fun x => !x.isTrigger) = if x.isTrigger then s else inPhase i .effect x s := by
  by_cases h : x.isTrigger = true
  · simp [h, State.runSlots]
  · simp [h, State.runSlots, runSlot_eq_inPhase hd]

theorem runChecks_eq_inChecks (hd : decodeMove x.word.toNat = .instr i) (s : State) : s.runChecks [x] = inChecks i x s := by
  simp only [State.runChecks, List.foldl_cons, List.foldl_nil, runSlots_singleton hd]
  rfl

/-- The effect of a bundle's only move, where it is a trigger. -/
def fires (i : Instr) (x : Slot) (v : State) : State := if x.isTrigger ∧ v.cur.dead = false then inPhase i .effect x v else v

theorem fire_singleton (hd : decodeMove x.word.toNat = .instr i) (ht : x.isTrigger = true) (v : State) : v.fire [x] = fires i x v := by
  simp only [State.fire, List.foldl_cons, List.foldl_nil, fires, ht, true_and, runSlot_eq_inPhase hd]
  cases v.cur.dead <;> rfl

/-- The round in which a trigger fires (log 7). -/
def roundOf (x : Slot) : Nat :=
  if dstId x.word = 0x90 then 1 else if dstId x.word = 0xB4 then 2
  else if dstId x.word = 0xB6 && fld x.word.toNat 0 7 = 3 then 3 else 0

theorem late_iff (x : Slot) : late x = true ↔ roundOf x ≠ 0 := by
  have hd : field x.word.toNat 25 18 = dstId x.word := rfl
  have ho : field x.word.toNat 6 0 = fld x.word.toNat 0 7 := rfl
  unfold late roundOf
  simp only [hd, ho]
  split
  · simp [*]
  · split
    · simp [*]
    · split <;> simp_all

theorem roundOf_le (x : Slot) : roundOf x ≤ 3 := by
  unfold roundOf
  split
  · decide
  · split
    · decide
    · split <;> decide

theorem triggerOrder_singleton (ht : x.isTrigger = true) (rounds : List Nat) :
    triggerOrder rounds [x] = rounds.flatMap fun n => if roundOf x = n then [x] else [] := by
  have hts : [x].filter (fun x => x.isTrigger) = [x] := by simp [ht]
  unfold triggerOrder
  simp only [hts]
  refine congrArg List.flatten (List.map_congr_left fun n _ => ?_)
  rw [List.filter_cons, List.filter_nil]
  by_cases h : roundOf x = n
  · rw [if_pos h]
    exact if_pos (beq_iff_eq.2 h)
  · rw [if_neg h]
    exact if_neg fun hb => h (beq_iff_eq.1 hb)

theorem triggerOrder_early (ht : x.isTrigger = true) : triggerOrder [0] [x] = if late x then [] else [x] := by
  rw [triggerOrder_singleton ht, List.flatMap_singleton]
  by_cases h : roundOf x = 0
  · rw [if_pos h, if_neg fun hl => (late_iff x).1 hl h]
  · rw [if_neg h, if_pos ((late_iff x).2 h)]

theorem triggerOrder_late (ht : x.isTrigger = true) : triggerOrder [1, 2, 3] [x] = if late x then [x] else [] := by
  rw [triggerOrder_singleton ht]
  have hle := roundOf_le x
  have hl := late_iff x
  by_cases h : roundOf x = 0
  · rw [if_neg fun hlate => hl.1 hlate h, h]
    rfl
  · rw [if_pos (hl.2 h)]
    have : roundOf x = 1 ∨ roundOf x = 2 ∨ roundOf x = 3 := by omega
    rcases this with h | h | h <;> rw [h] <;> rfl

theorem triggerOrder_of_move (ht : x.isTrigger = false) (rounds : List Nat) : triggerOrder rounds [x] = [] := by
  simp [triggerOrder, ht]

/-- The order of a one-move bundle's effect and its pop. -/
theorem fires_and_pops (hd : decodeMove x.word.toNat = .instr i) (v : State) :
    ((v.fire (triggerOrder [0] [x])).popAll).fire (triggerOrder [1, 2, 3] [x])
      = if late x then fires i x v.popAll else (fires i x v).popAll := by
  by_cases ht : x.isTrigger = true
  · rw [triggerOrder_early ht, triggerOrder_late ht]
    by_cases hl : late x = true
    · rw [if_pos hl, if_pos hl, if_pos hl, fire_singleton hd ht]
      rfl
    · rw [if_neg hl, if_neg hl, if_neg hl, fire_singleton hd ht]
      rfl
  · have hnone : ∀ u, fires i x u = u := fun u => if_neg fun h => ht h.1
    rw [triggerOrder_of_move (by simpa using ht), triggerOrder_of_move (by simpa using ht), hnone, hnone, ite_self]
    rfl

/-- A core whose warps have their turn. -/
def turnTaken (s : State) (core : Nat) : State := s.modCore core fun c => { c with warpIssued := true }

theorem pickReady_singleton {u : State} (h : ((u.thread t).split k).standing.isSome = true) : u.pickReady [(t, k)] = some (t, k) := by
  obtain ⟨p, hp⟩ := Option.isSome_iff_exists.1 h
  simp only [State.pickReady, List.foldl_cons, List.foldl_nil, hp]

/-- The only candidate, which is ready, issues. -/
theorem issueWarp_singleton
    (hcands : ((turnTaken s core).coreSplits core).filter (fun p => (((turnTaken s core).thread p.1).split p.2).standing.isSome) = [(t, k)])
    (hlook : (turnTaken s core).look t k = (turnTaken s core, true)) : s.issueWarp core = (turnTaken s core).issueBundle t k := by
  have hstanding : (((turnTaken s core).thread t).split k).standing.isSome = true := by
    have hmem : (t, k) ∈ ((turnTaken s core).coreSplits core).filter
        (fun p => (((turnTaken s core).thread p.1).split p.2).standing.isSome) := hcands ▸ List.mem_singleton_self (t, k)
    simpa using (List.mem_filter.1 hmem).2
  unfold State.issueWarp
  extract_lets u cands
  rw [show cands = [(t, k)] from hcands, show u = turnTaken s core from rfl]
  simp only [List.foldl_cons, List.foldl_nil, hlook, if_true, List.nil_append, pickReady_singleton hstanding]

/-- The state in which a bundle's checks find its only move (03 R52 item 1). -/
def checked (u : State) (t : Tid) (k : Nat) (line : List Word) (i : Instr) (x : Slot) : State :=
  if x.isTrigger then (u.noteIssue t).openBundle t k line else inPhase i .effect x ((u.noteIssue t).openBundle t k line)

/-- What a bundle of one move that waits for nothing comes to, where a check fails and where none does. -/
theorem tryBundle_singleton {u : State} (hd : decodeMove x.word.toNat = .instr i)
    (hcode : codeTrap (u.thread t) t.isSluice (u.block t.core t.ctx).nregs line ((u.thread t).split k) = none)
    (hslots : slotsOf line ((u.thread t).split k) = [x]) (hwait : (inPhase i .waits x (checked u t k line i x)).cur.wait = false) :
    (∀ r, (inChecks i x (checked u t k line i x)).cur.trap = some r → u.tryBundle t k line = .trap r)
      ∧ ((inChecks i x (checked u t k line i x)).cur.trap = none → u.tryBundle t k line =
        let done := (inPhase i .finish x ((checked u t k line i x).advance line)).joinCommands [x]
        .go (if late x then fires i x done.popAll else (fires i x done).popAll).closeBundle) := by
  unfold State.tryBundle
  simp only [hcode, hslots, runSlots_untriggered hd, runSlots_singleton hd, runChecks_eq_inChecks hd, fires_and_pops hd]
  rw [← checked, if_neg (by rw [hwait]; decide)]
  refine ⟨fun r hr => ?_, fun hr => ?_⟩ <;> rw [hr]

end OneMove

end Sys2Proof.Claim

open Sys2Proof Sys2Proof.Claim

/-- Settles O4, word by word. -/
theorem writtenWordsDecode : Obligations.WrittenWordsDecode := by
  unfold Obligations.WrittenWordsDecode
  and_intros <;> rfl

/-- Settles O45: reset's tables list nothing, and what an unlisted core, quad or die holds is its reset. -/
theorem resetLeaves : Obligations.ResetLeaves := by
  intro c q d
  have hzeros : ∀ (m n i : Nat), (List.replicate m 0#n).getD i 0#n = 0#n := fun m n i => by
    rw [List.getD_eq_getElem?_getD, List.getElem?_replicate]
    split <;> rfl
  exact ⟨fun i => hzeros _ 16 i, rfl, fun i => hzeros _ 32 i, BitVec.getLsbD_zero, rfl, fun _ => rfl,
    fun _ => rfl, ⟨rfl, rfl⟩⟩

/-- Settles O44: while deliveries go on by definition; in the second part, the only candidate issues and its phases are the statement's. -/
theorem stepsRunInstructions : Obligations.StepsRunInstructions := by
  refine ⟨fun s i rest hs ha => ?_, fun s core t k line x i h hd => ?_⟩
  · rw [step, hs, ha]
    rfl
  · intro o written hwait
    obtain ⟨hcands, hlook, hline, hcode, hslots⟩ := h.only
    have hstep : step s = .next ((turnTaken s core).issueBundle t k) := by
      rw [step, if_pos h.settled, State.issueNext, h.turn]
      exact congrArg Host.Outcome.next (issueWarp_singleton hcands hlook)
    have hattempt : (turnTaken s core).attempt t k = (turnTaken s core).tryBundle t k line := by
      unfold State.attempt
      dsimp only
      rw [show (turnTaken s core).codeLine t (((turnTaken s core).thread t).split k).pc = some line from hline]
    obtain ⟨htrap, hgo⟩ := tryBundle_singleton (u := turnTaken s core) hd hcode hslots hwait
    rw [hstep, State.issueBundle, hattempt]
    cases hc : (inChecks i x written).cur.trap with
    | some r =>
      rw [htrap r hc]
      dsimp only
      rfl
    | none =>
      rw [hgo hc]
      rw [show checked (turnTaken s core) t k line i x = written from rfl]
      simp only [fires]

end

section
/-! SUPPORT. What every operation of the machine leaves: the cycle and its part, the agenda, and the canonical form of the memories. -/

open Sys2Proof.Machine

namespace Sys2Proof.Claim

/-- A later state of one cycle: the clock, the part of the cycle and the agenda stand, and memories in canonical form are so still. -/
structure Kept (s u : State) : Prop where
  clk : u.clk = s.clk
  settled : u.settled = s.settled
  agenda : u.agenda = s.agenda
  mem : Memory.wf s.mem = true → Memory.wf u.mem = true
  hostMem : Memory.wf s.hostMem = true → Memory.wf u.hostMem = true

variable {s₀ s u : State}

theorem Kept.refl (s : State) : Kept s s := ⟨rfl, rfl, rfl, id, id⟩

/-- What `Kept` speaks of. -/
def pace (s : State) : Nat × Bool × List Instr × List Host.Cell × List Host.Cell := (s.clk, s.settled, s.agenda, s.mem, s.hostMem)

/-- A state that differs in other parts. -/
theorem Kept.of (h : Kept s₀ s) (hp : pace u = pace s) : Kept s₀ u := by
  simp only [pace, Prod.mk.injEq] at hp
  obtain ⟨hclk, hsettled, hagenda, hmem, hhost⟩ := hp
  exact ⟨hclk.trans h.clk, hsettled.trans h.settled, hagenda.trans h.agenda, fun w => hmem ▸ h.mem w, fun w => hhost ▸ h.hostMem w⟩

theorem Kept.trans {a b c : State} (h : Kept a b) (k : Kept b c) : Kept a c :=
  ⟨k.clk.trans h.clk, k.settled.trans h.settled, k.agenda.trans h.agenda, fun w => k.mem (h.mem w), fun w => k.hostMem (h.hostMem w)⟩

theorem Kept.ite {p : Prop} [Decidable p] {a b : State} (ha : Kept s₀ a) (hb : Kept s₀ b) : Kept s₀ (if p then a else b) := by
  split
  · exact ha
  · exact hb

theorem Kept.foldl {α : Type} {f : State → α → State} {l : List α} (h : Kept s₀ s) (hf : ∀ u a, Kept s₀ u → Kept s₀ (f u a)) :
    Kept s₀ (l.foldl f s) :=
  List.foldlRecOn l f h fun u hu a _ => hf u a hu

/-- The state of a pair that a match has taken apart. -/
theorem Kept.fst {α : Type} {p : State × α} {a : α} (e : p = (u, a)) (h : Kept s₀ p.1) : Kept s₀ u := by
  subst e
  exact h

theorem Kept.emit {o : Output} (hs : Kept s₀ s) : Kept s₀ (State.emit s o) := hs.of rfl

theorem Kept.setCore {c : Nat} {x : Core} (hs : Kept s₀ s) : Kept s₀ (State.setCore s c x) := hs.of rfl

theorem Kept.modCore {c : Nat} {f : Core → Core} (hs : Kept s₀ s) : Kept s₀ (State.modCore s c f) := hs.setCore

theorem Kept.setThread {t : Tid} {th : Thread} (hs : Kept s₀ s) : Kept s₀ (State.setThread s t th) := hs.of rfl

theorem Kept.leaveWeirs {core ctx : Nat} (hs : Kept s₀ s) : Kept s₀ (State.leaveWeirs s core ctx) := hs.of rfl

theorem Kept.dropRecords {core ctx : Nat} (hs : Kept s₀ s) : Kept s₀ (State.dropRecords s core ctx) := by
  unfold State.dropRecords
  extract_lets +onlyGivenNames keep
  exact hs.modCore

theorem Kept.setQuad {q : Nat} {x : Quad} (hs : Kept s₀ s) : Kept s₀ (State.setQuad s q x) := hs.of rfl

theorem Kept.modQuad {q : Nat} {f : Quad → Quad} (hs : Kept s₀ s) : Kept s₀ (State.modQuad s q f) := hs.setQuad

theorem Kept.endLease {core ctx : Nat} (hs : Kept s₀ s) : Kept s₀ (State.endLease s core ctx) := hs.modQuad

theorem Kept.vacate {core ctx : Nat} (hs : Kept s₀ s) : Kept s₀ (State.vacate s core ctx) := by
  unfold State.vacate
  extract_lets +onlyGivenNames b s1 s2 lo
  have h1 : Kept s₀ s1 := hs.endLease.dropRecords
  have h2 : Kept s₀ s2 := .ite h1 h1.modQuad
  exact h2.of rfl

theorem Kept.discard {core ctx : Nat} (hs : Kept s₀ s) : Kept s₀ (State.discard s core ctx) := by
  unfold State.discard
  extract_lets +onlyGivenNames s1
  have h1 : Kept s₀ s1 := hs.of rfl
  exact h1.vacate.leaveWeirs

theorem Kept.setLaunch {l : Nat} {x : Launch} (hs : Kept s₀ s) : Kept s₀ (State.setLaunch s l x) := hs.of rfl

theorem Kept.modLaunch {l : Nat} {f : Launch → Launch} (hs : Kept s₀ s) : Kept s₀ (State.modLaunch s l f) := hs.setLaunch

theorem Kept.undoExtra {core ctx : Nat} (hs : Kept s₀ s) : Kept s₀ (State.undoExtra s core ctx) := by
  unfold State.undoExtra
  extract_lets +onlyGivenNames b
  exact hs.modLaunch

theorem Kept.dropSaved {b : Block} {size : Nat} (hs : Kept s₀ s) : Kept s₀ (State.dropSaved s b size) := by
  unfold State.dropSaved
  extract_lets +onlyGivenNames mine s1
  have h1 : Kept s₀ s1 := .foldl hs fun _ _ hs => hs.modLaunch
  exact h1.of rfl

theorem Kept.checkLaunch {lid : Nat} (hs : Kept s₀ s) : Kept s₀ (State.checkLaunch s lid) := by
  unfold State.checkLaunch
  extract_lets +onlyGivenNames l
  exact .ite hs.setLaunch hs

theorem Kept.setFn {f : Nat} {x : Function} (hs : Kept s₀ s) : Kept s₀ (State.setFn s f x) := hs.of rfl

theorem Kept.modFn {f : Nat} {g : Function → Function} (hs : Kept s₀ s) : Kept s₀ (State.modFn s f g) := hs.setFn

theorem Kept.setDie {d : Nat} {x : Die} (hs : Kept s₀ s) : Kept s₀ (State.setDie s d x) := hs.of rfl

theorem Kept.modDie {d : Nat} {f : Die → Die} (hs : Kept s₀ s) : Kept s₀ (State.modDie s d f) := hs.setDie

theorem Kept.recordUse {fn addr : Nat} {l : Leaf} (hs : Kept s₀ s) : Kept s₀ (State.recordUse s fn addr l) := by
  unfold State.recordUse
  extract_lets +onlyGivenNames r
  refine .ite ?_ ?_
  · exact hs
  · extract_lets +onlyGivenNames pa
    exact hs.modDie

theorem Kept.healSector {fn addr : Nat} (hs : Kept s₀ s) : Kept s₀ (State.healSector s fn addr) := by
  unfold State.healSector
  split
  · exact hs.of rfl
  · exact hs

theorem Kept.dramSet {pa : Nat} {b : Byte} (hs : Kept s₀ s) : Kept s₀ (State.dramSet s pa b) := by
  unfold State.dramSet
  extract_lets +onlyGivenNames now
  refine .ite ?_ ?_
  · exact hs.trans ⟨rfl, rfl, rfl, fun w => Memory.wf_memSet w pa b, id⟩
  · extract_lets +onlyGivenNames base old
    exact hs.trans ⟨rfl, rfl, rfl, fun w => Memory.wf_memSet (Memory.wf_memWrite w old) pa b, id⟩

theorem Kept.homePut {fn addr : Nat} {b : Byte} (hs : Kept s₀ s) : Kept s₀ (State.homePut s fn addr b) := by
  unfold State.homePut
  split
  · exact hs.dramSet
  · exact hs.trans ⟨rfl, rfl, rfl, id, fun w => Memory.wf_memSet w _ b⟩
  · exact hs

theorem Kept.homeSet {fn addr : Nat} {b : Byte} (hs : Kept s₀ s) : Kept s₀ (State.homeSet s fn addr b) := by
  unfold State.homeSet
  extract_lets +onlyGivenNames s1
  have h1 : Kept s₀ s1 := hs.homePut
  refine .ite ?_ ?_
  · exact h1.emit
  · split
    · exact h1.emit
    · exact h1

theorem Kept.homeStore {fn : Nat} {cells : List Host.Cell} (hs : Kept s₀ s) : Kept s₀ (State.homeStore s fn cells) :=
  .foldl hs fun _ _ hs => hs.homeSet

theorem Kept.homeWrite {fn : Nat} {cells : List Host.Cell} (hs : Kept s₀ s) : Kept s₀ (State.homeWrite s fn cells) :=
  .foldl hs.homeStore fun _ _ hs => hs.healSector

theorem Kept.sysWrite {fn addr : Nat} {bytes : List Byte} (hs : Kept s₀ s) : Kept s₀ (State.sysWrite s fn addr bytes) := by
  unfold State.sysWrite
  extract_lets +onlyGivenNames cells tag near line newer entry s1
  have h1 : Kept s₀ s1 := hs.of rfl
  exact h1.homeWrite

theorem Kept.oweReads (hs : Kept s₀ s) : Kept s₀ (State.oweReads s) := hs.of rfl

theorem Kept.consume {fn q n : Nat} (hs : Kept s₀ s) : Kept s₀ (State.consume s fn q n) := by
  induction n generalizing s with
  | zero => exact hs
  | succ n ih =>
    unfold State.consume
    extract_lets +onlyGivenNames qu
    exact .ite (ih hs.modFn) hs

theorem Kept.writeRecord {lid status : Nat} (hs : Kept s₀ s) : Kept s₀ (State.writeRecord s lid status) := by
  unfold State.writeRecord
  extract_lets +onlyGivenNames l ws s1
  have h1 : Kept s₀ s1 := .ite hs (by split; exact hs.recordUse.sysWrite.sysWrite; exact hs)
  exact h1.setLaunch.consume.oweReads

theorem Kept.poisonHome {fn key : Nat} {bad : BitVec 4} (hs : Kept s₀ s) : Kept s₀ (State.poisonHome s fn key bad) :=
  .foldl hs fun _ _ hs => .ite (by split; exact (hs.of rfl); exact hs) hs

theorem Kept.noteRefusal {fn addr access kind level : Nat} {who : Requester} (hs : Kept s₀ s) :
    Kept s₀ (State.noteRefusal s fn addr access kind level who) :=
  hs.modDie

theorem Kept.noteLost {fn addr access die : Nat} (hs : Kept s₀ s) : Kept s₀ (State.noteLost s fn addr access die) := hs.noteRefusal

theorem Kept.homeWriteMapped {fn access : Nat} {cells : List Host.Cell} {shared : Bool} (hs : Kept s₀ s) :
    Kept s₀ (State.homeWriteMapped s fn access cells shared) := by
  unfold State.homeWriteMapped
  extract_lets +onlyGivenNames mapped
  split
  · exact .ite ((Kept.foldl hs fun _ _ hs => hs.noteLost).homeStore) ((Kept.foldl hs fun _ _ hs => hs.noteLost).homeWrite)

theorem Kept.setQLine {quad key : Nat} {x : QLine} (hs : Kept s₀ s) : Kept s₀ (State.setQLine s quad key x) := hs.modQuad

theorem Kept.modQLine {quad key : Nat} {f : QLine → QLine} (hs : Kept s₀ s) : Kept s₀ (State.modQLine s quad key f) := hs.setQLine

theorem Kept.dropCopies {key : Nat} (hs : Kept s₀ s) : Kept s₀ (State.dropCopies s key) := hs.of rfl

theorem Kept.modDir {die dkey : Nat} {f : DirEntry → DirEntry} (hs : Kept s₀ s) : Kept s₀ (State.modDir s die dkey f) := hs.modDie

theorem Kept.leaveObject {fn die : Nat} {o : ObjEntry} (hs : Kept s₀ s) : Kept s₀ (State.leaveObject s fn die o) := by
  unfold State.leaveObject
  extract_lets +onlyGivenNames key keys d owner held data asked f s1 s2 coming s3 s4 upg
  have h1 : Kept s₀ s1 := .foldl hs fun _ _ hs => hs.poisonHome
  have h2 : Kept s₀ s2 := .ite h1 h1.homeWriteMapped
  have h3 : Kept s₀ s3 := .foldl h2 fun _ _ hs => hs.modQLine
  have h4 : Kept s₀ s4 := .foldl h3 fun _ _ hs => hs.dropCopies
  exact Kept.modDir (h4.of rfl)

theorem Kept.unlink {die dkey quad : Nat} (hs : Kept s₀ s) : Kept s₀ (State.unlink s die dkey quad) := by
  unfold State.unlink
  extract_lets +onlyGivenNames x isHead
  refine .ite ?_ ?_
  · exact hs
  · extract_lets +onlyGivenNames s1
    have h1 : Kept s₀ s1 := .ite hs.modDir hs.modQLine
    exact .ite h1 h1.modQLine

theorem Kept.leaveLine {fn die key : Nat} (hs : Kept s₀ s) : Kept s₀ (State.leaveLine s fn die key) := by
  unfold State.leaveLine
  extract_lets +onlyGivenNames mine s1 wonSlot
  have h1 : Kept s₀ s1 := .foldl hs fun _ _ hs => hs.unlink.modDir.modQLine
  exact h1.modDir

theorem Kept.dropFunction {fn : Nat} (hs : Kept s₀ s) : Kept s₀ (State.dropFunction s fn) := by
  unfold State.dropFunction
  extract_lets +onlyGivenNames s1 s2 own
  have h1 : Kept s₀ s1 := .foldl hs fun _ _ hs => .foldl hs fun _ _ hs => hs.leaveObject
  have h2 : Kept s₀ s2 := .foldl h1 fun _ _ hs => .foldl hs fun _ _ hs => hs.leaveLine
  exact h2.of rfl

theorem Kept.fence {fn : Nat} (hs : Kept s₀ s) : Kept s₀ (State.fence s fn) := by
  unfold State.fence
  refine .ite ?_ ?_
  · exact hs
  · extract_lets +onlyGivenNames s1 s2 gone saved cores left s3 s4 still s5 s6 s7
    have h1 : Kept s₀ s1 := hs.modFn
    have h2 : Kept s₀ s2 := .foldl h1 fun _ _ hs => hs.discard
    have h3 : Kept s₀ s3 := .foldl h2 fun _ _ hs => (by split; exact hs.modQuad; exact hs)
    have h4 : Kept s₀ s4 := h3.of rfl
    have h5 : Kept s₀ s5 := .foldl h4 fun _ _ hs => hs.modLaunch
    have h6 : Kept s₀ s6 := .foldl h5 fun _ _ hs => hs.writeRecord
    have h7 : Kept s₀ s7 := h6.dropFunction
    exact h7.modFn.emit

theorem Kept.endWorkGroup {core ctx : Nat} (hs : Kept s₀ s) : Kept s₀ (State.endWorkGroup s core ctx) := by
  unfold State.endWorkGroup
  extract_lets +onlyGivenNames b
  refine .ite ?_ ?_
  · exact hs
  · extract_lets +onlyGivenNames places l runs first s1 s2 l
    have h1 : Kept s₀ s1 := .foldl hs fun _ _ hs => hs.undoExtra.discard
    have h2 : Kept s₀ s2 := h1.dropSaved
    refine .ite ?_ ?_
    · exact h2.setLaunch
    · refine .ite ?_ ?_
      · extract_lets +onlyGivenNames low
        exact h2.setLaunch.checkLaunch
      · exact h2.fence

theorem Kept.modThread {t : Tid} {f : Thread → Thread} (hs : Kept s₀ s) : Kept s₀ (State.modThread s t f) := hs.setThread

theorem Kept.frameStore {t : Tid} {a : Nat} {ws : List Word} (hs : Kept s₀ s) : Kept s₀ (State.frameStore s t a ws) := by
  unfold State.frameStore
  extract_lets +onlyGivenNames e
  exact hs.modCore.modThread

theorem Kept.setBlock {core ctx : Nat} {b : Block} (hs : Kept s₀ s) : Kept s₀ (State.setBlock s core ctx b) := hs.of rfl

theorem Kept.modBlock {core ctx : Nat} {f : Block → Block} (hs : Kept s₀ s) : Kept s₀ (State.modBlock s core ctx f) := hs.setBlock

theorem Kept.enterTrap {e : Nat} {t : Tid} {split : Nat} {r : TrapRec} (hs : Kept s₀ s) :
    Kept s₀ (State.enterTrap s e t split r) := by
  unfold State.enterTrap
  extract_lets +onlyGivenNames b th c
  refine .ite ?_ (.ite ?_ ?_)
  · exact hs.setThread.modCore.emit
  · exact hs.endWorkGroup
  · extract_lets +onlyGivenNames flights tmask head ws s1 base th' s2
    have h1 : Kept s₀ s1 := hs.frameStore
    have h2 : Kept s₀ s2 := h1.setThread
    exact .ite h2.modBlock h2

theorem Kept.takeTrap {t : Tid} {split : Nat} {r : TrapRec} (hs : Kept s₀ s) : Kept s₀ (State.takeTrap s t split r) := hs.enterTrap

theorem Kept.writeK {t : Tid} {n : Nat} {v : Word} (hs : Kept s₀ s) : Kept s₀ (State.writeK s t n v) := hs.modBlock

theorem Kept.writeDst {d : Dst} {m : Mask} {v : Nat → Word × Bool} (hs : Kept s₀ s) : Kept s₀ (State.writeDst s d m v) := by
  unfold State.writeDst
  extract_lets +onlyGivenNames t
  split
  · exact hs
  · split
    · exact hs.modThread
    · exact .ite hs.modThread hs.modThread
    · exact hs.writeK
    · exact hs.modThread

theorem Kept.capture {h : Head} {m : Mask} {v : Nat → Word × Bool} (hs : Kept s₀ s) : Kept s₀ (State.capture s h m v) := by
  unfold State.capture
  refine .ite ?_ ?_
  · exact hs
  · extract_lets +onlyGivenNames j
    exact hs.modThread

theorem Kept.notePop {x : Src} {m : Mask} (hs : Kept s₀ s) : Kept s₀ (State.notePop s x m) := by
  unfold State.notePop
  split
  · exact .ite (hs.of rfl) hs
  · exact hs

theorem Kept.launchFlight {unit : Nat} {m : Mask} {vals : Nat → Word} {flags : Nat → BitVec 4} {raised : BitVec 5} {lat : Nat}
    (hs : Kept s₀ s) :
    Kept s₀ (State.launchFlight s unit m vals flags raised lat) :=
  hs.modThread

theorem Kept.holdDividers {m : Mask} (hs : Kept s₀ s) : Kept s₀ (State.holdDividers s m) := by
  unfold State.holdDividers
  extract_lets +onlyGivenNames t
  exact hs.modCore

theorem Kept.holdSpecial (hs : Kept s₀ s) : Kept s₀ (State.holdSpecial s) := .ite hs hs.modCore

theorem Kept.modSelfSplit {f : Split → Split} (hs : Kept s₀ s) : Kept s₀ (State.modSelfSplit s f) := hs.modThread

theorem Kept.goTo {a : Word} {how : Arrive} (hs : Kept s₀ s) : Kept s₀ (State.goTo s a how) := hs.modSelfSplit

theorem Kept.openLoop {n ring lback : Word} (hs : Kept s₀ s) : Kept s₀ (State.openLoop s n ring lback) := by
  unfold State.openLoop
  extract_lets +onlyGivenNames stages
  refine .ite ?_ ?_
  · extract_lets +onlyGivenNames line
    exact hs.goTo
  · exact hs.modSelfSplit

theorem Kept.closeBody (hs : Kept s₀ s) : Kept s₀ (State.closeBody s) := by
  unfold State.closeBody
  split
  · exact .ite hs.modSelfSplit hs.modSelfSplit
  · exact hs

theorem Kept.setBarrier {core ctx id : Nat} {b : Barrier} (hs : Kept s₀ s) : Kept s₀ (State.setBarrier s core ctx id b) := hs.modBlock

theorem Kept.setSync {core ctx scope : Nat} {x : SyncState} (hs : Kept s₀ s) : Kept s₀ (State.setSync s core ctx scope x) := hs.modBlock

theorem Kept.warpLeft {t : Tid} (hs : Kept s₀ s) : Kept s₀ (State.warpLeft s t) := by
  unfold State.warpLeft
  extract_lets +onlyGivenNames clear past s1
  have h1 : Kept s₀ s1 := .foldl hs fun _ _ hs => hs.setBarrier
  exact .foldl h1 fun _ _ hs => hs.setSync

theorem Kept.rillTake {core ctx n : Nat} (hs : Kept s₀ s) : Kept s₀ (State.rillTake s core ctx n).1 := by
  unfold State.rillTake
  extract_lets +onlyGivenNames b
  split
  · exact hs.setBlock
  · extract_lets +onlyGivenNames l
    split
    · exact hs
    · exact .ite hs.setLaunch hs.setLaunch.modBlock

theorem Kept.fill {t : Tid} {k : Nat} {got : List (Nat × Nat)} (hs : Kept s₀ s) : Kept s₀ (State.startWarp.fill t k s got).1 := by
  induction k generalizing s got with
  | zero => exact hs
  | succ k ih =>
    unfold State.startWarp.fill
    extract_lets +onlyGivenNames have_
    split
    · exact hs
    · dsimp only
      split
      · exact hs.rillTake
      · exact ih hs.rillTake

theorem Kept.startWarp {t : Tid} (hs : Kept s₀ s) : Kept s₀ (State.startWarp s t) := by
  unfold State.startWarp
  extract_lets +onlyGivenNames b
  have h1 := hs.fill (t := t) (k := 33) (got := [])
  exact .ite h1 h1.setThread.modBlock

theorem Kept.leaveCommands {core ctx : Nat} (hs : Kept s₀ s) : Kept s₀ (State.leaveCommands s core ctx) := by
  unfold State.leaveCommands
  extract_lets +onlyGivenNames b n
  exact hs.of rfl

theorem Kept.checkBlock {core ctx : Nat} (hs : Kept s₀ s) : Kept s₀ (State.checkBlock s core ctx) := by
  unfold State.checkBlock
  extract_lets +onlyGivenNames b
  exact .ite hs.leaveCommands.vacate.leaveWeirs.checkLaunch hs

theorem Kept.freeDecisions {core ctx : Nat} (hs : Kept s₀ s) : Kept s₀ (State.freeDecisions s core ctx) := by
  unfold State.freeDecisions
  extract_lets +onlyGivenNames b least drop
  exact hs.setBlock

theorem Kept.endWarp {t : Tid} {again : Bool} (hs : Kept s₀ s) : Kept s₀ (State.endWarp s t again) := by
  unfold State.endWarp
  extract_lets +onlyGivenNames s1 s2 s3
  have h1 : Kept s₀ s1 := hs.modThread
  have h2 : Kept s₀ s2 := h1.warpLeft
  have h3 : Kept s₀ s3 := .ite h2.startWarp h2
  exact h3.freeDecisions.checkBlock

theorem Kept.lanesLeft {t : Tid} (hs : Kept s₀ s) : Kept s₀ (State.lanesLeft s t) := by
  unfold State.lanesLeft
  extract_lets +onlyGivenNames held kept s1
  have h1 : Kept s₀ s1 := .foldl hs fun _ _ hs => .ite (.ite hs hs.setBarrier) ((Kept.ite hs hs.setBarrier).setBarrier)
  exact .foldl h1 fun _ _ hs => .ite hs hs.setSync

theorem Kept.vacateWarp {t : Tid} {v : Mask} {again : Bool} (hs : Kept s₀ s) : Kept s₀ (State.vacateWarp s t v again) := by
  unfold State.vacateWarp
  extract_lets +onlyGivenNames s1
  have h1 : Kept s₀ s1 := hs.modThread
  refine .ite ?_ ?_
  · extract_lets +onlyGivenNames s2
    have h2 : Kept s₀ s2 := h1.endWarp
    exact h2.of rfl
  · exact h1.lanesLeft

theorem Kept.endTask {t : Tid} (hs : Kept s₀ s) : Kept s₀ (State.endTask s t) := by
  unfold State.endTask
  extract_lets +onlyGivenNames s1 s2
  have h1 : Kept s₀ s1 := hs.modThread
  have h2 : Kept s₀ s2 := h1.modBlock
  exact h2.checkBlock

theorem Kept.noteAfter {cause : Nat} {tval : Word} (hs : Kept s₀ s) : Kept s₀ (State.noteAfter s cause tval) := by
  unfold State.noteAfter
  split
  · exact hs.of rfl
  · exact hs.modThread

theorem Kept.barArrive {t : Tid} {id count : Nat} {sBit : Bool} {lanes : Mask} (hs : Kept s₀ s) :
    Kept s₀ (State.barArrive s t id count sBit lanes).1 := by
  unfold State.barArrive
  extract_lets +onlyGivenNames b b
  split
  · dsimp only
    exact hs.setBarrier

theorem Kept.release {t : Tid} {scope : Nat} (hs : Kept s₀ s) : Kept s₀ (State.release s t scope) := by
  unfold State.release
  refine .ite ?_ ?_
  · exact hs
  · extract_lets +onlyGivenNames need
    exact hs.modThread

theorem Kept.arrive {v : Word} (hs : Kept s₀ s) : Kept s₀ (State.arrive s v).1 := hs.release.barArrive

theorem Kept.waitSelf {kind : Nat} {w0 w1 : Word} (hs : Kept s₀ s) : Kept s₀ (State.waitSelf s kind w0 w1) := .ite hs hs.modSelfSplit

theorem Kept.sendFill {p : ResPort} {m : Mask} {v : Nat → Word} {lat : Nat} (hs : Kept s₀ s) :
    Kept s₀ (State.sendFill s p m v lat) :=
  hs.modThread

theorem Kept.acquireFrom {t : Tid} {seq scope : Nat} (hs : Kept s₀ s) : Kept s₀ (State.acquireFrom s t seq scope) := by
  unfold State.acquireFrom
  refine .ite ?_ ?_
  · exact hs
  · extract_lets +onlyGivenNames q local_ s1
    have h1 : Kept s₀ s1 := .ite hs.modCore hs
    exact h1.modThread

theorem Kept.acquire {t : Tid} {scope : Nat} (hs : Kept s₀ s) : Kept s₀ (State.acquire s t scope) := hs.acquireFrom

theorem Kept.makeAcquire {t : Tid} {scope : Nat} {fence stalls : Bool} (hs : Kept s₀ s) :
    Kept s₀ (State.makeAcquire s t scope fence stalls).1 := by
  unfold State.makeAcquire
  extract_lets +onlyGivenNames a
  split
  · dsimp only
    exact hs.acquire
  · dsimp only
    exact hs.modThread

theorem Kept.joinAcquire {t : Tid} {scope : Nat} (hs : Kept s₀ s) : Kept s₀ (State.joinAcquire s t scope) := hs.makeAcquire

theorem Kept.syncArrive {t : Tid} {scope : Nat} {v : Word} {lanes : Mask} (hs : Kept s₀ s) :
    Kept s₀ (State.syncArrive s t scope v lanes) := by
  unfold State.syncArrive
  extract_lets +onlyGivenNames x asked x x
  exact hs.setSync

theorem Kept.sendObject {kind : Nat} {a v : Word} (hs : Kept s₀ s) : Kept s₀ (State.sendObject s kind a v) := by
  unfold State.sendObject
  split
  · exact hs
  · exact hs.modCore.modThread

theorem Kept.startAcquire {t : Tid} {i scope : Nat} {fence : Bool} (hs : Kept s₀ s) :
    Kept s₀ (State.startAcquire s t i scope fence) := by
  unfold State.startAcquire
  extract_lets +onlyGivenNames stalls
  split
  · next heq =>
    have h1 := Kept.fst heq hs.makeAcquire
    exact .ite h1 h1.modThread
  · next heq => exact .fst heq hs.makeAcquire

theorem Kept.writeCsr {t : Tid} {n : Nat} {v : Word} (hs : Kept s₀ s) : Kept s₀ (State.writeCsr s t n v) := by
  unfold State.writeCsr
  extract_lets +onlyGivenNames late
  split
  · exact .ite hs hs.modThread
  · exact hs.modCore
  · exact hs.modBlock

theorem Kept.syncPlaces {t : Tid} (hs : Kept s₀ s) : Kept s₀ (State.syncPlaces s t) := .foldl hs fun _ _ hs => .ite hs hs.modThread

theorem Kept.beginAcquire {t : Tid} {i : Nat} (hs : Kept s₀ s) : Kept s₀ (State.beginAcquire s t i) := by
  unfold State.beginAcquire
  extract_lets +onlyGivenNames w s1
  have h1 : Kept s₀ s1 := .ite hs.release hs
  split
  · next heq => exact (Kept.fst heq h1.makeAcquire).modThread
  · next heq => exact (Kept.fst heq h1.makeAcquire).modThread

theorem Kept.renewWaits {t : Tid} (hs : Kept s₀ s) : Kept s₀ (State.renewWaits s t) := by
  unfold State.renewWaits
  extract_lets +onlyGivenNames s1
  have h1 : Kept s₀ s1 := (Kept.foldl hs fun _ _ hs => .ite hs.beginAcquire hs).syncPlaces
  exact .ite h1.modThread h1

theorem Kept.remakeAtom {t : Tid} {rs : List Redo} (hs : Kept s₀ s) : Kept s₀ (State.remakeAtom s t rs) := by
  unfold State.remakeAtom
  split
  · exact hs
  · exact hs.modCore.modThread

end Sys2Proof.Claim
end

section
/-! SUPPORT. What the answers, the homes and the walks leave -/

open Sys2Proof.Machine

namespace Sys2Proof.Claim

variable {s₀ s u : State}

theorem Kept.remake {t : Tid} (hs : Kept s₀ s) : Kept s₀ (State.remake s t) := by
  unfold State.remake
  extract_lets +onlyGivenNames fn s1 good
  have h1 : Kept s₀ s1 := .ite hs.modThread hs
  exact .foldl h1 fun _ _ hs => hs.remakeAtom

theorem Kept.returnFromTrap {t : Tid} (hs : Kept s₀ s) : Kept s₀ (State.returnFromTrap s t) := by
  unfold State.returnFromTrap
  extract_lets +onlyGivenNames b th a ws
  refine .ite ?_ ?_
  · exact hs.endWorkGroup
  · extract_lets +onlyGivenNames th s1
    have h1 : Kept s₀ s1 := hs.setThread.remake
    exact .ite h1.modBlock h1

theorem Kept.takeUnlink {quad key : Nat} {g : Grant} (hs : Kept s₀ s) : Kept s₀ (State.takeUnlink s quad key g) :=
  .ite (hs.of rfl) (Kept.modQLine (hs.of rfl))

theorem Kept.wake {quad : Nat} (hs : Kept s₀ s) : Kept s₀ (State.wake s quad) := .ite hs.modQuad hs

theorem Kept.linePublished {quad key : Nat} (hs : Kept s₀ s) : Kept s₀ (State.linePublished s quad key) := by
  unfold State.linePublished
  extract_lets +onlyGivenNames one told
  exact hs.of rfl

theorem Kept.mergeOwned {quad key : Nat} (hs : Kept s₀ s) : Kept s₀ (State.mergeOwned s quad key) := by
  unfold State.mergeOwned
  extract_lets +onlyGivenNames x
  exact .ite hs.setQLine.linePublished hs

theorem Kept.fillL1 {core fn addr : Nat} {h : Hint} (hs : Kept s₀ s) : Kept s₀ (State.fillL1 s core fn addr h) := by
  unfold State.fillL1
  extract_lets +onlyGivenNames key q
  refine .ite ?_ ?_
  · exact hs
  · extract_lets +onlyGivenNames bs
    exact hs.modCore

theorem Kept.takePrefetch {core : Nat} {keys : List Nat} (hs : Kept s₀ s) : Kept s₀ (State.takePrefetch s core keys) := by
  unfold State.takePrefetch
  extract_lets +onlyGivenNames mine
  exact .ite hs ((Kept.foldl hs fun _ _ hs => hs.fillL1).modCore)

theorem Kept.takeData {quad fn : Nat} {g : Grant} {st : Nat} (hs : Kept s₀ s) : Kept s₀ (State.takeData s quad fn g st) := by
  unfold State.takeData
  extract_lets +onlyGivenNames keys s1 s2
  have h1 : Kept s₀ s1 := .foldl hs fun _ _ hs => hs.modQLine
  have h2 : Kept s₀ s2 := .foldl h1 fun _ _ hs => hs.mergeOwned
  exact .foldl h2 fun _ _ hs => hs.takePrefetch

theorem Kept.clearLocal {quad key : Nat} (hs : Kept s₀ s) : Kept s₀ (State.clearLocal s quad key) := by
  unfold State.clearLocal
  extract_lets +onlyGivenNames x
  exact hs.setQLine.linePublished

theorem Kept.unpark {t : Tid} (hs : Kept s₀ s) : Kept s₀ (State.unpark s t) := hs.modThread

theorem Kept.drawn (hs : Kept s₀ s) : Kept s₀ (State.drawn s) := hs.of rfl

theorem Kept.deliverPart {t : Tid} {p : LoadPort} {e : LoadEntry} {l : Nat} {x : Nat × Nat} {g : Got} (hs : Kept s₀ s) :
    Kept s₀ (State.deliverPart s t p e l x g) :=
  hs.modThread.drawn.unpark

theorem Kept.observe {t : Tid} {seq fn a n : Nat} (hs : Kept s₀ s) : Kept s₀ (State.observe s t seq fn a n) := by
  unfold State.observe
  extract_lets +onlyGivenNames keys
  exact .ite hs hs.modThread

theorem Kept.giveUncached {quad : Nat} {g : Grant} (hs : Kept s₀ s) : Kept s₀ (State.giveUncached s quad g) := by
  unfold State.giveUncached
  refine .foldl hs fun _ _ hs => .foldl hs fun _ _ hs => .foldl hs fun _ _ hs => .foldl hs fun _ _ hs =>
    .ite hs (.foldl hs fun _ _ hs => ?_)
  split
  · exact hs
  · exact .ite hs hs.observe.deliverPart

theorem Kept.failLocal {quad key : Nat} (hs : Kept s₀ s) : Kept s₀ (State.failLocal s quad key) := by
  unfold State.failLocal
  extract_lets +onlyGivenNames x
  refine .ite ?_ ?_
  · exact hs
  · extract_lets +onlyGivenNames s1
    have h1 : Kept s₀ s1 := .ite hs hs.modThread
    exact h1.modQLine.linePublished

theorem Kept.settleIssuer {t : Tid} {seq : Nat} (hs : Kept s₀ s) : Kept s₀ (State.settleIssuer s t seq) := .ite hs.modThread.unpark hs

theorem Kept.setAtomLanes {core seq : Nat} {lanes : List AtomLane} (hs : Kept s₀ s) :
    Kept s₀ (State.setAtomLanes s core seq lanes) :=
  hs.modCore

theorem Kept.answerAtom {core seq addr cause : Nat} {lanes : List AtomLane} {kind : Nat} (hs : Kept s₀ s) :
    Kept s₀ (State.answerAtom s core seq addr cause lanes kind) := by
  unfold State.answerAtom
  extract_lets +onlyGivenNames here
  refine .ite ?_ ?_
  · extract_lets +onlyGivenNames s1 rest
    have h1 : Kept s₀ s1 := by
      unfold s1
      split
      · exact .ite hs hs.modThread
      · exact hs
    split
    · exact h1.setAtomLanes.settleIssuer
    · exact h1.setAtomLanes
  · exact hs.setAtomLanes

theorem Kept.failAtoms {quad key : Nat} (hs : Kept s₀ s) : Kept s₀ (State.failAtoms s quad key) :=
  .foldl hs fun _ _ hs => .foldl hs fun _ _ hs => .foldl hs fun _ _ hs => (by split; exact hs.answerAtom; exact hs)

theorem Kept.failLoads {quad key : Nat} (hs : Kept s₀ s) : Kept s₀ (State.failLoads s quad key) :=
  .foldl hs fun _ _ hs => hs.modThread.unpark

theorem Kept.takeGrant {quad key : Nat} {g : Grant} (hs : Kept s₀ s) : Kept s₀ (State.takeGrant s quad key g) := by
  unfold State.takeGrant
  extract_lets +onlyGivenNames x
  refine .ite ?_ ?_
  · exact hs.of rfl
  · extract_lets +onlyGivenNames woken s1 s2
    have h1 : Kept s₀ s1 := hs.wake.of rfl
    have h2 : Kept s₀ s2 := h1.modQLine
    split
    · exact h2.takeData
    · exact h2.takeData
    · exact .ite (.foldl (.foldl h2 fun _ _ hs => hs.modQLine) fun _ _ hs => hs.mergeOwned) h2.clearLocal
    · exact h2.giveUncached
    · exact .ite h2.failLocal (.ite (Kept.foldl h2 fun _ _ hs => hs.failLocal).failAtoms (.ite h2.failLoads.failAtoms.drawn h2))
    · exact h2

theorem Kept.dropCoherent {quad fn dkey : Nat} (hs : Kept s₀ s) : Kept s₀ (State.dropCoherent s quad fn dkey) :=
  .foldl hs fun _ _ hs => hs.modQLine

theorem Kept.passWalk {die key next : Nat} (hs : Kept s₀ s) : Kept s₀ (State.passWalk s die key next) := hs.modDir

theorem Kept.stepInvalidation {key : Nat} (hs : Kept s₀ s) : Kept s₀ (State.stepInvalidation s key) := by
  unfold State.stepInvalidation
  split
  · exact hs
  · exact (Kept.ite hs hs.dropCoherent.modQLine).passWalk

theorem Kept.stepUpdate {key : Nat} (hs : Kept s₀ s) : Kept s₀ (State.stepUpdate s key) := by
  unfold State.stepUpdate
  split
  · exact hs
  · exact (Kept.ite hs (.ite hs.dropCoherent.unlink.modQLine (.foldl hs fun _ _ hs => hs.modQLine))).passWalk

theorem Kept.healLine {fn addr : Nat} {heal : BitVec 4} (hs : Kept s₀ s) : Kept s₀ (State.healLine s fn addr heal) :=
  .foldl hs fun _ _ hs => .ite hs.healSector hs

theorem Kept.writeArriving {r : Req} (hs : Kept s₀ s) : Kept s₀ (State.writeArriving s r) := hs.homeWriteMapped.healLine

theorem Kept.dropL1 {core key : Nat} (hs : Kept s₀ s) : Kept s₀ (State.dropL1 s core key) := .ite hs hs.modCore

theorem Kept.endRed {r : Req} (hs : Kept s₀ s) : Kept s₀ (State.endRed s r) := by
  unfold State.endRed
  split
  · exact .ite hs.dropL1.answerAtom hs
  · exact hs

theorem Kept.updatePassed {keys : List Nat} (hs : Kept s₀ s) : Kept s₀ (State.updatePassed s keys) := by
  unfold State.updatePassed
  refine .ite ?_ ?_
  · exact hs
  · extract_lets +onlyGivenNames one
    exact hs.of rfl

theorem Kept.takeTurn {die dkey who : Nat} (hs : Kept s₀ s) : Kept s₀ (State.takeTurn s die dkey who) := hs.modDie

theorem Kept.farRead {fn addr n : Nat} (hs : Kept s₀ s) : Kept s₀ (State.farRead s fn addr n) := by
  unfold State.farRead
  refine .ite ?_ ?_
  · exact hs.emit
  · split
    · exact hs.emit
    · exact hs

theorem Kept.noteFrames {dkey fn : Nat} {keys : List Nat} (hs : Kept s₀ s) : Kept s₀ (State.noteFrames s dkey fn keys) := hs.modDir

theorem Kept.sendGrant {dkey : Nat} {r : Req} {kind : Nat} (hs : Kept s₀ s) : Kept s₀ (State.sendGrant s dkey r kind) := by
  unfold State.sendGrant
  extract_lets +onlyGivenNames keys data bytes bad key g s1 s2
  have h1 : Kept s₀ s1 := .ite (.foldl hs fun _ _ hs => hs.farRead) hs
  have h2 : Kept s₀ s2 := .ite h1.noteFrames h1
  exact .ite (h2.of rfl) h2

theorem Kept.link {die dkey quad : Nat} (hs : Kept s₀ s) : Kept s₀ (State.link s die dkey quad) := by
  unfold State.link
  extract_lets +onlyGivenNames h s1 s2
  have h1 : Kept s₀ s1 := hs.modQLine
  have h2 : Kept s₀ s2 := by
    unfold s2 h
    split
    · exact h1.modQLine
    · exact h1
  exact h2.modDir

theorem Kept.homeAtomic {fn addr op seq : Nat} {cells : List Host.Cell} (hs : Kept s₀ s) :
    Kept s₀ (State.homeAtomic s fn addr op seq cells) := by
  unfold State.homeAtomic
  extract_lets +onlyGivenNames s1
  have h1 : Kept s₀ s1 := .foldl hs fun _ _ hs => hs.homePut
  refine .ite ?_ ?_
  · exact h1.emit
  · split
    · exact h1.emit
    · exact h1

theorem Kept.logAtom {die core seq addr key : Nat} {lanes : List AtomLane} (hs : Kept s₀ s) :
    Kept s₀ (State.logAtom s die core seq addr key lanes) :=
  .ite hs hs.modDie

theorem Kept.performHome {die : Nat} {r : Req} {walk : Bool} (hs : Kept s₀ s) : Kept s₀ (State.performHome s die r walk).1 := by
  unfold State.performHome
  split
  · exact hs
  · split
    · exact hs.answerAtom
    · exact .ite hs.homeAtomic.drawn.dropL1.logAtom.setAtomLanes hs.homeAtomic.drawn.dropL1.logAtom.answerAtom

theorem Kept.setToken {rid : Nat} {x : Nat × Nat} (hs : Kept s₀ s) : Kept s₀ (State.setToken s rid x) := hs.modDie

theorem Kept.protocolError {dkey : Nat} {r : Req} (hs : Kept s₀ s) : Kept s₀ (State.protocolError s dkey r) := by
  unfold State.protocolError
  refine .ite ?_ ?_
  · split
    · exact hs.answerAtom
    · exact hs
  · exact .ite hs.sendGrant hs

theorem Kept.action1 {die dkey : Nat} {acts : List Nat} {r : Req} {k : Nat} (hs : Kept s₀ s) :
    Kept s₀ (State.action1 s die dkey acts r k).1 := by
  unfold State.action1
  extract_lets +onlyGivenNames d walk
  split
  · dsimp only
    exact hs.sendGrant
  · dsimp only
    exact hs.sendGrant
  · dsimp only
    exact hs.sendGrant
  · dsimp only
    exact hs.modDir
  · dsimp only
    exact hs.modDir
  · dsimp only
    exact hs.modDir
  · dsimp only
    exact hs.modDir
  · dsimp only
    exact .ite hs.link hs
  · dsimp only
    exact hs.unlink
  · dsimp only
    exact .ite hs.modDir hs
  · dsimp only
    exact hs.modDir
  · dsimp only
    exact .ite hs hs.writeArriving
  · exact hs.performHome
  · dsimp only
    exact hs.modDir
  · dsimp only
    exact .ite hs.setToken hs
  · dsimp only
    exact .ite hs.setToken hs
  · dsimp only
    exact hs.protocolError
  · dsimp only
    exact hs

theorem Kept.actions {die dkey : Nat} {acts : List Nat} {r : Req} {ks : List Nat} (hs : Kept s₀ s) :
    Kept s₀ (State.actions s die dkey acts r ks) := by
  induction ks generalizing s r with
  | nil => exact hs
  | cons k ks ih =>
    unfold State.actions
    exact ih hs.action1

theorem Kept.completePending {die dkey : Nat} (hs : Kept s₀ s) : Kept s₀ (State.completePending s die dkey) := by
  unfold State.completePending
  extract_lets +onlyGivenNames d
  split
  · exact hs
  · exact hs.actions.modDir

theorem Kept.runEntry {die dkey : Nat} {r : Req} {e : Entry} (hs : Kept s₀ s) : Kept s₀ (State.runEntry s die dkey r e) := by
  unfold State.runEntry
  extract_lets +onlyGivenNames acts s1 s2 gone s3
  have h1 : Kept s₀ s1 := hs.actions
  have h2 : Kept s₀ s2 := .ite h1.sendGrant h1
  have h3 : Kept s₀ s3 := .ite h2.completePending h2
  exact h3.modDir

theorem Kept.takeQueued {die dkey n : Nat} (hs : Kept s₀ s) : Kept s₀ (State.takeQueued s die dkey n) := by
  induction n generalizing s with
  | zero => exact hs
  | succ n ih =>
    unfold State.takeQueued
    extract_lets +onlyGivenNames d
    split
    · exact hs
    · exact .ite hs (ih hs.modDir.runEntry)

theorem Kept.atHome {die dkey : Nat} {r₀ : Req} (hs : Kept s₀ s) : Kept s₀ (State.atHome s die dkey r₀) := by
  unfold State.atHome
  refine .ite ?_ ?_
  · exact hs
  · extract_lets +onlyGivenNames s1 d r e
    have h1 : Kept s₀ s1 := .ite hs.takeTurn hs
    refine .ite ?_ ?_
    · exact h1.modDir
    · extract_lets +onlyGivenNames s2
      have h2 : Kept s₀ s2 := h1.runEntry
      exact h2.takeQueued

theorem Kept.endWalk {key : Nat} (hs : Kept s₀ s) : Kept s₀ (State.endWalk s key) := by
  unfold State.endWalk
  split
  · exact hs
  · split
    · exact hs
    · extract_lets +onlyGivenNames s1 s2 s3 s4
      have h2 : Kept s₀ s2 := .ite hs.modDir.modQLine hs.modDir
      have h3 : Kept s₀ s3 := .ite h2.writeArriving h2
      have h4 : Kept s₀ s4 := .ite h3.updatePassed.endRed h3
      exact h4.atHome

theorem Kept.surrender {key die quad : Nat} {keep : Bool} (hs : Kept s₀ s) : Kept s₀ (State.surrender s key die quad keep) := by
  unfold State.surrender
  extract_lets +onlyGivenNames fn s1 bytes s2
  have h1 : Kept s₀ s1 := .foldl hs fun _ _ hs => hs.mergeOwned
  have h2 : Kept s₀ s2 := .ite (.foldl h1 fun _ _ hs => hs.modQLine) h1.dropCoherent
  exact h2.modDir

theorem Kept.askOwner {key ask : Nat} (hs : Kept s₀ s) : Kept s₀ (State.askOwner s key ask) := by
  unfold State.askOwner
  split
  · exact hs.surrender
  · exact hs

theorem Kept.ownerAnswers {key : Nat} (hs : Kept s₀ s) : Kept s₀ (State.ownerAnswers s key) := by
  unfold State.ownerAnswers
  split
  · exact hs
  · exact hs.atHome

theorem Kept.lineStep {key own : Nat} (hs : Kept s₀ s) (h : State.lineStep s key own = some u) : Kept s₀ u := by
  unfold State.lineStep at h
  split at h
  · cases h
    exact .ite hs.takeUnlink hs.takeGrant
  · repeat' split at h
    all_goals cases h
    · exact hs.stepInvalidation
    · exact hs.stepUpdate
    · exact hs.endWalk
    · exact hs.askOwner
    · exact hs.askOwner
    · exact hs.ownerAnswers

theorem Kept.settleLine {key own n : Nat} (hs : Kept s₀ s) : Kept s₀ (State.settleLine s key own n) := by
  induction n generalizing s with
  | zero => exact hs
  | succ n ih =>
    unfold State.settleLine
    split
    · next heq => exact ih (hs.lineStep heq)
    · exact hs

theorem Kept.sendRequest {quad fn dkey kind : Nat} {bytes : List (Nat × Byte)} (hs : Kept s₀ s) :
    Kept s₀ (State.sendRequest s quad fn dkey kind bytes) := by
  unfold State.sendRequest
  extract_lets +onlyGivenNames s1
  have h1 : Kept s₀ s1 := hs.wake.modQLine
  exact h1.atHome

theorem Kept.loseLocal {quad key : Nat} (hs : Kept s₀ s) : Kept s₀ (State.loseLocal s quad key) := by
  unfold State.loseLocal
  extract_lets +onlyGivenNames x s1
  have h1 : Kept s₀ s1 := hs.noteLost
  exact h1.setQLine.linePublished

theorem Kept.sendPub {quad key : Nat} (hs : Kept s₀ s) : Kept s₀ (State.sendPub s quad key) := by
  unfold State.sendPub
  extract_lets +onlyGivenNames x
  split
  · exact hs.wake.modQLine.atHome
  · exact hs.loseLocal

theorem Kept.pubNow {quad key : Nat} (hs : Kept s₀ s) : Kept s₀ (State.pubNow s quad key) := hs.sendPub.settleLine

theorem Kept.seizeToken {quad rid : Nat} (hs : Kept s₀ s) : Kept s₀ (State.seizeToken s quad rid) := by
  unfold State.seizeToken
  extract_lets +onlyGivenNames t
  refine .ite ?_ ?_
  · exact hs
  · extract_lets +onlyGivenNames s1 waits
    have h1 : Kept s₀ s1 := .ite hs (.foldl hs fun _ _ hs => hs.pubNow)
    exact h1.setToken

theorem Kept.publishNow {quad key : Nat} (hs : Kept s₀ s) : Kept s₀ (State.publishNow s quad key) := by
  unfold State.publishNow
  refine .ite ?_ ?_
  · exact hs
  · extract_lets +onlyGivenNames fn dkey s1 x
    have h1 : Kept s₀ s1 := hs.settleLine
    refine .ite ?_ ?_
    · exact h1
    · refine .ite ?_ ?_
      · exact h1.mergeOwned
      · split
        · split
          · exact h1.sendRequest.settleLine
          · exact h1.seizeToken.pubNow
          · exact h1.pubNow
        · exact h1.loseLocal

theorem Kept.purgeLine {quad key : Nat} (hs : Kept s₀ s) : Kept s₀ (State.purgeLine s quad key) := by
  unfold State.purgeLine
  extract_lets +onlyGivenNames fn dkey s1
  have h1 : Kept s₀ s1 := .foldl hs.settleLine fun _ _ hs => hs.publishNow
  split
  · exact h1.modQLine
  · exact h1.dropCoherent.sendRequest.settleLine
  · exact h1.dropCoherent.sendRequest.settleLine

theorem Kept.gatherLine {fn addr : Nat} (hs : Kept s₀ s) : Kept s₀ (State.gatherLine s fn addr) := by
  unfold State.gatherLine
  extract_lets +onlyGivenNames key s1 s2
  have h1 : Kept s₀ s1 := hs.settleLine
  have h2 : Kept s₀ s2 := .foldl h1 fun _ _ hs => .ite hs hs.purgeLine
  exact h2.of rfl

theorem Kept.objApply {fn : Nat} {r : Rec} {release : Bool} (hs : Kept s₀ s) : Kept s₀ (State.objApply s fn r release).1 := by
  unfold State.objApply
  extract_lets +onlyGivenNames sp die objs answer
  split
  · split
    · dsimp only
      exact hs
    · dsimp only
      exact (Kept.foldl hs fun _ _ hs => hs.gatherLine).modDie
  · split
    · dsimp only
      exact hs
    · split
      · dsimp only
        exact hs
      · dsimp only
        exact (Kept.foldl hs fun _ _ hs => hs.gatherLine).modDie

theorem Kept.countLease (hs : Kept s₀ s) : Kept s₀ (State.countLease s) := .ite hs hs.modQuad

theorem Kept.issueCommand {c : Cmd} (hs : Kept s₀ s) : Kept s₀ (State.issueCommand s c) := by
  unfold State.issueCommand
  extract_lets +onlyGivenNames s1 s2 s3
  have h1 : Kept s₀ s1 := hs.release
  have h2 : Kept s₀ s2 := h1.modBlock
  have h3 : Kept s₀ s3 := h2.modThread
  exact h3.of rfl

theorem Kept.resumeCommand {c : Cmd} {port : Nat} (hs : Kept s₀ s) : Kept s₀ (State.resumeCommand s c port) := by
  unfold State.resumeCommand
  extract_lets +onlyGivenNames party c' others cmds s1 s2
  have h1 : Kept s₀ s1 := hs.modBlock
  have h2 : Kept s₀ s2 := h1.modThread
  exact h2.of rfl

theorem Kept.answerNext {port : Nat} {v : Word} (hs : Kept s₀ s) : Kept s₀ (State.answerNext s port v) := hs.modThread

theorem Kept.setArmed {t : Tid} {i : Nat} {on : Bool} (hs : Kept s₀ s) : Kept s₀ (State.setArmed s t i on) := hs.modBlock

theorem Kept.disarm {t : Tid} {i : Nat} (hs : Kept s₀ s) : Kept s₀ (State.disarm s t i) := by
  unfold State.disarm
  extract_lets +onlyGivenNames s1
  have h1 : Kept s₀ s1 := hs.setArmed.checkBlock
  exact .ite h1 (h1.of rfl)

theorem Kept.enterLoad {p : LoadPort} {wd : Width} {n : Hint} {spec : Bool} {m : Mask} {lane : Nat → LoadLane} (hs : Kept s₀ s) :
    Kept s₀ (State.enterLoad s p wd n spec m lane) :=
  hs.modThread

theorem Kept.prefetch {core fn a : Nat} {h : Hint} (hs : Kept s₀ s) : Kept s₀ (State.prefetch s core fn a h) := .ite hs.fillL1 hs.modCore

theorem Kept.enterStore {global : Bool} {n : Hint} {m : Mask} {lane : Nat → StoreLane} (hs : Kept s₀ s) :
    Kept s₀ (State.enterStore s global n m lane) := by
  unfold State.enterStore
  extract_lets +onlyGivenNames t e
  exact hs.modCore.modThread

theorem Kept.enterAtom {h : Head} {kind op scope : Nat} (hs : Kept s₀ s) : Kept s₀ (State.enterAtom s h kind op scope) := by
  unfold State.enterAtom
  extract_lets +onlyGivenNames t m lane e
  exact hs.modCore.modThread

theorem Kept.reloadL1 {core fn a : Nat} {h : Hint} (hs : Kept s₀ s) : Kept s₀ (State.reloadL1 s core fn a h) := by
  unfold State.reloadL1
  extract_lets +onlyGivenNames key
  exact .ite hs.modCore.fillL1 hs

theorem Kept.raiseFault {fn addr access level : Nat} {who : Requester} (hs : Kept s₀ s) :
    Kept s₀ (State.raiseFault s fn addr access level who) := by
  unfold State.raiseFault
  extract_lets +onlyGivenNames id
  exact hs.modDie.modFn

theorem Kept.ask {fn addr access : Nat} {who : Requester} (hs : Kept s₀ s) : Kept s₀ (State.ask s fn addr access who).1 := by
  unfold State.ask
  split
  · dsimp only
    exact hs
  · split
    · dsimp only
      exact hs
    · split
      · dsimp only
        exact hs
      · split
        · dsimp only
          exact hs
        · split
          · dsimp only
            exact hs.recordUse
          · dsimp only
            exact hs.raiseFault
          · dsimp only
            exact hs.noteRefusal

theorem Kept.askAll {fn access : Nat} {who : Requester} {as : List Nat} (hs : Kept s₀ s) :
    Kept s₀ (State.askAll s fn access who as).1 := by
  induction as generalizing s with
  | nil => exact hs
  | cons a as ih =>
    unfold State.askAll
    split
    · next heq => exact ih (.fst heq hs.ask)
    · next heq => exact .fst heq hs.ask
    · next heq => exact .fst heq hs.ask

theorem Kept.globalArrival {t : Tid} {e : LoadEntry} {a n : Nat} (hs : Kept s₀ s) :
    Kept s₀ (State.globalArrival s t e a n).1 := by
  unfold State.globalArrival
  extract_lets +onlyGivenNames fn fault
  split
  · exact (Kept.ite hs hs.reloadL1).observe
  · split
    · exact hs
    · split
      · next heq =>
        have h1 := Kept.fst heq hs.askAll
        split
        · exact h1.farRead.observe
        · exact h1
      · next heq => exact .fst heq hs.askAll
      · next heq => exact .fst heq hs.askAll

theorem Kept.readPart {t : Tid} {p : LoadPort} {e : LoadEntry} {x : Nat × Nat} (hs : Kept s₀ s) :
    Kept s₀ (State.readPart s t p e x).1 := by
  unfold State.readPart
  split
  · dsimp only
    exact hs
  · dsimp only
    exact hs
  · exact hs.globalArrival

end Sys2Proof.Claim
end

section
/-! SUPPORT. What the engines, the launches and the host's operations leave -/

open Sys2Proof.Machine

namespace Sys2Proof.Claim

variable {s₀ s u : State}

theorem Kept.landAtoms {core seq addr : Nat} (hs : Kept s₀ s) : Kept s₀ (State.landAtoms s core seq addr) := by
  unfold State.landAtoms
  split
  · exact hs
  · split
    · exact ((((Kept.ite hs.dropL1 hs).modThread).setAtomLanes).drawn).unpark

theorem Kept.failAtom {core : Nat} {e : AtomEntry} {addr cause : Nat} (hs : Kept s₀ s) :
    Kept s₀ (State.failAtom s core e addr cause) :=
  hs.answerAtom

theorem Kept.scratchWrite {core : Nat} {cells : List Host.Cell} (hs : Kept s₀ s) : Kept s₀ (State.scratchWrite s core cells) := hs.modCore

theorem Kept.performScratch {e : AtomEntry} {addr : Nat} (hs : Kept s₀ s) : Kept s₀ (State.performScratch s e addr).1 := by
  unfold State.performScratch
  extract_lets +onlyGivenNames k a
  split
  · dsimp only
    exact hs
  · split
    · dsimp only
      exact hs.scratchWrite

theorem Kept.localWrite {quad fn : Nat} {cells : List Host.Cell} (hs : Kept s₀ s) : Kept s₀ (State.localWrite s quad fn cells) :=
  .foldl hs fun _ _ hs => hs.setQLine

theorem Kept.quadWrite {core fn writer : Nat} {cells : List Host.Cell} {whole : List Nat} (hs : Kept s₀ s) :
    Kept s₀ (State.quadWrite s core fn writer cells whole) := by
  unfold State.quadWrite
  extract_lets +onlyGivenNames quad keys s1 s2
  have h1 : Kept s₀ s1 := hs.wake.localWrite
  have h2 : Kept s₀ s2 := h1.modCore
  exact .foldl h2 fun _ _ hs => hs.modQLine.mergeOwned

theorem Kept.performQuad {core : Nat} {e : AtomEntry} {addr : Nat} (hs : Kept s₀ s) :
    Kept s₀ (State.performQuad s core e addr).1 := by
  unfold State.performQuad
  extract_lets +onlyGivenNames quad
  split
  · dsimp only
    exact hs
  · split
    · dsimp only
      exact hs.quadWrite.modThread

theorem Kept.laneDone {core : Nat} {e : StoreEntry} {b : Nat} (hs : Kept s₀ s) : Kept s₀ (State.laneDone s core e b) := by
  unfold State.laneDone
  extract_lets +onlyGivenNames more rest s1
  have h1 : Kept s₀ s1 := hs.modCore
  exact .ite h1.settleIssuer h1

theorem Kept.drainHome {core : Nat} {e : StoreEntry} {l : StoreLane} {b : Nat} (hs : Kept s₀ s) :
    Kept s₀ (State.drainHome s core e l b) := by
  unfold State.drainHome
  extract_lets +onlyGivenNames s1
  have h1 : Kept s₀ s1 := hs.homeStore
  exact (Kept.ite h1.healSector h1).laneDone

theorem Kept.pendFault {t : Tid} {cause addr : Nat} (hs : Kept s₀ s) : Kept s₀ (State.pendFault s t cause addr) := hs.modThread

theorem Kept.failStore {core : Nat} {e : StoreEntry} {l : StoreLane} {cause addr : Nat} (hs : Kept s₀ s) :
    Kept s₀ (State.failStore s core e l cause addr) := by
  unfold State.failStore
  extract_lets +onlyGivenNames lanes done less s1 s2
  have h1 : Kept s₀ s1 := hs.modCore
  have h2 : Kept s₀ s2 := h1.pendFault
  exact .ite h2.settleIssuer h2

theorem Kept.drainQuad {core : Nat} {e : StoreEntry} {l : StoreLane} {b : Nat} (hs : Kept s₀ s) :
    Kept s₀ (State.drainQuad s core e l b) := by
  unfold State.drainQuad
  refine .ite ?_ ?_
  · exact hs.failStore
  · extract_lets +onlyGivenNames s1 s2 s3
    have h1 : Kept s₀ s1 := hs.quadWrite
    have h2 : Kept s₀ s2 := h1.modQLine
    have h3 : Kept s₀ s3 := h2.modThread
    exact h3.laneDone

theorem Kept.parkIssuer {t : Tid} {i tseq seq : Nat} (hs : Kept s₀ s) : Kept s₀ (State.parkIssuer s t i tseq seq) := by
  unfold State.parkIssuer
  extract_lets +onlyGivenNames sp
  exact .ite hs hs.modThread

theorem Kept.drainSector {core : Nat} {e : StoreEntry} {l : StoreLane} {b : Nat} (hs : Kept s₀ s) :
    Kept s₀ (State.drainSector s core e l b) := by
  unfold State.drainSector
  split
  · exact hs.scratchWrite.laneDone
  · split
    · next heq =>
      have h1 := Kept.fst heq hs.askAll
      exact .ite h1.drainHome h1.drainQuad
    · next heq => exact (Kept.fst heq hs.askAll).parkIssuer
    · next heq => exact (Kept.fst heq hs.askAll).failStore

theorem Kept.rillServed {t : Tid} (hs : Kept s₀ s) : Kept s₀ (State.rillServed s t) := by
  unfold State.rillServed
  extract_lets +onlyGivenNames note
  exact hs.modLaunch

theorem Kept.takeResults {core ctx tag : Nat} (hs : Kept s₀ s) : Kept s₀ (State.takeResults s core ctx tag) :=
  .foldl hs fun _ _ hs => .ite hs.modThread.unpark hs

theorem Kept.enterRecord {core : Nat} {w : Word} (hs : Kept s₀ s) : Kept s₀ (State.enterRecord s core w) := by
  unfold State.enterRecord
  extract_lets +onlyGivenNames s1
  have h1 : Kept s₀ s1 := hs.modCore
  exact .ite h1 h1.takeResults

theorem Kept.postRecord {core : Nat} {w : Word} (hs : Kept s₀ s) : Kept s₀ (State.postRecord s core w) := .ite hs.enterRecord hs.modCore

theorem Kept.failLaunch {lid status detail : Nat} (hs : Kept s₀ s) : Kept s₀ (State.failLaunch s lid status detail) := hs.modLaunch

theorem Kept.rereadWait {lid i : Nat} (hs : Kept s₀ s) : Kept s₀ (State.rereadWait s lid i) := by
  unfold State.rereadWait
  extract_lets +onlyGivenNames l
  split
  · exact hs
  · refine .ite hs ?_
    extract_lets +onlyGivenNames note
    split
    · next heq => exact (Kept.fst heq hs.ask).farRead.modLaunch
    · next heq => exact (Kept.fst heq hs.ask).modLaunch
    · next heq => exact (Kept.fst heq hs.ask).failLaunch

theorem Kept.rereadWaits {lid : Nat} (hs : Kept s₀ s) : Kept s₀ (State.rereadWaits s lid) := .foldl hs fun _ _ hs => hs.rereadWait

theorem Kept.modQueue {fn q : Nat} {f : Queue → Queue} (hs : Kept s₀ s) : Kept s₀ (State.modQueue s fn q f) := hs.modFn

theorem Kept.stopQueue {fn q reason : Nat} (hs : Kept s₀ s) : Kept s₀ (State.stopQueue s fn q reason) := hs.modQueue

theorem Kept.ringDoorbell {fn q : Nat} {v : Word} (hs : Kept s₀ s) : Kept s₀ (State.ringDoorbell s fn q v) := by
  unfold State.ringDoorbell
  extract_lets +onlyGivenNames x p d
  exact .ite hs (.ite hs.stopQueue (.ite hs (.ite hs.stopQueue (.ite hs.stopQueue hs.modQueue))))

theorem Kept.fetchRest {fn : Nat} {ws : List Word} (hs : Kept s₀ s) : Kept s₀ (State.fetchRest s fn ws).1 := by
  unfold State.fetchRest
  extract_lets +onlyGivenNames base l n tasks
  split
  · next heq => exact .fst heq hs.askAll
  · next heq => exact .fst heq hs.askAll
  · next heq =>
    have h1 := Kept.fst heq hs.askAll
    split
    · next heq => exact .fst heq h1.ask
    · next heq => exact .fst heq h1.ask
    · next heq =>
      have h2 := Kept.fst heq h1.ask
      exact (Kept.ite h2 h2.farRead).farRead.farRead

/-- The packet of a launch that has been read. -/
theorem Kept.fetched (fn : Nat) (ws : List Word) (bad : Option Nat) (hs : Kept s₀ s) :
    Kept s₀ (match bad with
      | some i => (s, some (ws, [], [], some (1, i)))
      | none => s.fetchRest fn ws : State × Fetched).1 := by
  cases bad with
  | some i => exact hs
  | none => exact hs.fetchRest

theorem Kept.fetchLaunch {fn q : Nat} (hs : Kept s₀ s) : Kept s₀ (State.fetchLaunch s fn q).1 := by
  unfold State.fetchLaunch
  extract_lets +onlyGivenNames at_
  split
  · next heq => exact .fst heq hs.ask
  · next heq => exact .fst heq hs.ask
  · next heq =>
    exact fetched _ _ _ (Kept.fst heq hs.ask).farRead

theorem Kept.placeBlock {lid core block gslot : Nat} {b : Bind} {runs : List (Nat × Nat)} (hs : Kept s₀ s) :
    Kept s₀ (State.placeBlock s lid core block gslot b runs) := by
  unfold State.placeBlock
  extract_lets +onlyGivenNames l first ctx x s1 s2 s3 s4 s5
  have h1 : Kept s₀ s1 := .ite hs.modCore hs
  have h2 : Kept s₀ s2 := h1.setBlock
  have h3 : Kept s₀ s3 := .ite h2 h2.modThread
  have h4 : Kept s₀ s4 := .foldl h3 fun _ _ hs => hs.startWarp
  have h5 : Kept s₀ s5 := .ite h4 (.foldl h4 fun _ _ hs => hs.acquire)
  exact h5.checkBlock

theorem Kept.placeNext {lid : Nat} {b : Bind} {cores : List Nat} (hs : Kept s₀ s) : Kept s₀ (State.placeNext s lid b cores) := by
  unfold State.placeNext
  extract_lets +onlyGivenNames l l first runs l s1
  have h1 : Kept s₀ s1 := hs.setLaunch
  exact .foldl h1 fun _ _ hs => hs.placeBlock

theorem Kept.standAfter {die slot : Nat} (hs : Kept s₀ s) : Kept s₀ (State.standAfter s die slot) := by
  unfold State.standAfter
  extract_lets +onlyGivenNames es d lv fresh one st d
  exact hs.of rfl

theorem Kept.dropBand {quad : Nat} {bit : BitVec 4} (hs : Kept s₀ s) : Kept s₀ (State.dropBand s quad bit) := by
  unfold State.dropBand
  extract_lets +onlyGivenNames s1
  have h1 : Kept s₀ s1 := hs.of rfl
  exact .foldl h1 fun _ _ hs => hs.modBlock

theorem Kept.passRills {die : Nat} (hs : Kept s₀ s) : Kept s₀ (State.passRills s die) := hs.of rfl

theorem Kept.askToYield {ps : List (Nat × Nat)} (hs : Kept s₀ s) : Kept s₀ (State.askToYield s ps) := .foldl hs fun _ _ hs => hs.modBlock

theorem Kept.modWeir {gen : Nat} {f : Weir → Weir} (hs : Kept s₀ s) : Kept s₀ (State.modWeir s gen f) := hs.of rfl

theorem Kept.restartBlock {scope : Nat} {p : Nat × Nat} (hs : Kept s₀ s) : Kept s₀ (State.restartBlock s scope p) := by
  unfold State.restartBlock
  extract_lets +onlyGivenNames x
  exact (Kept.foldl hs fun _ _ hs => .ite hs.acquire.modThread hs).setSync

theorem Kept.takePods {w : Weir} (hs : Kept s₀ s) : Kept s₀ (State.takePods s w) := .ite hs hs.modLaunch

theorem Kept.writeObject {core a : Nat} {phase : Bool} {pend : Nat} {bytes : Int} {count gen : Nat} (hs : Kept s₀ s) :
    Kept s₀ (State.writeObject s core a phase pend bytes count gen) :=
  hs.scratchWrite

theorem Kept.objectOp {core : Nat} {o : ObjOp} (hs : Kept s₀ s) : Kept s₀ (State.objectOp s core o) := by
  unfold State.objectOp
  extract_lets +onlyGivenNames w w0 phase pend bytes count gen after answer refuse
  have ha : ∀ {s pend bytes}, Kept s₀ s → Kept s₀ (after s pend bytes) := fun hs => .ite hs.writeObject hs.writeObject
  have hanswer : ∀ {s v}, Kept s₀ s → Kept s₀ (answer s v) := fun hs => hs.modThread
  have hrefuse : ∀ {s}, Kept s₀ s → Kept s₀ (refuse s) := fun hs => hs.modThread
  split
  · exact hs.writeObject
  · exact .ite (hrefuse hs) (ha hs)
  · exact .ite (hrefuse (hanswer hs)) (hanswer (ha hs))
  · exact ha hs
  · exact .ite (hanswer hs.joinAcquire) (hanswer hs)

theorem Kept.endAcquire {t : Tid} {a : Acquire} (hs : Kept s₀ s) : Kept s₀ (State.endAcquire s t a) := hs.acquireFrom.modThread

theorem Kept.moveWeirs {lid : Nat} {p q : Nat × Nat} (hs : Kept s₀ s) : Kept s₀ (State.moveWeirs s lid p q) := hs.of rfl

theorem Kept.modCmd {c : Cmd} {f : Cmd → Cmd} (hs : Kept s₀ s) : Kept s₀ (State.modCmd s c f) := hs.of rfl

theorem Kept.enterArray {c : Cmd} {wtag : Nat} (hs : Kept s₀ s) : Kept s₀ (State.enterArray s c wtag) := hs.modCmd

theorem Kept.modProgress {c : Cmd} {f : Progress → Progress} (hs : Kept s₀ s) : Kept s₀ (State.modProgress s c f) := by
  unfold State.modProgress
  extract_lets +onlyGivenNames g
  exact .ite hs.modCmd hs.modBlock

theorem Kept.semAdd {core i v : Nat} (hs : Kept s₀ s) : Kept s₀ (State.semAdd s core i v) := hs.modCore

theorem Kept.repost {core ctx : Nat} {ws : List Word} (hs : Kept s₀ s) : Kept s₀ (State.repost s core ctx ws) := by
  unfold State.repost
  extract_lets +onlyGivenNames mine
  exact .foldl hs fun _ _ hs => hs.postRecord

theorem Kept.takeLine {gen : Nat} (hs : Kept s₀ s) : Kept s₀ (State.takeLine s gen) := .ite hs.modWeir hs

theorem Kept.takeLines {lid : Nat} (hs : Kept s₀ s) : Kept s₀ (State.takeLines s lid) := .foldl hs fun _ _ hs => .ite hs.takeLine hs

theorem Kept.restoreBlock {i core : Nat} {v : Saved} (hs : Kept s₀ s) : Kept s₀ (State.restoreBlock s i core v) := by
  unfold State.restoreBlock
  extract_lets +onlyGivenNames l bind first ctx base powered b
  have h1 : Kept s₀ (if first then s.modCore core fun c => { c.takeFirst v.block.fn bind with sems := v.sems }
      else (List.range 32).foldl (fun s j => s.semAdd core j (v.sems.getD j 0#16).toNat) s) :=
    .ite hs.modCore (.foldl hs fun _ _ hs => hs.semAdd)
  extract_lets +onlyGivenNames s0 s1 s2 s3 s4 s5 s6 s7 s8 s9
  have h4 : Kept s₀ s4 := h1.setBlock.scratchWrite.modQuad
  have h5 : Kept s₀ s5 := .foldl h4 fun _ _ hs => hs.setThread
  have h7 : Kept s₀ s7 := .foldl h5.repost fun _ _ hs => hs.acquire.syncPlaces
  have h9 : Kept s₀ s9 := Kept.takeLines (Kept.moveWeirs (h7.of rfl))
  exact .ite h9.modQuad h9

theorem Kept.leaseOver {core ctx : Nat} (hs : Kept s₀ s) : Kept s₀ (State.leaseOver s core ctx) := by
  unfold State.leaseOver
  split
  · exact hs
  · exact (Kept.foldl hs fun _ _ hs => hs.modThread).modBlock

theorem Kept.finishResume {core ctx : Nat} (hs : Kept s₀ s) : Kept s₀ (State.finishResume s core ctx) := by
  unfold State.finishResume
  extract_lets +onlyGivenNames parked match_ go s1 s2
  have h1 : Kept s₀ s1 := .foldl hs fun _ _ hs => hs.modCmd.modProgress
  have h2 : Kept s₀ s2 := h1.leaseOver
  split
  · exact h2
  · exact h2.takeTrap

theorem Kept.dropOrphan {c : Cmd} (hs : Kept s₀ s) : Kept s₀ (State.dropOrphan s c) := by
  unfold State.dropOrphan
  extract_lets +onlyGivenNames s1
  have h1 : Kept s₀ s1 := hs.of rfl
  split
  · exact h1
  · exact .ite h1 h1.modQuad

-- no state arg: Sys2Proof.Machine.Elem.inner
theorem Kept.setLoadPlane {core : Nat} {p : Plane} (hs : Kept s₀ s) : Kept s₀ (State.setLoadPlane s core p) := by
  unfold State.setLoadPlane
  exact hs.modQuad

theorem Kept.setLatch {core : Nat} {p : Plane} (hs : Kept s₀ s) : Kept s₀ (State.setLatch s core p) := hs.modQuad

theorem Kept.swapPlanes {core : Nat} (hs : Kept s₀ s) : Kept s₀ (State.swapPlanes s core) := by
  unfold State.swapPlanes
  extract_lets +onlyGivenNames p
  exact .ite hs.setLatch.setLoadPlane hs.modQuad

theorem Kept.setWorkPlane {core : Nat} {p : Plane} (hs : Kept s₀ s) : Kept s₀ (State.setWorkPlane s core p) := .ite hs.setLatch hs.modQuad

theorem Kept.reachRef {c : Cmd} {write : Bool} {r : Ref} (hs : Kept s₀ s) : Kept s₀ (State.reachRef s c write r).1 := by
  unfold State.reachRef
  extract_lets +onlyGivenNames poison
  split
  · exact hs
  · split
    · exact hs
    · split
      · next heq => exact .fst heq hs.ask
      · next heq => exact .fst heq hs.ask
      · next heq => exact .fst heq hs.ask
  · exact hs

theorem Kept.strikeIssuer {c : Cmd} {cause p : Nat} {miss : Option Nat} (hs : Kept s₀ s) :
    Kept s₀ (State.strikeIssuer s c cause p miss) :=
  hs.modThread

theorem Kept.faultCommand {c : Cmd} {cause : Nat} (hs : Kept s₀ s) : Kept s₀ (State.faultCommand s c cause) := by
  unfold State.faultCommand
  refine .ite ?_ ?_
  · exact hs.dropOrphan
  · extract_lets +onlyGivenNames p miss s1 s2 s3
    have h1 : Kept s₀ s1 := hs.modProgress
    have h2 : Kept s₀ s2 := h1.modCmd
    have h3 : Kept s₀ s3 := .ite h2.modQuad h2
    exact h3.strikeIssuer

theorem Kept.overload {core : Nat} (hs : Kept s₀ s) : Kept s₀ (State.overload s core) := .ite hs.setLatch hs

theorem Kept.startMx {c : Cmd} (hs : Kept s₀ s) : Kept s₀ (State.startMx s c) := by
  unfold State.startMx
  split
  · exact (Kept.ite hs hs.setLoadPlane.modProgress).overload
  · exact hs.modCmd
  · exact hs

theorem Kept.reachAll {c : Cmd} {write : Bool} {rs : List Ref} (hs : Kept s₀ s) : Kept s₀ (State.reachAll s c write rs).1 := by
  induction rs generalizing s with
  | nil => exact hs
  | cons r rs ih =>
    unfold State.reachAll
    split
    · next heq => exact ih (.fst heq hs.reachRef)
    · exact hs.reachRef

theorem Kept.reachElem {c : Cmd} {x : Elem} (hs : Kept s₀ s) : Kept s₀ (State.reachElem s c x).1 := by
  unfold State.reachElem
  split
  · next heq =>
    have h1 := Kept.fst heq hs.reachAll
    split
    · exact h1
    · split
      · exact h1
      · exact h1.reachAll
  · exact hs.reachAll

theorem Kept.podReads {c : Cmd} {rs : List Ref} (hs : Kept s₀ s) : Kept s₀ (State.podReads s c rs) := .foldl hs fun _ _ hs => hs.farRead

theorem Kept.readyLine {core fn key : Nat} (hs : Kept s₀ s) : Kept s₀ (State.readyLine s core fn key) := by
  unfold State.readyLine
  extract_lets +onlyGivenNames a
  refine .ite ?_ ?_
  · exact hs
  · extract_lets +onlyGivenNames s1
    have h1 : Kept s₀ s1 := .foldl hs fun _ _ hs => hs.publishNow
    exact .ite h1.modDir (.ite h1.seizeToken h1)

theorem Kept.systemStore {core fn : Nat} {cells : List Host.Cell} (hs : Kept s₀ s) :
    Kept s₀ (State.systemStore s core fn cells) := by
  unfold State.systemStore
  extract_lets +onlyGivenNames keys s1
  have h1 : Kept s₀ s1 := .foldl hs fun _ _ hs => hs.readyLine
  exact .foldl h1 fun _ _ hs => hs.sysWrite

theorem Kept.tell {c : Cmd} {bytes : Nat} (hs : Kept s₀ s) : Kept s₀ (State.tell s c bytes) := by
  unfold State.tell
  split
  · exact hs
  · exact hs.modCore

theorem Kept.commitAt {c : Cmd} {p : Nat × Nat} (hs : Kept s₀ s) : Kept s₀ (State.commitAt s c p) := by
  unfold State.commitAt
  extract_lets +onlyGivenNames s1 s2 s3
  have h1 : Kept s₀ s1 := hs.modCmd
  have h2 : Kept s₀ s2 := h1.modProgress
  have h3 : Kept s₀ s3 := .ite h2.modProgress (.ite h2.modProgress h2.modProgress.modCmd)
  exact .ite h3.tell h3

theorem Kept.handOver {c d : Cmd} {src dst : List Ref} (hs : Kept s₀ s) : Kept s₀ (State.handOver s c d src dst) := by
  unfold State.handOver
  extract_lets +onlyGivenNames p bs s1 s2 s3
  have h1 : Kept s₀ s1 := hs.systemStore
  have h2 : Kept s₀ s2 := h1.modCmd
  have h3 : Kept s₀ s3 := h2.modCmd
  exact .ite h3.commitAt h3

theorem Kept.noteSeen {c : Cmd} {rs : List Ref} (hs : Kept s₀ s) : Kept s₀ (State.noteSeen s c rs) := by
  unfold State.noteSeen
  extract_lets +onlyGivenNames keys
  exact .ite hs hs.modCmd

theorem Kept.grantPages {quad fn : Nat} {cells : List Host.Cell} (hs : Kept s₀ s) : Kept s₀ (State.grantPages s quad fn cells) :=
  hs.modQuad

theorem Kept.observeWrites {core : Nat} {keys : List Nat} (hs : Kept s₀ s) : Kept s₀ (State.observeWrites s core keys) :=
  .foldl hs fun _ _ hs => hs.modThread

theorem Kept.engineGlobal {core fn writer : Nat} {cells : List Host.Cell} (hs : Kept s₀ s) :
    Kept s₀ (State.engineGlobal s core fn writer cells) := by
  unfold State.engineGlobal
  refine .ite ?_ ?_
  · exact hs
  · split
    · exact hs.homeWrite.quadWrite.grantPages.observeWrites

theorem Kept.storeWrite {die : Nat} {cells : List Host.Cell} (hs : Kept s₀ s) : Kept s₀ (State.storeWrite s die cells) := hs.modDie

theorem Kept.writeRefs {c : Cmd} {ws : List (Ref × Byte)} (hs : Kept s₀ s) : Kept s₀ (State.writeRefs s c ws) := by
  unfold State.writeRefs
  extract_lets +onlyGivenNames placed cells near s1 s2 far
  have h1 : Kept s₀ s1 := .foldl hs fun _ _ hs => hs.scratchWrite
  have h2 : Kept s₀ s2 := h1.engineGlobal
  exact .ite h2 h2.storeWrite

theorem Kept.advanceCmd {c : Cmd} (hs : Kept s₀ s) : Kept s₀ (State.advanceCmd s c) := by
  unfold State.advanceCmd
  extract_lets +onlyGivenNames s1
  have h1 : Kept s₀ s1 := hs.modCmd
  split
  · exact .ite h1.modProgress (.ite h1.modProgress h1.modProgress.modCmd)

/-- An element whose effect on the array leaves what `Kept` names. -/
def Gentle (x : Elem) : Prop := ∀ s₀ s : State, Kept s₀ s → Kept s₀ (x.inner s)

theorem gentle_mxwElem (s : State) (c : Cmd) (j e : Nat) : Gentle (s.mxwElem c j e) := fun _ _ hs => hs.setLoadPlane

theorem gentle_mxsElem (c : Cmd) : Gentle (mxsElem c) := fun _ _ hs => hs.swapPlanes

theorem gentle_mxgElem (s : State) (c : Cmd) (j e : Nat) : Gentle (s.mxgElem c j e) := by
  intro s₀ s hs
  unfold State.mxgElem
  split
  · exact hs
  · dsimp only
    exact (Kept.ite hs.setWorkPlane hs).modQuad

theorem gentle_mxdElem (s : State) (c : Cmd) (e : Nat) : Gentle (s.mxdElem c e) := fun _ _ hs => hs.modCmd

theorem gentle_mxzElem (c : Cmd) (e : Nat) : Gentle (mxzElem c e) := by
  intro _ _ hs
  unfold mxzElem
  dsimp only
  exact hs.modQuad

/-- Either way of a choice between elements with no effect on the array. -/
theorem gathered {x y : Elem} (p : Prop) [Decidable p] {s₀ s : State}
    (hs : Kept s₀ s) (hx : x.inner = id) (hy : y.inner = id) :
    Kept s₀ ((if p then x else y).inner s) := by
  split
  · exact hx ▸ hs
  · exact hy ▸ hs

theorem gentle_gatherElem (s : State) (c : Cmd) (scatter : Bool) (i : Nat) : Gentle (s.gatherElem c scatter i) := by
  intro s₀ s hs
  unfold State.gatherElem
  extract_lets +onlyGivenNames src dst list x n
  split
  all_goals exact gathered _ hs rfl rfl

theorem gentle_elemOf (s : State) (c : Cmd) : Gentle (s.elemOf c) := by
  unfold State.elemOf
  extract_lets +onlyGivenNames p
  split
  · exact gentle_mxwElem _ _ _ _
  · exact gentle_mxsElem _
  · exact gentle_mxgElem _ _ _ _
  · exact gentle_mxdElem _ _ _
  · exact gentle_mxzElem _ _
  · exact fun _ _ => id
  · exact gentle_gatherElem _ _ _ _
  · exact gentle_gatherElem _ _ _ _
  · exact fun _ _ => id

theorem gentle_of_nextElem {s : State} {c : Cmd} {x : Elem} (h : s.nextElem c = some x) : Gentle x := by
  unfold State.nextElem at h
  split at h
  · cases h
  · split at h
    · obtain ⟨p, -, rfl⟩ := Option.map_eq_some_iff.mp h
      exact fun _ _ => id
    · cases h
      exact gentle_elemOf s c

theorem Kept.performElem {c : Cmd} {x : Elem} (hx : Gentle x) (hs : Kept s₀ s) : Kept s₀ (State.performElem s c x) := by
  unfold State.performElem
  extract_lets +onlyGivenNames s1
  have h1 : Kept s₀ s1 := (hx _ _ hs.writeRefs).drawn.noteSeen
  exact .ite h1.advanceCmd h1.advanceCmd.tell

theorem Kept.tileResult {c : Cmd} (hs : Kept s₀ s) : Kept s₀ (State.tileResult s c) := by
  unfold State.tileResult
  refine .ite ?_ ?_
  · exact hs
  · extract_lets +onlyGivenNames d0 entry
    exact hs.modCore

theorem Kept.keepDescriptor {c : Cmd} (hs : Kept s₀ s) : Kept s₀ (State.keepDescriptor s c) := .ite hs hs.modBlock

theorem Kept.farExchange {c : Cmd} (hs : Kept s₀ s) : Kept s₀ (State.farExchange s c) := by
  unfold State.farExchange
  extract_lets +onlyGivenNames x
  split
  · next heq => exact .fst heq hs.reachElem
  · next heq => exact (Kept.fst heq hs.reachElem).faultCommand
  · next heq => exact (Kept.fst heq hs.reachElem).systemStore.commitAt.drawn

theorem Kept.thawLanes {core c : Nat} (hs : Kept s₀ s) : Kept s₀ (State.thawLanes s core c) := by
  unfold State.thawLanes
  refine .ite ?_ ?_
  · extract_lets +onlyGivenNames after
    exact hs.modCore
  · exact hs

theorem Kept.thawBlock {core ctx : Nat} (hs : Kept s₀ s) : Kept s₀ (State.thawBlock s core ctx) := by
  unfold State.thawBlock
  split
  · exact hs
  · exact ((Kept.foldl hs fun _ _ hs => hs.modThread).modCore).modBlock

theorem Kept.requestOwner {quad key : Nat} {shared : Bool} (hs : Kept s₀ s) : Kept s₀ (State.requestOwner s quad key shared) := by
  unfold State.requestOwner
  split
  · exact hs
  · extract_lets +onlyGivenNames dkey kind
    split
    · split
      · exact hs.sendRequest
      · exact hs.loseLocal
    · split
      · next heq => exact (Kept.fst heq hs.ask).sendRequest
      · next heq => exact .fst heq hs.ask

theorem Kept.performUncached {core : Nat} {e : AtomEntry} {addr : Nat} (hs : Kept s₀ s) :
    Kept s₀ (State.performUncached s core e addr) := by
  unfold State.performUncached
  extract_lets +onlyGivenNames m
  split
  · exact (Kept.ite hs.homeAtomic.drawn hs.homeAtomic.drawn.logAtom).answerAtom

theorem Kept.sendAtom {core seq addr kind : Nat} (hs : Kept s₀ s) : Kept s₀ (State.sendAtom s core seq addr kind) := by
  unfold State.sendAtom
  split
  · exact hs
  · split
    · next heq => exact (Kept.fst heq hs.ask).failAtom
    · next heq =>
      have h1 := Kept.fst heq hs.ask
      exact .ite h1.parkIssuer h1
    · next heq =>
      have h1 := Kept.fst heq hs.ask
      exact .ite h1.failAtom (.ite h1.performUncached h1.atHome)

theorem Kept.hostAsk {q : HostReq} (hs : Kept s₀ s) : Kept s₀ (State.hostAsk s q) := hs.of rfl

theorem Kept.loadProtocol {w : Word} (hs : Kept s₀ s) : Kept s₀ (State.loadProtocol s w) := .ite hs (hs.of rfl)

/-- The lines of a group are gathered where a function is named. -/
theorem Kept.gatherGroup (own : Option Nat) (key : Nat) (hs : Kept s₀ s) :
    Kept s₀ (match own with
      | some fn => (s.group fn key).foldl (fun (s : State) k => s.gatherLine fn (keyAddr k)) s
      | none => s) := by
  cases own with
  | none => exact hs
  | some fn => exact .foldl hs fun _ _ hs => hs.gatherLine

theorem Kept.spliceOut {quad : Nat} (hs : Kept s₀ s) : Kept s₀ (State.spliceOut s quad) := by
  unfold State.spliceOut
  refine .foldl hs fun s e hs => .foldl hs fun s d hs => ?_
  extract_lets +onlyGivenNames key x own s1 s2 s3 s4 waits queue s5
  have h1 : Kept s₀ s1 := hs.gatherGroup own key
  have h3 : Kept s₀ s3 := (Kept.ite h1.unlink h1 : Kept s₀ s2).modDir
  have h5 : Kept s₀ s5 := (Kept.foldl h3 fun _ _ hs => hs.poisonHome : Kept s₀ s4).modDir
  exact .ite (.foldl h5 fun _ _ hs => hs.atHome) h3

theorem Kept.dropRange {fn base size : Nat} (hs : Kept s₀ s) : Kept s₀ (State.dropRange s fn base size) := by
  unfold State.dropRange
  extract_lets +onlyGivenNames tag inside keys s1
  have h1 : Kept s₀ s1 := .foldl hs fun _ _ hs => hs.gatherLine
  exact h1.of rfl

theorem Kept.clearToken {rid : Nat} (hs : Kept s₀ s) : Kept s₀ (State.clearToken s rid) := hs.of rfl

theorem Kept.writeRange {fn i : Nat} {ws : List Word} (hs : Kept s₀ s) : Kept s₀ (State.writeRange s fn i ws) := by
  unfold State.writeRange
  extract_lets +onlyGivenNames old r put s1
  have h1 : Kept s₀ s1 := hs.modFn
  refine .ite ?_ (.ite h1 (.ite h1.modFn h1.modFn.clearToken))
  have h2 : Kept s₀ (if old.valid then s1.dropRange fn old.base old.size else s1) := .ite h1.dropRange h1
  exact h2.modFn.clearToken

theorem Kept.newKey {fn : Nat} (hs : Kept s₀ s) : Kept s₀ (State.newKey s fn) := by
  unfold State.newKey
  extract_lets +onlyGivenNames n
  exact Kept.modFn (hs.of rfl)

theorem Kept.enableFunction {fn : Nat} (hs : Kept s₀ s) : Kept s₀ (State.enableFunction s fn) := .ite hs hs.newKey.modFn

theorem Kept.resetFunction {fn : Nat} (hs : Kept s₀ s) : Kept s₀ (State.resetFunction s fn) := hs.fence.setFn.newKey

theorem Kept.writeWindow {fn die : Nat} {w : Word} (hs : Kept s₀ s) : Kept s₀ (State.writeWindow s fn die w) := .ite hs hs.modFn

theorem Kept.failPage {quad fn page cause : Nat} (hs : Kept s₀ s) : Kept s₀ (State.failPage s quad fn page cause) :=
  .foldl hs fun _ _ hs => .foldl hs fun _ _ hs => .ite (.foldl hs fun _ _ hs => (by split; exact hs.failStore; exact hs)) hs

theorem Kept.fnError {fn : Nat} (hs : Kept s₀ s) : Kept s₀ (State.fnError s fn) := hs.modFn

theorem Kept.applyLog {die : Nat} {e : LogEntry} (hs : Kept s₀ s) : Kept s₀ (State.applyLog s die e) := by
  unfold State.applyLog
  extract_lets +onlyGivenNames s1 s2 name s3
  have h1 : Kept s₀ s1 := .foldl hs fun _ _ hs => hs.purgeLine
  have h2 : Kept s₀ s2 := .ite h1 (.foldl h1 fun _ _ hs => .ite hs hs.modCore)
  have h3 : Kept s₀ s3 := .ite h2 (.foldl h2 fun _ _ hs => .ite hs hs.modQuad)
  exact h3.modDie

theorem Kept.pendAt {t : Tid} {p : PendingTrap} (hs : Kept s₀ s) : Kept s₀ (State.pendAt s t p) := by
  unfold State.pendAt
  refine .ite ?_ ?_
  · extract_lets +onlyGivenNames a w
    exact hs.frameStore
  · exact hs.modThread

theorem Kept.pendEvent {t : Tid} {cause : Nat} {v : Word} (hs : Kept s₀ s) : Kept s₀ (State.pendEvent s t cause v) :=
  .ite hs (.ite hs.pendAt hs)

theorem Kept.countError {site : ErrorSite} {hard : Bool} (hs : Kept s₀ s) : Kept s₀ (State.countError s site hard) := by
  unfold State.countError
  split
  · exact hs.modDie

theorem Kept.strikeLine {quad key sector : Nat} (hs : Kept s₀ s) : Kept s₀ (State.strikeLine s quad key sector) := by
  unfold State.strikeLine
  extract_lets +onlyGivenNames x hit locals
  refine .ite ?_ ?_
  · exact hs
  · extract_lets +onlyGivenNames m s1 left s2
    have h1 : Kept s₀ s1 := hs.poisonHome
    have h2 : Kept s₀ s2 := h1.modQLine
    exact .ite h2.linePublished h2

theorem Kept.strike {x1 : ErrorSite} (hs : Kept s₀ s) : Kept s₀ (State.strike s x1) := by
  unfold State.strike
  split
  · exact hs.of rfl
  · exact .ite hs.drawn (Kept.drawn (hs.of rfl))
  · exact hs.strikeLine.drawn
  · exact hs.modCore
  · exact hs.modDie
  · exact .ite hs.modBlock hs.modThread
  · exact hs.modCore
  · exact hs.modQuad
  · exact hs.modQuad

theorem Kept.dropQuadCache {quad : Nat} (hs : Kept s₀ s) : Kept s₀ (State.dropQuadCache s quad) := by
  unfold State.dropQuadCache
  refine .ite ?_ ?_
  · exact hs.modQuad
  · extract_lets +onlyGivenNames s1
    have h1 : Kept s₀ s1 := hs.spliceOut
    exact Kept.modQuad (h1.of rfl)

theorem Kept.loseDie {die : Nat} (hs : Kept s₀ s) : Kept s₀ (State.loseDie s die) := by
  unfold State.loseDie
  extract_lets +onlyGivenNames s1 s2 s3 s4 s5 s6
  have h1 : Kept s₀ s1 := hs.modDie
  have h2 : Kept s₀ s2 := .foldl h1 fun _ _ hs => hs.fence
  have h3 : Kept s₀ s3 := .foldl h2 fun _ _ hs => .ite hs (.ite hs.endWorkGroup hs.fence)
  have h4 : Kept s₀ s4 := .foldl h3 fun _ _ hs => hs.dropQuadCache
  have h5 : Kept s₀ s5 := .foldl h4 fun _ _ hs => .ite hs hs.modCore
  have h6 : Kept s₀ s6 := h5.modDie
  exact h6.passRills

theorem Kept.recordInc {agent : Nat} {v : BitVec 16} (hs : Kept s₀ s) : Kept s₀ (State.recordInc s agent v) :=
  .foldl hs fun _ _ hs => hs.modDie

theorem Kept.rejoinQuad {quad : Nat} (hs : Kept s₀ s) : Kept s₀ (State.rejoinQuad s quad) := by
  unfold State.rejoinQuad
  extract_lets +onlyGivenNames s1
  have h1 : Kept s₀ s1 := hs.spliceOut.modQuad
  exact h1.recordInc

theorem Kept.dispatched (d : Tab Dispatcher) (hs : Kept s₀ s) : Kept s₀ { s with dispatchers := d } := hs.of rfl

theorem Kept.rejoinDie {die : Nat} (hs : Kept s₀ s) : Kept s₀ (State.rejoinDie s die) := by
  unfold State.rejoinDie
  extract_lets +onlyGivenNames fresh s1 s2 s3 blank s4 s5
  have h1 : Kept s₀ s1 := .foldl hs fun _ _ hs => hs.setQuad
  have h2 : Kept s₀ s2 := .foldl h1 fun _ _ hs => hs.setCore
  have h3 : Kept s₀ s3 := h2.dispatched _
  have h5 : Kept s₀ s5 := h3.modDie.recordInc
  exact .foldl h5 fun _ _ hs => hs.recordInc

theorem Kept.modLink {i : Nat} {f : Link → Link} (hs : Kept s₀ s) : Kept s₀ (State.modLink s i f) := hs.of rfl

theorem Kept.bar0Write {fn off : Nat} {w : Word} (hs : Kept s₀ s) : Kept s₀ (State.bar0Write s fn off w) := by
  unfold State.bar0Write
  split
  · exact hs.modFn
  · exact hs.modFn
  · exact hs.modFn
  · exact .ite hs.fnError hs
  · exact hs.modFn
  · exact hs.modFn
  · exact hs.modFn
  · exact hs

theorem Kept.controlWrite {fn i : Nat} {w : Word} (hs : Kept s₀ s) : Kept s₀ (State.controlWrite s fn i w) := by
  unfold State.controlWrite
  refine .ite ?_ ?_
  · extract_lets +onlyGivenNames s1
    have h1 : Kept s₀ s1 := .ite hs.resetFunction hs
    exact .ite h1.enableFunction h1.modFn
  · exact .ite hs.writeWindow hs.modFn

theorem Kept.bar2Write {off : Nat} {w : Word} (hs : Kept s₀ s) : Kept s₀ (State.bar2Write s off w) := by
  unfold State.bar2Write
  refine .ite ?_ ?_
  · extract_lets +onlyGivenNames fn i
    exact .ite hs.modFn hs.writeRange
  · refine .ite ?_ ?_
    · exact hs.controlWrite
    · refine .ite ?_ ?_
      · exact hs.loadProtocol
      · refine .ite ?_ ?_
        · exact hs.of rfl
        · refine .ite ?_ ?_
          · extract_lets +onlyGivenNames i
            exact hs.modDie
          · exact hs

theorem Kept.firmwareWrite {i : Nat} {w : Word} (hs : Kept s₀ s) : Kept s₀ (State.firmwareWrite s i w) := .ite hs.modCore (.ite (hs.of rfl) hs)

end Sys2Proof.Claim
end

section
/-! SUPPORT. A move's meaning answers a later state of the same cycle, and so does an event, where its effect leaves one. -/

open Sys2Proof.Machine

namespace Sys2Proof.Claim

variable {s : State}

/-- An outcome that is a next state of the same cycle, agenda and memory form. -/
def Goes (s : State) (o : Host.Outcome State Fault Refusal) : Prop := ∃ u, o = .next u ∧ Kept s u

/-- An effect that leaves what `Kept` names, from any state. -/
def Keeps (f : State → State) : Prop := ∀ s₀ s : State, Kept s₀ s → Kept s₀ (f s)

theorem Goes.happens {ok : State → Bool} {f : State → State} (h : Keeps f) : Goes s (s.happens ok f) :=
  ⟨_, rfl, .ite (h s s (.refl s)) (.refl s)⟩

theorem Goes.fnWrite {fn : Nat} {f : State → State} (h : Keeps f) : Goes s (s.fnWrite fn f) := .happens h

theorem Goes.spdmAnswer {phase : Nat} {bytes : List Byte} : Goes s (s.spdmAnswer phase bytes) := by
  unfold State.spdmAnswer
  exact .happens fun _ _ hs => Kept.emit (hs.of rfl)

/-- A move whose effect and finish leave what `Kept` names. -/
structure Mild (a : Action) : Prop where
  effect : Keeps a.effect
  finish : Keeps a.finish

theorem kept_hold (a : Action) (s : State) : Kept s (a.hold s) := (Kept.refl s).of rfl

theorem kept_note (a : Action) (s : State) : Kept s (a.note s) := (Kept.refl s).of rfl

theorem Mild.whole {a : Action} (h : Mild a) : Kept s (a.whole s) := by
  unfold Action.whole
  refine .ite (kept_hold a s) ?_
  split
  · exact (Kept.refl s).takeTrap
  · exact h.finish _ _ (h.effect _ _ (.refl s))

theorem Mild.run {a : Action} (h : Mild a) : Kept s (a.run s) := by
  unfold Action.run
  refine .ite (.refl s) ?_
  split
  · exact h.whole
  · exact .ite (kept_hold a s) (kept_note a s)
  · split
    · exact .refl s
    · exact (Kept.refl s).of rfl
  · exact h.effect _ _ (.refl s)
  · exact h.finish _ _ (.refl s)

theorem Mild.goes {a : Action} (h : Mild a) : Goes s (a.outcome s) := ⟨_, rfl, h.run⟩

theorem mild_trigger {h : Head} {r : Reads} {a : Action} (ha : Keeps a.effect) : Mild (Action.trigger h r a) where
  effect := fun s₀ s hs => .ite hs (ha s₀ s hs)
  finish := fun _ _ hs => hs.capture.notePop

theorem mild_alu {h u readsA readsT lat divides op} : Mild (aluAction h u readsA readsT lat divides op) :=
  mild_trigger fun _ _ hs => .ite hs.launchFlight.holdDividers hs.launchFlight

theorem mild_carrying {a : Action} {h u} (ha : Mild a) : Mild (a.carrying h u) := ⟨ha.effect, ha.finish⟩

theorem mild_fp {h u ops op} : Mild (fpAction h u ops op) := mild_trigger fun _ _ hs => hs.launchFlight

theorem mild_atom {h kind op scope} : Mild (atomAction h kind op scope) := mild_trigger fun _ _ hs => hs.enterAtom

theorem mild_special {h op} : Mild (specialAction h op) := mild_trigger fun _ _ hs => hs.launchFlight.holdSpecial

theorem mild_conv {h own op} : Mild (convAction h own op) := mild_trigger fun _ _ hs => hs.launchFlight

theorem mild_cross {h ops poison op other raised} : Mild (crossAction h ops poison op other raised) :=
  mild_trigger fun _ _ hs => hs.launchFlight.launchFlight

theorem mild_collective {h u bcast} : Mild (collectiveAction h u bcast) :=
  mild_trigger fun _ _ hs => hs.farRead.farRead.issueCommand

theorem mild_copy {h u opcode ops recs own} : Mild (copyAction h u opcode ops recs own) :=
  mild_trigger fun _ _ hs => hs.issueCommand

theorem mild_engine {h ops readsT waits takes lease own effect} (he : Keeps effect) :
    Mild (engineAction h ops readsT waits takes lease own effect) := mild_trigger he

theorem mild_control {h readsT own effect} (he : Keeps effect) : Mild (controlAction h readsT own effect) := mild_trigger he

theorem mild_sync {h ops readsT waits own effect} (he : Keeps effect) : Mild (syncAction h ops readsT waits own effect) :=
  mild_trigger he

theorem mild_system {h ops readsT waits own effect} (he : Keeps effect) : Mild (systemAction h ops readsT waits own effect) :=
  mild_trigger he

theorem mild_sluice {h ops readsT waits own effect} (he : Keeps effect) : Mild (sluiceAction h ops readsT waits own effect) :=
  mild_trigger he

theorem mild_sem {h op} : Mild (semAction h op) := mild_sluice fun _ _ hs => hs.modCore.modThread

theorem mild_counter {h op below} : Mild (counterAction h op below) := mild_sluice fun _ _ hs => hs.modLaunch.modBlock

theorem mild_move {h d m} : Mild (moveAction h d m) where
  effect := fun _ _ hs => hs.writeDst
  finish := fun _ _ hs => .ite hs.capture.notePop hs.capture

end Sys2Proof.Claim
end

section
/-! SUPPORT. The moves with an effect of their own go on in their cycle. -/

open Sys2Proof.Machine

namespace Sys2Proof.Claim

variable {s₀ s : State}

theorem goes_execBra {h : Head} : Goes s (execBra h s) := (mild_control fun _ _ hs => hs.goTo).goes

theorem goes_execCall {h : Head} : Goes s (execCall h s) := by
  unfold execCall
  refine (mild_control fun s₀ s hs => ?_).goes
  extract_lets +onlyGivenNames m
  exact hs.modThread.goTo

theorem goes_execRet {h : Head} : Goes s (execRet h s) := (mild_control fun _ _ hs => hs.goTo).goes

theorem goes_execLext {h : Head} : Goes s (execLext h s) := (mild_control fun _ _ hs => hs.modSelfSplit.goTo).goes

theorem goes_execEndTask {h : Head} : Goes s (execEndTask h s) := (mild_control fun _ _ hs => .ite hs.endTask hs.vacateWarp).goes

theorem goes_execPsw {h : Head} : Goes s (execPsw h s) := (mild_control fun _ _ hs => .ite hs hs.modSelfSplit).goes

theorem goes_execBrk {h : Head} : Goes s (execBrk h s) := (mild_control fun _ _ hs => hs.noteAfter).goes

theorem goes_execWait {h : Head} : Goes s (execWait h s) := (mild_control fun _ _ hs => hs.modSelfSplit).goes

theorem goes_execBar {h : Head} : Goes s (execBar h s) := by
  unfold execBar
  refine (mild_sync fun s₀ s hs => ?_).goes
  extract_lets +onlyGivenNames v
  have h1 : Kept s₀ ((s.arrive v).1.waitSelf 1 (s.arrive v).2 0#32) := hs.arrive.waitSelf
  dsimp only
  split
  · exact .ite h1.modThread h1
  · exact h1

theorem goes_execBara {h : Head} : Goes s (execBara h s) := (mild_sync fun _ _ hs => hs.arrive.sendFill).goes

theorem goes_execBarw {h : Head} : Goes s (execBarw h s) := by
  unfold execBarw
  refine (mild_sync fun s₀ s hs => ?_).goes
  extract_lets +onlyGivenNames v
  exact .ite hs.joinAcquire hs.waitSelf

theorem goes_execSync {h : Head} : Goes s (execSync h s) := by
  unfold execSync
  refine (mild_sync fun s₀ s hs => ?_).goes
  extract_lets +onlyGivenNames v scope t s1
  have h1 : Kept s₀ s1 := hs.release.syncArrive
  exact h1.waitSelf

theorem goes_execBoi {h : Head} : Goes s (execBoi h s) := (mild_sync fun _ _ hs => hs.sendObject).goes

theorem goes_execBox {h : Head} : Goes s (execBox h s) := (mild_sync fun _ _ hs => hs.sendObject).goes

theorem goes_execBoa {h : Head} : Goes s (execBoa h s) := by
  unfold execBoa
  refine (mild_sync fun s₀ s hs => ?_).goes
  extract_lets +onlyGivenNames a v m
  exact hs.release.sendObject.modThread

theorem goes_execBow {h : Head} : Goes s (execBow h s) := by
  unfold execBow
  refine (mild_sync fun s₀ s hs => ?_).goes
  extract_lets +onlyGivenNames a w1
  exact .ite hs.startAcquire hs.waitSelf

theorem goes_execBot {h : Head} : Goes s (execBot h s) := by
  unfold execBot
  refine (mild_sync fun s₀ s hs => ?_).goes
  extract_lets +onlyGivenNames m
  exact hs.sendObject.modThread

theorem goes_execRel {h : Head} {e : Scope} : Goes s (execRel h e s) := (mild_sync fun _ _ hs => hs.release).goes

theorem goes_execAcq {h : Head} {e : Scope} : Goes s (execAcq h e s) := (mild_sync fun _ _ hs => hs.startAcquire).goes

theorem goes_execFen {h : Head} {e : Scope} : Goes s (execFen h e s) := (mild_sync fun _ _ hs => .ite hs hs.release.startAcquire).goes

theorem goes_execCsrr {h : Head} : Goes s (execCsrr h s) := by
  unfold execCsrr
  refine (mild_system fun s₀ s hs => ?_).goes
  extract_lets +onlyGivenNames s1
  have h1 : Kept s₀ s1 := hs.sendFill
  exact .ite h1.modThread h1

theorem goes_execCsrw {h : Head} : Goes s (execCsrw h s) := (mild_system fun _ _ hs => hs.sendFill.writeCsr).goes

theorem goes_execTrap {h : Head} : Goes s (execTrap h s) := (mild_system fun _ _ hs => hs.noteAfter).goes

theorem goes_execRte {h : Head} : Goes s (execRte h s) := (mild_system fun _ _ hs => .ite hs.returnFromTrap.renewWaits hs).goes

theorem goes_execShp {h : Head} : Goes s (execShp h s) := (mild_system fun _ _ hs => hs.modBlock).goes

theorem goes_execObj {h : Head} : Goes s (execObj h s) := (mild_system fun _ _ hs => hs.objApply.modThread).goes

theorem goes_execEvt {h : Head} : Goes s (execEvt h s) := by
  unfold execEvt
  refine (mild_system fun s₀ s hs => ?_).goes
  extract_lets +onlyGivenNames t w s1
  have h1 : Kept s₀ s1 := hs.release
  exact h1.modCore

theorem goes_execMxw {h : Head} : Goes s (execMxw h s) := by
  unfold execMxw
  refine (mild_engine fun s₀ s hs => ?_).goes
  extract_lets +onlyGivenNames a
  exact hs.issueCommand.countLease

theorem goes_execMxs {h : Head} : Goes s (execMxs h s) := (mild_engine fun _ _ hs => hs.issueCommand.countLease).goes

theorem goes_execMxg {h : Head} : Goes s (execMxg h s) := by
  unfold execMxg
  refine (mild_engine fun s₀ s hs => ?_).goes
  extract_lets +onlyGivenNames a i
  exact hs.issueCommand.countLease

theorem goes_execMxd {h : Head} : Goes s (execMxd h s) := by
  unfold execMxd
  refine (mild_engine fun s₀ s hs => ?_).goes
  extract_lets +onlyGivenNames a
  exact hs.issueCommand.countLease

theorem goes_execMxz {h : Head} : Goes s (execMxz h s) := (mild_engine fun _ _ hs => hs.issueCommand.countLease).goes

theorem goes_execMxr {h : Head} : Goes s (execMxr h s) := by
  unfold execMxr
  refine (mild_engine fun s₀ s hs => ?_).goes
  split
  · exact hs.resumeCommand.countLease
  · exact hs

theorem goes_execMxq {h : Head} : Goes s (execMxq h s) := (mild_engine fun _ _ hs => hs.answerNext).goes

theorem goes_execMxa {h : Head} : Goes s (execMxa h s) := by
  unfold execMxa
  refine (mild_engine fun s₀ s hs => ?_).goes
  extract_lets +onlyGivenNames t powered mask claim old refused c s1 s2
  have h1 : Kept s₀ s1 := hs.modBlock
  have h2 : Kept s₀ s2 := .ite h1 h1.modQuad
  exact h2.answerNext

theorem goes_execCpr {h : Head} {u : Fin 2} : Goes s (execCpr h u s) := by
  unfold execCpr
  refine (mild_engine fun s₀ s hs => ?_).goes
  split
  · exact hs.resumeCommand
  · exact hs

theorem goes_execCpq {h : Head} {u : Fin 2} : Goes s (execCpq h u s) := (mild_engine fun _ _ hs => hs.answerNext).goes

theorem goes_execDqp {h : Head} : Goes s (execDqp h s) := (mild_sluice fun _ _ hs => hs.modBlock.freeDecisions).goes

theorem goes_execLacq {h : Head} : Goes s (execLacq h s) := by
  unfold execLacq
  refine (mild_sluice fun s₀ s hs => ?_).goes
  extract_lets +onlyGivenNames t
  exact .ite hs hs.modQuad.modSelfSplit

theorem goes_execLrel {h : Head} : Goes s (execLrel h s) := by
  unfold execLrel
  refine (mild_sluice fun s₀ s hs => ?_).goes
  extract_lets +onlyGivenNames t
  exact .ite hs hs.modQuad

theorem goes_execTarm {h : Head} : Goes s (execTarm h s) := (mild_sluice fun _ _ hs => hs.setArmed).goes

theorem goes_execTdis {h : Head} : Goes s (execTdis h s) := (mild_sluice fun _ _ hs => hs.disarm).goes

theorem goes_execBrc {h : Head} : Goes s (execBrc h s) := (mild_trigger fun _ _ hs => .ite hs.goTo hs.modThread).goes

theorem goes_execJoin {x : Src} {k : Fin 4} : Goes s (execJoin x k s) := by
  refine (mild_trigger fun s₀ s hs => ?_).goes
  dsimp only
  split
  · exact hs.modThread
  · exact hs

theorem goes_execLback {x : Src} {k : Fin 4} : Goes s (execLback x k s) := (mild_trigger fun _ _ hs => hs.closeBody).goes

theorem goes_execLoop {x : Src} {k : Fin 4} : Goes s (execLoop x k s) := by
  refine (mild_trigger fun s₀ s hs => ?_).goes
  dsimp only
  split
  · exact hs.openLoop
  · exact hs

theorem goes_execExit {h : Head} : Goes s (execExit h s) := by
  unfold execExit
  refine (mild_trigger fun s₀ s hs => ?_).goes
  dsimp only
  exact hs.vacateWarp

theorem goes_execRfl {x : Src} {k : Fin 4} : Goes s (execRfl x k s) := (mild_trigger fun _ _ hs => .ite hs.modSelfSplit hs.modThread).goes

theorem goes_execChk {h : Head} : Goes s (execChk h s) := (mild_trigger fun _ _ hs => hs).goes

theorem goes_execLds {h : Head} {wd : Width} : Goes s (execLds h wd s) := (mild_trigger fun _ _ hs => hs.enterLoad).goes

theorem goes_execLdg {h : Head} {wd : Width} {n : Hint} : Goes s (execLdg h wd n s) := (mild_trigger fun _ _ hs => hs.enterLoad).goes

theorem goes_execLdgs {h : Head} {wd : Width} {n : Hint} : Goes s (execLdgs h wd n s) :=
  (mild_trigger fun _ _ hs => hs.enterLoad.drawn).goes

theorem goes_execPfg {h : Head} {wd : Width} {n : Hint} : Goes s (execPfg h wd n s) := by
  refine (mild_trigger fun s₀ s hs => .foldl hs fun u l hu => ?_).goes
  refine .ite hu ?_
  split
  · exact hu.prefetch
  · exact hu

theorem goes_execLdw {h : Head} {wd : Width} : Goes s (execLdw h wd s) := (mild_trigger fun _ _ hs => hs.enterLoad).goes

theorem goes_execSts {h : Head} {wd : Width} : Goes s (execSts h wd s) := (mild_trigger fun _ _ hs => hs.enterStore).goes

theorem goes_execStg {h : Head} {wd : Width} {n : Hint} : Goes s (execStg h wd n s) := (mild_trigger fun _ _ hs => hs.enterStore).goes

end Sys2Proof.Claim
end

section
/-! SUPPORT. The events go on in their cycle. -/

open Sys2Proof.Machine

namespace Sys2Proof.Claim

variable {s₀ s : State}

theorem goes_execResultLanding {t : Tid} : Goes s (execResultLanding t s) := .happens fun _ _ hs => hs.modThread

theorem goes_execDelayExpiry {t : Tid} {i : Nat} : Goes s (execDelayExpiry t i s) := .happens fun _ _ hs => hs.modThread

theorem goes_execWaitExpiry {t : Tid} {i : Nat} : Goes s (execWaitExpiry t i s) := .happens fun _ _ hs => hs.modThread

theorem goes_execLoadDataArrival {t : Tid} {p : LoadPort} {i l : Nat} : Goes s (execLoadDataArrival t p i l s) := by
  unfold execLoadDataArrival
  refine .happens fun s₀ s hs => ?_
  extract_lets +onlyGivenNames parts
  split
  · extract_lets +onlyGivenNames s1
    have h1 : Kept s₀ s1 := .ite hs hs.drawn
    split
    · next heq => exact (Kept.fst heq h1.readPart).deliverPart
    · next heq => exact .fst heq h1.readPart
  · exact hs

theorem goes_execWindowEntry {core : Nat} : Goes s (execWindowEntry core s) := by
  unfold execWindowEntry
  refine .happens fun s₀ s hs => ?_
  split
  · exact hs.modThread
  · exact hs

theorem goes_execAtomicResponse {core seq addr : Nat} : Goes s (execAtomicResponse core seq addr s) := by
  unfold execAtomicResponse
  refine .happens fun s₀ s hs => .ite hs.landAtoms ?_
  split
  · exact hs
  · refine .ite ?_ ?_
    · split
      · next heq => exact (Kept.fst heq hs.ask).failAtom.landAtoms
      · next heq => exact .fst heq hs.ask
    · split
      next u lanes heq =>
      have hu : Kept s₀ u := by
        split at heq
        · exact .fst heq hs.performScratch
        · exact .fst heq hs.performQuad
      exact .ite hu.setAtomLanes hu.setAtomLanes.landAtoms

theorem goes_execAtomicRetry {core seq addr : Nat} : Goes s (execAtomicRetry core seq addr s) := by
  unfold execAtomicRetry
  refine .happens fun s₀ s hs => ?_
  split
  · exact hs
  · exact hs.setAtomLanes

theorem goes_execStoreDrain {core seq : Nat} : Goes s (execStoreDrain core seq s) := by
  unfold execStoreDrain
  refine .happens fun s₀ s hs => ?_
  split
  · exact hs
  · extract_lets +onlyGivenNames bs
    split
    · exact hs.laneDone
    · exact (Kept.ite hs hs.drawn).drainSector

theorem goes_execCodeFetch {core fn line : Nat} : Goes s (execCodeFetch core fn line s) := by
  unfold execCodeFetch
  refine .happens fun s₀ s hs => ?_
  split
  · exact hs
  · exact .foldl (by split; exact hs.ask.farRead.modCore.drawn; exact hs.ask) fun _ _ hs => hs.modThread.unpark

theorem goes_execRillGrant {t : Tid} : Goes s (execRillGrant t s) := by
  unfold execRillGrant
  refine .happens fun s₀ s hs => ?_
  split
  · exact hs
  · exact hs.rillServed.rillTake.modThread

theorem goes_execSequencerPick {core ctx : Nat} : Goes s (execSequencerPick core ctx s) := by
  unfold execSequencerPick
  refine .happens fun s₀ s hs => ?_
  split
  · exact hs
  · exact (Kept.ite hs.modCore.modBlock.joinAcquire hs.modCore.modBlock).modThread

theorem goes_execTaskOverrun {core ctx : Nat} : Goes s (execTaskOverrun core ctx s) := .happens fun _ _ hs => hs.modThread.modBlock

theorem goes_execHeldRecordEntry {core : Nat} : Goes s (execHeldRecordEntry core s) := by
  unfold execHeldRecordEntry
  refine .happens fun s₀ s hs => ?_
  split
  · exact hs.modCore.enterRecord
  · exact hs.modCore.postRecord
  · exact hs

theorem goes_execDoorbell {fn q : Nat} {v : Word} : Goes s (execDoorbell fn q v s) :=
  .fnWrite fun _ _ hs => .foldl hs.ringDoorbell fun _ _ hs => hs.rereadWaits

theorem goes_execLaunchArrival {fn q : Nat} : Goes s (execLaunchArrival fn q s) := by
  unfold execLaunchArrival
  refine .happens fun s₀ s hs => ?_
  split
  · next heq => exact .fst heq hs.fetchLaunch
  · next heq => exact (Kept.rereadWaits (Kept.modQueue (Kept.setLaunch ((Kept.fst heq hs.fetchLaunch).of rfl))))

theorem goes_execWaitReread {lid i : Nat} : Goes s (execWaitReread lid i s) := .happens fun _ _ hs => hs.rereadWait

theorem goes_execBindRecordWrite {slot : Nat} {ws : List Word} : Goes s (execBindRecordWrite slot ws s) := by
  unfold execBindRecordWrite
  refine .happens fun s₀ s hs => ?_
  extract_lets +onlyGivenNames b reason stat
  exact hs.of rfl

theorem goes_execPlacementDecision {die : Nat} : Goes s (execPlacementDecision die s) := by
  unfold execPlacementDecision
  refine .happens fun s₀ s hs => ?_
  split
  · exact hs.failLaunch
  · split
    · exact hs.modCore
    · split
      · exact hs.standAfter.placeNext
      · exact hs

theorem goes_execAgingPromotion {die slot : Nat} : Goes s (execAgingPromotion die slot s) := by
  unfold execAgingPromotion
  refine .happens fun s₀ s hs => ?_
  extract_lets +onlyGivenNames d x d
  exact hs.of rfl

theorem goes_execCompletionRecordPost {lid : Nat} : Goes s (execCompletionRecordPost lid s) := by
  unfold execCompletionRecordPost
  refine .happens fun s₀ s hs => ?_
  extract_lets +onlyGivenNames l
  have h1 : Kept s₀ (if l.packet.isEmpty then (s, .fails 7) else s.ask l.fn l.recAddr 1 s.dispatchWho : State × Ask).1 := by
    split
    · exact hs
    · exact hs.ask
  split
  · next heq => exact .fst heq h1
  · next heq => exact (Kept.fst heq h1).writeRecord

theorem goes_execGrantedLevelWrite {cores : List Nat} {level : Nat} : Goes s (execGrantedLevelWrite cores level s) :=
  .happens fun _ _ hs => .foldl hs fun _ _ hs => hs.modCore

theorem goes_execBandPowerSwitch {quad band : Nat} {on : Bool} : Goes s (execBandPowerSwitch quad band on s) := by
  unfold execBandPowerSwitch
  refine .happens fun s₀ s hs => ?_
  extract_lets +onlyGivenNames bit s1
  have h1 : Kept s₀ s1 := .ite hs hs.dropBand
  exact h1.modQuad

theorem goes_execBandRampDone {quad band : Nat} : Goes s (execBandRampDone quad band s) := .happens fun _ _ hs => hs.modQuad

theorem goes_execThermalEmergency {die : Nat} : Goes s (execThermalEmergency die s) := by
  unfold execThermalEmergency
  refine .happens fun s₀ s hs => ?_
  extract_lets +onlyGivenNames s1 here
  have h1 : Kept s₀ s1 := hs.modDie.emit
  exact h1.askToYield.passRills

theorem goes_execDieOnline {die : Nat} : Goes s (execDieOnline die s) := .happens fun _ _ hs => hs.modDie

theorem goes_execBarrierRestart {t : Tid} {i : Nat} : Goes s (execBarrierRestart t i s) := by
  unfold execBarrierRestart
  refine .happens fun s₀ s hs => ?_
  extract_lets +onlyGivenNames w s1
  have h1 : Kept s₀ s1 := hs.modThread
  split
  · exact h1.startAcquire
  · exact h1.startAcquire
  · exact h1.joinAcquire

theorem goes_execWeirLineGrant {gen : Nat} : Goes s (execWeirLineGrant gen s) := .happens fun _ _ hs => hs.modWeir

theorem goes_execWeirRestart {gen : Nat} : Goes s (execWeirRestart gen s) := by
  unfold execWeirRestart
  refine .happens fun s₀ s hs => ?_
  extract_lets +onlyGivenNames w s1
  have h1 : Kept s₀ s1 := .foldl hs fun _ _ hs => hs.restartBlock
  exact Kept.takePods (h1.of rfl)

theorem goes_execWeirGather {gen die : Nat} : Goes s (execWeirGather gen die s) := .happens fun _ _ hs => hs.modWeir

theorem goes_execRestartProposal {gen die : Nat} : Goes s (execRestartProposal gen die s) := .happens fun _ _ hs => hs.modWeir

theorem goes_execRestartAck {gen die : Nat} : Goes s (execRestartAck gen die s) := .happens fun _ _ hs => hs.modWeir

theorem goes_execRestartConfirm {gen : Nat} : Goes s (execRestartConfirm gen s) := by
  unfold execRestartConfirm
  refine .happens fun s₀ s hs => ?_
  extract_lets +onlyGivenNames ok
  exact hs.modWeir

theorem goes_execPodSyncArrival {lid pkg : Nat} : Goes s (execPodSyncArrival lid pkg s) := by
  unfold execPodSyncArrival
  refine .happens fun s₀ s hs => ?_
  refine .ite ?_ ?_
  · split
    · exact hs.modWeir.emit
    · exact hs
  · exact hs.modLaunch

theorem goes_execBarrierObjectRmw {core : Nat} : Goes s (execBarrierObjectRmw core s) := by
  unfold execBarrierObjectRmw
  refine .happens fun s₀ s hs => ?_
  split
  · exact hs
  · exact hs.modCore.objectOp

theorem goes_execFenceDone {t : Tid} {i : Nat} : Goes s (execFenceDone t i s) := by
  unfold execFenceDone
  refine .happens fun s₀ s hs => ?_
  split
  · exact hs.endAcquire.modThread
  · exact hs.beginAcquire

theorem goes_execWatchdogExpiry {t : Tid} {i : Nat} : Goes s (execWatchdogExpiry t i s) :=
  .happens fun _ _ hs => .ite hs.endWorkGroup hs.modThread

theorem goes_execYieldRequest {core ctx area : Nat} : Goes s (execYieldRequest core ctx area s) :=
  .happens fun _ _ hs => .ite hs.emit hs.askToYield.modBlock

theorem goes_execSafePointStop {t : Tid} {i : Nat} : Goes s (execSafePointStop t i s) := .happens fun _ _ hs => hs.modThread

theorem Kept.savedAs (v : Saved) (p : Cmd → Bool) (hs : Kept s₀ s) :
    Kept s₀ { s with saved := s.saved ++ [v], cmds := s.cmds.filter p } := hs.of rfl

theorem goes_execSave {core ctx : Nat} : Goes s (execSave core ctx s) := by
  unfold execSave
  refine .happens fun s₀ s hs => ?_
  extract_lets +onlyGivenNames s1 b area image
  have h1 : Kept s₀ s1 := .foldl hs fun _ _ hs => hs.publishNow
  refine .ite h1.fence ?_
  extract_lets +onlyGivenNames s2 v s3
  have h2 : Kept s₀ s2 := .foldl h1 fun _ _ hs => by
    split
    · exact hs.recordUse
    · exact hs
  have h3 : Kept s₀ s3 := h2.sysWrite.moveWeirs
  exact (h3.savedAs _ _).vacate

theorem goes_execEnginePark {core ctx tag : Nat} : Goes s (execEnginePark core ctx tag s) := by
  unfold execEnginePark
  refine .happens fun s₀ s hs => ?_
  split
  · exact hs
  · exact ((Kept.ite hs.enterArray hs).modCmd).modProgress

theorem goes_execResume {i core : Nat} : Goes s (execResume i core s) := by
  unfold execResume
  refine .happens fun s₀ s hs => ?_
  split
  · exact hs
  · extract_lets +onlyGivenNames ctx spoilt ends s1 s2
    have h2 : Kept s₀ s2 := .ite hs.restoreBlock hs.restoreBlock.finishResume
    exact .ite (Kept.ite h2.endWorkGroup h2).drawn h2

theorem goes_execEngineCommandStart {core ctx tag : Nat} : Goes s (execEngineCommandStart core ctx tag s) := by
  unfold execEngineCommandStart
  refine .happens fun s₀ s hs => ?_
  split
  · exact hs
  · refine .ite (.foldl hs fun _ _ hs => hs.modProgress.modCmd) ?_
    split
    · exact hs.modProgress.modCmd.enterArray.faultCommand
    · exact hs.startMx.modProgress.modCmd.enterArray

theorem goes_execEngineElementCommit {core ctx tag : Nat} : Goes s (execEngineElementCommit core ctx tag s) := by
  unfold execEngineElementCommit
  refine .happens fun s₀ s hs => ?_
  split
  · exact hs
  · split
    · exact hs
    · next hx =>
      split
      · next heq => exact .fst heq hs.reachElem
      · next heq =>
        have h1 := Kept.fst heq hs.reachElem
        refine .ite ?_ (.performElem (gentle_of_nextElem hx) h1.podReads)
        split
        · exact h1.podReads.handOver.drawn
        · exact h1.podReads

/-- A fault of an element is found in a state of the same cycle. -/
theorem kept_of_elemFault {s u : State} {c : Cmd} {k : Nat} (hs : Kept s₀ s) (h : s.elemFault c = some (u, k)) : Kept s₀ u := by
  have htry (x : Elem) (h : (if s.elemMay c x then match s.reachElem c x with
      | (s, some (some k)) => some (s, k)
      | _ => none
    else none) = some (u, k)) : Kept s₀ u := by
    split at h
    · split at h
      · next heq =>
        cases h
        exact .fst heq hs.reachElem
      · cases h
    · cases h
  unfold State.elemFault at h
  dsimp only at h
  split at h
  · cases h
  · split at h
    · cases h
      exact hs
    · split at h
      · next heq =>
        cases h
        obtain ⟨x, -, hx⟩ := Option.bind_eq_some_iff.mp heq
        exact htry x hx
      · split at h
        · obtain ⟨got, -, hx⟩ := Option.bind_eq_some_iff.mp h
          exact htry _ hx
        · cases h

theorem goes_execEngineElementFault {core ctx tag cause : Nat} : Goes s (execEngineElementFault core ctx tag cause s) := by
  unfold execEngineElementFault
  refine .happens fun s₀ s hs => ?_
  split
  · exact hs
  · split
    · next heq => exact (kept_of_elemFault hs (Option.filter_eq_some_iff.mp heq).1).faultCommand
    · exact hs.faultCommand

theorem goes_execEngineCommandComplete {core ctx tag : Nat} : Goes s (execEngineCommandComplete core ctx tag s) := by
  unfold execEngineCommandComplete
  refine .happens fun s₀ s hs => ?_
  split
  · exact hs
  · extract_lets +onlyGivenNames s1 s2 s3 s4 s5 s6 s7
    have h2 : Kept s₀ s2 := .ite (.foldl hs.tileResult fun _ _ hs => hs.modCmd) hs.tileResult
    have h4 : Kept s₀ s4 := .ite h2.modProgress h2.modProgress.modBlock
    have h6 : Kept s₀ s6 := h4.keepDescriptor.dropOrphan.modCore
    have h7 : Kept s₀ s7 := .ite h6.semAdd h6
    exact .ite h7.postRecord h7.takeResults

theorem goes_execCollectiveParkSignal {core ctx tag : Nat} : Goes s (execCollectiveParkSignal core ctx tag s) := by
  unfold execCollectiveParkSignal
  refine .happens fun s₀ s hs => ?_
  split
  · exact hs
  · exact .foldl hs fun _ _ hs => hs.modCmd

theorem goes_execCollectiveSegmentHandoff {core ctx tag : Nat} : Goes s (execCollectiveSegmentHandoff core ctx tag s) := by
  unfold execCollectiveSegmentHandoff
  refine .happens fun s₀ s hs => ?_
  split
  · exact hs
  · refine .ite hs.farExchange ?_
    split
    · exact hs
    · extract_lets +onlyGivenNames p x
      split
      · next heq => exact .fst heq hs.reachElem
      · next heq => exact (Kept.fst heq hs.reachElem).writeRefs.noteSeen.modCmd.commitAt.drawn

theorem goes_execFreezeWire {lids : List Nat} : Goes s (execFreezeWire lids s) := by
  unfold execFreezeWire
  refine .happens fun s₀ s hs => ?_
  extract_lets +onlyGivenNames s1
  have h1 : Kept s₀ s1 := .foldl hs fun _ _ hs => hs.modBlock
  exact .foldl h1 fun _ _ hs => .ite hs hs.modLaunch

theorem goes_execThaw {lids : List Nat} : Goes s (execThaw lids s) := by
  unfold execThaw
  refine .happens fun s₀ s hs => ?_
  extract_lets +onlyGivenNames since d s1 s2 s3
  have h1 : Kept s₀ s1 := hs.of rfl
  have h2 : Kept s₀ s2 := .foldl h1 fun _ _ hs => hs.thawLanes
  have h3 : Kept s₀ s3 := .foldl h2 fun _ _ hs => hs.thawBlock
  exact .foldl h3 fun _ _ hs => .ite hs hs.modLaunch

theorem goes_execAbandon {core ctx : Nat} : Goes s (execAbandon core ctx s) := by
  unfold execAbandon
  refine .happens fun s₀ s hs => ?_
  extract_lets +onlyGivenNames lid s1
  have h1 : Kept s₀ s1 := hs.endWorkGroup
  exact .ite h1 h1.modLaunch

theorem goes_execScanRead {cores : List Nat} : Goes s (execScanRead cores s) := .happens fun _ _ hs => hs.emit

theorem goes_execLeaseGrant {quad : Nat} : Goes s (execLeaseGrant quad s) := by
  unfold execLeaseGrant
  refine .happens fun s₀ s hs => ?_
  split
  · exact hs
  · exact .ite hs.modQuad.finishResume hs.modQuad.modThread

theorem goes_execMxWindowSwitch {quad : Nat} : Goes s (execMxWindowSwitch quad s) := .happens fun _ _ hs => hs

theorem goes_execTilestUpdate {core : Nat} : Goes s (execTilestUpdate core s) := .happens fun _ _ hs => hs.modCore

theorem goes_execWsBankServe {t : Tid} {i l : Nat} : Goes s (execWsBankServe t i l s) := .happens fun _ _ hs => hs.modThread

theorem goes_execPublication {quad key : Nat} : Goes s (execPublication quad key s) := by
  unfold execPublication
  refine .happens fun s₀ s hs => ?_
  extract_lets +onlyGivenNames x slot
  split
  · exact .ite hs.mergeOwned hs.modQLine
  · exact hs.modQLine

theorem goes_execGets {quad key : Nat} : Goes s (execGets quad key s) := by
  unfold execGets
  refine .happens fun s₀ s hs => ?_
  split
  · exact hs
  · split
    · next heq => exact (Kept.fst heq hs.ask).sendRequest.modQLine
    · next heq => exact .fst heq hs.ask

theorem goes_execGetm {quad key : Nat} : Goes s (execGetm quad key s) := .happens fun _ _ hs => hs.requestOwner

theorem goes_execUpg {quad key : Nat} : Goes s (execUpg quad key s) := .happens fun _ _ hs => hs.requestOwner

theorem goes_execPuts {quad key : Nat} : Goes s (execPuts quad key s) := by
  unfold execPuts
  refine .happens fun s₀ s hs => ?_
  extract_lets +onlyGivenNames fn
  exact hs.dropCoherent.sendRequest

theorem goes_execPutm {quad key : Nat} : Goes s (execPutm quad key s) := by
  unfold execPutm
  refine .happens fun s₀ s hs => ?_
  extract_lets +onlyGivenNames fn bytes
  exact hs.dropCoherent.sendRequest

theorem goes_execPub {quad key : Nat} : Goes s (execPub quad key s) := .happens fun _ _ hs => hs.sendPub

theorem goes_execWack {key : Nat} : Goes s (execWack key s) := .happens fun _ _ hs => hs.endWalk

theorem goes_execDataAnswer {key : Nat} : Goes s (execDataAnswer key s) := .happens fun _ _ hs => hs.ownerAnswers

theorem goes_execAtom {core seq addr : Nat} : Goes s (execAtom core seq addr s) := .happens fun _ _ hs => hs.sendAtom

theorem goes_execHomeRed {core seq addr : Nat} : Goes s (execHomeRed core seq addr s) := .happens fun _ _ hs => hs.sendAtom

theorem goes_execTreq {quad rid : Nat} : Goes s (execTreq quad rid s) := by
  unfold execTreq
  refine .happens fun s₀ s hs => ?_
  extract_lets +onlyGivenNames r t e
  refine .ite ?_ ?_
  · exact hs.setToken
  · extract_lets +onlyGivenNames s1
    have h1 : Kept s₀ s1 := .ite hs.setToken hs
    exact h1.modDie

theorem goes_execTdone {quad rid : Nat} : Goes s (execTdone quad rid s) := by
  unfold execTdone
  refine .happens fun s₀ s hs => ?_
  extract_lets +onlyGivenNames r q
  split
  · exact hs.setToken
  · exact .ite hs.modDie.setToken.setToken hs.modDie.setToken

theorem goes_execInvalidationWalk {key : Nat} : Goes s (execInvalidationWalk key s) := .happens fun _ _ hs => hs.stepInvalidation

theorem goes_execUpdateWalk {key : Nat} : Goes s (execUpdateWalk key s) := .happens fun _ _ hs => hs.stepUpdate

theorem goes_execRecall {key : Nat} : Goes s (execRecall key s) := .happens fun _ _ hs => hs.askOwner

theorem goes_execDowngrade {key : Nat} : Goes s (execDowngrade key s) := .happens fun _ _ hs => hs.askOwner

theorem goes_execTokenDrainRequest {rid : Nat} : Goes s (execTokenDrainRequest rid s) := by
  unfold execTokenDrainRequest
  refine .happens fun s₀ s hs => ?_
  extract_lets +onlyGivenNames q
  exact .foldl hs fun _ _ hs => .ite hs.modQLine hs

theorem goes_execUnlinkAck {quad key : Nat} : Goes s (execUnlinkAck quad key s) := by
  unfold execUnlinkAck
  refine .happens fun s₀ s hs => ?_
  split
  · exact hs.takeUnlink
  · exact hs

theorem goes_execLineGrant {quad key : Nat} : Goes s (execLineGrant quad key s) := by
  unfold execLineGrant
  refine .happens fun s₀ s hs => ?_
  split
  · exact hs.takeGrant
  · exact hs

theorem goes_execHostRead {fn addr n : Nat} : Goes s (execHostRead fn addr n s) := .happens fun _ _ hs => hs.hostAsk

theorem goes_execHostWrite {fn addr : Nat} {bytes : List Byte} : Goes s (execHostWrite fn addr bytes s) :=
  .happens fun _ _ hs => hs.hostAsk

theorem goes_execProtocolLoad {w : Word} : Goes s (execProtocolLoad w s) := .happens fun _ _ hs => hs.loadProtocol

theorem goes_execProtocolVerifyDone : Goes s (execProtocolVerifyDone s) := by
  unfold execProtocolVerifyDone
  refine .happens fun s₀ s hs => ?_
  extract_lets +onlyGivenNames slot ws code p
  exact .ite (hs.of rfl) (hs.of rfl)

theorem goes_execWayGate {quad : Nat} {keys : List Nat} : Goes s (execWayGate quad keys s) := by
  unfold execWayGate
  refine .happens fun s₀ s hs => ?_
  extract_lets +onlyGivenNames held denied s1
  have h1 : Kept s₀ s1 := .foldl hs fun _ _ hs => .ite hs.emit (.ite hs.purgeLine.poisonHome hs)
  exact .ite h1.modQuad h1

theorem goes_execQuadCacheSleep {quad : Nat} : Goes s (execQuadCacheSleep quad s) := by
  unfold execQuadCacheSleep
  refine .happens fun s₀ s hs => ?_
  extract_lets +onlyGivenNames s1 s2
  have h1 : Kept s₀ s1 := .foldl hs fun _ _ hs => hs.publishNow
  have h2 : Kept s₀ s2 := .foldl h1 fun _ _ hs => .ite hs.purgeLine hs
  exact h2.modQuad

theorem goes_execQuadCacheLoss {quad : Nat} : Goes s (execQuadCacheLoss quad s) := by
  unfold execQuadCacheLoss
  refine .happens fun s₀ s hs => ?_
  extract_lets +onlyGivenNames s1 s2
  have h1 : Kept s₀ s1 := hs.spliceOut
  have h2 : Kept s₀ s2 := .foldl h1 fun _ _ hs => .ite hs hs.linePublished
  exact Kept.modQuad (h2.of rfl)

theorem goes_execRangeEntryWrite {fn i : Nat} {ws : List Word} : Goes s (execRangeEntryWrite fn i ws s) :=
  .happens fun _ _ hs => hs.writeRange

theorem goes_execFunctionEnable {fn : Nat} : Goes s (execFunctionEnable fn s) := .happens fun _ _ hs => hs.enableFunction

theorem goes_execFunctionReset {fn : Nat} : Goes s (execFunctionReset fn s) := .happens fun _ _ hs => hs.resetFunction

theorem goes_execFrameWindowWrite {fn die : Nat} {w : Word} : Goes s (execFrameWindowWrite fn die w s) :=
  .happens fun _ _ hs => hs.writeWindow

theorem goes_execPageWalk {die fn page : Nat} : Goes s (execPageWalk die fn page s) := by
  unfold execPageWalk
  refine .happens fun s₀ s hs => ?_
  split
  · exact hs
  · exact .ite hs.ask (.foldl hs.ask fun _ _ hs => .ite hs.modThread.unpark hs)

theorem goes_execWriteGrantRequest {quad fn page : Nat} : Goes s (execWriteGrantRequest quad fn page s) := by
  unfold execWriteGrantRequest
  refine .happens fun s₀ s hs => ?_
  split
  · exact hs
  · split
    · next heq => exact (Kept.fst heq hs.ask).modQuad
    · next heq => exact .foldl (.fst heq hs.ask) fun _ _ hs => .ite hs.parkIssuer hs
    · next heq => exact (Kept.fst heq hs.ask).failPage

theorem goes_execWriteGrantAnswer {quad fn page : Nat} : Goes s (execWriteGrantAnswer quad fn page s) := .happens fun _ _ hs => hs.modQuad

theorem Kept.ringWritten (x y : List Host.Cell)
    (hs : Kept s₀ s) : Kept s₀ { s with hostMem := memWrite (memWrite s.hostMem x) y } :=
  hs.trans ⟨rfl, rfl, rfl, id, fun w => Memory.wf_memWrite (Memory.wf_memWrite w x) y⟩

theorem goes_execFaultEntryWrite {die fn : Nat} : Goes s (execFaultEntryWrite die fn s) := by
  unfold execFaultEntryWrite
  refine .happens fun s₀ s hs => ?_
  split
  · exact hs
  · exact (hs.ringWritten _ _).modDie.modFn.emit

theorem goes_execFqheadWrite {fn : Nat} {w : Word} : Goes s (execFqheadWrite fn w s) := by
  unfold execFqheadWrite
  refine .fnWrite fun s₀ s hs => ?_
  extract_lets +onlyGivenNames f
  exact .ite hs.modFn hs.fnError

theorem goes_execFqctlWrite {fn : Nat} {w : Word} : Goes s (execFqctlWrite fn w s) := .fnWrite fun _ _ hs => .ite hs.fnError hs.modFn

theorem goes_execFqresResolved {fn id : Nat} : Goes s (execFqresResolved fn id s) := by
  unfold execFqresResolved
  refine .fnWrite fun s₀ s hs => ?_
  split
  · exact hs.fnError
  · exact hs.modDie

theorem goes_execFqresNoPage {fn id : Nat} : Goes s (execFqresNoPage fn id s) := by
  unfold execFqresNoPage
  refine .fnWrite fun s₀ s hs => ?_
  split
  · exact hs.fnError
  · exact hs.modDie

theorem goes_execInvalAppend {fn : Nat} {w : Word} : Goes s (execInvalAppend fn w s) := by
  unfold execInvalAppend
  refine .fnWrite fun s₀ s hs => ?_
  extract_lets +onlyGivenNames ws w0 w1 base bad s1
  have h1 : Kept s₀ s1 := hs.modFn
  refine .ite ?_ ?_
  · exact h1.modFn
  · extract_lets +onlyGivenNames n e s2
    have h2 : Kept s₀ s2 := .foldl h1 fun _ _ hs => hs.modDie
    exact Kept.emit (Kept.modFn (h2.of rfl))

theorem goes_execLogApply {die : Nat} : Goes s (execLogApply die s) := by
  unfold execLogApply
  refine .happens fun s₀ s hs => ?_
  split
  · exact hs.applyLog
  · exact hs

theorem goes_execPowerOn {pass : List Bool} : Goes s (execPowerOn pass s) := by
  unfold execPowerOn
  refine .happens fun s₀ s hs => ?_
  extract_lets +onlyGivenNames dies measures pack₁ s1 pack₂ s2
  have h1 : Kept s₀ s1 := hs.of rfl
  have h2 : Kept s₀ s2 := h1.of rfl
  exact h2.enableFunction.drawn

theorem goes_execTimerEvent {cores : List Nat} : Goes s (execTimerEvent cores s) :=
  .happens fun _ _ hs => .foldl hs fun _ _ hs => hs.pendEvent

theorem goes_execExternalEvent {target : EventTarget} {v : Word} : Goes s (execExternalEvent target v s) := by
  unfold execExternalEvent
  refine .happens fun s₀ s hs => ?_
  split
  · exact hs.pendEvent
  · exact hs.pendEvent
  · exact .foldl hs fun _ _ hs => hs.pendEvent

theorem goes_execDbgctlWrite {core : Nat} {w : Word} : Goes s (execDbgctlWrite core w s) := .happens fun _ _ hs => hs.modCore

theorem goes_execSoftError {site : ErrorSite} {hard : Bool} : Goes s (execSoftError site hard s) := by
  unfold execSoftError
  refine .happens fun s₀ s hs => ?_
  extract_lets +onlyGivenNames s1
  have h1 : Kept s₀ s1 := hs.countError
  exact .ite h1.strike h1

theorem goes_execDieLoss {die : Nat} : Goes s (execDieLoss die s) := .happens fun _ _ hs => hs.loseDie

theorem goes_execLinkCrcError {i : Nat} : Goes s (execLinkCrcError i s) := .happens fun _ _ hs => hs.modLink

theorem goes_execLinkWidthChange {i width : Nat} : Goes s (execLinkWidthChange i width s) := .happens fun _ _ hs => hs.modLink

theorem goes_execLinkDown {i : Nat} : Goes s (execLinkDown i s) := by
  unfold execLinkDown
  refine .happens fun s₀ s hs => ?_
  extract_lets +onlyGivenNames s1
  have h1 : Kept s₀ s1 := hs.modLink
  exact .foldl h1 fun _ _ hs => .ite hs.loseDie hs

theorem goes_execConfigRequest {fn : Nat} : Goes s (execConfigRequest fn s) := .happens fun _ _ hs => hs.emit

theorem goes_execFstatusErrorClear {fn : Nat} : Goes s (execFstatusErrorClear fn s) := .happens fun _ _ hs => hs.modFn

theorem goes_execQbaseWrite {fn : Nat} {hi : Bool} {w : Word} : Goes s (execQbaseWrite fn hi w s) := by
  unfold execQbaseWrite
  refine .fnWrite fun s₀ s hs => ?_
  extract_lets +onlyGivenNames q
  exact .ite hs.fnError hs.modQueue

theorem goes_execQueueEnable {fn : Nat} {w : Word} : Goes s (execQueueEnable fn w s) := by
  unfold execQueueEnable
  refine .fnWrite fun s₀ s hs => ?_
  extract_lets +onlyGivenNames q x k
  exact .ite hs.fnError (.ite (.ite hs hs.fnError) hs.modQueue)

theorem goes_execQueueDisable {fn : Nat} {w : Word} : Goes s (execQueueDisable fn w s) := by
  unfold execQueueDisable
  refine .fnWrite fun s₀ s hs => ?_
  extract_lets +onlyGivenNames q x k
  refine .ite ?_ ?_
  · extract_lets +onlyGivenNames s1
    have h1 : Kept s₀ s1 := .ite hs hs.fnError
    exact h1.modQueue
  · exact hs.modQueue

theorem goes_execMxmodeWrite {quad : Nat} {mode win : Word} : Goes s (execMxmodeWrite quad mode win s) := by
  unfold execMxmodeWrite
  refine .happens fun s₀ s hs => ?_
  extract_lets +onlyGivenNames s1
  have h1 : Kept s₀ s1 := .foldl hs fun _ _ hs => hs.modCore
  exact .ite h1.modQuad h1

theorem goes_execVariablePortFill {t : Tid} : Goes s (execVariablePortFill t s) := .happens fun _ _ hs => hs.modThread.unpark

theorem goes_execPodRouteLost {pkg : Nat} : Goes s (execPodRouteLost pkg s) := by
  unfold execPodRouteLost
  refine .happens fun s₀ s hs => ?_
  extract_lets +onlyGivenNames pack₁ s1
  have h1 : Kept s₀ s1 := hs.of rfl
  exact .foldl h1 fun _ _ hs => hs.fence

theorem goes_execDebugResume {core : Nat} : Goes s (execDebugResume core s) :=
  .happens fun _ _ hs => .foldl hs.modCore fun _ _ hs => hs.modThread

theorem goes_execAgentRejoin {agent : Agent} : Goes s (execAgentRejoin agent s) := by
  cases agent with
  | quadCache q =>
    unfold execAgentRejoin
    exact .happens fun _ _ hs => hs.rejoinQuad
  | die d =>
    unfold execAgentRejoin
    exact .happens fun _ _ hs => hs.rejoinDie

theorem goes_execRegisterWrite {fn off : Nat} {w : Word} : Goes s (execRegisterWrite fn off w s) := by
  unfold execRegisterWrite
  split
  · exact .fnWrite fun _ _ hs => hs.bar0Write
  · split
    · exact .happens fun _ _ hs => hs.bar2Write
    · exact .happens fun _ _ hs => hs.firmwareWrite

theorem goes_execTakeTrap {t : Tid} {i cause : Nat} {tval : Word} {telem : Nat}
    : Goes s (execTakeTrap t i cause tval telem s) := by
  unfold execTakeTrap
  refine .happens fun s₀ s hs => ?_
  extract_lets +onlyGivenNames s1 s2
  have h2 : Kept s₀ s2 := (Kept.ite hs.modCore hs : Kept s₀ s1).modThread
  exact .ite h2 h2.takeTrap

theorem goes_execScanWriteBack {t : Tid} {reg l : Nat} {w : Word} : Goes s (execScanWriteBack t reg l w s) := by
  unfold execScanWriteBack
  refine .happens fun s₀ s hs => .ite (.ite hs.modThread hs) (.ite (.ite hs.scratchWrite hs) ?_)
  split
  · split
    · exact hs.sysWrite
    · exact hs
  · exact hs

end Sys2Proof.Claim
end

section
/-! SUPPORT. Every instruction goes on in its cycle, with its memories as they were formed. -/

open Sys2Proof.Machine

namespace Sys2Proof.Claim

/-- What `exec` answers, whatever the instruction: a later state of the same cycle. -/
theorem exec_goes (i : Instr) (s : State) : Goes s (exec i s) := by
  cases i with
  | move => exact mild_move.goes
  | add | sub | rsb | and | or | xor | andn | orn | shl | shr | sar | rol | ror | min | max | minn | maxn | abs
    | addv | subv | mul | mulh | mulhn | div | rem | divn | remn | ads1 | ads2 | ads3 | ads4 | bfe | bfen | popc |
    clz | ctz | brev | bswp | sxb | sxh | zxb | zxh | mova
    => exact mild_alu.goes
  | adc | sbc => exact (mild_carrying mild_alu).goes
  | fma | fms | fnma | fnms | fadd | fsub | fmul | fmin | fmax | fcmp | frnd | fscl | hfma2 | hadd2 | hmul2 |
    bfma2 | badd2 | bmul2 | fdot2h | fdot2b
    => exact mild_fp.goes
  | rcp | rsq | sqrt | ex2 | lg2 | sinr | cosr | tanh => exact mild_special.goes
  | cvt | qntS8 | qntN8 | qntS4 | qntN4 | qntS16 | dqn | pkh | pkb => exact mild_conv.goes
  | shfl | shup | shdn | shxr | bcst | ball | vany | vall | matchPeers | mtcha | wadd | wmin | wmax | wminn |
    wmaxn | wand | wor | wxor | wfadd | scan | scanx | pln | plg
    => exact mild_cross.goes
  | bra => exact goes_execBra
  | brc => exact goes_execBrc
  | join => exact goes_execJoin
  | call => exact goes_execCall
  | ret => exact goes_execRet
  | loop => exact goes_execLoop
  | lback => exact goes_execLback
  | lext => exact goes_execLext
  | exit => exact goes_execExit
  | endTask => exact goes_execEndTask
  | rfl => exact goes_execRfl
  | psw => exact goes_execPsw
  | brk => exact goes_execBrk
  | wait => exact goes_execWait
  | bar => exact goes_execBar
  | bara => exact goes_execBara
  | barw => exact goes_execBarw
  | sync => exact goes_execSync
  | boi => exact goes_execBoi
  | box => exact goes_execBox
  | boa => exact goes_execBoa
  | bow => exact goes_execBow
  | bot => exact goes_execBot
  | rel => exact goes_execRel
  | acq => exact goes_execAcq
  | fen => exact goes_execFen
  | csrr => exact goes_execCsrr
  | csrw => exact goes_execCsrw
  | trap => exact goes_execTrap
  | rte => exact goes_execRte
  | chk => exact goes_execChk
  | shp => exact goes_execShp
  | obj => exact goes_execObj
  | evt => exact goes_execEvt
  | mxw => exact goes_execMxw
  | mxs => exact goes_execMxs
  | mxg => exact goes_execMxg
  | mxd => exact goes_execMxd
  | mxz => exact goes_execMxz
  | mxr => exact goes_execMxr
  | mxq => exact goes_execMxq
  | mxa => exact goes_execMxa
  | cpy | gth | sct | cpf => exact mild_copy.goes
  | ard | bcs => exact mild_collective.goes
  | cpr => exact goes_execCpr
  | cpq => exact goes_execCpq
  | dqp => exact goes_execDqp
  | sinc | sdec | sset => exact mild_sem.goes
  | lacq => exact goes_execLacq
  | lrel => exact goes_execLrel
  | tarm => exact goes_execTarm
  | tdis => exact goes_execTdis
  | cti | ctd | cts => exact mild_counter.goes
  | lds => exact goes_execLds
  | ldg => exact goes_execLdg
  | ldgs => exact goes_execLdgs
  | pfg h wd n => exact goes_execPfg (wd := wd)
  | ldw => exact goes_execLdw
  | sts => exact goes_execSts
  | stg => exact goes_execStg
  | atsAdd | atsMin | atsMax | atsMinn | atsMaxn | atsAnd | atsOr | atsXor | atsXchg | atsCas | atsInc | atsDec
    | atsFadd | atgAdd | atgMin | atgMax | atgMinn | atgMaxn | atgAnd | atgOr | atgXor | atgXchg | atgCas | atgInc
    | atgDec | atgFadd | redAdd | redMin | redMax | redMinn | redMaxn | redAnd | redOr | redXor | redInc | redDec
    | redFadd
    => exact mild_atom.goes
  | resultLanding => exact goes_execResultLanding
  | delayExpiry => exact goes_execDelayExpiry
  | waitExpiry => exact goes_execWaitExpiry
  | loadDataArrival => exact goes_execLoadDataArrival
  | windowEntry => exact goes_execWindowEntry
  | atomicResponse => exact goes_execAtomicResponse
  | atomicRetry => exact goes_execAtomicRetry
  | storeDrain => exact goes_execStoreDrain
  | codeFetch => exact goes_execCodeFetch
  | rillGrant => exact goes_execRillGrant
  | sequencerPick => exact goes_execSequencerPick
  | taskOverrun => exact goes_execTaskOverrun
  | heldRecordEntry => exact goes_execHeldRecordEntry
  | doorbell => exact goes_execDoorbell
  | launchArrival => exact goes_execLaunchArrival
  | waitReread => exact goes_execWaitReread
  | bindRecordWrite => exact goes_execBindRecordWrite
  | placementDecision => exact goes_execPlacementDecision
  | agingPromotion => exact goes_execAgingPromotion
  | completionRecordPost => exact goes_execCompletionRecordPost
  | grantedLevelWrite => exact goes_execGrantedLevelWrite
  | bandPowerSwitch => exact goes_execBandPowerSwitch
  | bandRampDone => exact goes_execBandRampDone
  | thermalEmergency => exact goes_execThermalEmergency
  | dieOnline => exact goes_execDieOnline
  | barrierRestart => exact goes_execBarrierRestart
  | weirLineGrant => exact goes_execWeirLineGrant
  | weirRestart => exact goes_execWeirRestart
  | weirGather => exact goes_execWeirGather
  | restartProposal => exact goes_execRestartProposal
  | restartAck => exact goes_execRestartAck
  | restartConfirm => exact goes_execRestartConfirm
  | podSyncArrival => exact goes_execPodSyncArrival
  | barrierObjectRmw => exact goes_execBarrierObjectRmw
  | fenceDone => exact goes_execFenceDone
  | watchdogExpiry => exact goes_execWatchdogExpiry
  | yieldRequest => exact goes_execYieldRequest
  | safePointStop => exact goes_execSafePointStop
  | save => exact goes_execSave
  | enginePark => exact goes_execEnginePark
  | resume => exact goes_execResume
  | engineCommandStart => exact goes_execEngineCommandStart
  | engineElementCommit => exact goes_execEngineElementCommit
  | engineElementFault => exact goes_execEngineElementFault
  | engineCommandComplete => exact goes_execEngineCommandComplete
  | collectiveParkSignal => exact goes_execCollectiveParkSignal
  | collectiveSegmentHandoff => exact goes_execCollectiveSegmentHandoff
  | freezeWire => exact goes_execFreezeWire
  | thaw => exact goes_execThaw
  | abandon => exact goes_execAbandon
  | scanRead => exact goes_execScanRead
  | leaseGrant => exact goes_execLeaseGrant
  | mxWindowSwitch => exact goes_execMxWindowSwitch (quad := 0)
  | tilestUpdate => exact goes_execTilestUpdate
  | wsBankServe => exact goes_execWsBankServe
  | publication => exact goes_execPublication
  | gets => exact goes_execGets
  | getm => exact goes_execGetm
  | upg => exact goes_execUpg
  | puts => exact goes_execPuts
  | putm => exact goes_execPutm
  | pub => exact goes_execPub
  | wack => exact goes_execWack
  | dataAnswer => exact goes_execDataAnswer
  | atom => exact goes_execAtom
  | homeRed => exact goes_execHomeRed
  | treq => exact goes_execTreq
  | tdone => exact goes_execTdone
  | invalidationWalk => exact goes_execInvalidationWalk
  | updateWalk => exact goes_execUpdateWalk
  | downgrade => exact goes_execDowngrade
  | tokenDrainRequest => exact goes_execTokenDrainRequest
  | unlinkAck => exact goes_execUnlinkAck
  | lineGrant => exact goes_execLineGrant
  | hostRead => exact goes_execHostRead
  | hostWrite => exact goes_execHostWrite
  | protocolLoad => exact goes_execProtocolLoad
  | protocolVerifyDone => exact goes_execProtocolVerifyDone
  | wayGate => exact goes_execWayGate
  | quadCacheSleep => exact goes_execQuadCacheSleep
  | quadCacheLoss => exact goes_execQuadCacheLoss
  | rangeEntryWrite => exact goes_execRangeEntryWrite
  | functionEnable => exact goes_execFunctionEnable
  | functionReset => exact goes_execFunctionReset
  | frameWindowWrite => exact goes_execFrameWindowWrite
  | pageWalk => exact goes_execPageWalk
  | writeGrantRequest => exact goes_execWriteGrantRequest
  | writeGrantAnswer => exact goes_execWriteGrantAnswer
  | faultEntryWrite => exact goes_execFaultEntryWrite
  | fqheadWrite => exact goes_execFqheadWrite
  | fqctlWrite => exact goes_execFqctlWrite
  | fqresResolved => exact goes_execFqresResolved
  | fqresNoPage => exact goes_execFqresNoPage
  | invalAppend => exact goes_execInvalAppend
  | logApply => exact goes_execLogApply
  | powerOn => exact goes_execPowerOn
  | getVersion | getCapabilities | negotiateAlgorithms | getDigests | getCertificate | challenge |
    getMeasurements | spdmUnsupported
    => exact .spdmAnswer
  | takeTrap => exact goes_execTakeTrap
  | timerEvent => exact goes_execTimerEvent
  | externalEvent => exact goes_execExternalEvent
  | dbgctlWrite => exact goes_execDbgctlWrite
  | softError => exact goes_execSoftError
  | dieLoss => exact goes_execDieLoss
  | agentRejoin => exact goes_execAgentRejoin
  | linkCrcError => exact goes_execLinkCrcError
  | linkWidthChange => exact goes_execLinkWidthChange
  | linkDown => exact goes_execLinkDown
  | configRequest => exact goes_execConfigRequest
  | fstatusErrorClear => exact goes_execFstatusErrorClear
  | qbaseWrite => exact goes_execQbaseWrite
  | queueEnable => exact goes_execQueueEnable
  | queueDisable => exact goes_execQueueDisable
  | registerWrite => exact goes_execRegisterWrite
  | mxmodeWrite => exact goes_execMxmodeWrite
  | variablePortFill => exact goes_execVariablePortFill
  | podRouteLost => exact goes_execPodRouteLost
  | scanWriteBack => exact goes_execScanWriteBack
  | debugResume => exact goes_execDebugResume
  -- The one event left is `Instr.recall`, whose name by itself is a command's.
  | _ => exact goes_execRecall

end Sys2Proof.Claim
end

section
/-! SUPPORT. Issuing a bundle, and what the end of a cycle does, go on in the cycle too. -/

open Sys2Proof.Machine

namespace Sys2Proof.Claim

variable {s₀ s u : State}

theorem Kept.makeSwitch {t : Tid} {i g : Nat} {target : Word} (hs : Kept s₀ s) : Kept s₀ (State.makeSwitch s t i g target) := hs.modThread

theorem Kept.switchTo {t : Tid} {i g : Nat} {target : Word} (hs : Kept s₀ s) : Kept s₀ (State.switchTo s t i g target) := by
  unfold State.switchTo
  split
  · split
    · exact hs.modThread.takeTrap
    · exact hs.makeSwitch
  · exact .ite hs.makeSwitch hs.modThread

theorem Kept.settleSwitch {t : Tid} {i : Nat} (hs : Kept s₀ s) : Kept s₀ (State.settleSwitch s t i) := by
  unfold State.settleSwitch
  extract_lets +onlyGivenNames sp
  split
  · exact hs
  · split
    · exact hs.switchTo
    · split
      · exact .ite hs.modThread.takeTrap hs.modThread
      · exact hs.modThread

theorem Kept.runSlot {ph : Phase} {x : Slot} (hs : Kept s₀ s) : Kept s₀ (State.runSlot s ph x) := by
  unfold State.runSlot
  split
  · next i _ =>
    obtain ⟨u, hu, hk⟩ := exec_goes i { s with cur := { s.cur with phase := ph, slot := x.num, word := x.word, imms := x.imms } }
    rw [hu]
    refine Kept.trans (hs.of ?_) hk
    rfl
  · exact hs

theorem Kept.runSlots {ph : Phase} {xs : List Slot} (hs : Kept s₀ s) : Kept s₀ (State.runSlots s ph xs) :=
  .foldl hs fun _ _ hs => hs.runSlot

theorem Kept.openBundle {t : Tid} {i : Nat} {line : List Word} (hs : Kept s₀ s) : Kept s₀ (State.openBundle s t i line) := by
  unfold State.openBundle
  extract_lets +onlyGivenNames sp
  exact hs.of rfl

theorem Kept.noteIssue {t : Tid} (hs : Kept s₀ s) : Kept s₀ (State.noteIssue s t) := by
  unfold State.noteIssue
  extract_lets +onlyGivenNames b l s1
  have h1 : Kept s₀ s1 := .ite hs.setLaunch hs
  exact .ite h1.setBlock h1

theorem Kept.runChecks {xs : List Slot} (hs : Kept s₀ s) : Kept s₀ (State.runChecks s xs) := .foldl hs fun _ _ hs => hs.runSlots

theorem Kept.joinCommands {xs : List Slot} (hs : Kept s₀ s) : Kept s₀ (State.joinCommands s xs) := by
  unfold State.joinCommands
  extract_lets +onlyGivenNames reads popped scope
  exact .ite hs hs.joinAcquire

theorem Kept.advance {line : List Word} (hs : Kept s₀ s) : Kept s₀ (State.advance s line) := hs.modThread

theorem Kept.popPort {p : ResPort} (hs : Kept s₀ s) : Kept s₀ (State.popPort s p) := by
  unfold State.popPort
  extract_lets +onlyGivenNames t m
  split
  · exact hs
  · exact hs
  · exact hs
  · exact hs.modThread.freeDecisions
  · exact hs.modCore
  · exact hs.modThread
  · exact hs.modThread
  · exact hs.modThread
  · exact hs.modThread

theorem Kept.popAll (hs : Kept s₀ s) : Kept s₀ (State.popAll s) := by
  unfold State.popAll
  extract_lets +onlyGivenNames s1
  have h1 : Kept s₀ s1 := .foldl hs fun _ _ hs => .ite hs.modThread hs
  exact .foldl h1 fun _ _ hs => hs.popPort

theorem Kept.fire {xs : List Slot} (hs : Kept s₀ s) : Kept s₀ (State.fire s xs) := .foldl hs fun _ _ hs => .ite hs hs.runSlot

/-- A split's place is set, where it takes one. -/
theorem Kept.placed {t : Tid} {i : Nat} (p : Option Place) (hs : Kept s₀ s) :
    Kept s₀ (match p with
      | some p => s.modThread t fun th => th.modSplit i fun sp => { sp with place := p }
      | none => s) := by
  cases p with
  | none => exact hs
  | some p => exact hs.modThread

theorem Kept.placeIssued {t : Tid} {i : Nat} (hs : Kept s₀ s) : Kept s₀ (State.placeIssued s t i) := .ite hs (hs.placed _)

theorem Kept.closeBundle (hs : Kept s₀ s) : Kept s₀ (State.closeBundle s) := by
  unfold State.closeBundle
  extract_lets +onlyGivenNames c t s1
  have h1 : Kept s₀ s1 := hs.of rfl
  refine .ite ?_ ?_
  · exact h1
  · extract_lets +onlyGivenNames s2 sp pc stepped s3
    have h2 : Kept s₀ s2 := h1.placeIssued
    have h3 : Kept s₀ s3 := .ite h2.modCore h2
    split
    · exact (Kept.ite h3.modThread h3).enterTrap
    · exact .ite h3.enterTrap h3

/-- The state in which a bundle has been issued is of the same cycle. -/
theorem Kept.of_tryBundle {t : Tid} {i : Nat} {line : List Word}
    (hs : Kept s₀ s) (h : s.tryBundle t i line = .go u) : Kept s₀ u := by
  unfold State.tryBundle at h
  extract_lets +onlyGivenNames th at h
  split at h
  · cases h
  · extract_lets +onlyGivenNames xs written w moved popped at h
    split at h
    · cases h
    · split at h
      · cases h
      · have hwritten : Kept s₀ written := hs.noteIssue.openBundle.runSlots
        have hmoved : Kept s₀ moved := hwritten.advance.runSlots.joinCommands
        have hpopped : Kept s₀ popped := hmoved.fire.popAll
        injection h with h
        exact h ▸ hpopped.fire.closeBundle

theorem Kept.of_attempt {t : Tid} {i : Nat} (hs : Kept s₀ s) (h : s.attempt t i = .go u) : Kept s₀ u := by
  unfold State.attempt at h
  extract_lets +onlyGivenNames sp at h
  split at h
  · exact hs.of_tryBundle h
  · split at h
    · split at h <;> cases h
    · cases h

theorem Kept.look {t : Tid} {i : Nat} (hs : Kept s₀ s) : Kept s₀ (State.look s t i).1 := by
  unfold State.look
  extract_lets +onlyGivenNames s1
  have h1 : Kept s₀ s1 := hs.settleSwitch
  split
  · exact h1
  · split
    · dsimp only
      exact h1.modThread
    · exact h1
    · extract_lets +onlyGivenNames sp stall
      split
      · exact h1
      · split
        · dsimp only
          exact h1.modThread
        · exact h1

theorem Kept.issueBundle {t : Tid} {i : Nat} (hs : Kept s₀ s) : Kept s₀ (State.issueBundle s t i) := by
  unfold State.issueBundle
  split
  · exact hs
  · exact hs.takeTrap
  · next heq => exact hs.of_attempt heq

/-- A fold that carries a state and something else. -/
theorem Kept.foldlPair {α β : Type} {f : State × β → α → State × β} {l : List α} {p : State × β} (h : Kept s₀ p.1)
    (hf : ∀ q a, Kept s₀ q.1 → Kept s₀ (f q a).1) : Kept s₀ (l.foldl f p).1 :=
  List.foldlRecOn l f (motive := fun q => Kept s₀ q.1) h fun q hq a _ => hf q a hq

theorem Kept.issueSluice {core : Nat} (hs : Kept s₀ s) : Kept s₀ (State.issueSluice s core) := by
  unfold State.issueSluice
  extract_lets +onlyGivenNames s1 first one
  have h1 : Kept s₀ s1 := hs.modCore
  have hone : ∀ s ctx, Kept s₀ s → Kept s₀ (one s ctx).1 := by
    intro s ctx hs
    unfold one
    extract_lets +onlyGivenNames t
    split
    · exact hs
    · split
      next heq =>
      have h2 := Kept.fst heq (.foldlPair hs fun q a hq => by
        split
        · exact hq
        · exact hq.look)
      split
      · exact h2.modCore.issueBundle
      · exact h2
  exact .ite (hone _ _ h1) (hone _ _ (hone _ _ h1))

theorem Kept.issueWarp {core : Nat} (hs : Kept s₀ s) : Kept s₀ (State.issueWarp s core) := by
  unfold State.issueWarp
  extract_lets +onlyGivenNames s1 cands
  have h1 : Kept s₀ s1 := hs.modCore
  split
  next heq =>
  have h2 := Kept.fst heq (.foldlPair h1 fun q a hq => hq.look)
  split
  · exact h2
  · exact (Kept.foldl h2 fun _ _ hs => .ite hs hs.modThread).issueBundle

theorem Kept.settleBarrier {core ctx id n : Nat} (hs : Kept s₀ s) : Kept s₀ (State.settleBarrier core ctx id n s) := by
  induction n generalizing s with
  | zero => exact hs
  | succ n ih =>
    unfold State.settleBarrier
    extract_lets +onlyGivenNames b
    exact .ite hs (ih (.foldl hs.setBarrier fun _ _ hs => hs.modThread))

theorem Kept.joinWeir {core ctx scope : Nat} {v : Word} (hs : Kept s₀ s) : Kept s₀ (State.joinWeir s core ctx scope v) := by
  unfold State.joinWeir
  extract_lets +onlyGivenNames upto
  split
  · exact hs.of rfl
  · exact Kept.takeLine (hs.of rfl)

theorem Kept.settleSync {core ctx scope : Nat} (hs : Kept s₀ s) : Kept s₀ (State.settleSync s core ctx scope) := by
  unfold State.settleSync
  extract_lets +onlyGivenNames x
  split
  · exact hs
  · exact .ite hs.setSync.joinWeir hs

theorem Kept.settleBlock {core ctx : Nat} (hs : Kept s₀ s) : Kept s₀ (State.settleBlock s core ctx) := by
  unfold State.settleBlock
  extract_lets +onlyGivenNames s1
  have h1 : Kept s₀ s1 := .foldl hs fun _ _ hs => .ite hs.settleBarrier hs
  exact .foldl h1 fun _ _ hs => hs.settleSync

theorem Kept.pruneReleases {t : Tid} (hs : Kept s₀ s) : Kept s₀ (State.pruneReleases s t) := .ite hs hs.modThread

theorem Kept.settleAcquires {t : Tid} (hs : Kept s₀ s) : Kept s₀ (State.settleAcquires s t) :=
  .foldl hs fun _ _ hs => .ite hs.endAcquire hs

theorem Kept.settleWeirs (hs : Kept s₀ s) : Kept s₀ (State.settleWeirs s) := hs.of rfl

theorem Kept.clearCopies {fn key who : Nat} (hs : Kept s₀ s) : Kept s₀ (State.clearCopies s fn key who) := by
  unfold State.clearCopies
  extract_lets +onlyGivenNames die s1 s2
  have h1 : Kept s₀ s1 := hs.takeTurn
  have h2 : Kept s₀ s2 := by
    unfold s2
    split
    · exact h1.surrender.homeWriteMapped
    · exact h1
  exact .foldl h2 fun _ _ hs => hs.dropCopies

theorem Kept.giveUp {x1 : Spare} (hs : Kept s₀ s) : Kept s₀ (State.giveUp s x1) := by
  unfold State.giveUp
  split
  · exact hs.clearCopies
  · exact hs.purgeLine
  · exact hs.dropL1
  · exact hs.modCore
  · exact hs.modDie
  · exact hs.modQuad

theorem Kept.giveOne {c : Cache} (hs : Kept s₀ s) : Kept s₀ (State.giveOne s c) := by
  unfold State.giveOne
  extract_lets +onlyGivenNames xs
  split
  · exact hs.drawn.giveUp
  · exact hs

theorem Kept.trim {c : Cache} (hs : Kept s₀ s) : Kept s₀ (State.trim s c) := .foldl hs fun _ _ hs => hs.giveOne

theorem Kept.evictSome (hs : Kept s₀ s) : Kept s₀ (State.evictSome s) := by
  unfold State.evictSome
  extract_lets +onlyGivenNames s1 xs
  have h1 : Kept s₀ s1 := .foldl hs fun _ _ hs => hs.trim
  refine .ite ?_ ?_
  · exact h1
  · split
    · exact h1.drawn.giveUp
    · exact h1.drawn

theorem Kept.clearLinks (hs : Kept s₀ s) : Kept s₀ (State.clearLinks s) := by
  unfold State.clearLinks
  refine .ite ?_ ?_
  · exact hs
  · refine .ite ?_ ?_
    · exact hs.drawn
    · extract_lets +onlyGivenNames s1
      have h1 : Kept s₀ s1 := hs.drawn
      exact h1.of rfl

/-- The end of a cycle counts it, begins the deliveries of the next one, and keeps the memories' form. -/
theorem tick_ends (s : State) :
    ∃ u, Kept s u ∧ s.tick.clk = u.clk + 1 ∧ s.tick.settled = false ∧ s.tick.mem = u.mem ∧ s.tick.hostMem = u.hostMem := by
  unfold State.tick
  extract_lets +onlyGivenNames s1 s2 s3
  have h1 : Kept s s1 := .foldl (.refl s) fun _ _ hs => hs.settleBlock
  have h2 : Kept s s2 := .foldl h1.settleWeirs fun _ _ hs => hs.settleAcquires.pruneReleases
  exact ⟨s3, h2.clearLinks.evictSome, rfl, rfl, rfl, rfl⟩

theorem Kept.hostGets {fn a : Nat} (hs : Kept s₀ s) : Kept s₀ (State.hostGets s fn a) := .ite hs hs.atHome.settleLine.modDir

theorem Kept.hostPut {fn : Nat} {cells : List Host.Cell} {a : Nat} (hs : Kept s₀ s) : Kept s₀ (State.hostPut s fn cells a) := by
  unfold State.hostPut
  extract_lets +onlyGivenNames key die cells
  refine .ite hs.homeWrite (.ite ?_ ?_)
  · exact .ite hs.takeTurn.fnError hs.takeTurn.homeWrite.modDir
  · extract_lets +onlyGivenNames rid q s1
    have h1 : Kept s₀ s1 := .ite ((Kept.foldl hs fun _ _ hs => hs.publishNow).setToken) hs
    exact h1.clearCopies.homeWrite

end Sys2Proof.Claim
end

section
/-! SUPPORT. Every event that a step may choose goes on in its cycle, and so a step answers a next state from every state. -/

open Sys2Proof.Machine

namespace Sys2Proof.Claim

variable {s : State}

/-- Events that go on in their cycle, from any state. -/
def Deeds (l : List Deed) : Prop := ∀ d ∈ l, ∀ s, Goes s (d s)

theorem Deeds.append {l m : List Deed} (hl : Deeds l) (hm : Deeds m) : Deeds (l ++ m) := fun d hd =>
  (List.mem_append.mp hd).elim (hl d) (hm d)

theorem Deeds.only {ok : Bool} {d : Deed} (h : ∀ s, Goes s (d s)) : Deeds (only ok d) := by
  unfold Machine.only
  split
  · exact fun e he => List.mem_singleton.mp he ▸ h
  · exact fun e he => nomatch he

theorem Deeds.flatMap {α : Type} {l : List α} {f : α → List Deed} (h : ∀ a, Deeds (f a)) : Deeds (l.flatMap f) := by
  intro d hd
  obtain ⟨a, -, ha⟩ := List.mem_flatMap.mp hd
  exact h a d ha

theorem Deeds.map {α : Type} {l : List α} {f : α → Deed} (h : ∀ a s, Goes s (f a s)) : Deeds (l.map f) := by
  intro d hd
  obtain ⟨a, -, rfl⟩ := List.mem_map.mp hd
  exact h a

theorem Deeds.filterMap {α : Type} {l : List α} {f : α → Option Deed} (h : ∀ a d, f a = some d → ∀ s, Goes s (d s)) :
    Deeds (l.filterMap f) := by
  intro d hd
  obtain ⟨a, -, ha⟩ := List.mem_filterMap.mp hd
  exact h a d ha

theorem Deeds.ite {p : Prop} [Decidable p] {l m : List Deed} (hl : Deeds l) (hm : Deeds m) : Deeds (if p then l else m) := by
  split
  · exact hl
  · exact hm

theorem Deeds.nil : Deeds [] := fun _ hd => nomatch hd

/-- An event where a condition holds, as the lists keep them. -/
theorem goes_of_ite {p : Prop} [Decidable p] {d e : Deed} (h : (if p then some d else none) = some e) (hd : ∀ s, Goes s (d s)) :
    ∀ s, Goes s (e s) := by
  split at h
  · cases h
    exact hd
  · cases h

/-! ## Two events that are no instruction's -/

theorem goes_execHostServe {fn : Nat} : Goes s (execHostServe fn s) := by
  unfold execHostServe
  refine .happens fun s₀ s hs => ?_
  split
  · exact hs
  · extract_lets +onlyGivenNames gone
    have hgone : ∀ {s}, Kept s₀ s → Kept s₀ (gone s) := fun hs => hs.of rfl
    split
    · next heq _ => exact (hgone (.foldl (.fst heq hs.askAll) fun _ _ hs => hs.hostGets)).emit
    · next heq _ => exact hgone (.foldl (.fst heq hs.askAll) fun _ _ hs => hs.hostPut)
    · next heq => exact .fst heq hs.askAll
    · next heq => exact hgone (.fst heq hs.askAll)

theorem goes_execQueuedRequests {die key : Nat} : Goes s (execQueuedRequests die key s) := .happens fun _ _ hs => hs.takeQueued

/-! ## What is due -/

theorem deeds_dueIn (s : State) (t : Tid) : Deeds (s.dueIn t) :=
  ((Deeds.only fun _ => goes_execResultLanding).append (.only fun _ => goes_execVariablePortFill)).append
    (.flatMap fun _ => (((Deeds.only fun _ => goes_execDelayExpiry).append (.only fun _ => goes_execWaitExpiry)).append
      (.only fun _ => goes_execBarrierRestart)).append (.only fun _ => goes_execWatchdogExpiry))

theorem deeds_dueAt (s : State) (core : Nat) : Deeds (s.dueAt core) :=
  ((Deeds.only fun _ => goes_execTilestUpdate).append (.only fun _ => goes_execHeldRecordEntry)).append
    (.flatMap fun _ => .only fun _ => goes_execTaskOverrun)

theorem deeds_dueInQuad (s : State) (quad : Nat) : Deeds (s.dueInQuad quad) :=
  (Deeds.only fun _ => goes_execLeaseGrant).append (.map fun _ _ => goes_execBandRampDone)

theorem deeds_weirSteps (s : State) (gen : Nat) : Deeds (s.weirSteps gen) :=
  (Deeds.flatMap fun _ => ((Deeds.only fun _ => goes_execWeirGather).append (.only fun _ => goes_execRestartProposal)).append
    (.only fun _ => goes_execRestartAck)).append (.only fun _ => goes_execRestartConfirm)

theorem deeds_dueAtWeir (s : State) (gen : Nat) : Deeds (s.dueAtWeir gen) :=
  ((Deeds.only fun _ => goes_execWeirLineGrant).append (.ite (deeds_weirSteps s gen) .nil)).append
    (.only fun _ => goes_execWeirRestart)

theorem deeds_dueOfCmd (s : State) (c : Cmd) : Deeds (s.dueOfCmd c) :=
  (Deeds.only fun _ => goes_execCollectiveParkSignal).append (.only fun _ => goes_execEnginePark)

theorem deeds_boundaryDue (s : State) (t : Tid) : Deeds (s.boundaryDue t) := by
  unfold State.boundaryDue
  split
  · exact .nil
  · exact .only fun _ => goes_execTakeTrap

theorem deeds_arrivals (s : State) (t : Tid) (p : LoadPort) (which : LoadEntry → LoadLane → Bool) : Deeds (s.arrivals t p which) :=
  .flatMap fun _ => .flatMap fun _ => .map fun _ _ => goes_execLoadDataArrival

theorem deeds_walks (s : State) (which : Want → Bool) : Deeds (s.walks which) := by
  refine .filterMap fun x d hd => ?_
  split at hd
  · cases hd
  · cases hd
    exact fun _ => goes_execPageWalk

theorem deeds_codeFetches (s : State) (core : Nat) (which : Nat × Nat → Bool) : Deeds (s.codeFetches core which) :=
  .map fun _ _ => goes_execCodeFetch

theorem deeds_grantAsks (s : State) (quad : Nat) (which : Nat × Nat → Bool) : Deeds (s.grantAsks quad which) :=
  .map fun _ _ => goes_execWriteGrantRequest

theorem deeds_atomSteps (s : State) (core : Nat) : Deeds (s.atomSteps core) :=
  .flatMap fun _ => .flatMap fun _ => ((Deeds.only fun _ => goes_execAtom).append (.only fun _ => goes_execHomeRed)).append
    (.only fun _ => goes_execAtomicResponse)

theorem deeds_drains (s : State) (core : Nat) : Deeds (s.drains core) :=
  .filterMap fun _ _ hd => goes_of_ite hd fun _ => goes_execStoreDrain

theorem deeds_owedReads (s : State) : Deeds s.owedReads := .flatMap fun _ => .map fun _ _ => goes_execWaitReread

theorem deeds_rereads (s : State) (which : Launch → LaunchWait → Bool) : Deeds (s.rereads which) :=
  .flatMap fun _ => .map fun _ _ => goes_execWaitReread

theorem deeds_fetches (s : State) (which : Nat → Nat → Bool) : Deeds (s.fetches which) :=
  .flatMap fun _ => .map fun _ _ => goes_execLaunchArrival

theorem deeds_posts (s : State) (which : Launch → Bool) : Deeds (s.posts which) := .map fun _ _ => goes_execCompletionRecordPost

theorem deeds_hostServes (s : State) (which : HostReq → Bool) : Deeds (s.hostServes which) :=
  .flatMap fun _ => .only fun _ => goes_execHostServe

theorem deeds_elemFaults (s : State) : Deeds s.elemFaults := by
  refine .filterMap fun c d hd => ?_
  obtain ⟨r, -, rfl⟩ := Option.map_eq_some_iff.mp hd
  exact fun _ => goes_execEngineElementFault

theorem deeds_dueByVerdict (s : State) : Deeds s.dueByVerdict := by
  have hatoms (k : Nat × Core) : Deeds (k.2.atoms.flatMap fun e => (e.lanes.filter fun l => s.judged e.fn l.addr 4).flatMap fun l =>
      only (s.homeAtomMay k.1 e.seq l.addr 1) (execAtom k.1 e.seq l.addr)
        ++ only (s.homeAtomMay k.1 e.seq l.addr 2) (execHomeRed k.1 e.seq l.addr)
        ++ only (s.nearAtomFails e l.addr && s.responseMay k.1 e.seq l.addr) (execAtomicResponse k.1 e.seq l.addr)) :=
    .flatMap fun _ => .flatMap fun _ => ((Deeds.only fun _ => goes_execAtom).append (.only fun _ => goes_execHomeRed)).append
      (.only fun _ => goes_execAtomicResponse)
  unfold State.dueByVerdict
  refine .ite .nil ?_
  refine .append ?_ (deeds_hostServes s _)
  refine .append ?_ (deeds_posts s _)
  refine .append ?_ (deeds_fetches s _)
  refine .append ?_ (deeds_rereads s _)
  refine .append ?_ (deeds_elemFaults s)
  refine .append ?_ (.flatMap fun k => .append (.map fun _ _ => goes_execStoreDrain) (hatoms k))
  refine .append ?_ (.flatMap fun q => deeds_grantAsks s q _)
  refine .append ?_ (.flatMap fun c => deeds_codeFetches s c _)
  exact .append (.flatMap fun t => deeds_arrivals s t .lg _) (deeds_walks s _)

/-- The event that is due, if any, goes on in its cycle. -/
theorem goes_due {d : Deed} (h : s.due = some d) (u : State) : Goes u (d u) := by
  refine Deeds.append ?_ (.flatMap (deeds_boundaryDue s)) d (List.mem_of_mem_head? h) u
  refine .append ?_ (.flatMap fun _ => .only fun _ => goes_execSafePointStop)
  refine .append ?_ (.flatMap fun _ => .only fun _ => goes_execWindowEntry)
  refine .append ?_ (deeds_dueByVerdict s)
  refine .append ?_ (deeds_owedReads s)
  refine .append ?_ (.flatMap (deeds_dueOfCmd s))
  refine .append ?_ (.flatMap (deeds_dueAtWeir s))
  refine .append ?_ (.flatMap fun _ => .map fun _ _ => goes_execAgingPromotion)
  exact .append (.append (.flatMap (deeds_dueIn s)) (.flatMap (deeds_dueAt s))) (.flatMap (deeds_dueInQuad s))

/-! ## What may happen -/

theorem deeds_mayIn (s : State) (t : Tid) : Deeds (s.mayIn t) := by
  refine .append ?_ (.flatMap fun _ => .append (.only fun _ => goes_execFenceDone) (.only fun _ => goes_execBarrierRestart))
  refine .append ?_ (.only fun _ => goes_execRillGrant)
  refine .append ?_ (.only fun _ => goes_execVariablePortFill)
  refine .append ?_ (.flatMap fun _ => .flatMap fun _ => .map fun _ _ => goes_execWsBankServe)
  exact .append (.append (deeds_arrivals s t .ls _) (deeds_arrivals s t .lg _)) (deeds_arrivals s t .lw _)

theorem deeds_mayAt (s : State) (core : Nat) : Deeds (s.mayAt core) := by
  refine .append ?_ (deeds_codeFetches s core _)
  exact .append (.append (deeds_drains s core) (deeds_atomSteps s core)) (.only fun _ => goes_execBarrierObjectRmw)

theorem deeds_lineSteps (s : State) (quad key : Nat) : Deeds (s.lineSteps quad key) := by
  refine .append ?_ (.only fun _ => goes_execUnlinkAck)
  refine .append ?_ (.only fun _ => goes_execLineGrant)
  refine .append ?_ (.only fun _ => goes_execPub)
  refine .append ?_ (.only fun _ => goes_execPublication)
  refine .append ?_ (.only fun _ => goes_execPutm)
  refine .append ?_ (.only fun _ => goes_execPuts)
  exact .append (.append (.only fun _ => goes_execGets) (.only fun _ => goes_execGetm)) (.only fun _ => goes_execUpg)

theorem deeds_mayInQuad (s : State) (quad : Nat) : Deeds (s.mayInQuad quad) := by
  refine .append ?_ (.flatMap fun _ => .append (.only fun _ => goes_execTreq) (.only fun _ => goes_execTdone))
  refine .append ?_ (.map fun _ _ => goes_execBandRampDone)
  refine .append ?_ (.map fun _ _ => goes_execWriteGrantAnswer)
  exact .append (.flatMap (deeds_lineSteps s quad)) (deeds_grantAsks s quad _)

theorem deeds_homeSteps (s : State) (key : Nat) : Deeds (s.homeSteps key) := by
  refine .append ?_ (.only fun _ => goes_execDataAnswer)
  refine .append ?_ (.only fun _ => goes_execDowngrade)
  refine .append ?_ (.only fun _ => goes_execRecall)
  refine .append ?_ (.only fun _ => goes_execWack)
  exact .append (.only fun _ => goes_execInvalidationWalk) (.only fun _ => goes_execUpdateWalk)

theorem deeds_mayAtDie (s : State) (die : Nat) (d : Die) : Deeds (s.mayAtDie die d) := by
  refine .append ?_ (.only fun _ => goes_execLogApply)
  refine .append ?_ (.filterMap fun _ _ hd => goes_of_ite hd fun _ => goes_execFaultEntryWrite)
  exact .flatMap fun k => .append (deeds_homeSteps s k) (.only fun _ => goes_execQueuedRequests)

theorem deeds_cmdSteps (s : State) (c : Cmd) : Deeds (s.cmdSteps c) := by
  refine .append ?_ (.only fun _ => goes_execEngineCommandComplete)
  refine .append ?_ (.only fun _ => goes_execCollectiveSegmentHandoff)
  exact .append (.only fun _ => goes_execEngineCommandStart) (.only fun _ => goes_execEngineElementCommit)

theorem deeds_candidates (s : State) : Deeds s.candidates := by
  refine .append ?_ (.only fun _ => goes_execProtocolVerifyDone)
  refine .append ?_ (.flatMap fun _ => .map fun _ _ => goes_execResume)
  refine .append ?_ (.flatMap fun _ => .only fun _ => goes_execSave)
  refine .append ?_ (.flatMap fun _ => .only fun _ => goes_execPodSyncArrival)
  refine .append ?_ (.flatMap (deeds_weirSteps s))
  refine .append ?_ (.flatMap fun _ => .only fun _ => goes_execPlacementDecision)
  refine .append ?_ (deeds_hostServes s _)
  refine .append ?_ (deeds_posts s _)
  refine .append ?_ (deeds_fetches s _)
  refine .append ?_ (deeds_rereads s _)
  refine .append ?_ (deeds_elemFaults s)
  refine .append ?_ (.flatMap (deeds_cmdSteps s))
  refine .append ?_ (.flatMap fun _ => .only fun _ => goes_execTokenDrainRequest)
  refine .append ?_ (deeds_walks s _)
  refine .append ?_ (.flatMap fun e => deeds_mayAtDie s e.1 e.2)
  exact .append (.append (.flatMap (deeds_mayIn s)) (.flatMap (deeds_mayAt s))) (.flatMap (deeds_mayInQuad s))

theorem goes_chosen {d : Deed} (h : s.chosen = some d) (u : State) : Goes u (d u) := by
  unfold State.chosen at h
  extract_lets +onlyGivenNames cs n at h
  split at h
  · cases h
  · split at h
    · cases h
    · exact deeds_candidates s d (List.mem_of_getElem? h) u

/-! ## A step -/

/-- What a step can do: it goes on within its cycle, stops the deliveries, or, once they have stopped, ends the cycle. -/
theorem step_cases (s : State) : ∃ t, step s = .next t ∧
    ((t.clk = s.clk ∧ (Memory.wf s.mem = true → Memory.wf t.mem = true) ∧ (Memory.wf s.hostMem = true → Memory.wf t.hostMem = true))
      ∨ s.settled = true ∧ t = s.tick) := by
  have hgoes {u : State} {o : Host.Outcome State Fault Refusal} (hu : u.clk = s.clk ∧ u.mem = s.mem ∧ u.hostMem = s.hostMem) (h : Goes u o) :
      ∃ t, o = .next t ∧ ((t.clk = s.clk ∧ (Memory.wf s.mem = true → Memory.wf t.mem = true)
        ∧ (Memory.wf s.hostMem = true → Memory.wf t.hostMem = true)) ∨ s.settled = true ∧ t = s.tick) := by
    obtain ⟨hclk, hmem, hhost⟩ := hu
    obtain ⟨t, ht, hk⟩ := h
    exact ⟨t, ht, .inl ⟨hk.clk.trans hclk, fun w => hk.mem (hmem ▸ w), fun w => hk.hostMem (hhost ▸ w)⟩⟩
  have hself {u : State} (hu : Kept s u) : Goes s (.next u) := ⟨u, rfl, hu⟩
  unfold step
  split
  · next hsettled =>
    unfold State.issueNext
    split
    · exact hgoes ⟨rfl, rfl, rfl⟩ (hself (Kept.refl s).issueSluice)
    · exact hgoes ⟨rfl, rfl, rfl⟩ (hself (Kept.refl s).issueWarp)
    · split
      · exact hgoes (u := s.modCore _ _) ⟨rfl, rfl, rfl⟩ goes_execSequencerPick
      · exact ⟨_, rfl, .inr ⟨hsettled, rfl⟩⟩
  · split
    · next i rest _ => exact hgoes (u := { s with agenda := rest }) ⟨rfl, rfl, rfl⟩ (exec_goes i { s with agenda := rest })
    · split
      · next hd => exact hgoes ⟨rfl, rfl, rfl⟩ (goes_due hd s)
      · split
        · next hd => exact hgoes (u := s.drawn) ⟨rfl, rfl, rfl⟩ (goes_chosen hd s.drawn)
        · exact ⟨_, rfl, .inl ⟨rfl, id, id⟩⟩

end Sys2Proof.Claim

open Sys2Proof Sys2Proof.Claim

/-- Settles O46: the memories change by writes of cells alone, whatever an event or an instruction does. -/
theorem memoriesStayCanonical : Obligations.MemoriesStayCanonical := by
  unfold Obligations.MemoriesStayCanonical
  rintro s t ⟨hmem, hhost⟩ hstep
  obtain ⟨u, hu, hcases⟩ := step_cases s
  obtain rfl : t = u := by
    rw [hu] at hstep
    exact (Host.Outcome.next.inj hstep).symm
  obtain ⟨-, hm, hh⟩ | ⟨-, rfl⟩ := hcases
  · exact ⟨hm hmem, hh hhost⟩
  · obtain ⟨u, hk, -, -, hm, hh⟩ := tick_ends s
    unfold State.memoryWf
    rw [hm, hh]
    exact ⟨hk.mem hmem, hk.hostMem hhost⟩

/-- Settles O47: what every operation leaves, and the end of a cycle, which alone counts one. -/
theorem clockCountsCycles : Obligations.ClockCountsCycles := by
  unfold Obligations.ClockCountsCycles
  refine ⟨fun i s t h => ?_, fun s t h => ?_⟩
  · obtain ⟨u, hu, hk⟩ := exec_goes i s
    obtain rfl : t = u := by
      rw [hu] at h
      exact (Host.Outcome.next.inj h).symm
    exact ⟨hk.clk, hk.settled, hk.agenda⟩
  · obtain ⟨u, hu, hcases⟩ := step_cases s
    obtain rfl : t = u := by
      rw [hu] at h
      exact (Host.Outcome.next.inj h).symm
    obtain ⟨hclk, -, -⟩ | ⟨hsettled, rfl⟩ := hcases
    · exact .inl hclk
    · obtain ⟨u, hk, hclk, hdone, -, -⟩ := tick_ends s
      exact .inr ⟨hclk.trans (by rw [hk.clk]), hsettled, hdone⟩

/-- Settles O48: every instruction and every event answers a next state. -/
theorem everyStepGoesOn : Obligations.EveryStepGoesOn := by
  unfold Obligations.EveryStepGoesOn
  intro s
  obtain ⟨t, ht, -⟩ := step_cases s
  exact ⟨t, ht⟩

end

section
/-! SUPPORT. A load whose data does not arrive as the statement says. -/

open Sys2Proof.Machine

namespace Sys2Proof.Claim

/-- A lane with one access left makes it, and receives what it reads. -/
theorem loadDataArrival_single {s : State} {t : Tid} {p : LoadPort} {i l : Nat} {x : Nat × Nat} {e : LoadEntry} {y : LoadLane} {g : Got}
    (hparts : s.partsMay t p i l = [x]) (hfind : (s.thread t).findLoad p i l = some (e, y)) (hread : s.readPart t p e x = (s, some g)) :
    exec (.loadDataArrival t p i l) s = .next (s.deliverPart t p e l x g) := by
  show execLoadDataArrival t p i l s = _
  unfold execLoadDataArrival State.happens
  simp [State.arrivalMay, hparts, hfind, hread, Nat.mod_one]

/-- A load's lane of one byte, at scratch offset 0, that holds a byte of a sector below: a lane that crosses no boundary never takes one. -/
def strayPart : LoadLane :=
  { lane := 0, addr := 0, arrived := false, missed := false, served := false, poison := false, cause := 0, vals := [], part := some (false, [1#8]) }

/-- The load of that lane. -/
def strayLoad : LoadEntry := { seq := 0, width := .bn, hint := .normal, spec := false, mask := 1#32, lanes := [strayPart] }

/-- The first warp of core 0. -/
def firstWarp : Tid := { core := 0, ctx := 0, slot := 0 }

/-- The first warp has that load in its scratch queue. -/
def strayLoading : State :=
  State.reset.setThread firstWarp { Thread.empty with live := true, ls := { entries := [strayLoad], ever := true } }

/-- The state after the lane's data has arrived. -/
def strayLoaded : State := strayLoading.deliverPart firstWarp .ls strayLoad 0 (0, 1) (strayLoading.scratchGot 0 1)

/-- The words that the lane has. -/
def lsWords (s : State) : Option LaneVec := ((s.thread firstWarp).findLoad .ls 0 0).map (·.2.vals)

end Sys2Proof.Claim

open Sys2Proof Sys2Proof.Claim

/-- Refutes O49: a lane within one sector takes a byte that it holds from before for its first. -/
theorem not_resultsArrive : ¬Obligations.ResultsArrive := by
  unfold Obligations.ResultsArrive
  intro h
  obtain ⟨-, -, -, -, hls, -⟩ := h firstWarp
  obtain ⟨u, hu, -, hmade⟩ := hls 0 0 strayLoad strayPart strayLoading (by decide +kernel)
  obtain ⟨e, he⟩ : arrives firstWarp .ls 0 0 strayPart [0#32] u := hmade
  have hexec : exec (.loadDataArrival firstWarp .ls 0 0) strayLoading = .next strayLoaded :=
    loadDataArrival_single (y := strayPart) (by decide +kernel) (by decide +kernel) rfl
  obtain rfl : strayLoaded = u := Host.Outcome.next.inj (hexec.symm.trans hu)
  have hwords : lsWords strayLoaded = some [0#32] := by
    unfold lsWords
    rw [he]
    rfl
  exact absurd hwords (by decide +kernel)

end

section
/-! SUPPORT. A store drained into a quad line whose local bytes do not fill the line. -/

open Sys2Proof.Machine

namespace Sys2Proof.Claim

/-- A store whose lowest lane has bytes in one sector writes them there. -/
theorem storeDrain_single {s : State} {core seq b : Nat} {e : StoreEntry} {l : StoreLane} (hmay : s.drainMay core seq = true)
    (hof : s.storeOf core seq = some (e, l)) (hsectors : s.sectorsMay core seq = [b]) :
    exec (.storeDrain core seq) s = .next (s.drainSector core e l b) := by
  show execStoreDrain core seq s = _
  unfold execStoreDrain State.happens
  simp [hmay, hof, hsectors, Nat.mod_one]

/-- The first warp of core 0 has stored a byte at address 6. -/
def byteLane : StoreLane := { lane := 0, addr := 6, cells := [(6, 1#8)] }

/-- The store of that byte. -/
def byteStore : StoreEntry :=
  { seq := 0, tid := firstWarp, split := 0, fn := 0, global := true, lanes := [byteLane], tseq := 0, whole := [], hint := .normal, frame := false }

/-- Addresses of function 0 below 2^21 lie in the frames from 2^21 on, and are homed on die 0. -/
def lowLeaf : Leaf := { fn := 0, base := 0, size := 2 ^ 21, frame := 2 ^ 21, host := false, rights := 15 }

/-- A valid range of the first die. -/
def lowRange : Range := { valid := true, words := [0x82E00005#32, 0#32, 0#32, 0#32] }

/-- A line with one local byte, 5, at its start, and room for no other. -/
def shortLine : QLine := { QLine.empty with fn := 0, lmask := 1#128, lbytes := [5#8] }

/-- After bring-up, with that memory, that store, and that line in quad 0, which may write. -/
def draining : State :=
  let s : State := { State.reset with pack := { State.reset.pack with booted := 6, dies := 15#4, retry := false } }
  let s := s.modFn 0 fun f => { f with enabled := true, ranges := f.ranges.set 0 lowRange }
  let s := s.modDie 0 fun d => { d with leaves := [lowLeaf], names := [(512, { names := [256 * 2 ^ 45], writable := true })] }
  let s := s.setThread firstWarp { Thread.empty with live := true }
  let s := s.modCore 0 fun c => { c with stores := [byteStore] }
  let s := s.modQuad 0 fun q => { q with grants := [(256 * 2 ^ 45, 0)] }
  s.setQLine 0 (256 * 2 ^ 50) shortLine

end Sys2Proof.Claim

open Sys2Proof Sys2Proof.Claim

/-- Refutes O52: where a line holds fewer local bytes than a line has, a store into it clears those that it held. -/
theorem not_storesAndAtomicsAreDone : ¬Obligations.StoresAndAtomicsAreDone := by
  unfold Obligations.StoresAndAtomicsAreDone
  intro h
  obtain ⟨-, hglobal, -⟩ := h 0 0
  have hdrains : drains draining 0 0 byteStore byteLane [] := by
    unfold drains
    decide +kernel
  obtain ⟨u, hu, -, b, -, -, -, hothers⟩ := hglobal byteStore byteLane [] draining ⟨hdrains, by decide +kernel⟩
  have hexec : exec (.storeDrain 0 0) draining = .next (draining.drainSector 0 byteStore byteLane 0) :=
    storeDrain_single (by decide +kernel) (by decide +kernel) (by decide +kernel)
  obtain rfl : draining.drainSector 0 byteStore byteLane 0 = u := Host.Outcome.next.inj (hexec.symm.trans hu)
  have houtside : ∀ c ∈ within byteLane b, 0 ≠ c.1 := by
    intro c hc
    have hcell : c ∈ byteLane.cells := (List.mem_filter.mp hc).1
    obtain rfl : c = (6, 1#8) := List.mem_singleton.mp hcell
    decide
  have hkept := hothers 0 (by decide) houtside
  exact absurd hkept (by decide +kernel)

end

section
/-! SUPPORT. What an event that may happen does, and a SYNC generation or a launch that alone changes. -/

open Sys2Proof.Machine

namespace Sys2Proof.Claim

/-- An event that may happen gives a state that is as the statement says. -/
theorem brings_of_happens {e : Instr} {may : State → Bool} {effect : State → State} {ok : State → Prop} {gives : State → State → Prop}
    (hexec : ∀ s, exec e s = s.happens may effect) (hok : ∀ s, ok s → may s = true ∧ gives s (effect s)) : brings e ok gives := by
  intro s hs
  obtain ⟨hmay, hgives⟩ := hok s hs
  exact ⟨effect s, (hexec s).trans (happens_of effect hmay), hgives⟩

/-- What a change of one SYNC generation leaves. -/
theorem weirBecomes_modWeir (s : State) (gen : Nat) (f : Weir → Weir) : weirBecomes gen s (s.modWeir gen f) (f (s.weir gen)) :=
  ⟨rfl, Tab.get_set_self _ _ _ _, fun _ hk => Tab.get_set_other _ _ _ hk⟩

/-- What a change of one launch leaves. -/
theorem launchBecomes_modLaunch (s : State) (lid : Nat) (f : Launch → Launch) : launchBecomes lid s (s.modLaunch lid f) (f (s.launch lid)) :=
  ⟨rfl, Tab.get_set_self _ _ _ _, fun _ hk => Tab.get_set_other _ _ _ hk⟩

theorem acquireFrom_weirs (s : State) (t : Tid) (seq scope : Nat) : (s.acquireFrom t seq scope).weirs = s.weirs := by
  unfold State.acquireFrom
  split
  · rfl
  · extract_lets +onlyGivenNames q local_ s1
    have h1 : s1.weirs = s.weirs := by
      unfold s1
      split <;> rfl
    rw [State.modThread_weirs, h1]

theorem restartBlock_weirs (s : State) (scope : Nat) (p : Nat × Nat) : (s.restartBlock scope p).weirs = s.weirs := by
  unfold State.restartBlock
  extract_lets +onlyGivenNames x go s1
  have h1 : s1.weirs = s.weirs := by
    refine List.foldlRecOn (motive := fun u : State => u.weirs = s.weirs) _ _ rfl fun u hu t _ => ?_
    split
    · exact (acquireFrom_weirs u t _ scope).trans hu
    · exact hu
  exact h1

/-- The scope of the generation is that from before, whatever blocks have restarted. -/
theorem foldl_restartBlock_scope (s : State) (gen : Nat) (ps : List (Nat × Nat)) :
    ps.foldl (fun s p => s.restartBlock (s.weir gen).scope p) s = ps.foldl (fun u p => u.restartBlock (s.weir gen).scope p) s := by
  have hsame : ∀ u : State, u.weirs = s.weirs →
      ps.foldl (fun s p => s.restartBlock (s.weir gen).scope p) u = ps.foldl (fun u p => u.restartBlock (s.weir gen).scope p) u := by
    induction ps with
    | nil => exact fun _ _ => rfl
    | cons p ps ih =>
      intro u hu
      have hscope : u.weir gen = s.weir gen := congrArg (Tab.get Weir.empty · gen) hu
      rw [List.foldl_cons, List.foldl_cons, hscope]
      exact ih _ ((restartBlock_weirs u _ p).trans hu)
  exact hsame s rfl

/-- The arbiter confirms where it can. -/
theorem restartConfirm_brings (gen : Nat) :
    brings (.restartConfirm gen) (fun s => s.confirmMay gen = true ∧ s.confirmable (s.weir gen) = true)
      (fun s u => weirBecomes gen s u { s.weir gen with
        confirmed := true, restart := some ((s.weir gen).restart.getD (s.chosenCycle (s.weir gen))) }) :=
  brings_of_happens (fun _ => rfl) fun s ⟨hmay, hcan⟩ => ⟨hmay, by
    have h := weirBecomes_modWeir s gen fun w =>
      if s.confirmable (s.weir gen) then { w with confirmed := true, restart := some (w.restart.getD (s.chosenCycle w)) }
      else { w with restart := none, proposed := [], acks := [] }
    rwa [if_pos hcan] at h⟩

/-- The arbiter begins again where it cannot confirm. -/
theorem restartConfirm_again (gen : Nat) :
    brings (.restartConfirm gen) (fun s => s.confirmMay gen = true ∧ s.confirmable (s.weir gen) = false)
      (fun s u => weirBecomes gen s u { s.weir gen with restart := none, proposed := [], acks := [] }) :=
  brings_of_happens (fun _ => rfl) fun s ⟨hmay, hcannot⟩ => ⟨hmay, by
    have h := weirBecomes_modWeir s gen fun w =>
      if s.confirmable (s.weir gen) then { w with confirmed := true, restart := some (w.restart.getD (s.chosenCycle w)) }
      else { w with restart := none, proposed := [], acks := [] }
    rwa [if_neg (by simp [hcannot])] at h⟩

/-- This package's arrival goes out. -/
theorem podSyncArrival_own (gen lid p : Nat) :
    brings (.podSyncArrival lid p) (fun s => p = s.pack.pkg ∧ s.podWeir lid = some gen)
      (fun s u => u = { s with weirs := u.weirs, outputs := s.outputs ++ [.podArrival lid p] }
        ∧ u.weir gen = { s.weir gen with sent := true } ∧ ∀ k, k ≠ gen → u.weir k = s.weir k) := by
  refine brings_of_happens (fun _ => rfl) fun s ⟨hown, hweir⟩ => ?_
  subst hown
  have hgen := weirBecomes_modWeir s gen fun w => { w with sent := true }
  obtain ⟨-, hself, hothers⟩ := hgen
  simp only [if_true, hweir, Option.isSome_some, true_and]
  exact ⟨rfl, hself, hothers⟩

/-- Another package's arrival comes in. -/
theorem podSyncArrival_other (lid p : Nat) :
    brings (.podSyncArrival lid p) (fun s => p ≠ s.pack.pkg ∧ p ∈ (s.launch lid).joined)
      fun s u => launchBecomes lid s u { s.launch lid with pods := (s.launch lid).pods ++ [p] } := by
  refine brings_of_happens (fun _ => rfl) fun s ⟨hother, hjoined⟩ => ?_
  simp only [if_neg hother, List.contains_iff_mem, hjoined, true_and]
  exact launchBecomes_modLaunch s lid _

end Sys2Proof.Claim

open Sys2Proof Sys2Proof.Claim

/-- Settles O55: each event of a SYNC generation changes that generation, or that launch, and nothing else. -/
theorem syncGenerationsGoOn : Obligations.SyncGenerationsGoOn := by
  unfold Obligations.SyncGenerationsGoOn
  intro gen
  refine ⟨?line, ?restart, fun d => ?gather, fun d => ?proposal, fun d => ?ack, restartConfirm_brings gen, restartConfirm_again gen,
    fun lid p => ⟨podSyncArrival_own gen lid p, podSyncArrival_other lid p⟩⟩
  case line => exact brings_of_happens (fun _ => rfl) fun s hmay => ⟨hmay, weirBecomes_modWeir s gen _⟩
  case restart =>
    intro s hdue
    refine ⟨(s.weirBlocks (s.weir gen)).foldl (fun s p => s.restartBlock (s.weir gen).scope p) s, ?_, rfl⟩
    show execWeirRestart gen s = _
    unfold execWeirRestart
    rw [happens_of _ hdue, foldl_restartBlock_scope]
  case gather => exact brings_of_happens (fun _ => rfl) fun s hmay => ⟨hmay, weirBecomes_modWeir s gen _⟩
  case proposal => exact brings_of_happens (fun _ => rfl) fun s hmay => ⟨hmay, weirBecomes_modWeir s gen _⟩
  case ack =>
    refine brings_of_happens (fun _ => rfl) fun s ⟨hproposed, hnew, r, hr, hearly⟩ => ⟨?_, weirBecomes_modWeir s gen _⟩
    simp [State.ackMay, hproposed, hnew, hr, hearly]

end

section
/-! SUPPORT. A thermal emergency where a table of blocks holds two entries of one place. -/

open Sys2Proof.Machine

namespace Sys2Proof.Claim

/-- The first place of core 0 stands twice in the table of blocks: as one without a block, which is the entry read, and as one with a resident
block, which alone counts among the residents. -/
def placedTwice : State := { State.reset with blocks := [(0, Block.empty), (0, { Block.empty with resident := true })] }

/-- What the emergency of die 0 makes of that state, before the ranges of the die's work pass on. -/
def placedHot : State :=
  let s := (placedTwice.modDie 0 fun d => { d with offline := true }).emit (.emergency 0)
  s.askToYield ((s.residents.filter fun p => dieOf p.1 == 0).flatMap fun p => s.yieldMates p.1 p.2).eraseDups

theorem passRills_blocks (s : State) (d : Nat) : (s.passRills d).blocks = s.blocks := rfl

/-- The emergency happens there: die 0 is not offline. -/
theorem thermalEmergency_placed : exec (.thermalEmergency 0) placedTwice = .next (placedHot.passRills 0) := by
  show execThermalEmergency 0 placedTwice = _
  unfold execThermalEmergency
  rw [happens_of _ (by decide +kernel)]
  rfl

end Sys2Proof.Claim

open Sys2Proof Sys2Proof.Claim

/-- Refutes O60: a thermal emergency asks a resident to yield only where the entry that is read for its place is resident too. -/
theorem not_powerTrustAndRecoveryAct : ¬Obligations.PowerTrustAndRecoveryAct := by
  unfold Obligations.PowerTrustAndRecoveryAct
  intro h
  obtain ⟨-, -, hthermal, -⟩ := h
  obtain ⟨hhot, -⟩ := hthermal 0
  obtain ⟨w, hw, -, -, hyields⟩ := hhot placedTwice (by decide +kernel)
  have hexec : exec (.thermalEmergency 0) placedTwice = .next (placedHot.passRills 0) := thermalEmergency_placed
  have hstate : placedHot.passRills 0 = w.passRills 0 := Host.Outcome.next.inj (hexec.symm.trans hw)
  have hblocks : placedHot.blocks = w.blocks :=
    (passRills_blocks placedHot 0).symm.trans ((congrArg State.blocks hstate).trans (passRills_blocks w 0))
  have hblock : placedHot.block 0 0 = w.block 0 0 := congrArg (Tab.get Block.empty · 0) hblocks
  have hasked := hyields (0, 0) (by decide +kernel) rfl
  rw [← hblock] at hasked
  exact absurd hasked (by decide +kernel)

end

section
/-! SUPPORT. A command of an engine that no part has, and the record of its completion. -/

open Sys2Proof.Machine

namespace Sys2Proof.Claim

/-- A command with tag 1 of the first block, done, which posts a record; its engine has a number that no engine has, and its record the origin of
an EVT's. -/
def strayCommand : Cmd :=
  { core := 0, ctx := 0, slot := 0, engine := 4, opcode := 0, a := 0#32, b := 0#32, t := 0x80000000#32, tag := 1, pr := 0, fn := 0, lid := 0,
    sbase := 0, ssize := 0, recs := [], mask := 0#4, wtag := 0, stage := 2, cause := 0, flags := [], scales := [], ctl := [], parties := [],
    inbox := [], shape := 0, fault := none, tseq := 0, sent := none, parkAt := none, ended := false, since := 0, array := none, resumed := false,
    seen := [], orphan := none }

/-- The first warp awaits the result of that command at MX.q. -/
def awaitingStray : State :=
  { State.reset with
    cmds := [strayCommand]
    blocks := [(0, { Block.empty with resident := true })]
    threads := [(0, { Thread.empty with live := true, owners := [(ResPort.mxq.code * 32, 1)] })] }

/-- The word at MX.q of the first warp, where a step goes on. -/
def firstResult (o : Host.Outcome State Fault Refusal) : Option Word :=
  match o with
  | .next u => some ((u.thread firstWarp).rd (.res .mxq) 0)
  | _ => none

end Sys2Proof.Claim

open Sys2Proof Sys2Proof.Claim

/-- Refutes O57: the record of an engine numbered 4 has the origin of an EVT's record, and fills no port that awaits its command. -/
theorem not_enginesGoOn : ¬Obligations.EnginesGoOn := by
  unfold Obligations.EnginesGoOn
  intro h
  obtain ⟨-, -, -, -, -, -, hcomplete, -⟩ := h 0 0 1 strayCommand
  obtain ⟨u, hu, -, -, -, -, -, -, -, hresult⟩ := hcomplete awaitingStray (by decide +kernel)
  have hposts : strayCommand.t.getLsbD 31 = true ∧ strayCommand.orphan = none := by decide
  have henters : (awaitingStray.core 0).evq.length < 64 ∧ (awaitingStray.core 0).held = [] := by decide +kernel
  obtain ⟨hfilled, -⟩ := hresult 0 .mxq (by decide) (fun _ => henters) (by decide) (by decide +kernel) (by decide) (by decide) (by decide)
    (by decide +kernel)
  have hword : firstResult (exec (.engineCommandComplete 0 0 1) awaitingStray) = some 0x02000001#32 := by
    rw [hu]
    exact congrArg some hfilled
  exact absurd hword (by decide +kernel)

end

section
/-! SUPPORT. Doorbells, launches that arrive, their waits, bind records, placement and completion records. -/

open Sys2Proof.Machine

namespace Sys2Proof.Claim

variable {s v : State}

/-! ## Doorbells -/

theorem hostUp_of_linked (h : linked s) : s.hostUp = true := by
  obtain ⟨hlink, hbooted, hretry⟩ := h
  simp [State.hostUp, State.hostLink, hlink, hbooted, hretry]

theorem hostUp_of_openFn {fn : Nat} (h : openFn fn s) : (s.hostUp && !(s.fn fn).fenced) = true := by
  obtain ⟨hlinked, hfenced⟩ := h
  simp [hostUp_of_linked hlinked, hfenced]

/-- A write to a function's window takes effect where the window takes writes. -/
theorem fnWrite_of_openFn {fn : Nat} (effect : State → State) (h : openFn fn s) : s.fnWrite fn effect = .next (effect s) :=
  happens_of effect (hostUp_of_openFn h)

/-- What a change of one function leaves. -/
theorem onlyFn_modFn (s : State) (fn : Nat) (f : Function → Function) : onlyFn fn s (s.modFn fn f) ∧ (s.modFn fn f).fn fn = f (s.fn fn) :=
  ⟨⟨rfl, fun _ hk => Tab.get_set_other _ _ _ hk⟩, Tab.get_set_self _ _ _ _⟩

/-- What a change of one launch queue leaves. -/
theorem queueBecomes_modQueue (s : State) (fn q : Nat) (f : Queue → Queue) : queueBecomes fn q s (s.modQueue fn q f) (f (s.queue fn q)) := by
  obtain ⟨honly, hself⟩ := onlyFn_modFn s fn fun x => { x with queues := Tab.set Queue.reset x.queues q (f (Tab.get Queue.reset x.queues q)) }
  have hqueues : ∀ k, (s.modQueue fn q f).queue fn k = Tab.get Queue.reset (Tab.set Queue.reset (s.fn fn).queues q (f (s.queue fn q))) k :=
    fun k => congrArg (fun x : Function => Tab.get Queue.reset x.queues k) hself
  refine ⟨honly, ?_, ?_, fun k hk => ?_⟩
  · have hq : ((s.modQueue fn q f).fn fn).queues = Tab.set Queue.reset (s.fn fn).queues q (f (s.queue fn q)) := congrArg Function.queues hself
    rw [hq]
    exact hself
  · rw [hqueues]
    exact Tab.get_set_self _ _ _ _
  · rw [hqueues]
    exact Tab.get_set_other _ _ _ hk

theorem queueBecomes_refl (s : State) (fn q : Nat) : queueBecomes fn q s s (s.queue fn q) :=
  ⟨⟨rfl, fun _ _ => rfl⟩, rfl, rfl, fun _ _ => rfl⟩

/-- A doorbell that the window takes: the queue becomes as the doorbell has it, and the queue's waits are read again. -/
theorem doorbell_rings {fn q : Nat} {x : Queue} {w : Word} (hopen : openFn fn s) (hbecomes : queueBecomes fn q s (s.ringDoorbell fn q w) x) :
    ∃ u : State, exec (.doorbell fn q w) s = .next ((s.queueLaunches fn q).foldl (fun s l => s.rereadWaits l) u) ∧ queueBecomes fn q s u x :=
  ⟨s.ringDoorbell fn q w,
    fnWrite_of_openFn (fun s => (s.queueLaunches fn q).foldl (fun s l => s.rereadWaits l) (s.ringDoorbell fn q w)) hopen, hbecomes⟩

theorem stopQueue_becomes (s : State) (fn q r : Nat) : queueBecomes fn q s (s.stopQueue fn q r) { s.queue fn q with stopped := true, reason := r } :=
  queueBecomes_modQueue s fn q _

/-- What a doorbell does to its queue, by its state and by how far the tail would move. -/
theorem ringDoorbell_cases (s : State) (fn q : Nat) (w : Word) :
    let x := s.queue fn q
    let known := (x.doorbell - x.read).toNat
    let ahead := (w - x.read).toNat
    let becomes := queueBecomes fn q s (s.ringDoorbell fn q w)
    ((s.fn fn).enabled = false → becomes x)
      ∧ ((s.fn fn).enabled = true → x.enabled = false → becomes { x with stopped := true, reason := 3 })
      ∧ ((s.fn fn).enabled = true → x.enabled = true → x.stopped = true → becomes x)
      ∧ ((s.fn fn).enabled = true → x.enabled = true → x.stopped = false →
          (ahead < known → becomes { x with stopped := true, reason := 1 })
            ∧ (known ≤ ahead → 2 ^ x.k < ahead → becomes { x with stopped := true, reason := 2 })
            ∧ (known ≤ ahead → ahead ≤ 2 ^ x.k → becomes { x with doorbell := w })) := by
  intro x known ahead becomes
  have hring : s.ringDoorbell fn q w =
      if !(s.fn fn).enabled then s
      else if !x.enabled then s.stopQueue fn q 3
      else if x.stopped then s
      else if ahead < known then s.stopQueue fn q 1
      else if 2 ^ x.k < ahead then s.stopQueue fn q 2
      else s.modQueue fn q fun x => { x with doorbell := w } := rfl
  unfold becomes
  refine ⟨fun hf => ?_, fun hf hx => ?_, fun hf hx hstop => ?_, fun hf hx hstop => ⟨fun hback => ?_, fun hon hfar => ?_, fun hon hnear => ?_⟩⟩
  · rw [show s.ringDoorbell fn q w = s by simp [hring, hf]]
    exact queueBecomes_refl s fn q
  · rw [show s.ringDoorbell fn q w = s.stopQueue fn q 3 by simp [hring, hf, hx]]
    exact stopQueue_becomes s fn q 3
  · rw [show s.ringDoorbell fn q w = s by simp [hring, hf, hx, hstop]]
    exact queueBecomes_refl s fn q
  · rw [show s.ringDoorbell fn q w = s.stopQueue fn q 1 by simp [hring, hf, hx, hstop, hback]]
    exact stopQueue_becomes s fn q 1
  · rw [show s.ringDoorbell fn q w = s.stopQueue fn q 2 by simp [hring, hf, hx, hstop, Nat.not_lt.mpr hon, hfar]]
    exact stopQueue_becomes s fn q 2
  · have htail : s.ringDoorbell fn q w = s.modQueue fn q fun x => { x with doorbell := w } := by
      simp [hring, hf, hx, hstop, Nat.not_lt.mpr hon, Nat.not_lt.mpr hnear]
    rw [htail]
    exact queueBecomes_modQueue s fn q _

/-! ## Launches and their waits -/

/-- A read in another package or at the host adds to the outputs alone. -/
theorem farRead_eq (s : State) (fn a n : Nat) : s.farRead fn a n = { s with outputs := (s.farRead fn a n).outputs } := by
  unfold State.farRead
  split
  · rfl
  · split <;> rfl

/-- A wait that is not done, of a launch without a status, whose page may be read: the wait notes what it found. -/
theorem rereadWait_go {lid i : Nat} {w : LaunchWait} {leaf : Leaf} (hwait : (s.launch lid).waits[i]? = some w) (hdone : w.done = false)
    (hstatus : (s.launch lid).status = none) (hask : s.ask (s.launch lid).fn w.addr 6 s.dispatchWho = (v, .go leaf)) :
    let reached : Bool := decide (w.threshold.toNat ≤ (v.sysWord (s.launch lid).fn w.addr).toNat)
    let r := v.farRead (s.launch lid).fn w.addr 4
    s.rereadWait lid i = r.modLaunch lid fun l =>
      { l with waits := l.waits.set i { w with done := reached, readAt := r.clk, owed := false },
               upto := if reached then (List.range 4).map fun d => (r.die d).logEnd else l.upto } := by
  unfold State.rereadWait
  simp only [hwait, hdone, hstatus, hask, Option.isSome_none, Bool.or_self, Bool.false_eq_true, if_false]

theorem farRead_clk (s : State) (fn a n : Nat) : (s.farRead fn a n).clk = s.clk := by rw [farRead_eq]

theorem farRead_die (s : State) (fn a n d : Nat) : (s.farRead fn a n).die d = s.die d := by
  rw [farRead_eq]
  rfl

theorem farRead_launch (s : State) (fn a n l : Nat) : (s.farRead fn a n).launch l = s.launch l := by
  rw [farRead_eq]
  rfl

theorem waitReread_brings (lid i : Nat) (w : LaunchWait) (leaf : Leaf) (v : State) :
    let asked (s : State) : Prop := (s.launch lid).waits[i]? = some w ∧ w.done = false ∧ (s.launch lid).status = none
      ∧ s.ask (s.launch lid).fn w.addr 6 s.dispatchWho = (v, .go leaf)
    let r (s : State) : State := v.farRead (s.launch lid).fn w.addr 4
    brings (.waitReread lid i) (fun s => asked s ∧ w.threshold.toNat ≤ (v.sysWord (s.launch lid).fn w.addr).toNat)
        (fun s u => launchBecomes lid (r s) u { v.launch lid with
          waits := (v.launch lid).waits.set i { w with done := true, readAt := v.clk, owed := false },
          upto := (List.range 4).map fun d => (v.die d).logEnd })
      ∧ brings (.waitReread lid i) (fun s => asked s ∧ (v.sysWord (s.launch lid).fn w.addr).toNat < w.threshold.toNat)
          fun s u => launchBecomes lid (r s) u { v.launch lid with
            waits := (v.launch lid).waits.set i { w with done := false, readAt := v.clk, owed := false } } := by
  intro asked r
  refine ⟨brings_of_happens (fun _ => rfl) fun s hs => ⟨rfl, ?_⟩, brings_of_happens (fun _ => rfl) fun s hs => ⟨rfl, ?_⟩⟩
  · obtain ⟨⟨hwait, hdone, hstatus, hask⟩, hreached⟩ := hs
    have hbecomes := launchBecomes_modLaunch (r s) lid fun l =>
      { l with waits := l.waits.set i { w with done := true, readAt := (r s).clk, owed := false },
               upto := (List.range 4).map fun d => ((r s).die d).logEnd }
    simp only [r, farRead_clk, farRead_die, farRead_launch] at hbecomes
    simpa only [rereadWait_go hwait hdone hstatus hask, decide_eq_true hreached, r, farRead_clk, farRead_die, if_true] using hbecomes
  · obtain ⟨⟨hwait, hdone, hstatus, hask⟩, hshort⟩ := hs
    have hbecomes := launchBecomes_modLaunch (r s) lid fun l =>
      { l with waits := l.waits.set i { w with done := false, readAt := (r s).clk, owed := false } }
    simp only [r, farRead_clk, farRead_launch] at hbecomes
    simpa only [rereadWait_go hwait hdone hstatus hask, decide_eq_false (Nat.not_le.mpr hshort), r, farRead_clk, Bool.false_eq_true,
      if_false] using hbecomes

end Sys2Proof.Claim
end

section
/-! SUPPORT. Launches that arrive, bind records, placement and completion records. -/

open Sys2Proof.Machine

namespace Sys2Proof.Claim

variable {s v : State}

/-- A launch arrives: it takes the next number, and its queue has fetched one more. -/
theorem launchArrival_arrives {fn q : Nat} {ws args : List Word} {tasks : List Task} {status : Option (Nat × Nat)}
    (hmay : s.mayFetch fn q = true) (hfetch : s.fetchLaunch fn q = (v, some (ws, args, tasks, status))) :
    ∃ w : State, exec (.launchArrival fn q) s = .next (w.rereadWaits v.nextLid)
      ∧ w = { v with launches := w.launches, fns := w.fns, nextLid := v.nextLid + 1 }
      ∧ w.queue fn q = { v.queue fn q with fetched := (v.queue fn q).fetched + 1#32 }
      ∧ w.launch v.nextLid = { Launch.empty with
          fn := fn, queue := q, index := (v.queue fn q).fetched, packet := ws, args := args, tasks := tasks, waits := waitsOf ws,
          status := status.map (·.1), detail := (status.map (·.2)).getD 0, posted := false,
          joined := v.joinedWith fn q }
      ∧ ∀ k, k ≠ v.nextLid → w.launch k = v.launch k := by
  let l : Launch := { Launch.empty with
    fn := fn, queue := q, index := (v.queue fn q).fetched, packet := ws, args := args, tasks := tasks, waits := waitsOf ws,
    status := status.map (·.1), detail := (status.map (·.2)).getD 0, posted := false, joined := v.joinedWith fn q }
  let listed : State := { v with nextLid := v.nextLid + 1 }.setLaunch v.nextLid l
  obtain ⟨-, -, hqueue, -⟩ := queueBecomes_modQueue listed fn q fun x => { x with fetched := x.fetched + 1#32 }
  refine ⟨listed.modQueue fn q fun x => { x with fetched := x.fetched + 1#32 }, ?_, rfl, hqueue, Tab.get_set_self _ _ _ _,
    fun k hk => Tab.get_set_other _ _ _ hk⟩
  show execLaunchArrival fn q s = _
  unfold execLaunchArrival
  rw [happens_of _ hmay]
  simp only [hfetch]
  rfl

/-- What the standing of a slot is, in every dispatcher, after a bind record of the slot. -/
theorem standing_dropped (ds : Tab Dispatcher) (slot d : Nat) :
    Tab.get Standing.reset (Tab.get Dispatcher.reset (ds.map fun d => (d.1, { d.2 with standings := Tab.erase d.2.standings slot })) d).standings
      slot = Standing.reset :=
  Tab.get_map_cases Dispatcher.reset (fun d : Nat × Dispatcher => (d.1, { d.2 with standings := Tab.erase d.2.standings slot }))
    (R := fun _ d => Tab.get Standing.reset d.standings slot = Standing.reset) rfl (fun _ => rfl) (fun _ => Tab.get_erase_self _ _ _) ds d

/-- A bind record as it is written, in a slot. -/
def bindOf (ws : List Word) : Bind := { valid := (ws.getD 0 0#32).getLsbD 31, words := (List.range 16).map fun i => ws.getD i 0#32 }

/-- The state with a bind record in a slot, and what SLOTSTAT says of it. -/
def boundAs (s : State) (slot : Nat) (b : Bind) (stat : Word) : State :=
  { s with
    binds := Tab.set Bind.empty s.binds slot b
    pack := { s.pack with slotstat := stat }
    dispatchers := s.dispatchers.map fun d => (d.1, { d.2 with standings := Tab.erase d.2.standings slot }) }

/-- What a bind record in a slot leaves. -/
theorem bound_becomes (s : State) (slot stat : Nat) (r : Bind) :
    let u := boundAs s slot r (BitVec.ofNat 32 stat)
    u = { s with binds := u.binds, dispatchers := u.dispatchers, pack := { s.pack with slotstat := BitVec.ofNat 32 stat } }
      ∧ Tab.get Bind.empty u.binds slot = r ∧ (∀ k, k ≠ slot → Tab.get Bind.empty u.binds k = Tab.get Bind.empty s.binds k)
      ∧ ∀ d, Tab.get Standing.reset (Tab.get Dispatcher.reset u.dispatchers d).standings slot = Standing.reset :=
  ⟨rfl, Tab.get_set_self _ _ _ _, fun _ hk => Tab.get_set_other _ _ _ hk, fun d => standing_dropped s.dispatchers slot d⟩

theorem bindRecordWrite_exec {slot : Nat} (ws : List Word) (hlinked : linked s) (hslot : slot < 1024) :
    exec (.bindRecordWrite slot ws) s =
      let b := bindOf ws
      let reason := if b.valid then s.bindReason slot b else 0
      .next (boundAs s slot (if reason = 0 then b else Bind.empty)
        (BitVec.ofNat 32 ((if reason = 0 then 0 else 2 ^ 31) + slot * 2 ^ 16 + reason))) := by
  have hmay : (s.hostUp && decide (slot < 1024)) = true := by simp [hostUp_of_linked hlinked, hslot]
  show execBindRecordWrite slot ws s = _
  unfold execBindRecordWrite
  rw [happens_of _ hmay]
  rfl

/-- A record that is not valid, or that the rules take, stands in its slot. -/
theorem bindRecordWrite_taken {slot : Nat} {ws : List Word} (hlinked : linked s) (hslot : slot < 1024)
    (htaken : (bindOf ws).valid = false ∨ s.bindReason slot (bindOf ws) = 0) :
    exec (.bindRecordWrite slot ws) s = .next (boundAs s slot (bindOf ws) (BitVec.ofNat 32 (slot * 2 ^ 16))) := by
  have hreason : (if (bindOf ws).valid then s.bindReason slot (bindOf ws) else 0) = 0 := by
    rcases htaken with h | h <;> simp [h]
  simp only [bindRecordWrite_exec ws hlinked hslot, hreason, if_true, Nat.zero_add, Nat.add_zero]

/-- A record that the rules refuse leaves its slot empty. -/
theorem bindRecordWrite_refused {slot : Nat} {ws : List Word} (hlinked : linked s) (hslot : slot < 1024)
    (hvalid : (bindOf ws).valid = true) (hbad : s.bindReason slot (bindOf ws) ≠ 0) :
    exec (.bindRecordWrite slot ws) s
      = .next (boundAs s slot Bind.empty (BitVec.ofNat 32 (2 ^ 31 + slot * 2 ^ 16 + s.bindReason slot (bindOf ws)))) := by
  simp only [bindRecordWrite_exec ws hlinked hslot, hvalid, if_true, if_neg hbad]

/-- What a change of one core leaves. -/
theorem onlyCore_modCore (s : State) (c : Nat) (f : Core → Core) : onlyCore c s (s.modCore c f) ∧ (s.modCore c f).core c = f (s.core c) :=
  ⟨⟨rfl, fun _ hd => State.core_modCore_other s f hd⟩, State.core_modCore s c f⟩

/-- A queue that has been passed over often enough rises. -/
theorem agingPromotion_brings (d slot : Nat) : brings (.agingPromotion d slot) (fun s => 64 ≤ (s.standing d slot).passed)
    fun s u => u = { s with dispatchers := u.dispatchers }
      ∧ u.standing d slot = { s.standing d slot with passed := 0, promoted := (s.standing d slot).promoted + 1 }
      ∧ ∀ e k, (e ≠ d ∨ k ≠ slot) → u.standing e k = s.standing e k := by
  refine brings_of_happens (fun _ => rfl) fun s hpassed => ⟨decide_eq_true hpassed, rfl, ?_, fun e k hother => ?_⟩
  · simp only [State.standing, Tab.get_set_self]
  · simp only [State.standing]
    by_cases he : e = d
    · subst he
      rw [Tab.get_set_self, Tab.get_set_other _ _ _ (hother.resolve_left fun h => h rfl)]
    · rw [Tab.get_set_other _ _ _ he]

/-- Every wait that is not done is owed a read. -/
theorem oweReads_owed (s : State) : ∀ e ∈ s.oweReads.launches, ∀ y ∈ e.2.waits, y.done = false → y.owed = true := by
  intro e he y hy hdone
  obtain ⟨e₀, -, rfl⟩ := List.mem_map.mp he
  obtain ⟨y₀, -, rfl⟩ := List.mem_map.mp hy
  cases hy₀ : y₀.done
  · simp
  · simp [hy₀] at hdone

theorem oweReads_posted (s : State) (lid : Nat) : (s.oweReads.launch lid).posted = (s.launch lid).posted :=
  Tab.get_map_cases Launch.empty (fun e : Nat × Launch => (e.1, { e.2 with waits := e.2.waits.map fun w => if w.done then w else { w with owed := true } }))
    (R := fun a b => b.posted = a.posted) rfl (fun _ => rfl) (fun _ => rfl) s.launches lid

theorem consume_launch (s : State) (fn q n lid : Nat) : (s.consume fn q n).launch lid = s.launch lid := by
  induction n generalizing s with
  | zero => rfl
  | succ n ih =>
    unfold State.consume
    extract_lets qu
    split
    · rw [ih]
      rfl
    · rfl

/-- A completion record leaves its launch posted, and every wait that is not done owed a read. -/
theorem writeRecord_posts (s : State) (lid x : Nat) : ((s.writeRecord lid x).launch lid).posted = true
    ∧ ∀ e ∈ (s.writeRecord lid x).launches, ∀ y ∈ e.2.waits, y.done = false → y.owed = true := by
  unfold State.writeRecord
  extract_lets +onlyGivenNames l ws r
  refine ⟨?_, oweReads_owed _⟩
  rw [oweReads_posted, consume_launch]
  exact congrArg Launch.posted (Tab.get_set_self Launch.empty r.launches lid _)

/-- A record is posted: the launch has a status, and nothing holds its record. -/
theorem completionRecordPost_exec {lid x : Nat} {a : Ask} (hmay : s.postMay lid = true) (hstatus : (s.launch lid).status = some x)
    (hasked : (if (s.launch lid).packet.isEmpty then (s, Ask.fails 7) else s.ask (s.launch lid).fn (s.launch lid).recAddr 1 s.dispatchWho) = (v, a))
    (hgoes : a ≠ .waits) : exec (.completionRecordPost lid) s = .next (v.writeRecord lid x) := by
  show execCompletionRecordPost lid s = _
  unfold execCompletionRecordPost
  rw [happens_of _ hmay]
  simp only [hasked, hstatus, Option.getD_some]

end Sys2Proof.Claim

open Sys2Proof Sys2Proof.Claim

/-- Settles O54: each event of a launch, clause by clause. -/
theorem launchesGoOn : Obligations.LaunchesGoOn := by
  unfold Obligations.LaunchesGoOn
  refine ⟨?doorbell, fun _ _ _ _ _ _ _ _ hmay hfetch => launchArrival_arrives hmay hfetch, waitReread_brings, ?bind, ?hopeless, ?choice, ?drain,
    agingPromotion_brings, ?record⟩
  case doorbell =>
    intro fn q w ahead known rings s
    obtain ⟨hclosed, hoff, hstopped, hruns⟩ := ringDoorbell_cases s fn q w
    refine ⟨?_, ?_, ?_, ?_, ?_, ?_⟩
    · rintro ⟨⟨hopen, hfn⟩, hon, hgoing⟩ hahead hnear
      obtain ⟨-, -, hmoves⟩ := hruns hfn hon hgoing
      exact doorbell_rings hopen (hmoves hahead hnear)
    · exact fun hopen hfn => doorbell_rings hopen (hclosed hfn)
    · exact fun ⟨hopen, hfn⟩ hx => doorbell_rings hopen (hoff hfn hx)
    · exact fun ⟨hopen, hfn⟩ hon hstop => doorbell_rings hopen (hstopped hfn hon hstop)
    · rintro ⟨⟨hopen, hfn⟩, hon, hgoing⟩ hback
      obtain ⟨hstops, -, -⟩ := hruns hfn hon hgoing
      exact doorbell_rings hopen (hstops hback)
    · rintro ⟨⟨hopen, hfn⟩, hon, hgoing⟩ hahead hfar
      obtain ⟨-, hstops, -⟩ := hruns hfn hon hgoing
      exact doorbell_rings hopen (hstops hahead hfar)
  case bind =>
    intro slot ws b becomes
    exact ⟨fun s ⟨hlinked, hslot, htaken⟩ => ⟨_, bindRecordWrite_taken hlinked hslot htaken, bound_becomes s slot _ b⟩,
      fun s ⟨hlinked, hslot, hvalid, hbad⟩ => ⟨_, bindRecordWrite_refused hlinked hslot hvalid hbad, bound_becomes s slot _ Bind.empty⟩⟩
  case hopeless =>
    intro d lid x
    refine brings_of_happens (fun _ => rfl) fun s ⟨hmay, hhopeless⟩ => ⟨hmay, ?_⟩
    simp only [hhopeless]
    exact launchBecomes_modLaunch s lid _
  case choice =>
    intro d slot lid b cores s ⟨hmay, hnone, hdrain, hchoice⟩
    show execPlacementDecision d s = _
    unfold execPlacementDecision
    rw [happens_of _ hmay]
    simp only [hnone, hdrain, hchoice]
  case drain =>
    intro d lid c
    refine brings_of_happens (fun _ => rfl) fun s ⟨hmay, hnone, hdrain⟩ => ⟨hmay, ?_⟩
    simp only [hnone, hdrain]
    exact onlyCore_modCore s c _
  case record =>
    intro lid x done posts
    refine ⟨fun leaf s v ⟨hmay, hstatus⟩ hpacket hask => ?_, fun s ⟨hmay, hstatus⟩ hpacket => ?_⟩
    · exact ⟨completionRecordPost_exec (a := .go leaf) hmay hstatus (by simp [hpacket, hask]) nofun, writeRecord_posts v lid x⟩
    · exact ⟨completionRecordPost_exec (a := .fails 7) hmay hstatus (by simp [hpacket]) nofun, writeRecord_posts s lid x⟩

end

section
/-! SUPPORT. What the host asks, and what the driver writes. -/

open Sys2Proof.Machine

namespace Sys2Proof.Claim

variable {s v : State}

/-! ## Fields, and changes of one function -/

theorem bits_eq_extract (w : Word) (hi lo : Nat) : w.bits hi lo = (w.extractLsb' lo (hi + 1 - lo)).toNat := by
  simp [Word.bits, BitVec.extractLsb'_toNat, Nat.shiftRight_eq_div_pow]

theorem bytesOf_eq_extract (w : Word) : bytesOf w = (List.range 4).map fun i => w.extractLsb' (8 * i) 8 :=
  List.map_congr_left fun i _ => byteOf_eq_extract w i

/-- What a change of one die leaves. -/
theorem onlyDie_modDie (s : State) (d : Nat) (f : Die → Die) : onlyDie d s (s.modDie d f) ∧ (s.modDie d f).die d = f (s.die d) :=
  ⟨⟨rfl, fun _ hk => Tab.get_set_other _ _ _ hk⟩, Tab.get_set_self _ _ _ _⟩

/-- A change of one function under a window that takes writes. -/
theorem brings_fnWrite {e : Instr} {fn : Nat} {effect : State → State} {ok : State → Prop} {gives : State → State → Prop}
    (hexec : ∀ s, exec e s = s.fnWrite fn effect) (hok : ∀ s, ok s → openFn fn s ∧ gives s (effect s)) : brings e ok gives :=
  brings_of_happens hexec fun s hs => ⟨hostUp_of_openFn (hok s hs).1, (hok s hs).2⟩

/-- An event that waits for the link alone. -/
theorem brings_linked {e : Instr} {effect : State → State} {ok : State → Prop} {gives : State → State → Prop}
    (hexec : ∀ s, exec e s = s.happens State.hostUp effect) (hok : ∀ s, ok s → linked s ∧ gives s (effect s)) : brings e ok gives :=
  brings_of_happens hexec fun s hs => ⟨hostUp_of_linked (hok s hs).1, (hok s hs).2⟩

/-- An event whose effect is known. -/
theorem brings_of_exec {e : Instr} {effect : State → State} {ok : State → Prop} {gives : State → State → Prop}
    (hok : ∀ s, ok s → exec e s = .next (effect s) ∧ gives s (effect s)) : brings e ok gives :=
  fun s hs => ⟨effect s, (hok s hs).1, (hok s hs).2⟩

/-! ## The host's requests -/

theorem hostRead_occurs (fn a n : Nat) :
    occurs (.hostRead fn a n) (fun s => linked s ∧ 0 < n) (asked_ { fn := fn, addr := a, n := n, bytes := none }) := by
  intro s ⟨hlinked, hn⟩
  exact happens_of (ok := fun s => s.hostUp && decide (0 < n)) (fun s => s.hostAsk { fn := fn, addr := a, n := n, bytes := none })
    (by simp [hostUp_of_linked hlinked, hn])

theorem hostWrite_occurs (fn a : Nat) (bytes : List Byte) : occurs (.hostWrite fn a bytes) (fun s => linked s ∧ bytes ≠ [])
    (asked_ { fn := fn, addr := a, n := bytes.length, bytes := some bytes }) := by
  intro s ⟨hlinked, hbytes⟩
  exact happens_of (ok := fun s => s.hostUp && decide (0 < bytes.length))
    (fun s => s.hostAsk { fn := fn, addr := a, n := bytes.length, bytes := some bytes })
    (by simp [hostUp_of_linked hlinked, List.length_pos_iff.mpr hbytes])

/-- The oldest request of a function is served, by what the pages it names answer. -/
theorem hostServed_of {fn : Nat} {q : HostReq} (hnext : s.pack.hostQ.find? (fun x => x.fn == fn) = some q) (hmay : s.hostServeMay fn = true) :
    hostServed fn q s v := by
  have hserve : execHostServe fn s = .next _ := happens_of _ hmay
  have hq : s.hostNext fn = some q := hnext
  unfold hostServed
  intro n pages
  have haccess : q.access = if q.bytes = none then 0 else 1 := by
    unfold HostReq.access
    cases q.bytes <;> rfl
  have hlength : q.length = n := by
    unfold HostReq.length n
    cases q.bytes <;> rfl
  have hpages : s.askAll fn q.access (s.hostWho fn q.addr) (pageStarts q.addr q.length) = pages := by
    rw [haccess, hlength]
  simp only [hq, hpages] at hserve
  refine ⟨fun hgo hnone => ?_, fun bs hgo hsome => ?_, fun hwait => ?_, fun c hfail => ?_⟩
  · have hn : n = q.n := if_pos hnone
    rw [hserve, hgo, hnone, hn]
    rfl
  · rw [hserve, hgo, hsome]
    have hn : n = bs.length := by simp [n, hsome]
    rw [hn]
    rfl
  · rw [hserve, hwait]
  · rw [hserve, hfail]
    rfl

/-! ## Protocols and ranges -/

theorem protocolLoad_brings (w : Word) : brings (.protocolLoad w) (fun s => linked s ∧ s.pack.plbusy = false)
    fun s u =>
      let at_ := (s.pack.plreq.getD 0 0#32).toNat + (s.pack.plreq.getD 1 0#32).toNat * 2 ^ 32
      let slot := (w.extractLsb' 0 3).toNat
      u = { s with pack := { s.pack with plreq := s.pack.plreq.set 2 w, plbusy := true, plslot := slot, pladdr := at_ } } := by
  refine brings_linked (fun _ => rfl) fun s ⟨hlinked, hfree⟩ => ⟨hlinked, ?_⟩
  unfold State.loadProtocol
  rw [hfree, if_neg Bool.false_ne_true, bits_eq_extract]

/-- The code that a load of a protocol ends with. -/
def loadCode (s : State) : Nat := verifyCode s.loadImage (s.pack.plslot < 5 || s.slotInUse s.pack.plslot)

theorem protocolVerifyDone_refused : brings .protocolVerifyDone (fun s => s.pack.plbusy = true ∧ loadCode s ≠ 0)
    fun s u => u = { s with pack := { s.pack with plbusy := false, plreason := loadCode s } } := by
  refine brings_of_happens (fun _ => rfl) fun s ⟨hbusy, hcode⟩ => ⟨hbusy, ?_⟩
  exact if_pos hcode

theorem protocolVerifyDone_taken : brings .protocolVerifyDone (fun s => s.pack.plbusy = true ∧ loadCode s = 0) fun s u =>
    let image : List Byte := s.loadImage.flatMap fun w => (List.range 4).map fun i => w.extractLsb' (8 * i) 8
    u = { s with pack := { s.pack with
      plbusy := false, plreason := 0, protos := s.pack.protos.set (s.pack.plslot - 5) (some s.loadImage),
      measures := s.pack.measures.set (s.pack.plslot + 2) (Config.sm3 image) } } := by
  refine brings_of_happens (fun _ => rfl) fun s ⟨hbusy, hcode⟩ => ⟨hbusy, ?_⟩
  have hbytes : s.loadImage.flatMap bytesOf = s.loadImage.flatMap fun w => (List.range 4).map fun i => w.extractLsb' (8 * i) 8 :=
    congrArg (s.loadImage.flatMap ·) (funext bytesOf_eq_extract)
  intro image
  have hzero : ¬loadCode s ≠ 0 := fun h => h hcode
  refine (if_neg hzero).trans ?_
  rw [show verifyCode s.loadImage (s.pack.plslot < 5 || s.slotInUse s.pack.plslot) = 0 from hcode, hbytes]

/-- A range entry as it is written. -/
def rangeOf (ws : List Word) : Range := { valid := (ws.getD 0 0#32).getLsbD 31, words := (List.range 4).map fun j => ws.getD j 0#32 }

/-- An entry put into a function's table. -/
def putRange (fn i : Nat) (x : Range) (s : State) : State := s.modFn fn fun f => { f with ranges := f.ranges.set i x }

/-- The words of an entry kept as they are written. -/
def keptWords (fn i : Nat) (ws : List Word) (s : State) : State := s.modFn fn fun f => { f with
  stage := (List.range 3).foldl (fun m j => Tab.set 0#32 m (4 * i + 1 + j) (ws.getD (1 + j) 0#32)) f.stage }

theorem rangeEntryWrite_exec {fn i : Nat} {ws : List Word} (hlinked : linked s) (hi : i < 64) :
    exec (.rangeEntryWrite fn i ws) s = .next (
      let old := s.range fn i
      let kept := keptWords fn i ws s
      if !(rangeOf ws).valid then
        (putRange fn i (rangeOf ws) (if old.valid then kept.dropRange fn old.base old.size else kept)).clearToken (fn * 64 + i)
      else if old.valid then kept
      else if kept.rangeRefused fn i (rangeOf ws) then putRange fn i Range.empty kept
      else (putRange fn i (rangeOf ws) kept).clearToken (fn * 64 + i)) :=
  happens_of (ok := fun s => s.hostUp && decide (i < 64)) (fun s => s.writeRange fn i ws) (by simp [hostUp_of_linked hlinked, hi])

section
variable {fn i : Nat} {ws : List Word} (hlinked : linked s) (hi : i < 64)
include hlinked hi

/-- An entry that is made invalid leaves the table, with what the range held. -/
theorem rangeEntryWrite_drops (hr : (rangeOf ws).valid = false) (hold : (s.range fn i).valid = true) :
    exec (.rangeEntryWrite fn i ws) s = .next ((putRange fn i (rangeOf ws)
      ((keptWords fn i ws s).dropRange fn (s.range fn i).base (s.range fn i).size)).clearToken (fn * 64 + i)) := by
  rw [rangeEntryWrite_exec hlinked hi]
  simp only [hr, hold, Bool.not_false, if_true]

theorem rangeEntryWrite_clears (hr : (rangeOf ws).valid = false) (hold : (s.range fn i).valid = false) :
    exec (.rangeEntryWrite fn i ws) s = .next ((putRange fn i (rangeOf ws) (keptWords fn i ws s)).clearToken (fn * 64 + i)) := by
  rw [rangeEntryWrite_exec hlinked hi]
  simp only [hr, hold, Bool.not_false, if_true, Bool.false_eq_true, if_false]

/-- An entry that is valid is not overwritten. -/
theorem rangeEntryWrite_stands (hr : (rangeOf ws).valid = true) (hold : (s.range fn i).valid = true) :
    exec (.rangeEntryWrite fn i ws) s = .next (keptWords fn i ws s) := by
  rw [rangeEntryWrite_exec hlinked hi]
  simp only [hr, hold, Bool.not_true, if_true, Bool.false_eq_true, if_false]

theorem rangeEntryWrite_refused (hr : (rangeOf ws).valid = true) (hold : (s.range fn i).valid = false)
    (hbad : (keptWords fn i ws s).rangeRefused fn i (rangeOf ws) = true) :
    exec (.rangeEntryWrite fn i ws) s = .next (putRange fn i Range.empty (keptWords fn i ws s)) := by
  rw [rangeEntryWrite_exec hlinked hi]
  simp only [hr, hold, hbad, Bool.not_true, if_true, Bool.false_eq_true, if_false]

theorem rangeEntryWrite_taken (hr : (rangeOf ws).valid = true) (hold : (s.range fn i).valid = false)
    (hgood : (keptWords fn i ws s).rangeRefused fn i (rangeOf ws) = false) :
    exec (.rangeEntryWrite fn i ws) s = .next ((putRange fn i (rangeOf ws) (keptWords fn i ws s)).clearToken (fn * 64 + i)) := by
  rw [rangeEntryWrite_exec hlinked hi]
  simp only [hr, hold, hgood, Bool.not_true, Bool.false_eq_true, if_false]

end

/-! ## Functions -/

theorem newKey_fn (s : State) (fn : Nat) : (s.newKey fn).fn fn = { s.fn fn with keyGen := s.pack.keySeq + 1 } := Tab.get_set_self _ _ _ _

theorem newKey_fn_other {fn k : Nat} (s : State) (hk : k ≠ fn) : (s.newKey fn).fn k = s.fn k := Tab.get_set_other _ _ _ hk

theorem functionEnable_brings (fn : Nat) : brings (.functionEnable fn) (fun s => linked s ∧ (s.fn fn).enabled = false)
    fun s u => (u = { s with fns := u.fns, pack := { s.pack with keySeq := s.pack.keySeq + 1 } } ∧ ∀ k, k ≠ fn → u.fn k = s.fn k)
      ∧ u.fn fn = { s.fn fn with enabled := true, keyGen := s.pack.keySeq + 1 } := by
  refine brings_linked (fun _ => rfl) fun s ⟨hlinked, hoff⟩ => ⟨hlinked, ?_⟩
  have henable : s.enableFunction fn = (s.newKey fn).modFn fn fun f => { f with enabled := true } := if_neg (by simp [hoff])
  obtain ⟨⟨-, hothers⟩, hself⟩ := onlyFn_modFn (s.newKey fn) fn fun f => { f with enabled := true }
  rw [henable]
  refine ⟨⟨rfl, fun k hk => (hothers k hk).trans (newKey_fn_other s hk)⟩, hself.trans ?_⟩
  rw [newKey_fn]

theorem functionReset_brings (fn : Nat) : brings (.functionReset fn) linked
    fun s u => (u = { s.fence fn with fns := u.fns, pack := { (s.fence fn).pack with keySeq := (s.fence fn).pack.keySeq + 1 } }
        ∧ ∀ k, k ≠ fn → u.fn k = (s.fence fn).fn k)
      ∧ u.fn fn = { Function.reset with enabled := (s.fn fn).enabled, keyGen := (s.fence fn).pack.keySeq + 1 } := by
  refine brings_linked (fun _ => rfl) fun s hlinked => ⟨hlinked, ⟨rfl, fun k hk => ?_⟩, ?_⟩
  · exact (newKey_fn_other _ hk).trans (Tab.get_set_other _ _ _ hk)
  · refine (newKey_fn _ fn).trans ?_
    rw [show ((s.fence fn).setFn fn { Function.reset with enabled := (s.fn fn).enabled }).fn fn
      = { Function.reset with enabled := (s.fn fn).enabled } from Tab.get_set_self _ _ _ _]
    rfl

theorem frameWindowWrite_brings (fn d : Nat) (w : Word) : brings (.frameWindowWrite fn d w)
    (fun s => linked s ∧ ∀ e ∈ s.fns, e.1 = fn ∨ windowsMeet w (e.2.frames.getD d 0#32) = false)
    fun s u => onlyFn fn s u ∧ u.fn fn = { s.fn fn with frames := (s.fn fn).frames.set d (w &&& 0x007F007F#32) } := by
  refine brings_linked (fun _ => rfl) fun s ⟨hlinked, hapart⟩ => ⟨hlinked, ?_⟩
  have hnone : (s.fns.any fun e => e.1 != fn && windowsMeet w (e.2.frames.getD d 0#32)) = false := by
    refine List.any_eq_false.mpr fun e he => ?_
    rcases hapart e he with h | h
    · simp [h]
    · rw [h, Bool.and_false]
      exact Bool.false_ne_true
  unfold State.writeWindow
  rw [hnone, if_neg Bool.false_ne_true]
  exact onlyFn_modFn s fn _

end Sys2Proof.Claim
end

section
/-! SUPPORT. The driver's registers. -/

open Sys2Proof.Machine

namespace Sys2Proof.Claim

variable {s : State}

/-! ## Queue registers -/

/-- A write that a rule refuses sets the function's error bit, and does nothing else. -/
def refusedWrite (fn : Nat) (s u : State) : Prop := onlyFn fn s u ∧ u.fn fn = { s.fn fn with error := true }

theorem refusedWrite_fnError (s : State) (fn : Nat) : refusedWrite fn s (s.fnError fn) := onlyFn_modFn s fn _

/-- The queue that a function's registers name. -/
def namedQueue (fn : Nat) (s : State) : Queue := s.queue fn (s.fn fn).qsel

theorem qbaseWrite_brings (fn : Nat) (hi : Bool) (w : Word) :
    brings (.qbaseWrite fn hi w) (fun s => openFn fn s ∧ (namedQueue fn s).enabled = false) fun s u =>
      queueBecomes fn (s.fn fn).qsel s u
        { namedQueue fn s with base := halfWritten (namedQueue fn s).base hi (if hi then w else w &&& ~~~0x7F#32) } := by
  refine brings_fnWrite (fun _ => rfl) fun s ⟨hopen, hoff⟩ => ⟨hopen, ?_⟩
  have hclosed : ¬(s.queue fn (s.fn fn).qsel).enabled = true := by simpa [namedQueue] using hoff
  simp only [if_neg hclosed]
  exact queueBecomes_modQueue s fn _ _

theorem qbaseWrite_refused (fn : Nat) (hi : Bool) (w : Word) :
    brings (.qbaseWrite fn hi w) (fun s => openFn fn s ∧ (namedQueue fn s).enabled = true) (refusedWrite fn) := by
  refine brings_fnWrite (fun _ => rfl) fun s ⟨hopen, hon⟩ => ⟨hopen, ?_⟩
  have hrunning : (s.queue fn (s.fn fn).qsel).enabled = true := hon
  simp only [if_pos hrunning]
  exact refusedWrite_fnError s fn

/-- The size that a write of QCTL names. -/
def sizeField (w : Word) : Nat := (w.extractLsb' 0 5).toNat

theorem queueEnable_brings (fn : Nat) (w : Word) :
    brings (.queueEnable fn w) (fun s => openFn fn s ∧ 4 ≤ sizeField w ∧ sizeField w ≤ 16 ∧ (namedQueue fn s).enabled = false)
      fun s u => queueBecomes fn (s.fn fn).qsel s u { namedQueue fn s with
        k := sizeField w, enabled := true, stopped := false, reason := 0, doorbell := 0#32, read := 0#32, fetched := 0#32, since := s.nextLid } := by
  refine brings_fnWrite (fun _ => rfl) fun s ⟨hopen, hlow, hhigh, hoff⟩ => ⟨hopen, ?_⟩
  have hclosed : ¬(s.queue fn (s.fn fn).qsel).enabled = true := by simpa [namedQueue] using hoff
  have hsize : w.bits 4 0 = sizeField w := bits_eq_extract w 4 0
  have hlegal : ¬(decide (sizeField w < 4) || decide (16 < sizeField w)) = true := by simp [hlow, hhigh]
  simp only [hsize, if_neg hlegal, if_neg hclosed]
  exact queueBecomes_modQueue s fn _ _

theorem queueEnable_badSize (fn : Nat) (w : Word) :
    brings (.queueEnable fn w) (fun s => openFn fn s ∧ (sizeField w < 4 ∨ 16 < sizeField w)) (refusedWrite fn) := by
  refine brings_fnWrite (fun _ => rfl) fun s ⟨hopen, hbad⟩ => ⟨hopen, ?_⟩
  have hsize : w.bits 4 0 = sizeField w := bits_eq_extract w 4 0
  have hillegal : (decide (sizeField w < 4) || decide (16 < sizeField w)) = true := by simpa using hbad
  simp only [hsize, if_pos hillegal]
  exact refusedWrite_fnError s fn

theorem queueEnable_otherSize (fn : Nat) (w : Word) :
    brings (.queueEnable fn w) (fun s => openFn fn s ∧ (namedQueue fn s).enabled = true ∧ sizeField w ≠ (namedQueue fn s).k)
      (refusedWrite fn) := by
  refine brings_fnWrite (fun _ => rfl) fun s ⟨hopen, hon, hother⟩ => ⟨hopen, ?_⟩
  have hsize : w.bits 4 0 = sizeField w := bits_eq_extract w 4 0
  have hrunning : (s.queue fn (s.fn fn).qsel).enabled = true := hon
  have hdiffers : ¬sizeField w = (s.queue fn (s.fn fn).qsel).k := hother
  simp only [hsize, if_pos hrunning, if_neg hdiffers, ite_self]
  exact refusedWrite_fnError s fn

theorem queueDisable_brings (fn : Nat) (w : Word) :
    brings (.queueDisable fn w) (fun s => openFn fn s ∧ (namedQueue fn s).enabled = true ∧ sizeField w = (namedQueue fn s).k)
      fun s u => queueBecomes fn (s.fn fn).qsel s u { namedQueue fn s with enabled := false, stopped := true, reason := 0 } := by
  refine brings_fnWrite (fun _ => rfl) fun s ⟨hopen, hon, hsame⟩ => ⟨hopen, ?_⟩
  have hsize : w.bits 4 0 = sizeField w := bits_eq_extract w 4 0
  have hrunning : (s.queue fn (s.fn fn).qsel).enabled = true := hon
  have hequal : sizeField w = (s.queue fn (s.fn fn).qsel).k := hsame
  simp only [hsize, if_pos hrunning, if_pos hequal]
  exact queueBecomes_modQueue s fn _ _

theorem queueDisable_idle (fn : Nat) (w : Word) :
    brings (.queueDisable fn w) (fun s => openFn fn s ∧ (namedQueue fn s).enabled = false)
      fun s u => queueBecomes fn (s.fn fn).qsel s u { namedQueue fn s with k := sizeField w } := by
  refine brings_fnWrite (fun _ => rfl) fun s ⟨hopen, hoff⟩ => ⟨hopen, ?_⟩
  have hclosed : ¬(s.queue fn (s.fn fn).qsel).enabled = true := by simpa [namedQueue] using hoff
  have hsize : w.bits 4 0 = sizeField w := bits_eq_extract w 4 0
  simp only [hsize, if_neg hclosed]
  exact queueBecomes_modQueue s fn _ _

/-! ## The register map -/

/-- A register of a function's own window. -/
theorem registerWrite_window {fn off : Nat} (w : Word) (hoff : off < 2 ^ 20) (hopen : openFn fn s) :
    exec (.registerWrite fn off w) s = .next (s.bar0Write fn off w) :=
  (if_pos hoff).trans (fnWrite_of_openFn (fun s => s.bar0Write fn off w) hopen)

/-- A register of the physical function's window. -/
theorem registerWrite_physical {x : Nat} (w : Word) (hx : x < 2 ^ 20) (hlinked : linked s) :
    exec (.registerWrite 0 (2 ^ 20 + x) w) s = .next (s.bar2Write x w) := by
  have hhigh : ¬2 ^ 20 + x < 2 ^ 20 := Nat.not_lt.mpr (Nat.le_add_right _ _)
  have hlow : 2 ^ 20 + x < 2 ^ 21 := by omega
  refine (if_neg hhigh).trans ((if_pos hlow).trans ?_)
  rw [Nat.add_sub_cancel_left]
  exact happens_of (ok := fun s => s.hostUp && (0 : Nat) == 0) (fun s => s.bar2Write x w) (by simp [hostUp_of_linked hlinked])

/-- A word of firmware's. -/
theorem registerWrite_firmware (i : Nat) (w : Word) : exec (.registerWrite 0 (2 ^ 21 + 4 * i) w) s = .next (s.firmwareWrite i w) := by
  have hhigh : ¬2 ^ 21 + 4 * i < 2 ^ 20 := by omega
  have habove : ¬2 ^ 21 + 4 * i < 2 ^ 21 := Nat.not_lt.mpr (Nat.le_add_right _ _)
  refine (if_neg hhigh).trans ((if_neg habove).trans ?_)
  rw [Nat.add_sub_cancel_left, Nat.mul_div_cancel_left i (by decide)]
  exact happens_of (ok := fun _ => (0 : Nat) == 0) (fun s => s.firmwareWrite i w) rfl

/-- A register of the window, whose write changes the function. -/
theorem window_brings {fn off : Nat} {w : Word} {f : State → Function} (hoff : off < 2 ^ 20)
    (hwrite : ∀ s : State, s.bar0Write fn off w = s.modFn fn fun _ => f s) :
    brings (.registerWrite fn off w) (openFn fn) fun s u => onlyFn fn s u ∧ u.fn fn = f s :=
  brings_of_exec (effect := fun s => s.modFn fn fun _ => f s) fun s hopen =>
    ⟨(registerWrite_window w hoff hopen).trans (congrArg Host.Outcome.next (hwrite s)), onlyFn_modFn s fn fun _ => f s⟩

/-- A register of a function in the physical function's window, whose write changes the function. -/
theorem control_brings {g i : Nat} {w : Word} {f : State → Function} (hg : g < 64) (hi : i < 64)
    (hwrite : ∀ s : State, s.controlWrite g i w = s.modFn g fun _ => f s) :
    brings (.registerWrite 0 (2 ^ 20 + 0x10000 + 256 * g + 4 * i) w) linked fun s u => onlyFn g s u ∧ u.fn g = f s := by
  refine brings_of_exec (effect := fun s => s.modFn g fun _ => f s) fun s hlinked => ⟨?_, onlyFn_modFn s g fun _ => f s⟩
  have hplace : 2 ^ 20 + 0x10000 + 256 * g + 4 * i = 2 ^ 20 + (0x10000 + 256 * g + 4 * i) := by omega
  rw [hplace, registerWrite_physical w (by omega) hlinked]
  refine congrArg Host.Outcome.next ((if_neg (by omega)).trans ((if_pos (by omega)).trans ?_))
  rw [show (0x10000 + 256 * g + 4 * i - 0x10000) / 256 = g by omega, show (0x10000 + 256 * g + 4 * i) % 256 / 4 = i by omega]
  exact hwrite s

/-- A word of a range entry, other than its first, is kept as it is written. -/
theorem stage_brings {g i : Nat} (w : Word) (hg : g < 64) (hi : i < 256) (hrest : i % 4 ≠ 0) :
    brings (.registerWrite 0 (2 ^ 20 + 0x400 * g + 4 * i) w) linked
      fun s u => onlyFn g s u ∧ u.fn g = { s.fn g with stage := Tab.set 0#32 (s.fn g).stage i w } := by
  let f : Function → Function := fun f => { f with stage := Tab.set 0#32 f.stage i w }
  refine brings_of_exec (effect := fun s => s.modFn g f) fun s hlinked => ⟨?_, onlyFn_modFn s g f⟩
  rw [Nat.add_assoc, registerWrite_physical w (by omega) hlinked]
  refine congrArg Host.Outcome.next ((if_pos (by omega)).trans ?_)
  simp only [show (0x400 * g + 4 * i) / 0x400 = g by omega, show (0x400 * g + 4 * i) % 0x400 / 4 = i by omega]
  exact if_pos hrest

/-- The first word of a range entry writes the entry, with the words that are kept. -/
theorem registerWrite_rangeEntry {g i : Nat} (w : Word) (hg : g < 64) (hi : i < 64) (hlinked : linked s) :
    exec (.registerWrite 0 (2 ^ 20 + 0x400 * g + 16 * i) w) s
      = exec (.rangeEntryWrite g i (w :: (List.range 3).map fun j => Tab.get 0#32 (s.fn g).stage (4 * i + 1 + j))) s := by
  rw [Nat.add_assoc, registerWrite_physical w (by omega) hlinked]
  have hentry (ws : List Word) : exec (.rangeEntryWrite g i ws) s = .next (s.writeRange g i ws) :=
    happens_of (ok := fun s => s.hostUp && decide (i < 64)) (fun s => s.writeRange g i ws) (by simp [hostUp_of_linked hlinked, hi])
  rw [hentry]
  refine congrArg Host.Outcome.next ((if_pos (by omega)).trans ?_)
  simp only [show (0x400 * g + 16 * i) / 0x400 = g by omega, show (0x400 * g + 16 * i) % 0x400 / 4 = 4 * i by omega]
  rw [if_neg (by omega), Nat.mul_div_cancel_left i (by decide)]

/-- The words that a protocol's load reads. -/
theorem protocolWord_brings {i : Nat} (w : Word) (hi : i < 2) : brings (.registerWrite 0 (2 ^ 20 + 0x20000 + 4 * i) w) linked
    fun s u => u = { s with pack := { s.pack with plreq := s.pack.plreq.set i w } } := by
  refine brings_of_exec (effect := fun s => { s with pack := { s.pack with plreq := s.pack.plreq.set i w } }) fun s hlinked => ⟨?_, rfl⟩
  rw [Nat.add_assoc, registerWrite_physical w (by omega) hlinked]
  refine congrArg Host.Outcome.next ((if_neg (by omega)).trans ((if_neg (by omega)).trans ((if_neg (by omega)).trans ?_)))
  have hwords : (decide (0x20000 + 4 * i = 0x20000) || decide (0x20000 + 4 * i = 0x20004)) = true := by
    simp only [Bool.or_eq_true, decide_eq_true_eq]
    omega
  refine (if_pos hwords).trans ?_
  rw [show (0x20000 + 4 * i) % 16 / 4 = i by omega]

/-- A counter of corrected errors is cleared. -/
theorem errorCounter_brings {d i : Nat} (hd : d < 4) (hi : i < 6) :
    brings (.registerWrite 0 (2 ^ 20 + 0x21000 + 64 * d + 8 * i) 0#32) linked
      fun s u => onlyDie d s u ∧ u.die d = { s.die d with corr := (s.die d).corr.set i 0#32 } := by
  let f : Die → Die := fun x => { x with corr := x.corr.set i 0#32 }
  refine brings_of_exec (effect := fun s => s.modDie d f) fun s hlinked => ⟨?_, onlyDie_modDie s d f⟩
  have hplace : 2 ^ 20 + 0x21000 + 64 * d + 8 * i = 2 ^ 20 + (0x21000 + 64 * d + 8 * i) := by omega
  rw [hplace, registerWrite_physical 0#32 (by omega) hlinked]
  have hwords : ¬(decide (0x21000 + 64 * d + 8 * i = 0x20000) || decide (0x21000 + 64 * d + 8 * i = 0x20004)) = true := by
    simp only [Bool.or_eq_true, decide_eq_true_eq]
    omega
  have hcounters : (decide (0x21000 ≤ 0x21000 + 64 * d + 8 * i) && decide (0x21000 + 64 * d + 8 * i < 0x21100) && decide (0#32 = 0#32)) = true := by
    simp only [Bool.and_eq_true, decide_eq_true_eq]
    exact ⟨⟨by omega, by omega⟩, trivial⟩
  refine congrArg Host.Outcome.next ((if_neg (by omega)).trans ((if_neg (by omega)).trans ((if_neg (by omega)).trans
    ((if_neg hwords).trans ((if_pos hcounters).trans ?_)))))
  simp only [show (0x21000 + 64 * d + 8 * i - 0x21000) / 64 = d by omega, show (0x21000 + 64 * d + 8 * i) % 64 / 4 = 2 * i by omega,
    show 2 * i % 2 = 0 by omega, show 2 * i / 2 = i by omega, if_true]
  rfl

/-- The words of firmware's that say with which packages a launch is joined. -/
theorem joinWord_brings {i : Nat} (w : Word) (hi : i < 2048) : brings (.registerWrite 0 (2 ^ 21 + 4 * (256 + i)) w) (fun _ => True)
    fun s u => u = { s with pack := { s.pack with joins := Tab.set 0#32 s.pack.joins i w } } := by
  refine brings_of_exec (effect := fun s => { s with pack := { s.pack with joins := Tab.set 0#32 s.pack.joins i w } }) fun s _ => ⟨?_, rfl⟩
  rw [registerWrite_firmware]
  refine congrArg Host.Outcome.next ((if_neg (by omega)).trans ((if_pos (by omega)).trans ?_))
  rw [Nat.add_sub_cancel_left]

/-! ## Without the link -/

theorem hostUp_of_not_linked (h : ¬linked s) : s.hostUp = false := by
  rw [← Bool.not_eq_true]
  intro hup
  simp only [State.hostUp, State.hostLink, Bool.and_eq_true, Bool.not_eq_true', decide_eq_true_eq] at hup
  obtain ⟨⟨hlink, hbooted⟩, hretry⟩ := hup
  exact h ⟨hlink, by simpa using hbooted, hretry⟩

/-- An event that may not happen leaves the state. -/
theorem brings_nothing {e : Instr} {may : State → Bool} {effect : State → State} {ok : State → Prop}
    (hexec : ∀ s, exec e s = s.happens may effect) (hmay : ∀ s, ok s → may s = false) : brings e ok fun s u => u = s := by
  intro s hs
  have hnot : ¬may s = true := by simp [hmay s hs]
  exact ⟨s, (hexec s).trans (congrArg Host.Outcome.next (if_neg hnot)), rfl⟩

end Sys2Proof.Claim

open Sys2Proof Sys2Proof.Claim

/-- Settles O59: each request of the host's and each write of the driver's, clause by clause. -/
theorem hostAndDriverAct : Obligations.HostAndDriverAct := by
  unfold Obligations.HostAndDriverAct
  refine ⟨hostRead_occurs, hostWrite_occurs, fun _ _ _ _ hnext hmay => hostServed_of hnext hmay, protocolLoad_brings,
    ⟨protocolVerifyDone_refused, protocolVerifyDone_taken⟩, ?ranges, ?functions, ?queues, ?registers⟩
  case ranges =>
    intro fn i ws r old put kept
    exact ⟨fun s ⟨hlinked, hi, hr, hold⟩ => rangeEntryWrite_drops hlinked hi hr hold,
      fun s ⟨hlinked, hi, hr, hold⟩ => rangeEntryWrite_clears hlinked hi hr hold,
      fun s ⟨hlinked, hi, hr, hold⟩ => rangeEntryWrite_stands hlinked hi hr hold,
      fun s ⟨hlinked, hi, hr, hold, hbad⟩ => rangeEntryWrite_refused hlinked hi hr hold hbad,
      fun s ⟨hlinked, hi, hr, hold, hgood⟩ => rangeEntryWrite_taken hlinked hi hr hold hgood⟩
  case functions =>
    intro fn rekeyed
    refine ⟨functionEnable_brings fn, functionReset_brings fn, frameWindowWrite_brings fn, ?_, ?_⟩
    · exact brings_of_happens (fun _ => rfl) fun s hlink => ⟨by simp [State.hostLink, hlink], rfl⟩
    · exact brings_linked (fun _ => rfl) fun s hlinked => ⟨hlinked, onlyFn_modFn s fn _⟩
  case queues =>
    intro fn w
    exact ⟨qbaseWrite_brings fn false w, qbaseWrite_brings fn true w, fun hi => qbaseWrite_refused fn hi w, queueEnable_brings fn w,
      queueEnable_badSize fn w, queueEnable_otherSize fn w, queueDisable_brings fn w, queueDisable_idle fn w⟩
  case registers =>
    intro fn w writes control
    refine ⟨?select, ?baseLow, ?baseHigh, ?request, ?disable, fun g i hg hi hrest => stage_brings w hg hi hrest,
      fun s g i hg hi hlinked => registerWrite_rangeEntry w hg hi hlinked, ?load, ?rootLow, ?rootHigh, ?tables, ?windows,
      fun i hi => protocolWord_brings w hi, fun d i hd hi => errorCounter_brings hd hi, fun i hi => joinWord_brings w hi, ?unlinked, ?lost⟩
    case select =>
      refine window_brings (by decide) fun s => ?_
      rw [← bits_eq_extract w 11 0]
      rfl
    case baseLow => exact window_brings (by decide) fun s => rfl
    case baseHigh => exact window_brings (by decide) fun s => rfl
    case request =>
      intro i hi
      obtain rfl | rfl | rfl : i = 0 ∨ i = 1 ∨ i = 2 := by omega
      all_goals exact window_brings (by decide) fun s => rfl
    case disable =>
      intro h30 h31 g hg
      refine control_brings (i := 0) hg (by decide) fun s => ?_
      have h30 : w.bit 30 = false := h30
      have h31 : w.bit 31 = false := h31
      simp only [State.controlWrite, if_true, h30, h31, Bool.false_eq_true, if_false]
      rfl
    case load =>
      intro s
      have hphysical : exec (.registerWrite 0 (2 ^ 20 + 0x20008) w) s = s.happens (fun s => s.hostUp && (0 : Nat) == 0) fun s => s.loadProtocol w := rfl
      rw [hphysical]
      simp only [beq_self_eq_true, Bool.and_true]
      rfl
    case rootLow => exact fun g hg => control_brings hg (by decide) fun s => rfl
    case rootHigh => exact fun g hg => control_brings hg (by decide) fun s => rfl
    case tables =>
      intro i hi g hg
      refine control_brings hg (by omega) fun s => ?_
      obtain rfl | rfl | rfl | rfl : i = 0 ∨ i = 1 ∨ i = 2 ∨ i = 3 := by omega
      all_goals rfl
    case windows =>
      intro i hi g hg
      refine control_brings hg (by omega) fun s => ?_
      obtain rfl | rfl | rfl | rfl : i = 0 ∨ i = 1 ∨ i = 2 ∨ i = 3 := by omega
      all_goals rfl
    case unlinked =>
      have hwindow (fn : Nat) (s : State) (h : ¬linked s) : (s.hostUp && !(s.fn fn).fenced) = false := by rw [hostUp_of_not_linked h]; rfl
      have hlonger (b : Bool) (s : State) (h : ¬linked s) : (s.hostUp && b) = false := by rw [hostUp_of_not_linked h]; rfl
      have hlink (s : State) (h : ¬linked s) : s.hostUp = false := hostUp_of_not_linked h
      simp only [List.forall_mem_cons, List.not_mem_nil, false_imp_iff, implies_true, and_true]
      exact ⟨brings_nothing (fun _ => rfl) (hwindow fn), brings_nothing (fun _ => rfl) (hwindow fn), brings_nothing (fun _ => rfl) (hwindow fn),
        brings_nothing (fun _ => rfl) (hwindow fn), brings_nothing (fun _ => rfl) (hwindow fn), brings_nothing (fun _ => rfl) (hwindow fn),
        brings_nothing (fun _ => rfl) (hwindow fn), brings_nothing (fun _ => rfl) hlink, brings_nothing (fun _ => rfl) hlink,
        brings_nothing (fun _ => rfl) hlink, brings_nothing (fun _ => rfl) hlink, brings_nothing (fun _ => rfl) (hlonger _),
        brings_nothing (fun _ => rfl) hlink, brings_nothing (fun _ => rfl) (hlonger _), brings_nothing (fun _ => rfl) (hlonger _)⟩
    case lost =>
      have hlost (s : State) (h : (s.die 0).lost = true) : s.hostLink = false := by simp [State.hostLink, h]
      simp only [List.forall_mem_cons, List.not_mem_nil, false_imp_iff, implies_true, and_true]
      exact ⟨brings_nothing (fun _ => rfl) hlost, brings_nothing (fun _ => rfl) fun s h => by rw [hlost s h]; rfl⟩

end

section
/-! SUPPORT. Bytes, blocks, splits and launches after the operations that preemption is made of. -/

open Sys2Proof.Machine

namespace Sys2Proof.Claim

variable {s : State}

/-! ## Bytes -/

/-- What a byte is after a run of writes: the last that names it, else what it was. -/
theorem memGet_memWrite (m : List Host.Cell) (cells : List Host.Cell) (a : Nat) :
    memGet (memWrite m cells) a = cells.foldl (fun b c => if c.1 = a then c.2 else b) (memGet m a) := by
  induction cells generalizing m with
  | nil => rfl
  | cons c cells ih =>
    refine (ih _).trans (congrArg (fun b => cells.foldl (fun b c => if c.1 = a then c.2 else b) b) ?_)
    show memGet (memSet m c.1 c.2) a = if c.1 = a then c.2 else memGet m a
    by_cases h : c.1 = a
    · rw [if_pos h, ← h, memGet_memSet_self]
    · rw [if_neg h, memGet_memSet_other m c.2 (Ne.symm h)]

theorem cellsAt_bytesOf (a : Nat) (w : Word) : cellsAt a (bytesOf w) = (List.range 4).map fun i => (a + i, w.extractLsb' (8 * i) 8) := by
  rw [bytesOf_eq_extract, cellsAt_map_range]

theorem memGet_memWrite_inside (m : List Host.Cell) (a : Nat) (f : Nat → Byte) {n i : Nat} (hi : i < n) :
    memGet (memWrite m ((List.range n).map fun i => (a + i, f i))) (a + i) = f i := by
  rw [memGet_memWrite, foldl_cells_inside a f _ hi]

theorem memGet_memWrite_outside (m : List Host.Cell) (a : Nat) (f : Nat → Byte) {n x : Nat} (hx : x < a ∨ a + n ≤ x) :
    memGet (memWrite m ((List.range n).map fun i => (a + i, f i))) x = memGet m x := by
  rw [memGet_memWrite, foldl_cells_outside a x f _ fun j hj => by omega]

/-- A scratchpad after a word has been written there. -/
theorem scratchWord_written (s : State) (core a : Nat) (w : Word) :
    let u := s.scratchWrite core (cellsAt a (bytesOf w))
    onlyCore core s u ∧ (∀ i, i < 4 → u.scratchByte core (a + i) = w.extractLsb' (8 * i) 8)
      ∧ ∀ x, (x < a ∨ a + 4 ≤ x) → u.scratchByte core x = s.scratchByte core x := by
  intro u
  obtain ⟨honly, hcore⟩ := onlyCore_modCore s core fun c =>
    { c with scratch := memWrite c.scratch (cellsAt a (bytesOf w)),
             scratchPoison := (wholeWords (cellsAt a (bytesOf w))).foldl (fun m x => Tab.erase m x) c.scratchPoison }
  have hscratch : (u.core core).scratch = memWrite (s.core core).scratch ((List.range 4).map fun i => (a + i, w.extractLsb' (8 * i) 8)) := by
    rw [← cellsAt_bytesOf]
    exact congrArg Core.scratch hcore
  refine ⟨honly, fun i hi => ?_, fun x hx => ?_⟩
  · rw [State.scratchByte, hscratch, memGet_memWrite_inside _ a _ hi]
  · rw [State.scratchByte, hscratch, memGet_memWrite_outside _ a _ hx]
    rfl

/-! ## One operation at many blocks -/

/-- An operation at the blocks of some places, which another of itself does not change, is done once at each. -/
theorem block_foldl_modBlock (f : Nat → Block → Block) (hf : ∀ n b, f n (f n b) = f n b) (ps : List (Nat × Nat)) (s : State) (c x : Nat) :
    (ps.foldl (fun s p => s.modBlock p.1 p.2 (f s.clk)) s).block c x
      = if c * 2 + x ∈ ps.map (fun p => p.1 * 2 + p.2) then f s.clk (s.block c x) else s.block c x := by
  induction ps generalizing s with
  | nil => rfl
  | cons p ps ih =>
    rw [List.foldl_cons, ih, List.map_cons]
    by_cases hp : c * 2 + x = p.1 * 2 + p.2
    · have hblock : ∀ u : State, u.block c x = u.block p.1 p.2 := fun u => by simp only [State.block, hp]
      rw [hblock (s.modBlock p.1 p.2 (f s.clk)), hblock s, State.block_modBlock, if_pos (List.mem_cons.mpr (.inl hp))]
      split
      · exact hf s.clk _
      · rfl
    · rw [State.block_modBlock_other s (f s.clk) hp]
      simp only [List.mem_cons, hp, false_or]
      rfl

/-- Such operations change blocks alone. -/
theorem foldl_modBlock_eq (f : Nat → Block → Block) (ps : List (Nat × Nat)) (s : State) :
    let u := ps.foldl (fun s p => s.modBlock p.1 p.2 (f s.clk)) s
    u = { s with blocks := u.blocks } := by
  induction ps generalizing s with
  | nil => rfl
  | cons p ps ih => exact ih _

theorem mem_places {ps : List (Nat × Nat)} {p : Nat × Nat} (h : p ∈ ps) : p.1 * 2 + p.2 ∈ ps.map fun p => p.1 * 2 + p.2 :=
  List.mem_map_of_mem h

/-- A place of a resident block is one that has its number. -/
theorem mem_residents {c x : Nat} (hx : x < 2) (h : (s.block c x).resident = true) : (c, x) ∈ s.residents := by
  have hentry : ∀ m : Tab Block, (Tab.get Block.empty m (c * 2 + x)).resident = true →
      (c, x) ∈ m.filterMap fun e => if e.2.resident then some (e.1 / 2, e.1 % 2) else none := by
    intro m
    induction m with
    | nil => exact fun h => absurd (a := false = true) h Bool.false_ne_true
    | cons e m ih =>
      intro h
      rw [List.mem_filterMap]
      by_cases hk : e.1 = c * 2 + x
      · have hres : e.2.resident = true := by simpa [Tab.get, hk] using h
        exact ⟨e, List.mem_cons_self, by rw [if_pos hres, hk]; simp only [Option.some.injEq, Prod.mk.injEq]; omega⟩
      · have hrest : (Tab.get Block.empty m (c * 2 + x)).resident = true := by simpa [Tab.get, hk] using h
        obtain ⟨d, hd, hplace⟩ := List.mem_filterMap.mp (ih hrest)
        exact ⟨d, List.mem_cons_of_mem e hd, hplace⟩
  exact hentry s.blocks h

/-! ## Yielding -/

/-- A block that is asked to yield. -/
def askedToYield (clk : Nat) (b : Block) : Block :=
  { b with yield := some (b.yield.getD noArea), yieldFrom := if b.yield.isSome then b.yieldFrom else clk + 1 }

theorem askedToYield_again (clk : Nat) (b : Block) : askedToYield clk (askedToYield clk b) = askedToYield clk b := by
  simp [askedToYield]

theorem block_askToYield (s : State) (ps : List (Nat × Nat)) (c x : Nat) : (s.askToYield ps).block c x
    = if c * 2 + x ∈ ps.map (fun p => p.1 * 2 + p.2) then askedToYield s.clk (s.block c x) else s.block c x :=
  block_foldl_modBlock askedToYield askedToYield_again ps s c x

theorem askToYield_eq (s : State) (ps : List (Nat × Nat)) : s.askToYield ps = { s with blocks := (s.askToYield ps).blocks } :=
  foldl_modBlock_eq askedToYield ps s

/-- A resident block is among those that must yield with it. -/
theorem mem_yieldMates {c x : Nat} (hx : x < 2) (h : (s.block c x).resident = true) : (c, x) ∈ s.yieldMates c x := by
  have hgroup : (c, x) ∈ s.workGroup c x := by
    unfold State.workGroup
    extract_lets b size
    split
    · exact List.mem_filter.mpr ⟨mem_residents hx h, by simp [b]⟩
    · exact List.mem_singleton_self _
  unfold State.yieldMates
  extract_lets weirs
  exact List.mem_filter.mpr ⟨List.mem_eraseDups.mpr (List.mem_append_left _ hgroup), h⟩

theorem yieldRequest_brings {c x : Nat} (hx : x < 2) (area : Nat) :
    brings (.yieldRequest c x area) (fun s => (s.block c x).resident = true ∧ area % 4096 = 0)
      fun s u => u = { s with blocks := u.blocks } ∧ (u.block c x).yield = some area
        ∧ (u.block c x).yieldFrom = (if (s.block c x).yield.isSome then (s.block c x).yieldFrom else s.clk + 1)
        ∧ ∀ p ∈ s.yieldMates c x, (u.block p.1 p.2).yield.isSome = true := by
  refine brings_of_happens (fun _ => rfl) fun s ⟨hres, harea⟩ => ⟨hres, ?_⟩
  simp only [harea, ne_eq, not_true_eq_false, if_false]
  have hasked : (s.askToYield (s.yieldMates c x)).block c x = askedToYield s.clk (s.block c x) := by
    rw [block_askToYield, if_pos (mem_places (mem_yieldMates hx hres))]
  have hself : ((s.askToYield (s.yieldMates c x)).modBlock c x fun b => { b with yield := some area }).block c x
      = { askedToYield s.clk (s.block c x) with yield := some area } := by
    rw [State.block_modBlock, hasked]
  refine ⟨?_, congrArg Block.yield hself, congrArg Block.yieldFrom hself, fun p hp => ?_⟩
  · rw [askToYield_eq]
    rfl
  · rcases block_modBlock_cases (s.askToYield (s.yieldMates c x)) c x (fun b => { b with yield := some area }) p.1 p.2 with h | h
    · rw [h, block_askToYield, if_pos (mem_places hp)]
      rfl
    · rw [h]
      rfl

theorem yieldRequest_refused (c x area : Nat) :
    brings (.yieldRequest c x area) (fun s => (s.block c x).resident = true ∧ area % 4096 ≠ 0)
      fun s u => u = { s with outputs := s.outputs ++ [.saveRefused c x] } := by
  refine brings_of_happens (fun _ => rfl) fun s ⟨hres, harea⟩ => ⟨hres, ?_⟩
  exact if_pos harea

/-! ## Splits -/

theorem split_modSplit_same (th : Thread) {i : Nat} (f : Split → Split) (hi : i < th.splits.length) : (th.modSplit i f).split i = f (th.split i) := by
  simp [Thread.modSplit, Thread.setSplit, Thread.split, setAt, hi]

/-- What a change of one thread leaves. -/
theorem onlyThread_modThread (s : State) (t : Tid) (f : Thread → Thread) : onlyThread t s (s.modThread t f) :=
  ⟨rfl, fun _ hk => State.thread_modThread_other s f hk⟩

theorem safePointStop_brings (t : Tid) (i : Nat) :
    brings (.safePointStop t i) (fun s => s.stopDue t i = true ∧ i < (s.thread t).splits.length)
      fun s u => onlyThread t s u ∧ (u.thread t).split i = { (s.thread t).split i with stopped := true, place := .away } := by
  refine brings_of_happens (fun _ => rfl) fun s ⟨hdue, hi⟩ => ⟨hdue, onlyThread_modThread s t _, ?_⟩
  rw [State.thread_modThread]
  exact split_modSplit_same _ _ hi

/-! ## Frozen jobs -/

/-- A block's frozen cycle, once it is frozen. -/
def frozenFrom (clk : Nat) (b : Block) : Block := { b with frozen := some (b.frozen.getD clk) }

/-- A launch marked as frozen, or as not. -/
def markLaunch (mark : Bool) (s : State) (l : Nat) : State :=
  if s.launch l = Launch.empty then s else s.modLaunch l fun x => { x with frozen := mark }

/-- A job's launches marked so. -/
def markLaunches (mark : Bool) (lids : List Nat) (s : State) : State := lids.foldl (markLaunch mark) s

theorem markLaunch_self (mark : Bool) {l : Nat} (h : s.launch l ≠ Launch.empty) : ((markLaunch mark s l).launch l).frozen = mark := by
  unfold markLaunch
  rw [if_neg h]
  exact congrArg Launch.frozen (Tab.get_set_self Launch.empty s.launches l _)

theorem markLaunch_other (mark : Bool) {k l : Nat} (h : k ≠ l) : (markLaunch mark s l).launch k = s.launch k := by
  unfold markLaunch
  split
  · rfl
  · exact Tab.get_set_other Launch.empty s.launches _ h

theorem markLaunches_eq (mark : Bool) (lids : List Nat) (s : State) :
    markLaunches mark lids s = { s with launches := (markLaunches mark lids s).launches } := by
  refine List.foldlRecOn (motive := fun u : State => u = { s with launches := u.launches }) lids _ rfl fun u hu l _ => ?_
  unfold markLaunch
  split
  · exact hu
  · rw [hu]
    rfl

/-- Once marked, a launch stays so. -/
theorem frozen_markLaunches_stays (mark : Bool) (lids : List Nat) {l : Nat} (h : (s.launch l).frozen = mark) :
    ((markLaunches mark lids s).launch l).frozen = mark := by
  refine List.foldlRecOn (motive := fun u : State => (u.launch l).frozen = mark) lids _ h fun u hu k _ => ?_
  by_cases hk : l = k
  · subst hk
    by_cases hempty : u.launch l = Launch.empty
    · unfold markLaunch
      rw [if_pos hempty]
      exact hu
    · exact markLaunch_self mark hempty
  · rw [markLaunch_other mark hk]
    exact hu

theorem frozen_markLaunches (mark : Bool) (lids : List Nat) {l : Nat} (hl : l ∈ lids) (hs : s.launch l ≠ Launch.empty) :
    ((markLaunches mark lids s).launch l).frozen = mark := by
  induction lids generalizing s with
  | nil => exact absurd hl List.not_mem_nil
  | cons k lids ih =>
    by_cases hk : l = k
    · subst hk
      exact frozen_markLaunches_stays mark lids (markLaunch_self mark hs)
    · exact ih ((List.mem_cons.mp hl).resolve_left hk) (by rwa [markLaunch_other mark hk])

theorem freezeWire_brings (lids : List Nat) : brings (.freezeWire lids) (fun _ => True)
    fun s u => u = { s with blocks := u.blocks, launches := u.launches }
      ∧ (∀ p ∈ s.residents, (s.block p.1 p.2).lid ∈ lids → (u.block p.1 p.2).frozen = some ((s.block p.1 p.2).frozen.getD s.clk))
      ∧ ∀ l ∈ lids, s.launch l ≠ Launch.empty → (u.launch l).frozen = true := by
  refine brings_of_happens (may := fun _ => true)
    (effect := fun s => markLaunches true lids ((s.jobBlocks lids).foldl (fun s p => s.modBlock p.1 p.2 (frozenFrom s.clk)) s))
    (fun _ => rfl) fun s _ => ⟨rfl, ?_⟩
  have hblocks := foldl_modBlock_eq frozenFrom (s.jobBlocks lids) s
  have hblock := block_foldl_modBlock frozenFrom (fun n b => by simp [frozenFrom]) (s.jobBlocks lids) s
  generalize (s.jobBlocks lids).foldl (fun s p => s.modBlock p.1 p.2 (frozenFrom s.clk)) s = w at hblocks hblock ⊢
  refine ⟨?_, fun p hp hlid => ?_, fun l hl hs => frozen_markLaunches true lids hl ?_⟩
  · rw [markLaunches_eq, hblocks]
  · have hjob : p ∈ s.jobBlocks lids := List.mem_filter.mpr ⟨hp, List.contains_iff_mem.mpr hlid⟩
    rw [markLaunches_eq]
    show (w.block p.1 p.2).frozen = _
    rw [hblock, if_pos (mem_places hjob)]
    rfl
  · rw [hblocks]
    exact hs

end Sys2Proof.Claim
end

section
/-! SUPPORT. A job thawed or abandoned, the scan path, and commands that park. -/

open Sys2Proof.Machine

namespace Sys2Proof.Claim

variable {s u : State}

/-! ## Thawing -/

/-- A state without what a thaw changes. -/
def withoutJob (s : State) : State := { s with weirs := [], threads := [], cores := [], blocks := [], launches := [] }

theorem eq_of_withoutJob (h : withoutJob u = withoutJob s) :
    u = { s with weirs := u.weirs, threads := u.threads, cores := u.cores, blocks := u.blocks, launches := u.launches } :=
  congrArg (fun r : State => { r with weirs := u.weirs, threads := u.threads, cores := u.cores, blocks := u.blocks, launches := u.launches }) h

/-- Nothing but blocks, and what runs in them, has changed. -/
def OnlyBlocks (s u : State) : Prop := withoutJob u = withoutJob s ∧ u.launches = s.launches

theorem OnlyBlocks.refl (s : State) : OnlyBlocks s s := ⟨rfl, rfl⟩

theorem OnlyBlocks.trans {a b c : State} (h : OnlyBlocks a b) (k : OnlyBlocks b c) : OnlyBlocks a c := ⟨k.1.trans h.1, k.2.trans h.2⟩

/-- The lanes of a core thawed: its blocks stand. -/
theorem thawLanes_frame (s : State) (core c : Nat) : OnlyBlocks s (s.thawLanes core c) ∧ (s.thawLanes core c).blocks = s.blocks := by
  unfold State.thawLanes
  split <;> exact ⟨.refl s, rfl⟩

/-- The threads of a block thawed: the block stands. -/
theorem thawThreads_frame (d : Nat) (ts : List Tid) (s : State) :
    let u := ts.foldl (fun s t => s.modThread t fun th => th.later d) s
    OnlyBlocks s u ∧ u.blocks = s.blocks :=
  List.foldlRecOn (motive := fun u : State => OnlyBlocks s u ∧ u.blocks = s.blocks) ts _ ⟨.refl s, rfl⟩ fun _ hu _ _ => hu

theorem thawBlock_frame (s : State) (c x : Nat) : OnlyBlocks s (s.thawBlock c x)
    ∧ ((s.thawBlock c x).block c x).frozen = none
    ∧ ∀ c' x', c' * 2 + x' ≠ c * 2 + x → (s.thawBlock c x).block c' x' = s.block c' x' := by
  unfold State.thawBlock
  split
  · next hthawed => exact ⟨.refl s, hthawed, fun _ _ _ => rfl⟩
  · next at_ hfrozen =>
    extract_lets +onlyGivenNames d after s1 s2
    obtain ⟨honly, hblocks⟩ := thawThreads_frame d (s.blockThreads c x) s
    have hblock : ∀ c' x', s2.block c' x' = s.block c' x' := fun c' x' => congrArg (Tab.get Block.empty · (c' * 2 + x')) hblocks
    refine ⟨honly, ?_, fun c' x' hk => ?_⟩
    · rw [State.block_modBlock]
    · rw [State.block_modBlock_other s2 _ hk, hblock]

/-- Blocks thawed one after another are thawed. -/
theorem thawBlocks_frame (ps : List (Nat × Nat)) (s : State) :
    let u := ps.foldl (fun s p => s.thawBlock p.1 p.2) s
    OnlyBlocks s u ∧ ∀ c x, (c * 2 + x ∈ ps.map (fun p => p.1 * 2 + p.2) ∨ (s.block c x).frozen = none) → (u.block c x).frozen = none := by
  induction ps generalizing s with
  | nil => exact ⟨.refl s, fun c x h => h.resolve_left List.not_mem_nil⟩
  | cons p ps ih =>
    obtain ⟨honly, hself, hothers⟩ := thawBlock_frame s p.1 p.2
    obtain ⟨hrest, hthawed⟩ := ih (s.thawBlock p.1 p.2)
    refine ⟨honly.trans hrest, fun c x h => hthawed c x ?_⟩
    by_cases hk : c * 2 + x = p.1 * 2 + p.2
    · refine .inr ?_
      have hblock : (s.thawBlock p.1 p.2).block c x = (s.thawBlock p.1 p.2).block p.1 p.2 := by simp only [State.block, hk]
      rw [hblock, hself]
    · rw [hothers c x hk]
      exact h.imp_left fun hmem => (List.mem_cons.mp hmem).resolve_left hk

theorem thaw_brings (lids : List Nat) : brings (.thaw lids) (fun _ => True)
    fun s u => u = { s with weirs := u.weirs, threads := u.threads, cores := u.cores, blocks := u.blocks, launches := u.launches }
      ∧ (∀ p ∈ s.residents, (s.block p.1 p.2).lid ∈ lids → (u.block p.1 p.2).frozen = none)
      ∧ ∀ l ∈ lids, s.launch l ≠ Launch.empty → (u.launch l).frozen = false := by
  refine brings_of_happens (fun _ => rfl) fun s _ => ⟨rfl, ?_⟩
  extract_lets +onlyGivenNames since d s1 s2 s3
  have hlanes : OnlyBlocks s s2 ∧ s2.blocks = s.blocks := by
    refine List.foldlRecOn (motive := fun u : State => OnlyBlocks s u ∧ u.blocks = s.blocks) _ _ ⟨⟨rfl, rfl⟩, rfl⟩ fun u hu c _ => ?_
    obtain ⟨honly, hblocks⟩ := thawLanes_frame u c (u.clk - d)
    exact ⟨hu.1.trans honly, hblocks.trans hu.2⟩
  obtain ⟨honly2, hblocks2⟩ := hlanes
  obtain ⟨honly3, hthawed⟩ := thawBlocks_frame (s2.jobBlocks lids) s2
  obtain ⟨hrest, hlaunches⟩ := honly2.trans honly3
  have hmark := markLaunches_eq false lids s3
  refine ⟨eq_of_withoutJob ?_, fun p hp hlid => ?_, fun l hl hs => frozen_markLaunches false lids hl ?_⟩
  · exact (congrArg withoutJob hmark).trans hrest
  · have hblock : ∀ c x, s2.block c x = s.block c x := fun c x => congrArg (Tab.get Block.empty · (c * 2 + x)) hblocks2
    have hresident : p ∈ s2.residents := by
      unfold State.residents
      rw [hblocks2]
      exact hp
    have hjob : p ∈ s2.jobBlocks lids := List.mem_filter.mpr ⟨hresident, by rw [hblock]; exact List.contains_iff_mem.mpr hlid⟩
    have hkept : (markLaunches false lids s3).blocks = s3.blocks := by rw [hmark]
    have hblock3 : (markLaunches false lids s3).block p.1 p.2 = s3.block p.1 p.2 := congrArg (Tab.get Block.empty · (p.1 * 2 + p.2)) hkept
    exact (congrArg Block.frozen hblock3).trans (hthawed p.1 p.2 (.inl (mem_places hjob)))
  · have hlaunch : s3.launch l = s.launch l := congrArg (Tab.get Launch.empty · l) hlaunches
    rwa [hlaunch]

/-! ## Abandoning, and the scan path -/

theorem abandon_brings (c x : Nat) : brings (.abandon c x) (fun s => (s.block c x).frozen ≠ none) fun s u =>
    let e := s.endWorkGroup c x
    let lid := (s.block c x).lid
    let held := ∃ p ∈ e.residents, (e.block p.1 p.2).lid = lid ∧ (e.block p.1 p.2).frozen ≠ none
    (held → u = e) ∧ (¬ held → u = e.modLaunch lid fun l => { l with frozen := false }) := by
  refine brings_of_happens (fun _ => rfl) fun s hfrozen => ⟨by simpa [Option.isSome_iff_ne_none] using hfrozen, ?_⟩
  intro e lid held
  have hheld : ((e.jobBlocks [lid]).any fun p => (e.block p.1 p.2).frozen.isSome) = true ↔ held := by
    simp only [List.any_eq_true, State.jobBlocks, List.mem_filter, List.contains_iff_mem, List.mem_singleton, Option.isSome_iff_ne_none, held,
      and_assoc]
  exact ⟨fun h => if_pos (hheld.mpr h), fun h => if_neg fun hany => h (hheld.mp hany)⟩

theorem scanRead_brings (cores : List Nat) : brings (.scanRead cores) (fun s => ∃ k ∈ cores, s.scannable k = true)
    fun s u => u = { s with outputs := s.outputs ++ [.scanRecord (s.scanRecord cores)] } :=
  brings_of_happens (fun _ => rfl) fun _ h => ⟨List.any_eq_true.mpr h, rfl⟩

section
variable {t : Tid} {w : Word} (hscan : s.scannable t.core = true) (hres : (s.block t.core t.ctx).resident = true)
include hscan hres

/-- A write on the scan path, where the block may be scanned. -/
theorem scanWriteBack_exec (reg l : Nat) : exec (.scanWriteBack t reg l w) s = .next (
    let b := s.block t.core t.ctx
    if reg < b.nregs then (if l < 32 then s.modThread t fun th => th.wr (.g reg) l w else s)
    else if reg = 128 then
      (if l % 4 = 0 && l + 4 ≤ b.scratchSize then s.scratchWrite t.core (cellsAt (b.scratchBase + l) (bytesOf w)) else s)
    else if reg = 129 && l % 4 = 0 then
      match s.translate b.fn l 1 with
      | .ok _ => s.sysWrite b.fn l (bytesOf w)
      | _ => s
    else s) := by
  have hmay : (s.scannable t.core && (s.block t.core t.ctx).resident) = true := by rw [hscan, hres]; rfl
  show execScanWriteBack t reg l w s = _
  unfold execScanWriteBack
  exact congrArg Host.Outcome.next (if_pos hmay)

theorem scanWriteBack_register {r l : Nat} (hr : r < (s.block t.core t.ctx).nregs) (hl : l < 32) :
    exec (.scanWriteBack t r l w) s = .next (s.modThread t fun th => th.wr (.g r) l w) := by
  rw [scanWriteBack_exec hscan hres]
  simp only [if_pos hr, if_pos hl]

variable (hregs : (s.block t.core t.ctx).nregs ≤ 128)
include hregs

theorem scanWriteBack_scratch {l : Nat} (haligned : l % 4 = 0) (hfits : l + 4 ≤ (s.block t.core t.ctx).scratchSize) :
    exec (.scanWriteBack t 128 l w) s = .next (s.scratchWrite t.core (cellsAt ((s.block t.core t.ctx).scratchBase + l) (bytesOf w))) := by
  have hword : (l % 4 = 0 && l + 4 ≤ (s.block t.core t.ctx).scratchSize : Bool) = true := by simp [haligned, hfits]
  rw [scanWriteBack_exec hscan hres]
  simp only [if_neg (Nat.not_lt.mpr hregs), if_true, if_pos hword]

theorem scanWriteBack_memory {l : Nat} {leaf : Leaf} (haligned : l % 4 = 0) (hleaf : s.translate (s.block t.core t.ctx).fn l 1 = .ok leaf) :
    exec (.scanWriteBack t 129 l w) s
      = .next (s.sysWrite (s.block t.core t.ctx).fn l ((List.range 4).map fun i => w.extractLsb' (8 * i) 8)) := by
  have hregs : ¬129 < (s.block t.core t.ctx).nregs := by omega
  rw [scanWriteBack_exec hscan hres, ← bytesOf_eq_extract]
  simp only [if_neg hregs, if_neg (show ¬(129 = 128) by decide), haligned, decide_true, Bool.and_self, if_true, hleaf]

end

/-- Any other register, or lane, of a thread is as it was. -/
theorem rd_wr_general (th : Thread) {r l : Nat} (w : Word) (hl : l < 32) {k : Reg} {j : Nat} (hj : j < 32) (h : k.id ≠ Reg.id (.g r) ∨ j ≠ l) :
    (th.wr (.g r) l w).rd k j = th.rd k j := by
  refine Thread.rd_wr_other th w ?_
  unfold Reg.key
  omega

end Sys2Proof.Claim
end

section
/-! SUPPORT. Commands that park, and blocks that are saved. -/

open Sys2Proof.Machine

namespace Sys2Proof.Claim

variable {s u : State}

/-! ## Commands -/

/-- A change of a command that leaves its place and tag. -/
def KeepsCmd (f : Cmd → Cmd) : Prop := ∀ d, (f d).core = d.core ∧ (f d).ctx = d.ctx ∧ (f d).tag = d.tag

/-- The command that a place and a tag name has them. -/
theorem cmdOf_names {c x tag : Nat} {k : Cmd} (h : s.cmdOf c x tag = some k) : k.core = c ∧ k.ctx = x ∧ k.tag = tag := by
  have hnames := List.find?_some h
  simpa [and_assoc] using hnames

/-- The command of a place and a tag after a change of it. -/
theorem cmdOf_modCmd (s : State) (k : Cmd) {f : Cmd → Cmd} (hf : KeepsCmd f) :
    (s.modCmd k f).cmdOf k.core k.ctx k.tag = (s.cmdOf k.core k.ctx k.tag).map f := by
  have hfind : ∀ ds : List Cmd, ((ds.map fun d => if k.same d then f d else d).find? fun d => d.core == k.core && d.ctx == k.ctx && d.tag == k.tag)
      = (ds.find? fun d => d.core == k.core && d.ctx == k.ctx && d.tag == k.tag).map f := by
    intro ds
    induction ds with
    | nil => rfl
    | cons d ds ih =>
      obtain ⟨hcore, hctx, htag⟩ := hf d
      by_cases hsame : k.same d = true
      · obtain ⟨⟨hc, hx⟩, ht⟩ : (k.core = d.core ∧ k.ctx = d.ctx) ∧ k.tag = d.tag := by simpa [Cmd.same] using hsame
        simp [hsame, hcore, hctx, htag, hc, hx, ht]
      · have hother : (d.core == k.core && d.ctx == k.ctx && d.tag == k.tag) = false := by
          rw [← Bool.not_eq_true]
          intro h
          refine hsame ?_
          simp only [Bool.and_eq_true, beq_iff_eq] at h
          obtain ⟨⟨hc, hx⟩, ht⟩ := h
          simp [Cmd.same, hc, hx, ht]
        rw [List.map_cons, if_neg hsame, List.find?_cons_of_neg (by simp [hother]), List.find?_cons_of_neg (by simp [hother]), ih]
  exact hfind s.cmds

theorem cmdOf_modCmd_some {k k1 : Cmd} (f : Cmd → Cmd) (hk : s.cmdOf k.core k.ctx k.tag = some k1) (hf : KeepsCmd f) :
    (s.modCmd k f).cmdOf k.core k.ctx k.tag = some (f k1) := by
  rw [cmdOf_modCmd s k hf, hk]
  rfl

/-- The command after a change of its progress register: its orphaned block may have changed, no more. -/
theorem cmdOf_modProgress (s : State) (k : Cmd) (g : Progress → Progress) :
    ∃ h : Cmd → Cmd, (∀ d, ∃ o, h d = { d with orphan := o })
      ∧ (s.modProgress k g).cmdOf k.core k.ctx k.tag = (s.cmdOf k.core k.ctx k.tag).map h := by
  unfold State.modProgress
  extract_lets g'
  split
  · exact ⟨fun d => { d with orphan := d.orphan.map g' }, fun d => ⟨_, rfl⟩, cmdOf_modCmd s k fun d => ⟨rfl, rfl, rfl⟩⟩
  · refine ⟨id, fun d => ⟨d.orphan, rfl⟩, ?_⟩
    rw [Option.map_id]
    rfl

/-- The progress register of a command that is no orphan's, after a change of it. -/
theorem progress_modProgress (s : State) {k : Cmd} (g : Progress → Progress) (ho : k.orphan = none) :
    k.pr < ((s.modProgress k g).block k.core k.ctx).progress.length →
      ((s.modProgress k g).block k.core k.ctx).progress.getD k.pr Progress.free
        = g ((s.block k.core k.ctx).progress.getD k.pr Progress.free) := by
  have hmod : s.modProgress k g = s.modBlock k.core k.ctx fun b =>
      { b with progress := b.progress.set k.pr (g (b.progress.getD k.pr Progress.free)) } := by
    unfold State.modProgress
    simp [ho]
  rw [hmod, State.block_modBlock]
  intro hlen
  have hpr : k.pr < (s.block k.core k.ctx).progress.length := by simpa using hlen
  simp [hpr]

theorem enginePark_brings (c x tag : Nat) (k : Cmd) : brings (.enginePark c x tag) (fun s => s.cmdOf c x tag = some k ∧ s.parkMay k = true)
    fun s u => cmdGoesOn c x tag k u 3 3 ∧ ∀ d, u.cmdOf c x tag = some d → d.sent = none ∧ d.inbox = []
      ∧ (k.engine = 0 ∧ k.array = none → d.wtag = s.expectedTag k) := by
  refine brings_of_happens (fun _ => rfl) fun s ⟨hk, hmay⟩ => ⟨by rw [hk]; exact hmay, ?_⟩
  simp only [hk]
  obtain ⟨rfl, rfl, rfl⟩ := cmdOf_names hk
  generalize hs1 : (if k.engine = 0 then s.enterArray k (s.expectedTag k) else s) = s1
  have hentered : ∃ k1 : Cmd, s1.cmdOf k.core k.ctx k.tag = some k1 ∧ sameCmd k k1
      ∧ (k.engine = 0 ∧ k.array = none → k1.wtag = s.expectedTag k) := by
    by_cases he : k.engine = 0
    · rw [if_pos he] at hs1
      subst hs1
      let enter (d : Cmd) : Cmd :=
        { d with wtag := if d.array.isNone then s.expectedTag k else d.wtag, array := some (quadOf k.core) }
      refine ⟨enter k, cmdOf_modCmd_some enter hk fun d => ⟨rfl, rfl, rfl⟩, ⟨rfl, rfl, rfl⟩, fun ⟨_, hfree⟩ => ?_⟩
      exact if_pos (by rw [hfree]; rfl)
    · rw [if_neg he] at hs1
      subst hs1
      exact ⟨k, hk, ⟨rfl, rfl, rfl⟩, fun h => absurd h.1 he⟩
  obtain ⟨k1, hk1, hsame, hwtag⟩ := hentered
  generalize hp : (s.parkTarget k).getD (0, 0) = p
  let park (d : Cmd) : Cmd := { d with stage := 3, sent := none, inbox := [], parkAt := if d.collective then some p else none }
  let note (r : Progress) : Progress := if k.collective then { r with state := 3, pass := p.1, next := p.2 } else { r with state := 3 }
  have hparked : (s1.modCmd k park).cmdOf k.core k.ctx k.tag = some (park k1) :=
    cmdOf_modCmd_some park hk1 fun d => ⟨rfl, rfl, rfl⟩
  obtain ⟨h, horphan, hnoted⟩ := cmdOf_modProgress (s1.modCmd k park) k note
  rw [hparked] at hnoted
  obtain ⟨o, ho⟩ := horphan (park k1)
  have hfound : ((s1.modCmd k park).modProgress k note).cmdOf k.core k.ctx k.tag = some { park k1 with orphan := o } :=
    hnoted.trans (congrArg some ho)
  refine ⟨⟨_, hfound, rfl, hsame, fun hnone hlen => ?_⟩, fun d hd => ?_⟩
  · refine (congrArg Progress.state (progress_modProgress (s1.modCmd k park) note hnone hlen)).trans ?_
    unfold note
    split <;> rfl
  · obtain rfl : { park k1 with orphan := o } = d := Option.some.inj (hfound.symm.trans hd)
    exact ⟨rfl, rfl, hwtag⟩

/-- A mark at many commands is set once at each. -/
theorem foldl_parkAt (a : Nat × Nat) (es : List Cmd) (s : State) :
    es.foldl (fun s d => s.modCmd d fun x => { x with parkAt := some a }) s
      = { s with cmds := s.cmds.map fun d =>
          if es.any fun e => e.core == d.core && e.ctx == d.ctx && e.tag == d.tag then { d with parkAt := some a } else d } := by
  induction es generalizing s with
  | nil => simp
  | cons e es ih =>
    rw [List.foldl_cons, ih]
    refine congrArg (fun ds => { s with cmds := ds }) ?_
    rw [State.modCmd, List.map_map]
    refine List.map_congr_left fun d _ => ?_
    rw [List.any_cons]
    by_cases h : e.same d = true
    · have hplace : (e.core == d.core && e.ctx == d.ctx && e.tag == d.tag) = true := h
      rw [Function.comp_apply, if_pos h, hplace, Bool.true_or, if_pos rfl]
      exact ite_self _
    · have hplace : (e.core == d.core && e.ctx == d.ctx && e.tag == d.tag) = false := by simpa [Cmd.same] using h
      rw [Function.comp_apply, if_neg h, hplace, Bool.false_or]

theorem collectiveParkSignal_brings (c x tag : Nat) (k : Cmd) :
    brings (.collectiveParkSignal c x tag) (fun s => s.cmdOf c x tag = some k ∧ s.signalMay k = true)
      fun s u => u = { s with cmds := s.cmds.map fun d =>
        if (k :: s.mates k).any fun e => e.core == d.core && e.ctx == d.ctx && e.tag == d.tag
        then { d with parkAt := some (s.boundary k) } else d } := by
  refine brings_of_happens (fun _ => rfl) fun s ⟨hk, hmay⟩ => ⟨by rw [hk]; exact hmay, ?_⟩
  simp only [hk]
  exact foldl_parkAt (s.boundary k) (k :: s.mates k) s

/-! ## Saving and resuming -/

theorem resume_occurs (i core : Nat) (v : Saved) : occurs (.resume i core)
    (fun s => s.resumeMay i core = true ∧ s.saved[i]? = some v ∧ s.areaSpoilt v = false)
    fun s => if v.leaseHeld then s.restoreBlock i core v
      else (s.restoreBlock i core v).finishResume core (if (s.block core 0).resident then 1 else 0) := by
  intro s ⟨hmay, hv, hfit⟩
  show execResume i core s = _
  unfold execResume
  rw [happens_of _ hmay]
  simp only [hv, hfit, Bool.false_and, Bool.false_eq_true, if_false]
  rfl

/-- What becomes of a thread's entry as the block at `lo` goes. -/
def vacated (lo : Nat) (e : Nat × Thread) : Nat × Thread := if lo ≤ e.1 && e.1 < lo + 64 then (e.1, e.2.remains) else e

theorem vacated_fst (lo : Nat) (e : Nat × Thread) : (vacated lo e).1 = e.1 := by
  unfold vacated
  split <;> rfl

/-- A thread of a block that has gone is not live. -/
theorem live_vacate (s : State) (c x : Nat) {t : Tid} (hlow : (c * 2 + x) * 64 ≤ t.key) (hhigh : t.key < (c * 2 + x) * 64 + 64) :
    ((s.vacate c x).thread t).live = false := by
  have hentry : ∀ m : Tab Thread, (Tab.get Thread.empty (m.map (vacated ((c * 2 + x) * 64))) t.key).live = false := by
    intro m
    induction m with
    | nil => rfl
    | cons e m ih =>
      show (if (vacated _ e).1 = t.key then (vacated _ e).2 else Tab.get Thread.empty (m.map (vacated _)) t.key).live = false
      rw [vacated_fst]
      split
      · next hk =>
        have hin : ((c * 2 + x) * 64 ≤ e.1 && e.1 < (c * 2 + x) * 64 + 64 : Bool) = true := by simp [hk, hlow, hhigh]
        rw [vacated, if_pos hin]
        rfl
      · exact ih
  unfold State.vacate
  extract_lets b s1 s2 lo
  have hthreads : s2.threads = s.threads := by
    unfold s2
    split <;> rfl
  show (Tab.get Thread.empty (s2.threads.map _) t.key).live = false
  rw [hthreads]
  exact hentry s.threads

theorem vacate_rest (s : State) (c x : Nat) : (s.vacate c x).cmds = s.cmds ∧ (s.vacate c x).saved = s.saved := by
  unfold State.vacate
  extract_lets b s1 s2 lo
  have hs2 : s2.cmds = s.cmds ∧ s2.saved = s.saved := by
    unfold s2
    split <;> exact ⟨rfl, rfl⟩
  exact hs2

end Sys2Proof.Claim
end

section
/-! SUPPORT. A save. -/

open Sys2Proof.Machine

namespace Sys2Proof.Claim

/-- The use of a translation is recorded at the home die alone. -/
theorem recordUse_eq (s : State) (fn addr : Nat) (l : Leaf) : s.recordUse fn addr l = { s with dies := (s.recordUse fn addr l).dies } := by
  unfold State.recordUse
  extract_lets r pa
  split <;> rfl

/-- The translations of a save area recorded. -/
def recordArea (fn : Nat) (pages : List Nat) (s : State) : State :=
  pages.foldl (fun s p => match s.translate fn p 1 with
    | .ok leaf => s.recordUse fn p leaf
    | _ => s) s

theorem recordArea_eq (fn : Nat) (pages : List Nat) (s : State) : recordArea fn pages s = { s with dies := (recordArea fn pages s).dies } := by
  refine List.foldlRecOn (motive := fun u : State => u = { s with dies := u.dies }) pages _ rfl fun u hu p _ => ?_
  split
  · rw [recordUse_eq, hu]
  · exact hu

theorem recordArea_block (fn : Nat) (pages : List Nat) (s : State) (c x : Nat) : (recordArea fn pages s).block c x = s.block c x := by
  rw [recordArea_eq]
  rfl

theorem recordArea_clk (fn : Nat) (pages : List Nat) (s : State) : (recordArea fn pages s).clk = s.clk := by rw [recordArea_eq]

/-- The publications that a save begins with. -/
def publishes (c x : Nat) (s : State) : State := (s.saveLines c x).foldl (fun s k => s.publishNow (quadOf c) k) s

/-- The state that a block has been saved in, before its place is given up. -/
def savedState (c x area : Nat) (image : List Byte) (s : State) : State :=
  let r := recordArea (s.block c x).fn (pagesOf area image.length) s
  let w := (r.sysWrite (s.block c x).fn area image).moveWeirs (s.block c x).lid (c, x) (savedPlace r.saved.length)
  { w with saved := w.saved ++ [r.savedOf c x area image], cmds := w.cmds.filter fun d => !d.of c x }

theorem save_exec {s : State} {c x area : Nat} {image : List Byte} (hmay : s.saveMay c x = true)
    (hyield : ((publishes c x s).block c x).yield = some area) (himage : (publishes c x s).blockImage c x false = image)
    (hok : (publishes c x s).areaOk ((publishes c x s).block c x).fn area image.length = true) :
    exec (.save c x) s = .next ((savedState c x area image (publishes c x s)).vacate c x) := by
  show execSave c x s = _
  unfold execSave
  rw [happens_of _ hmay]
  have hlines : (s.saveLines c x).foldl (fun s k => s.publishNow (quadOf c) k) s = publishes c x s := rfl
  simp only [hlines, hyield, Option.getD_some, himage, hok, Bool.not_true, Bool.false_eq_true, if_false]
  rfl

theorem save_brings (c x area : Nat) (image : List Byte) : brings (.save c x)
    (fun s => s.saveMay c x = true ∧ ((publishes c x s).block c x).yield = some area ∧ (publishes c x s).blockImage c x false = image
      ∧ (publishes c x s).areaOk ((publishes c x s).block c x).fn area image.length = true)
    fun s u => (u.block c x).resident = false ∧ (∀ i, i < 64 → (u.thread { core := c, ctx := x, slot := i }).live = false)
      ∧ (∀ d ∈ u.cmds, ¬ (d.core = c ∧ d.ctx = x ∧ d.orphan = none))
      ∧ ∃ old v, u.saved = old ++ [v] ∧ v.present = true ∧ v.area = area ∧ v.image = image
        ∧ v.block = (publishes c x s).block c x ∧ v.core = c ∧ v.clk = (publishes c x s).clk := by
  intro s ⟨hmay, hyield, himage, hok⟩
  refine ⟨_, save_exec hmay hyield himage hok, ?_, fun i hi => ?_, fun d hd => ?_, ?_⟩
  · rw [block_vacate]
    rfl
  · have hkey : ({ core := c, ctx := x, slot := i } : Tid).key = (c * 2 + x) * 64 + i := rfl
    exact live_vacate _ c x (by omega) (by omega)
  · obtain ⟨hcmds, -⟩ := vacate_rest (savedState c x area image (publishes c x s)) c x
    rw [hcmds] at hd
    have hkept := (List.mem_filter.mp hd).2
    rintro ⟨hc, hx, ho⟩
    simp [Cmd.of, hc, hx, ho] at hkept
  · obtain ⟨-, hsaved⟩ := vacate_rest (savedState c x area image (publishes c x s)) c x
    exact ⟨_, _, hsaved, rfl, rfl, rfl, recordArea_block .., rfl, recordArea_clk ..⟩

end Sys2Proof.Claim

open Sys2Proof Sys2Proof.Claim

/-- Settles O56: each event of preemption and of the scan path, clause by clause. -/
theorem preemptionGoesOn : Obligations.PreemptionGoesOn := by
  unfold Obligations.PreemptionGoesOn
  intro c x hx
  refine ⟨fun area => ⟨yieldRequest_brings hx area, yieldRequest_refused c x area⟩, safePointStop_brings, save_brings c x, enginePark_brings c x,
    collectiveParkSignal_brings c x, resume_occurs, freezeWire_brings, thaw_brings, abandon_brings c x, scanRead_brings, ?_⟩
  intro t r l w block may
  refine ⟨?_, ?_, ?_⟩
  · rintro s ⟨⟨hscan, hres, -⟩, hr, hl⟩
    refine ⟨_, scanWriteBack_register hscan hres hr hl, onlyThread_modThread s t _, ?_, fun k j hj h => ?_⟩
    · rw [State.thread_modThread, Thread.rd_wr]
    · rw [State.thread_modThread, rd_wr_general _ w hl hj h]
  · rintro s ⟨⟨hscan, hres, hregs⟩, haligned, hfits⟩
    exact ⟨_, scanWriteBack_scratch hscan hres hregs haligned hfits, scratchWord_written s t.core _ w⟩
  · rintro leaf s ⟨⟨hscan, hres, hregs⟩, haligned, hleaf⟩
    exact scanWriteBack_memory hscan hres hregs haligned hleaf

end

section
/-! SUPPORT. Code lines, page walks, write grants, and what the driver writes of faults. -/

open Sys2Proof.Machine

namespace Sys2Proof.Claim

variable {s u v : State}

/-! ## Folds -/

/-- What each step of a fold establishes, and every step keeps, holds at its end of each. -/
theorem foldl_establishes {α β : Type} {step : β → α → β} {I : β → Prop} {P : α → β → Prop} (hI : ∀ b a, I b → I (step b a))
    (hself : ∀ b a, I b → P a (step b a)) (hkeep : ∀ b a a', I b → P a b → P a (step b a')) (l : List α) {b : β} (hb : I b) :
    I (l.foldl step b) ∧ (∀ a, P a b → P a (l.foldl step b)) ∧ ∀ a ∈ l, P a (l.foldl step b) := by
  induction l generalizing b with
  | nil => exact ⟨hb, fun _ h => h, fun _ h => absurd h List.not_mem_nil⟩
  | cons x l ih =>
    obtain ⟨hend, hkept, hdone⟩ := ih (hI b x hb)
    refine ⟨hend, fun a h => hkept a (hkeep b a x hb h), fun a ha => ?_⟩
    rcases List.mem_cons.mp ha with rfl | ha
    · exact hkept a (hself b a hb)
    · exact hdone a ha

/-! ## Splits that go on -/

/-- Nothing but threads has changed. -/
def OnlyThreads (v u : State) : Prop := u = { v with threads := u.threads }

/-- A split as it was, but for where it stands. -/
def Standing (a b : Split) : Prop := b.live = a.live ∧ b.want = a.want ∧ b.page = a.page

theorem standing_unpark (th : Thread) (b : Block) (t : Tid) (clk : Nat) :
    ∀ sp ∈ (th.unpark b t clk).splits, ∃ sp₀ ∈ th.splits, Standing sp₀ sp := by
  intro sp hsp
  obtain ⟨sp₀, hsp₀, rfl⟩ := List.mem_map.mp hsp
  refine ⟨sp₀, hsp₀, ?_⟩
  split <;> exact ⟨rfl, rfl, rfl⟩

/-- The splits of a thread after those of a thread have been changed, and those that may go on have. -/
theorem splits_unpark (u : State) (t : Tid) (m : Split → Split) (k : Tid) :
    ∀ sp ∈ (((u.modThread t fun th => { th with splits := th.splits.map m }).unpark t).thread k).splits,
      ∃ sp₀ ∈ (u.thread k).splits, (k.key ≠ t.key ∧ sp = sp₀) ∨ (k.key = t.key ∧ Standing (m sp₀) sp) := by
  intro sp hsp
  by_cases hk : k.key = t.key
  · have hthread : ∀ w : State, w.thread k = w.thread t := fun w => congrArg (Tab.get Thread.empty w.threads) hk
    rw [hthread, State.unpark, State.thread_modThread, State.thread_modThread] at hsp
    obtain ⟨sp₁, hsp₁, hstands⟩ := standing_unpark _ _ _ _ sp hsp
    obtain ⟨sp₀, hsp₀, rfl⟩ := List.mem_map.mp hsp₁
    exact ⟨sp₀, by rwa [hthread], .inr ⟨hk, hstands⟩⟩
  · rw [State.unpark, State.thread_modThread_other _ _ hk, State.thread_modThread_other _ _ hk] at hsp
    exact ⟨sp, hsp, .inl ⟨hk, rfl⟩⟩

theorem onlyThreads_unpark {t : Tid} {f : Thread → Thread} (h : OnlyThreads v u) : OnlyThreads v ((u.modThread t f).unpark t) := by
  unfold OnlyThreads at h
  rw [h]
  rfl

/-! ## Code lines -/

theorem wantsLine_congr (h : u.blocks = v.blocks) (t : Tid) (sp : Split) (fn line : Nat) : u.wantsLine t sp fn line = v.wantsLine t sp fn line := by
  unfold State.wantsLine State.codeAddr State.block
  rw [h]

/-- The splits of a thread that wait for a line have it. -/
def giveLine (fn line : Nat) (leaf : Leaf) (s : State) (t : Tid) : State :=
  (s.modThread t fun th =>
    { th with splits := th.splits.map fun sp => if s.wantsLine t sp fn line then sp.fetched t.isSluice (.go leaf) else sp }).unpark t

/-- No split of a thread waits for a line. -/
def noneWants (v : State) (fn line : Nat) (t : Tid) (u : State) : Prop := ∀ sp ∈ (u.thread t).splits, v.wantsLine t sp fn line = false

theorem wantsLine_of_standing {t : Tid} {a b : Split} {fn line : Nat} (h : Standing a b) : v.wantsLine t b fn line = v.wantsLine t a fn line := by
  obtain ⟨hlive, hwant, -⟩ := h
  unfold State.wantsLine
  rw [hlive, hwant]

theorem wantsLine_fetched (t : Tid) (sp : Split) (fn line : Nat) (sluice : Bool) (leaf : Leaf) :
    v.wantsLine t (sp.fetched sluice (.go leaf)) fn line = false := by
  unfold State.wantsLine
  exact Bool.and_false _

theorem giveLines_done (v : State) (fn line : Nat) (leaf : Leaf) (ts : List Tid) :
    OnlyThreads v (ts.foldl (giveLine fn line leaf) v) ∧ ∀ t ∈ ts, noneWants v fn line t (ts.foldl (giveLine fn line leaf) v) := by
  have hwants : ∀ u, OnlyThreads v u → ∀ (t : Tid) (sp : Split), u.wantsLine t sp fn line = v.wantsLine t sp fn line := by
    intro u hu t sp
    exact wantsLine_congr (by rw [hu]) t sp fn line
  have hself : ∀ u t, OnlyThreads v u → noneWants v fn line t (giveLine fn line leaf u t) := by
    intro u t hu sp hsp
    obtain ⟨sp₀, -, ⟨hk, -⟩ | ⟨-, hstands⟩⟩ := splits_unpark u t _ t sp hsp
    · exact absurd rfl hk
    · rw [wantsLine_of_standing hstands]
      by_cases hwant : u.wantsLine t sp₀ fn line = true
      · rw [if_pos hwant]
        exact wantsLine_fetched ..
      · rw [if_neg hwant, ← hwants u hu]
        exact Bool.eq_false_iff.mpr hwant
  have hkeep : ∀ u t t', OnlyThreads v u → noneWants v fn line t u → noneWants v fn line t (giveLine fn line leaf u t') := by
    intro u t t' hu hnone sp hsp
    obtain ⟨sp₀, hsp₀, ⟨-, rfl⟩ | ⟨-, hstands⟩⟩ := splits_unpark u t' _ t sp hsp
    · exact hnone sp hsp₀
    · rw [wantsLine_of_standing hstands]
      split
      · exact wantsLine_fetched ..
      · exact hnone sp₀ hsp₀
  obtain ⟨honly, -, hdone⟩ := foldl_establishes (fun u t hu => onlyThreads_unpark hu) hself hkeep ts (show OnlyThreads v v from rfl)
  exact ⟨honly, hdone⟩

/-- A part of a list that a function gives. -/
theorem take_drop_map_range {α : Type} (f : Nat → α) {n a m : Nat} (h : a + m ≤ n) :
    (((List.range n).map f).drop a).take m = (List.range m).map fun j => f (a + j) := by
  refine List.ext_getElem (by simp; omega) fun i h1 h2 => ?_
  simp

/-- The words of a code line, as the quad sees its bytes. -/
def lineWords (v : State) (c fn line : Nat) : List Word :=
  (List.range 32).map fun i => wordOf ((List.range 4).map fun j => v.quadByte (quadOf c) fn (line * 128 + 4 * i + j))

theorem lineWords_eq (v : State) (c fn line : Nat) :
    ((List.range 32).map fun i => wordOf (((v.quadBytes (quadOf c) fn (line * 128) 128).drop (4 * i)).take 4)) = lineWords v c fn line := by
  refine List.map_congr_left fun i hi => ?_
  have hi := List.mem_range.mp hi
  rw [State.quadBytes, take_drop_map_range _ (by omega)]
  simp only [Nat.add_assoc]

/-- A core with a code line. -/
def withLine (key : Nat) (ws : List Word) (x : Core) : Core := { x with icode := Tab.set [] x.icode key ws }

/-- A core with a code line, and the quad's answer to the core's read. -/
def lineHeld (v : State) (c fn line : Nat) : State :=
  ((v.farRead fn (line * 128) 128).modCore c (withLine (v.keyOf fn (line * 128)) (lineWords v c fn line))).drawn

theorem lineHeld_icode (v : State) (c fn line : Nat) :
    Tab.get [] ((lineHeld v c fn line).core c).icode (v.keyOf fn (line * 128)) = lineWords v c fn line := by
  have hcore : (lineHeld v c fn line).core c = withLine (v.keyOf fn (line * 128)) (lineWords v c fn line) _ := State.core_modCore _ _ _
  simp only [hcore, withLine, Tab.get_set_self]

theorem codeFetch_exec {c fn line : Nat} {t : Tid} {more : List Tid} {leaf : Leaf} (hmay : s.fetchMay c fn line = true)
    (hwanters : s.lineWanters c fn line = t :: more) (hask : s.ask fn (line * 128) 3 (s.requester t) = (v, .go leaf)) :
    exec (.codeFetch c fn line) s = .next ((t :: more).foldl (giveLine fn line leaf) (lineHeld v c fn line)) := by
  have hwords : ((List.range 32).map fun i => wordOf ((((v.farRead fn (line * 128) 128).quadBytes (quadOf c) fn (line * 128) 128).drop (4 * i)).take 4))
      = lineWords v c fn line := by
    rw [lineWords_eq, farRead_eq]
    rfl
  have hkey : (v.farRead fn (line * 128) 128).keyOf fn (line * 128) = v.keyOf fn (line * 128) := by
    rw [farRead_eq]
    rfl
  show execCodeFetch c fn line s = _
  unfold execCodeFetch
  rw [happens_of _ hmay]
  simp only [hwanters, hask, hwords, hkey]
  rfl

theorem codeFetch_brings (c fn line : Nat) (t : Tid) (more : List Tid) (leaf : Leaf) (v : State) : brings (.codeFetch c fn line)
    (fun s => s.fetchMay c fn line = true ∧ s.lineWanters c fn line = t :: more
      ∧ s.ask fn (line * 128) 3 (s.requester t) = (v, .go leaf))
    fun _ u => u = { v with cores := u.cores, threads := u.threads, draws := u.draws, outputs := (v.farRead fn (line * 128) 128).outputs }
      ∧ Tab.get [] (u.core c).icode (v.keyOf fn (line * 128)) = lineWords v c fn line
      ∧ ∀ k ∈ t :: more, ∀ sp ∈ (u.thread k).splits, u.wantsLine k sp fn line = false := by
  intro s ⟨hmay, hwanters, hask⟩
  obtain ⟨honly, hdone⟩ := giveLines_done (lineHeld v c fn line) fn line leaf (t :: more)
  have hheld : lineHeld v c fn line
      = { v with cores := (lineHeld v c fn line).cores, draws := (lineHeld v c fn line).draws,
                 outputs := (v.farRead fn (line * 128) 128).outputs } := by
    unfold lineHeld
    rw [farRead_eq]
    rfl
  refine ⟨_, codeFetch_exec hmay hwanters hask, ?_⟩
  generalize (t :: more).foldl (giveLine fn line leaf) (lineHeld v c fn line) = u at honly hdone ⊢
  refine ⟨?_, ?_, fun k hk sp hsp => ?_⟩
  · rw [honly, hheld]
  · have hcores : u.cores = (lineHeld v c fn line).cores := by rw [honly]
    have hcore : u.core c = (lineHeld v c fn line).core c := congrArg (Tab.get Core.reset · c) hcores
    rw [hcore, lineHeld_icode]
  · rw [wantsLine_congr (by rw [honly]) k sp fn line]
    exact hdone k hk sp hsp

/-! ## Page walks -/

/-- The splits of a thread that wait for a page have the answer. -/
def givePage (fn page : Nat) (leaf : Leaf) (s : State) (t : Tid) : State :=
  if (s.block t.core t.ctx).fn = fn then
    (s.modThread t fun th => { th with splits := th.splits.map fun sp => sp.pageAnswer page t.isSluice (.go leaf) }).unpark t
  else s

/-- No live split of a thread of a function waits for a page. -/
def nonePaged (v : State) (fn page : Nat) (t : Tid) (u : State) : Prop :=
  (v.block t.core t.ctx).fn = fn → ∀ sp ∈ (u.thread t).splits, sp.live = true → ∀ p, sp.page = some p → p.1 / 4096 ≠ page

/-- A split waits for no page of the number, or is not live. -/
def Unpaged (page : Nat) (sp : Split) : Prop := sp.live = true → ∀ p, sp.page = some p → p.1 / 4096 ≠ page

theorem unpaged_of_standing {page : Nat} {a b : Split} (h : Standing a b) (ha : Unpaged page a) : Unpaged page b := by
  obtain ⟨hlive, -, hpage⟩ := h
  unfold Unpaged
  rwa [hlive, hpage]

theorem unpaged_pageAnswer (sp : Split) (page : Nat) (sluice : Bool) (leaf : Leaf) : Unpaged page (sp.pageAnswer page sluice (.go leaf)) := by
  unfold Split.pageAnswer
  split
  · exact fun _ p hp => absurd hp (by simp)
  · next hnone =>
    intro hlive p hp hpage
    exact hnone (by simp [hlive, hp, hpage])

theorem givePages_done (v : State) (fn page : Nat) (leaf : Leaf) (ts : List Tid) :
    OnlyThreads v (ts.foldl (givePage fn page leaf) v) ∧ ∀ t ∈ ts, nonePaged v fn page t (ts.foldl (givePage fn page leaf) v) := by
  have hblock : ∀ u, OnlyThreads v u → ∀ c x, u.block c x = v.block c x := by
    intro u hu c x
    rw [hu]
    rfl
  have honly : ∀ u t, OnlyThreads v u → OnlyThreads v (givePage fn page leaf u t) := by
    intro u t hu
    unfold givePage
    split
    · exact onlyThreads_unpark hu
    · exact hu
  have hself : ∀ u t, OnlyThreads v u → nonePaged v fn page t (givePage fn page leaf u t) := by
    intro u t hu hfn sp hsp
    rw [givePage, if_pos ((congrArg Block.fn (hblock u hu t.core t.ctx)).trans hfn)] at hsp
    obtain ⟨sp₀, -, ⟨hk, -⟩ | ⟨-, hstands⟩⟩ := splits_unpark u t _ t sp hsp
    · exact absurd rfl hk
    · exact unpaged_of_standing hstands (unpaged_pageAnswer sp₀ page _ leaf)
  have hkeep : ∀ u t t', OnlyThreads v u → nonePaged v fn page t u → nonePaged v fn page t (givePage fn page leaf u t') := by
    intro u t t' hu hnone hfn sp hsp
    unfold givePage at hsp
    split at hsp
    · obtain ⟨sp₀, hsp₀, ⟨-, rfl⟩ | ⟨-, hstands⟩⟩ := splits_unpark u t' _ t sp hsp
      · exact hnone hfn sp hsp₀
      · exact unpaged_of_standing hstands (unpaged_pageAnswer sp₀ page _ leaf)
    · exact hnone hfn sp hsp
  obtain ⟨hthreads, -, hdone⟩ := foldl_establishes honly hself hkeep ts (show OnlyThreads v v from rfl)
  exact ⟨hthreads, hdone⟩

/-- A walk whose translation is there: what waited for an instruction's page goes on; else nothing more happens. -/
theorem pageWalk_exec {d fn page : Nat} {w : Want} {more : List Want} {leaf : Leaf} (hwants : s.walkWants d fn page = w :: more)
    (hask : s.ask fn w.addr w.access w.who = (v, .go leaf)) :
    exec (.pageWalk d fn page) s = .next (if w.access ≠ 4 then v else v.liveThreads.foldl (givePage fn page leaf) v) := by
  show execPageWalk d fn page s = _
  unfold execPageWalk
  rw [happens_of _ (by rw [hwants]; rfl)]
  simp only [hwants, hask]
  rfl

theorem pageWalk_gives (d fn page : Nat) (w : Want) (more : List Want) (leaf : Leaf) (v : State) :
    brings (.pageWalk d fn page)
      (fun s => (s.walkWants d fn page = w :: more ∧ s.ask fn w.addr w.access w.who = (v, .go leaf)) ∧ w.access = 4)
      (fun _ u => u = { v with threads := u.threads } ∧ ∀ k ∈ v.liveThreads, (v.block k.core k.ctx).fn = fn →
        ∀ sp ∈ (u.thread k).splits, sp.live = true → ∀ p, sp.page = some p → p.1 / 4096 ≠ page) := by
  intro s ⟨⟨hwants, hask⟩, haccess⟩
  refine ⟨_, pageWalk_exec hwants hask, ?_⟩
  rw [if_neg (by simp [haccess])]
  exact givePages_done v fn page leaf v.liveThreads

theorem pageWalk_leaves (d fn page : Nat) (w : Want) (more : List Want) (leaf : Leaf) (v : State) :
    occurs (.pageWalk d fn page) (fun s => (s.walkWants d fn page = w :: more ∧ s.ask fn w.addr w.access w.who = (v, .go leaf)) ∧ w.access ≠ 4)
      fun _ => v := by
  intro s ⟨⟨hwants, hask⟩, haccess⟩
  rw [pageWalk_exec hwants hask, if_pos haccess]

/-! ## Write grants -/

/-- What a change of one quad leaves. -/
theorem onlyQuad_modQuad (s : State) (q : Nat) (f : Quad → Quad) : onlyQuad q s (s.modQuad q f) ∧ (s.modQuad q f).quad q = f (s.quad q) :=
  ⟨⟨rfl, fun _ hk => Tab.get_set_other _ _ _ hk⟩, Tab.get_set_self _ _ _ _⟩

theorem writeGrantRequest_brings (q fn page : Nat) (n : Need) (e : StoreEntry) (leaf : Leaf) (v : State) : brings (.writeGrantRequest q fn page)
    (fun s => s.grantRequest q fn page = some (n, e) ∧ s.ask fn n.addr 1 n.who = (v, .go leaf))
    fun _ u => onlyQuad q v u ∧ u.quad q = { v.quad q with grantWant := (v.quad q).grantWant ++ [(fn, page)] } := by
  refine brings_of_happens (fun _ => rfl) fun s ⟨hrequest, hask⟩ => ⟨by rw [hrequest]; rfl, ?_⟩
  simp only [hrequest, hask]
  exact onlyQuad_modQuad v q _

theorem writeGrantAnswer_brings (q fn page : Nat) : brings (.writeGrantAnswer q fn page) (fun s => (fn, page) ∈ (s.quad q).grantWant)
    fun s u => onlyQuad q s u ∧ u.quad q = { s.quad q with
      grantWant := (s.quad q).grantWant.erase (fn, page), grants := (s.quad q).grants ++ [(s.nameOf fn (page * 4096), fn)] } :=
  brings_of_happens (fun _ => rfl) fun s hwant => ⟨List.contains_iff_mem.mpr hwant, onlyQuad_modQuad s q _⟩

end Sys2Proof.Claim
end

section
/-! SUPPORT. The fault queue's entries, what the driver writes of faults, and the invalidation log. -/

open Sys2Proof.Machine

namespace Sys2Proof.Claim

variable {s u : State}

/-! ## Fault-queue entries -/

/-- A byte of words. -/
def wordByte (ws : List Nat) (k : Nat) : Byte := (BitVec.ofNat 32 (ws.getD (k / 4) 0)).extractLsb' (8 * (k % 4)) 8

theorem wordByte_at (ws : List Nat) {i j : Nat} (hj : j < 4) :
    wordByte ws (4 * i + j) = (BitVec.ofNat 32 (ws.getD i 0)).extractLsb' (8 * j) 8 := by
  rw [wordByte, show (4 * i + j) / 4 = i by omega, show (4 * i + j) % 4 = j by omega]

theorem bytesOf_wordByte (ws : List Nat) (i : Nat) :
    bytesOf (BitVec.ofNat 32 (ws.getD i 0)) = (List.range 4).map fun j => wordByte ws (4 * i + j) := by
  rw [bytesOf_eq_extract]
  exact List.map_congr_left fun j hj => (wordByte_at ws (List.mem_range.mp hj)).symm

theorem words_eq (x : FaultRec) (d : Nat) (phase : Bool) : x.words d phase = (entryWords x d phase).map (BitVec.ofNat 32) := by
  simp only [FaultRec.words, entryWords, w32, List.map_cons, List.map_nil]

theorem map_drop_one (ws : List Nat) (h : ws.length = 8) :
    (ws.map (BitVec.ofNat 32)).drop 1 = (List.range 7).map fun i => BitVec.ofNat 32 (ws.getD (1 + i) 0) := by
  refine List.ext_getElem (by simp [h]) fun i h1 _ => ?_
  have hi : 1 + i < ws.length := by
    rw [List.length_drop, List.length_map] at h1
    omega
  rw [List.getElem_drop, List.getElem_map, List.getElem_map, List.getElem_range, ← List.getElem_eq_getD (h := hi)]

theorem words_head (x : FaultRec) (d : Nat) (phase : Bool) : (x.words d phase).headD 0#32 = BitVec.ofNat 32 ((entryWords x d phase).getD 0 0) := by
  simp only [FaultRec.words, entryWords, w32, List.headD_cons, List.getD_cons_zero]

theorem entryWords_length (x : FaultRec) (d : Nat) (phase : Bool) : (entryWords x d phase).length = 8 := by
  simp only [entryWords, List.length_cons, List.length_nil]

theorem words_bytes (x : FaultRec) (d : Nat) (phase : Bool) :
    ((x.words d phase).drop 1).flatMap bytesOf = (List.range 28).map fun k => wordByte (entryWords x d phase) (4 + k) := by
  rw [words_eq, map_drop_one _ (entryWords_length x d phase), List.flatMap_map, ← flatMap_range_map _ 4 7]
  refine congrArg List.flatten (List.map_congr_left fun i _ => ?_)
  rw [bytesOf_wordByte]
  exact List.map_congr_left fun j _ => congrArg _ (by omega)

/-- Memory after an entry's words 1 to 7, and then its word 0, have been written. -/
def entryWritten (m : List Host.Cell) (a : Nat) (ws : List Word) : List Host.Cell :=
  memWrite (memWrite m (cellsAt (a + 4) ((ws.drop 1).flatMap bytesOf))) (cellsAt a (bytesOf (ws.headD 0#32)))

theorem entryWritten_inside (m : List Host.Cell) (a : Nat) (x : FaultRec) (d : Nat) (phase : Bool) {k : Nat} (hk : k < 32) :
    memGet (entryWritten m a (x.words d phase)) (a + k) = wordByte (entryWords x d phase) k := by
  have hfirst := bytesOf_wordByte (entryWords x d phase) 0
  simp only [Nat.mul_zero, Nat.zero_add] at hfirst
  rw [entryWritten, words_bytes, words_head, hfirst, cellsAt_map_range, cellsAt_map_range]
  by_cases hk4 : k < 4
  · exact memGet_memWrite_inside _ a _ hk4
  · have hrest := memGet_memWrite_inside m (a + 4) (fun k => wordByte (entryWords x d phase) (4 + k)) (n := 28) (i := k - 4) (by omega)
    rw [show a + 4 + (k - 4) = a + k by omega, show 4 + (k - 4) = k by omega] at hrest
    rw [memGet_memWrite_outside _ a _ (by omega), hrest]

theorem entryWritten_outside (m : List Host.Cell) (a : Nat) (x : FaultRec) (d : Nat) (phase : Bool) {b : Nat} (hb : b < a ∨ a + 32 ≤ b) :
    memGet (entryWritten m a (x.words d phase)) b = memGet m b := by
  have hfirst := bytesOf_wordByte (entryWords x d phase) 0
  rw [entryWritten, words_bytes, words_head, hfirst, cellsAt_map_range, cellsAt_map_range,
    memGet_memWrite_outside _ a _ (by omega), memGet_memWrite_outside _ (a + 4) _ (by omega)]

/-- Host memory with an entry in a function's fault ring, whose tail is behind it, and the entry gone from its die. -/
def entryPosted (s : State) (m : List Host.Cell) (d fn : Nat) (x : FaultRec) (vector : Nat) : State :=
  (({ s with hostMem := m }.modDie d fun y => { y with buffer := y.buffer.erase x }).modFn fn
    fun f => { f with fqtail := f.fqtail + 1#32 }).emit (.msix fn vector)

theorem entryPosted_frame (s : State) (m : List Host.Cell) (d fn : Nat) (x : FaultRec) (vector : Nat) :
    let u := entryPosted s m d fn x vector
    u = { s with hostMem := u.hostMem, dies := u.dies, fns := u.fns, outputs := u.outputs }
      ∧ u.hostMem = m
      ∧ u.die d = { s.die d with buffer := (s.die d).buffer.erase x } ∧ (∀ k, k ≠ d → u.die k = s.die k)
      ∧ u.fn fn = { s.fn fn with fqtail := (s.fn fn).fqtail + 1#32 } ∧ (∀ k, k ≠ fn → u.fn k = s.fn k)
      ∧ u.outputs = s.outputs ++ [.msix fn vector] :=
  ⟨rfl, rfl, Tab.get_set_self _ _ _ _, fun _ hk => Tab.get_set_other _ _ _ hk, Tab.get_set_self _ _ _ _,
    fun _ hk => Tab.get_set_other _ _ _ hk, rfl⟩

/-- Where an entry goes in a fault ring, as the model has it. -/
def ringAt (f : Function) : Nat := f.fqbase + f.fqtail.toNat % f.ringSize * 32

theorem faultEntryWrite_exec {d fn : Nat} {x : FaultRec} (hnext : s.nextEntry d fn = some x) (hlink : s.hostLink = true)
    (hroom : (s.fn fn).ringRoom = true) (hfenced : (s.fn fn).fenced = false) :
    exec (.faultEntryWrite d fn) s = .next (entryPosted s
      (entryWritten s.hostMem (ringAt (s.fn fn)) (x.words d (!(s.fn fn).fqtail.bit ((s.fn fn).fqctl.bits 4 0)))) d fn x
      ((s.fn fn).fqctl.bits 26 16)) := by
  show execFaultEntryWrite d fn s = _
  unfold execFaultEntryWrite
  rw [happens_of _ (by simp [hnext, hlink, hroom, hfenced])]
  simp only [hnext]
  rfl

theorem faultEntryWrite_brings (d fn : Nat) (x : FaultRec) :
    let size (s : State) : Nat := 2 ^ ((s.fn fn).fqctl.extractLsb' 0 5).toNat
    let at_ (s : State) : Nat := (s.fn fn).fqbase + (s.fn fn).fqtail.toNat % size s * 32
    brings (.faultEntryWrite d fn)
      (fun s => ((s.die d).buffer.take 256).find? (fun y => y.fn == fn) = some x ∧ (s.fn fn).fqset = 7
        ∧ ((s.fn fn).fqtail - (s.fn fn).fqhead).toNat < size s ∧ (s.die 0).lost = false ∧ (s.fn fn).fenced = false)
      fun s u => u = { s with hostMem := u.hostMem, dies := u.dies, fns := u.fns, outputs := u.outputs }
        ∧ (∀ i, i < 8 → ∀ j, j < 4 → memGet u.hostMem (at_ s + 4 * i + j)
            = (BitVec.ofNat 32 ((entryWords x d (!(s.fn fn).fqtail.getLsbD ((s.fn fn).fqctl.extractLsb' 0 5).toNat)).getD i 0)).extractLsb' (8 * j) 8)
        ∧ (∀ a, (a < at_ s ∨ at_ s + 32 ≤ a) → memGet u.hostMem a = memGet s.hostMem a)
        ∧ u.die d = { s.die d with buffer := (s.die d).buffer.erase x } ∧ (∀ k, k ≠ d → u.die k = s.die k)
        ∧ u.fn fn = { s.fn fn with fqtail := (s.fn fn).fqtail + 1#32 } ∧ (∀ k, k ≠ fn → u.fn k = s.fn k)
        ∧ u.outputs = s.outputs ++ [.msix fn ((s.fn fn).fqctl.extractLsb' 16 11).toNat] := by
  intro size at_ s ⟨hfind, hset, hroom, hlost, hfenced⟩
  have hsize : (s.fn fn).ringSize = size s := congrArg (2 ^ ·) (bits_eq_extract _ 4 0)
  have hat : ringAt (s.fn fn) = at_ s := by rw [ringAt, hsize]
  have hring : (s.fn fn).ringRoom = true := by
    rw [Function.ringRoom, hset, hsize, decide_eq_true hroom]
    rfl
  have hexec := faultEntryWrite_exec (show s.nextEntry d fn = some x from hfind) (show (!(s.die 0).lost) = true by rw [hlost]; rfl) hring hfenced
  rw [bits_eq_extract, bits_eq_extract, hat] at hexec
  obtain ⟨hframe, hmem, hrest⟩ := entryPosted_frame s
    (entryWritten s.hostMem (at_ s) (x.words d (!(s.fn fn).fqtail.bit ((s.fn fn).fqctl.extractLsb' 0 5).toNat))) d fn x ((s.fn fn).fqctl.extractLsb' 16 11).toNat
  refine ⟨_, hexec, hframe, fun i hi j hj => ?_, fun a ha => ?_, hrest⟩
  · rw [← wordByte_at _ hj, Nat.add_assoc]
    exact (congrArg (memGet · _) hmem).trans (entryWritten_inside s.hostMem (at_ s) x d _ (by omega))
  · exact (congrArg (memGet · _) hmem).trans (entryWritten_outside s.hostMem (at_ s) x d _ ha)

/-! ## What the driver writes -/

theorem fqheadWrite_brings (fn : Nat) (w : Word) : brings (.fqheadWrite fn w)
    (fun s => openFn fn s ∧ (w - (s.fn fn).fqhead).toNat ≤ ((s.fn fn).fqtail - (s.fn fn).fqhead).toNat)
    fun s u => onlyFn fn s u ∧ u.fn fn = { s.fn fn with fqhead := w } := by
  refine brings_fnWrite (fn := fn) (fun _ => rfl) fun s ⟨hopen, hroom⟩ => ⟨hopen, ?_⟩
  simp only [if_pos hroom]
  exact onlyFn_modFn s fn _

theorem fqctlWrite_brings (fn : Nat) (w : Word) : brings (.fqctlWrite fn w)
    (fun s => openFn fn s ∧ 6 ≤ (w.extractLsb' 0 5).toNat ∧ (w.extractLsb' 0 5).toNat ≤ 16)
    fun s u => onlyFn fn s u ∧ u.fn fn = { s.fn fn with
      fqctl := w &&& 0x07FF001F#32, fqhead := 0#32, fqtail := 0#32,
      fqset := if (s.fn fn).fqset % 8 < 4 then (s.fn fn).fqset + 4 else (s.fn fn).fqset } := by
  refine brings_fnWrite (fn := fn) (fun _ => rfl) fun s ⟨hopen, hlow, hhigh⟩ => ⟨hopen, ?_⟩
  have hsize : ¬(decide (w.bits 4 0 < 6) || decide (16 < w.bits 4 0)) = true := by
    rw [bits_eq_extract, Bool.or_eq_true, decide_eq_true_eq, decide_eq_true_eq]
    exact not_or.mpr ⟨Nat.not_lt.mpr hlow, Nat.not_lt.mpr hhigh⟩
  rw [if_neg hsize]
  exact onlyFn_modFn s fn _

theorem fqresResolved_brings (fn id d : Nat) (x : PageFault) : brings (.fqresResolved fn id)
    (fun s => openFn fn s ∧ s.faultHolder fn id = some (d, x))
    fun s u => onlyDie d s u ∧ u.die d = { s.die d with faults := (s.die d).faults.erase x } := by
  refine brings_fnWrite (fn := fn) (fun _ => rfl) fun s ⟨hopen, hholder⟩ => ⟨hopen, ?_⟩
  simp only [hholder]
  exact onlyDie_modDie s d _

theorem fqresNoPage_brings (fn id d : Nat) (x : PageFault) : brings (.fqresNoPage fn id)
    (fun s => openFn fn s ∧ s.faultHolder fn id = some (d, x))
    fun s u => onlyDie d s u ∧ u.die d = { s.die d with
      faults := (s.die d).faults.erase x, verdicts := (s.die d).verdicts ++ [{ fn := fn, page := x.page, cause := 0x07 }] } := by
  refine brings_fnWrite (fn := fn) (fun _ => rfl) fun s ⟨hopen, hholder⟩ => ⟨hopen, ?_⟩
  simp only [hholder]
  exact onlyDie_modDie s d _

/-! ## The invalidation log -/

/-- Every die's log with one more entry. -/
theorem die_foldl_append (s : State) (f : Die → Die) (n d : Nat) :
    ((List.range n).foldl (fun (s : State) d => s.modDie d f) s).die d = if d < n then f (s.die d) else s.die d := by
  induction n with
  | zero => rfl
  | succ n ih =>
    rw [List.range_succ, List.foldl_append]
    generalize (List.range n).foldl (fun (s : State) d => s.modDie d f) s = v at ih ⊢
    by_cases hd : d = n
    · subst hd
      rw [if_pos (Nat.lt_succ_self _), show ([d].foldl (fun (s : State) d => s.modDie d f) v).die d = f (v.die d) from Tab.get_set_self _ _ _ _, ih,
        if_neg (Nat.lt_irrefl _)]
    · rw [show ([n].foldl (fun (s : State) d => s.modDie d f) v).die d = v.die d from Tab.get_set_other _ _ _ hd, ih]
      simp only [show d < n + 1 ↔ d < n by omega]

/-- What a request that the driver has written says, as the log takes it. -/
def requestEntry (fn seq : Nat) (w0 w1 w2 w : Word) : LogEntry :=
  let size := (w1.extractLsb' 0 6).toNat
  { seq := seq, purge := w0.getLsbD 25, transl := w0.getLsbD 24, fn := if fn = 0 then (w0.extractLsb' 8 6).toNat else fn,
    domain := (w0.extractLsb' 0 8).toNat, size := size, base := (w2.toNat + w.toNat * 2 ^ 32) / 2 ^ (size + 12) * 2 ^ (size + 12) }

/-- The log refuses no request that names what it can hold. -/
theorem logAllows_good {fn : Nat} {w0 w1 : Word} (h : logAllows fn w0 w1) :
    (decide (w0.bits 31 26 ≠ 0) || decide (w0.bits 23 14 ≠ 0) || decide (w1.bits 31 6 ≠ 0) || decide (45 < w1.bits 5 0)
      || !(w0.bit 25 || w0.bit 24) || (decide (fn ≠ 0) && decide (w0.bits 7 0 ≠ 0))) = false := by
  obtain ⟨htop, hmid, hhigh, hsize, hwhat, hdomain⟩ := h
  have hwhat : (w0.bit 25 || w0.bit 24) = true := by
    rw [Bool.or_eq_true]
    exact hwhat
  have hdomain : ¬(fn ≠ 0 ∧ (w0.extractLsb' 0 8).toNat ≠ 0) := fun ⟨hfn, hne⟩ => hne (by rw [hdomain.resolve_left hfn]; rfl)
  simp only [bits_eq_extract]
  rw [hwhat, ← Bool.decide_and, decide_eq_false hdomain, htop, hmid, hhigh, decide_eq_false (Nat.not_lt.mpr hsize)]
  rfl

theorem getD_set_three (l : List Word) (w : Word) {i : Nat} (hi : i < 3) : (l.set 3 w).getD i 0#32 = l.getD i 0#32 := by
  rw [List.getD_eq_getElem?_getD, List.getD_eq_getElem?_getD, List.getElem?_set_ne (by omega)]

/-- Every die's log with an entry more, and the window that it was written in. -/
def logged (s : State) (fn : Nat) (w : Word) (e : LogEntry) : State :=
  let n := s.pack.invSeq + 1
  let v := (List.range 4).foldl (fun (s : State) d => s.modDie d fun x => { x with log := x.log ++ [e] })
    (s.modFn fn fun f => { f with inval := (s.fn fn).inval.set 3 w })
  ({ v with pack := { v.pack with invSeq := n } }.modFn fn fun f => { f with invseq := n }).emit (.logSeq fn n)

theorem invalAppend_exec {fn : Nat} {w w0 w1 w2 : Word} (hopen : openFn fn s)
    (hwords : ∀ i, i < 3 → (s.fn fn).inval.getD i 0#32 = [w0, w1, w2].getD i 0#32) (hallows : logAllows fn w0 w1) :
    exec (.invalAppend fn w) s = .next (logged s fn w (requestEntry fn (s.pack.invSeq + 1) w0 w1 w2 w)) := by
  have hword : ∀ {i : Nat}, i < 3 → ((s.fn fn).inval.set 3 w).getD i 0#32 = [w0, w1, w2].getD i 0#32 :=
    fun hi => (getD_set_three _ w hi).trans (hwords _ hi)
  have h0 : ((s.fn fn).inval.set 3 w).getD 0 0#32 = w0 := hword (by decide)
  have h1 : ((s.fn fn).inval.set 3 w).getD 1 0#32 = w1 := hword (by decide)
  have h2 : ((s.fn fn).inval.set 3 w).getD 2 0#32 = w2 := hword (by decide)
  show execInvalAppend fn w s = _
  unfold execInvalAppend
  rw [fnWrite_of_openFn _ hopen]
  simp only [h0, h1, h2, logAllows_good hallows, Bool.false_eq_true, if_false]
  simp only [bits_eq_extract]
  rfl

theorem logged_frame (s : State) (fn : Nat) (w : Word) (e : LogEntry) :
    let u := logged s fn w e
    u = { s with fns := u.fns, dies := u.dies, pack := { s.pack with invSeq := s.pack.invSeq + 1 }, outputs := u.outputs }
      ∧ (∀ d, u.die d = if d < 4 then { s.die d with log := (s.die d).log ++ [e] } else s.die d)
      ∧ u.fn fn = { s.fn fn with inval := (s.fn fn).inval.set 3 w, invseq := s.pack.invSeq + 1 } ∧ (∀ k, k ≠ fn → u.fn k = s.fn k)
      ∧ u.outputs = s.outputs ++ [.logSeq fn (s.pack.invSeq + 1)] := by
  refine ⟨rfl, fun d => ?_, ?_, fun k hk => ?_, rfl⟩
  · exact die_foldl_append (s.modFn fn fun f => { f with inval := (s.fn fn).inval.set 3 w }) (fun x => { x with log := x.log ++ [e] }) 4 d
  · have hwritten : (s.modFn fn fun f => { f with inval := (s.fn fn).inval.set 3 w }).fn fn = { s.fn fn with inval := (s.fn fn).inval.set 3 w } :=
      Tab.get_set_self _ _ _ _
    exact (Tab.get_set_self _ _ _ _).trans (congrArg (fun f : Function => { f with invseq := s.pack.invSeq + 1 }) hwritten)
  · exact (Tab.get_set_other _ _ _ hk).trans (Tab.get_set_other _ _ _ hk)

theorem invalAppend_brings (fn : Nat) (w w0 w1 w2 : Word) :
    let size := (w1.extractLsb' 0 6).toNat
    brings (.invalAppend fn w)
      (fun s => openFn fn s ∧ (∀ i, i < 3 → (s.fn fn).inval.getD i 0#32 = [w0, w1, w2].getD i 0#32) ∧ logAllows fn w0 w1)
      fun s u => u = { s with fns := u.fns, dies := u.dies, pack := { s.pack with invSeq := s.pack.invSeq + 1 }, outputs := u.outputs }
        ∧ (∀ d, u.die d = if d < 4 then { s.die d with log := (s.die d).log ++ [{
              seq := s.pack.invSeq + 1, purge := w0.getLsbD 25, transl := w0.getLsbD 24,
              fn := if fn = 0 then (w0.extractLsb' 8 6).toNat else fn, domain := (w0.extractLsb' 0 8).toNat, size := size,
              base := (w2.toNat + w.toNat * 2 ^ 32) / 2 ^ (size + 12) * 2 ^ (size + 12) }] } else s.die d)
        ∧ u.fn fn = { s.fn fn with inval := (s.fn fn).inval.set 3 w, invseq := s.pack.invSeq + 1 } ∧ (∀ k, k ≠ fn → u.fn k = s.fn k)
        ∧ u.outputs = s.outputs ++ [.logSeq fn (s.pack.invSeq + 1)] :=
  fun s ⟨hopen, hwords, hallows⟩ => ⟨_, invalAppend_exec hopen hwords hallows, logged_frame s fn w (requestEntry fn (s.pack.invSeq + 1) w0 w1 w2 w)⟩

/-! ## A die applies the log -/

/-- Nothing that a core holds of lines lies in an entry. -/
def CoreClean (e : LogEntry) (k : Nat) (s : State) : Prop :=
  (∀ l ∈ (s.core k).l1, e.coversKey l.key = false) ∧ ∀ l ∈ (s.core k).icode, e.coversKey l.1 = false

/-- A core without the lines of an entry. -/
def purgeCore (e : LogEntry) (k : Nat) (s : State) : State :=
  if (s.core k).l1.isEmpty && (s.core k).icode.isEmpty then s
  else s.modCore k fun c => { c with l1 := c.l1.filter fun l => !e.coversKey l.key, icode := c.icode.filter fun l => !e.coversKey l.1 }

theorem forall_mem_filter_not {α : Type} (p : α → Bool) (l : List α) : ∀ x ∈ l.filter fun y => !p y, p x = false := by
  intro x hx
  simpa using (List.mem_filter.mp hx).2

theorem coreClean_purgeCore (e : LogEntry) (k : Nat) (s : State) : CoreClean e k (purgeCore e k s) := by
  unfold purgeCore
  split
  · next hempty =>
    obtain ⟨hl1, hicode⟩ := Bool.and_eq_true_iff.mp hempty
    rw [CoreClean, List.isEmpty_iff.mp hl1, List.isEmpty_iff.mp hicode]
    exact ⟨fun _ h => absurd h List.not_mem_nil, fun _ h => absurd h List.not_mem_nil⟩
  · rw [CoreClean, State.core_modCore]
    exact ⟨forall_mem_filter_not (fun l : L1Line => e.coversKey l.key) _, forall_mem_filter_not (fun l : Nat × List Word => e.coversKey l.1) _⟩

theorem coreClean_purgeCore_of {e : LogEntry} {k : Nat} (k' : Nat) (h : CoreClean e k s) : CoreClean e k (purgeCore e k' s) := by
  by_cases hk : k = k'
  · subst hk
    exact coreClean_purgeCore e k s
  · unfold purgeCore
    split
    · exact h
    · rw [CoreClean, State.core_modCore_other _ _ hk]
      exact h

/-- A name lies in an entry. -/
def nameCovered (e : LogEntry) (n : Nat) : Bool := e.covers (n / 2 ^ 45) (n % 2 ^ 45 * 4096)

/-- No write grant that a quad holds lies in an entry. -/
def QuadClean (e : LogEntry) (k : Nat) (s : State) : Prop := ∀ g ∈ (s.quad k).grants, nameCovered e g.1 = false

/-- A quad without the write grants of an entry. -/
def purgeQuad (e : LogEntry) (k : Nat) (s : State) : State :=
  if (s.quad k).grants.isEmpty && (s.quad k).grantWant.isEmpty then s
  else s.modQuad k fun q => { q with
    grants := q.grants.filter fun g => !nameCovered e g.1,
    grantWant := q.grantWant.filter fun g => !nameCovered e (s.nameOf g.1 (g.2 * 4096)) }

theorem quadClean_purgeQuad (e : LogEntry) (k : Nat) (s : State) : QuadClean e k (purgeQuad e k s) := by
  unfold purgeQuad
  split
  · next hempty =>
    rw [QuadClean, List.isEmpty_iff.mp (Bool.and_eq_true_iff.mp hempty).1]
    exact fun _ h => absurd h List.not_mem_nil
  · rw [QuadClean, (onlyQuad_modQuad s k _).2]
    exact forall_mem_filter_not (fun g : Nat × Nat => nameCovered e g.1) _

theorem quadClean_purgeQuad_of {e : LogEntry} {k : Nat} (k' : Nat) (h : QuadClean e k s) : QuadClean e k (purgeQuad e k' s) := by
  by_cases hk : k = k'
  · subst hk
    exact quadClean_purgeQuad e k s
  · unfold purgeQuad
    split
    · exact h
    · rw [QuadClean, (onlyQuad_modQuad s k' _).1.2 k hk]
      exact h

theorem cores_purgeQuad (e : LogEntry) (k : Nat) (s : State) : (purgeQuad e k s).cores = s.cores := by
  unfold purgeQuad
  split <;> rfl

/-- A state in which a die's cores hold no lines of an entry, if it purges. -/
def purgedCores (die : Nat) (e : LogEntry) (s : State) : State :=
  if !e.purge then s else (List.range 64).foldl (fun s i => purgeCore e (die * 64 + i) s) s

/-- A state in which a die's quads hold no write grants of an entry, if it is of translation. -/
def purgedQuads (die : Nat) (e : LogEntry) (s : State) : State :=
  if !e.transl then s else (List.range 16).foldl (fun s i => purgeQuad e (die * 16 + i) s) s

theorem purgedCores_clean (die : Nat) {e : LogEntry} (h : e.purge = true) (s : State) {i : Nat} (hi : i < 64) :
    CoreClean e (die * 64 + i) (purgedCores die e s) := by
  rw [purgedCores, h]
  exact (foldl_establishes (I := fun _ : State => True) (P := fun i s => CoreClean e (die * 64 + i) s) (fun _ _ h => h)
    (fun s i _ => coreClean_purgeCore e (die * 64 + i) s) (fun _ _ _ _ hclean => coreClean_purgeCore_of _ hclean)
    (List.range 64) (b := s) trivial).2.2 i (List.mem_range.mpr hi)

theorem purgedQuads_clean (die : Nat) {e : LogEntry} (h : e.transl = true) (s : State) {i : Nat} (hi : i < 16) :
    QuadClean e (die * 16 + i) (purgedQuads die e s) := by
  rw [purgedQuads, h]
  exact (foldl_establishes (I := fun _ : State => True) (P := fun i s => QuadClean e (die * 16 + i) s) (fun _ _ h => h)
    (fun s i _ => quadClean_purgeQuad e (die * 16 + i) s) (fun _ _ _ _ hclean => quadClean_purgeQuad_of _ hclean)
    (List.range 16) (b := s) trivial).2.2 i (List.mem_range.mpr hi)

theorem cores_purgedQuads (die : Nat) (e : LogEntry) (s : State) : (purgedQuads die e s).cores = s.cores := by
  unfold purgedQuads
  split
  · rfl
  · exact (foldl_establishes (I := fun v : State => v.cores = s.cores) (P := fun _ _ => True)
      (fun v i hv => (cores_purgeQuad e (die * 16 + i) v).trans hv) (fun _ _ _ => trivial) (fun _ _ _ _ _ => trivial) (List.range 16) (b := s) rfl).1

/-- What a die has applied of an entry, once its caches have. -/
def appliedAt (die : Nat) (e : LogEntry) (s : State) : State :=
  s.modDie die fun d =>
    { d with
      applied := e.seq, log := d.log.filter (· ≠ e),
      leaves := if e.transl then d.leaves.filter fun l => !(l.base < e.base + 2 ^ (e.size + 12) && e.base < l.base + l.size
          && (if e.domain = 0 then l.fn == e.fn else s.tagOf l.fn l.base == e.domain)) else d.leaves,
      names := if e.transl then d.names.filterMap fun n =>
          let kept := n.2.names.filter fun x => !nameCovered e x
          if kept.isEmpty then none else some (n.1, { n.2 with names := kept }) else d.names }

theorem applyLog_eq (s : State) (die : Nat) (e : LogEntry) :
    s.applyLog die e = appliedAt die e (purgedQuads die e (purgedCores die e ((s.purgeLines die e).foldl (fun s p => s.purgeLine p.1 p.2) s))) := rfl

theorem appliedAt_die (die : Nat) (e : LogEntry) (s : State) :
    ((appliedAt die e s).die die).applied = e.seq ∧ e ∉ ((appliedAt die e s).die die).log
      ∧ (e.transl = true → ∀ n ∈ ((appliedAt die e s).die die).names, ∀ x ∈ n.2.names, nameCovered e x = false) := by
  rw [appliedAt, (onlyDie_modDie s die _).2]
  refine ⟨rfl, fun h => ?_, fun htransl n hn x hx => ?_⟩
  · simpa using (List.mem_filter.mp h).2
  · simp only [htransl, if_true, List.mem_filterMap] at hn
    obtain ⟨n₀, -, hsome⟩ := hn
    split at hsome
    · cases hsome
    · cases hsome
      exact forall_mem_filter_not (nameCovered e) _ x hx

theorem logApply_brings (d : Nat) (e : LogEntry) : brings (.logApply d) (fun s => s.logMay d = true ∧ (s.die d).nextLog = some e)
    fun _ u => (u.die d).applied = e.seq ∧ e ∉ (u.die d).log
      ∧ (e.purge = true → ∀ i, i < 64 → (∀ l ∈ (u.core (d * 64 + i)).l1, e.coversKey l.key = false)
          ∧ ∀ l ∈ (u.core (d * 64 + i)).icode, e.coversKey l.1 = false)
      ∧ (e.transl = true → (∀ n ∈ (u.die d).names, ∀ x ∈ n.2.names, e.covers (x / 2 ^ 45) (x % 2 ^ 45 * 4096) = false)
          ∧ ∀ i, i < 16 → ∀ g ∈ (u.quad (d * 16 + i)).grants, e.covers (g.1 / 2 ^ 45) (g.1 % 2 ^ 45 * 4096) = false) := by
  refine brings_of_happens (fun _ => rfl) fun s ⟨hmay, hnext⟩ => ⟨hmay, ?_⟩
  simp only [hnext, applyLog_eq]
  generalize (s.purgeLines d e).foldl (fun s p => s.purgeLine p.1 p.2) s = v
  obtain ⟨happlied, hgone, hnames⟩ := appliedAt_die d e (purgedQuads d e (purgedCores d e v))
  refine ⟨happlied, hgone, fun hpurge i hi => ?_, fun htransl => ⟨hnames htransl, fun i hi => purgedQuads_clean d htransl _ hi⟩⟩
  have hcore : (appliedAt d e (purgedQuads d e (purgedCores d e v))).core (d * 64 + i) = (purgedCores d e v).core (d * 64 + i) :=
    congrArg (Tab.get Core.reset · (d * 64 + i)) (cores_purgedQuads d e (purgedCores d e v))
  rw [hcore]
  exact purgedCores_clean d hpurge v hi

end Sys2Proof.Claim

open Sys2Proof Sys2Proof.Claim

/-- Settles O53, event by event: code lines and walks by what every turn of their folds keeps, the ring's entry byte by byte, the log
by the folds over a die's cores and quads. -/
theorem faultsAndLogGoOn : Obligations.FaultsAndLogGoOn := by
  unfold Obligations.FaultsAndLogGoOn
  exact ⟨codeFetch_brings, fun d fn page w more leaf v => ⟨pageWalk_gives d fn page w more leaf v, pageWalk_leaves d fn page w more leaf v⟩,
    writeGrantRequest_brings, writeGrantAnswer_brings, faultEntryWrite_brings, fqheadWrite_brings, fqctlWrite_brings,
    fun fn id d x => ⟨fqresResolved_brings fn id d x, fqresNoPage_brings fn id d x⟩, invalAppend_brings, logApply_brings⟩

end

section
/-! SUPPORT. Acquires of any thread: what one does at once, and what waits. -/

open Sys2Proof.Machine

namespace Sys2Proof.Claim

variable {s u v w : State} {t : Tid}

theorem onlyThreadAndL1_refl (t : Tid) (s : State) : onlyThreadAndL1 t s s := ⟨rfl, fun _ _ => rfl, fun _ _ => rfl, rfl⟩

theorem onlyThreadAndL1_trans (huv : onlyThreadAndL1 t u v) (hvw : onlyThreadAndL1 t v w) : onlyThreadAndL1 t u w := by
  obtain ⟨hv, hvthreads, hvcores, hvl1⟩ := huv
  obtain ⟨hw, hwthreads, hwcores, hwl1⟩ := hvw
  refine ⟨by rw [hw, hv], fun k hk => (hwthreads k hk).trans (hvthreads k hk), fun d hd => (hwcores d hd).trans (hvcores d hd), ?_⟩
  rw [hwl1, hvl1]

theorem onlyThreadAndL1_modThread (s : State) (t : Tid) (f : Thread → Thread) : onlyThreadAndL1 t s (s.modThread t f) :=
  ⟨rfl, fun _ hk => State.thread_modThread_other s f hk, fun _ _ => rfl, rfl⟩

/-! ## What an acquire does -/

/-- What a thread observes is added to its floor, and to what its later releases see performed. -/
theorem observes_frame (th : Thread) (seq : Nat) (keys : List Nat) : ∃ seen rel, th.observes seq keys = { th with seen := seen, releases := rel }
    ∧ ∀ k ∈ keys, k ∈ seen := by
  unfold Thread.observes
  split
  · next hnone =>
    rw [List.isEmpty_iff.mp hnone]
    exact ⟨_, _, rfl, fun k hk => absurd hk List.not_mem_nil⟩
  · exact ⟨_, _, rfl, fun k hk => List.mem_eraseDups.mpr (List.mem_append_right _ hk)⟩

/-- The core's L1 drops its lines from quad scope on. -/
def l1Dropped (s : State) (c scope : Nat) : State := if 4 ≤ scope then s.modCore c fun x => { x with l1 := [] } else s

/-- The lines that stand as local bytes in a quad cache. -/
def localLines (s : State) (q : Nat) : List Nat := ((s.quad q).lines.filter fun e => e.2.lmask ≠ 0#128).map (·.1)

theorem acquireFrom_eq (seq : Nat) {scope : Nat} (h : 2 ≤ scope) :
    s.acquireFrom t seq scope = (l1Dropped s t.core scope).modThread t fun th => th.observes seq (localLines s (quadOf t.core)) := by
  unfold State.acquireFrom
  rw [if_neg (by omega)]
  rfl

theorem l1Dropped_only (s : State) (c scope : Nat) :
    l1Dropped s c scope = { s with cores := (l1Dropped s c scope).cores } ∧ (∀ d, d ≠ c → (l1Dropped s c scope).core d = s.core d)
      ∧ (l1Dropped s c scope).core c = { s.core c with l1 := if 4 ≤ scope then [] else (s.core c).l1 } := by
  unfold l1Dropped
  split
  · exact ⟨rfl, fun d hd => State.core_modCore_other s _ hd, State.core_modCore s c _⟩
  · exact ⟨rfl, fun _ _ => rfl, rfl⟩

theorem l1Dropped_thread (s : State) (c scope : Nat) (k : Tid) : (l1Dropped s c scope).thread k = s.thread k := by
  rw [(l1Dropped_only s c scope).1]
  rfl

/-- What an acquire changes of its thread, and what it leaves. -/
theorem acquireFrom_frame (s : State) (t : Tid) (seq scope : Nat) : onlyThreadAndL1 t s (s.acquireFrom t seq scope)
    ∧ acquireMade s t scope (s.acquireFrom t seq scope)
    ∧ ∃ seen rel, (s.acquireFrom t seq scope).thread t = { s.thread t with seen := seen, releases := rel } := by
  by_cases hscope : 2 ≤ scope
  · obtain ⟨hframe, hcores, hcore⟩ := l1Dropped_only s t.core scope
    obtain ⟨seen, rel, hth, hseen⟩ := observes_frame (s.thread t) seq (localLines s (quadOf t.core))
    rw [acquireFrom_eq seq hscope]
    have hthread : ((l1Dropped s t.core scope).modThread t fun th => th.observes seq (localLines s (quadOf t.core))).thread t
        = { s.thread t with seen := seen, releases := rel } := by
      rw [State.thread_modThread, l1Dropped_thread, hth]
    refine ⟨⟨?_, fun k hk => ?_, hcores, ?_⟩, ⟨fun _ e he hlocal => ?_, ?_⟩, seen, rel, hthread⟩
    · rw [hframe]
      rfl
    · rw [State.thread_modThread_other _ _ hk, l1Dropped_thread]
    · exact hcore.trans (by rw [State.core_modThread, hcore])
    · rw [hthread]
      exact hseen _ (List.mem_map_of_mem (List.mem_filter.mpr ⟨he, decide_eq_true hlocal⟩))
    · rw [State.core_modThread, hcore]
  · have hsame : s.acquireFrom t seq scope = s := by
      unfold State.acquireFrom
      rw [if_pos (by omega)]
    rw [hsame]
    refine ⟨onlyThreadAndL1_refl t s, ⟨fun h => absurd h hscope, ?_⟩, _, _, rfl⟩
    rw [if_neg (by omega)]

/-! ## Acquires that are made now, and those that wait -/

/-- The acquire that a thread's next one is. -/
def nextAcquire (s : State) (t : Tid) (scope : Nat) (stalls : Bool) : Acquire :=
  { seq := (s.thread t).seq, scope := scope, upto := (s.die (dieOf t.core)).logEnd, fence := false, stalls := stalls }

/-- A thread whose next acquire is pending. -/
def acquireAdded (s : State) (t : Tid) (scope : Nat) (stalls : Bool) : State :=
  s.modThread t fun th => { th with acqs := th.acqs ++ [nextAcquire s t scope stalls], seq := th.seq + 1 }

theorem acquireAdded_only (s : State) (t : Tid) (scope : Nat) (stalls : Bool) : onlyThreadAndL1 t s (acquireAdded s t scope stalls) :=
  onlyThreadAndL1_modThread s t _

theorem makeAcquire_atOnce {scope : Nat} (h : acquiresAtOnce s t scope) (stalls : Bool) :
    s.makeAcquire t scope false stalls = (s.acquire t scope, none) := by
  obtain ⟨hnone, hready⟩ := h
  have hmay : ((s.thread t).acqs.isEmpty && s.acquireMay t (nextAcquire s t scope stalls)) = true := by
    rw [hnone]
    exact Bool.and_eq_true_iff.mpr ⟨rfl, Bool.and_eq_true_iff.mpr ⟨hready, rfl⟩⟩
  exact if_pos hmay

theorem makeAcquire_pends {scope : Nat} (h : ¬acquiresAtOnce s t scope) (stalls : Bool) :
    s.makeAcquire t scope false stalls = (acquireAdded s t scope stalls, some (nextAcquire s t scope stalls)) := by
  have hmay : ¬((s.thread t).acqs.isEmpty && s.acquireMay t (nextAcquire s t scope stalls)) = true := by
    intro hyes
    obtain ⟨hnone, hyes⟩ := Bool.and_eq_true_iff.mp hyes
    exact h ⟨List.isEmpty_iff.mp hnone, (Bool.and_eq_true_iff.mp hyes).1⟩
  exact if_neg hmay

theorem joinAcquire_only (s : State) (t : Tid) (scope : Nat) : onlyThreadAndL1 t s (s.joinAcquire t scope) := by
  unfold State.joinAcquire
  by_cases h : acquiresAtOnce s t scope
  · rw [makeAcquire_atOnce h]
    exact (acquireFrom_frame s t _ scope).1
  · rw [makeAcquire_pends h]
    exact acquireAdded_only s t scope false

theorem startAcquire_atOnce {scope : Nat} (h : acquiresAtOnce s t scope) (i : Nat) : s.startAcquire t i scope false = s.acquire t scope := by
  unfold State.startAcquire
  extract_lets stalls
  rw [makeAcquire_atOnce h]

theorem startAcquire_added {scope : Nat} (h : ¬acquiresAtOnce s t scope) (i : Nat) (hscope : scope ≤ 2) :
    s.startAcquire t i scope false = acquireAdded s t scope (decide (3 ≤ scope)) := by
  rw [State.startAcquire, startAcquire_stalls, makeAcquire_pends h]
  exact if_pos (by simp; omega)

theorem startAcquire_stalled {scope : Nat} (h : ¬acquiresAtOnce s t scope) (i : Nat) (hscope : 3 ≤ scope) :
    s.startAcquire t i scope false = (acquireAdded s t scope (decide (3 ≤ scope))).modThread t fun th => th.modSplit i fun sp =>
      { sp with wait := { kind := 5, w0 := BitVec.ofNat 32 scope, w1 := 0#32, due := (s.thread t).seq }, place := .away } := by
  rw [State.startAcquire, startAcquire_stalls, makeAcquire_pends h]
  exact if_neg (by simp; omega)

end Sys2Proof.Claim
end

section
/-! SUPPORT. The sequencer, held records, the Rill and the lease. -/

open Sys2Proof.Machine

namespace Sys2Proof.Claim

variable {s u : State}

/-! ## The sequencer (04 R84, R85) -/

/-- A wait's threshold taken from its semaphore. -/
def takeWait (m : List (BitVec 16)) (w : TaskWait) : List (BitVec 16) := m.set w.sem (BitVec.ofNat 16 ((m.getD w.sem 0#16).toNat - w.threshold))

theorem getD_takeWait (m : List (BitVec 16)) (w : TaskWait) {j : Nat} (hlen : m.length = 32) (hj : j < 32) :
    ((takeWait m w).getD j 0#16).toNat = if w.sem = j then (m.getD j 0#16).toNat - w.threshold else (m.getD j 0#16).toNat := by
  rw [takeWait, List.getD_eq_getElem?_getD, List.getElem?_set]
  split
  · next h =>
    subst h
    rw [if_pos (by omega), Option.getD_some, BitVec.toNat_ofNat]
    exact Nat.mod_eq_of_lt (Nat.lt_of_le_of_lt (Nat.sub_le _ _) (BitVec.isLt _))
  · rw [List.getD_eq_getElem?_getD]

/-- Thresholds taken one after another from a semaphore leave what their sum does. -/
theorem getD_foldl_takeWait (ws : List TaskWait) (m : List (BitVec 16)) {j : Nat} (hlen : m.length = 32) (hj : j < 32) :
    ((ws.foldl takeWait m).getD j 0#16).toNat = (m.getD j 0#16).toNat - ((ws.filter fun w => w.sem == j).map (·.threshold)).sum := by
  induction ws generalizing m with
  | nil => rfl
  | cons w ws ih =>
    rw [List.foldl_cons, ih (takeWait m w) (by rw [takeWait, List.length_set, hlen]), getD_takeWait m w hlen hj, List.filter_cons]
    by_cases hw : w.sem = j
    · rw [if_pos hw, if_pos (beq_iff_eq.mpr hw), List.map_cons, List.sum_cons, Nat.sub_sub]
    · rw [if_neg hw, if_neg (by simpa using hw)]

theorem consumed_eq (k : Task) (j : Nat) :
    consumed k j = (((k.waits.filter (·.consume)).filter fun w => w.sem == j).map (·.threshold)).sum := by
  rw [consumed, List.filter_filter]
  simp only [Bool.and_comm]

/-- A core whose semaphores a task's consuming waits have taken from. -/
def waitsTaken (k : Task) (c : Core) : Core := { c with sems := (k.waits.filter (·.consume)).foldl takeWait c.sems }

/-- A block whose sequencer has picked a task. -/
def picked (i : Nat) (b : Block) : Block :=
  { b with armed := b.armed.set i false, running := some i, firstIssue := none, paused := 0, pauseFrom := none, overran := false }

/-- The state in which a task has been picked, before it joins its commands. -/
def pickedState (s : State) (c x i : Nat) (k : Task) : State := (s.modCore c (waitsTaken k)).modBlock c x (picked i)

/-- A Sluice thread at a task's entry. -/
def atEntry (k : Task) (clk : Nat) (th : Thread) : Thread :=
  { th with splits := { startSplit k.entry 1#32 clk with ready := clk + 1 } :: List.replicate 3 Split.empty, joins := List.replicate 8 JoinEntry.empty }

/-- A task that consumes what a command has added joins that command. -/
def joined (s : State) (c x : Nat) (k : Task) : State :=
  if k.waits.any (·.consume) then s.joinAcquire (sluiceOf c x) (s.block c x).joinScope else s

theorem joined_only (s : State) (c x : Nat) (k : Task) : onlyThreadAndL1 (sluiceOf c x) s (joined s c x k) := by
  unfold joined
  split
  · exact joinAcquire_only s _ _
  · exact onlyThreadAndL1_refl _ s

theorem sequencerPick_exec {c x i : Nat} {k : Task} (hmay : s.mayPick c x = true) (hpick : s.pick c x = some i)
    (htask : (s.block c x).tasks[i]? = some k) :
    exec (.sequencerPick c x) s = .next ((joined (pickedState s c x i k) c x k).modThread (sluiceOf c x) (atEntry k s.clk)) := by
  have hget : ∀ d, (s.block c x).tasks.getD i d = k := fun d => by rw [List.getD_eq_getElem?_getD, htask, Option.getD_some]
  have hclk : (joined (pickedState s c x i k) c x k).clk = s.clk := by
    rw [(joined_only (pickedState s c x i k) c x k).1]
    rfl
  show execSequencerPick c x s = _
  unfold execSequencerPick
  rw [happens_of _ hmay, ← hclk]
  simp only [hpick, hget]
  rfl

theorem sequencerPick_brings (c x i : Nat) (k : Task) : brings (.sequencerPick c x)
    (fun s => s.mayPick c x = true ∧ s.pick c x = some i ∧ (s.block c x).tasks[i]? = some k ∧ (s.core c).sems.length = 32
      ∧ ∀ w ∈ k.waits, w.sem < 32)
    fun s u => u = { s with cores := u.cores, blocks := u.blocks, threads := u.threads }
      ∧ (∀ d, d ≠ c → u.core d = s.core d) ∧ u.core c = { s.core c with sems := (u.core c).sems, l1 := (u.core c).l1 }
      ∧ (∀ j, j < 32 → ((u.core c).sems.getD j 0#16).toNat = ((s.core c).sems.getD j 0#16).toNat - consumed k j)
      ∧ (let b := s.block c x
         u.block c x = { b with armed := b.armed.set i false, running := some i, firstIssue := none, paused := 0, pauseFrom := none,
                                overran := false })
      ∧ ((u.thread (sluiceOf c x)).split 0).pc = k.entry ∧ ((u.thread (sluiceOf c x)).split 0).mask = 1#32
      ∧ ((u.thread (sluiceOf c x)).split 0).ready = s.clk + 1 ∧ (u.thread (sluiceOf c x)).liveSplits = [0] := by
  intro s ⟨hmay, hpick, htask, hlen, _⟩
  refine ⟨_, sequencerPick_exec hmay hpick htask, ?_⟩
  obtain ⟨hframe, -, hcores, hcore⟩ := joined_only (pickedState s c x i k) c x k
  generalize joined (pickedState s c x i k) c x k = v at hframe hcores hcore
  have htaken : (pickedState s c x i k).core c = waitsTaken k (s.core c) := State.core_modCore s c _
  replace hcore : v.core c = { (pickedState s c x i k).core c with l1 := (v.core c).l1 } := hcore
  rw [htaken] at hcore
  have hblock : v.block c x = picked i (s.block c x) := by
    rw [hframe]
    exact State.block_modBlock _ _ _ _
  refine ⟨?_, fun d hd => (hcores d hd).trans (State.core_modCore_other s _ hd), ?_, fun j hj => ?_, hblock, ?_⟩
  · rw [hframe]
    rfl
  · refine hcore.trans ?_
    rw [State.core_modThread, hcore]
    rfl
  · have hsems : (v.core c).sems = (waitsTaken k (s.core c)).sems := by rw [hcore]
    rw [State.core_modThread, hsems, consumed_eq]
    exact getD_foldl_takeWait _ _ hlen hj
  · rw [State.thread_modThread]
    exact ⟨rfl, rfl, rfl, rfl⟩

theorem taskOverrun_brings (c x i f : Nat) (k : Task) : brings (.taskOverrun c x)
    (fun s => (s.block c x).resident = true ∧ (s.block c x).frozen = none ∧ (s.block c x).pauseFrom = none
      ∧ (s.block c x).running = some i ∧ (s.block c x).firstIssue = some f ∧ (s.block c x).tasks[i]? = some k
      ∧ (s.block c x).overran = false ∧ f + (s.block c x).paused + k.cycles ≤ s.clk)
    fun s u => u = { s with threads := u.threads, blocks := u.blocks }
      ∧ (∀ t : Tid, t.key ≠ (sluiceOf c x).key → u.thread t = s.thread t)
      ∧ u.block c x = { s.block c x with overran := true }
      ∧ (u.thread (sluiceOf c x)).pending
        = (s.thread (sluiceOf c x)).pending ++ [{ cause := 0x16, tval := BitVec.ofNat 32 i, telem := 0 }] := by
  refine brings_of_happens (fun _ => rfl) fun s ⟨hresident, hfrozen, hpause, hrunning, hfirst, htask, hover, hcycles⟩ => ⟨?_, rfl, fun t ht => ?_, ?_, ?_⟩
  · simp [State.overrun, hresident, hfrozen, hpause, hrunning, hfirst, htask, hover, hcycles]
  · rw [State.thread_modBlock, State.thread_modThread_other s _ ht]
  · exact State.block_modBlock _ _ _ _
  · rw [State.thread_modBlock, State.thread_modThread, hrunning]
    rfl

/-! ## Held records (02 R19, 16 R314) -/

/-- The ports that the engines' results come to. -/
def enginePorts : List ResPort := [.mxq, .cp0q, .cp1q]

theorem enginePort_of_mem {p : ResPort} (h : p ∈ enginePorts) : isEnginePort p = true ∧ p ≠ .smq ∧ ∀ m, portLanes p m = 1#32 := by
  simp only [enginePorts, List.mem_cons, List.not_mem_nil, or_false] at h
  rcases h with rfl | rfl | rfl <;> exact ⟨rfl, by decide, fun _ => rfl⟩

theorem engineCode_ne {p p' : ResPort} (h : p ∈ enginePorts) (h' : p' ∈ enginePorts) (hne : p' ≠ p) : p'.code ≠ p.code :=
  (by decide : ∀ p ∈ enginePorts, ∀ p' ∈ enginePorts, p' ≠ p → p'.code ≠ p.code) p h p' h' hne

/-- A result that a port awaits, in every lane. -/
def resultFill (p : ResPort) (v : Word) : Fill := { port := p, mask := BitVec.allOnes 32, vals := lanes32 fun _ => v, due := 0, late := false }

/-- A thread's own port takes a result that it awaits. -/
def tookOwn (th : Thread) (p : ResPort) (tag : Nat) (v : Word) : Thread :=
  if Tab.get 0 th.owners (p.code * 32) = tag then { th.fill (resultFill p v) with owners := Tab.erase th.owners (p.code * 32) } else th

theorem takeResult_aside (th : Thread) (p : ResPort) (tag : Nat) (v : Word) : ∃ a, th.takeResult p tag v = { tookOwn th p tag v with aside := a } := by
  unfold Thread.takeResult
  extract_lets k f th'
  show ∃ a, (match (tookOwn th p tag v).aside with
    | some a => if Tab.get 0 a.owners k = tag then { tookOwn th p tag v with aside := some { a.fill f with owners := Tab.erase a.owners k } } else tookOwn th p tag v
    | none => tookOwn th p tag v) = { tookOwn th p tag v with aside := a }
  split
  · split
    · exact ⟨_, rfl⟩
    · exact ⟨_, rfl⟩
  · exact ⟨_, rfl⟩

/-- What a port of the engines shows of a result: its word, what it awaits, and for which command. -/
def portState (p : ResPort) (th : Thread) : Word × Mask × Nat := (th.rd (.res p) 0, th.awaiting p, Tab.get 0 th.owners (p.code * 32))

theorem fill_engine (th : Thread) {p : ResPort} (hp : p ∈ enginePorts) (v : Word) : th.fill (resultFill p v)
    = { (((th.wrMask (.res p) 1#32 (laneAt (lanes32 fun _ => v))).setTags (.res p) 1#32 0#32).setAwaiting p 0#32) with
        filled := Tab.set false (th.wrMask (.res p) 1#32 (laneAt (lanes32 fun _ => v))).filled p.code true } := by
  obtain ⟨hengine, hsmq, hlanes⟩ := enginePort_of_mem hp
  have hnone : ∀ m : Mask, m &&& ~~~BitVec.allOnes 32 = 0#32 := fun m => by rw [BitVec.not_allOnes, BitVec.and_zero]
  unfold Thread.fill
  simp only [resultFill, hlanes, hsmq, hengine, if_false, if_true, hnone]
  rfl

theorem awaiting_setAwaiting (th : Thread) (p : ResPort) (m : Mask) : (th.setAwaiting p m).awaiting p = m := Tab.get_set_self _ _ _ _

theorem awaiting_setAwaiting_other (th : Thread) {p p' : ResPort} (m : Mask) (h : p'.code ≠ p.code) :
    (th.setAwaiting p m).awaiting p' = th.awaiting p' := Tab.get_set_other _ _ _ h

theorem tookOwn_self {th : Thread} {p : ResPort} (hp : p ∈ enginePorts) {tag : Nat} (htag : Tab.get 0 th.owners (p.code * 32) = tag) (v : Word) :
    (tookOwn th p tag v).rd (.res p) 0 = v ∧ (tookOwn th p tag v).awaiting p = 0#32 := by
  rw [tookOwn, if_pos htag, fill_engine th hp]
  refine ⟨?_, awaiting_setAwaiting ((th.wrMask (.res p) 1#32 (laneAt (lanes32 fun _ => v))).setTags (.res p) 1#32 0#32) p 0#32⟩
  exact (Thread.rd_wrMask th (.res p) 1#32 (laneAt (lanes32 fun _ => v)) (by decide)).trans (by simp [laneAt, lanes32])

theorem tookOwn_other (th : Thread) {p p' : ResPort} (hp : p ∈ enginePorts) (hp' : p' ∈ enginePorts) (hne : p' ≠ p) (tag : Nat) (v : Word) :
    portState p' (tookOwn th p tag v) = portState p' th := by
  have hcode := engineCode_ne hp hp' hne
  unfold tookOwn
  split
  · rw [fill_engine th hp]
    obtain ⟨x, y, z, hsame⟩ := Thread.sameBut_wrMask th (.res p) 1#32 (laneAt (lanes32 fun _ => v))
    have hrd := Thread.rd_wrMask_other th 1#32 (laneAt (lanes32 fun _ => v)) 0 (show (Reg.res p').id ≠ (Reg.res p).id from fun h => hcode (by simpa [Reg.id] using h))
    refine Prod.ext hrd (Prod.ext ?_ ?_)
    · refine (awaiting_setAwaiting_other ((th.wrMask (.res p) 1#32 (laneAt (lanes32 fun _ => v))).setTags (.res p) 1#32 0#32) 0#32 hcode).trans ?_
      rw [hsame]
      rfl
    · exact Tab.get_erase_other 0 _ (by omega)
  · rfl

theorem portState_takeResult (th : Thread) (p p' : ResPort) (tag : Nat) (v : Word) : portState p' (th.takeResult p tag v) = portState p' (tookOwn th p tag v) := by
  obtain ⟨a, h⟩ := takeResult_aside th p tag v
  rw [h]
  rfl

/-- One of the ports of the engines takes a result. -/
def takePort (tag : Nat) (v : Word) (th : Thread) (p : ResPort) : Thread := th.takeResult p tag v

/-- A port is as it was when others take a result. -/
theorem foldl_takePort_other (tag : Nat) (v : Word) {p : ResPort} (hp : p ∈ enginePorts) {ps : List ResPort} (hps : ∀ q ∈ ps, q ∈ enginePorts)
    (hnot : p ∉ ps) (th : Thread) : portState p (ps.foldl (takePort tag v) th) = portState p th := by
  induction ps generalizing th with
  | nil => rfl
  | cons q ps ih =>
    obtain ⟨hpq, hnot⟩ := not_or.mp fun h => hnot (List.mem_cons.mpr h)
    rw [List.foldl_cons, ih (fun r hr => hps r (List.mem_cons_of_mem _ hr)) hnot, takePort, portState_takeResult,
      tookOwn_other th (hps q List.mem_cons_self) hp hpq]

/-- A port that awaits a command has its result, whatever the other ports take. -/
theorem foldl_takePort_self (tag : Nat) (v : Word) {p : ResPort} {ps : List ResPort} (hps : ∀ q ∈ ps, q ∈ enginePorts) (hnodup : ps.Nodup) (hp : p ∈ ps)
    (th : Thread) (htag : Tab.get 0 th.owners (p.code * 32) = tag) :
    (ps.foldl (takePort tag v) th).rd (.res p) 0 = v ∧ (ps.foldl (takePort tag v) th).awaiting p = 0#32 := by
  induction ps generalizing th with
  | nil => exact absurd hp List.not_mem_nil
  | cons q ps ih =>
    obtain ⟨hq, hnodup⟩ := List.nodup_cons.mp hnodup
    have hrest := fun r hr => hps r (List.mem_cons_of_mem _ hr)
    by_cases hpq : p = q
    · subst hpq
      have hleft := foldl_takePort_other tag v (hps p List.mem_cons_self) hrest hq (takePort tag v th p)
      rw [takePort, portState_takeResult] at hleft
      obtain ⟨hrd, hawaits⟩ := tookOwn_self (hps p List.mem_cons_self) htag v
      exact ⟨(congrArg Prod.fst hleft).trans hrd, (congrArg (fun x => x.2.1) hleft).trans hawaits⟩
    · have hport : portState p (takePort tag v th q) = portState p th := by
        rw [takePort, portState_takeResult, tookOwn_other th (hps q List.mem_cons_self) (hps p hp) hpq]
      exact ih hrest hnodup ((List.mem_cons.mp hp).resolve_left hpq) _ ((congrArg (fun x => x.2.2) hport).trans htag)

/-- A thread's ports take a command's result. -/
def resultsTaken (tag : Nat) (th : Thread) : Thread := enginePorts.foldl (takePort tag (w32 (2 * 2 ^ 24 + tag))) th

/-- A live thread's ports take a command's result, and its splits that may go on do. -/
def slotTaken (b : Block) (t : Tid) (clk tag : Nat) (th : Thread) : Thread := if th.live then (resultsTaken tag th).unpark b t clk else th

theorem slotTaken_port (b : Block) (t : Tid) (clk : Nat) {tag : Nat} {th : Thread} (hlive : th.live = true) {p : ResPort} (hp : p ∈ enginePorts)
    (htag : Tab.get 0 th.owners (p.code * 32) = tag) :
    (slotTaken b t clk tag th).rd (.res p) 0 = w32 (2 * 2 ^ 24 + tag) ∧ (slotTaken b t clk tag th).awaiting p = 0#32 := by
  rw [slotTaken, if_pos hlive]
  exact foldl_takePort_self tag _ (fun _ h => h) (by decide) hp th htag

/-- One slot of a block takes a command's result. -/
def takeSlot (core ctx tag : Nat) (s : State) (slot : Nat) : State :=
  let t : Tid := { core := core, ctx := ctx, slot := slot }
  if (s.thread t).live then (s.modThread t (resultsTaken tag)).unpark t else s

theorem takeResults_eq (s : State) (core ctx tag : Nat) : s.takeResults core ctx tag = (List.range 33).foldl (takeSlot core ctx tag) s := rfl

theorem thread_unpark (s : State) (t : Tid) (f : Thread → Thread) :
    ((s.modThread t f).unpark t).thread t = (f (s.thread t)).unpark (s.block t.core t.ctx) t s.clk := by
  rw [State.unpark, State.thread_modThread, State.thread_modThread, State.block_modThread, State.modThread_clk]

theorem takeSlot_only (s : State) (core ctx tag slot : Nat) : OnlyThreads s (takeSlot core ctx tag s slot) := by
  unfold takeSlot
  extract_lets t
  split
  · exact onlyThreads_unpark (show OnlyThreads s s from rfl)
  · exact rfl

theorem takeSlot_thread (s : State) (core ctx tag slot : Nat) (k : Tid) : (takeSlot core ctx tag s slot).thread k
    = if k.key = Tid.key { core := core, ctx := ctx, slot := slot } then
        slotTaken (s.block core ctx) { core := core, ctx := ctx, slot := slot } s.clk tag (s.thread k)
      else s.thread k := by
  generalize ht : ({ core := core, ctx := ctx, slot := slot } : Tid) = t
  have hslot : takeSlot core ctx tag s slot = if (s.thread t).live then (s.modThread t (resultsTaken tag)).unpark t else s := by rw [← ht, takeSlot]
  have hblock : s.block core ctx = s.block t.core t.ctx := by rw [← ht]
  rw [hslot, hblock, slotTaken]
  by_cases hk : k.key = t.key
  · have hself : ∀ u : State, u.thread k = u.thread t := fun u => congrArg (Tab.get Thread.empty u.threads) hk
    rw [hself, hself, if_pos hk]
    split
    · exact thread_unpark s t _
    · rfl
  · rw [if_neg hk]
    split
    · rw [State.unpark, State.thread_modThread_other _ _ hk, State.thread_modThread_other _ _ hk]
    · rfl

/-- The slots before a number have taken a command's result, and no others. -/
theorem foldl_takeSlot (s : State) (core ctx tag n : Nat) :
    let u := (List.range n).foldl (takeSlot core ctx tag) s
    u = { s with threads := u.threads } ∧ ∀ slot, u.thread { core := core, ctx := ctx, slot := slot }
      = if slot < n then slotTaken (s.block core ctx) { core := core, ctx := ctx, slot := slot } s.clk tag (s.thread { core := core, ctx := ctx, slot := slot })
        else s.thread { core := core, ctx := ctx, slot := slot } := by
  induction n with
  | zero => exact ⟨rfl, fun _ => rfl⟩
  | succ n ih =>
    obtain ⟨hframe, hthread⟩ := ih
    rw [List.range_succ, List.foldl_append, List.foldl_cons, List.foldl_nil]
    generalize (List.range n).foldl (takeSlot core ctx tag) s = v at hframe hthread
    have honly : takeSlot core ctx tag v n = { v with threads := (takeSlot core ctx tag v n).threads } := takeSlot_only v core ctx tag n
    have hblock : v.block core ctx = s.block core ctx := by
      rw [hframe]
      rfl
    have hclk : v.clk = s.clk := by rw [hframe]
    refine ⟨by rw [honly, hframe], fun slot => ?_⟩
    rw [takeSlot_thread, hthread, hblock, hclk]
    by_cases hslot : slot = n
    · subst hslot
      simp
    · have hkey : ¬(Tid.key { core := core, ctx := ctx, slot := slot } = Tid.key { core := core, ctx := ctx, slot := n }) := by
        show ¬((core * 2 + ctx) * 64 + slot = (core * 2 + ctx) * 64 + n)
        omega
      rw [if_neg hkey]
      simp only [show slot < n + 1 ↔ slot < n by omega]

theorem bits_one (w : Word) (i : Nat) : w.bits i i = if w.getLsbD i then 1 else 0 := by
  have hwidth : i + 1 - i = 1 := by omega
  rw [Word.bits, hwidth, Nat.pow_one, BitVec.getLsbD, Nat.testBit_eq_decide_div_mod_eq]
  by_cases h : w.toNat / 2 ^ i % 2 = 1
  · simp [h]
  · simp [h]
    omega

/-- The core of a record that enters its event queue. -/
def entered (w : Word) (c : Core) : Core := { c with evq := c.evq ++ [w] }

theorem enterRecord_core (s : State) (c : Nat) (w : Word) : s.enterRecord c w = { s with cores := (s.enterRecord c w).cores, threads := (s.enterRecord c w).threads }
    ∧ (∀ d, (s.enterRecord c w).core d = (s.modCore c (entered w)).core d) := by
  unfold State.enterRecord
  extract_lets v
  split
  · exact ⟨rfl, fun _ => rfl⟩
  · obtain ⟨hframe, -⟩ := foldl_takeSlot v c (w.bits 29 29) (w.bits 23 0) 33
    rw [takeResults_eq]
    generalize (List.range 33).foldl (takeSlot c (w.bits 29 29) (w.bits 23 0)) v = u at hframe
    rw [hframe]
    exact ⟨rfl, fun _ => rfl⟩

theorem enterRecord_thread {c slot : Nat} {w : Word} (hw : w.toNat / 2 ^ 30 ≠ 3) (hslot : slot < 33) :
    let t : Tid := { core := c, ctx := if w.getLsbD 29 then 1 else 0, slot := slot }
    (s.enterRecord c w).thread t = slotTaken (s.block t.core t.ctx) t s.clk (w.toNat % 2 ^ 24) (s.thread t) := by
  intro t
  have hunit : w.bits 31 30 ≠ 3 := by rwa [stages_eq]
  unfold State.enterRecord
  extract_lets v
  rw [if_neg hunit, takeResults_eq, bits_one, show w.bits 23 0 = w.toNat % 2 ^ 24 by simp [Word.bits]]
  exact ((foldl_takeSlot v c (if w.getLsbD 29 then 1 else 0) (w.toNat % 2 ^ 24) 33).2 slot).trans (if_pos hslot)

theorem heldRecordEntry_enters (c : Nat) (w : Word) (r : List Word) : brings (.heldRecordEntry c)
    (fun s => (s.core c).evq.length < 64 ∧ (s.core c).held = w :: r)
    fun s u => u = { s with cores := u.cores, threads := u.threads } ∧ (∀ d, d ≠ c → u.core d = s.core d)
      ∧ u.core c = { s.core c with evq := (s.core c).evq ++ [w], held := r }
      ∧ ∀ (slot : Nat) (p : ResPort),
          let t : Tid := { core := c, ctx := if w.getLsbD 29 then 1 else 0, slot := slot }
          w.toNat / 2 ^ 30 ≠ 3 → slot < 33 → (s.thread t).live = true → p ∈ [ResPort.mxq, .cp0q, .cp1q] → w.toNat % 2 ^ 24 ≠ 0 →
          Tab.get 0 (s.thread t).owners (p.code * 32) = w.toNat % 2 ^ 24 →
            (u.thread t).rd (.res p) 0 = BitVec.ofNat 32 (2 * 2 ^ 24 + w.toNat % 2 ^ 24) ∧ (u.thread t).awaiting p = 0#32 := by
  refine brings_of_happens (fun _ => rfl) fun s ⟨hroom, hheld⟩ => ?_
  have hnext : s.heldNext c = some w := by
    rw [State.heldNext, if_pos hroom, hheld]
    rfl
  refine ⟨by rw [State.heldMay, hnext]; rfl, ?_⟩
  simp only [hnext]
  generalize hv : (s.modCore c fun x => { x with held := x.held.tail }) = v
  obtain ⟨hframe, hcores⟩ := enterRecord_core v c w
  refine ⟨?_, fun d hd => ?_, ?_, fun slot p hw hslot hlive hp _ htag => ?_⟩
  · rw [hframe, ← hv]
    rfl
  · rw [hcores, State.core_modCore_other _ _ hd, ← hv, State.core_modCore_other _ _ hd]
  · rw [hcores, State.core_modCore, ← hv, State.core_modCore, entered, hheld]
    rfl
  · have hthread : ∀ k, v.thread k = s.thread k := by
      rw [← hv]
      exact fun _ => rfl
    have htook := enterRecord_thread (s := v) (c := c) hw hslot
    rw [htook, hthread]
    exact slotTaken_port _ _ _ hlive hp htag

/-- A core at which a record of an EVT is posted. -/
def postedAt (w : Word) (x : Core) : Core := if x.evq.length < 64 && x.held.isEmpty then entered w x else { x with held := x.held ++ [w] }

theorem postRecord_eq {w : Word} (hw : w.toNat / 2 ^ 30 = 3) (s : State) (c : Nat) : s.postRecord c w = s.modCore c (postedAt w) := by
  have hunit : w.bits 31 30 = 3 := by rwa [stages_eq]
  unfold State.postRecord State.enterRecord
  show _ = s.setCore c (postedAt w (s.core c))
  unfold postedAt
  split
  · rfl
  · rfl

theorem onlyCore_trans {c : Nat} {u v w : State} (huv : onlyCore c u v) (hvw : onlyCore c v w) : onlyCore c u w := by
  obtain ⟨hv, hvcores⟩ := huv
  obtain ⟨hw, hwcores⟩ := hvw
  exact ⟨by rw [hw, hv], fun d hd => (hwcores d hd).trans (hvcores d hd)⟩

theorem heldRecordEntry_posts (c : Nat) (e : EvtPost) : brings (.heldRecordEntry c)
    (fun s => ((s.core c).held = [] ∨ 64 ≤ (s.core c).evq.length) ∧ e.word.toNat / 2 ^ 30 = 3
      ∧ (s.core c).heldE.find? (fun e => s.releasedBefore e.tid e.seq) = some e)
    fun s u => onlyCore c s u ∧ u.core c = { s.core c with
      heldE := (s.core c).heldE.erase e, done := (s.clk, 4),
      evq := if (s.core c).evq.length < 64 then (s.core c).evq ++ [e.word] else (s.core c).evq,
      held := if (s.core c).evq.length < 64 then [] else (s.core c).held ++ [e.word] } := by
  refine brings_of_happens (fun _ => rfl) fun s ⟨hnone, hevt, hfind⟩ => ?_
  have hnext : s.heldNext c = none := by
    rw [State.heldNext]
    split
    · rw [hnone.resolve_right (by omega)]
      rfl
    · rfl
  have hready : s.evtReady c = some e := hfind
  refine ⟨by rw [State.heldMay, hready, Option.isSome_some, Bool.or_true], ?_⟩
  simp only [hnext, hready]
  obtain ⟨honly, hcore⟩ := onlyCore_modCore s c fun x => { x with heldE := x.heldE.erase e, done := (s.clk, 4) }
  generalize (s.modCore c fun x => { x with heldE := x.heldE.erase e, done := (s.clk, 4) }) = v at honly hcore
  rw [postRecord_eq hevt]
  obtain ⟨hposts, hposted⟩ := onlyCore_modCore v c (postedAt e.word)
  refine ⟨onlyCore_trans honly hposts, ?_⟩
  rw [hposted, hcore, postedAt]
  by_cases hroom : (s.core c).evq.length < 64
  · have hheld := hnone.resolve_right (by omega)
    simp [hroom, hheld, entered]
  · simp [hroom]

end Sys2Proof.Claim
end

section
/-! SUPPORT. The Rill's grants and the lease's, and the obligation of the Sluice's work. -/

open Sys2Proof.Machine

namespace Sys2Proof.Claim

variable {s u : State}

/-! ## The Rill (04 R77) -/

theorem takeRun_one {a b : Nat} (hab : a < b) (n : Nat) :
    takeRun [(a, b)] n = (if a + min n (b - a) < b then [(a + min n (b - a), b)] else [], a, min n (b - a)) := by
  unfold takeRun
  simp only [List.filter_cons, List.filter_nil, hab, decide_true, if_true]
  by_cases hn : n < b - a
  · rw [if_pos hn, if_pos (by omega), Nat.min_eq_left (by omega)]
  · rw [if_neg hn, if_neg (by omega), Nat.min_eq_right (by omega)]

/-- Rills changed in what no search by die reads. -/
theorem find_map_rills (f : Rill → Rill) (hf : ∀ r, (f r).die = r.die) (rs : List Rill) (d : Nat) :
    (rs.map f).find? (fun r => r.die == d) = (rs.find? fun r => r.die == d).map f := by
  rw [List.find?_map]
  simp only [Function.comp_def, hf]

/-- The Rill of a die with other ranges. -/
def withRanges (d : Nat) (left : List (Nat × Nat)) (r : Rill) : Rill := if r.die = d then { r with ranges := left } else r

theorem rillTake_one {core ctx a b : Nat} {r : Rill} (n : Nat) (hinherit : (s.block core ctx).inherit = []) (hab : a < b)
    (hfind : (s.launch (s.block core ctx).lid).rills.find? (fun r => r.die == dieOf core) = some { r with ranges := [(a, b)] }) :
    ∃ v, s.rillTake core ctx n = (v, a, min n (b - a)) ∧ (∀ k, v.thread k = s.thread k)
      ∧ ((v.launch (s.block core ctx).lid).rills.find? fun r => r.die == dieOf core).map (·.ranges)
        = some (if a + min n (b - a) < b then [(a + min n (b - a), b)] else []) := by
  have hdie : r.die = dieOf core := by simpa using List.find?_some hfind
  unfold State.rillTake
  simp only [hinherit, hfind, takeRun_one hab]
  generalize (if a + min n (b - a) < b then [(a + min n (b - a), b)] else []) = left
  refine ⟨_, rfl, fun k => ?_, ?_⟩
  · split <;> rfl
  · have hlaunch : ∀ v : State, v.launches = (s.setLaunch (s.block core ctx).lid
          { s.launch (s.block core ctx).lid with rills := (s.launch (s.block core ctx).lid).rills.map (withRanges r.die left) }).launches →
        ((v.launch (s.block core ctx).lid).rills.find? fun r => r.die == dieOf core).map (·.ranges) = some left := by
      intro v hv
      have hself : v.launch (s.block core ctx).lid
          = { s.launch (s.block core ctx).lid with rills := (s.launch (s.block core ctx).lid).rills.map (withRanges r.die left) } :=
        (congrArg (Tab.get Launch.empty · (s.block core ctx).lid) hv).trans (Tab.get_set_self _ _ _ _)
      rw [hself, find_map_rills _ (fun r => by unfold withRanges; split <;> rfl), hfind]
      simp [withRanges]
    split
    · exact hlaunch _ rfl
    · exact hlaunch _ rfl

/-- A Rill that has served a thread in the present cycle. -/
def servedNote (s : State) (t : Tid) (r : Rill) : Rill := if r.die = dieOf t.core then { r with served := (s.clk + 1, rillPlace t) } else r

theorem rillServed_find {t : Tid} {r : Rill} (hfind : (s.launch (s.block t.core t.ctx).lid).rills.find? (fun r => r.die == dieOf t.core) = some r) :
    ((s.rillServed t).launch (s.block t.core t.ctx).lid).rills.find? (fun r => r.die == dieOf t.core)
      = some { r with served := (s.clk + 1, rillPlace t) } := by
  have hdie : r.die = dieOf t.core := by simpa using List.find?_some hfind
  have hself : (s.rillServed t).launch (s.block t.core t.ctx).lid
      = { s.launch (s.block t.core t.ctx).lid with rills := (s.launch (s.block t.core t.ctx).lid).rills.map (servedNote s t) } :=
    Tab.get_set_self _ _ _ _
  rw [hself, find_map_rills _ (fun r => by unfold servedNote; split <;> rfl), hfind, Option.map_some, servedNote, if_pos hdie]

/-! ### Lanes that a refill fills -/

theorem sameBut_fillLanes (th : Thread) (rs : List Reg) (m : Mask) (v : Nat → Word) : th.SameBut (th.fillLanes rs m v) := by
  unfold Thread.fillLanes
  induction rs generalizing th with
  | nil => exact .refl th
  | cons r rs ih => exact (th.sameBut_wrMask r m v).trans (ih _)

theorem rd_fillLanes_other (th : Thread) (rs : List Reg) (m : Mask) (v : Nat → Word) {r : Reg} (h : ∀ x ∈ rs, r.id ≠ x.id) (l : Nat) :
    (th.fillLanes rs m v).rd r l = th.rd r l := by
  unfold Thread.fillLanes
  induction rs generalizing th with
  | nil => rfl
  | cons x rs ih =>
    exact (ih _ fun y hy => h y (List.mem_cons_of_mem _ hy)).trans (Thread.rd_wrMask_other th m v l (h x List.mem_cons_self))

/-- A lane filled with one word reads it in every register that is filled. -/
theorem rd_fillLanes (th : Thread) {rs : List Reg} {m : Mask} (v : Word) {r : Reg} {l : Nat} (hl : l < 32) (hm : m.getLsbD l = true)
    (h : r ∈ rs ∨ th.rd r l = v) : (th.fillLanes rs m fun _ => v).rd r l = v := by
  unfold Thread.fillLanes
  induction rs generalizing th with
  | nil => exact h.resolve_left List.not_mem_nil
  | cons x rs ih =>
    have hwrote : (th.wrMask x m fun _ => v).rd x l = v := by rw [Thread.rd_wrMask th x m _ hl, if_pos hm]
    refine ih _ ?_
    by_cases hid : r.id = x.id
    · exact .inr ((congrArg (fun k => Tab.get 0#32 (th.wrMask x m fun _ => v).regs (k * 32 + l % 32)) hid).trans hwrote)
    · refine h.imp (fun hr => (List.mem_cons.mp hr).resolve_left fun hrx => hid (by rw [hrx])) fun hrd => ?_
      rw [Thread.rd_wrMask_other th m _ l hid, hrd]

/-- The registers that a lane's reset clears. -/
def clearedRegs : List Reg := [.cc 0, .cc 1, .cc 2, .cc 3, .age 0, .age 1, .age 2]

/-- A thread whose vacant lanes have taken invocations. -/
def lanesFilled (a : Nat) (got : List Nat) (m : Mask) (th : Thread) : Thread :=
  let th := (th.wrMask (.res .rlq) m fun l => w32 (a + got.idxOf l)).setTags (.res .rlq) m 0#32
  let th := th.setAwaiting .rlq (th.awaiting .rlq &&& ~~~m)
  let th := th.fillLanes clearedRegs m fun _ => 0#32
  { th with occupied := th.occupied ||| m }

/-- A split of a thread goes on with a refill's lanes beside its own. -/
def refilled (i : Nat) (m : Mask) (th : Thread) : Thread :=
  (th.modSplit i fun sp => { sp with mask := (th.split i).mask ||| m, rill := false }).wrMask (.res .cq) ((th.split i).mask ||| m)
    fun _ => (th.split i).mask ||| m

theorem lanesFilled_frame (th : Thread) (a : Nat) (got : List Nat) (m : Mask) :
    (lanesFilled a got m th).occupied = th.occupied ||| m ∧ (lanesFilled a got m th).splits = th.splits := by
  unfold lanesFilled
  extract_lets th1 th2 th3
  have h1 : th.SameBut th1 := (Thread.sameBut_wrMask ..).trans (Thread.sameBut_setTags ..)
  obtain ⟨x1, y1, z1, h1⟩ := h1
  obtain ⟨x3, y3, z3, h3⟩ : th2.SameBut th3 := sameBut_fillLanes ..
  rw [h3]
  unfold th2
  rw [h1]
  exact ⟨rfl, rfl⟩

theorem lanesFilled_rlq (th : Thread) (a : Nat) (got : List Nat) (m : Mask) {l : Nat} (hl : l < 32) (hm : m.getLsbD l = true) :
    (lanesFilled a got m th).rd (.res .rlq) l = w32 (a + got.idxOf l) := by
  unfold lanesFilled
  extract_lets th1 th2 th3
  have h3 : th3.rd (.res .rlq) l = th2.rd (.res .rlq) l := rd_fillLanes_other th2 clearedRegs m _ (by decide) l
  exact h3.trans ((Thread.rd_wrMask th (.res .rlq) m _ hl).trans (if_pos hm))

theorem lanesFilled_cc (th : Thread) (a : Nat) (got : List Nat) (m : Mask) {l j : Nat} (hl : l < 32) (hm : m.getLsbD l = true) (hj : j < 4) :
    (lanesFilled a got m th).rd (.cc j) l = 0#32 := by
  unfold lanesFilled
  extract_lets th1 th2 th3
  have hmem : Reg.cc j ∈ clearedRegs := (by decide : ∀ j, j < 4 → Reg.cc j ∈ clearedRegs) j hj
  exact rd_fillLanes th2 0#32 hl hm (.inl hmem)

theorem refilled_frame (th : Thread) {i : Nat} (hi : i < th.splits.length) (m : Mask) :
    (refilled i m th).occupied = th.occupied
      ∧ (refilled i m th).split i = { th.split i with mask := (th.split i).mask ||| m, rill := false } := by
  unfold refilled
  generalize (th.split i).mask ||| m = whole
  obtain ⟨x, y, z, h⟩ := Thread.sameBut_wrMask (th.modSplit i fun sp => { sp with mask := whole, rill := false }) (.res .cq) whole fun _ => whole
  rw [h]
  exact ⟨rfl, split_modSplit_same th (fun sp => { sp with mask := whole, rill := false }) hi⟩

theorem refilled_cq (th : Thread) (i : Nat) (m : Mask) {l : Nat} (hl : l < 32) (hm : ((th.split i).mask ||| m).getLsbD l = true) :
    (refilled i m th).rd (.res .cq) l = (th.split i).mask ||| m :=
  (Thread.rd_wrMask _ (.res .cq) _ _ hl).trans (if_pos hm)

theorem refilled_other (th : Thread) (i : Nat) (m : Mask) {r : Reg} (hr : r.id ≠ (Reg.res .cq).id) (l : Nat) :
    (refilled i m th).rd r l = th.rd r l := Thread.rd_wrMask_other _ _ _ l hr

theorem rillGrant_exec {t : Tid} {i a n : Nat} {v : State} (hmay : s.rillMay t = true) (hsplit : (s.thread t).rillSplit = some i)
    (htake : (s.rillServed t).rillTake t.core t.ctx (lanesIn (~~~(s.thread t).occupied)).length = (v, a, n)) :
    let got := (lanesIn (~~~(s.thread t).occupied)).take n
    exec (.rillGrant t) s = .next (v.modThread t fun th => refilled i (maskWhere got.contains) (lanesFilled a got (maskWhere got.contains) th)) := by
  intro got
  show execRillGrant t s = _
  unfold execRillGrant
  rw [happens_of _ hmay]
  simp only [hsplit]
  have hserved : lanesOf (~~~((s.rillServed t).thread t).occupied) = lanesIn (~~~(s.thread t).occupied) := rfl
  simp only [hserved, htake]
  rfl

theorem rillGrant_brings (c x : Nat) (t : Tid) (i a b : Nat) (r : Rill) (hc : t.core = c) (hx : t.ctx = x) : brings (.rillGrant t)
    (fun s => s.rillMay t = true ∧ i < (s.thread t).splits.length
      ∧ (List.range 4).find? (fun j => ((s.thread t).split j).live && ((s.thread t).split j).rill) = some i
      ∧ (s.block c x).inherit = [] ∧ a < b
      ∧ (s.launch (s.block c x).lid).rills.find? (fun r => r.die == dieOf c) = some { r with ranges := [(a, b)] })
    fun s u =>
      let vacant := lanesIn (~~~(s.thread t).occupied)
      let n := min vacant.length (b - a)
      let got := vacant.take n
      let m := maskWhere got.contains
      (∀ k : Tid, k.key ≠ t.key → u.thread k = s.thread k)
        ∧ (u.thread t).occupied = (s.thread t).occupied ||| m ∧ ((u.thread t).split i).mask = ((s.thread t).split i).mask ||| m
        ∧ ((u.thread t).split i).rill = false
        ∧ (∀ j l, got[j]? = some l → (u.thread t).rd (.res .rlq) l = BitVec.ofNat 32 (a + j))
        ∧ (∀ l, l < 32 → ((u.thread t).split i).mask.getLsbD l = true → (u.thread t).rd (.res .cq) l = ((u.thread t).split i).mask)
        ∧ (∀ l ∈ got, ∀ j, j < 4 → (u.thread t).rd (.cc j) l = 0#32)
        ∧ ((u.launch (s.block c x).lid).rills.find? fun r => r.die == dieOf c).map (·.ranges)
            = some (if a + n < b then [(a + n, b)] else []) := by
  subst hc hx
  intro s ⟨hmay, hi, hsplit, hinherit, hab, hfind⟩
  have hserved := rillServed_find hfind
  obtain ⟨v, htake, hthreads, hranges⟩ := rillTake_one (s := s.rillServed t) (r := { r with served := (s.clk + 1, rillPlace t) })
    (lanesIn (~~~(s.thread t).occupied)).length hinherit hab hserved
  refine ⟨_, rillGrant_exec hmay hsplit htake, ?_⟩
  dsimp -zeta -zetaUnused only
  intro vacant n got m
  have hthread : ∀ k, v.thread k = s.thread k := hthreads
  obtain ⟨hoccupied, hsplits⟩ := lanesFilled_frame (s.thread t) a got m
  have hsame : (lanesFilled a got m (s.thread t)).split i = (s.thread t).split i := by rw [Thread.split, hsplits, Thread.split]
  obtain ⟨hoccupied', hsplit'⟩ := refilled_frame (lanesFilled a got m (s.thread t)) (by rwa [hsplits]) m
  have hgot : ∀ l ∈ got, l < 32 ∧ m.getLsbD l = true := by
    intro l hl
    have hlane := (mem_lanesIn.mp (List.mem_of_mem_take hl)).1
    exact ⟨hlane, by rw [getLsbD_maskWhere, decide_eq_true hlane, List.contains_iff_mem.mpr hl]; rfl⟩
  have hnodup : got.Nodup := (List.nodup_range.filter _).sublist (List.take_sublist _ _)
  have hu : (v.modThread t fun th => refilled i m (lanesFilled a got m th)).thread t = refilled i m (lanesFilled a got m (s.thread t)) := by
    rw [State.thread_modThread, hthread]
  show (∀ k : Tid, k.key ≠ t.key → (v.modThread t fun th => refilled i m (lanesFilled a got m th)).thread k = s.thread k) ∧ _
  refine ⟨fun k hk => (State.thread_modThread_other _ _ hk).trans (hthread k), ?_⟩
  rw [hu, hsplit', hsame, hoccupied', hoccupied]
  refine ⟨rfl, rfl, rfl, fun j l hj => ?_, fun l hl hm => ?_, fun l hl j hj => ?_, hranges⟩
  · obtain ⟨hjlt, hjl⟩ := List.getElem?_eq_some_iff.mp hj
    obtain ⟨hl, hm⟩ := hgot l (hjl ▸ List.getElem_mem hjlt)
    rw [refilled_other _ _ _ (by decide), lanesFilled_rlq _ _ _ _ hl hm, ← hjl, hnodup.idxOf_getElem]
    rfl
  · have hcq := refilled_cq (lanesFilled a got m (s.thread t)) i m hl (by rwa [hsame])
    rwa [hsame] at hcq
  · obtain ⟨hl, hm⟩ := hgot l hl
    have hid : (Reg.cc j).id ≠ (Reg.res .cq).id := show 128 + j % 4 ≠ 313 by omega
    rw [refilled_other _ _ _ hid, lanesFilled_cc _ _ _ _ hl hm hj]

/-! ## The lease (10 R194, 15 R286) -/

theorem passTo_frame (q : Quad) (fn : Nat) : (q.passTo fn).leaseHolder = q.leaseHolder ∧ (q.passTo fn).leaseLeft = q.leaseLeft
    ∧ (q.passTo fn).leaseReqs = q.leaseReqs ∧ (q.passTo fn).lastFn = some fn
    ∧ (q.lastFn ≠ some fn → (q.passTo fn).latched = false
      ∧ ∀ p ∈ [(q.passTo fn).active, (q.passTo fn).shadow, (q.passTo fn).planeA, (q.passTo fn).planeB, (q.passTo fn).latchA, (q.passTo fn).latchB],
          p = Plane.empty) := by
  unfold Quad.passTo
  split
  · next hsame => exact ⟨rfl, rfl, rfl, hsame, fun h => absurd hsame h⟩
  · exact ⟨rfl, rfl, rfl, rfl, fun _ => ⟨rfl, by simp⟩⟩

theorem leaseGrant_brings (q : Nat) (r : LeaseReq) (rest : List LeaseReq) : brings (.leaseGrant q)
    (fun s => (s.quad q).leaseHolder = none ∧ (s.quad q).leaseFree ≤ s.clk ∧ (s.quad q).leaseReqs = r :: rest
      ∧ (s.block r.core r.ctx).leaseWait = none)
    fun s u => u = { s with quads := u.quads, threads := u.threads } ∧ (∀ d, d ≠ q → u.quad d = s.quad d)
      ∧ (∀ t : Tid, t.key ≠ (sluiceOf r.core r.ctx).key → u.thread t = s.thread t)
      ∧ (u.quad q).leaseHolder = some (r.core, r.ctx) ∧ (u.quad q).leaseLeft = r.count ∧ (u.quad q).leaseReqs = rest
      ∧ (u.quad q).lastFn = some (s.block r.core r.ctx).fn
      ∧ ((s.quad q).lastFn ≠ some (s.block r.core r.ctx).fn → (u.quad q).latched = false
        ∧ ∀ p ∈ [(u.quad q).active, (u.quad q).shadow, (u.quad q).planeA, (u.quad q).planeB, (u.quad q).latchA, (u.quad q).latchB],
            p = Plane.empty)
      ∧ ∀ sp ∈ (u.thread (sluiceOf r.core r.ctx)).splits, sp.lease = false := by
  refine brings_of_happens (fun _ => rfl) fun s ⟨hfree, hsince, hreqs, hwait⟩ => ?_
  refine ⟨by simp [State.leaseDue, hfree, hsince, hreqs], ?_⟩
  simp only [hreqs, hwait, Option.isSome_none, Bool.false_eq_true, if_false]
  have hquad := (onlyQuad_modQuad s q fun x =>
    ({ x with leaseReqs := rest, leaseHolder := some (r.core, r.ctx), leaseLeft := r.count }).passTo (s.block r.core r.ctx).fn).2
  obtain ⟨hholder, hleft, hrest, hfn, hplanes⟩ := passTo_frame
    { s.quad q with leaseReqs := rest, leaseHolder := some (r.core, r.ctx), leaseLeft := r.count } (s.block r.core r.ctx).fn
  rw [State.quad_modThread, hquad]
  refine ⟨rfl, fun d hd => Tab.get_set_other _ _ _ hd, fun t ht => State.thread_modThread_other _ _ ht, hholder, hleft, hrest, hfn, hplanes, ?_⟩
  rw [State.thread_modThread]
  intro sp hsp
  obtain ⟨sp₀, -, rfl⟩ := List.mem_map.mp hsp
  rfl

end Sys2Proof.Claim

open Sys2Proof Sys2Proof.Claim

/-- Settles O50, event by event: semaphores by the fold over a task's waits, results by the fold over a block's slots, the Rill's lanes by
what each write of a refill leaves. -/
theorem sluiceWorkGoesOn : Obligations.SluiceWorkGoesOn := by
  unfold Obligations.SluiceWorkGoesOn
  exact fun c x => ⟨sequencerPick_brings c x, taskOverrun_brings c x, heldRecordEntry_enters c, heldRecordEntry_posts c,
    fun t i a b r hc hx => rillGrant_brings c x t i a b r hc hx, leaseGrant_brings⟩

end

section
/-! SUPPORT. Waits that end, and the watchdog. -/

open Sys2Proof.Machine

namespace Sys2Proof.Claim

variable {s u v : State} {t : Tid}

/-! ## Waits that end with an acquire (06 R115, R130) -/

/-- A state in which a split goes on. -/
def splitResumed (s : State) (t : Tid) (i : Nat) : State := s.modThread t fun th => th.modSplit i fun sp => sp.resumed s.clk

theorem splitResumed_thread (s : State) (t : Tid) (i : Nat) : (splitResumed s t i).thread t = (s.thread t).modSplit i fun sp => sp.resumed s.clk :=
  State.thread_modThread s t _

theorem splitResumed_goesOn {i : Nat} (hi : i < (s.thread t).splits.length) : goesOnFrom s t i (splitResumed s t i) := by
  unfold goesOnFrom
  rw [splitResumed_thread]
  exact split_modSplit_same _ _ hi

theorem splitResumed_only (s : State) (t : Tid) (i : Nat) : onlyThreadAndL1 t s (splitResumed s t i) := onlyThreadAndL1_modThread s t _

/-- An acquire finds as much held before a split goes on as after. -/
theorem splitResumed_atOnce (s : State) (t : Tid) (i scope : Nat) : acquiresAtOnce (splitResumed s t i) t scope ↔ acquiresAtOnce s t scope := by
  have hthread := splitResumed_thread s t i
  have hacqs : ((splitResumed s t i).thread t).acqs = (s.thread t).acqs := by
    rw [hthread]
    rfl
  have hseq : ((splitResumed s t i).thread t).seq = (s.thread t).seq := by
    rw [hthread]
    rfl
  have hreads : ∀ seq, ((splitResumed s t i).thread t).readsFixed seq = (s.thread t).readsFixed seq := by
    rw [hthread]
    exact fun _ => rfl
  unfold acquiresAtOnce
  rw [hacqs, hseq]
  unfold State.acquireReady State.readsFixed
  rw [hreads]
  rfl

theorem split_congr {a b : Thread} (h : a.splits = b.splits) (i : Nat) : a.split i = b.split i := by rw [Thread.split, h, Thread.split]

theorem goesOnFrom_congr {i : Nat} (h : goesOnFrom s t i v) (hsplits : (u.thread t).splits = (v.thread t).splits) : goesOnFrom s t i u :=
  (split_congr hsplits i).trans h

theorem acquireFrom_keeps (s : State) (t : Tid) (seq scope : Nat) : ((s.acquireFrom t seq scope).thread t).splits = (s.thread t).splits
    ∧ ((s.acquireFrom t seq scope).thread t).acqs = (s.thread t).acqs := by
  obtain ⟨-, -, seen, rel, hthread⟩ := acquireFrom_frame s t seq scope
  rw [hthread]
  exact ⟨rfl, rfl⟩

/-- An acquire that is added to a thread leaves its splits. -/
theorem acquireAdded_thread (s : State) (t : Tid) (scope : Nat) (stalls : Bool) : ((acquireAdded s t scope stalls).thread t).splits = (s.thread t).splits
    ∧ ((acquireAdded s t scope stalls).thread t).acqs = (s.thread t).acqs ++ [nextAcquire s t scope stalls] := by
  rw [acquireAdded, State.thread_modThread]
  exact ⟨rfl, rfl⟩

theorem splitResumed_keeps (s : State) (t : Tid) (i : Nat) : ((splitResumed s t i).thread t).acqs = (s.thread t).acqs
    ∧ ((splitResumed s t i).thread t).seq = (s.thread t).seq ∧ ((splitResumed s t i).thread t).splits.length = (s.thread t).splits.length := by
  rw [splitResumed_thread]
  exact ⟨rfl, rfl, List.length_set⟩

/-- A wait that ends with its acquire. -/
theorem endsAcquiring_startAcquire {i : Nat} (hi : i < (s.thread t).splits.length) (scope : Nat) :
    onlyThreadAndL1 t s ((splitResumed s t i).startAcquire t i scope false)
      ∧ endsAcquiring s t i scope ((splitResumed s t i).startAcquire t i scope false) := by
  have honce := splitResumed_atOnce s t i scope
  have hgoes := splitResumed_goesOn hi
  obtain ⟨hacqs, hseq, hlen⟩ := splitResumed_keeps s t i
  by_cases h : acquiresAtOnce s t scope
  · rw [startAcquire_atOnce (honce.mpr h)]
    obtain ⟨honly, hmade, -⟩ := acquireFrom_frame (splitResumed s t i) t ((splitResumed s t i).thread t).seq scope
    obtain ⟨hsplits, hkept⟩ := acquireFrom_keeps (splitResumed s t i) t ((splitResumed s t i).thread t).seq scope
    exact ⟨onlyThreadAndL1_trans (splitResumed_only s t i) honly,
      fun _ => ⟨goesOnFrom_congr hgoes hsplits, hmade, hkept.trans (hacqs.trans h.1)⟩, fun hnot => absurd h hnot⟩
  · have hnot := fun hyes => h (honce.mp hyes)
    have honly : onlyThreadAndL1 t s (acquireAdded (splitResumed s t i) t scope (decide (3 ≤ scope))) :=
      onlyThreadAndL1_trans (splitResumed_only s t i) (acquireAdded_only ..)
    obtain ⟨hsplits, hadded⟩ := acquireAdded_thread (splitResumed s t i) t scope (decide (3 ≤ scope))
    have hheld : acquireHeld s t scope (decide (3 ≤ scope)) (acquireAdded (splitResumed s t i) t scope (decide (3 ≤ scope))) := by
      unfold acquireHeld
      rw [hadded, hacqs, nextAcquire, hseq]
      rfl
    by_cases hscope : scope ≤ 2
    · rw [startAcquire_added hnot i hscope]
      exact ⟨honly, fun hyes => absurd hyes h, fun _ => ⟨hheld, fun _ => goesOnFrom_congr hgoes hsplits, fun hlow => absurd hlow (by omega)⟩⟩
    · rw [startAcquire_stalled hnot i (by omega)]
      refine ⟨onlyThreadAndL1_trans honly (onlyThreadAndL1_modThread ..), fun hyes => absurd hyes h, fun _ => ⟨?_, fun hlow => absurd hlow hscope, fun _ => ?_⟩⟩
      · unfold acquireHeld at hheld ⊢
        rw [State.thread_modThread]
        exact hheld
      · rw [State.thread_modThread, split_modSplit_same _ _ (by rw [hsplits, hlen]; exact hi), split_congr hsplits i, hgoes, hseq]

/-! ## What ends a wait -/

theorem bits_scope (w : Word) : w.bits 3 0 = w.toNat % 16 := by simp [Word.bits]

theorem barrierRestart_exec {i : Nat} (hover : s.waitOver t i = true) : exec (.barrierRestart t i) s = .next (match ((s.thread t).split i).wait.kind with
    | 4 => (splitResumed s t i).startAcquire t i (s.scopeOfObject t (((s.thread t).split i).wait.w1 &&& ~~~15#32)) false
    | 3 => (splitResumed s t i).startAcquire t i (((s.thread t).split i).wait.w0.toNat % 16) false
    | _ => (splitResumed s t i).joinAcquire t 2) := by
  show execBarrierRestart t i s = _
  unfold execBarrierRestart
  rw [happens_of _ hover]
  simp only [bits_scope]
  rfl

/-- An acquire that never makes its split wait is one of block scope. -/
theorem joinAcquire_eq (s : State) (t : Tid) (i : Nat) : s.joinAcquire t 2 = s.startAcquire t i 2 false := by
  unfold State.joinAcquire
  by_cases h : acquiresAtOnce s t 2
  · rw [startAcquire_atOnce h, makeAcquire_atOnce h]
  · rw [startAcquire_added h i (Nat.le_refl 2), makeAcquire_pends h]
    rfl

theorem barrierRestart_barrier (t : Tid) (i : Nat) : brings (.barrierRestart t i)
    (fun s => i < (s.thread t).splits.length ∧ s.waitOver t i = true
      ∧ (((s.thread t).split i).wait.kind = 1 ∨ ((s.thread t).split i).wait.kind = 2))
    fun s u => onlyThreadAndL1 t s u ∧ endsAcquiring s t i 2 u := by
  intro s ⟨hi, hover, hkind⟩
  refine ⟨_, barrierRestart_exec hover, ?_⟩
  rcases hkind with hkind | hkind
  · simp only [hkind]
    rw [joinAcquire_eq _ t i]
    exact endsAcquiring_startAcquire hi 2
  · simp only [hkind]
    rw [joinAcquire_eq _ t i]
    exact endsAcquiring_startAcquire hi 2

theorem barrierRestart_sync (t : Tid) (i : Nat) : brings (.barrierRestart t i)
    (fun s => i < (s.thread t).splits.length ∧ s.waitOver t i = true ∧ ((s.thread t).split i).wait.kind = 3)
    fun s u => onlyThreadAndL1 t s u ∧ endsAcquiring s t i (((s.thread t).split i).wait.w0.toNat % 16) u := by
  intro s ⟨hi, hover, hkind⟩
  refine ⟨_, barrierRestart_exec hover, ?_⟩
  simp only [hkind]
  exact endsAcquiring_startAcquire hi _

theorem barrierRestart_object (t : Tid) (i : Nat) : brings (.barrierRestart t i)
    (fun s => i < (s.thread t).splits.length ∧ s.waitOver t i = true ∧ ((s.thread t).split i).wait.kind = 4)
    fun s u => onlyThreadAndL1 t s u ∧ endsAcquiring s t i (s.scopeOfObject t (((s.thread t).split i).wait.w1 &&& ~~~15#32)) u := by
  intro s ⟨hi, hover, hkind⟩
  refine ⟨_, barrierRestart_exec hover, ?_⟩
  simp only [hkind]
  exact endsAcquiring_startAcquire hi _

theorem fenceDone_brings (t : Tid) (i : Nat) (a : Acquire) : brings (.fenceDone t i)
    (fun s => i < (s.thread t).splits.length ∧ s.fenceOver t i = true
      ∧ (s.thread t).acqs.find? (fun a => a.stalls && a.seq == ((s.thread t).split i).wait.due) = some a)
    fun s u => onlyThreadAndL1 t s u ∧ goesOnFrom s t i u ∧ acquireMade s t a.scope u
      ∧ (u.thread t).acqs = (s.thread t).acqs.erase a := by
  refine brings_of_happens (fun _ => rfl) fun s ⟨hi, hover, hfind⟩ => ⟨hover, ?_⟩
  have hacquire : (s.thread t).acquireOf ((s.thread t).split i) = some a := hfind
  simp only [hacquire]
  obtain ⟨honly, ⟨hseen, hl1⟩, -⟩ := acquireFrom_frame s t a.seq a.scope
  obtain ⟨hsplits, hacqs⟩ := acquireFrom_keeps s t a.seq a.scope
  have hended : (s.endAcquire t a).thread t = { (s.acquireFrom t a.seq a.scope).thread t with acqs := ((s.acquireFrom t a.seq a.scope).thread t).acqs.erase a } :=
    State.thread_modThread _ t _
  have hendedSplits : ((s.endAcquire t a).thread t).splits = (s.thread t).splits := by
    rw [hended]
    exact hsplits
  refine ⟨onlyThreadAndL1_trans honly (onlyThreadAndL1_trans (onlyThreadAndL1_modThread ..) (onlyThreadAndL1_modThread ..)), ?_, ⟨fun hscope e he hlocal => ?_, ?_⟩, ?_⟩
  · unfold goesOnFrom
    rw [State.thread_modThread, split_modSplit_same _ _ (by rw [hendedSplits]; exact hi), split_congr hendedSplits i]
    rfl
  · rw [State.thread_modThread]
    show e.1 ∈ ((s.endAcquire t a).thread t).seen
    rw [hended]
    exact hseen hscope e he hlocal
  · exact hl1
  · rw [State.thread_modThread]
    show ((s.endAcquire t a).thread t).acqs = _
    rw [hended, hacqs]

theorem watchdogExpiry_pends (t : Tid) (i : Nat) : brings (.watchdogExpiry t i) (fun s => s.watchdogOver t i = true ∧ (s.thread t).level = false)
    fun s u => onlyThread t s u ∧ (u.thread t).pending = (s.thread t).pending ++ [{ cause := 0x11, tval := 0#32, telem := 0 }] := by
  refine brings_of_happens (fun _ => rfl) fun s ⟨hover, hlevel⟩ => ⟨hover, ?_⟩
  have hnone : ∀ p ∈ (s.thread t).pending, (p.cause != 0x11) = true := by
    have hover := hover
    unfold State.watchdogOver at hover
    simp only [Bool.and_eq_true] at hover
    exact List.all_eq_true.mp hover.1.2
  simp only [hlevel, Bool.false_eq_true, if_false]
  refine ⟨onlyThread_modThread s t _, ?_⟩
  rw [State.thread_modThread]
  show (s.thread t).pending.filter (fun q => q.cause != 0x11) ++ _ = _
  rw [List.filter_eq_self.mpr hnone]

theorem watchdogExpiry_ends (t : Tid) (i : Nat) : occurs (.watchdogExpiry t i) (fun s => s.watchdogOver t i = true ∧ (s.thread t).level = true)
    fun s => s.endWorkGroup t.core t.ctx := by
  intro s ⟨hover, hlevel⟩
  show execWatchdogExpiry t i s = _
  unfold execWatchdogExpiry
  rw [happens_of _ hover]
  simp only [hlevel, if_true]

end Sys2Proof.Claim
end

section
/-! SUPPORT. Operations on barrier objects, and the obligation of waits. -/

open Sys2Proof.Machine

namespace Sys2Proof.Claim

variable {s u v : State}

/-! ## A core whose oldest operation is under way -/

/-- A core without an operation that waits. -/
def withoutOp (o : ObjOp) (x : Core) : Core := { x with objq := x.objq.erase o }

/-- A state in which an operation waits no longer. -/
def taken (s : State) (c : Nat) (o : ObjOp) : State := s.modCore c (withoutOp o)

theorem taken_core (s : State) (c : Nat) (o : ObjOp) : (taken s c o).core c = withoutOp o (s.core c) := State.core_modCore s c _

theorem taken_core_cases (s : State) (c d : Nat) (o : ObjOp) : (taken s c o).core d = s.core d ∨ (taken s c o).core d = withoutOp o (s.core d) := by
  by_cases hd : d = c
  · subst hd
    exact .inr (taken_core s d o)
  · exact .inl (State.core_modCore_other s _ hd)

/-- What an operation leaves of a core it leaves of every core. -/
theorem taken_keeps {α : Type} (f : Core → α) (hf : ∀ x o, f (withoutOp o x) = f x) (s : State) (c d : Nat) (o : ObjOp) :
    f ((taken s c o).core d) = f (s.core d) := by
  rcases taken_core_cases s c d o with h | h
  · rw [h]
  · rw [h, hf]

theorem taken_scratchByte (s : State) (c : Nat) (o : ObjOp) (d a : Nat) : (taken s c o).scratchByte d a = s.scratchByte d a :=
  congrArg (memGet · a) (taken_keeps Core.scratch (fun _ _ => rfl) s c d o)

theorem taken_objectWords (s : State) (c : Nat) (o : ObjOp) (d a : Nat) : (taken s c o).objectWords d a = s.objectWords d a := by
  simp only [State.objectWords, State.scratchBytes, taken_scratchByte]

theorem taken_onlyObject (s : State) (c : Nat) (o : ObjOp) : onlyObject c o s (taken s c o) :=
  ⟨rfl, fun _ hd => State.core_modCore_other s _ hd, congrArg Core.objq (taken_core s c o), fun _ _ => rfl⟩

theorem onlyObject_scratchWrite {c : Nat} {o : ObjOp} (h : onlyObject c o s v) (cells : List Host.Cell) : onlyObject c o s (v.scratchWrite c cells) := by
  obtain ⟨hframe, hcores, hobjq, hthreads⟩ := h
  refine ⟨?_, fun d hd => (State.core_modCore_other v _ hd).trans (hcores d hd), ?_, hthreads⟩
  · rw [hframe]
    rfl
  · rw [State.scratchWrite, State.core_modCore]
    exact hobjq

theorem onlyObject_modThread {c : Nat} {o : ObjOp} (h : onlyObject c o s v) (f : Thread → Thread) : onlyObject c o s (v.modThread o.tid f) := by
  obtain ⟨hframe, hcores, hobjq, hthreads⟩ := h
  refine ⟨?_, hcores, hobjq, fun k hk => (State.thread_modThread_other v f hk).trans (hthreads k hk)⟩
  rw [hframe]
  rfl

/-! ## An object's words -/

theorem list_eq_map_range {α : Type} (l : List α) (d : α) : l = (List.range l.length).map fun i => l.getD i d := by
  refine List.ext_getElem (by simp) fun i h1 _ => ?_
  rw [List.getElem_map, List.getElem_range, ← List.getElem_eq_getD (h := h1)]

/-- A scratchpad reads back the bytes that have been written there. -/
theorem scratchBytes_written (v : State) (c a : Nat) (bs : List Byte) : (v.scratchWrite c (cellsAt a bs)).scratchBytes c a bs.length = bs := by
  have hcells : cellsAt a bs = (List.range bs.length).map fun i => (a + i, bs.getD i 0#8) :=
    (congrArg (cellsAt a) (list_eq_map_range bs 0#8)).trans (cellsAt_map_range _ _ _)
  have hbyte : ∀ i, i < bs.length → (v.scratchWrite c (cellsAt a bs)).scratchByte c (a + i) = bs.getD i 0#8 := by
    intro i hi
    rw [State.scratchByte, State.scratchWrite, State.core_modCore, hcells]
    exact memGet_memWrite_inside _ a _ hi
  refine (List.map_congr_left fun i hi => hbyte i (List.mem_range.mp hi)).trans (list_eq_map_range bs 0#8).symm

theorem objectIs_writeObject (v : State) (c a : Nat) (phase : Bool) (pend : Nat) (bytes : Int) (count gen : Nat) :
    objectIs (v.writeObject c a phase pend bytes count gen) c a phase pend bytes count gen := by
  have hwritten := scratchBytes_written v c a (([w32 (phase.toNat * 2 ^ 31 + pend), w32i bytes, w32 count, w32 gen] : List Word).flatMap bytesOf)
  refine Eq.trans ?_ (hwritten.trans (congrArg List.flatten (List.map_congr_left fun w _ => bytesOf_eq_extract w)))
  rfl

theorem bits_half (w : Word) : w.bits 15 0 = w.toNat % 65536 := by simp [Word.bits]

/-- A word of an operation's object. -/
def objWord (s : State) (c : Nat) (o : ObjOp) (i : Nat) : Nat := ((s.objectWords c o.addr).getD i 0#32).toNat

/-- An object's phase, arrivals to come, bytes to come, arrivals for each phase, and generation. -/
def objPhase (s : State) (c : Nat) (o : ObjOp) : Bool := decide (2 ^ 31 ≤ objWord s c o 0)
def objPend (s : State) (c : Nat) (o : ObjOp) : Nat := objWord s c o 0 % 65536
def objBytes (s : State) (c : Nat) (o : ObjOp) : Int := ((s.objectWords c o.addr).getD 1 0#32).toInt
def objCount (s : State) (c : Nat) (o : ObjOp) : Nat := objWord s c o 2 % 65536
def objGen (s : State) (c : Nat) (o : ObjOp) : Nat := objWord s c o 3

/-- The object of a state as it stands in another, with fewer arrivals and bytes to come: its phase turns where none is left. -/
def objectAfter (s : State) (c : Nat) (o : ObjOp) (v : State) (pend : Nat) (bytes : Int) : State :=
  if pend = 0 && bytes = 0 then v.writeObject c o.addr (!objPhase s c o) (objCount s c o) 0 (objCount s c o) (objGen s c o + 1)
  else v.writeObject c o.addr (objPhase s c o) pend bytes (objCount s c o) (objGen s c o)

/-- The thread that asked is told. -/
def askerTold (o : ObjOp) (v : State) (w : Word) : State := v.modThread o.tid fun th => if th.live then th.sendY v.clk o w else th

/-- The thread that asked has the refusal's trap pending. -/
def askerRefused (o : ObjOp) (v : State) : State :=
  v.modThread o.tid fun th => if th.live then th.pend { cause := 2, tval := o.v, telem := 0 } else th

theorem barrierObjectRmw_exec {c : Nat} {o : ObjOp} (hnext : s.nextObject c = some o) : exec (.barrierObjectRmw c) s = .next (match o.kind with
    | 0 => (taken s c o).writeObject c o.addr false o.v.toNat 0 o.v.toNat 0
    | 1 => if 2 ^ 31 - 1 < objBytes s c o + o.v.toNat then askerRefused o (taken s c o)
      else objectAfter s c o (taken s c o) (objPend s c o) (objBytes s c o + o.v.toNat)
    | 2 => if objPend s c o < o.v.toNat then askerRefused o (askerTold o (taken s c o) (w32 (2 ^ 31 + (objPhase s c o).toNat)))
      else askerTold o (objectAfter s c o (taken s c o) (objPend s c o - o.v.toNat) (objBytes s c o)) (w32 (objPhase s c o).toNat)
    | 3 => objectAfter s c o (taken s c o) (objPend s c o) (objBytes s c o - o.v.toNat)
    | _ => if objPhase s c o != o.v.getLsbD 0 then askerTold o ((taken s c o).joinAcquire o.tid (s.scopeOfOp o c)) 1#32
      else askerTold o (taken s c o) 0#32) := by
  have hexec : exec (.barrierObjectRmw c) s = .next ((taken s c o).objectOp c o) := by
    show execBarrierObjectRmw c s = _
    unfold execBarrierObjectRmw
    rw [happens_of _ (by rw [hnext]; rfl)]
    simp only [hnext]
    rfl
  rw [hexec]
  unfold State.objectOp
  simp only [taken_objectWords, bit_top (BitVec.isLt _), bits_half]
  rfl

/-! ## What each operation gives -/

theorem onlyObject_objectAfter {c : Nat} {o : ObjOp} (h : onlyObject c o s v) (pend : Nat) (bytes : Int) : onlyObject c o s (objectAfter s c o v pend bytes) := by
  unfold objectAfter
  split
  · exact onlyObject_scratchWrite h _
  · exact onlyObject_scratchWrite h _

/-- An object after an operation that may turn its phase. -/
def objectTurned (s u : State) (c : Nat) (o : ObjOp) (p : Nat) (b : Int) : Prop :=
  if p = 0 ∧ b = 0 then objectIs u c o.addr (!objPhase s c o) (objCount s c o) 0 (objCount s c o) (objGen s c o + 1)
  else objectIs u c o.addr (objPhase s c o) p b (objCount s c o) (objGen s c o)

theorem objectTurned_objectAfter (s : State) (c : Nat) (o : ObjOp) (v : State) (pend : Nat) (bytes : Int) :
    objectTurned s (objectAfter s c o v pend bytes) c o pend bytes := by
  unfold objectTurned objectAfter
  by_cases h : pend = 0 ∧ bytes = 0
  · rw [if_pos h, if_pos (by simpa using h)]
    exact objectIs_writeObject ..
  · rw [if_neg h, if_neg (by simpa using h)]
    exact objectIs_writeObject ..

theorem askerTold_thread (o : ObjOp) (v : State) (w : Word) :
    (askerTold o v w).thread o.tid = if (v.thread o.tid).live then (v.thread o.tid).sendY v.clk o w else v.thread o.tid := State.thread_modThread ..

theorem askerRefused_thread (o : ObjOp) (v : State) : (askerRefused o v).thread o.tid
    = if (v.thread o.tid).live then (v.thread o.tid).pend { cause := 2, tval := o.v, telem := 0 } else v.thread o.tid := State.thread_modThread ..

/-- A state in which the thread of an operation can be told as much as in another. -/
def asksAlike (s v : State) (o : ObjOp) : Prop := v.clk = s.clk ∧ (v.thread o.tid).live = (s.thread o.tid).live
  ∧ (v.thread o.tid).aside = (s.thread o.tid).aside ∧ (v.thread o.tid).fills = (s.thread o.tid).fills
  ∧ (v.thread o.tid).pending = (s.thread o.tid).pending

theorem asksAlike_of_onlyObject {c : Nat} {o : ObjOp} (h : onlyObject c o s v) (hthread : v.thread o.tid = s.thread o.tid) : asksAlike s v o := by
  refine ⟨by rw [h.1], ?_⟩
  rw [hthread]
  exact ⟨rfl, rfl, rfl, rfl⟩

theorem answered_askerTold {o : ObjOp} (h : asksAlike s v o) (w : Word) : answered s o w (askerTold o v w) := by
  obtain ⟨hclk, hlive, haside, hfills, -⟩ := h
  intro hl ha
  rw [askerTold_thread, if_pos (hlive.trans hl), Thread.sendY, haside.trans ha, ← hclk, ← hfills]

theorem refusedAt_askerRefused {o : ObjOp} (h : asksAlike s v o) : refusedAt s o (askerRefused o v) := by
  obtain ⟨-, hlive, -, -, hpending⟩ := h
  intro hl
  rw [askerRefused_thread, if_pos (hlive.trans hl), ← hpending]
  rfl

theorem sendY_frame (th : Thread) (clk : Nat) (o : ObjOp) (w : Word) : ∃ fills aside, th.sendY clk o w = { th with fills := fills, aside := aside } := by
  unfold Thread.sendY
  extract_lets f
  split
  · split
    · exact ⟨th.fills, _, rfl⟩
    · exact ⟨_, th.aside, rfl⟩
  · exact ⟨_, th.aside, rfl⟩

/-- A thread that is told has otherwise what it had. -/
theorem askerTold_frame (o : ObjOp) (v : State) (w : Word) :
    ∃ fills aside, (askerTold o v w).thread o.tid = { v.thread o.tid with fills := fills, aside := aside } := by
  rw [askerTold_thread]
  split
  · exact sendY_frame ..
  · exact ⟨(v.thread o.tid).fills, (v.thread o.tid).aside, rfl⟩

/-- An operation that is refused is answered all the same. -/
theorem refused_answered {o : ObjOp} (h : asksAlike s v o) (w : Word) :
    refusedAt s o (askerRefused o (askerTold o v w)) ∧ answered s o w (askerRefused o (askerTold o v w)) := by
  have hanswered := answered_askerTold h w
  obtain ⟨-, hlive, -, -, hpending⟩ := h
  obtain ⟨fills, aside, hthread⟩ := askerTold_frame o v w
  have hlive' : ((askerTold o v w).thread o.tid).live = (s.thread o.tid).live := by
    rw [hthread]
    exact hlive
  have hpending' : ((askerTold o v w).thread o.tid).pending = (s.thread o.tid).pending := by
    rw [hthread]
    exact hpending
  refine ⟨fun hl => ?_, fun hl ha => ?_⟩
  · rw [askerRefused_thread, if_pos (hlive'.trans hl), ← hpending']
    rfl
  · rw [askerRefused_thread, if_pos (hlive'.trans hl)]
    exact hanswered hl ha

/-! ## An acquire that an operation makes (06 R128) -/

theorem joinAcquire_asksAlike (v : State) (o : ObjOp) (scope : Nat) : asksAlike v (v.joinAcquire o.tid scope) o := by
  refine ⟨by rw [(joinAcquire_only v o.tid scope).1], ?_⟩
  unfold State.joinAcquire
  by_cases h : acquiresAtOnce v o.tid scope
  · rw [makeAcquire_atOnce h]
    obtain ⟨-, -, seen, rel, hthread⟩ := acquireFrom_frame v o.tid (v.thread o.tid).seq scope
    have hthread : (v.acquire o.tid scope).thread o.tid = _ := hthread
    rw [hthread]
    exact ⟨rfl, rfl, rfl, rfl⟩
  · rw [makeAcquire_pends h, acquireAdded, State.thread_modThread]
    exact ⟨rfl, rfl, rfl, rfl⟩

theorem taken_atOnce (s : State) (c : Nat) (o : ObjOp) (t : Tid) (scope : Nat) : acquiresAtOnce (taken s c o) t scope ↔ acquiresAtOnce s t scope := by
  have hatoms : ((taken s c o).core t.core).atoms = (s.core t.core).atoms := taken_keeps Core.atoms (fun _ _ => rfl) s c t.core o
  have hstores : ((taken s c o).core t.core).stores = (s.core t.core).stores := taken_keeps Core.stores (fun _ _ => rfl) s c t.core o
  have hready : ∀ seq upto, (taken s c o).acquireReady t seq scope upto = s.acquireReady t seq scope upto := by
    intro seq upto
    unfold State.acquireReady State.readsFixed State.writesOut
    simp only [hatoms, hstores]
    rfl
  unfold acquiresAtOnce
  rw [hready]
  rfl

/-- What an acquire makes of a thread and its core, in a state of which its answer is not part. -/
theorem acquire_of_taken {c : Nat} {o : ObjOp} (scope : Nat) (w : Word) :
    let u := askerTold o ((taken s c o).joinAcquire o.tid scope) w
    (acquiresAtOnce s o.tid scope → acquireMade s o.tid scope u)
      ∧ (¬acquiresAtOnce s o.tid scope → acquireHeld s o.tid scope false u) := by
  intro u
  obtain ⟨fills, aside, hthread⟩ := askerTold_frame o ((taken s c o).joinAcquire o.tid scope) w
  have hseen : (u.thread o.tid).seen = (((taken s c o).joinAcquire o.tid scope).thread o.tid).seen := by
    unfold u
    rw [hthread]
  have hacqs : (u.thread o.tid).acqs = (((taken s c o).joinAcquire o.tid scope).thread o.tid).acqs := by
    unfold u
    rw [hthread]
  have honce := taken_atOnce s c o o.tid scope
  have hl1 : ((taken s c o).core o.tid.core).l1 = (s.core o.tid.core).l1 := taken_keeps Core.l1 (fun _ _ => rfl) s c o.tid.core o
  refine ⟨fun h => ?_, fun h => ?_⟩
  · have hjoined : (taken s c o).joinAcquire o.tid scope = (taken s c o).acquire o.tid scope := by rw [State.joinAcquire, makeAcquire_atOnce (honce.mpr h)]
    obtain ⟨-, ⟨hfloor, hdropped⟩, -⟩ := acquireFrom_frame (taken s c o) o.tid ((taken s c o).thread o.tid).seq scope
    rw [hjoined] at hseen
    refine ⟨fun hscope e he hlocal => ?_, ?_⟩
    · rw [hseen]
      exact hfloor hscope e he hlocal
    · show (((taken s c o).joinAcquire o.tid scope).core o.tid.core).l1 = _
      rw [hjoined, ← hl1]
      exact hdropped
  · have hjoined : (taken s c o).joinAcquire o.tid scope = acquireAdded (taken s c o) o.tid scope false := by
      rw [State.joinAcquire, makeAcquire_pends fun hyes => h (honce.mp hyes)]
    refine hacqs.trans ?_
    rw [hjoined]
    exact (acquireAdded_thread (taken s c o) o.tid scope false).2

/-- What a core has beside its L1 stays. -/
theorem onlyThreadAndL1_core {t : Tid} (h : onlyThreadAndL1 t s u) {α : Type} (f : Core → α) (hf : ∀ x l, f { x with l1 := l } = f x) (d : Nat) :
    f (u.core d) = f (s.core d) := by
  obtain ⟨-, -, hcores, hcore⟩ := h
  by_cases hd : d = t.core
  · subst hd
    rw [hcore, hf]
  · rw [hcores d hd]

theorem barrierObjectRmw_acquires (c : Nat) (o : ObjOp) : brings (.barrierObjectRmw c)
    (fun s => s.nextObject c = some o ∧ o.kind = 4 ∧ objPhase s c o ≠ o.v.getLsbD 0)
    fun s u => u = { s with cores := u.cores, threads := u.threads } ∧ (∀ k : Tid, k.key ≠ o.tid.key → u.thread k = s.thread k)
      ∧ (∀ a, u.scratchByte c a = s.scratchByte c a) ∧ (u.core c).objq = (s.core c).objq.erase o ∧ answered s o 1#32 u
      ∧ (acquiresAtOnce s o.tid (s.scopeOfOp o c) → acquireMade s o.tid (s.scopeOfOp o c) u)
      ∧ (¬acquiresAtOnce s o.tid (s.scopeOfOp o c) → acquireHeld s o.tid (s.scopeOfOp o c) false u) := by
  intro s ⟨hnext, hkind, hphase⟩
  refine ⟨_, barrierObjectRmw_exec hnext, ?_⟩
  simp only [hkind]
  rw [if_pos (bne_iff_ne.mpr hphase)]
  obtain ⟨hframe, hthreads, hcores, hcore⟩ := joinAcquire_only (taken s c o) o.tid (s.scopeOfOp o c)
  have halike : asksAlike s ((taken s c o).joinAcquire o.tid (s.scopeOfOp o c)) o := joinAcquire_asksAlike (taken s c o) o (s.scopeOfOp o c)
  have hkept : ∀ {α : Type} (f : Core → α), (∀ x l, f { x with l1 := l } = f x) →
      f (((taken s c o).joinAcquire o.tid (s.scopeOfOp o c)).core c) = f ((taken s c o).core c) := by
    exact fun f hf => onlyThreadAndL1_core ⟨hframe, hthreads, hcores, hcore⟩ f hf c
  refine ⟨?_, fun k hk => (State.thread_modThread_other _ _ hk).trans (hthreads k hk), fun a => ?_, ?_, answered_askerTold halike 1#32,
    acquire_of_taken (s.scopeOfOp o c) 1#32⟩
  · rw [askerTold, hframe]
    rfl
  · exact (congrArg (memGet · a) (hkept Core.scratch fun _ _ => rfl)).trans (taken_scratchByte s c o c a)
  · exact (hkept Core.objq fun _ _ => rfl).trans (congrArg Core.objq (taken_core s c o))

theorem barrierObjectRmw_arrives (c : Nat) (o : ObjOp) : brings (.barrierObjectRmw c)
    (fun s => s.nextObject c = some o ∧ o.kind = 2 ∧ o.v.toNat ≤ objPend s c o)
    fun s u => onlyObject c o s u ∧ objectTurned s u c o (objPend s c o - o.v.toNat) (objBytes s c o)
      ∧ answered s o (BitVec.ofNat 32 (objPhase s c o).toNat) u := by
  intro s ⟨hnext, hkind, hle⟩
  refine ⟨_, barrierObjectRmw_exec hnext, ?_⟩
  simp only [hkind]
  rw [if_neg (Nat.not_lt.mpr hle)]
  have hafter := onlyObject_objectAfter (taken_onlyObject s c o) (objPend s c o - o.v.toNat) (objBytes s c o)
  have hthread : (objectAfter s c o (taken s c o) (objPend s c o - o.v.toNat) (objBytes s c o)).thread o.tid = s.thread o.tid := by
    unfold objectAfter
    split <;> rfl
  exact ⟨onlyObject_modThread hafter _, objectTurned_objectAfter s c o (taken s c o) _ _, answered_askerTold (asksAlike_of_onlyObject hafter hthread) _⟩

theorem barrierObjectRmw_overruns (c : Nat) (o : ObjOp) : brings (.barrierObjectRmw c)
    (fun s => s.nextObject c = some o ∧ o.kind = 2 ∧ objPend s c o < o.v.toNat)
    fun s u => onlyObject c o s u ∧ (∀ a, u.scratchByte c a = s.scratchByte c a) ∧ refusedAt s o u
      ∧ answered s o (BitVec.ofNat 32 (2 ^ 31 + (objPhase s c o).toNat)) u := by
  intro s ⟨hnext, hkind, hlt⟩
  refine ⟨_, barrierObjectRmw_exec hnext, ?_⟩
  simp only [hkind]
  rw [if_pos hlt]
  exact ⟨onlyObject_modThread (onlyObject_modThread (taken_onlyObject s c o) _) _, taken_scratchByte s c o c,
    refused_answered (asksAlike_of_onlyObject (taken_onlyObject s c o) rfl) _⟩

theorem barrierObjectRmw_expects (c : Nat) (o : ObjOp) :
    brings (.barrierObjectRmw c) (fun s => s.nextObject c = some o ∧ o.kind = 1 ∧ objBytes s c o + o.v.toNat ≤ 2 ^ 31 - 1)
      (fun s u => onlyObject c o s u ∧ objectTurned s u c o (objPend s c o) (objBytes s c o + o.v.toNat))
    ∧ brings (.barrierObjectRmw c) (fun s => s.nextObject c = some o ∧ o.kind = 1 ∧ 2 ^ 31 - 1 < objBytes s c o + o.v.toNat)
      (fun s u => onlyObject c o s u ∧ (∀ a, u.scratchByte c a = s.scratchByte c a) ∧ refusedAt s o u) := by
  refine ⟨fun s ⟨hnext, hkind, hle⟩ => ⟨_, barrierObjectRmw_exec hnext, ?_⟩, fun s ⟨hnext, hkind, hlt⟩ => ⟨_, barrierObjectRmw_exec hnext, ?_⟩⟩
  · simp only [hkind]
    rw [if_neg (Int.not_lt.mpr hle)]
    exact ⟨onlyObject_objectAfter (taken_onlyObject s c o) _ _, objectTurned_objectAfter s c o (taken s c o) _ _⟩
  · simp only [hkind]
    rw [if_pos hlt]
    exact ⟨onlyObject_modThread (taken_onlyObject s c o) _, taken_scratchByte s c o c,
      refusedAt_askerRefused (asksAlike_of_onlyObject (taken_onlyObject s c o) rfl)⟩

theorem barrierObjectRmw_begins (c : Nat) (o : ObjOp) : brings (.barrierObjectRmw c) (fun s => s.nextObject c = some o ∧ o.kind = 0)
    fun s u => onlyObject c o s u ∧ objectIs u c o.addr false o.v.toNat 0 o.v.toNat 0 := by
  intro s ⟨hnext, hkind⟩
  refine ⟨_, barrierObjectRmw_exec hnext, ?_⟩
  simp only [hkind]
  exact ⟨onlyObject_scratchWrite (taken_onlyObject s c o) _, objectIs_writeObject ..⟩

theorem barrierObjectRmw_brought (c : Nat) (o : ObjOp) : brings (.barrierObjectRmw c) (fun s => s.nextObject c = some o ∧ o.kind = 3)
    fun s u => onlyObject c o s u ∧ objectTurned s u c o (objPend s c o) (objBytes s c o - o.v.toNat) := by
  intro s ⟨hnext, hkind⟩
  refine ⟨_, barrierObjectRmw_exec hnext, ?_⟩
  simp only [hkind]
  exact ⟨onlyObject_objectAfter (taken_onlyObject s c o) _ _, objectTurned_objectAfter s c o (taken s c o) _ _⟩

theorem barrierObjectRmw_waits (c : Nat) (o : ObjOp) : brings (.barrierObjectRmw c)
    (fun s => s.nextObject c = some o ∧ o.kind = 4 ∧ objPhase s c o = o.v.getLsbD 0)
    fun s u => onlyObject c o s u ∧ (∀ a, u.scratchByte c a = s.scratchByte c a) ∧ answered s o 0#32 u := by
  intro s ⟨hnext, hkind, hphase⟩
  refine ⟨_, barrierObjectRmw_exec hnext, ?_⟩
  simp only [hkind]
  rw [if_neg (by simpa using hphase)]
  exact ⟨onlyObject_modThread (taken_onlyObject s c o) _, taken_scratchByte s c o c,
    answered_askerTold (asksAlike_of_onlyObject (taken_onlyObject s c o) rfl) _⟩

end Sys2Proof.Claim

open Sys2Proof Sys2Proof.Claim

/-- Settles O51: waits by what an acquire does at once and what it leaves pending, objects by their operation with the words that are
written read back. -/
theorem waitsEnd : Obligations.WaitsEnd := by
  unfold Obligations.WaitsEnd
  exact ⟨barrierRestart_barrier, barrierRestart_sync, barrierRestart_object, fenceDone_brings, watchdogExpiry_pends, watchdogExpiry_ends,
    fun c o => ⟨barrierObjectRmw_begins c o, (barrierObjectRmw_expects c o).1, (barrierObjectRmw_expects c o).2, barrierObjectRmw_arrives c o,
      barrierObjectRmw_overruns c o, barrierObjectRmw_brought c o, barrierObjectRmw_waits c o, barrierObjectRmw_acquires c o⟩⟩

end

section
/-! SUPPORT. Quad caches and homes: what each message and each walk does, and the obligation of coherence. -/

open Sys2Proof.Machine

namespace Sys2Proof.Claim

variable {s u v : State}

/-! ## Lines of a quad cache -/

theorem lineBecomes_modQLine (s : State) (q key : Nat) (f : QLine → QLine) : lineBecomes q key s (s.modQLine q key f) (f (s.qline q key)) := by
  obtain ⟨honly, hquad⟩ := onlyQuad_modQuad s q fun x => { x with lines := Tab.set QLine.empty x.lines key (f (s.qline q key)) }
  have hline : ∀ k, (s.modQLine q key f).qline q k = Tab.get QLine.empty (Tab.set QLine.empty (s.quad q).lines key (f (s.qline q key))) k :=
    fun k => congrArg (fun x : Quad => Tab.get QLine.empty x.lines k) hquad
  exact ⟨honly, (hline key).trans (Tab.get_set_self _ _ _ _), fun k hk => (hline k).trans (Tab.get_set_other _ _ _ hk)⟩

theorem onlyQuad_trans {q : Nat} {u v w : State} (huv : onlyQuad q u v) (hvw : onlyQuad q v w) : onlyQuad q u w := by
  obtain ⟨hv, hvquads⟩ := huv
  obtain ⟨hw, hwquads⟩ := hvw
  exact ⟨by rw [hw, hv], fun d hd => (hwquads d hd).trans (hvquads d hd)⟩

/-- A quad cache that wakes has the lines that it had. -/
theorem wake_lines (s : State) (q : Nat) : onlyQuad q s (s.wake q) ∧ ∀ k, (s.wake q).qline q k = s.qline q k := by
  unfold State.wake
  split
  · obtain ⟨honly, hquad⟩ := onlyQuad_modQuad s q fun x => { x with asleep := false }
    have hlines : ((s.modQuad q fun x => { x with asleep := false }).quad q).lines = (s.quad q).lines := by rw [hquad]
    exact ⟨honly, fun k => congrArg (Tab.get QLine.empty · k) hlines⟩
  · exact ⟨⟨rfl, fun _ _ => rfl⟩, fun _ => rfl⟩

/-- An event whose guard holds, and whose effect is known. -/
theorem occurs_of_happens {e : Instr} {may : State → Bool} {effect : State → State} {ok : State → Prop} {after : State → State}
    (hexec : ∀ s, exec e s = s.happens may effect) (hok : ∀ s, ok s → may s = true ∧ effect s = after s) : occurs e ok after :=
  fun s hs => by rw [hexec, happens_of _ (hok s hs).1, (hok s hs).2]

/-! ## What a quad cache asks for (14 R264 to R272) -/

theorem publication_does (q key : Nat) (s : State) (hmay : s.mayPublish q key = true) :
    let x := s.qline q key
    let d := s.dirKey x.fn key
    let path := s.writePath (s.slotOf x.fn (keyAddr key))
    (path = 0 → x.state = 2 → exec (.publication q key) s = .next (s.mergeOwned q key))
      ∧ (path = 0 → x.state ≠ 2 → ∃ u, exec (.publication q key) s = .next u
          ∧ lineBecomes q d s u { s.qline q d with fn := x.fn, want := if (s.qline q d).state = 1 then 3 else 2 })
      ∧ (path ≠ 0 → ∃ u, exec (.publication q key) s = .next u ∧ lineBecomes q key s u { x with want := 6 }) := by
  intro x d path
  have hexec : exec (.publication q key) s = .next (match path with
      | 0 => if x.state = 2 then s.mergeOwned q key
        else s.modQLine q d fun y => { y with fn := x.fn, want := if y.state = 1 then 3 else 2 }
      | _ => s.modQLine q key fun y => { y with want := 6 }) := by
    show execPublication q key s = _
    unfold execPublication
    exact happens_of _ hmay
  clear_value path
  cases path with
  | zero =>
    refine ⟨fun _ hstate => ?_, fun _ hstate => ⟨_, hexec, ?_⟩, fun hpath => absurd rfl hpath⟩
    · rw [hexec]
      simp only [hstate, if_true]
    · simp only [hstate, if_false]
      exact lineBecomes_modQLine s q d _
  | succ p =>
    exact ⟨fun hpath => absurd hpath (Nat.succ_ne_zero p), fun hpath => absurd hpath (Nat.succ_ne_zero p),
      fun _ => ⟨_, hexec, lineBecomes_modQLine s q key _⟩⟩

theorem gets_occurs (q key : Nat) (n : Need) (leaf : Leaf) (v : State) : occurs (.gets q key)
    (fun s => s.getsNeed q key = some n ∧ s.ask n.fn n.addr n.access n.who = (v, .go leaf))
    fun _ => (v.sendRequest q n.fn (v.dirKey n.fn key) (if v.slotOf n.fn n.addr = 2 then 1 else 0) []).modQLine q key
      fun x => { x with hint := n.hint } := by
  intro s ⟨hneed, hask⟩
  show execGets q key s = _
  unfold execGets
  rw [happens_of _ (by rw [hneed]; rfl)]
  simp only [hneed, hask]
  rfl

theorem own_exec {q key : Nat} {shared : Bool} {n : Need} (hneed : s.ownNeed q key shared = some n) :
    exec (if shared then .upg q key else .getm q key) s = .next (s.requestOwner q key shared) := by
  cases shared
  · show execGetm q key s = _
    unfold execGetm
    rw [happens_of _ (by rw [hneed]; rfl)]
  · show execUpg q key s = _
    unfold execUpg
    rw [happens_of _ (by rw [hneed]; rfl)]

theorem own_publishes (q key : Nat) (shared : Bool) (n : Need) (leaf : Leaf) : occurs (if shared then .upg q key else .getm q key)
    (fun s => s.ownNeed q key shared = some n ∧ n.access = 7 ∧ s.translate n.fn n.addr 7 = .ok leaf)
    fun s => s.sendRequest q n.fn (s.dirKey n.fn key) (if shared then 2 else 1) [] := by
  intro s ⟨hneed, haccess, htranslate⟩
  rw [own_exec hneed, State.requestOwner]
  simp only [hneed, haccess, if_true, htranslate]

theorem own_asks (q key : Nat) (shared : Bool) (n : Need) (leaf : Leaf) (v : State) : occurs (if shared then .upg q key else .getm q key)
    (fun s => s.ownNeed q key shared = some n ∧ n.access ≠ 7 ∧ s.ask n.fn n.addr n.access n.who = (v, .go leaf))
    fun s => v.sendRequest q n.fn (s.dirKey n.fn key) (if shared then 2 else 1) [] := by
  intro s ⟨hneed, haccess, hask⟩
  rw [own_exec hneed, State.requestOwner]
  simp only [hneed, haccess, if_false, hask]

theorem puts_occurs (q key : Nat) : occurs (.puts q key) (fun s => s.mayEvict q key 1 = true)
    fun s => (s.dropCoherent q (s.qline q key).fn key).sendRequest q (s.qline q key).fn key 3 [] :=
  occurs_of_happens (fun _ => rfl) fun _ hmay => ⟨hmay, rfl⟩

theorem putm_occurs (q key : Nat) : occurs (.putm q key) (fun s => s.mayEvict q key 2 = true)
    fun s => (s.dropCoherent q (s.qline q key).fn key).sendRequest q (s.qline q key).fn key 4 (s.heldBytes q (s.qline q key).fn key) :=
  occurs_of_happens (fun _ => rfl) fun _ hmay => ⟨hmay, rfl⟩

theorem pub_does (q key : Nat) (leaf : Leaf) (s : State) (hmay : s.pubMay q key = true)
    (htranslate : s.translate (s.qline q key).fn (keyAddr key) 7 = .ok leaf) :
    let x := s.qline q key
    ∃ w : State, lineBecomes q key s w { x with want := 6, locked := true }
      ∧ exec (.pub q key) s = .next (w.atHome (w.homeOf x.fn (keyAddr key)) (w.dirKey x.fn key)
          { w.quadReq 5 x.fn q (x.localCells key) with addr := keyAddr key, heal := x.heal }) := by
  intro x
  obtain ⟨hwake, hlines⟩ := wake_lines s q
  obtain ⟨honly, hline, hothers⟩ := lineBecomes_modQLine (s.wake q) q key fun x => { x with want := 6, locked := true }
  refine ⟨_, ⟨onlyQuad_trans hwake honly, ?_, fun k hk => (hothers k hk).trans (hlines k)⟩, ?_⟩
  · rw [hline, hlines]
  · show execPub q key s = _
    unfold execPub
    rw [happens_of _ hmay, State.sendPub]
    simp only [htranslate]
    rfl

/-! ## The end of a walk, and an owner's answer -/

theorem endWalk_exec {die key : Nat} {d : DirEntry} {w : Walk} (hdir : s.dirAt key = some (die, d)) (hwalk : d.walk = some w) (hdone : w.done = true) :
    exec (.wack key) s = .next (s.endWalk key) := by
  have hmay : s.wackMay key = true := by simp [State.wackMay, hdir, hwalk, hdone]
  show execWack key s = _
  unfold execWack
  rw [happens_of _ hmay]

theorem wack_updates (key die : Nat) (d : DirEntry) (w : Walk) : occurs (.wack key)
    (fun s => (s.dirAt key = some (die, d) ∧ d.walk = some w ∧ w.done = true) ∧ w.kind = 1)
    fun s => (((s.modDir die key fun e => { e with walk := none }).updatePassed (d.updates key)).endRed w.req).atHome die key
      { w.req with kind := 6, who := 66 } := by
  intro s ⟨⟨hdir, hwalk, hdone⟩, hkind⟩
  rw [endWalk_exec hdir hwalk hdone, State.endWalk]
  simp [hdir, hwalk, hkind]

theorem wack_publishes (key die : Nat) (d : DirEntry) (w : Walk) : occurs (.wack key)
    (fun s => (s.dirAt key = some (die, d) ∧ d.walk = some w ∧ w.done = true) ∧ w.kind = 0 ∧ w.req.kind = 5)
    fun s => ((s.modDir die key fun e => { e with walk := none, head := none }).writeArriving w.req).atHome die key
      { w.req with kind := 6, who := 66 } := by
  intro s ⟨⟨hdir, hwalk, hdone⟩, hkind, hreq⟩
  rw [endWalk_exec hdir hwalk hdone, State.endWalk]
  simp [hdir, hwalk, hkind, hreq]

theorem wack_invalidates (key die : Nat) (d : DirEntry) (w : Walk) : occurs (.wack key)
    (fun s => (s.dirAt key = some (die, d) ∧ d.walk = some w ∧ w.done = true) ∧ w.kind = 0 ∧ w.req.kind ≠ 2 ∧ w.req.kind ≠ 5)
    fun s => (s.modDir die key fun e => { e with walk := none, head := none }).atHome die key { w.req with kind := 6, who := 66 } := by
  intro s ⟨⟨hdir, hwalk, hdone⟩, hkind, hreq, hpub⟩
  rw [endWalk_exec hdir hwalk hdone, State.endWalk]
  simp [hdir, hwalk, hkind, hreq, hpub]

theorem wack_upgrades (key die : Nat) (d : DirEntry) (w : Walk) : occurs (.wack key)
    (fun s => (s.dirAt key = some (die, d) ∧ d.walk = some w ∧ w.done = true) ∧ w.kind = 0 ∧ w.req.kind = 2)
    fun s => ((s.modDir die key fun e => { e with walk := none, head := some w.req.who }).modQLine w.req.who key
      fun x => { x with fwd := 64, bwd := 64 }).atHome die key { w.req with kind := 6, who := 66 } := by
  intro s ⟨⟨hdir, hwalk, hdone⟩, hkind, hreq⟩
  rw [endWalk_exec hdir hwalk hdone, State.endWalk]
  simp [hdir, hwalk, hkind, hreq]

theorem dataAnswer_occurs (key die o : Nat) (d : DirEntry) (got : List (Nat × Byte)) : occurs (.dataAnswer key)
    (fun s => s.dirAt key = some (die, d) ∧ d.owner = some o ∧ d.answer = some got)
    fun s => s.atHome die key (s.quadReq 7 (s.qline o key).fn o got) := by
  intro s ⟨hdir, howner, hanswer⟩
  have hmay : s.dataMay key = true := by simp [State.dataMay, hdir, howner, hanswer]
  show execDataAnswer key s = _
  unfold execDataAnswer
  rw [happens_of _ hmay, State.ownerAnswers]
  simp only [hdir, howner, hanswer]
  rfl

/-! ## Tokens (14 R277, R278) -/

/-- What the token's home notes of a range. -/
theorem setToken_frame (s : State) (rid : Nat) (x : Nat × Nat) : s.setToken rid x = { s with dies := (s.setToken rid x).dies }
    ∧ (s.setToken rid x).tokenOf rid = x
    ∧ ((s.setToken rid x).die (rangeOfId s rid).die).tokenQ = (s.die (rangeOfId s rid).die).tokenQ := by
  have hdie : (s.setToken rid x).die (rangeOfId s rid).die
      = { s.die (rangeOfId s rid).die with token := Tab.set (8, 64) (s.die (rangeOfId s rid).die).token rid x } := Tab.get_set_self _ _ _ _
  refine ⟨rfl, (congrArg (fun y : Die => Tab.get (8, 64) y.token rid) hdie).trans (Tab.get_set_self _ _ _ _), by rw [hdie]⟩

/-- A change of those that wait at a die for tokens. -/
def tokenQueue (d : Nat) (f : List (Nat × Nat) → List (Nat × Nat)) (s : State) : State := s.modDie d fun x => { x with tokenQ := f x.tokenQ }

theorem tokenQueue_frame (s : State) (rid : Nat) (f : List (Nat × Nat) → List (Nat × Nat)) :
    tokenQueue (rangeOfId s rid).die f s = { s with dies := (tokenQueue (rangeOfId s rid).die f s).dies }
      ∧ (tokenQueue (rangeOfId s rid).die f s).tokenOf rid = s.tokenOf rid
      ∧ ((tokenQueue (rangeOfId s rid).die f s).die (rangeOfId s rid).die).tokenQ = f (s.die (rangeOfId s rid).die).tokenQ := by
  have hdie : (tokenQueue (rangeOfId s rid).die f s).die (rangeOfId s rid).die
      = { s.die (rangeOfId s rid).die with tokenQ := f (s.die (rangeOfId s rid).die).tokenQ } := Tab.get_set_self _ _ _ _
  have htoken : ((tokenQueue (rangeOfId s rid).die f s).die (rangeOfId s rid).die).token = (s.die (rangeOfId s rid).die).token := by rw [hdie]
  exact ⟨rfl, congrArg (Tab.get (8, 64) · rid) htoken, by rw [hdie]⟩

/-- What the home's table says of a range's token that is asked for. -/
def tokenEntry (s : State) (rid : Nat) : Entry := s.entry (rangeOfId s rid).slot (s.tokenOf rid).1 10

/-- The home asks the token's holder to drain, where its table says so. -/
def drainAsked (s : State) (rid : Nat) : State :=
  if (tokenEntry s rid).acts.contains 16 then s.setToken rid ((tokenEntry s rid).next, (s.tokenOf rid).2) else s

theorem treq_exec {q rid : Nat} (hwants : s.wantsToken q rid = true) : exec (.treq q rid) s = .next
    (if (tokenEntry s rid).acts.contains 15 then s.setToken rid ((tokenEntry s rid).next, q)
      else tokenQueue (rangeOfId s rid).die (· ++ [(rid, q)]) (drainAsked s rid)) := by
  show execTreq q rid s = _
  unfold execTreq
  rw [happens_of _ hwants]
  rfl

theorem treq_grants (q rid : Nat) : occurs (.treq q rid) (fun s => s.wantsToken q rid = true ∧ 15 ∈ (tokenEntry s rid).acts)
    fun s => s.setToken rid ((tokenEntry s rid).next, q) := by
  intro s ⟨hwants, hact⟩
  rw [treq_exec hwants, if_pos (List.contains_iff_mem.mpr hact)]

theorem drainAsked_frame (s : State) (rid : Nat) : drainAsked s rid = { s with dies := (drainAsked s rid).dies }
    ∧ ((drainAsked s rid).die (rangeOfId s rid).die).tokenQ = (s.die (rangeOfId s rid).die).tokenQ
    ∧ (drainAsked s rid).tokenOf rid = if 16 ∈ (tokenEntry s rid).acts then ((tokenEntry s rid).next, (s.tokenOf rid).2) else s.tokenOf rid := by
  unfold drainAsked
  simp only [List.contains_iff_mem]
  split
  · obtain ⟨hframe, htoken, hq⟩ := setToken_frame s rid ((tokenEntry s rid).next, (s.tokenOf rid).2)
    exact ⟨hframe, hq, htoken⟩
  · exact ⟨rfl, rfl, rfl⟩

theorem treq_queues (q rid : Nat) : brings (.treq q rid) (fun s => s.wantsToken q rid = true ∧ 15 ∉ (tokenEntry s rid).acts)
    fun s u => u = { s with dies := u.dies }
      ∧ (u.die (rangeOfId s rid).die).tokenQ = (s.die (rangeOfId s rid).die).tokenQ ++ [(rid, q)]
      ∧ u.tokenOf rid = if 16 ∈ (tokenEntry s rid).acts then ((tokenEntry s rid).next, (s.tokenOf rid).2) else s.tokenOf rid := by
  intro s ⟨hwants, hact⟩
  obtain ⟨hframe, hq, htoken⟩ := drainAsked_frame s rid
  refine ⟨_, treq_exec hwants, ?_⟩
  dsimp -zeta -zetaUnused only
  rw [if_neg fun h => hact (List.contains_iff_mem.mp h)]
  have hrange : rangeOfId (drainAsked s rid) rid = rangeOfId s rid := by
    rw [hframe]
    rfl
  obtain ⟨hframe', htoken', hq'⟩ := tokenQueue_frame (drainAsked s rid) rid (· ++ [(rid, q)])
  rw [hrange] at hframe' htoken' hq'
  refine ⟨?_, by rw [hq', hq], htoken'.trans htoken⟩
  rw [hframe', hframe]

theorem tdone_frees (q rid : Nat) : brings (.tdone q rid)
    (fun s => s.drained q rid = true ∧ ∀ y ∈ (s.die (rangeOfId s rid).die).tokenQ, y.1 ≠ rid)
    fun s u => u = { s with dies := u.dies } ∧ u.tokenOf rid = (8, 64)
      ∧ (u.die (rangeOfId s rid).die).tokenQ = (s.die (rangeOfId s rid).die).tokenQ := by
  refine brings_of_happens (fun _ => rfl) fun s ⟨hdrained, hnone⟩ => ⟨hdrained, ?_⟩
  have hfind : (s.die (s.range (rid / 64) (rid % 64)).die).tokenQ.find? (fun x => x.1 == rid) = none :=
    List.find?_eq_none.mpr fun y hy => by simpa using hnone y hy
  simp only [hfind]
  exact setToken_frame s rid (8, 64)

theorem tdone_hands (q rid : Nat) (y : Nat × Nat) : brings (.tdone q rid)
    (fun s => s.drained q rid = true ∧ (s.die (rangeOfId s rid).die).tokenQ.find? (fun z => z.1 == rid) = some y)
    fun s u => u = { s with dies := u.dies } ∧ (u.tokenOf rid).2 = y.2
      ∧ (u.die (rangeOfId s rid).die).tokenQ = (s.die (rangeOfId s rid).die).tokenQ.erase y := by
  refine brings_of_happens (fun _ => rfl) fun s ⟨hdrained, hfind⟩ => ⟨hdrained, ?_⟩
  have hfind' : (s.die (s.range (rid / 64) (rid % 64)).die).tokenQ.find? (fun x => x.1 == rid) = some y := hfind
  simp only [hfind']
  obtain ⟨hframe, -, hq⟩ := tokenQueue_frame s rid (·.erase y)
  show (fun u : State => u = { s with dies := u.dies } ∧ (u.tokenOf rid).2 = y.2
      ∧ (u.die (rangeOfId s rid).die).tokenQ = (s.die (rangeOfId s rid).die).tokenQ.erase y)
    (if ((s.die (rangeOfId s rid).die).tokenQ.erase y).any (fun y => y.1 == rid) then
      ((tokenQueue (rangeOfId s rid).die (·.erase y) s).setToken rid _).setToken rid _
    else (tokenQueue (rangeOfId s rid).die (·.erase y) s).setToken rid _)
  generalize tokenQueue (rangeOfId s rid).die (·.erase y) s = v at hframe hq
  have hgiven : ∀ (w : State) (n : Nat), w = { s with dies := w.dies } → (w.die (rangeOfId s rid).die).tokenQ = (s.die (rangeOfId s rid).die).tokenQ.erase y →
      w.setToken rid (n, y.2) = { s with dies := (w.setToken rid (n, y.2)).dies } ∧ ((w.setToken rid (n, y.2)).tokenOf rid).2 = y.2
        ∧ ((w.setToken rid (n, y.2)).die (rangeOfId s rid).die).tokenQ = (s.die (rangeOfId s rid).die).tokenQ.erase y := by
    intro w n hw hwq
    obtain ⟨hgive, htoken, hkept⟩ := setToken_frame w rid (n, y.2)
    have hsame : rangeOfId w rid = rangeOfId s rid := by
      rw [hw]
      rfl
    rw [hsame] at hkept
    exact ⟨by rw [hgive, hw], by rw [htoken], hkept.trans hwq⟩
  obtain ⟨hgive, htoken, hkept⟩ := hgiven v (s.entry (rangeOfId s rid).slot 10 11).next hframe hq
  split
  · exact hgiven _ _ hgive hkept
  · exact ⟨hgive, htoken, hkept⟩

/-- The token's holder publishes a line. -/
def drainLine (q : Nat) (s : State) (k : Nat) : State := if s.mayPublish q k then s.modQLine q k fun x => { x with want := 6 } else s

/-- What a drain leaves of a state, while it goes on. -/
def Draining (s : State) (q : Nat) (u : State) : Prop := u = { s with quads := u.quads } ∧ (u.quad q).lost = (s.quad q).lost
  ∧ ∀ k, u.qline q k = s.qline q k ∨ u.qline q k = { s.qline q k with want := 6 }

theorem modQLine_lost (s : State) (q k : Nat) (f : QLine → QLine) : ((s.modQLine q k f).quad q).lost = (s.quad q).lost := by
  unfold State.modQLine State.setQLine
  rw [(onlyQuad_modQuad s q _).2]

theorem draining_drainLine {q : Nat} (h : Draining s q u) (k : Nat) : Draining s q (drainLine q u k) := by
  obtain ⟨hframe, hlost, hlines⟩ := h
  unfold drainLine
  split
  · obtain ⟨⟨honly, -⟩, hline, hothers⟩ := lineBecomes_modQLine u q k fun x => { x with want := 6 }
    refine ⟨by rw [honly, hframe], (modQLine_lost u q k _).trans hlost, fun j => ?_⟩
    by_cases hj : j = k
    · subst hj
      rw [hline]
      rcases hlines j with h | h
      · rw [h]
        exact .inr rfl
      · rw [h]
        exact .inr rfl
    · rw [hothers j hj]
      exact hlines j
  · exact ⟨hframe, hlost, hlines⟩

/-- A line that the holder may publish is on its way. -/
def lineDrained (s : State) (q k : Nat) (u : State) : Prop :=
  s.mayPublish q k = true → s.dirKey (s.qline q k).fn k = k → (u.qline q k).want = 6

theorem lineDrained_self {q : Nat} (h : Draining s q u) (k : Nat) : lineDrained s q k (drainLine q u k) := by
  obtain ⟨hframe, hlost, hlines⟩ := h
  intro hmay hkey
  unfold drainLine
  split
  · rw [(lineBecomes_modQLine u q k _).2.1]
  · next hnot =>
    rcases hlines k with h | h
    · have hdir : ∀ fn, u.dirKey fn k = s.dirKey fn k := by
        rw [hframe]
        exact fun _ => rfl
      refine absurd ?_ hnot
      unfold State.mayPublish at hmay ⊢
      simp only [hkey] at hmay
      simp only [h, hdir, hkey, hlost]
      exact hmay
    · rw [h]

theorem lineDrained_keep {q k : Nat} (k' : Nat) (h : lineDrained s q k u) : lineDrained s q k (drainLine q u k') := by
  intro hmay hkey
  unfold drainLine
  split
  · obtain ⟨-, hline, hothers⟩ := lineBecomes_modQLine u q k' fun x => { x with want := 6 }
    by_cases hk : k = k'
    · subst hk
      rw [hline]
    · rw [hothers k hk]
      exact h hmay hkey
  · exact h hmay hkey

theorem tokenDrainRequest_brings (rid : Nat) : brings (.tokenDrainRequest rid) (fun s => (s.tokenOf rid).1 = 10)
    fun s u => u = { s with quads := u.quads } ∧ ∀ k ∈ s.localInRange (s.tokenOf rid).2 rid,
      s.mayPublish (s.tokenOf rid).2 k = true → s.dirKey (s.qline (s.tokenOf rid).2 k).fn k = k → (u.qline (s.tokenOf rid).2 k).want = 6 := by
  refine brings_of_happens (fun _ => rfl) fun s hten => ⟨decide_eq_true hten, ?_⟩
  obtain ⟨⟨hframe, -⟩, -, hdone⟩ := foldl_establishes (step := drainLine (s.tokenOf rid).2) (I := Draining s (s.tokenOf rid).2)
    (P := fun k u => lineDrained s (s.tokenOf rid).2 k u) (fun _ k h => draining_drainLine h k) (fun _ k h => lineDrained_self h k)
    (fun _ _ k' _ h => lineDrained_keep k' h) (s.localInRange (s.tokenOf rid).2 rid) (b := s) ⟨rfl, rfl, fun _ => .inl rfl⟩
  exact ⟨hframe, hdone⟩

/-! ## Walks (14 R273 to R275) -/

theorem invalidationWalk_exec {key die : Nat} {w : Walk} (hwalk : s.walkAt key 0 = some (die, w)) : exec (.invalidationWalk key) s = .next
    ((if w.req.kind = 2 && w.req.who = w.at_ then s
      else (s.dropCoherent w.at_ w.req.fn key).modQLine w.at_ key fun x => { x with fwd := 64, bwd := 64 }).passWalk die key (s.qline w.at_ key).fwd) := by
  show execInvalidationWalk key s = _
  unfold execInvalidationWalk
  rw [happens_of _ (by rw [hwalk]; rfl), State.stepInvalidation]
  simp only [hwalk]

theorem invalidationWalk_passes (key die : Nat) (w : Walk) : occurs (.invalidationWalk key)
    (fun s => s.walkAt key 0 = some (die, w) ∧ w.req.kind = 2 ∧ w.req.who = w.at_) fun s => s.passWalk die key (s.qline w.at_ key).fwd := by
  intro s ⟨hwalk, hkind, hwho⟩
  rw [invalidationWalk_exec hwalk, if_pos (by simp [hkind, hwho])]

theorem invalidationWalk_drops (key die : Nat) (w : Walk) : occurs (.invalidationWalk key)
    (fun s => s.walkAt key 0 = some (die, w) ∧ ¬(w.req.kind = 2 ∧ w.req.who = w.at_))
    fun s => ((s.dropCoherent w.at_ w.req.fn key).modQLine w.at_ key fun x => { x with fwd := 64, bwd := 64 }).passWalk die key (s.qline w.at_ key).fwd := by
  intro s ⟨hwalk, hother⟩
  rw [invalidationWalk_exec hwalk, if_neg (by simpa using hother)]

/-- An update at a quad cache that is awake: the copies of the line's group take the bytes. -/
def updateTaken (w : Walk) (key : Nat) (s : State) : State :=
  (s.group w.req.fn key).foldl (fun s k => s.modQLine w.at_ k fun x =>
    if x.state = 0 then x else { x with
      bytes := patch (keyAddr k) w.req.bytes x.bytes
      poison := if w.req.addr = keyAddr k then x.poison &&& ~~~w.req.heal else x.poison }) s

theorem updateWalk_exec {key die : Nat} {w : Walk} (hwalk : s.walkAt key 1 = some (die, w)) : exec (.updateWalk key) s = .next
    ((if w.req.kind = 5 && w.req.who = w.at_ then s
      else if (s.quad w.at_).asleep then
        ((s.dropCoherent w.at_ w.req.fn key).unlink die key w.at_).modQLine w.at_ key fun x => { x with fwd := 64, bwd := 64 }
      else updateTaken w key s).passWalk die key (s.qline w.at_ key).fwd) := by
  show execUpdateWalk key s = _
  unfold execUpdateWalk
  rw [happens_of _ (by rw [hwalk]; rfl), State.stepUpdate]
  simp only [hwalk]
  rfl

theorem updateWalk_passes (key die : Nat) (w : Walk) : occurs (.updateWalk key)
    (fun s => s.walkAt key 1 = some (die, w) ∧ w.req.kind = 5 ∧ w.req.who = w.at_) fun s => s.passWalk die key (s.qline w.at_ key).fwd := by
  intro s ⟨hwalk, hkind, hwho⟩
  rw [updateWalk_exec hwalk, if_pos (by simp [hkind, hwho])]

theorem updateWalk_unlinks (key die : Nat) (w : Walk) : occurs (.updateWalk key)
    (fun s => s.walkAt key 1 = some (die, w) ∧ ¬(w.req.kind = 5 ∧ w.req.who = w.at_) ∧ (s.quad w.at_).asleep = true)
    fun s => (((s.dropCoherent w.at_ w.req.fn key).unlink die key w.at_).modQLine w.at_ key
      fun x => { x with fwd := 64, bwd := 64 }).passWalk die key (s.qline w.at_ key).fwd := by
  intro s ⟨hwalk, hother, hasleep⟩
  rw [updateWalk_exec hwalk, if_neg (by simpa using hother), if_pos hasleep]

theorem updateWalk_updates (key die : Nat) (w : Walk) : occurs (.updateWalk key)
    (fun s => s.walkAt key 1 = some (die, w) ∧ ¬(w.req.kind = 5 ∧ w.req.who = w.at_) ∧ (s.quad w.at_).asleep = false)
    fun s => (updateTaken w key s).passWalk die key (s.qline w.at_ key).fwd := by
  intro s ⟨hwalk, hother, hawake⟩
  rw [updateWalk_exec hwalk, if_neg (by simpa using hother), if_neg (by simp [hawake])]

theorem recall_occurs (key die o : Nat) : occurs (.recall key) (fun s => s.recallAt key 1 = some (die, o)) fun s => s.surrender key die o false := by
  refine occurs_of_happens (fun _ => rfl) fun s hrecall => ⟨by rw [hrecall]; rfl, ?_⟩
  simp only [State.askOwner, hrecall]
  rfl

theorem downgrade_occurs (key die o : Nat) : occurs (.downgrade key) (fun s => s.recallAt key 2 = some (die, o)) fun s => s.surrender key die o true := by
  refine occurs_of_happens (fun _ => rfl) fun s hrecall => ⟨by rw [hrecall]; rfl, ?_⟩
  simp only [State.askOwner, hrecall]
  rfl

/-! ## Grants that arrive (14 R275, 16 R333) -/

theorem unlinkAck_unlinks (q key : Nat) (g : Grant) : brings (.unlinkAck q key)
    (fun s => s.grantFor q key (· = 5) = some g ∧ s.staleGrant g = false)
    fun s u => u = { s with grants := s.grants.erase g, quads := u.quads }
      ∧ u.qline q key = { s.qline q key with want := 0, locked := false, fwd := 64, bwd := 64 }
      ∧ ∀ p k, (p ≠ q ∨ k ≠ key) → u.qline p k = s.qline p k := by
  refine brings_of_happens (fun _ => rfl) fun s ⟨hgrant, hfresh⟩ => ⟨by rw [hgrant]; rfl, ?_⟩
  simp only [hgrant, State.takeUnlink, hfresh, Bool.false_eq_true, if_false]
  obtain ⟨⟨-, hquads⟩, hline, hothers⟩ := lineBecomes_modQLine { s with grants := s.grants.erase g } q key
    fun x => { x with want := 0, locked := false, fwd := 64, bwd := 64 }
  refine ⟨rfl, hline, fun p k hother => ?_⟩
  by_cases hp : p = q
  · subst hp
    exact hothers k (hother.resolve_left fun hne => hne rfl)
  · exact congrArg (fun x : Quad => Tab.get QLine.empty x.lines k) (hquads p hp)

theorem unlinkAck_drops (q key : Nat) (g : Grant) : occurs (.unlinkAck q key) (fun s => s.grantFor q key (· = 5) = some g ∧ s.staleGrant g = true)
    fun s => { s with grants := s.grants.erase g } := by
  refine occurs_of_happens (fun _ => rfl) fun s ⟨hgrant, hstale⟩ => ⟨by rw [hgrant]; rfl, ?_⟩
  simp only [hgrant, State.takeUnlink, hstale, if_true]

theorem lineGrant_taken (q key : Nat) (g : Grant) : occurs (.lineGrant q key) (fun s => s.grantFor q key (· ≠ 5) = some g ∧ s.staleGrant g = false)
    fun s => s.takeGrant q key g := by
  refine occurs_of_happens (fun _ => rfl) fun s ⟨hgrant, _⟩ => ⟨by rw [hgrant]; rfl, ?_⟩
  simp only [hgrant]

theorem lineGrant_drops (q key : Nat) (g : Grant) : occurs (.lineGrant q key) (fun s => s.grantFor q key (· ≠ 5) = some g ∧ s.staleGrant g = true)
    fun s => { s with grants := s.grants.erase g } := by
  refine occurs_of_happens (fun _ => rfl) fun s ⟨hgrant, hstale⟩ => ⟨by rw [hgrant]; rfl, ?_⟩
  simp only [hgrant, State.takeGrant, hstale, if_true]

end Sys2Proof.Claim

open Sys2Proof Sys2Proof.Claim

/-- Settles O58, message by message: each one's guard and its effect, a drain by what every line of its fold keeps. -/
theorem coherenceGoesOn : Obligations.CoherenceGoesOn := by
  unfold Obligations.CoherenceGoesOn
  exact fun q key => ⟨publication_does q key, gets_occurs q key,
    fun shared n leaf v => ⟨own_publishes q key shared n leaf, own_asks q key shared n leaf v⟩, puts_occurs q key, putm_occurs q key,
    pub_does q key,
    fun die d w => ⟨wack_updates key die d w, wack_publishes key die d w, wack_invalidates key die d w, wack_upgrades key die d w⟩,
    dataAnswer_occurs key,
    fun rid => ⟨treq_grants q rid, treq_queues q rid, tdone_frees q rid, tdone_hands q rid, tokenDrainRequest_brings rid⟩,
    fun die w => ⟨invalidationWalk_passes key die w, invalidationWalk_drops key die w, updateWalk_passes key die w, updateWalk_unlinks key die w,
      updateWalk_updates key die w⟩,
    fun die o => ⟨recall_occurs key die o, downgrade_occurs key die o⟩,
    fun g => ⟨unlinkAck_unlinks q key g, lineGrant_taken q key g, unlinkAck_drops q key g, lineGrant_drops q key g⟩⟩

end
